-- ==== Sys2Proof/Word.lean ====
section
/-!
DEFINITION. Words, bytes and the name of a bit field (R5, R6): the plainest types of the model.
-/

namespace Sys2Proof

/-- A control-space register (20_control_space: "a 32-bit address space of 32-bit registers"). -/
abbrev Word := BitVec 32

/-- A byte of memory, of a packet or of a table (R6). -/
abbrev Byte := BitVec 8

/-- A 64-bit value: a kernel word, a timebase count, an FP64 pattern. -/
abbrev Dword := BitVec 64

/-- A bit field [lo + width - 1 : lo] of a register (R5: both ends included, bit 0 least significant). -/
structure Fld where
  lo : Nat
  width : Nat
  deriving DecidableEq, Repr

end Sys2Proof
end

