-- ==== Sys2Proof/Syntax.lean ====
section
/-!
DEFINITION. The commands of the block: one constructor of `Instr` for each row of the opcode table, with the operands that
the row's rule gives it. A host command carries the fields of its packet (17_swite_commands); an event carries what the
world outside the model decides (a frame, a reading, an error found by a check code, a measured condition).
-/

namespace Sys2Proof

/-- The two paths of a Swite packet (R567, R573). -/
inductive Lane where
  | data | mgmt
  deriving DecidableEq, Repr

/-- A command packet's header (R576) without its opcode and parameters. `rsv` says that a reserved bit or byte of the
packet, or an unused parameter byte, is not 0; `auth` says that the packet travelled encrypted under the session and its
tag verified (R543, R544); `len` is `PAYLOAD_LEN`. -/
structure Hdr where
  lane : Lane
  tag : Nat
  ctx : Nat
  prio : Nat
  flags : Nat
  len : Nat
  rsv : Bool
  auth : Bool
  deriving DecidableEq, Repr

/-- What the check codes found in the words an access read (R275, R276): addresses of words that were corrected and of
words that could not be. A number below 2^48 is a word's physical address; from 2^48 on it is 2^48 + 2^32 × range + the
word's number in that range's tile file. -/
structure Ecc where
  corrected : List Nat
  bad : List Nat
  deriving DecidableEq, Repr

/-- An operation row that covers both an instruction's placement by the dispatcher and its execution. -/
inductive Phase where
  | place | run
  deriving DecidableEq, Repr

/-- A Ridge frame (R392): its header and trailer fields and its payload bytes in use. -/
structure Frame where
  typ : Nat
  cls : Nat
  poison : Bool
  stomp : Bool
  hops : Nat
  dest : Nat
  src : Nat
  channel : Nat
  seq : Nat
  msg : Nat
  ackSeq : Nat
  credCls : Nat
  credit : Nat
  payload : List Byte
  deriving DecidableEq, Repr

/-- How a frame was received (R391, R393, R399): how many of its codewords were corrected, whether one was dropped, whether the header and the frame CRC
hold, and whether its tag verified on an encrypted port. -/
structure FrameRx where
  corrected : Nat
  dropped : Bool
  hcrcOk : Bool
  fcrcOk : Bool
  tagOk : Bool
  deriving DecidableEq, Repr

/-- What an identity frame carries (R409). -/
structure Identity where
  serial : Nat
  port : Nat
  compat : Nat
  revMin : Nat
  revMax : Nat
  faddr : Option Nat
  linkTag : Option Nat
  encrypt : Bool
  deriving DecidableEq, Repr

/-- What a peer's key-exchange frame shows (R552, R553): whether its chain verifies to the Rolael root, whether its
signature verifies, its serial, whether the peer is TRUSTED, and its owner key digest. -/
structure KeyEx where
  chainOk : Bool
  sigOk : Bool
  serial : Nat
  trusted : Bool
  owner : List Byte
  deriving DecidableEq, Repr

/-- A Swite flit (R568). -/
structure Flit where
  sop : Bool
  cls : Nat
  kind : Nat
  rsv : Bool
  seq : Nat
  ack : Nat
  data : List Byte
  deriving DecidableEq, Repr

/-- What a link-control flit says (R570, R571): the expected SEQ of a replay, or credits of a class. -/
inductive LinkControl where
  | replay (seq : Nat)
  | credit (cls count : Nat)
  deriving DecidableEq, Repr

/-- What arrives for a host-memory transaction (R575). -/
inductive TxnResult where
  | completion (data : List Byte)
  | ack
  | error
  deriving DecidableEq, Repr

/-- The SPDM requests that the model tells apart (R535 to R537, R543). -/
inductive SpdmKind where
  | other | getMeasurements | keyExchange | finish | keyUpdate | heartbeat | endSession
  deriving DecidableEq, Repr

/-- What the end of a start stage (R603 to R607) brings that the state does not say: whether the package in each bank verifies
(S0), and the stacks that fail training or self-test, a mask (the end of S1, as S2 begins). -/
structure StageResult where
  bankAOk : Bool
  bankBOk : Bool
  stacksFailed : Nat
  deriving DecidableEq, Repr

/-- One ring of Cirque (R345): transmit or receive, port and line. -/
structure Ring where
  rx : Bool
  port : Fin 32
  line : Fin 8
  deriving DecidableEq, Repr

/-- The commands, one constructor for each row of the opcode table, in its order. -/
inductive Instr where
  -- host commands (R591)
  | hello (h : Hdr)
  | identify (h : Hdr)
  | csrRead (h : Hdr) (address : Nat)
  | csrWrite (h : Hdr) (address count : Nat) (values : List Word)
  | csrReadBlock (h : Hdr) (address count : Nat)
  | memCopy (h : Hdr) (src dst length slot : Nat)
  | memFill (h : Hdr) (dst pattern length : Nat)
  | memMap (h : Hdr) (va size pa page write pdom : Nat)
  | memUnmap (h : Hdr) (va size : Nat)
  | contextCreate (h : Hdr) (rangeCount place rangeMask syncCount seed pdomGrant : Nat)
  | contextDestroy (h : Hdr)
  | descLoad (h : Hdr) (first count : Nat) (payload : List Byte)
  | streamLoad (h : Hdr) (image : Nat) (payload : List Byte)
  | streamStart (h : Hdr) (image mode rangeMask : Nat)
  | streamStop (h : Hdr) (rangeMask : Nat)
  | streamStatus (h : Hdr) (rangeMask : Nat)
  | framePush (h : Hdr) (inHandle outHandle outBytes : Nat) (payload : List Byte)
  | stepBegin (h : Hdr) (table : Nat)
  | stepCommit (h : Hdr) (step : Nat)
  | stepAbort (h : Hdr) (step : Nat)
  | scheduleLoad (h : Hdr) (table : Nat) (payload : List Byte)
  | fabricDiscover (h : Hdr)
  | fabricPlan (h : Hdr) (payload : List Byte)
  | meshSet (h : Hdr) (mode count : Nat) (rxMap : List Nat) (entries : List Word)
  | darkMapWrite (h : Hdr) (count : Nat) (entries : List Word)
  | linkStatus (h : Hdr) (portMask : Nat)
  | spdmMsg (h : Hdr) (kind : SpdmKind) (inSession ok : Bool)
  | getEphemeral (h : Hdr) (nonce : List Byte)
  | load (h : Hdr) (payload : List Byte)
  | clear (h : Hdr) (slot : Nat)
  | lockConfig (h : Hdr) (level : Nat)
  | tenantEnd (h : Hdr)
  | clearingEnd
  | ownerTransfer (h : Hdr) (digest signature : List Byte)
  | fwUpdate (h : Hdr) (offset total : Nat) (payload : List Byte)
  | activation
  | belayPlan (h : Hdr) (payload : List Byte)
  | belaySnapshot (h : Hdr)
  | belayRestore (h : Hdr) (step : Nat) (record : List Byte)
  | surveySnap (h : Hdr) (tick opt : Nat)
  | surveyRead (h : Hdr) (firstUnit unitCount opt : Nat)
  | arm (h : Hdr) (rangeMask instrIndex pass repeatIndex : Nat)
  | resume (h : Hdr) (rangeMask instrIndex pass repeatIndex : Nat)
  | disarm (h : Hdr) (rangeMask : Nat)
  | debugDump (h : Hdr) (range what treg : Nat)
  | debugModeEnable (h : Hdr) (signature : List Byte)
  | debugModeDisable (h : Hdr)
  | powerBudgetCap (h : Hdr) (context watts : Nat)
  | powerBudgetReservation (h : Hdr) (context watts : Nat)
  | thermalStatus (h : Hdr)
  | moduleReset (h : Hdr) (target : Nat)
  | contextReset (h : Hdr) (target : Nat)
  | rangeReset (h : Hdr) (target : Nat)
  | portReset (h : Hdr) (target : Nat)
  | tenantReset (h : Hdr) (target : Nat)
  -- start and reset
  | coldReset
  | powerGood
  | stageEnd (r : StageResult)
  | stageDeadlineOverrun (cause : Nat)
  | discoveryLightTimeout (p : Fin 32)
  | modResetNAssert
  | modResetNDeassert
  -- register writes and reads with a behaviour of their own
  | switch (h : Hdr) (value : Word)
  | securityVersionWrite (h : Hdr) (value : Word)
  | prodDebugOffWrite (h : Hdr) (value : Word)
  | syncCounterWrite (h : Hdr) (counter : Nat) (value : Word)
  | tarnProgClaim (h : Hdr) (stack : Fin 12) (slot : Fin 16) (value : Word)
  | serveCfgWrite (h : Hdr) (address : Nat) (values : List Word)
  | timebaseMasterWrite (h : Hdr) (value : Word)
  | timebaseNowRead (h : Hdr)
  | stepDeadlineRead (h : Hdr)
  -- tile streams
  | ctrlFence (n : Fin 16)
  | ctrlLoop (n : Fin 16)
  | ctrlEndloop (n : Fin 16)
  | ctrlSetlc (n : Fin 16)
  | ctrlSetax (n : Fin 16)
  | ctrlAddax (n : Fin 16)
  | ctrlSetinc (n : Fin 16)
  | idle (n : Fin 16) (station : Fin 8) (phase : Phase)
  | colLoad (n : Fin 16)
  | colLoadt (n : Fin 16)
  | colRepeatBegin (n : Fin 16) (ecc : Ecc)
  | stagedTileMove (n : Fin 16)
  | crestMma (n : Fin 16)
  | crestRepeatBegin (n : Fin 16) (ecc : Ecc)
  | crestDrain (n : Fin 16) (phase : Phase) (ecc : Ecc)
  | drainReadoutEnd (n : Fin 16)
  | drainTileFull (n : Fin 16)
  | spurKernel (n : Fin 16)
  | spurReduce (n : Fin 16)
  | spurPerm (n : Fin 16)
  | spurRepeatBegin (n : Fin 16) (ecc : Ecc)
  | talusStore (n : Fin 16)
  | talusRepeatBegin (n : Fin 16) (ecc : Ecc)
  | talusMark (n : Fin 16) (phase : Phase)
  | markAccepted (n : Fin 16)
  | screeGather (n : Fin 16)
  | screeScatter (n : Fin 16)
  | screeScatterAdd (n : Fin 16)
  | screeRepeatBegin (n : Fin 16) (ecc : Ecc)
  | syncSignal (n : Fin 16)
  | syncSignalFire (n : Fin 16) (index : Nat)
  | syncWait (n : Fin 16)
  | syncWaitSatisfied (n : Fin 16) (station : Fin 8)
  | linkSend (n : Fin 16) (phase : Phase) (ecc : Ecc)
  | linkReduce (n : Fin 16)
  | postingStart (n : Fin 16) (index : Nat) (ecc : Ecc)
  | linkRecv (n : Fin 16) (phase : Phase)
  | instructionComplete (n : Fin 16) (station : Fin 8)
  | streamEnd (n : Fin 16)
  | noProgress (n : Fin 16)
  | lockstepStartInstant (n : Fin 16)
  | slotStart (n : Fin 16) (ecc : Ecc)
  | pageWalkDone (n : Fin 16) (station : Fin 8)
  -- memory
  | hostTxnCompletion (tag : Nat) (result : TxnResult)
  | hostTxnTimeout (tag : Nat)
  | grantWindow (k : Fin 12) (demand : List Nat)
  | patrolRead (unit : Nat) (ecc : Ecc)
  | wholeMemoryScrubDone (k : Fin 12)
  | frameScrubDone
  -- training steps
  | scheduleEntryStart (c : Fin 16) (entry : Nat)
  | scheduleEntryEnd (c : Fin 16) (entry : Nat)
  | attemptStart (c : Fin 16)
  | join (port : Option (Fin 32)) (group rank step state planId : Nat)
  | start (port : Option (Fin 32)) (group step attempt t0 td limit : Nat)
  | ready (port : Option (Fin 32)) (group rank step attempt : Nat)
  | fail (port : Option (Fin 32)) (group rank step attempt status : Nat)
  | commit (port : Option (Fin 32)) (group step attempt norm : Nat)
  | abort (port : Option (Fin 32)) (group step attempt reason : Nat)
  | updated (port : Option (Fin 32)) (group rank step : Nat)
  | close (port : Option (Fin 32)) (group step : Nat)
  | stepDeadlineExpiry (c : Fin 16)
  | updateDeadlineExpiry (c : Fin 16)
  | localAbort (c : Fin 16)
  | tarnRecordFlip (k : Fin 12)
  | tarnUpdateComplete (c : Fin 16)
  | tarnFault (k : Fin 12) (cause : Nat) (address : Nat)
  | rollback (c : Fin 16)
  -- Belay
  | mirror (port : Option (Fin 32)) (group round step l : Nat) (ecc : Ecc)
  | mirrorOpen (src round step size serial : Nat) (units : List Nat)
  | mirrorData (src round unit : Nat) (poison : List Nat) (data : List Byte)
  | catchUpDone (slot : Fin 2)
  | slotCommit
  | belayCommitFrame (src round result : Nat)
  | mirrorTimeout
  | mirrored (port : Option (Fin 32)) (group rank round result : Nat)
  | roundEnd (port : Option (Fin 32)) (group round : Nat) (complete : Bool) (l : Nat)
  -- Ridge
  | frameReceive (p : Fin 32) (frame : Frame) (rx : FrameRx)
  | replayRequest (p : Fin 32) (seq : Nat)
  | messageLand (channel : Fin 256) (ecc : Ecc)
  | reductionFrame (p : Fin 32) (ecc : Ecc)
  | identityFrame (p : Fin 32) (peer : Identity)
  | identityTimeout (p : Fin 32)
  | portUp (p : Fin 32)
  | portKeyExchange (p : Fin 32) (peer : KeyEx)
  | keyEpochRoll (p : Fin 32)
  | timestampExchange (p : Fin 32) (t1 t2 t3 t4 parent : Int)
  | laneLoss (p : Fin 32) (lane : Fin 8) (ringLost : Bool)
  | laneRealign (p : Fin 32) (lane : Fin 8)
  | laneDrop (p : Fin 32) (lane : Fin 8)
  | portDownTimeout (p : Fin 32)
  | epochMarker (epoch : Nat) (crcOk : Bool)
  | epochBoundary
  | tbClkLoss
  | tbReferenceReturn (reference : Nat)
  -- Cirque
  | lsuStable (bay : Fin 2)
  | standbyAligned
  | lineLoss (line : Fin 8) (power : Int)
  | lsuFault (bay : Fin 2)
  | lsuRemoved (bay : Fin 2)
  | lsuInserted (bay : Fin 2) (hours lineLow toneBad : Nat)
  | failoverComplete
  | fullSweepDone (r : Ring) (resonances : List Nat) (kLine : Nat)
  | toneCheckDone (r : Ring) (found : Option (Fin 8)) (heater : Int)
  | ringLockLoss (r : Ring) (heater : Int)
  | circuitSetApplied
  | trimAttemptDone (index : Nat) (verified : Bool)
  -- Treeline
  | sensorRead (readings : List Int)
  | fastHoldEnd (z : Fin 39)
  | slowThrottleStep (z : Fin 39)
  | computeStopEnd
  | budgetEvaluation (baseW : Nat)
  | powerSample (n : Fin 16) (milliwatts : Nat)
  | capEnforcementStep (powerW : Nat)
  | capRestoreStep (powerW : Nat)
  | boostCheck
  | starveExpiry (c : Fin 16)
  | voltageChangeDone (island : Fin 108)
  | rangePowerOff (n : Fin 16)
  | inputDip (voltage : Nat)
  | brownOut (voltage : Nat)
  | brownoutEnd (voltage : Nat)
  | inputPowerOff (voltage : Nat)
  | coolantChange (inlet : Int) (flow : Nat)
  | coolantStop
  -- Swite
  | flitReceive (f : Flit) (crcOk codewordOk : Bool) (corrected : Nat)
  | linkControlFlit (c : LinkControl) (ack : Nat)
  | switeAlignmentLoss (lane : Fin 16)
  | mgmtPacket (bytes : List Byte) (crcOk : Bool)
  | packetTimeout (cls : Fin 8)
  | classWindow
  | eventSend (kind : Fin 6)
  | heartbeatExpiry
  | ephemeralKeyExpiry (id : Nat)
  -- Survey, Waymark and serving
  | snapshotCapture
  | waymarkHalt (n : Fin 16)
  | pinStart (c : Fin 16)
  | intakeDeadline (c : Fin 16)
  | tileFull (n : Fin 16) (station : Fin 8)
  | rangeCleared (n : Fin 16)
  | copyComplete (index : Nat) (ecc : Ecc)
  | cairnInputLoss
  | switeLinkRetrained (lanes : Nat)
  | lightAppears (p : Fin 32)
  | portTrained (p : Fin 32)
  | s3Timeout
  | lsuWorn (bay : Fin 2)
  | restoreFrame (unit : Nat) (poison : List Nat) (data : List Byte) (last lost : Bool)
  deriving DecidableEq, Repr

end Sys2Proof
end

