-- ==== Sys2Proof/Decode.lean ====
section
/-!
DEFINITION. The table's words. No row of the opcode table gives a command any bits: commands reach the module as packets,
frames, readings and events, not as instruction words. So no word spells a command.
-/

namespace Sys2Proof

/-- The command that a word of `nbits` bits spells by the table's bits: none, since no row gives bits. -/
def decodeTableWord (_nbits _w : Nat) : Option Instr := none

end Sys2Proof
end

