-- ==== Sys2Proof/Machine/Fields.lean ====
section
/-!
DEFINITION. Bit fields and little-endian byte runs (R5, R6): the helpers every later file reads and writes words with.
-/

namespace Sys2Proof.Machine

/-- The value of a bit field of a number. -/
def bitsOf (x lo w : Nat) : Nat := (x >>> lo) % 2 ^ w

/-- One bit of a number. -/
def bitOf (x i : Nat) : Bool := x.testBit i

/-- The value of a field of a register. -/
def Word.getF (x : Word) (f : Fld) : Nat := bitsOf x.toNat f.lo f.width

/-- A register with one field replaced by the low bits of a value; every other bit stays. -/
def Word.setF (x : Word) (f : Fld) (v : Nat) : Word :=
  BitVec.ofNat 32 ((x.toNat &&& (2 ^ 32 - 1 - (2 ^ f.width - 1) <<< f.lo)) ||| ((v % 2 ^ f.width) <<< f.lo))

/-- 1 or 0. -/
def b2n (b : Bool) : Nat := if b then 1 else 0

/-- The number that a run of bytes spells, byte 0 least significant (R6). -/
def leNat : List Byte → Nat
  | [] => 0
  | b :: t => b.toNat + 256 * leNat t

/-- The `n` bytes of a number, byte 0 least significant (R6). -/
def leBytes (x : Nat) : Nat → List Byte
  | 0 => []
  | n + 1 => BitVec.ofNat 8 x :: leBytes (x / 256) n

/-- The number spelt by `n` bytes at an offset of a run; bytes past the end count as 0. -/
def leAt (l : List Byte) (off n : Nat) : Nat := leNat ((l.drop off).take n)

/-- Whether the `n` bytes at an offset are all zero (a reserved field of R7). -/
def zeroAt (l : List Byte) (off n : Nat) : Bool := decide (leAt l off n = 0)

/-- A two's complement reading of the low `w` bits. -/
def signedOf (x w : Nat) : Int :=
  let y := x % 2 ^ w
  if y < 2 ^ (w - 1) then (y : Int) else (y : Int) - (2 ^ w : Nat)

/-- The low `w` bits of an integer, as a number. -/
def wrapNat (x : Int) (w : Nat) : Nat := (x % ((2 ^ w : Nat) : Int)).toNat

/-- Saturating addition at a top value. -/
def satAdd (x d top : Nat) : Nat := min (x + d) top

end Sys2Proof.Machine
end

