-- ==== Sys2Proof/Machine/Image.lean ====
section
/-!
DEFINITION. Ewelux stream images (03_stream_encoding): the 128-bit instruction word, the load-time checks of R84 to
R115, the image header of R117 and the CRC-32 it carries. Pure functions of the bytes.
-/

namespace Sys2Proof.Machine

/-- One Ewelux instruction, its top-level fields pulled out of the word (R84). -/
structure Ewx where
  op : Nat
  station : Nat
  incA : Bool
  incB : Bool
  sr : Bool
  rsv112 : Bool
  rep : Nat
  hA : Nat
  hB : Nat
  hD : Nat
  axa : Nat
  axb : Nat
  mod : Nat
  deriving DecidableEq, Repr

/-- Reading an instruction word (R84). -/
def Ewx.ofWord (w : Nat) : Ewx :=
  { op := bitsOf w 120 8, station := bitsOf w 116 4, incA := bitOf w 115, incB := bitOf w 114, sr := bitOf w 113,
    rsv112 := bitOf w 112, rep := bitsOf w 96 16, hA := bitsOf w 80 16, hB := bitsOf w 64 16, hD := bitsOf w 48 16,
    axa := bitsOf w 44 4, axb := bitsOf w 40 4, mod := bitsOf w 0 40 }

/-- Writing an instruction word, each field in its bits (R84). -/
def Ewx.toWord (e : Ewx) : Nat :=
  e.mod + e.axb * 2 ^ 40 + e.axa * 2 ^ 44 + e.hD * 2 ^ 48 + e.hB * 2 ^ 64 + e.hA * 2 ^ 80 + e.rep * 2 ^ 96 +
    b2n e.rsv112 * 2 ^ 112 + b2n e.sr * 2 ^ 113 + b2n e.incB * 2 ^ 114 + b2n e.incA * 2 ^ 115 + e.station * 2 ^ 116 + e.op * 2 ^ 120

/-- Every field lies within its width (R84). -/
def Ewx.fits (e : Ewx) : Bool :=
  decide (e.op < 2 ^ 8) && decide (e.station < 2 ^ 4) && decide (e.rep < 2 ^ 16) && decide (e.hA < 2 ^ 16) && decide (e.hB < 2 ^ 16) &&
  decide (e.hD < 2 ^ 16) && decide (e.axa < 2 ^ 4) && decide (e.axb < 2 ^ 4) && decide (e.mod < 2 ^ 40)

/-- The operations of the stream opcode catalogue (R91). -/
inductive SOp where
  | idle
  | fence | loop | endloop | setlc | setax | addax | setinc
  | load | loadt
  | mma | drain
  | kernel | reduce | perm
  | store | mark
  | gather | scatter | scatterAdd
  | signal | wait
  | send | lreduce | recv
  deriving DecidableEq, Repr

/-- The operation that a station and an opcode name (R91); none where the opcode is not listed for the station. -/
def SOp.of (station op : Nat) : Option SOp :=
  if op = 0x01 then (if station < 8 then some .idle else none)
  else match station, op with
    | 0, 0x02 => some .fence
    | 0, 0x03 => some .loop
    | 0, 0x04 => some .endloop
    | 0, 0x05 => some .setlc
    | 0, 0x06 => some .setax
    | 0, 0x07 => some .addax
    | 0, 0x08 => some .setinc
    | 1, 0x10 => some .load
    | 1, 0x11 => some .loadt
    | 2, 0x20 => some .mma
    | 2, 0x21 => some .drain
    | 3, 0x30 => some .kernel
    | 3, 0x31 => some .reduce
    | 3, 0x32 => some .perm
    | 4, 0x40 => some .store
    | 4, 0x41 => some .mark
    | 5, 0x50 => some .gather
    | 5, 0x51 => some .scatter
    | 5, 0x52 => some .scatterAdd
    | 6, 0x60 => some .signal
    | 6, 0x61 => some .wait
    | 7, 0x70 => some .send
    | 7, 0x71 => some .lreduce
    | 7, 0x72 => some .recv
    | _, _ => none

def Ewx.sop (e : Ewx) : Option SOp := SOp.of e.station e.op

/-- A modifier field. -/
def Ewx.m (e : Ewx) (lo w : Nat) : Nat := bitsOf e.mod lo w

/-- Whether an operation addresses handle A, B, D (R91). -/
def SOp.usesA : SOp → Bool
  | .load | .loadt | .gather | .send | .lreduce => true
  | _ => false
def SOp.usesB : SOp → Bool
  | .gather | .scatter | .scatterAdd => true
  | _ => false
def SOp.usesD : SOp → Bool
  | .store | .mark | .scatter | .scatterAdd | .lreduce | .recv => true
  | _ => false

/-- The operations whose `AXA` names an address register: those of R57 and the three CTRL writes of R88. -/
def SOp.isAxCtrl : SOp → Bool
  | .setax | .addax | .setinc => true
  | _ => false

/-- R86: the legal repeat counts. -/
def Ewx.repeatOk (e : Ewx) (o : SOp) : Bool :=
  match o with
  | .idle => decide (1 ≤ e.rep)
  | .fence | .loop | .endloop | .setlc | .setax | .addax | .setinc | .signal | .wait => decide (e.rep = 0)
  | .drain | .mark => decide (e.rep = 1)
  | _ => decide (1 ≤ e.rep)

/-- R87: required handles are not null, unused ones are null; SYNC.SIGNAL and SYNC.WAIT hold sub-fields instead. -/
def Ewx.handlesOk (e : Ewx) (o : SOp) : Bool :=
  match o with
  | .signal | .wait => decide (bitsOf e.hA 12 4 = 0) && decide (bitsOf e.hB 0 8 = 0) && decide (e.hD = 0)
  | _ =>
    (if o.usesA then decide (e.hA ≠ 0xFFFF) else decide (e.hA = 0xFFFF)) &&
    (if o.usesB then decide (e.hB ≠ 0xFFFF) else decide (e.hB = 0xFFFF)) &&
    (if o.usesD then decide (e.hD ≠ 0xFFFF) else decide (e.hD = 0xFFFF))

/-- R88: where AXA, INC_A, AXB and INC_B may be non-zero. -/
def Ewx.axOk (e : Ewx) (o : SOp) : Bool :=
  (if o.isAxCtrl then !e.incA
   else if o.usesA || o.usesD then true
   else decide (e.axa = 0) && !e.incA) &&
  (if o.usesB then true else decide (e.axb = 0) && !e.incB)

/-- R85: SR only in CREST.DRAIN and TALUS.STORE. -/
def Ewx.flagOk (e : Ewx) (o : SOp) : Bool :=
  if e.sr then (match o with | .drain | .store => true | _ => false) else true

/-- A `TREG` field that must be 0 unless its selector names the tile register (R89). -/
def tregOk (sel treg : Nat) : Bool := decide (sel = 2 ∨ treg = 0)

/-- R89: every modifier field that the other fields leave unused, and every reserved bit and value, is 0 or legal. -/
def Ewx.modOk (e : Ewx) (o : SOp) : Bool :=
  match o with
  | .idle => decide (e.mod = 0)
  | .fence => decide (e.m 8 32 = 0)
  | .loop => decide (e.m 2 38 = 0)
  | .endloop => decide (e.mod = 0)
  | .setlc => decide (e.m 34 6 = 0)
  | .setax => decide (e.m 32 4 = 0)
  | .addax | .setinc => decide (e.m 32 5 = 0)
  | .load | .loadt =>
    decide (e.m 0 24 = 0) && decide (e.m 38 2 ≠ 3) && tregOk (e.m 38 2) (e.m 29 9) &&
      decide (e.m 28 1 = 1 ∨ e.m 24 4 = 0)
  | .mma =>
    decide (e.m 8 6 = 0) && decide (e.m 0 4 = 0) && decide (e.m 36 2 ≠ 3) && decide (e.m 34 2 ≠ 3) &&
      tregOk (e.m 36 2) (e.m 25 9) && tregOk (e.m 34 2) (e.m 16 9) && decide (e.m 14 2 ≠ 3) && decide (e.m 4 4 ≤ 7)
  | .drain =>
    decide (e.m 0 8 = 0) && decide (e.m 32 3 ≤ 2) && decide (e.m 28 4 ≤ 9) && decide (e.m 26 2 ≤ 1) &&
      decide (e.m 26 2 = 1 ∨ e.m 17 9 = 0) && decide (e.m 32 3 ≠ 0 ∨ e.m 28 4 ≠ 0 ∨ e.m 8 9 = 0)
  | .kernel =>
    tregOk (e.m 30 2) (e.m 21 9) && decide (e.m 20 1 = 1 ∨ e.m 11 9 = 0) && decide (e.m 9 2 ≠ 3) &&
      decide (e.m 9 2 = 1 ∨ e.m 0 9 = 0)
  | .reduce =>
    decide (e.m 0 8 = 0) && decide (e.m 38 2 ≠ 3) && decide (e.m 35 3 ≤ 4) && decide (e.m 33 2 ≠ 3) &&
      tregOk (e.m 33 2) (e.m 24 9) && decide (e.m 21 2 ≠ 3) && decide (e.m 21 2 = 1 ∨ e.m 12 9 = 0)
  | .perm =>
    decide (e.m 0 9 = 0) && decide (e.m 38 2 ≠ 3) && tregOk (e.m 38 2) (e.m 29 9) && decide (e.m 18 2 ≠ 3) &&
      decide (e.m 18 2 = 1 ∨ e.m 9 9 = 0)
  | .store => decide (e.m 0 29 = 0) && decide (e.m 38 2 = 0 ∨ e.m 38 2 = 2) && tregOk (e.m 38 2) (e.m 29 9)
  | .mark => decide (e.m 0 24 = 0)
  | .gather => decide (e.m 0 29 = 0) && decide (e.m 38 2 ≠ 3) && tregOk (e.m 38 2) (e.m 29 9)
  | .scatter | .scatterAdd => decide (e.m 0 29 = 0) && decide (e.m 38 2 = 2)
  | .signal => decide (e.m 16 24 = 0) && decide (e.m 0 16 ≠ 0)
  | .wait => decide (e.m 32 8 = 0)
  | .send | .recv => decide (e.m 0 32 = 0)
  | .lreduce => decide (e.m 0 11 = 0)

/-- The station mask of a SYNC instruction, and its counter (R84). -/
def Ewx.mask (e : Ewx) : Nat := bitsOf e.hB 8 8
def Ewx.counter (e : Ewx) : Nat := bitsOf e.hA 0 12

/-- R93: the legal station masks. -/
def Ewx.maskOk (e : Ewx) (o : SOp) : Bool :=
  match o with
  | .fence => !bitOf (e.m 0 8) 6 && !bitOf (e.m 0 8) 0 && decide (e.m 0 8 ≠ 0)
  | .wait => !bitOf e.mask 6 && decide (e.mask ≠ 0)
  | .signal => !bitOf e.mask 6
  | _ => true

/-- R99 and R105. -/
def Ewx.queueOk (e : Ewx) (o : SOp) : Bool :=
  match o with
  | .mma => !(decide (e.m 36 2 = 1) && decide (e.m 34 2 = 1))
  | .reduce => decide (e.m 23 1 = 0) || decide (e.m 21 2 = 1)
  | _ => true

/-- R102, first sentence. -/
def Ewx.fuseOk (e : Ewx) (o : SOp) : Bool :=
  match o with
  | .drain => decide (e.m 32 3 = 0) || decide (e.m 28 4 = 0)
  | _ => true

/-- R95: `DIM` is 0 to 5. -/
def Ewx.dimOk (e : Ewx) (o : SOp) : Bool := !o.isAxCtrl || decide (e.m 37 3 ≤ 5)

/-- The lowest load-time cause that one instruction meets, R87's loop balance left out (R114, R115). -/
def Ewx.loadCause (e : Ewx) : Option Nat :=
  if 8 ≤ e.station then some 0x80
  else match e.sop with
  | none => some 0x81
  | some o =>
    if e.rsv112 || !e.modOk o then some 0x82
    else if !e.repeatOk o then some 0x83
    else if !e.handlesOk o then some 0x84
    else if !e.axOk o then some 0x85
    else if !e.flagOk o then some 0x86
    else if !e.dimOk o then some 0x88
    else if !e.queueOk o then some 0x89
    else if !e.maskOk o then some 0x8A
    else if !e.fuseOk o then some 0x8B
    else none

/-- The cause at an instruction with `depth` loops open before it: 0x87 is weighed with the others, the lowest wins
(R115). -/
def Ewx.causeAt (e : Ewx) (depth : Nat) : Option Nat :=
  let bal : Option Nat := if e.station = 0 ∧ e.op = 0x04 ∧ depth = 0 then some 0x87 else none
  match e.loadCause, bal with
  | none, b => b
  | some c, none => some c
  | some c, some b => some (min c b)

/-- The open loops after an instruction; the list holds the indices of the open `CTRL.LOOP`s, the innermost first. -/
def Ewx.loopsAfter (e : Ewx) (i : Nat) (opn : List Nat) : List Nat :=
  if e.station = 0 ∧ e.op = 0x03 then i :: opn
  else if e.station = 0 ∧ e.op = 0x04 then opn.drop 1
  else opn

/-- The loop frames open at the end of a run of instructions. -/
def openLoops : List Ewx → Nat → List Nat → List Nat
  | [], _, opn => opn
  | e :: t, i, opn => openLoops t (i + 1) (e.loopsAfter i opn)

/-- The first failing instruction of phase 3 of R115: its index and its cause. `unb` is the outermost loop left open at
the end, which fails at its own index. -/
def firstFault : List Ewx → Nat → Nat → Option Nat → Option (Nat × Nat)
  | [], _, _, _ => none
  | e :: t, i, depth, unb =>
    let own := e.causeAt depth
    let lp : Option Nat := if unb = some i then some 0x87 else none
    match own, lp with
    | some c, some l => some (i, min c l)
    | some c, none => some (i, c)
    | none, some l => some (i, l)
    | none, none =>
      let d := if e.station = 0 ∧ e.op = 0x03 then depth + 1 else if e.station = 0 ∧ e.op = 0x04 then depth - 1 else depth
      firstFault t (i + 1) d unb

/-- CRC-32 with the IEEE 802.3 polynomial, reflected, one bit at a time (R117, R567, R573). -/
def crcBit (c : Nat) : Nat := if c % 2 = 1 then (c / 2) ^^^ 0xEDB88320 else c / 2
def crcByte (c : Nat) (b : Byte) : Nat :=
  crcBit (crcBit (crcBit (crcBit (crcBit (crcBit (crcBit (crcBit (c ^^^ b.toNat))))))))
/-- The CRC-32 of an image, a table or a plan (R117). (PRESUMED, log entry 26.) -/
def crc32 (l : List Byte) : Nat := (l.foldl crcByte 0xFFFFFFFF) ^^^ 0xFFFFFFFF

/-- The instruction words of an image's bytes, 16 bytes each, little-endian (R84, R117). -/
def wordsOf : Nat → List Byte → List Ewx
  | 0, _ => []
  | n + 1, l => Ewx.ofWord (leNat (l.take 16)) :: wordsOf n (l.drop 16)

/-- A loaded stream image (R117). -/
structure Image where
  cls : Nat
  cSlot : Nat
  cGuard : Nat
  code : List Ewx
  deriving DecidableEq, Repr

/-- The bytes an image takes in the image store (R120). -/
def Image.bytes (i : Image) : Nat := 64 + 16 * i.code.length

/-- Whether the header is as R117 and R118 require. -/
def headerOk (l : List Byte) : Bool :=
  let n := leAt l 0x08 4
  let cs := leAt l 0x0E 2
  let g := leAt l 0x10 1
  decide (64 ≤ l.length) && decide (l.length = 64 + 16 * n) && decide (leAt l 0 4 = 0x584C5745) &&
  decide (leAt l 4 2 = 1) && decide (leAt l 6 2 = 64) && decide (1 ≤ n) && decide (n ≤ 65535) &&
  decide (leAt l 0x0C 1 ≤ 7) && zeroAt l 0x0D 1 && zeroAt l 0x11 3 && zeroAt l 0x18 40 &&
  (if cs = 0 then decide (g = 0) else decide (2 ≤ g))

/-- The answer of the load checks: the image, or the instruction index and the cause of the first phase that fails
(R115). -/
def imageCheck (l : List Byte) : Except (Nat × Nat) Image :=
  if !headerOk l then .error (0xFFFF, 0x8C)
  else if crc32 (l.drop 64) ≠ leAt l 0x14 4 then .error (0xFFFF, 0x8D)
  else
    let code := wordsOf (leAt l 8 4) (l.drop 64)
    let unb := (openLoops code 0 []).getLast?
    match firstFault code 0 0 unb with
    | some f => .error f
    | none => .ok { cls := leAt l 0x0C 1, cSlot := leAt l 0x0E 2, cGuard := leAt l 0x10 1, code := code }

/-- The bytes of an image: its header, and 16 bytes of each instruction (R84, R117). -/
def Image.toBytes (i : Image) : List Byte :=
  let body := i.code.flatMap (fun e => leBytes e.toWord 16)
  leBytes 0x584C5745 4 ++ leBytes 1 2 ++ leBytes 64 2 ++ leBytes i.code.length 4 ++ leBytes i.cls 1 ++ leBytes 0 1 ++ leBytes i.cSlot 2 ++
    leBytes i.cGuard 1 ++ leBytes 0 3 ++ leBytes (crc32 body) 4 ++ leBytes 0 40 ++ body

/-- Whether an image is one that STREAM_LOAD stores (R115, R117): fields within their ranges, and no instruction with a cause. -/
def Image.sound (i : Image) : Bool :=
  decide (i.cls ≤ 7) && decide (i.cSlot ≤ 65535) && decide (i.cGuard ≤ 255) && (if i.cSlot = 0 then decide (i.cGuard = 0) else decide (2 ≤ i.cGuard)) &&
  decide (1 ≤ i.code.length) && decide (i.code.length ≤ 65535) && i.code.all Ewx.fits &&
  (firstFault i.code 0 0 (openLoops i.code 0 []).getLast?).isNone

/-- Every handle that an image's instructions name (R41, R55). -/
def Image.handles (i : Image) : List Nat :=
  i.code.flatMap (fun e => match e.sop with
    | none => []
    | some o => (if o.usesA then [e.hA] else []) ++ (if o.usesB then [e.hB] else []) ++ (if o.usesD then [e.hD] else []))

end Sys2Proof.Machine
end

