-- ==== Sys2Proof/Config.lean ====
section
/-!
DEFINITION. What an implementation fixes and what the manual leaves open: constants with no body, so that no proof can
see their values. Each is named in a row of notes/assumptions.
-/

namespace Sys2Proof

/-- The 64-bit module serial, fixed at manufacture (R655); free. (Log entry 63.) -/
opaque Config.serial : BitVec 64

/-- The counter-based function of R146 (key: seed and unit; counter: stream count, instruction, repeat, position); free. (Log entry 63.) -/
opaque Config.random : Nat → Nat → Nat → Nat → Nat → Nat → Nat

/-- The value, as a code of the class's format, of a Spur operation that R189 gives only to within units in the last
place (the operation code, the class, the operand's code); free. (Log entry 38.) -/
opaque Config.kernelFn : Nat → Nat → Nat → Nat

/-- The choice among the values that R189 allows for `RCP` and `RSQRT` (operation, class, operand's code); free. (Log entry 38.) -/
opaque Config.kernelPick : Nat → Nat → Nat → Nat

/-- The derivative g of R167 for codes 0x3, 0x4, 0x5 and 0x8, an FP32 code (derivative code, operand's FP32 code); R168
gives it only to within a bound; free. (Log entry 38.) -/
opaque Config.derivative : Nat → Nat → Nat

/-- A byte that the link interface or a port reads at a virtual address where the spec states no contents: an unmapped page or the
host window (a numbered draw, the address); free. (Log entry 6.) -/
opaque Config.unreadByte : Nat → Nat → BitVec 8

/-- A value that a numbered draw of the machine's counter of free values stands for; free. (Log entry 4.) -/
opaque Config.freeValue : Nat → Nat

/-- Opening AES-256-GCM: key, nonce, additional data, ciphertext and tag; nothing where the tag fails. The spec names the cipher and
does not define it; free. (Log entry 27.) -/
opaque Config.gcmOpen : List (BitVec 8) → List (BitVec 8) → List (BitVec 8) → List (BitVec 8) → List (BitVec 8) → Option (List (BitVec 8))

/-- Byte `i` of an encrypted packet's payload and tag under the session's keys (key generation, packet count, `i`); the ciphers are
outside the model; free. (Log entry 13.) -/
opaque Config.cipherByte : Nat → Nat → Nat → BitVec 8

/-- The 32-bit Swite protocol version that HELLO returns, whose value the spec does not state; free. (Log entry 63.) -/
opaque Config.switeVersion : BitVec 32

/-- The checks of R529 on the bytes of a firmware package, whose layout the spec does not give: nothing where one fails, else the
package's security version, release and patch numbers; free. (Log entry 29.) -/
opaque Config.package : List (BitVec 8) → Option (Nat × Nat × Nat)

/-- Whether the strap `TB_COMBINED_N` is grounded (R666); free. (Log entry 63.) -/
opaque Config.tbCombined : Bool

/-- Whether an ECDSA P-521 signature by the key of a digest verifies (the digest, what is signed, the signature); free. (Log entry 27.) -/
opaque Config.ecdsaOk : List (BitVec 8) → List (BitVec 8) → List (BitVec 8) → Bool

/-- The value of an event counter in a snapshot (the draw of the capture, unit, counter): what each counts is named by the firmware only
(R624); free. (Log entry 44.) -/
opaque Config.eventCount : Nat → Nat → Nat → BitVec 64

/-- A character of a Survey counter's ASCII name, which the spec does not give (unit, counter, position; R624); free. (Log entry 44.) -/
opaque Config.counterName : Nat → Nat → Nat → BitVec 7

/-- The key K of R546 (the ephemeral key's `EPH_ID`, the service's point): Cairn's private key and P-521 are outside the model; free. (Log entry 27.) -/
opaque Config.releaseKey : Nat → List (BitVec 8) → List (BitVec 8)

end Sys2Proof
end

