-- ==== Sys2Proof/Machine/Formats.lean ====
section
/-!
DEFINITION. Number formats (04_number_formats): the twelve storage formats, the value a code stands for, exact
arithmetic on those values, and the roundings and saturations of R134 to R145. Pure functions.
-/

namespace Sys2Proof.Machine

/-- The storage formats of R122. -/
inductive Fmt where
  | fp32 | bf16 | fp16 | e4m3 | e5m2 | e3m2 | e2m3 | e2m1 | int8 | int4 | int32 | fp64
  deriving DecidableEq, Repr

/-- The format code of R122. -/
def Fmt.code : Fmt → Nat
  | .fp32 => 0 | .bf16 => 1 | .fp16 => 2 | .e4m3 => 3 | .e5m2 => 4 | .e3m2 => 5 | .e2m3 => 6 | .e2m1 => 7
  | .int8 => 8 | .int4 => 9 | .int32 => 10 | .fp64 => 11

/-- Reading a format code; none for the reserved codes. -/
def Fmt.ofCode : Nat → Option Fmt
  | 0 => some .fp32 | 1 => some .bf16 | 2 => some .fp16 | 3 => some .e4m3 | 4 => some .e5m2 | 5 => some .e3m2
  | 6 => some .e2m3 | 7 => some .e2m1 | 8 => some .int8 | 9 => some .int4 | 10 => some .int32 | 11 => some .fp64
  | _ => none

/-- Element width in bits (R122). -/
def Fmt.width : Fmt → Nat
  | .fp32 => 32 | .bf16 => 16 | .fp16 => 16 | .e4m3 => 8 | .e5m2 => 8 | .e3m2 => 6 | .e2m3 => 6 | .e2m1 => 4
  | .int8 => 8 | .int4 => 4 | .int32 => 32 | .fp64 => 64

def Fmt.isInt : Fmt → Bool
  | .int8 | .int4 | .int32 => true
  | _ => false

/-- Whether a format may carry block scales (R131). -/
def Fmt.scalable : Fmt → Bool
  | .e4m3 | .e5m2 | .e3m2 | .e2m3 | .e2m1 | .int8 | .int4 => true
  | _ => false

/-- How a floating-point format encodes its special values (R123). -/
inductive Specials where
  | ieee    -- infinities and NaNs, exponent all ones
  | nanOnly -- FP8 E4M3: one NaN for each sign, no infinity
  | none    -- no infinity and no NaN
  deriving DecidableEq, Repr

/-- The parameters E, M, B and the special values of a floating-point format (R123). -/
structure Fp where
  e : Nat
  m : Nat
  b : Nat
  sp : Specials
  deriving DecidableEq, Repr

/-- The parameters of R123; the integer formats have none, and take those of FP32 here, which no caller uses. -/
def Fmt.fp : Fmt → Fp
  | .fp64 => ⟨11, 52, 1023, .ieee⟩
  | .fp32 => ⟨8, 23, 127, .ieee⟩
  | .bf16 => ⟨8, 7, 127, .ieee⟩
  | .fp16 => ⟨5, 10, 15, .ieee⟩
  | .e4m3 => ⟨4, 3, 7, .nanOnly⟩
  | .e5m2 => ⟨5, 2, 15, .ieee⟩
  | .e3m2 => ⟨3, 2, 3, .none⟩
  | .e2m3 => ⟨2, 3, 1, .none⟩
  | .e2m1 => ⟨2, 1, 1, .none⟩
  | _ => ⟨8, 23, 127, .ieee⟩

/-- A value: NaN, an infinity, or (−1)^s × m × 2^e exactly; a zero keeps its sign (R124). -/
inductive Num where
  | nan
  | inf (s : Bool)
  | fin (s : Bool) (m : Nat) (e : Int)
  deriving DecidableEq, Repr

namespace Num

def zero : Num := .fin false 0 0
def one : Num := .fin false 1 0
def ofInt (x : Int) : Num := .fin (decide (x < 0)) x.natAbs 0

def isNan : Num → Bool
  | .nan => true
  | _ => false

def isZero : Num → Bool
  | .fin _ 0 _ => true
  | _ => false

def isFinite : Num → Bool
  | .fin _ _ _ => true
  | _ => false

def neg : Num → Num
  | .nan => .nan
  | .inf s => .inf (!s)
  | .fin s m e => .fin (!s) m e

def abs : Num → Num
  | .nan => .nan
  | .inf _ => .inf false
  | .fin _ m e => .fin false m e

/-- Multiplying by a power of two, exactly. -/
def scale (x : Num) (k : Int) : Num :=
  match x with
  | .fin s m e => .fin s m (e + k)
  | y => y

/-- The exact product (R140; ∞ × 0 is NaN). -/
def mul : Num → Num → Num
  | .nan, _ => .nan
  | _, .nan => .nan
  | .inf s, .inf t => .inf (s != t)
  | .inf s, .fin t m _ => if m = 0 then .nan else .inf (s != t)
  | .fin s m _, .inf t => if m = 0 then .nan else .inf (s != t)
  | .fin s m e, .fin t n f => .fin (s != t) (m * n) (e + f)

/-- The signed magnitude of a finite value at a smaller exponent. -/
def mantAt (s : Bool) (m : Nat) (e low : Int) : Int :=
  let x : Int := ((m <<< (e - low).toNat : Nat) : Int)
  if s then -x else x

/-- The exact sum; an exact zero is +0 unless both are −0 (round to nearest). -/
def add : Num → Num → Num
  | .nan, _ => .nan
  | _, .nan => .nan
  | .inf s, .inf t => if s = t then .inf s else .nan
  | .inf s, .fin _ _ _ => .inf s
  | .fin _ _ _, .inf t => .inf t
  | .fin s m e, .fin t n f =>
    let low := min e f
    let x := mantAt s m e low + mantAt t n f low
    if x = 0 then .fin (s && t && decide (m = 0) && decide (n = 0)) 0 0
    else .fin (decide (x < 0)) x.natAbs low

def sub (x y : Num) : Num := add x y.neg

/-- a < b; false when either is NaN (R189). -/
def lt : Num → Num → Bool
  | .nan, _ => false
  | _, .nan => false
  | .inf s, .inf t => s && !t
  | .inf s, .fin _ _ _ => s
  | .fin _ _ _, .inf t => !t
  | .fin s m e, .fin t n f =>
    let low := min e f
    decide (mantAt s m e low < mantAt t n f low)

/-- a = b as numbers; false when either is NaN (R189). -/
def eq (x y : Num) : Bool := !x.isNan && !y.isNan && !lt x y && !lt y x

/-- Maximum and minimum: NaN if either is NaN; MAX(+0, −0) is +0 (R189). -/
def max (x y : Num) : Num :=
  if x.isNan || y.isNan then .nan
  else if lt x y then y else if lt y x then x
  else match x with
    | .fin true 0 _ => y
    | _ => x

def min (x y : Num) : Num :=
  if x.isNan || y.isNan then .nan
  else if lt x y then x else if lt y x then y
  else match x with
    | .fin false 0 _ => y
    | _ => x

end Num

/-- The rounding mode: to nearest, ties to even (R143), or stochastic with the 16 bits drawn (R145). -/
inductive Rounding where
  | nearest
  | stochastic (r : Nat)
  deriving DecidableEq, Repr

/-- Dropping the low `d` bits of a magnitude under a rounding mode (R143, R145). -/
def roundShift (m d : Nat) (mode : Rounding) : Nat :=
  let a := m / 2 ^ d
  let rem := m % 2 ^ d
  match mode with
  | .nearest => if 2 * rem > 2 ^ d ∨ (2 * rem = 2 ^ d ∧ a % 2 = 1) then a + 1 else a
  | .stochastic r => if rem * 65536 / 2 ^ d + r ≥ 65536 then a + 1 else a

/-- The magnitude code, before any overflow, of m × 2^e in a format: the exponent and mantissa fields as one number. -/
def magCode (f : Fp) (m : Nat) (e : Int) (mode : Rounding) : Nat :=
  let emin : Int := 1 - (f.b : Int) - (f.m : Int)
  if m = 0 then 0 else
  let q : Int := Max.max emin ((Nat.log2 m : Int) + e - (f.m : Int))
  let a := if q ≤ e then m <<< (e - q).toNat else roundShift m (q - e).toNat mode
  (q - emin).toNat * 2 ^ f.m + a

/-- Whether m × 2^e lies exactly on a code of a format, overflow apart. -/
def magExact (f : Fp) (m : Nat) (e : Int) : Bool :=
  let emin : Int := 1 - (f.b : Int) - (f.m : Int)
  let q : Int := Max.max emin ((Nat.log2 m : Int) + e - (f.m : Int))
  decide (q ≤ e) || decide (m % 2 ^ (q - e).toNat = 0)

/-- The magnitude code of the largest finite value (R123). -/
def Fp.maxMag (f : Fp) : Nat :=
  match f.sp with
  | .ieee => (2 ^ f.e - 1) * 2 ^ f.m - 1
  | .nanOnly => 2 ^ (f.e + f.m) - 2
  | .none => 2 ^ (f.e + f.m) - 1

def Fp.signBit (f : Fp) (s : Bool) : Nat := if s then 2 ^ (f.e + f.m) else 0

/-- The NaN a station produces (R124); 0 where the format has none. -/
def Fp.nanCode (f : Fp) : Nat :=
  match f.sp with
  | .ieee => (2 ^ f.e - 1) * 2 ^ f.m + 2 ^ (f.m - 1)
  | .nanOnly => 2 ^ (f.e + f.m) - 1
  | .none => 0

def Fp.infCode (f : Fp) (s : Bool) : Nat := f.signBit s + (2 ^ f.e - 1) * 2 ^ f.m

/-- The value of a floating-point code (R123). -/
def Fp.decode (f : Fp) (c : Nat) : Num :=
  let s := bitOf c (f.e + f.m)
  let ef := bitsOf c f.m f.e
  let mf := bitsOf c 0 f.m
  let value : Num :=
    if ef = 0 then .fin s mf (1 - (f.b : Int) - (f.m : Int))
    else .fin s (2 ^ f.m + mf) ((ef : Int) - (f.b : Int) - (f.m : Int))
  match f.sp with
  | .ieee => if ef = 2 ^ f.e - 1 then (if mf = 0 then .inf s else .nan) else value
  | .nanOnly => if ef = 2 ^ f.e - 1 ∧ mf = 2 ^ f.m - 1 then .nan else value
  | .none => value

/-- The sticky flags of R138, at their places in `CONVERT_STATUS` (R149). -/
def flagFpSat : Nat := 1
def flagIntSat : Nat := 2
def flagNanLost : Nat := 4
def flagScaleNan : Nat := 8
def flagAccWrap : Nat := 16

/-- Narrowing to a floating-point format (R138): the code and the flags it sets. -/
def toFp (fmt : Fmt) (mode : Rounding) (x : Num) : Nat × Nat :=
  let f := fmt.fp
  let sat (s : Bool) : Nat × Nat := (f.signBit s + f.maxMag, flagFpSat)
  match x with
  | .nan => (match f.sp with | .none => (0, flagNanLost) | _ => (f.nanCode, 0))
  | .inf s => (match f.sp with | .ieee => (f.infCode s, 0) | _ => sat s)
  | .fin s m e =>
    let mag := magCode f m e mode
    if mag ≤ f.maxMag then (f.signBit s + mag, 0)
    else match fmt with
      | .fp64 | .fp32 | .bf16 | .fp16 => (f.infCode s, 0)
      | _ => sat s

/-- A finite value rounded to an integer (R138, R144, R145). -/
def roundInt (s : Bool) (m : Nat) (e : Int) (mode : Rounding) : Int :=
  let a : Nat := if 0 ≤ e then m <<< e.toNat else roundShift m (-e).toNat mode
  if s then -(a : Int) else (a : Int)

/-- Narrowing to a two's complement integer of `w` bits (R138): the code and the flags. -/
def toInt (w : Nat) (mode : Rounding) (x : Num) : Nat × Nat :=
  let top : Int := 2 ^ (w - 1) - 1
  let bot : Int := -(2 ^ (w - 1))
  match x with
  | .nan => (0, flagNanLost)
  | .inf s => (wrapNat (if s then bot else top) w, flagIntSat)
  | .fin s m e =>
    let v := roundInt s m e mode
    if v > top then (wrapNat top w, flagIntSat)
    else if v < bot then (wrapNat bot w, flagIntSat)
    else (wrapNat v w, 0)

/-- Narrowing to any storage format without scales (R138). -/
def narrow (fmt : Fmt) (mode : Rounding) (x : Num) : Nat × Nat :=
  if fmt.isInt then toInt fmt.width mode x else toFp fmt mode x

/-- The value of an element code of an unscaled tensor (R123, R125). -/
def Fmt.decode (fmt : Fmt) (c : Nat) : Num :=
  if fmt.isInt then Num.ofInt (signedOf c fmt.width) else fmt.fp.decode (c % 2 ^ fmt.width)

/-- A value rounded to a floating-point format to nearest even, as a code. -/
def Fmt.round (fmt : Fmt) (x : Num) : Nat := (narrow fmt .nearest x).1

/-- The value of an element under its block scale (R130, R132). -/
def scaledValue (fmt : Fmt) (c scale : Nat) : Num :=
  if scale = 255 then .nan
  else
    let v : Num := match fmt with
      | .int8 => (fmt.decode c).scale (-6)
      | .int4 => (fmt.decode c).scale (-2)
      | _ => fmt.decode c
    v.scale ((scale : Int) - 127)

/-- emax of R134. -/
def Fmt.emax : Fmt → Nat
  | .e4m3 => 8 | .e5m2 => 15 | .e3m2 => 4 | .e2m3 => 2 | .e2m1 => 2 | _ => 0

/-- floor(log2 |v|) of a non-zero finite value. -/
def Num.floorLog2 : Num → Int
  | .fin _ m e => (Nat.log2 m : Int) + e
  | _ => 0

/-- The scale byte of a block, and the flags (R134). -/
def blockScale (fmt : Fmt) (vs : List Num) : Nat × Nat :=
  if vs.any (fun v => !v.isFinite) then (255, flagScaleNan)
  else
    let amax := vs.foldl (fun a v => Num.max a v.abs) Num.zero
    if amax.isZero then (127, 0)
    else (((amax.floorLog2 - (fmt.emax : Int) + 127).toNat).min 254, 0)

/-- One element of a scaled store under its block's scale (R134, R138): the element saturates, setting `FP_SAT`; a block
with a NaN scale stores zero. -/
def scaledElement (fmt : Fmt) (scale : Nat) (mode : Rounding) (v : Num) : Nat × Nat :=
  if scale = 255 then (0, 0)
  else
    let x := v.scale (127 - (scale : Int))
    let y : Num := match fmt with | .int8 => x.scale 6 | .int4 => x.scale 2 | _ => x
    let r := narrow fmt mode y
    if r.2 = 0 then (r.1, 0) else (r.1, flagFpSat)

/-- The element code of a `PAD_VALUE` (R47, R126, R134): 0 zero; 1 −∞ or the most negative finite value; 2 +∞ or the
most positive finite value. -/
def padCode (fmt : Fmt) (pad : Nat) : Nat :=
  if pad = 0 then 0
  else
    let s := decide (pad = 1)
    if fmt.isInt then wrapNat (if s then -(2 ^ (fmt.width - 1)) else 2 ^ (fmt.width - 1) - 1) fmt.width
    else match fmt.fp.sp with
      | .ieee => fmt.fp.infCode s
      | _ => fmt.fp.signBit s + fmt.fp.maxMag

/-- The widenings of R136. -/
def widenOk (src : Fmt) (scaled : Bool) (dst : Fmt) : Bool :=
  match src, dst with
  | .e4m3, .bf16 | .e4m3, .fp16 | .e4m3, .fp32 | .e5m2, .bf16 | .e5m2, .fp16 | .e5m2, .fp32
  | .e3m2, .bf16 | .e3m2, .fp16 | .e3m2, .fp32 | .e2m3, .bf16 | .e2m3, .fp16 | .e2m3, .fp32
  | .e2m1, .bf16 | .e2m1, .fp16 | .e2m1, .fp32 => true
  | .bf16, .fp32 | .fp16, .fp32 => true
  | .fp32, .fp64 => true
  | .int8, .fp32 | .int8, .fp16 | .int8, .bf16 | .int4, .fp32 | .int4, .fp16 | .int4, .bf16 => true
  | .int8, .int32 | .int4, .int32 => !scaled
  | _, _ => false

/-- The random bits of R146: a function of the key's seed and unit, the stream count, the instruction index, the repeat
index and the element's position; implementation-defined, so free. (DESIGN CHOICE, log entry 63.) -/
def drawBits (seed unit count instr rep pos : Nat) : Nat := Config.random seed unit count instr rep pos % 65536

/-- The rounding mode of one element of an output with `SR` as given. -/
def srMode (sr : Bool) (seed unit count instr rep pos : Nat) : Rounding :=
  if sr then .stochastic (drawBits seed unit count instr rep pos) else .nearest

/-- An integer square root by bits, from bit `n - 1` down: the largest r with r² ≤ x. -/
def isqrtFrom : Nat → Nat → Nat → Nat
  | 0, r, _ => r
  | n + 1, r, x => isqrtFrom n (if (r + 2 ^ n) * (r + 2 ^ n) ≤ x then r + 2 ^ n else r) x

def isqrt (x : Nat) : Nat := isqrtFrom (Nat.log2 x / 2 + 1) 0 x

/-- The quotient of two values with its excess recorded in a sticky low bit, so that one rounding of it rounds the exact
quotient correctly; ∞ and zero cases as IEEE 754 gives (R189). -/
def Num.div : Num → Num → Num
  | .nan, _ => .nan
  | _, .nan => .nan
  | .inf _, .inf _ => .nan
  | .inf s, .fin t _ _ => .inf (s != t)
  | .fin s _ _, .inf t => .fin (s != t) 0 0
  | .fin s m e, .fin t n f =>
    if n = 0 then (if m = 0 then .nan else .inf (s != t))
    else
      let k := 64 + Nat.log2 n
      let q := (m <<< k) / n
      let r := (m <<< k) % n
      .fin (s != t) (2 * q + (if r = 0 then 0 else 1)) (e - f - (k : Int) - 1)

/-- The square root with a sticky low bit (R189). -/
def Num.sqrt : Num → Num
  | .nan => .nan
  | .inf s => if s then .nan else .inf false
  | .fin s m e =>
    if m = 0 then .fin s 0 0
    else if s then .nan
    else
      let odd := e % 2 = 1
      let m2 := if odd then 2 * m else m
      let e2 := if odd then e - 1 else e
      let x := m2 <<< 320
      let r := isqrt x
      .fin false (2 * r + (if r * r = x then 0 else 1)) (e2 / 2 - 161)

/-- The integral values of `FLOOR`, `CEIL` and `RINT` (R187); a zero result keeps the operand's sign (IEEE 754). -/
def Num.integral (x : Num) (f : Bool → Nat → Nat → Nat) : Num :=
  match x with
  | .fin s m e => if 0 ≤ e then x else .fin s (f s m (-e).toNat) 0
  | y => y

def Num.floor (x : Num) : Num :=
  x.integral (fun s m d => if s && decide (m % 2 ^ d ≠ 0) then m / 2 ^ d + 1 else m / 2 ^ d)
def Num.ceil (x : Num) : Num :=
  x.integral (fun s m d => if !s && decide (m % 2 ^ d ≠ 0) then m / 2 ^ d + 1 else m / 2 ^ d)
def Num.rint (x : Num) : Num := x.integral (fun _ m d => roundShift m d .nearest)

end Sys2Proof.Machine
end

