-- ==== Sys2Proof/Machine/Sparse.lean ====
section
/-!
DEFINITION. Sparse data by key: a list of (key, value) pairs in one canonical form (keys strictly rising, no entry
equal to what an unlisted key reads as), with the read, the write and the region operations every sparse store of the
model uses (control space, memory, tiles).
-/

namespace Sys2Proof.Machine

/-- The value at a key: the listed one, else what an unlisted key reads as. -/
def Sparse.get {α : Type} (dflt : Nat → α) : List (Nat × α) → Nat → α
  | [], k => dflt k
  | p :: t, k => if p.1 = k then p.2 else Sparse.get dflt t k

/-- The list without a key. -/
def Sparse.erase {α : Type} (l : List (Nat × α)) (k : Nat) : List (Nat × α) :=
  l.filter (fun p => decide (p.1 ≠ k))

/-- The list with an entry put before the first higher key. -/
def Sparse.insert {α : Type} (k : Nat) (v : α) : List (Nat × α) → List (Nat × α)
  | [] => [(k, v)]
  | p :: t => if k < p.1 then (k, v) :: p :: t else p :: Sparse.insert k v t

/-- Writing a value: the key's entry is replaced, and it is left out when it equals what an unlisted key reads as. -/
def Sparse.put {α : Type} [DecidableEq α] (dflt : Nat → α) (l : List (Nat × α)) (k : Nat) (v : α) : List (Nat × α) :=
  if v = dflt k then Sparse.erase l k else Sparse.insert k v (Sparse.erase l k)

/-- Every key that a test picks goes back to what an unlisted key reads as (a reset or a scrub of a region). -/
def Sparse.clear {α : Type} (l : List (Nat × α)) (p : Nat → Bool) : List (Nat × α) :=
  l.filter (fun e => !p e.1)

/-- Keys strictly rise. -/
def Sparse.rising {α : Type} : List (Nat × α) → Bool
  | [] => true
  | [_] => true
  | p :: q :: t => decide (p.1 < q.1) && Sparse.rising (q :: t)

/-- The canonical form: keys strictly rise and no entry equals what an unlisted key reads as. -/
def Sparse.wf {α : Type} [DecidableEq α] (dflt : Nat → α) (l : List (Nat × α)) : Bool :=
  Sparse.rising l && l.all (fun p => decide (p.2 ≠ dflt p.1))

/-- Writing values at consecutive keys. -/
def Sparse.putRun {α : Type} [DecidableEq α] (dflt : Nat → α) (l : List (Nat × α)) (k : Nat) : List α → List (Nat × α)
  | [] => l
  | v :: t => Sparse.putRun dflt (Sparse.put dflt l k v) (k + 1) t

/-- The values at `n` consecutive keys. -/
def Sparse.getRun {α : Type} (dflt : Nat → α) (l : List (Nat × α)) (k : Nat) : Nat → List α
  | 0 => []
  | n + 1 => Sparse.get dflt l k :: Sparse.getRun dflt l (k + 1) n

end Sys2Proof.Machine
end

