-- ==== Sys2Proof/Machine/Tile.lean ====
section
/-!
DEFINITION. Tiles (R33, R90, R133): a 128 × 128 array of element codes with a format tag and, where it carries them, its
block scales; and the arithmetic of Crest on tiles (05_crest_matrix).
-/

namespace Sys2Proof.Machine

/-- A tile. `elems` lists the element codes that are not 0, by position 128 × row + column; `block` is the scale-block
size in elements, 0 for a tile without scales; `axis` is the dimension its blocks run along; `scales` lists the scale
bytes that are not 0x7F, by 128 × line + block index (R90, R133). -/
structure Tile where
  fmt : Fmt
  block : Nat
  axis : Nat
  elems : List (Nat × Nat)
  scales : List (Nat × Nat)
  deriving DecidableEq, Repr

/-- A zeroed tile register: zeros tagged FP32 with no scales (R90). -/
def Tile.zeroed : Tile := { fmt := .fp32, block := 0, axis := 0, elems := [], scales := [] }

/-- The element code at row i, column j. -/
def Tile.code (t : Tile) (i j : Nat) : Nat := Sparse.get (fun _ => 0) t.elems (128 * i + j)

/-- The scale byte of the element at row i, column j; 0x7F (scale 1) for a tile without scales. -/
def Tile.scaleAt (t : Tile) (i j : Nat) : Nat :=
  if t.block = 0 then 127
  else if t.axis = 0 then Sparse.get (fun _ => 127) t.scales (128 * i + j / t.block)
  else Sparse.get (fun _ => 127) t.scales (128 * j + i / t.block)

def Tile.scaled (t : Tile) : Bool := decide (t.block ≠ 0)

/-- The value of the element at row i, column j (R132). -/
def Tile.val (t : Tile) (i j : Nat) : Num :=
  if t.block = 0 then t.fmt.decode (t.code i j) else scaledValue t.fmt (t.code i j) (t.scaleAt i j)

/-- The positions of the first `rows` rows and `cols` columns, in ascending order. -/
def positions (rows cols : Nat) : List (Nat × Nat) :=
  (List.range rows).flatMap (fun i => (List.range cols).map (fun j => (i, j)))

/-- The sparse list of a function's non-zero values over the first `rows` rows and `cols` columns. -/
def sparseOf (rows cols : Nat) (f : Nat → Nat → Nat) : List (Nat × Nat) :=
  ((positions rows cols).map (fun p => (128 * p.1 + p.2, f p.1 p.2))).filter (fun e => decide (e.2 ≠ 0))

/-- A tile without scales whose element codes a function gives over a top-left part; zero elsewhere. -/
def Tile.ofFn (fmt : Fmt) (rows cols : Nat) (f : Nat → Nat → Nat) : Tile :=
  { fmt := fmt, block := 0, axis := 0, elems := sparseOf rows cols f, scales := [] }

/-- The tile with its rows and columns exchanged (COL.LOADT). -/
def Tile.transpose (t : Tile) : Tile :=
  { t with axis := if t.block = 0 then t.axis else 1 - t.axis, elems := sparseOf 128 128 (fun i j => t.code j i) }

/-! ### Crest -/

/-- The instruction shapes of R154: output rows, output columns, reduction length, fold factor, and whether columns or
rows are folded. -/
structure Shape where
  ms : Nat
  ns : Nat
  ks : Nat
  f : Nat
  colFold : Bool
  rowFold : Bool
  deriving DecidableEq, Repr

def Shape.of (code : Nat) : Shape :=
  match code with
  | 1 => ⟨128, 64, 128, 2, true, false⟩
  | 2 => ⟨128, 32, 128, 4, true, false⟩
  | 3 => ⟨128, 16, 128, 8, true, false⟩
  | 4 => ⟨64, 128, 128, 2, false, true⟩
  | 5 => ⟨32, 128, 128, 4, false, true⟩
  | 6 => ⟨16, 128, 128, 8, false, true⟩
  | 7 => ⟨128, 128, 64, 1, false, false⟩
  | _ => ⟨128, 128, 128, 1, false, false⟩

/-- The fold code of a shape: 0 for shapes 0x0 and 0x7 (R159). -/
def foldCode (shape : Nat) : Nat := if shape = 7 then 0 else shape

/-- The tree depth D of R152, by the wider operand. -/
def treeDepth (a b : Fmt) : Nat :=
  let w := Nat.max a.width b.width
  if w ≤ 4 then 32 else if w ≤ 8 then 16 else if w ≤ 16 then 8 else 2

/-- Cycles per repeat (R155). -/
def mmaCycles (d : Nat) (s : Shape) : Nat := (s.ks + d * s.f - 1) / (d * s.f)

/-- The pipeline latency l_p (R157). -/
def mmaLatency (a b : Fmt) (scaled : Bool) : Nat :=
  3 + (if a = .fp32 ∨ b = .fp32 then 3 else 2) + Nat.log2 (treeDepth a b) + (if scaled then 1 else 0) + 3

/-- Whether a bank accumulates in INT32 for these operands (R141). -/
def accInt (a b : Tile) : Bool :=
  (decide (a.fmt = .int8) || decide (a.fmt = .int4)) && (decide (b.fmt = .int8) || decide (b.fmt = .int4)) &&
    !a.scaled && !b.scaled

/-- Operand tags Crest accepts: 0x0 to 0x9 (R135). -/
def crestAccepts (f : Fmt) : Bool := decide (f.code ≤ 9)

/-- An accumulator bank (R159): its type, its fold code, and the accumulators that are not zero as 32-bit codes, by
position 128 × i + j. -/
structure Bank where
  int : Bool
  fold : Nat
  acc : List (Nat × Nat)
  deriving DecidableEq, Repr

/-- A bank that R40 has zeroed. -/
def Bank.zeroed : Bank := { int := false, fold := 0, acc := [] }

def Bank.at (b : Bank) (i j : Nat) : Nat := Sparse.get (fun _ => 0) b.acc (128 * i + j)

/-- Adding one slice's exact sum to an accumulator: one rounding in FP32, wrap in INT32 (R140, R141). The second part
says whether an INT32 accumulation wrapped. -/
def accumulate (int : Bool) (acc : Nat) (sum : Num) : Nat × Bool :=
  if int then
    match sum with
    | .fin s m e =>
      let v : Int := signedOf acc 32 + roundInt s m e .nearest
      (wrapNat v 32, decide (v ≠ signedOf (wrapNat v 32) 32))
    | _ => (acc, false)
  else (Fmt.fp32.round ((Fmt.fp32.decode acc).add sum), false)

/-- The exact dot product over the reduction indices `ks` of cell output (i, j) (R140, R151). -/
def dotSlice (a b : Tile) (i j : Nat) (ks : List Nat) : Num :=
  (ks.map (fun k => (a.val i k).mul (b.val k j))).foldl Num.add Num.zero

/-- The slices, each of depth D, of the reduction indices from `lo` up to `hi`, in ascending order (R171). -/
def slices (lo hi d : Nat) : List (List Nat) :=
  (List.range ((hi - lo + d - 1) / d)).map (fun t => (List.range' (lo + t * d) d).filter (fun k => decide (k < hi)))

/-- One cell's part of a repeat: its output row and column, and its slice of the reduction (R156). -/
def cellPart (s : Shape) (i j : Nat) : Nat × Nat × Nat × Nat :=
  let g := if s.colFold then j / s.ns else if s.rowFold then i / s.ms else 0
  let len := s.ks / s.f
  (if s.rowFold then i % s.ms else i, if s.colFold then j % s.ns else j, g * len, (g + 1) * len)

/-- One cell's accumulator after a repeat. -/
def cellRepeat (a b : Tile) (s : Shape) (d : Nat) (int : Bool) (acc : Nat) (i j : Nat) : Nat × Bool :=
  let p := cellPart s i j
  (slices p.2.2.1 p.2.2.2 d).foldl
    (fun st ks => let r := accumulate int st.1 (dotSlice a b p.1 p.2.1 ks); (r.1, st.2 || r.2)) (acc, false)

/-- A repeat of a CREST.MMA on a bank (R140, R150, R151, R156, R171): the new accumulators, and whether one wrapped. -/
def mmaRepeat (a b : Tile) (shape : Nat) (bank : Bank) : Bank × Bool :=
  let s := Shape.of shape
  let d := treeDepth a.fmt b.fmt
  let cells := (positions 128 128).map (fun p =>
    (128 * p.1 + p.2, cellRepeat a b s d bank.int (bank.at p.1 p.2) p.1 p.2))
  ({ bank with acc := (cells.map (fun c => (c.1, c.2.1))).filter (fun e => decide (e.2 ≠ 0)) }, cells.any (fun c => c.2.2))

/-- Whether an element is a zero code (R169). -/
def Tile.zeroCode (t : Tile) (i j : Nat) : Bool := (t.fmt.decode (t.code i j)).isZero

/-- Whether an element forbids gating: an infinity, a NaN, or an element of a block whose scale is 0xFF (R170). -/
def Tile.noGate (t : Tile) (i j : Nat) : Bool := !(t.val i j).isFinite

/-- The element pairs gated and the element pairs in all, over one repeat (R169, R170, R176): a slice is what the array
takes in one cycle, every row's and every column's D elements. -/
def gateCount (a b : Tile) (shape : Nat) : Nat × Nat :=
  let s := Shape.of shape
  let d := treeDepth a.fmt b.fmt
  let len := s.ks / s.f
  let groups := List.range s.f
  let per := (slices 0 len d).map (fun ks =>
    let idx := groups.flatMap (fun g => ks.map (fun k => g * len + k))
    let bad := idx.any (fun k => (List.range s.ms).any (fun i => a.noGate i k) || (List.range s.ns).any (fun j => b.noGate k j))
    let n := (idx.map (fun k =>
      let za := ((List.range s.ms).filter (fun i => a.zeroCode i k)).length
      let zb := ((List.range s.ns).filter (fun j => b.zeroCode k j)).length
      s.ms * s.ns - (s.ms - za) * (s.ns - zb))).sum
    if bad then 0 else n)
  (per.sum, s.ms * s.ns * s.ks)

/-- The balanced pairwise tree of a list of 2^n values under an operation (R165, R197): the even-length levels are
combined in ascending order; an odd value left over passes up unchanged. -/
def pairUp {α : Type} (f : α → α → α) : List α → List α
  | a :: b :: t => f a b :: pairUp f t
  | l => l

def treeOf {α : Type} (f : α → α → α) (d : α) : Nat → List α → α
  | 0, l => l.headD d
  | n + 1, l => treeOf f d n (pairUp f l)

/-- An FP32 or INT32 accumulator addition of the drain (R165). -/
def drainAdd (int : Bool) (x y : Nat) : Nat :=
  if int then (x + y) % 2 ^ 32 else Fmt.fp32.round ((Fmt.fp32.decode x).add (Fmt.fp32.decode y))

/-- Stage 1 of the drain: the fold's partials of output (i, j) summed (R165). -/
def drainFold (b : Bank) (i j : Nat) : Nat :=
  if b.fold = 0 then b.at i j
  else
    let s := Shape.of b.fold
    let parts := (List.range s.f).map (fun g => if s.colFold then b.at i (g * s.ns + j) else b.at (g * s.ms + i) j)
    treeOf (drainAdd b.int) 0 3 parts

/-- The derivative of R167, an FP32 code; `leak` is `LEAK_SLOPE`. Codes 0x3, 0x4, 0x5 and 0x8 are free where R168 gives
only a bound. -/
def derivCode (code leak : Nat) (x : Num) : Nat :=
  let r := Fmt.fp32.round
  if x.isNan then r .nan
  else match code with
    | 1 => r (if Num.lt Num.zero x then Num.one else Num.zero)
    | 2 => r (if Num.lt Num.zero x then Num.one else Fmt.bf16.decode leak)
    | 6 => r (x.mul (Num.one.sub x))
    | 7 => r (Num.one.sub (x.mul x))
    | 9 => r ((Num.ofInt 2).mul (Num.max x Num.zero))
    | c => match x with
      | .inf false => r Num.one
      | .inf true => r Num.zero
      | y => Config.derivative c (r y) % 2 ^ 32

/-- One output of the drain (R165): fold, fuse, derivative, narrow; the code and the flags. (DEDUCED, log entry 38.) -/
def drainOne (b : Bank) (fuse deriv leak : Nat) (ft : Tile) (out : Fmt) (mode : Rounding) (i j : Nat) : Nat × Nat :=
  let v0 := drainFold b i j
  if b.int then (v0, 0)
  else
    let f := ft.val i j
    let x0 := Fmt.fp32.decode v0
    let x1 := if fuse = 1 then Fmt.fp32.decode (Fmt.fp32.round (x0.add f))
      else if fuse = 2 then Fmt.fp32.decode (Fmt.fp32.round (x0.mul f)) else x0
    let x2 := if deriv = 0 then x1
      else Fmt.fp32.decode (Fmt.fp32.round (x1.mul (Fmt.fp32.decode (derivCode deriv leak f))))
    narrow out mode x2

/-- The drain of a bank (R165, R166): the output tile and the flags of R138; `mode` gives each position's rounding. -/
def drainTile (b : Bank) (fuse deriv leak : Nat) (ft : Tile) (out : Fmt) (mode : Nat → Rounding) : Tile × Nat :=
  let s := Shape.of b.fold
  let cells := (positions s.ms s.ns).map (fun p =>
    (128 * p.1 + p.2, drainOne b fuse deriv leak ft out (mode (128 * p.1 + p.2)) p.1 p.2))
  ({ fmt := out, block := 0, axis := 0, scales := [],
     elems := (cells.map (fun c => (c.1, c.2.1))).filter (fun e => decide (e.2 ≠ 0)) },
   cells.foldl (fun fl c => fl ||| c.2.2) 0)

end Sys2Proof.Machine
end

