-- ==== Sys2Proof/Machine/StreamTypes.lean ====
section
/-!
DEFINITION. The state of tile streams (02, 05, 06, 07) that is not a control-space register: descriptors, what a
dispatcher has placed, tile queues, accumulator banks, pending results, marks and postings, and streams. Plain data.
-/

namespace Sys2Proof.Machine

/-- A tensor descriptor, its fields pulled out of the 64 bytes of R47. -/
structure Desc where
  layout : Nat
  rank : Nat
  valid : Bool
  fmt : Nat
  base : Nat
  padWrite : Bool
  index : Bool
  gradAccum : Bool
  gradient : Bool
  activation : Bool
  weight : Bool
  pdom : Nat
  rsv55 : Bool
  scaleAxis : Nat
  scaleBlock : Nat
  scaleBase : Nat
  rsv5to2 : Nat
  oor : Nat
  ext : List Nat
  stride : List Nat
  rows : Nat
  cols : Nat
  padHi1 : Nat
  padLo1 : Nat
  padHi0 : Nat
  padLo0 : Nat
  padValue : Nat
  deriving DecidableEq, Repr

/-- One operand's address register as the dispatcher placed it: the coordinates of repeat 0 and what each repeat adds
(R58). -/
structure AxSnap where
  c : List Int
  inc : List Int
  deriving DecidableEq, Repr

/-- An instruction in a station's sequence (R26): its place in stream order, its index in the image, the operands'
address snapshots, its pass (R636), the repeats begun and the repeats finished. A SYNC.WAIT placed in a sequence is one of these. -/
structure Placed where
  seq : Nat
  idx : Nat
  ins : Ewx
  a : AxSnap
  b : AxSnap
  pass : Nat
  begun : Nat
  done : Nat
  deriving DecidableEq, Repr

/-- A pending SYNC.SIGNAL (R66): it fires once every earlier instruction of its stations has completed. -/
structure Signal where
  seq : Nat
  idx : Nat
  counter : Nat
  inc : Nat
  mask : Nat
  deriving DecidableEq, Repr

/-- An entry of a tile queue (R35): its tile, and whether it is full. -/
structure QEntry where
  tile : Tile
  full : Bool
  station : Nat
  deriving DecidableEq, Repr

/-- A tile queue: its entries, oldest first, and how many entries a stationary operand still occupies (R100). -/
structure TQueue where
  entries : List QEntry
  held : Nat
  deriving DecidableEq, Repr

/-- The tile queues of R34, in its order. -/
inductive QId where
  | aFeed | bFeed | drain | store | screeSpur | screeCrest
  deriving DecidableEq, Repr

/-- A result on its way to a tile register, written at the event that finishes it (R28, R161, R180, R248). -/
structure RegWrite where
  station : Nat
  seq : Nat
  treg : Nat
  tile : Tile
  deriving DecidableEq, Repr

/-- A tile that Col has read ahead into a staging register (R231). -/
structure Staged where
  seq : Nat
  rep : Nat
  tile : Tile
  deriving DecidableEq, Repr

/-- The drain unit of Crest (R160, R161): whether it reads a bank, which bank, and whether the last drain that claimed
goes to the drain queue. -/
structure DrainSt where
  busy : Bool
  bank : Nat
  toQueue : Bool
  deriving DecidableEq, Repr

/-- An open loop: the instruction after its CTRL.LOOP, and the iterations left (R62). -/
structure LoopFrame where
  body : Nat
  count : Nat
  deriving DecidableEq, Repr

/-- A leaf that a translation cache holds (R272). -/
structure TlbEntry where
  ctx : Nat
  va : Nat
  size : Nat
  pa : Nat
  write : Bool
  pdom : Nat
  locked : Bool
  deriving DecidableEq, Repr

/-- A mark that Talus has sent (R238): its layer, its handle, and whether the link interface has accepted it. -/
structure Mark where
  seq : Nat
  layer : Nat
  handle : Nat
  accepted : Bool
  deriving DecidableEq, Repr

/-- A page walk in flight (R272): the repeat that needs it, the sector's address, the descriptor's handle and the direction. -/
structure Walk where
  station : Nat
  seq : Nat
  rep : Nat
  va : Nat
  handle : Nat
  write : Bool
  deriving DecidableEq, Repr

/-- A host-memory transaction outstanding (R575): who waits for it; `merge` holds the offsets, bytes and bit masks that a partial store puts into
the sector it reads (R129). -/
inductive TxnOwner where
  | col (range seq rep : Nat)
  | talus (range seq rep : Nat)
  | cmd (lane : Lane) (ctx tag : Nat)
  | entry (ctx idx : Nat)
  | port
  | nobody
  deriving DecidableEq, Repr

structure HostTxn where
  tag : Nat
  write : Bool
  addr : Nat
  data : List Byte
  merge : List (Nat × Nat × Nat)
  owner : TxnOwner
  since : Nat
  deriving DecidableEq, Repr

/-- The range's hidden state: dispatcher, station sequences, queues, tile file, banks, drain unit, results under way,
caches, marks and postings. Registers of the range live in control space. -/
structure RangeSt where
  stream : Option Nat
  lastCtx : Nat
  streamCount : Nat
  pc : Nat
  nextSeq : Nat
  loops : List LoopFrame
  fence : Option (Nat × Nat)
  ctrlWait : Option (Nat × Nat × Nat)
  ended : Bool
  col : List Placed
  crest : List Placed
  spur : List Placed
  talus : List Placed
  scree : List Placed
  link : List Placed
  signals : List Signal
  aFeed : TQueue
  bFeed : TQueue
  drain : TQueue
  store : TQueue
  screeSpur : TQueue
  screeCrest : TQueue
  tiles : List (Nat × Tile)
  bank0 : Bank
  bank1 : Bank
  statA : Option Tile
  statB : Option Tile
  gate : Nat × Nat
  drainUnit : DrainSt
  regWrites : List RegWrite
  staged : List Staged
  kernNorm : Nat
  norms : List Nat
  tlbCol : List TlbEntry
  tlbTalus : List TlbEntry
  tlbScree : List TlbEntry
  walks : List Walk
  hostReps : List (Nat × Nat)
  hostData : List (Nat × Byte)
  passes : List (Nat × Nat)
  rowCache : List (Nat × List Byte)
  cacheHits : Nat × Nat
  marks : List Mark
  progress : Nat
  halted : Bool
  deriving DecidableEq, Repr

/-- Who started a stream: a STREAM_START, or an entry of a schedule table. -/
inductive Starter where
  | command (lane : Lane) (tag : Nat)
  | entry (idx : Nat)
  deriving DecidableEq, Repr

/-- A stream (R41 to R45): its context, image, ranges, mode, its unit of work at Treeline, and its slot clock. -/
structure Stream where
  id : Nat
  ctx : Nat
  imageNo : Nat
  image : Image
  mask : Nat
  lockstep : Bool
  starter : Starter
  prio : Nat
  admitted : Bool
  waitSince : Nat
  grant : Rat
  boost : Nat
  fL : Nat
  startAt : Option Nat
  slot : Nat
  progress : Nat
  deriving DecidableEq, Repr

end Sys2Proof.Machine
end

