-- ==== Sys2Proof/Machine/Desc.lean ====
section
/-!
DEFINITION. Tensor descriptors (R46 to R55, R221 to R224): reading the 64 bytes, the checks of DESC_LOAD, spans, element
addresses, the classes of tile positions and the places of scales. Pure functions.
-/

namespace Sys2Proof.Machine

/-- Reading a descriptor (R47). -/
def Desc.ofBytes (l : List Byte) : Desc :=
  let w0 := leAt l 0 8
  let w1 := leAt l 8 8
  let w2 := leAt l 0x3C 4
  { layout := bitsOf w0 60 4, rank := bitsOf w0 57 3, valid := bitOf w0 56, fmt := bitsOf w0 52 4,
    base := bitsOf w0 6 46 * 64, padWrite := bitOf w0 5, index := bitOf w0 4, gradAccum := bitOf w0 3,
    gradient := bitOf w0 2, activation := bitOf w0 1, weight := bitOf w0 0,
    pdom := bitsOf w1 56 8, rsv55 := bitOf w1 55, scaleAxis := bitsOf w1 54 1, scaleBlock := bitsOf w1 52 2,
    scaleBase := bitsOf w1 6 46 * 64, rsv5to2 := bitsOf w1 2 4, oor := bitsOf w1 0 2,
    ext := (List.range 6).map (fun d => leAt l (0x10 + 4 * d) 4),
    stride := 1 :: (List.range 5).map (fun d => leAt l (0x28 + 4 * d) 4),
    rows := bitsOf w2 25 7, cols := bitsOf w2 18 7, padHi1 := bitsOf w2 14 4, padLo1 := bitsOf w2 10 4,
    padHi0 := bitsOf w2 6 4, padLo0 := bitsOf w2 2 4, padValue := bitsOf w2 0 2 }

/-- The extent of a dimension: 1 for a field set to 0 at or beyond the rank (R52, cause 0x04). -/
def Desc.extent (d : Desc) (i : Nat) : Nat := if i < d.rank then d.ext.getD i 0 else 1

def Desc.strideAt (d : Desc) (i : Nat) : Nat := d.stride.getD i 0

def Desc.format (d : Desc) : Fmt := (Fmt.ofCode d.fmt).getD .fp32

/-- The scale-block size in elements; 0 without scales (R47). -/
def Desc.block (d : Desc) : Nat := match d.scaleBlock with | 1 => 32 | 2 => 16 | _ => 0

/-- The element offset of R48 with the layouts of R222. -/
def Desc.offset (d : Desc) (c : List Int) : Int :=
  let c0 := c.getD 0 0
  let c1 := if 2 ≤ d.rank then c.getD 1 0 else 0
  let s1 : Int := if 2 ≤ d.rank then (d.strideAt 1 : Int) else 0
  let plane : Int :=
    if d.layout = 0 then c0 + c1 * s1
    else
      let blk := (c1 / 128) * s1 + (c0 / 128) * 16384
      if d.layout = 1 then blk + (c1 % 128) * 128 + c0 % 128 else blk + (c0 % 128) * 128 + c1 % 128
  (List.range 4).foldl (fun o k => if k + 2 < d.rank then o + c.getD (k + 2) 0 * (d.strideAt (k + 2) : Int) else o) plane

/-- The bit address of an element (R48, R127, R128). -/
def Desc.bitAddr (d : Desc) (c : List Int) : Nat := ((d.base : Int) * 8 + d.offset c * (d.format.width : Int)).toNat

/-- The coordinates of the last element. -/
def Desc.lastCoords (d : Desc) : List Int := (List.range 6).map (fun i => (d.extent i : Int) - 1)

/-- The number of bytes of the span: from `BASE` to the last byte of the last element (R52). -/
def Desc.spanBytes (d : Desc) : Nat := (d.offset d.lastCoords * (d.format.width : Int) + (d.format.width : Int) + 7).toNat / 8

/-- The extents of the scale array (R51). -/
def Desc.scaleExt (d : Desc) (i : Nat) : Nat :=
  if i = d.scaleAxis then (d.extent i + d.block - 1) / d.block else d.extent i

/-- P[d] of R51: the product of the scale array's extents below d. -/
def Desc.scaleProd (d : Desc) : Nat → Nat
  | 0 => 1
  | i + 1 => d.scaleProd i * d.scaleExt i

def Desc.scaleBytes (d : Desc) : Nat := if d.block = 0 then 0 else d.scaleProd 6

/-- The address of the scale of an element (R51). -/
def Desc.scaleAddr (d : Desc) (c : List Int) : Nat :=
  d.scaleBase + ((List.range 6).map (fun i =>
    let x := if i < d.rank then (c.getD i 0).toNat else 0
    (if i = d.scaleAxis then x / d.block else x) * d.scaleProd i)).sum

/-- One check of R52 or R223 with the cause it reports. -/
def Desc.cause (d : Desc) (granted : Nat → Bool) : Option Nat :=
  let stridesBad (k : Nat) : Bool := (List.range 5).any (fun i => decide (i + 1 < d.rank) && decide (d.strideAt (i + 1) % k ≠ 0))
  let kinds := b2n d.weight + b2n d.activation + b2n d.gradient + b2n d.index
  if 0xC ≤ d.fmt then some 0x02
  else if d.rank = 0 ∨ d.rank = 7 then some 0x03
  else if (List.range 6).any (fun i => if i < d.rank then decide (d.ext.getD i 0 = 0) else decide (d.ext.getD i 0 ≠ 0)) then some 0x04
  else if d.rank = 1 ∧ d.rows ≠ 0 then some 0x05
  else if (d.format.width = 4 && stridesBad 2) || (d.format.width = 6 && stridesBad 4) then some 0x06
  else if d.scaleBlock = 3 || (decide (d.scaleBlock ≠ 0) && !d.format.scalable) then some 0x07
  else if decide (1 < kinds) || (d.gradAccum && !d.weight) || (d.index && decide (d.format ≠ .int32)) then some 0x08
  else if d.oor = 3 || (decide (d.oor ≠ 0) && !d.index) then some 0x09
  else if !granted d.pdom then some 0x0A
  else if 3 ≤ d.layout then some 0x0B
  else if 2 ^ 52 < d.base + d.spanBytes || 2 ^ 52 < d.scaleBase * b2n (decide (d.block ≠ 0)) + d.scaleBytes then some 0x0C
  else if d.rsv55 || decide (d.rsv5to2 ≠ 0) || decide (d.padValue = 3) then some 0x0D
  else if d.layout ≠ 0 ∧ (d.rank < 2 ∨ d.strideAt 1 < (d.extent 0 + 127) / 128 * 16384 ∨
      d.padHi0 + d.padLo0 + d.padHi1 + d.padLo1 ≠ 0) then some 0x0E
  else none

/-- Whether two spans intersect (R54). -/
def Desc.spansMeet (a b : Desc) : Bool :=
  decide (a.base < b.base + b.spanBytes) && decide (b.base < a.base + a.spanBytes)

/-- A trained weight, whose span R54 compares. -/
def Desc.trained (d : Desc) : Bool := d.valid && d.weight && d.gradAccum

/-- The classes of R49. -/
inductive PosClass where
  | inExtent | padding | masked
  deriving DecidableEq, Repr

/-- The class of a position by its coordinates in dimensions 0 and 1 (R49). -/
def Desc.classOf (d : Desc) (c : List Int) : PosClass :=
  let c0 := c.getD 0 0
  let c1 := if 2 ≤ d.rank then c.getD 1 0 else 0
  let e0 : Int := d.extent 0
  let e1 : Int := d.extent 1
  if 0 ≤ c0 ∧ c0 < e0 ∧ 0 ≤ c1 ∧ c1 < e1 then .inExtent
  else if -(d.padLo0 : Int) ≤ c0 ∧ c0 < e0 + d.padHi0 ∧ -(d.padLo1 : Int) ≤ c1 ∧ c1 < e1 + d.padHi1 then .padding
  else .masked

/-- Whether a coordinate in a dimension from 2 upward lies outside its extent (R50). -/
def Desc.coordOut (d : Desc) (c : List Int) : Bool :=
  (List.range 4).any (fun k => decide (k + 2 < d.rank) &&
    (decide (c.getD (k + 2) 0 < 0) || decide ((d.extent (k + 2) : Int) ≤ c.getD (k + 2) 0)))

/-- The tile shape in the tensor's orientation (R33, R47). -/
def Desc.tileRows (d : Desc) : Nat := d.rows + 1
def Desc.tileCols (d : Desc) : Nat := d.cols + 1

/-- The coordinates of tile position (i, j) from an origin (R56), or transposed (R225). -/
def tileCoords (o : List Int) (i j : Nat) (tr : Bool) : List Int :=
  let r : Int := if tr then (j : Int) else (i : Int)
  let c : Int := if tr then (i : Int) else (j : Int)
  (o.set 1 (o.getD 1 0 + r)).set 0 (o.getD 0 0 + c)

/-- The origin of repeat r (R58). -/
def AxSnap.at (a : AxSnap) (r : Nat) : List Int :=
  (List.range 6).map (fun d => a.c.getD d 0 + (r : Int) * a.inc.getD d 0)

end Sys2Proof.Machine
end

