-- ==== Sys2Proof/Machine/FabricTypes.lean ====
section
/-!
DEFINITION. The optical fabric (10_cirque_optics, 11_ridge_fabric, 12_saddle_reduction): circuit sets, fabric plans and
their checks, channels, group messages, and the state of the optics, the ports, Saddle and the group protocol that is not a
control-space register. Plain data and pure functions.
-/

namespace Sys2Proof.Machine

/-- A circuit entry (R362). -/
structure Circuit where
  inp : Nat
  out : Nat
  share : Nat
  deriving DecidableEq, Repr

/-- Reading a circuit entry; nothing where a reserved bit or value is set. -/
def Circuit.ofWord (w : Nat) : Option Circuit :=
  if bitsOf w 0 18 ≠ 0 ∨ bitsOf w 18 2 = 3 then none
  else some { inp := bitsOf w 26 6, out := bitsOf w 20 6, share := bitsOf w 18 2 }

/-- How many times a share code requires its input to appear (R363). -/
def shareCount : Nat → Nat
  | 0 => 1 | 1 => 2 | _ => 4

/-- Reading a run of circuit words, or the index of the first that has a reserved bit or value set. -/
def circuitsOf (i : Nat) : List Nat → Except Nat (List Circuit)
  | [] => .ok []
  | w :: t => match Circuit.ofWord w, circuitsOf (i + 1) t with
    | none, _ => .error i
    | some _, .error j => .error j
    | some c, .ok cs => .ok (c :: cs)

/-- Whether entry `i` of a set breaks R363: an output already named, an input that does not appear as its share says, or
a multicast that the mode or the input does not allow. -/
def circuitBad (service : Bool) (l : List Circuit) (i : Nat) (c : Circuit) : Bool :=
  let same := l.filter (fun d => decide (d.inp = c.inp))
  (l.take i).any (fun d => decide (d.out = c.out)) ||
  decide (same.length ≠ shareCount c.share) || same.any (fun d => decide (d.share ≠ c.share)) ||
  (decide (1 < same.length) && (!service || decide (32 ≤ c.inp)))

/-- The first entry that breaks R363. With no output named twice, 64 outputs leave every multicast its companions. -/
def circuitFault (service : Bool) (l : List Circuit) : Option Nat :=
  ((List.range l.length).filter (fun i => match l[i]? with | some c => circuitBad service l i c | none => false)).head?

/-- The inputs in 0 to 63 that no entry names, and the outputs likewise, in ascending order. -/
def freeInputs (l : List Circuit) : List Nat := (List.range 64).filter (fun i => !l.any (fun c => decide (c.inp = i)))
def freeOutputs (l : List Circuit) : List Nat := (List.range 64).filter (fun o => !l.any (fun c => decide (c.out = o)))

/-- The full permutation of a dark map (R368): the output of each input 0 to 63, unnamed inputs joined to unnamed outputs
in ascending order. -/
def darkPermutation (l : List Circuit) : List Nat :=
  let rest := (freeInputs l).zip (freeOutputs l)
  (List.range 64).map (fun i => match l.find? (fun c => decide (c.inp = i)) with
    | some c => c.out
    | none => ((rest.find? (fun p => decide (p.1 = i))).map (fun p => p.2)).getD i)

/-- One column of the odd–even transposition sort: neighbours from an offset that are out of order are exchanged, and each
exchange is a cross (`true`). -/
def sortColumn : List Nat → List Nat × List Bool
  | a :: b :: t => let r := sortColumn t; if b < a then (b :: a :: r.1, true :: r.2) else (a :: b :: r.1, false :: r.2)
  | l => (l, [])

/-- The settings of the columns from `c` on (R360, R368), true for cross. -/
def sortFrom : Nat → Nat → List Nat → List Bool
  | 0, _, _ => []
  | n + 1, c, l =>
    if c % 2 = 0 then let r := sortColumn l; r.2 ++ sortFrom n (c + 1) r.1
    else match l with
      | [] => []
      | h :: t => let r := sortColumn t; r.2.take 31 ++ sortFrom n (c + 1) (h :: r.1)

/-- The bar and cross settings of the 2,016 interferometers that realise a dark map (R360, R368). -/
def darkSettings (l : List Circuit) : List Bool := sortFrom 64 0 (darkPermutation l)

/-- Whether the entries of a DARK_MAP_WRITE are legal (R368). -/
def darkOk (l : List Circuit) : Bool :=
  l.all (fun c => decide (32 ≤ c.inp) && decide (c.share = 0)) && (circuitFault false l).isNone

/-- A port-table entry (R414). -/
structure PortEntry where
  role : Nat
  peerPort : Nat
  laneMin : Nat
  encrypt : Bool
  timingParent : Bool
  linkTag : Nat
  peerSerial : Nat
  deriving DecidableEq, Repr

/-- The entry of a port when no plan is in force. -/
def PortEntry.none : PortEntry :=
  { role := 0, peerPort := 0, laneMin := 4, encrypt := false, timingParent := false, linkTag := 0, peerSerial := 0 }

/-- Reading a port-table entry; nothing where R416 cause 0x02 refuses it. -/
def PortEntry.ofBytes (l : List Byte) : Option PortEntry :=
  let fl := leAt l 3 1
  if leAt l 0 1 ≤ 3 ∧ leAt l 1 1 ≤ 31 ∧ 4 ≤ leAt l 2 1 ∧ leAt l 2 1 ≤ 8 ∧ fl < 4 then
    some { role := leAt l 0 1, peerPort := leAt l 1 1, laneMin := leAt l 2 1, encrypt := bitOf fl 0,
           timingParent := bitOf fl 1, linkTag := leAt l 4 4, peerSerial := leAt l 8 8 }
  else none

/-- The `REDUCE` field of a kind-3 channel (R430). -/
structure ReduceSpec where
  algo : Nat
  wireBlock : Bool
  members : Nat
  index : Nat
  up : Nat
  fanin : Nat
  mport : Nat
  deriving DecidableEq, Repr

/-- A channel-table entry (R415). -/
structure Channel where
  number : Nat
  kind : Nat
  cls : Nat
  port : Nat
  peer : Nat
  slots : Nat
  ctx : Nat
  land : Nat
  reduce : ReduceSpec
  deriving DecidableEq, Repr

def ReduceSpec.ofBytes (l : List Byte) : ReduceSpec :=
  { algo := leAt l 0 1, wireBlock := decide (leAt l 1 1 = 1), members := leAt l 2 2, index := leAt l 4 2,
    up := leAt l 6 2, fanin := leAt l 8 1, mport := leAt l 9 1 }

/-- How many outputs the circuit set gives a port's transmitter. -/
def branchesOf (cs : List Circuit) (p : Nat) : Nat := (cs.filter (fun c => decide (c.inp = p))).length

/-- R431: a legal `REDUCE` field. -/
def reduceOk (cs : List Circuit) (l : List Byte) (r : ReduceSpec) : Bool :=
  decide (r.algo ≤ 2) && decide (leAt l 1 1 ≤ 1) && decide (2 ≤ r.members) && decide (r.members ≤ 4096) &&
  decide (r.index < r.members) && zeroAt l 10 6 &&
  (if r.algo ≤ 1 then decide (r.fanin = 0) && decide (r.mport = 0xFF) && decide (r.up ≠ 0xFFF) && decide (r.up < 4095)
   else decide (r.up = 0xFFF) && decide (r.fanin ≤ 4) &&
     (if r.fanin = 0 then decide (r.mport = 0xFF)
      else decide (r.mport < 32) && decide (branchesOf cs r.mport = (if r.fanin = 3 then 4 else r.fanin))))

/-- Reading a channel-table entry; nothing where R415 or R431 refuses it. -/
def Channel.ofBytes (cs : List Circuit) (l : List Byte) : Option Channel :=
  let kind := leAt l 1 1
  let cls := leAt l 2 1
  let port := leAt l 3 1
  let peer := leAt l 4 2
  let slots := leAt l 6 1
  let ctx := leAt l 7 1
  let land := leAt l 8 2
  let r := ReduceSpec.ofBytes (l.drop 16)
  let ok := decide (kind ≤ 3) && decide (1 ≤ cls) && decide (cls ≤ 2) && (decide (kind ≠ 3) || decide (cls = 1)) &&
    (if kind = 2 then decide (port < 32) else decide (port = 0xFF)) &&
    (match kind with
     | 0 | 1 => decide (peer < 4095)
     | 2 => decide (peer = 0xFFF)
     | _ => if r.algo ≤ 1 then decide (peer < 4095) else decide (peer ≤ 0xFFF)) &&
    (if kind = 1 then decide (1 ≤ slots) && decide (ctx < 16) && decide (land ≠ 0xFFFF)
     else decide (slots = 0) && decide (ctx = 0) && decide (land = 0xFFFF)) && zeroAt l 10 6 &&
    (if kind = 3 then reduceOk cs (l.drop 16) r else zeroAt l 16 16)
  if ok then some { number := leAt l 0 1, kind := kind, cls := cls, port := port, peer := peer, slots := slots, ctx := ctx,
                    land := land, reduce := r } else none

/-- A fabric plan in force (R413). -/
structure Plan where
  id : Nat
  faddr : Nat
  rank : Nat
  size : Nat
  compat : Nat
  balance : Bool
  group : Nat
  ports : List PortEntry
  routes : List Byte
  circuits : List Circuit
  channels : List Channel
  deriving DecidableEq, Repr

def Plan.port (p : Plan) (i : Nat) : PortEntry := p.ports.getD i PortEntry.none
def Plan.route (p : Plan) (a : Nat) : Nat := (p.routes.getD a 0xFF).toNat
def Plan.channel (p : Plan) (n : Nat) : Option Channel := p.channels.find? (fun c => decide (c.number = n))

/-- Every value of a list of options, or nothing. -/
def allSome {α : Type} : List (Option α) → Option (List α)
  | [] => some []
  | none :: _ => none
  | some a :: t => (allSome t).map (fun l => a :: l)

/-- FABRIC_PLAN's checks (R416, R678): the plan, or the lowest cause. `lmin` and `lmax` are the levels implemented. -/
def planCheck (l : List Byte) (lmin lmax : Nat) : Except Nat Plan :=
  let nc := leAt l 0x14 2
  let nch := leAt l 0x16 2
  let faddr := leAt l 0xC 2
  let rank := leAt l 0xE 2
  let size := leAt l 0x10 2
  let hdr := decide (0x1340 ≤ l.length) && decide (leAt l 0 4 = 0x4E4C5046) && decide (leAt l 4 2 = 1) &&
    decide (leAt l 6 2 = 64) && decide (faddr ≤ 4094) && (decide (rank ≤ 4095) || decide (rank = 0xFFFF)) &&
    decide (size ≤ 4096) && (decide (rank = 0xFFFF) == decide (size = 0)) && (decide (rank = 0xFFFF) || decide (rank < size)) &&
    decide (leAt l 0x13 1 ≤ 1) && decide (nc ≤ 64) && decide (nch ≤ 256) && zeroAt l 0x24 28 &&
    decide (l.length = 0x1340 + 32 * nch) && decide (crc32 (l.drop 0x40) = leAt l 0x20 4) &&
    ((l.drop (0x1240 + 4 * nc)).take (256 - 4 * nc)).all (fun b => decide (b = 0))
  if !hdr then .error 1
  else match allSome ((List.range 32).map (fun p => PortEntry.ofBytes ((l.drop (0x40 + 16 * p)).take 16))) with
  | none => .error 2
  | some ports =>
    let routes := (l.drop 0x240).take 4096
    let roleOf (p : Nat) : Nat := (ports.getD p PortEntry.none).role
    let routeBad (a : Nat) (b : Byte) : Bool :=
      if b.toNat < 32 then decide (roleOf b.toNat = 0) || decide (roleOf b.toNat = 3)
      else if b.toNat = 0xFE then decide (a ≠ faddr) else decide (b.toNat ≠ 0xFF)
    if ((List.range 4096).zip routes).any (fun x => routeBad x.1 x.2) then .error 3
    else match circuitsOf 0 ((List.range nc).map (fun i => leAt l (0x1240 + 4 * i) 4)) with
    | .error _ => .error 4
    | .ok cs =>
      let named (p : Nat) : Bool := cs.any (fun c => decide (c.inp = p))
      if (circuitFault true cs).isSome || (List.range 32).any (fun p => named p != decide (roleOf p ≠ 0)) then .error 4
      else match allSome ((List.range nch).map (fun i => Channel.ofBytes cs ((l.drop (0x1340 + 32 * i)).take 32))) with
      | none => .error 5
      | some chs =>
        if !(chs.map (fun c => c.number)).Nodup then .error 5
        else
          let lv := leAt l 0x12 1
          if lv < lmin ∨ lmax < lv then .error 6
          else .ok { id := leAt l 8 4, faddr := faddr, rank := rank, size := size, compat := lv,
                     balance := decide (leAt l 0x13 1 = 1), group := leAt l 0x18 8, ports := ports, routes := routes,
                     circuits := cs, channels := chs }

/-! ### Ports -/

/-- A message under reassembly, or whole and waiting to land, on a channel of kind 1 (R406 to R408). `data` is the message after
its header; `poison` holds the offsets of its poisoned 64-bit words. -/
structure Message where
  port : Nat
  channel : Nat
  number : Nat
  step : Nat
  attempt : Nat
  rows : Nat
  cols : Nat
  fmtTag : Nat
  data : List Byte
  poison : List Nat
  complete : Bool
  deriving DecidableEq, Repr

/-- The hidden state of a port (R389 to R399, R409 to R419, R424, R552 to R554): `txq` holds frames that wait to be sent, `turn`
the place in the 4 : 2 : 1 sharing, `cut` says that its route-table entries are unreachable until a new plan, and `others` the acknowledgement and credits of a multicast's other receivers by address. -/
structure PortSt where
  light : Bool
  noLight5s : Bool
  trained : Bool
  discovered : Bool
  matched : Bool
  peer : Option Identity
  cut : Bool
  txSeq : Nat
  rxExpect : Nat
  rxLast : Nat
  waitReplay : Bool
  replay : List Frame
  credits : List Nat
  lanesDown : List (Nat × Nat)
  lanesOut : List Nat
  lowSince : Option Nat
  lastInOrder : Nat
  authWindow : Nat × Nat
  lightAt : Nat
  stepAfter : Nat
  keyEpoch : Nat
  keyed : Bool
  framesUnderKey : Nat
  keyedAt : Nat
  peerTrusted : Bool
  reported : Nat × Nat
  reduceIn : List Frame
  changed : Bool
  offset : Int
  txq : List Frame
  turn : Nat
  others : List (Nat × Nat × List Nat)
  deriving DecidableEq, Repr

def PortSt.reset : PortSt :=
  { light := false, noLight5s := false, trained := false, discovered := false, matched := false, peer := none,
    cut := false, txSeq := 0, rxExpect := 0, rxLast := 0xFFFFFF, waitReplay := false, replay := [],
    credits := [0, 0, 0, 0], lanesDown := [], lanesOut := [], lowSince := none, lastInOrder := 0, authWindow := (0, 0),
    lightAt := 0, stepAfter := 0, keyEpoch := 0, keyed := false, framesUnderKey := 0, keyedAt := 0, peerTrusted := false,
    reported := (0, 0), reduceIn := [], changed := false, offset := 0, txq := [], turn := 0, others := [] }

/-- Per-channel counts (R404, R407, R408): messages sent and received, messages landed and not claimed, messages discarded, how
many messages lie at or below the last one claimed, and what a schedule entry has claimed. -/
structure ChanSt where
  number : Nat
  sent : Nat
  received : Nat
  landed : List Nat
  discarded : List Nat
  claimed : Nat
  entryClaim : Option Nat
  deriving DecidableEq, Repr

/-! ### The group protocol (R450 to R456, R470 to R475) -/

/-- A group message with what it carries (R451, R470). -/
inductive GBody where
  | join (rank step state planId : Nat)
  | start (step attempt t0 td limit : Nat)
  | ready (rank step attempt : Nat)
  | fail (rank step attempt status : Nat)
  | commit (step attempt norm : Nat)
  | abort (step attempt reason : Nat)
  | updated (rank step : Nat)
  | close (step : Nat)
  | mirror (round step l : Nat)
  | mirrored (rank round result : Nat)
  | roundEnd (round : Nat) (complete : Bool) (l : Nat)
  deriving DecidableEq, Repr

/-- Which messages the master floods; the others travel to the master. -/
def GBody.flooded : GBody → Bool
  | .start .. | .commit .. | .abort .. | .close .. | .mirror .. | .roundEnd .. => true
  | _ => false

/-- Kind, step and attempt of a flooded message: what later copies are discarded by (R451). -/
def GBody.key : GBody → Nat × Nat × Nat
  | .start s a .. => (1, s, a)
  | .commit s a _ => (4, s, a)
  | .abort s a _ => (5, s, a)
  | .close s => (7, s, 0)
  | .mirror r s _ => (8, s, r)
  | .roundEnd r _ _ => (10, r, 0)
  | .join _ s _ _ => (0, s, 0)
  | .ready _ s a => (2, s, a)
  | .fail _ s a _ => (3, s, a)
  | .updated _ s => (6, s, 0)
  | .mirrored _ r _ => (9, r, 0)

structure GMsg where
  group : Nat
  body : GBody
  deriving DecidableEq, Repr

/-- A group message sent on a port. -/
structure GSent where
  port : Nat
  msg : GMsg
  deriving DecidableEq, Repr

/-- The group master's bookkeeping for one open step of a group (or of a context that is a group of one): the ranks whose JOIN it
holds, each with its state and `PLAN_ID`; those whose READY and UPDATED it holds; whether an attempt runs, and whether the next
START is a counted repeat (R454); and, after COMMIT, when it was sent. -/
structure MasterSt where
  joins : List (Nat × Nat × Nat)
  readies : List Nat
  updated : List Nat
  running : Bool
  attempt : Nat
  again : Bool
  planAtStart : Nat
  deadline : Nat
  deadlineUs : Nat
  limit : Nat
  committedAt : Option Nat
  allowed : Bool
  resolving : Bool
  deriving DecidableEq, Repr

def MasterSt.reset : MasterSt :=
  { joins := [], readies := [], updated := [], running := false, attempt := 0, again := false, planAtStart := 0, deadline := 0,
    deadlineUs := 0, limit := 0, committedAt := none, allowed := false, resolving := false }

/-! ### Saddle -/

/-- The key of an instance of a reduction (R433): channel, layer, range rank, occurrence. -/
structure InstKey where
  channel : Nat
  layer : Nat
  rank : Nat
  occur : Nat
  deriving DecidableEq, Repr

/-- A value of a tile under reduction: its position (128 × row + column), how many contributions it holds, its FP32 code (FP64
with `NORM`), and whether it is poisoned (R440, R443). -/
structure Cell where
  pos : Nat
  count : Nat
  code : Nat
  poison : Bool
  deriving DecidableEq, Repr

/-- A posting that Saddle works on (R433 to R436): its instance, its stream's step and attempt, how
many contributions it has read, those it holds, and the repeats whose result is stored. -/
structure Posted where
  range : Nat
  ctx : Nat
  key : InstKey
  step : Nat
  attempt : Nat
  seq : Nat
  idx : Nat
  hA : Nat
  hD : Nat
  c : List Int
  inc : List Int
  rep : Nat
  wire : Nat
  norm : Bool
  read : Nat
  buf : List (Nat × List Cell)
  stored : List Nat
  deriving DecidableEq, Repr

/-- A tile of an instance under way (R440, R448): the partial or, for `result`, the final value, by tile position. -/
structure Partial where
  key : InstKey
  rep : Nat
  result : Bool
  cells : List Cell
  deriving DecidableEq, Repr

/-! ### Optics -/

/-- What a ring's lock loop remembers (R354 to R359), beside its state in `RING_STATE`. -/
structure RingSt where
  rx : Bool
  port : Nat
  line : Nat
  swept : Bool
  attempts : Nat
  heater : Int
  kLine : Int
  deriving DecidableEq, Repr

/-- A circuit set on its way into force (R366): entries, receiver maps, mode, and the command that waits for it. -/
structure Applying where
  circuits : List Circuit
  rxMap : List Nat
  service : Bool
  balance : Bool
  plan : Option Plan
  lane : Lane
  tag : Nat
  ctx : Nat
  opcode : Nat
  deriving DecidableEq, Repr

/-- A dark-map write under way (R371): what is left to write, the group being pulsed with each one's failed verifies,
how many have verified, how it will end, and the command. -/
structure DarkWrite where
  todo : List (Nat × Bool)
  group : List (Nat × Bool × Nat)
  verified : Nat
  ending : Nat
  lane : Lane
  tag : Nat
  ctx : Nat
  deriving DecidableEq, Repr

/-- The optics (10_cirque_optics) beside their registers. -/
structure OpticsSt where
  rings : List RingSt
  circuits : List Circuit
  service : Bool
  applying : Option Applying
  cross : List (Nat × Bool)
  dark : Option DarkWrite
  failing : Option Nat
  selected : Bool
  outputsLit : Bool
  deriving DecidableEq, Repr

def OpticsSt.reset : OpticsSt :=
  { rings := [], circuits := [], service := false, applying := none, cross := [], dark := none,
    failing := none, selected := false, outputsLit := false }

/-! ### Belay (13_belay) -/

structure Region where
  va : Nat
  units : Nat
  tarn : Bool
  method : Nat
  deriving DecidableEq, Repr

structure BelayPlan where
  buddy : Nat
  ward : Nat
  portMask : Nat
  interval : Nat
  slotPdom : Nat
  slotUnits : Nat
  slotBase : Nat
  regions : List Region
  ctx : Nat
  deriving DecidableEq, Repr

/-- Whether the virtual intervals of two runs of bytes meet. -/
def runsMeet (a la b lb : Nat) : Bool := decide (a < b + lb) && decide (b < a + la)

/-- Reading a region entry; nothing where R482 refuses it. -/
def Region.ofBytes (l : List Byte) : Option Region :=
  let va := leAt l 0 8
  let units := leAt l 8 4
  let kind := leAt l 12 1
  let m := leAt l 13 1
  if kind ≤ 1 ∧ m ≤ 2 ∧ leAt l 14 2 = 0 ∧
      (if kind = 1 then va = 0 ∧ units = 0 ∧ m ≠ 2 else va % 65536 = 0 ∧ 1 ≤ units) then
    some { va := va, units := units, tarn := decide (kind = 1), method := m } else none

/-- No two range regions meet, and at most one region is the Tarn state. -/
def regionsOk : List Region → Bool
  | [] => true
  | r :: t => t.all (fun q => if r.tarn then !q.tarn else q.tarn || !runsMeet r.va (65536 * r.units) q.va (65536 * q.units)) &&
      regionsOk t

/-- BELAY_PLAN's checks (R482), the region that touches Ledge apart. -/
def belayPlanCheck (l : List Byte) (ctx : Nat) : Option BelayPlan :=
  let n := leAt l 0xB 1
  let buddy := leAt l 0 2
  let ward := leAt l 2 2
  let units := leAt l 0xC 4
  let base := leAt l 0x10 8
  if !(decide (buddy ≤ 4095) && decide (ward ≤ 4095) && decide (n ≤ 64) && decide (l.length = 32 + 16 * n) && zeroAt l 0x18 8 &&
      decide (base % 65536 = 0) && (decide (ward ≠ 0xFFF) || decide (units = 0))) then none
  else match allSome ((List.range n).map (fun i => Region.ofBytes ((l.drop (32 + 16 * i)).take 16))) with
  | none => none
  | some rs =>
    if regionsOk rs && (decide (ward = 0xFFF) ||
        rs.all (fun r => r.tarn || !runsMeet r.va (65536 * r.units) base (2 * 65536 * units))) then
      some { buddy := buddy, ward := ward, portMask := leAt l 4 4, interval := leAt l 8 2, slotPdom := leAt l 0xA 1,
             slotUnits := units, slotBase := base, regions := rs, ctx := ctx }
    else none

/-- A mirror that this module sends (R471 to R474): its round and step, and when the freeze began. -/
structure MirrorSt where
  round : Nat
  step : Nat
  began : Nat
  deriving DecidableEq, Repr

/-- A mirror that lands from the ward (R465 to R468, R472): the units that its open frame announced, and those held. -/
structure LandSt where
  slot : Nat
  round : Nat
  step : Nat
  serial : Nat
  units : List Nat
  got : List Nat
  deriving DecidableEq, Repr

/-- A slot held for the ward: whether it is valid, its step, and the order in which its contents were committed. -/
structure SlotSt where
  valid : Bool
  step : Nat
  stamp : Nat
  unitStamp : List (Nat × Nat)
  deriving DecidableEq, Repr

def SlotSt.reset : SlotSt := { valid := false, step := 0, stamp := 0, unitStamp := [] }

/-- A BELAY_RESTORE under way: the context record, and the units that have arrived with their bytes and poisoned offsets. -/
structure RestoreSt where
  step : Nat
  record : List Byte
  got : List (Nat × List Byte × List Nat)
  lane : Lane
  tag : Nat
  ctx : Nat
  deriving DecidableEq, Repr

/-- What Belay sends to another module (R471 to R473): an open frame, a unit of a mirror with the offsets of its poisoned words,
and a commit frame or a refusal. -/
inductive BelayMsg where
  | opening (dest round step size : Nat) (units : List Nat)
  | data (dest round unit : Nat) (poison : List Nat) (bytes : List Byte)
  | commit (dest round result : Nat)
  deriving DecidableEq, Repr

structure BelaySt where
  plan : Option BelayPlan
  mirror : Option MirrorSt
  landing : Option LandSt
  slotA : SlotSt
  slotB : SlotSt
  stamp : Nat
  catchUp : Option (Nat × List Nat)
  buddyHasSlot : Bool
  lastBuddy : Option Nat
  committedSincePower : Bool
  lastDirty : List (Nat × Nat)
  restoring : Option RestoreSt
  -- at the group master
  round : Nat
  roundStep : Nat
  roundOpen : Bool
  results : List (Nat × Nat)
  sinceRound : Nat
  snapshots : List (Lane × Nat × Nat)
  sent : List BelayMsg
  deriving DecidableEq, Repr

def BelaySt.reset : BelaySt :=
  { plan := none, mirror := none, landing := none, slotA := .reset, slotB := .reset, stamp := 0, catchUp := none,
    buddyHasSlot := false, lastBuddy := none, committedSincePower := false, lastDirty := [], restoring := none, round := 0, roundStep := 0,
    roundOpen := false, results := [], sinceRound := 0, snapshots := [], sent := [] }

end Sys2Proof.Machine
end

