-- ==== Sys2Proof/Machine/Regs.lean ====
section
/-!
DEFINITION. The register map of control space (R647, R658): every register of every block with the address, the fields,
their access codes (R8) and their reset values, transcribed from the register tables of the spec; `Reg.<BLOCK>_<NAME>`
is a register's address, `Fld.<BLOCK>_<NAME>_<FIELD>` one of its fields.
-/

namespace Sys2Proof.Machine

/-- The access codes of R8, and reserved bits (R7). -/
inductive Acc where
  | ro | rw | wo | w1c | rc | wl | lk | rsv
  deriving DecidableEq, Repr

/-- One field of a register: its bits, its access code, its reset value, and whether it is marked non-volatile. -/
structure FieldSpec where
  fld : Fld
  acc : Acc
  reset : Nat
  nv : Bool
  deriving DecidableEq, Repr

/-- One register name of a block: its first offset, how many there are and how far apart, and its fields. -/
structure RegSpec where
  off : Nat
  count : Nat
  stride : Nat
  fields : List FieldSpec
  deriving DecidableEq, Repr

/-- The block windows of R647. -/
inductive Block where
  | cairn | traverse | treeline | survey | range | foothill | ledge | cirque | port | belay | swite
  deriving DecidableEq, Repr

/-- `RANGE.STREAM_STATUS` (R79). -/
abbrev Reg.RANGE_STREAM_STATUS (n : Nat) : Nat := 0x01000000 + 0x100000 * n
/-- `RANGE.STOP_POSITION` (R81). -/
abbrev Reg.RANGE_STOP_POSITION (n : Nat) : Nat := 0x01000004 + 0x100000 * n
/-- `RANGE.STOP_DETAIL` (R81). -/
abbrev Reg.RANGE_STOP_DETAIL (n : Nat) : Nat := 0x01000008 + 0x100000 * n
/-- `RANGE.STOP_SLOT` (R81). -/
abbrev Reg.RANGE_STOP_SLOT (n : Nat) : Nat := 0x0100000c + 0x100000 * n
/-- `RANGE.QUEUE_FILL` (R81). -/
abbrev Reg.RANGE_QUEUE_FILL (n : Nat) : Nat := 0x01000010 + 0x100000 * n
/-- `RANGE.LOCKSTEP_CFG` (R81). -/
abbrev Reg.RANGE_LOCKSTEP_CFG (n : Nat) : Nat := 0x01000014 + 0x100000 * n
/-- `TRAVERSE.CONTEXT_RANGES` (R83). -/
abbrev Reg.TRAVERSE_CONTEXT_RANGES (i : Nat) : Nat := 0x00100400 + 4 * i
/-- `TRAVERSE.CONTEXT_SYNC` (R83). -/
abbrev Reg.TRAVERSE_CONTEXT_SYNC (i : Nat) : Nat := 0x00100440 + 4 * i
/-- `TRAVERSE.PROGRESS_TIMEOUT` (R83). -/
abbrev Reg.TRAVERSE_PROGRESS_TIMEOUT : Nat := 0x00100480
/-- `TRAVERSE.SYNC_COUNTER` (R83). -/
abbrev Reg.TRAVERSE_SYNC_COUNTER (i : Nat) : Nat := 0x00108000 + 4 * i
/-- `TRAVERSE.IMAGE_STORE` (R121). -/
abbrev Reg.TRAVERSE_IMAGE_STORE : Nat := 0x00100490
/-- `RANGE.CONVERT_STATUS` (R149). -/
abbrev Reg.RANGE_CONVERT_STATUS (n : Nat) : Nat := 0x01000018 + 0x100000 * n
/-- `RANGE.CREST_CTL` (R174). -/
abbrev Reg.RANGE_CREST_CTL (n : Nat) : Nat := 0x01000600 + 0x100000 * n
/-- `RANGE.CREST_BANK_STATUS` (R175). -/
abbrev Reg.RANGE_CREST_BANK_STATUS (n : Nat) : Nat := 0x01000604 + 0x100000 * n
/-- `RANGE.CREST_GATE` (R176). -/
abbrev Reg.RANGE_CREST_GATE (n : Nat) : Nat := 0x01000608 + 0x100000 * n
/-- `RANGE.SPUR_CFG` (R206). -/
abbrev Reg.RANGE_SPUR_CFG (n : Nat) : Nat := 0x01000700 + 0x100000 * n
/-- `RANGE.SPUR_STATUS` (R207). -/
abbrev Reg.RANGE_SPUR_STATUS (n : Nat) : Nat := 0x01000704 + 0x100000 * n
/-- `RANGE.SPUR_NORM_ACC_LO` (R208). -/
abbrev Reg.RANGE_SPUR_NORM_ACC_LO (n : Nat) : Nat := 0x01000708 + 0x100000 * n
/-- `RANGE.SPUR_NORM_ACC_HI` (R208). -/
abbrev Reg.RANGE_SPUR_NORM_ACC_HI (n : Nat) : Nat := 0x0100070c + 0x100000 * n
/-- `RANGE.SPUR_CONST_LO` (R209). -/
abbrev Reg.RANGE_SPUR_CONST_LO (n i : Nat) : Nat := 0x01000800 + 0x100000 * n + 8 * i
/-- `RANGE.SPUR_CONST_HI` (R209). -/
abbrev Reg.RANGE_SPUR_CONST_HI (n i : Nat) : Nat := 0x01000804 + 0x100000 * n + 8 * i
/-- `RANGE.SPUR_KENTRY` (R210). -/
abbrev Reg.RANGE_SPUR_KENTRY (n i : Nat) : Nat := 0x01000a00 + 0x100000 * n + 4 * i
/-- `RANGE.SPUR_KSTORE_LO` (R211). -/
abbrev Reg.RANGE_SPUR_KSTORE_LO (n i : Nat) : Nat := 0x01010000 + 0x100000 * n + 8 * i
/-- `RANGE.SPUR_KSTORE_HI` (R211). -/
abbrev Reg.RANGE_SPUR_KSTORE_HI (n i : Nat) : Nat := 0x01010004 + 0x100000 * n + 8 * i
/-- `RANGE.COL_PREFETCH_CFG` (R253). -/
abbrev Reg.RANGE_COL_PREFETCH_CFG (n : Nat) : Nat := 0x01000e00 + 0x100000 * n
/-- `RANGE.FAULT_INFO` (R254). -/
abbrev Reg.RANGE_FAULT_INFO (n : Nat) : Nat := 0x01000e04 + 0x100000 * n
/-- `RANGE.FAULT_VA_LO` (R255). -/
abbrev Reg.RANGE_FAULT_VA_LO (n : Nat) : Nat := 0x01000e08 + 0x100000 * n
/-- `RANGE.FAULT_VA_HI` (R255). -/
abbrev Reg.RANGE_FAULT_VA_HI (n : Nat) : Nat := 0x01000e0c + 0x100000 * n
/-- `FOOTHILL.TARN_FAULT_VA_LO` (R255). -/
abbrev Reg.FOOTHILL_TARN_FAULT_VA_LO (s : Nat) : Nat := 0x02001008 + 0x100000 * s
/-- `FOOTHILL.TARN_FAULT_VA_HI` (R255). -/
abbrev Reg.FOOTHILL_TARN_FAULT_VA_HI (s : Nat) : Nat := 0x0200100c + 0x100000 * s
/-- `RANGE.SCREE_OOR_COUNT` (R256). -/
abbrev Reg.RANGE_SCREE_OOR_COUNT (n : Nat) : Nat := 0x01000e10 + 0x100000 * n
/-- `RANGE.SCREE_CACHE` (R257). -/
abbrev Reg.RANGE_SCREE_CACHE (n : Nat) : Nat := 0x01000e14 + 0x100000 * n
/-- `FOOTHILL.STATUS` (R291). -/
abbrev Reg.FOOTHILL_STATUS (s : Nat) : Nat := 0x02000000 + 0x100000 * s
/-- `FOOTHILL.ECC_CE_COUNT` (R292). -/
abbrev Reg.FOOTHILL_ECC_CE_COUNT (s : Nat) : Nat := 0x02000004 + 0x100000 * s
/-- `FOOTHILL.ECC_UE_COUNT` (R292). -/
abbrev Reg.FOOTHILL_ECC_UE_COUNT (s : Nat) : Nat := 0x02000008 + 0x100000 * s
/-- `LEDGE.ECC_CE_COUNT` (R292). -/
abbrev Reg.LEDGE_ECC_CE_COUNT (i : Nat) : Nat := 0x03000010 + 4 * i
/-- `LEDGE.ECC_UE_COUNT` (R292). -/
abbrev Reg.LEDGE_ECC_UE_COUNT (i : Nat) : Nat := 0x03000018 + 4 * i
/-- `FOOTHILL.ECC_LOG` (R293). -/
abbrev Reg.FOOTHILL_ECC_LOG (s : Nat) : Nat := 0x0200000c + 0x100000 * s
/-- `LEDGE.ECC_LOG` (R293). -/
abbrev Reg.LEDGE_ECC_LOG : Nat := 0x03000020
/-- `FOOTHILL.ECC_LOG_PA_LO` (R294). -/
abbrev Reg.FOOTHILL_ECC_LOG_PA_LO (s : Nat) : Nat := 0x02000010 + 0x100000 * s
/-- `FOOTHILL.ECC_LOG_PA_HI` (R294). -/
abbrev Reg.FOOTHILL_ECC_LOG_PA_HI (s : Nat) : Nat := 0x02000014 + 0x100000 * s
/-- `LEDGE.ECC_LOG_PA_LO` (R294). -/
abbrev Reg.LEDGE_ECC_LOG_PA_LO : Nat := 0x03000024
/-- `LEDGE.ECC_LOG_PA_HI` (R294). -/
abbrev Reg.LEDGE_ECC_LOG_PA_HI : Nat := 0x03000028
/-- `FOOTHILL.PATROL_CFG` (R295). -/
abbrev Reg.FOOTHILL_PATROL_CFG (s : Nat) : Nat := 0x02000018 + 0x100000 * s
/-- `FOOTHILL.SCRUB_PROGRESS` (R296). -/
abbrev Reg.FOOTHILL_SCRUB_PROGRESS (s : Nat) : Nat := 0x0200001c + 0x100000 * s
/-- `FOOTHILL.BW_SHARE` (R297). -/
abbrev Reg.FOOTHILL_BW_SHARE (s : Nat) : Nat := 0x02000020 + 0x100000 * s
/-- `FOOTHILL.DIRTY_STATUS` (R298). -/
abbrev Reg.FOOTHILL_DIRTY_STATUS (s : Nat) : Nat := 0x02000024 + 0x100000 * s
/-- `FOOTHILL.CONVERT_STATUS` (R299). -/
abbrev Reg.FOOTHILL_CONVERT_STATUS (s : Nat) : Nat := 0x02000028 + 0x100000 * s
/-- `LEDGE.MEM_SUMMARY` (R300). -/
abbrev Reg.LEDGE_MEM_SUMMARY : Nat := 0x03000000
/-- `LEDGE.RANGE_WEIGHT` (R302). -/
abbrev Reg.LEDGE_RANGE_WEIGHT (i : Nat) : Nat := 0x03000030 + 4 * i
/-- `LEDGE.D2D_WEIGHT` (R303). -/
abbrev Reg.LEDGE_D2D_WEIGHT : Nat := 0x03000038
/-- `LEDGE.TILE_ECC` (R304). -/
abbrev Reg.LEDGE_TILE_ECC (i : Nat) : Nat := 0x03000100 + 4 * i
/-- `TRAVERSE.STEP_STATUS` (R336). -/
abbrev Reg.TRAVERSE_STEP_STATUS (i : Nat) : Nat := 0x00100500 + 8 * i
/-- `TRAVERSE.CLOSED_STEP` (R336). -/
abbrev Reg.TRAVERSE_CLOSED_STEP (i : Nat) : Nat := 0x00100504 + 8 * i
/-- `TRAVERSE.CLIP_CFG_MAX` (R337). -/
abbrev Reg.TRAVERSE_CLIP_CFG_MAX (i : Nat) : Nat := 0x00100580 + 8 * i
/-- `TRAVERSE.CLIP_CFG_SCALE` (R337). -/
abbrev Reg.TRAVERSE_CLIP_CFG_SCALE (i : Nat) : Nat := 0x00100584 + 8 * i
/-- `TRAVERSE.NORM_RESULT_LO` (R338). -/
abbrev Reg.TRAVERSE_NORM_RESULT_LO (i : Nat) : Nat := 0x00100600 + 8 * i
/-- `TRAVERSE.NORM_RESULT_HI` (R338). -/
abbrev Reg.TRAVERSE_NORM_RESULT_HI (i : Nat) : Nat := 0x00100604 + 8 * i
/-- `FOOTHILL.TARN_STATUS` (R339). -/
abbrev Reg.FOOTHILL_TARN_STATUS (s : Nat) : Nat := 0x02001000 + 0x100000 * s
/-- `FOOTHILL.TARN_FAULT` (R340). -/
abbrev Reg.FOOTHILL_TARN_FAULT (s : Nat) : Nat := 0x02001004 + 0x100000 * s
/-- `FOOTHILL.TARN_TABLE_LO` (R341). -/
abbrev Reg.FOOTHILL_TARN_TABLE_LO (s i : Nat) : Nat := 0x02001100 + 0x100000 * s + 16 * i
/-- `FOOTHILL.TARN_TABLE_HI` (R341). -/
abbrev Reg.FOOTHILL_TARN_TABLE_HI (s i : Nat) : Nat := 0x02001104 + 0x100000 * s + 16 * i
/-- `FOOTHILL.TARN_TABLE_COUNT` (R341). -/
abbrev Reg.FOOTHILL_TARN_TABLE_COUNT (s i : Nat) : Nat := 0x02001108 + 0x100000 * s + 16 * i
/-- `FOOTHILL.TARN_TABLE_RSV` (R341). -/
abbrev Reg.FOOTHILL_TARN_TABLE_RSV (s i : Nat) : Nat := 0x0200110c + 0x100000 * s + 16 * i
/-- `FOOTHILL.TARN_PROG` (R342). -/
abbrev Reg.FOOTHILL_TARN_PROG (s i : Nat) : Nat := 0x02001200 + 0x100000 * s + 4 * i
/-- `FOOTHILL.TARN_HP` (R343). -/
abbrev Reg.FOOTHILL_TARN_HP (s i : Nat) : Nat := 0x02001300 + 0x100000 * s + 4 * i
/-- `FOOTHILL.TARN_CODE_LO` (R344). -/
abbrev Reg.FOOTHILL_TARN_CODE_LO (s i : Nat) : Nat := 0x02001800 + 0x100000 * s + 8 * i
/-- `FOOTHILL.TARN_CODE_HI` (R344). -/
abbrev Reg.FOOTHILL_TARN_CODE_HI (s i : Nat) : Nat := 0x02001804 + 0x100000 * s + 8 * i
/-- `CIRQUE.STATUS` (R380). -/
abbrev Reg.CIRQUE_STATUS : Nat := 0x04000000
/-- `CIRQUE.LSU_CTL` (R381). -/
abbrev Reg.CIRQUE_LSU_CTL : Nat := 0x04000004
/-- `CIRQUE.LSU_STATUS` (R382). -/
abbrev Reg.CIRQUE_LSU_STATUS (i : Nat) : Nat := 0x04000008 + 4 * i
/-- `CIRQUE.LSU_HOURS` (R383). -/
abbrev Reg.CIRQUE_LSU_HOURS (i : Nat) : Nat := 0x04000010 + 4 * i
/-- `CIRQUE.LSU_LINE_POWER` (R384). -/
abbrev Reg.CIRQUE_LSU_LINE_POWER (i : Nat) : Nat := 0x04000020 + 4 * i
/-- `CIRQUE.OUT_POWER` (R384). -/
abbrev Reg.CIRQUE_OUT_POWER (i : Nat) : Nat := 0x04000200 + 4 * i
/-- `CIRQUE.RX_POWER` (R384). -/
abbrev Reg.CIRQUE_RX_POWER (i : Nat) : Nat := 0x04000400 + 4 * i
/-- `CIRQUE.DARK_MAP` (R385). -/
abbrev Reg.CIRQUE_DARK_MAP : Nat := 0x04000060
/-- `CIRQUE.TRIM_MIN` (R385). -/
abbrev Reg.CIRQUE_TRIM_MIN : Nat := 0x04000064
/-- `CIRQUE.DARK_MAP_VERSION` (R385). -/
abbrev Reg.CIRQUE_DARK_MAP_VERSION : Nat := 0x04000068
/-- `CIRQUE.RING_COUNTS` (R385). -/
abbrev Reg.CIRQUE_RING_COUNTS : Nat := 0x0400006c
/-- `CIRQUE.RX_MAP` (R386). -/
abbrev Reg.CIRQUE_RX_MAP (i : Nat) : Nat := 0x04000080 + 4 * i
/-- `CIRQUE.RING_STATE` (R387). -/
abbrev Reg.CIRQUE_RING_STATE (i : Nat) : Nat := 0x04000100 + 4 * i
/-- `CIRQUE.TRIM_REMAIN` (R388). -/
abbrev Reg.CIRQUE_TRIM_REMAIN (i : Nat) : Nat := 0x04001000 + 4 * i
/-- `PORT.STATUS` (R425). -/
abbrev Reg.PORT_STATUS (p : Nat) : Nat := 0x05000000 + 0x10000 * p
/-- `PORT.PEER_INFO` (R426). -/
abbrev Reg.PORT_PEER_INFO (p : Nat) : Nat := 0x05000004 + 0x10000 * p
/-- `PORT.PEER_SERIAL_LO` (R426). -/
abbrev Reg.PORT_PEER_SERIAL_LO (p : Nat) : Nat := 0x05000008 + 0x10000 * p
/-- `PORT.PEER_SERIAL_HI` (R426). -/
abbrev Reg.PORT_PEER_SERIAL_HI (p : Nat) : Nat := 0x0500000c + 0x10000 * p
/-- `PORT.CFG` (R426). -/
abbrev Reg.PORT_CFG (p : Nat) : Nat := 0x05000010 + 0x10000 * p
/-- `PORT.FEC_CORRECTED` (R427). -/
abbrev Reg.PORT_FEC_CORRECTED (p : Nat) : Nat := 0x05000014 + 0x10000 * p
/-- `PORT.FEC_DROPPED` (R427). -/
abbrev Reg.PORT_FEC_DROPPED (p : Nat) : Nat := 0x05000018 + 0x10000 * p
/-- `PORT.REPLAYS` (R427). -/
abbrev Reg.PORT_REPLAYS (p : Nat) : Nat := 0x0500001c + 0x10000 * p
/-- `PORT.RETRAINS` (R427). -/
abbrev Reg.PORT_RETRAINS (p : Nat) : Nat := 0x05000020 + 0x10000 * p
/-- `PORT.AUTH_FAIL` (R427). -/
abbrev Reg.PORT_AUTH_FAIL (p : Nat) : Nat := 0x05000024 + 0x10000 * p
/-- `PORT.FWD_DROP` (R427). -/
abbrev Reg.PORT_FWD_DROP (p : Nat) : Nat := 0x05000028 + 0x10000 * p
/-- `PORT.RX_DISCARD` (R427). -/
abbrev Reg.PORT_RX_DISCARD (p : Nat) : Nat := 0x0500002c + 0x10000 * p
/-- `PORT.LINK_TAG` (R428). -/
abbrev Reg.PORT_LINK_TAG (p : Nat) : Nat := 0x05000030 + 0x10000 * p
/-- `PORT.TIME_OFFSET` (R428). -/
abbrev Reg.PORT_TIME_OFFSET (p : Nat) : Nat := 0x05000034 + 0x10000 * p
/-- `PORT.REPLAY_FILL` (R428). -/
abbrev Reg.PORT_REPLAY_FILL (p : Nat) : Nat := 0x05000038 + 0x10000 * p
/-- `TRAVERSE.FABRIC_STATUS` (R429). -/
abbrev Reg.TRAVERSE_FABRIC_STATUS : Nat := 0x00100700
/-- `TRAVERSE.PLAN_ID` (R429). -/
abbrev Reg.TRAVERSE_PLAN_ID : Nat := 0x00100704
/-- `TRAVERSE.CABLING_SWAP` (R429). -/
abbrev Reg.TRAVERSE_CABLING_SWAP : Nat := 0x00100708
/-- `TRAVERSE.TIMEBASE_CFG` (R429). -/
abbrev Reg.TRAVERSE_TIMEBASE_CFG : Nat := 0x0010070c
/-- `TRAVERSE.TIMEBASE_STATUS` (R429). -/
abbrev Reg.TRAVERSE_TIMEBASE_STATUS : Nat := 0x00100710
/-- `TRAVERSE.TIMEBASE_NOW_LO` (R429). -/
abbrev Reg.TRAVERSE_TIMEBASE_NOW_LO : Nat := 0x00100714
/-- `TRAVERSE.TIMEBASE_NOW_HI` (R429). -/
abbrev Reg.TRAVERSE_TIMEBASE_NOW_HI : Nat := 0x00100718
/-- `TRAVERSE.GROUP_OFFSET` (R429). -/
abbrev Reg.TRAVERSE_GROUP_OFFSET : Nat := 0x0010071c
/-- `PORT.SADDLE_FMT` (R457). -/
abbrev Reg.PORT_SADDLE_FMT (p : Nat) : Nat := 0x05008000 + 0x10000 * p
/-- `PORT.SADDLE_STATUS` (R457). -/
abbrev Reg.PORT_SADDLE_STATUS (p : Nat) : Nat := 0x05008004 + 0x10000 * p
/-- `PORT.SADDLE_FRAMES` (R458). -/
abbrev Reg.PORT_SADDLE_FRAMES (p : Nat) : Nat := 0x05008008 + 0x10000 * p
/-- `PORT.SADDLE_FALLBACK` (R458). -/
abbrev Reg.PORT_SADDLE_FALLBACK (p : Nat) : Nat := 0x0500800c + 0x10000 * p
/-- `PORT.SADDLE_STALE` (R458). -/
abbrev Reg.PORT_SADDLE_STALE (p : Nat) : Nat := 0x05008010 + 0x10000 * p
/-- `TRAVERSE.STEP_CFG_DEADLINE` (R459). -/
abbrev Reg.TRAVERSE_STEP_CFG_DEADLINE : Nat := 0x00100800
/-- `TRAVERSE.STEP_CFG_LIMIT` (R459). -/
abbrev Reg.TRAVERSE_STEP_CFG_LIMIT : Nat := 0x00100804
/-- `TRAVERSE.STEP_GROUP` (R459). -/
abbrev Reg.TRAVERSE_STEP_GROUP : Nat := 0x00100808
/-- `TRAVERSE.STEP_DEADLINE_LO` (R459). -/
abbrev Reg.TRAVERSE_STEP_DEADLINE_LO : Nat := 0x00100810
/-- `TRAVERSE.STEP_DEADLINE_HI` (R459). -/
abbrev Reg.TRAVERSE_STEP_DEADLINE_HI : Nat := 0x00100814
/-- `TRAVERSE.STEP_ABORT` (R459). -/
abbrev Reg.TRAVERSE_STEP_ABORT : Nat := 0x00100818
/-- `TRAVERSE.STEP_ABORTS` (R459). -/
abbrev Reg.TRAVERSE_STEP_ABORTS : Nat := 0x0010081c
/-- `BELAY.STATUS` (R484). -/
abbrev Reg.BELAY_STATUS : Nat := 0x06000000
/-- `BELAY.CFG` (R485). -/
abbrev Reg.BELAY_CFG : Nat := 0x06000004
/-- `BELAY.ROUND` (R486). -/
abbrev Reg.BELAY_ROUND : Nat := 0x06000008
/-- `BELAY.LAST_FREEZE` (R486). -/
abbrev Reg.BELAY_LAST_FREEZE : Nat := 0x0600000c
/-- `BELAY.PREDICT` (R486). -/
abbrev Reg.BELAY_PREDICT : Nat := 0x06000010
/-- `BELAY.SLOT` (R486). -/
abbrev Reg.BELAY_SLOT (i : Nat) : Nat := 0x06000020 + 8 * i
/-- `BELAY.SLOT_STEP` (R486). -/
abbrev Reg.BELAY_SLOT_STEP (i : Nat) : Nat := 0x06000024 + 8 * i
/-- `BELAY.COUNTS` (R486). -/
abbrev Reg.BELAY_COUNTS : Nat := 0x06000030
/-- `BELAY.REGION_DIRTY` (R486). -/
abbrev Reg.BELAY_REGION_DIRTY (i : Nat) : Nat := 0x06000100 + 4 * i
/-- `TRAVERSE.SERVE_CFG` (R499). -/
abbrev Reg.TRAVERSE_SERVE_CFG (i : Nat) : Nat := 0x00100900 + 16 * i
/-- `TRAVERSE.SERVE_PERIOD` (R499). -/
abbrev Reg.TRAVERSE_SERVE_PERIOD (i : Nat) : Nat := 0x00100904 + 16 * i
/-- `TRAVERSE.SERVE_INTAKE` (R499). -/
abbrev Reg.TRAVERSE_SERVE_INTAKE (i : Nat) : Nat := 0x00100908 + 16 * i
/-- `TRAVERSE.SERVE_COUNTS` (R499). -/
abbrev Reg.TRAVERSE_SERVE_COUNTS (i : Nat) : Nat := 0x0010090c + 16 * i
/-- `TREELINE.STATUS` (R524). -/
abbrev Reg.TREELINE_STATUS : Nat := 0x00200000
/-- `TREELINE.CAP` (R525). -/
abbrev Reg.TREELINE_CAP : Nat := 0x00200004
/-- `TREELINE.INPUT` (R525). -/
abbrev Reg.TREELINE_INPUT : Nat := 0x00200008
/-- `TREELINE.BUDGET` (R525). -/
abbrev Reg.TREELINE_BUDGET : Nat := 0x0020000c
/-- `TREELINE.BASE` (R525). -/
abbrev Reg.TREELINE_BASE : Nat := 0x00200010
/-- `TREELINE.THERMAL_CFG` (R525). -/
abbrev Reg.TREELINE_THERMAL_CFG : Nat := 0x00200014
/-- `TREELINE.COOLANT` (R525). -/
abbrev Reg.TREELINE_COOLANT : Nat := 0x00200018
/-- `TREELINE.ADMIT_CFG` (R525). -/
abbrev Reg.TREELINE_ADMIT_CFG : Nat := 0x0020001c
/-- `TREELINE.COUNTS` (R525). -/
abbrev Reg.TREELINE_COUNTS : Nat := 0x00200020
/-- `TREELINE.ZONE` (R527). -/
abbrev Reg.TREELINE_ZONE (i : Nat) : Nat := 0x00200100 + 4 * i
/-- `TREELINE.RESERVE` (R528). -/
abbrev Reg.TREELINE_RESERVE (i : Nat) : Nat := 0x00200200 + 4 * i
/-- `TREELINE.PREDICT` (R528). -/
abbrev Reg.TREELINE_PREDICT (i : Nat) : Nat := 0x00200300 + 4 * i
/-- `CAIRN.STATE` (R562). -/
abbrev Reg.CAIRN_STATE : Nat := 0x00000000
/-- `CAIRN.SVN` (R563). -/
abbrev Reg.CAIRN_SVN : Nat := 0x00000004
/-- `CAIRN.OWNER` (R563). -/
abbrev Reg.CAIRN_OWNER : Nat := 0x00000008
/-- `CAIRN.FUSES` (R563). -/
abbrev Reg.CAIRN_FUSES : Nat := 0x0000000c
/-- `CAIRN.POLICY` (R563). -/
abbrev Reg.CAIRN_POLICY : Nat := 0x00000010
/-- `CAIRN.COUNTS` (R563). -/
abbrev Reg.CAIRN_COUNTS : Nat := 0x00000014
/-- `CAIRN.OWNER_HASH` (R563). -/
abbrev Reg.CAIRN_OWNER_HASH (i : Nat) : Nat := 0x00000040 + 4 * i
/-- `CAIRN.KEY_SLOT` (R564). -/
abbrev Reg.CAIRN_KEY_SLOT (i : Nat) : Nat := 0x00000100 + 4 * i
/-- `CAIRN.PORT_KEY` (R565). -/
abbrev Reg.CAIRN_PORT_KEY (i : Nat) : Nat := 0x00000180 + 4 * i
/-- `CAIRN.LOG_CTL` (R566). -/
abbrev Reg.CAIRN_LOG_CTL : Nat := 0x00000200
/-- `CAIRN.LOG_STATUS` (R566). -/
abbrev Reg.CAIRN_LOG_STATUS : Nat := 0x00000204
/-- `CAIRN.LOG_DATA` (R566). -/
abbrev Reg.CAIRN_LOG_DATA (i : Nat) : Nat := 0x00000210 + 4 * i
/-- `SWITE.STATUS` (R599). -/
abbrev Reg.SWITE_STATUS : Nat := 0x07000000
/-- `SWITE.PACKET_TIMEOUT` (R600). -/
abbrev Reg.SWITE_PACKET_TIMEOUT : Nat := 0x07000004
/-- `SWITE.EVENT_MASK` (R600). -/
abbrev Reg.SWITE_EVENT_MASK : Nat := 0x07000008
/-- `SWITE.OUTSTANDING` (R600). -/
abbrev Reg.SWITE_OUTSTANDING : Nat := 0x0700000c
/-- `SWITE.CLASS_RESERVE` (R600). -/
abbrev Reg.SWITE_CLASS_RESERVE (i : Nat) : Nat := 0x07000010 + 4 * i
/-- `SWITE.PARTIAL_DISCARD` (R601). -/
abbrev Reg.SWITE_PARTIAL_DISCARD : Nat := 0x07000040
/-- `SWITE.DISCARD_BYTES` (R601). -/
abbrev Reg.SWITE_DISCARD_BYTES : Nat := 0x07000044
/-- `SWITE.FLIT_REPLAYS` (R601). -/
abbrev Reg.SWITE_FLIT_REPLAYS : Nat := 0x07000048
/-- `SWITE.FEC_CORRECTED` (R601). -/
abbrev Reg.SWITE_FEC_CORRECTED : Nat := 0x0700004c
/-- `SWITE.FEC_DROPPED` (R601). -/
abbrev Reg.SWITE_FEC_DROPPED : Nat := 0x07000050
/-- `SWITE.RETRAINS` (R601). -/
abbrev Reg.SWITE_RETRAINS : Nat := 0x07000054
/-- `SWITE.HOST_ERRORS` (R601). -/
abbrev Reg.SWITE_HOST_ERRORS : Nat := 0x07000058
/-- `SWITE.MGMT_CRC` (R601). -/
abbrev Reg.SWITE_MGMT_CRC : Nat := 0x0700005c
/-- `CAIRN.START_STATUS` (R620). -/
abbrev Reg.CAIRN_START_STATUS : Nat := 0x00000300
/-- `CAIRN.RESET_CAUSE` (R621). -/
abbrev Reg.CAIRN_RESET_CAUSE : Nat := 0x00000304
/-- `CAIRN.STAGE_TIME` (R622). -/
abbrev Reg.CAIRN_STAGE_TIME (i : Nat) : Nat := 0x00000310 + 4 * i
/-- `SURVEY.STATUS` (R644). -/
abbrev Reg.SURVEY_STATUS : Nat := 0x00300000
/-- `SURVEY.SNAP_AT_LO` (R645). -/
abbrev Reg.SURVEY_SNAP_AT_LO : Nat := 0x00300004
/-- `SURVEY.SNAP_AT_HI` (R645). -/
abbrev Reg.SURVEY_SNAP_AT_HI : Nat := 0x00300008
/-- `SURVEY.DEBUG_NONCE` (R645). -/
abbrev Reg.SURVEY_DEBUG_NONCE : Nat := 0x00300010
/-- `WAYMARK.POSITION` (R646). -/
abbrev Reg.WAYMARK_POSITION (i : Nat) : Nat := 0x00300100 + 8 * i
/-- `WAYMARK.POSITION_HI` (R646). -/
abbrev Reg.WAYMARK_POSITION_HI (i : Nat) : Nat := 0x00300104 + 8 * i
/-- `MODULE.SERIAL_LO` (R655). -/
abbrev Reg.MODULE_SERIAL_LO : Nat := 0x00000800
/-- `MODULE.SERIAL_HI` (R655). -/
abbrev Reg.MODULE_SERIAL_HI : Nat := 0x00000804
/-- `MODULE.PART` (R655). -/
abbrev Reg.MODULE_PART : Nat := 0x00000808
/-- `MODULE.FW_VERSION` (R655). -/
abbrev Reg.MODULE_FW_VERSION : Nat := 0x0000080c
/-- `MODULE.COMPAT` (R655). -/
abbrev Reg.MODULE_COMPAT : Nat := 0x00000810
/-- `MODULE.TROUBLE` (R655). -/
abbrev Reg.MODULE_TROUBLE : Nat := 0x00000814
/-- `MODULE.ALERT_MASK` (R655). -/
abbrev Reg.MODULE_ALERT_MASK : Nat := 0x00000818
/-- `MODULE.SCRATCH` (R655). -/
abbrev Reg.MODULE_SCRATCH : Nat := 0x0000081c
/-- `RANGE.AX_COORD` (R82). -/
abbrev Reg.RANGE_AX_COORD (n i : Nat) : Nat := 0x01000100 + 0x100000 * n + 4 * i
/-- `RANGE.INC_COORD` (R82). -/
abbrev Reg.RANGE_INC_COORD (n i : Nat) : Nat := 0x01000300 + 0x100000 * n + 4 * i
/-- `RANGE.LC` (R82). -/
abbrev Reg.RANGE_LC (n i : Nat) : Nat := 0x01000500 + 0x100000 * n + 4 * i

abbrev Fld.RANGE_STREAM_STATUS_STATE : Fld := ⟨28, 4⟩
abbrev Fld.RANGE_STREAM_STATUS_CONTEXT : Fld := ⟨24, 4⟩
abbrev Fld.RANGE_STREAM_STATUS_STOP_STATUS : Fld := ⟨16, 8⟩
abbrev Fld.RANGE_STREAM_STATUS_STOP_CAUSE : Fld := ⟨8, 8⟩
abbrev Fld.RANGE_STREAM_STATUS_PERM_RANGE : Fld := ⟨2, 1⟩
abbrev Fld.RANGE_STREAM_STATUS_LOCKSTEP_PIN : Fld := ⟨1, 1⟩
abbrev Fld.RANGE_STOP_POSITION_INSTR_INDEX : Fld := ⟨16, 16⟩
abbrev Fld.RANGE_STOP_POSITION_REPEAT_INDEX : Fld := ⟨0, 16⟩
abbrev Fld.RANGE_STOP_DETAIL_STATION : Fld := ⟨29, 3⟩
abbrev Fld.RANGE_STOP_DETAIL_CONDITION : Fld := ⟨24, 5⟩
abbrev Fld.RANGE_STOP_SLOT_SLOT : Fld := ⟨0, 32⟩
abbrev Fld.RANGE_QUEUE_FILL_FILL_A : Fld := ⟨20, 4⟩
abbrev Fld.RANGE_QUEUE_FILL_FILL_B : Fld := ⟨16, 4⟩
abbrev Fld.RANGE_QUEUE_FILL_FILL_DRAIN : Fld := ⟨12, 4⟩
abbrev Fld.RANGE_QUEUE_FILL_FILL_STORE : Fld := ⟨8, 4⟩
abbrev Fld.RANGE_QUEUE_FILL_FILL_SCREE_SPUR : Fld := ⟨4, 4⟩
abbrev Fld.RANGE_QUEUE_FILL_FILL_SCREE_CREST : Fld := ⟨0, 4⟩
abbrev Fld.RANGE_LOCKSTEP_CFG_C_SLOT : Fld := ⟨16, 16⟩
abbrev Fld.RANGE_LOCKSTEP_CFG_C_GUARD : Fld := ⟨8, 8⟩
abbrev Fld.TRAVERSE_CONTEXT_RANGES_VALID : Fld := ⟨31, 1⟩
abbrev Fld.TRAVERSE_CONTEXT_RANGES_RANGE_MASK : Fld := ⟨0, 16⟩
abbrev Fld.TRAVERSE_CONTEXT_SYNC_SYNC_BASE : Fld := ⟨16, 12⟩
abbrev Fld.TRAVERSE_CONTEXT_SYNC_SYNC_COUNT : Fld := ⟨0, 13⟩
abbrev Fld.TRAVERSE_PROGRESS_TIMEOUT_TIMEOUT_US : Fld := ⟨0, 32⟩
abbrev Fld.TRAVERSE_SYNC_COUNTER_VALUE : Fld := ⟨0, 32⟩
abbrev Fld.TRAVERSE_IMAGE_STORE_FREE_KIB : Fld := ⟨16, 16⟩
abbrev Fld.TRAVERSE_IMAGE_STORE_LAST_CAUSE : Fld := ⟨8, 8⟩
abbrev Fld.RANGE_CONVERT_STATUS_ACC_WRAP : Fld := ⟨4, 1⟩
abbrev Fld.RANGE_CONVERT_STATUS_SCALE_NAN : Fld := ⟨3, 1⟩
abbrev Fld.RANGE_CONVERT_STATUS_NAN_LOST : Fld := ⟨2, 1⟩
abbrev Fld.RANGE_CONVERT_STATUS_INT_SAT : Fld := ⟨1, 1⟩
abbrev Fld.RANGE_CONVERT_STATUS_FP_SAT : Fld := ⟨0, 1⟩
abbrev Fld.RANGE_CREST_CTL_LEAK_SLOPE : Fld := ⟨16, 16⟩
abbrev Fld.RANGE_CREST_CTL_GATE_EN : Fld := ⟨1, 1⟩
abbrev Fld.RANGE_CREST_BANK_STATUS_DRAIN_BUSY : Fld := ⟨15, 1⟩
abbrev Fld.RANGE_CREST_BANK_STATUS_DRAINING1 : Fld := ⟨9, 1⟩
abbrev Fld.RANGE_CREST_BANK_STATUS_TYPE1 : Fld := ⟨8, 1⟩
abbrev Fld.RANGE_CREST_BANK_STATUS_FOLD1 : Fld := ⟨5, 3⟩
abbrev Fld.RANGE_CREST_BANK_STATUS_DRAINING0 : Fld := ⟨4, 1⟩
abbrev Fld.RANGE_CREST_BANK_STATUS_TYPE0 : Fld := ⟨3, 1⟩
abbrev Fld.RANGE_CREST_BANK_STATUS_FOLD0 : Fld := ⟨0, 3⟩
abbrev Fld.RANGE_CREST_GATE_LAST_FRAC : Fld := ⟨16, 16⟩
abbrev Fld.RANGE_SPUR_CFG_VLEN1 : Fld := ⟨16, 8⟩
abbrev Fld.RANGE_SPUR_CFG_VLEN0 : Fld := ⟨8, 8⟩
abbrev Fld.RANGE_SPUR_CFG_PERM_AXIS : Fld := ⟨0, 1⟩
abbrev Fld.RANGE_SPUR_STATUS_LAST_ENTRY : Fld := ⟨24, 8⟩
abbrev Fld.RANGE_SPUR_STATUS_NORM_NAN : Fld := ⟨1, 1⟩
abbrev Fld.RANGE_SPUR_STATUS_NAN_MADE : Fld := ⟨0, 1⟩
abbrev Fld.RANGE_SPUR_NORM_ACC_LO_VALUE_LO : Fld := ⟨0, 32⟩
abbrev Fld.RANGE_SPUR_NORM_ACC_HI_VALUE_HI : Fld := ⟨0, 32⟩
abbrev Fld.RANGE_SPUR_CONST_LO_VALUE_LO : Fld := ⟨0, 32⟩
abbrev Fld.RANGE_SPUR_CONST_HI_VALUE_HI : Fld := ⟨0, 32⟩
abbrev Fld.RANGE_SPUR_KENTRY_START : Fld := ⟨20, 12⟩
abbrev Fld.RANGE_SPUR_KENTRY_LENGTH : Fld := ⟨12, 8⟩
abbrev Fld.RANGE_SPUR_KENTRY_FMT_OUT : Fld := ⟨8, 4⟩
abbrev Fld.RANGE_SPUR_KENTRY_CLASS : Fld := ⟨5, 3⟩
abbrev Fld.RANGE_SPUR_KENTRY_IN1_MODE : Fld := ⟨3, 2⟩
abbrev Fld.RANGE_SPUR_KENTRY_NORM_EN : Fld := ⟨2, 1⟩
abbrev Fld.RANGE_SPUR_KENTRY_NORM_CLR : Fld := ⟨1, 1⟩
abbrev Fld.RANGE_SPUR_KSTORE_LO_WORD_LO : Fld := ⟨0, 32⟩
abbrev Fld.RANGE_SPUR_KSTORE_HI_WORD_HI : Fld := ⟨0, 32⟩
abbrev Fld.RANGE_COL_PREFETCH_CFG_PF_BASE : Fld := ⟨16, 9⟩
abbrev Fld.RANGE_COL_PREFETCH_CFG_PF_COUNT : Fld := ⟨0, 7⟩
abbrev Fld.RANGE_FAULT_INFO_STATION : Fld := ⟨29, 3⟩
abbrev Fld.RANGE_FAULT_INFO_KIND : Fld := ⟨25, 4⟩
abbrev Fld.RANGE_FAULT_INFO_WRITE : Fld := ⟨24, 1⟩
abbrev Fld.RANGE_FAULT_INFO_POSITION : Fld := ⟨16, 7⟩
abbrev Fld.RANGE_FAULT_INFO_HANDLE : Fld := ⟨0, 16⟩
abbrev Fld.RANGE_FAULT_VA_LO_VALUE_LO : Fld := ⟨0, 32⟩
abbrev Fld.RANGE_FAULT_VA_HI_VALUE_HI : Fld := ⟨0, 20⟩
abbrev Fld.FOOTHILL_TARN_FAULT_VA_LO_VALUE_LO : Fld := ⟨0, 32⟩
abbrev Fld.FOOTHILL_TARN_FAULT_VA_HI_VALUE_HI : Fld := ⟨0, 20⟩
abbrev Fld.RANGE_SCREE_OOR_COUNT_COUNT : Fld := ⟨0, 32⟩
abbrev Fld.RANGE_SCREE_CACHE_LAST_HIT_FRAC : Fld := ⟨16, 16⟩
abbrev Fld.FOOTHILL_STATUS_STATE : Fld := ⟨28, 4⟩
abbrev Fld.FOOTHILL_STATUS_SCRUB_DONE : Fld := ⟨27, 1⟩
abbrev Fld.FOOTHILL_ECC_CE_COUNT_COUNT : Fld := ⟨0, 32⟩
abbrev Fld.FOOTHILL_ECC_UE_COUNT_COUNT : Fld := ⟨0, 32⟩
abbrev Fld.LEDGE_ECC_CE_COUNT_COUNT : Fld := ⟨0, 32⟩
abbrev Fld.LEDGE_ECC_UE_COUNT_COUNT : Fld := ⟨0, 32⟩
abbrev Fld.FOOTHILL_ECC_LOG_VALID : Fld := ⟨31, 1⟩
abbrev Fld.FOOTHILL_ECC_LOG_OVERFLOW : Fld := ⟨30, 1⟩
abbrev Fld.FOOTHILL_ECC_LOG_SOURCE : Fld := ⟨27, 3⟩
abbrev Fld.FOOTHILL_ECC_LOG_RANGE : Fld := ⟨23, 4⟩
abbrev Fld.LEDGE_ECC_LOG_VALID : Fld := ⟨31, 1⟩
abbrev Fld.LEDGE_ECC_LOG_OVERFLOW : Fld := ⟨30, 1⟩
abbrev Fld.LEDGE_ECC_LOG_SOURCE : Fld := ⟨27, 3⟩
abbrev Fld.LEDGE_ECC_LOG_RANGE : Fld := ⟨23, 4⟩
abbrev Fld.FOOTHILL_ECC_LOG_PA_LO_PA_LO : Fld := ⟨0, 32⟩
abbrev Fld.FOOTHILL_ECC_LOG_PA_HI_PA_HI : Fld := ⟨0, 16⟩
abbrev Fld.LEDGE_ECC_LOG_PA_LO_PA_LO : Fld := ⟨0, 32⟩
abbrev Fld.LEDGE_ECC_LOG_PA_HI_PA_HI : Fld := ⟨0, 16⟩
abbrev Fld.FOOTHILL_PATROL_CFG_PERIOD_H : Fld := ⟨0, 8⟩
abbrev Fld.FOOTHILL_SCRUB_PROGRESS_ACTIVE : Fld := ⟨31, 1⟩
abbrev Fld.FOOTHILL_SCRUB_PROGRESS_KIND : Fld := ⟨30, 1⟩
abbrev Fld.FOOTHILL_SCRUB_PROGRESS_FRAMES : Fld := ⟨0, 22⟩
abbrev Fld.FOOTHILL_BW_SHARE_RANGE : Fld := ⟨24, 6⟩
abbrev Fld.FOOTHILL_BW_SHARE_FABRIC : Fld := ⟨18, 6⟩
abbrev Fld.FOOTHILL_BW_SHARE_TARN : Fld := ⟨12, 6⟩
abbrev Fld.FOOTHILL_BW_SHARE_BELAY : Fld := ⟨6, 6⟩
abbrev Fld.FOOTHILL_BW_SHARE_SCRUB : Fld := ⟨0, 6⟩
abbrev Fld.FOOTHILL_DIRTY_STATUS_CAPTURE_HELD : Fld := ⟨31, 1⟩
abbrev Fld.FOOTHILL_DIRTY_STATUS_DIRTY : Fld := ⟨0, 22⟩
abbrev Fld.FOOTHILL_CONVERT_STATUS_SCALE_NAN : Fld := ⟨3, 1⟩
abbrev Fld.FOOTHILL_CONVERT_STATUS_NAN_LOST : Fld := ⟨2, 1⟩
abbrev Fld.FOOTHILL_CONVERT_STATUS_INT_SAT : Fld := ⟨1, 1⟩
abbrev Fld.FOOTHILL_CONVERT_STATUS_FP_SAT : Fld := ⟨0, 1⟩
abbrev Fld.LEDGE_MEM_SUMMARY_SCRUB_COMPLETE : Fld := ⟨31, 1⟩
abbrev Fld.LEDGE_MEM_SUMMARY_LEDGE_B_READY : Fld := ⟨30, 1⟩
abbrev Fld.LEDGE_MEM_SUMMARY_LEDGE_A_READY : Fld := ⟨29, 1⟩
abbrev Fld.LEDGE_MEM_SUMMARY_STACK_FAILED : Fld := ⟨0, 12⟩
abbrev Fld.LEDGE_RANGE_WEIGHT_W7 : Fld := ⟨28, 4⟩
abbrev Fld.LEDGE_RANGE_WEIGHT_W6 : Fld := ⟨24, 4⟩
abbrev Fld.LEDGE_RANGE_WEIGHT_W5 : Fld := ⟨20, 4⟩
abbrev Fld.LEDGE_RANGE_WEIGHT_W4 : Fld := ⟨16, 4⟩
abbrev Fld.LEDGE_RANGE_WEIGHT_W3 : Fld := ⟨12, 4⟩
abbrev Fld.LEDGE_RANGE_WEIGHT_W2 : Fld := ⟨8, 4⟩
abbrev Fld.LEDGE_RANGE_WEIGHT_W1 : Fld := ⟨4, 4⟩
abbrev Fld.LEDGE_RANGE_WEIGHT_W0 : Fld := ⟨0, 4⟩
abbrev Fld.LEDGE_D2D_WEIGHT_MASSIF_B : Fld := ⟨4, 4⟩
abbrev Fld.LEDGE_D2D_WEIGHT_MASSIF_A : Fld := ⟨0, 4⟩
abbrev Fld.LEDGE_TILE_ECC_CE : Fld := ⟨16, 16⟩
abbrev Fld.LEDGE_TILE_ECC_UE : Fld := ⟨0, 16⟩
abbrev Fld.TRAVERSE_STEP_STATUS_STATE : Fld := ⟨28, 4⟩
abbrev Fld.TRAVERSE_STEP_STATUS_ATTEMPT : Fld := ⟨24, 4⟩
abbrev Fld.TRAVERSE_STEP_STATUS_TABLE : Fld := ⟨20, 4⟩
abbrev Fld.TRAVERSE_STEP_STATUS_SKIPPED : Fld := ⟨0, 1⟩
abbrev Fld.TRAVERSE_CLOSED_STEP_CLOSED_STEP : Fld := ⟨0, 32⟩
abbrev Fld.TRAVERSE_CLIP_CFG_MAX_MAX_NORM : Fld := ⟨0, 32⟩
abbrev Fld.TRAVERSE_CLIP_CFG_SCALE_GRAD_SCALE : Fld := ⟨0, 32⟩
abbrev Fld.TRAVERSE_NORM_RESULT_LO_VALUE_LO : Fld := ⟨0, 32⟩
abbrev Fld.TRAVERSE_NORM_RESULT_HI_VALUE_HI : Fld := ⟨0, 32⟩
abbrev Fld.FOOTHILL_TARN_STATUS_STATE : Fld := ⟨28, 4⟩
abbrev Fld.FOOTHILL_TARN_STATUS_CONTEXT : Fld := ⟨24, 4⟩
abbrev Fld.FOOTHILL_TARN_STATUS_RECORD : Fld := ⟨0, 16⟩
abbrev Fld.FOOTHILL_TARN_FAULT_VALID : Fld := ⟨31, 1⟩
abbrev Fld.FOOTHILL_TARN_FAULT_KIND : Fld := ⟨27, 4⟩
abbrev Fld.FOOTHILL_TARN_FAULT_CONTEXT : Fld := ⟨16, 4⟩
abbrev Fld.FOOTHILL_TARN_FAULT_RECORD : Fld := ⟨0, 16⟩
abbrev Fld.FOOTHILL_TARN_TABLE_LO_BASE_LO : Fld := ⟨6, 26⟩
abbrev Fld.FOOTHILL_TARN_TABLE_HI_BASE_HI : Fld := ⟨0, 20⟩
abbrev Fld.FOOTHILL_TARN_TABLE_COUNT_COUNT : Fld := ⟨0, 16⟩
abbrev Fld.FOOTHILL_TARN_PROG_VALID : Fld := ⟨31, 1⟩
abbrev Fld.FOOTHILL_TARN_PROG_CONTEXT : Fld := ⟨27, 4⟩
abbrev Fld.FOOTHILL_TARN_PROG_ALGO : Fld := ⟨20, 4⟩
abbrev Fld.FOOTHILL_TARN_PROG_MOMENTS : Fld := ⟨18, 2⟩
abbrev Fld.FOOTHILL_TARN_PROG_SR : Fld := ⟨17, 1⟩
abbrev Fld.FOOTHILL_TARN_PROG_NESTEROV : Fld := ⟨16, 1⟩
abbrev Fld.FOOTHILL_TARN_PROG_LENGTH : Fld := ⟨11, 5⟩
abbrev Fld.FOOTHILL_TARN_HP_VALUE : Fld := ⟨0, 32⟩
abbrev Fld.FOOTHILL_TARN_CODE_LO_WORD_LO : Fld := ⟨0, 32⟩
abbrev Fld.FOOTHILL_TARN_CODE_HI_WORD_HI : Fld := ⟨0, 32⟩
abbrev Fld.CIRQUE_STATUS_STAGE : Fld := ⟨28, 4⟩
abbrev Fld.CIRQUE_STATUS_MESH_MODE : Fld := ⟨26, 2⟩
abbrev Fld.CIRQUE_STATUS_APPLYING : Fld := ⟨25, 1⟩
abbrev Fld.CIRQUE_STATUS_DARK_WRITE : Fld := ⟨24, 1⟩
abbrev Fld.CIRQUE_STATUS_ACTIVE_BAY : Fld := ⟨23, 1⟩
abbrev Fld.CIRQUE_STATUS_STANDBY_READY : Fld := ⟨22, 1⟩
abbrev Fld.CIRQUE_STATUS_FAILOVER : Fld := ⟨21, 1⟩
abbrev Fld.CIRQUE_STATUS_RINGS_OUT : Fld := ⟨0, 10⟩
abbrev Fld.CIRQUE_LSU_CTL_SWITCH : Fld := ⟨2, 1⟩
abbrev Fld.CIRQUE_LSU_CTL_AUTO : Fld := ⟨1, 1⟩
abbrev Fld.CIRQUE_LSU_CTL_PREFER : Fld := ⟨0, 1⟩
abbrev Fld.CIRQUE_LSU_STATUS_PRESENT : Fld := ⟨31, 1⟩
abbrev Fld.CIRQUE_LSU_STATUS_ENABLED : Fld := ⟨30, 1⟩
abbrev Fld.CIRQUE_LSU_STATUS_STABLE : Fld := ⟨29, 1⟩
abbrev Fld.CIRQUE_LSU_STATUS_FAULT : Fld := ⟨28, 1⟩
abbrev Fld.CIRQUE_LSU_STATUS_WORN : Fld := ⟨27, 1⟩
abbrev Fld.CIRQUE_LSU_STATUS_ALIGNED : Fld := ⟨26, 1⟩
abbrev Fld.CIRQUE_LSU_STATUS_LINE_LOW : Fld := ⟨16, 8⟩
abbrev Fld.CIRQUE_LSU_STATUS_TONE_BAD : Fld := ⟨8, 8⟩
abbrev Fld.CIRQUE_LSU_HOURS_HOURS : Fld := ⟨0, 32⟩
abbrev Fld.CIRQUE_LSU_LINE_POWER_POWER : Fld := ⟨0, 16⟩
abbrev Fld.CIRQUE_OUT_POWER_POWER : Fld := ⟨0, 16⟩
abbrev Fld.CIRQUE_RX_POWER_POWER : Fld := ⟨0, 16⟩
abbrev Fld.CIRQUE_DARK_MAP_STATE : Fld := ⟨30, 2⟩
abbrev Fld.CIRQUE_DARK_MAP_TRIM_FAILED : Fld := ⟨0, 11⟩
abbrev Fld.CIRQUE_TRIM_MIN_INDEX : Fld := ⟨16, 11⟩
abbrev Fld.CIRQUE_TRIM_MIN_REMAIN : Fld := ⟨0, 11⟩
abbrev Fld.CIRQUE_DARK_MAP_VERSION_VERSION : Fld := ⟨0, 32⟩
abbrev Fld.CIRQUE_RING_COUNTS_WRONG_LINE : Fld := ⟨16, 16⟩
abbrev Fld.CIRQUE_RING_COUNTS_RELOCK : Fld := ⟨0, 16⟩
abbrev Fld.CIRQUE_RX_MAP_RX3 : Fld := ⟨6, 2⟩
abbrev Fld.CIRQUE_RX_MAP_RX2 : Fld := ⟨4, 2⟩
abbrev Fld.CIRQUE_RX_MAP_RX1 : Fld := ⟨2, 2⟩
abbrev Fld.CIRQUE_RX_MAP_RX0 : Fld := ⟨0, 2⟩
abbrev Fld.CIRQUE_RING_STATE_RX_STATE : Fld := ⟨16, 16⟩
abbrev Fld.CIRQUE_RING_STATE_TX_STATE : Fld := ⟨0, 16⟩
abbrev Fld.CIRQUE_TRIM_REMAIN_ODD : Fld := ⟨16, 11⟩
abbrev Fld.CIRQUE_TRIM_REMAIN_EVEN : Fld := ⟨0, 11⟩
abbrev Fld.PORT_STATUS_STATE : Fld := ⟨28, 4⟩
abbrev Fld.PORT_STATUS_REVISION : Fld := ⟨24, 4⟩
abbrev Fld.PORT_STATUS_TX_LANES : Fld := ⟨16, 8⟩
abbrev Fld.PORT_STATUS_RX_LANES : Fld := ⟨8, 8⟩
abbrev Fld.PORT_STATUS_ENCRYPTED : Fld := ⟨7, 1⟩
abbrev Fld.PORT_STATUS_DOWN_EVENT : Fld := ⟨6, 1⟩
abbrev Fld.PORT_STATUS_HELD_CAUSE : Fld := ⟨4, 2⟩
abbrev Fld.PORT_PEER_INFO_PEER_PORT : Fld := ⟨27, 5⟩
abbrev Fld.PORT_PEER_INFO_PEER_VALID : Fld := ⟨26, 1⟩
abbrev Fld.PORT_PEER_INFO_PEER_COMPAT : Fld := ⟨16, 8⟩
abbrev Fld.PORT_PEER_INFO_PEER_REV_MAX : Fld := ⟨12, 4⟩
abbrev Fld.PORT_PEER_INFO_PEER_REV_MIN : Fld := ⟨8, 4⟩
abbrev Fld.PORT_PEER_SERIAL_LO_SERIAL_LO : Fld := ⟨0, 32⟩
abbrev Fld.PORT_PEER_SERIAL_HI_SERIAL_HI : Fld := ⟨0, 32⟩
abbrev Fld.PORT_CFG_DOWN_MS : Fld := ⟨0, 14⟩
abbrev Fld.PORT_FEC_CORRECTED_COUNT : Fld := ⟨0, 32⟩
abbrev Fld.PORT_FEC_DROPPED_COUNT : Fld := ⟨0, 32⟩
abbrev Fld.PORT_REPLAYS_COUNT : Fld := ⟨0, 32⟩
abbrev Fld.PORT_RETRAINS_COUNT : Fld := ⟨0, 32⟩
abbrev Fld.PORT_AUTH_FAIL_COUNT : Fld := ⟨0, 32⟩
abbrev Fld.PORT_FWD_DROP_COUNT : Fld := ⟨0, 32⟩
abbrev Fld.PORT_RX_DISCARD_COUNT : Fld := ⟨0, 32⟩
abbrev Fld.PORT_LINK_TAG_TAG : Fld := ⟨0, 32⟩
abbrev Fld.PORT_TIME_OFFSET_NS : Fld := ⟨0, 32⟩
abbrev Fld.PORT_REPLAY_FILL_BYTES : Fld := ⟨0, 23⟩
abbrev Fld.TRAVERSE_FABRIC_STATUS_PLAN_VALID : Fld := ⟨31, 1⟩
abbrev Fld.TRAVERSE_FABRIC_STATUS_FADDR : Fld := ⟨16, 12⟩
abbrev Fld.TRAVERSE_FABRIC_STATUS_GROUP_RANK : Fld := ⟨0, 16⟩
abbrev Fld.TRAVERSE_PLAN_ID_PLAN_ID : Fld := ⟨0, 32⟩
abbrev Fld.TRAVERSE_CABLING_SWAP_COUNT : Fld := ⟨0, 32⟩
abbrev Fld.TRAVERSE_TIMEBASE_CFG_MASTER : Fld := ⟨0, 1⟩
abbrev Fld.TRAVERSE_TIMEBASE_STATUS_LOCKED : Fld := ⟨31, 1⟩
abbrev Fld.TRAVERSE_TIMEBASE_STATUS_TB_LOST : Fld := ⟨30, 1⟩
abbrev Fld.TRAVERSE_TIMEBASE_NOW_LO_NOW_LO : Fld := ⟨0, 32⟩
abbrev Fld.TRAVERSE_TIMEBASE_NOW_HI_NOW_HI : Fld := ⟨0, 32⟩
abbrev Fld.TRAVERSE_GROUP_OFFSET_NS : Fld := ⟨0, 32⟩
abbrev Fld.PORT_SADDLE_FMT_SCALED8 : Fld := ⟨5, 1⟩
abbrev Fld.PORT_SADDLE_FMT_E5M2 : Fld := ⟨4, 1⟩
abbrev Fld.PORT_SADDLE_FMT_E4M3 : Fld := ⟨3, 1⟩
abbrev Fld.PORT_SADDLE_FMT_FP16 : Fld := ⟨2, 1⟩
abbrev Fld.PORT_SADDLE_FMT_BF16 : Fld := ⟨1, 1⟩
abbrev Fld.PORT_SADDLE_FMT_FP32 : Fld := ⟨0, 1⟩
abbrev Fld.PORT_SADDLE_STATUS_ACTIVE : Fld := ⟨16, 16⟩
abbrev Fld.PORT_SADDLE_STATUS_POISON_SEEN : Fld := ⟨2, 1⟩
abbrev Fld.PORT_SADDLE_STATUS_NAN_SEEN : Fld := ⟨1, 1⟩
abbrev Fld.PORT_SADDLE_STATUS_FP_SAT : Fld := ⟨0, 1⟩
abbrev Fld.PORT_SADDLE_FRAMES_COUNT : Fld := ⟨0, 32⟩
abbrev Fld.PORT_SADDLE_FALLBACK_COUNT : Fld := ⟨0, 32⟩
abbrev Fld.PORT_SADDLE_STALE_COUNT : Fld := ⟨0, 32⟩
abbrev Fld.TRAVERSE_STEP_CFG_DEADLINE_DEADLINE_US : Fld := ⟨0, 32⟩
abbrev Fld.TRAVERSE_STEP_CFG_LIMIT_REPEAT_LIMIT : Fld := ⟨0, 4⟩
abbrev Fld.TRAVERSE_STEP_GROUP_BOUND : Fld := ⟨31, 1⟩
abbrev Fld.TRAVERSE_STEP_GROUP_CONTEXT : Fld := ⟨27, 4⟩
abbrev Fld.TRAVERSE_STEP_GROUP_JOINED : Fld := ⟨13, 13⟩
abbrev Fld.TRAVERSE_STEP_GROUP_READY : Fld := ⟨0, 13⟩
abbrev Fld.TRAVERSE_STEP_DEADLINE_LO_TD_LO : Fld := ⟨0, 32⟩
abbrev Fld.TRAVERSE_STEP_DEADLINE_HI_TD_HI : Fld := ⟨0, 32⟩
abbrev Fld.TRAVERSE_STEP_ABORT_REASON : Fld := ⟨28, 4⟩
abbrev Fld.TRAVERSE_STEP_ABORT_STATUS : Fld := ⟨16, 8⟩
abbrev Fld.TRAVERSE_STEP_ABORT_RANK : Fld := ⟨0, 12⟩
abbrev Fld.TRAVERSE_STEP_ABORTS_COUNT : Fld := ⟨0, 32⟩
abbrev Fld.BELAY_STATUS_STATE : Fld := ⟨28, 4⟩
abbrev Fld.BELAY_STATUS_WARD_RECV : Fld := ⟨27, 1⟩
abbrev Fld.BELAY_STATUS_CATCHUP : Fld := ⟨26, 1⟩
abbrev Fld.BELAY_STATUS_LAST_RESULT : Fld := ⟨8, 8⟩
abbrev Fld.BELAY_CFG_TIMEOUT_S : Fld := ⟨16, 16⟩
abbrev Fld.BELAY_CFG_AUTO_PCT : Fld := ⟨0, 7⟩
abbrev Fld.BELAY_ROUND_L_STEP : Fld := ⟨0, 32⟩
abbrev Fld.BELAY_LAST_FREEZE_LAST_US : Fld := ⟨0, 32⟩
abbrev Fld.BELAY_PREDICT_PREDICT_US : Fld := ⟨0, 32⟩
abbrev Fld.BELAY_SLOT_VALID : Fld := ⟨31, 1⟩
abbrev Fld.BELAY_SLOT_WRITING : Fld := ⟨30, 1⟩
abbrev Fld.BELAY_SLOT_STEP_STEP : Fld := ⟨0, 32⟩
abbrev Fld.BELAY_COUNTS_ROUNDS_OK : Fld := ⟨16, 16⟩
abbrev Fld.BELAY_COUNTS_ROUNDS_FAILED : Fld := ⟨0, 16⟩
abbrev Fld.BELAY_REGION_DIRTY_FULL : Fld := ⟨31, 1⟩
abbrev Fld.BELAY_REGION_DIRTY_PCT : Fld := ⟨0, 7⟩
abbrev Fld.TRAVERSE_SERVE_CFG_ENABLE : Fld := ⟨31, 1⟩
abbrev Fld.TRAVERSE_SERVE_CFG_PERIODIC : Fld := ⟨30, 1⟩
abbrev Fld.TRAVERSE_SERVE_CFG_TABLE : Fld := ⟨24, 4⟩
abbrev Fld.TRAVERSE_SERVE_CFG_LOCK_MHZ : Fld := ⟨0, 11⟩
abbrev Fld.TRAVERSE_SERVE_PERIOD_PERIOD_NS : Fld := ⟨0, 32⟩
abbrev Fld.TRAVERSE_SERVE_INTAKE_INTAKE_NS : Fld := ⟨0, 32⟩
abbrev Fld.TRAVERSE_SERVE_COUNTS_LATE : Fld := ⟨16, 16⟩
abbrev Fld.TRAVERSE_SERVE_COUNTS_RUN : Fld := ⟨0, 16⟩
abbrev Fld.TREELINE_STATUS_BROWNOUT : Fld := ⟨31, 1⟩
abbrev Fld.TREELINE_STATUS_COMPUTE_STOPPED : Fld := ⟨30, 1⟩
abbrev Fld.TREELINE_STATUS_DERATED : Fld := ⟨29, 1⟩
abbrev Fld.TREELINE_STATUS_COLD_INLET : Fld := ⟨28, 1⟩
abbrev Fld.TREELINE_STATUS_DIP : Fld := ⟨27, 1⟩
abbrev Fld.TREELINE_STATUS_PRED_READY : Fld := ⟨0, 8⟩
abbrev Fld.TREELINE_CAP_CAP_W : Fld := ⟨16, 16⟩
abbrev Fld.TREELINE_CAP_EFFECTIVE_W : Fld := ⟨0, 16⟩
abbrev Fld.TREELINE_INPUT_VOLTAGE : Fld := ⟨16, 16⟩
abbrev Fld.TREELINE_INPUT_POWER_W : Fld := ⟨0, 16⟩
abbrev Fld.TREELINE_BUDGET_GRANTED_W : Fld := ⟨16, 16⟩
abbrev Fld.TREELINE_BUDGET_RESERVED_W : Fld := ⟨0, 16⟩
abbrev Fld.TREELINE_BASE_BASE_W : Fld := ⟨16, 16⟩
abbrev Fld.TREELINE_BASE_FREE_W : Fld := ⟨0, 16⟩
abbrev Fld.TREELINE_THERMAL_CFG_BOOST_TJ : Fld := ⟨24, 8⟩
abbrev Fld.TREELINE_THERMAL_CFG_THROTTLE_TJ : Fld := ⟨16, 8⟩
abbrev Fld.TREELINE_THERMAL_CFG_FAST_DELTA : Fld := ⟨8, 8⟩
abbrev Fld.TREELINE_THERMAL_CFG_BOOST_EN : Fld := ⟨0, 1⟩
abbrev Fld.TREELINE_COOLANT_INLET : Fld := ⟨16, 16⟩
abbrev Fld.TREELINE_COOLANT_FLOW : Fld := ⟨0, 16⟩
abbrev Fld.TREELINE_ADMIT_CFG_MARGIN_W : Fld := ⟨16, 12⟩
abbrev Fld.TREELINE_ADMIT_CFG_STARVE_US : Fld := ⟨0, 16⟩
abbrev Fld.TREELINE_COUNTS_FAST_EVENTS : Fld := ⟨16, 16⟩
abbrev Fld.TREELINE_COUNTS_CAP_EVENTS : Fld := ⟨8, 8⟩
abbrev Fld.TREELINE_COUNTS_BROWNOUTS : Fld := ⟨0, 8⟩
abbrev Fld.TREELINE_ZONE_TEMP : Fld := ⟨16, 16⟩
abbrev Fld.TREELINE_ZONE_STATE : Fld := ⟨12, 4⟩
abbrev Fld.TREELINE_ZONE_FREQ_MHZ : Fld := ⟨0, 11⟩
abbrev Fld.TREELINE_RESERVE_WATTS : Fld := ⟨16, 16⟩
abbrev Fld.TREELINE_RESERVE_IN_USE_W : Fld := ⟨0, 16⟩
abbrev Fld.TREELINE_PREDICT_SAMPLES : Fld := ⟨16, 13⟩
abbrev Fld.TREELINE_PREDICT_PRED_DW : Fld := ⟨0, 12⟩
abbrev Fld.CAIRN_STATE_TRUST : Fld := ⟨30, 2⟩
abbrev Fld.CAIRN_STATE_SESSION : Fld := ⟨29, 1⟩
abbrev Fld.CAIRN_STATE_DEBUG : Fld := ⟨28, 1⟩
abbrev Fld.CAIRN_STATE_CLEARING : Fld := ⟨27, 1⟩
abbrev Fld.CAIRN_STATE_RECOVERY : Fld := ⟨26, 1⟩
abbrev Fld.CAIRN_STATE_RUN_BANK : Fld := ⟨25, 1⟩
abbrev Fld.CAIRN_STATE_PREFER_BANK : Fld := ⟨24, 1⟩
abbrev Fld.CAIRN_STATE_FALLBACK : Fld := ⟨23, 1⟩
abbrev Fld.CAIRN_STATE_SLOTS_LOADED : Fld := ⟨0, 16⟩
abbrev Fld.CAIRN_SVN_REMAIN : Fld := ⟨8, 8⟩
abbrev Fld.CAIRN_SVN_VALUE : Fld := ⟨0, 8⟩
abbrev Fld.CAIRN_OWNER_REMAIN : Fld := ⟨8, 6⟩
abbrev Fld.CAIRN_OWNER_OWNER_INDEX : Fld := ⟨0, 6⟩
abbrev Fld.CAIRN_FUSES_REMAIN : Fld := ⟨1, 1⟩
abbrev Fld.CAIRN_FUSES_PROD_DEBUG_OFF : Fld := ⟨0, 1⟩
abbrev Fld.CAIRN_POLICY_HB_S : Fld := ⟨1, 8⟩
abbrev Fld.CAIRN_POLICY_MGMT_SPDM : Fld := ⟨0, 1⟩
abbrev Fld.CAIRN_COUNTS_SWITE_AUTH_FAIL : Fld := ⟨0, 32⟩
abbrev Fld.CAIRN_OWNER_HASH_DIGEST : Fld := ⟨0, 32⟩
abbrev Fld.CAIRN_KEY_SLOT_VALID : Fld := ⟨31, 1⟩
abbrev Fld.CAIRN_KEY_SLOT_NO_EXPORT : Fld := ⟨30, 1⟩
abbrev Fld.CAIRN_KEY_SLOT_CONTEXT : Fld := ⟨20, 4⟩
abbrev Fld.CAIRN_KEY_SLOT_KEY_ID : Fld := ⟨0, 16⟩
abbrev Fld.CAIRN_PORT_KEY_STATE : Fld := ⟨30, 2⟩
abbrev Fld.CAIRN_PORT_KEY_EPOCH : Fld := ⟨0, 24⟩
abbrev Fld.CAIRN_LOG_CTL_PERMANENT : Fld := ⟨31, 1⟩
abbrev Fld.CAIRN_LOG_CTL_INDEX : Fld := ⟨0, 16⟩
abbrev Fld.CAIRN_LOG_STATUS_LOST : Fld := ⟨16, 16⟩
abbrev Fld.CAIRN_LOG_STATUS_HELD : Fld := ⟨0, 16⟩
abbrev Fld.CAIRN_LOG_DATA_DATA : Fld := ⟨0, 32⟩
abbrev Fld.SWITE_STATUS_STATE : Fld := ⟨28, 4⟩
abbrev Fld.SWITE_STATUS_LANES_UP : Fld := ⟨12, 16⟩
abbrev Fld.SWITE_STATUS_MGMT_UP : Fld := ⟨11, 1⟩
abbrev Fld.SWITE_STATUS_ENCRYPTED : Fld := ⟨10, 1⟩
abbrev Fld.SWITE_PACKET_TIMEOUT_TIMEOUT_US : Fld := ⟨0, 32⟩
abbrev Fld.SWITE_EVENT_MASK_KINDS : Fld := ⟨0, 6⟩
abbrev Fld.SWITE_OUTSTANDING_COMMANDS : Fld := ⟨0, 16⟩
abbrev Fld.SWITE_CLASS_RESERVE_GBPS : Fld := ⟨0, 8⟩
abbrev Fld.SWITE_PARTIAL_DISCARD_COUNT : Fld := ⟨0, 32⟩
abbrev Fld.SWITE_DISCARD_BYTES_COUNT : Fld := ⟨0, 32⟩
abbrev Fld.SWITE_FLIT_REPLAYS_COUNT : Fld := ⟨0, 32⟩
abbrev Fld.SWITE_FEC_CORRECTED_COUNT : Fld := ⟨0, 32⟩
abbrev Fld.SWITE_FEC_DROPPED_COUNT : Fld := ⟨0, 32⟩
abbrev Fld.SWITE_RETRAINS_COUNT : Fld := ⟨0, 32⟩
abbrev Fld.SWITE_HOST_ERRORS_COUNT : Fld := ⟨0, 32⟩
abbrev Fld.SWITE_MGMT_CRC_COUNT : Fld := ⟨0, 32⟩
abbrev Fld.CAIRN_START_STATUS_STAGE : Fld := ⟨28, 4⟩
abbrev Fld.CAIRN_START_STATUS_FAILED : Fld := ⟨27, 1⟩
abbrev Fld.CAIRN_START_STATUS_FAIL_STAGE : Fld := ⟨24, 3⟩
abbrev Fld.CAIRN_START_STATUS_FAIL_CAUSE : Fld := ⟨20, 4⟩
abbrev Fld.CAIRN_START_STATUS_FABRIC_OK : Fld := ⟨19, 1⟩
abbrev Fld.CAIRN_START_STATUS_RETAINED : Fld := ⟨18, 1⟩
abbrev Fld.CAIRN_START_STATUS_POWERED_OFF : Fld := ⟨17, 1⟩
abbrev Fld.CAIRN_RESET_CAUSE_KIND : Fld := ⟨28, 4⟩
abbrev Fld.CAIRN_RESET_CAUSE_SOURCE : Fld := ⟨24, 4⟩
abbrev Fld.CAIRN_RESET_CAUSE_TARGET : Fld := ⟨16, 8⟩
abbrev Fld.CAIRN_RESET_CAUSE_COUNT : Fld := ⟨0, 16⟩
abbrev Fld.CAIRN_STAGE_TIME_MS : Fld := ⟨0, 32⟩
abbrev Fld.SURVEY_STATUS_STATE : Fld := ⟨30, 2⟩
abbrev Fld.SURVEY_STATUS_UNITS_READ : Fld := ⟨16, 9⟩
abbrev Fld.SURVEY_STATUS_SNAP_ID : Fld := ⟨0, 16⟩
abbrev Fld.SURVEY_SNAP_AT_LO_AT_LO : Fld := ⟨0, 32⟩
abbrev Fld.SURVEY_SNAP_AT_HI_AT_HI : Fld := ⟨0, 32⟩
abbrev Fld.SURVEY_DEBUG_NONCE_NONCE : Fld := ⟨0, 32⟩
abbrev Fld.WAYMARK_POSITION_INSTR_INDEX : Fld := ⟨16, 16⟩
abbrev Fld.WAYMARK_POSITION_REPEAT_INDEX : Fld := ⟨0, 16⟩
abbrev Fld.WAYMARK_POSITION_HI_ARMED : Fld := ⟨31, 1⟩
abbrev Fld.WAYMARK_POSITION_HI_HALTED : Fld := ⟨30, 1⟩
abbrev Fld.WAYMARK_POSITION_HI_PASS : Fld := ⟨0, 16⟩
abbrev Fld.MODULE_SERIAL_LO_SERIAL_LO : Fld := ⟨0, 32⟩
abbrev Fld.MODULE_SERIAL_HI_SERIAL_HI : Fld := ⟨0, 32⟩
abbrev Fld.MODULE_PART_PART : Fld := ⟨16, 16⟩
abbrev Fld.MODULE_PART_STEP_LETTER : Fld := ⟨8, 8⟩
abbrev Fld.MODULE_PART_STEP_NUMBER : Fld := ⟨0, 8⟩
abbrev Fld.MODULE_FW_VERSION_MAJOR : Fld := ⟨24, 8⟩
abbrev Fld.MODULE_FW_VERSION_MINOR : Fld := ⟨16, 8⟩
abbrev Fld.MODULE_FW_VERSION_PATCH : Fld := ⟨0, 16⟩
abbrev Fld.MODULE_COMPAT_LEVEL_MAX : Fld := ⟨24, 8⟩
abbrev Fld.MODULE_COMPAT_LEVEL_MIN : Fld := ⟨16, 8⟩
abbrev Fld.MODULE_COMPAT_LEVEL_PLAN : Fld := ⟨8, 8⟩
abbrev Fld.MODULE_COMPAT_REV_MAX : Fld := ⟨4, 4⟩
abbrev Fld.MODULE_COMPAT_REV_MIN : Fld := ⟨0, 4⟩
abbrev Fld.MODULE_TROUBLE_SUMMARY : Fld := ⟨0, 12⟩
abbrev Fld.MODULE_ALERT_MASK_MASK : Fld := ⟨0, 12⟩
abbrev Fld.MODULE_SCRATCH_VALUE : Fld := ⟨0, 32⟩
abbrev Fld.RANGE_AX_COORD_VALUE : Fld := ⟨0, 32⟩
abbrev Fld.RANGE_INC_COORD_VALUE : Fld := ⟨0, 32⟩
abbrev Fld.RANGE_LC_VALUE : Fld := ⟨0, 32⟩

/-- Registers of the range window. -/
def regs_range_0 : List RegSpec :=
  [⟨0x0, 1, 4, [⟨⟨28, 4⟩, .ro, 0, false⟩, ⟨⟨24, 4⟩, .ro, 0, false⟩, ⟨⟨16, 8⟩, .ro, 0, false⟩, ⟨⟨8, 8⟩, .ro, 0, false⟩, ⟨⟨3, 5⟩, .rsv, 0, false⟩, ⟨⟨2, 1⟩, .w1c, 0, false⟩, ⟨⟨1, 1⟩, .ro, 0, false⟩, ⟨⟨0, 1⟩, .rsv, 0, false⟩]⟩,
   ⟨0x4, 1, 4, [⟨⟨16, 16⟩, .ro, 0, false⟩, ⟨⟨0, 16⟩, .ro, 0, false⟩]⟩,
   ⟨0x8, 1, 4, [⟨⟨29, 3⟩, .ro, 0, false⟩, ⟨⟨24, 5⟩, .ro, 0, false⟩, ⟨⟨0, 24⟩, .rsv, 0, false⟩]⟩,
   ⟨0xc, 1, 4, [⟨⟨0, 32⟩, .ro, 0, false⟩]⟩,
   ⟨0x10, 1, 4, [⟨⟨24, 8⟩, .rsv, 0, false⟩, ⟨⟨20, 4⟩, .ro, 0, false⟩, ⟨⟨16, 4⟩, .ro, 0, false⟩, ⟨⟨12, 4⟩, .ro, 0, false⟩, ⟨⟨8, 4⟩, .ro, 0, false⟩, ⟨⟨4, 4⟩, .ro, 0, false⟩, ⟨⟨0, 4⟩, .ro, 0, false⟩]⟩,
   ⟨0x14, 1, 4, [⟨⟨16, 16⟩, .ro, 0, false⟩, ⟨⟨8, 8⟩, .ro, 0, false⟩, ⟨⟨0, 8⟩, .rsv, 0, false⟩]⟩,
   ⟨0x18, 1, 4, [⟨⟨5, 27⟩, .rsv, 0, false⟩, ⟨⟨4, 1⟩, .w1c, 0, false⟩, ⟨⟨3, 1⟩, .w1c, 0, false⟩, ⟨⟨2, 1⟩, .w1c, 0, false⟩, ⟨⟨1, 1⟩, .w1c, 0, false⟩, ⟨⟨0, 1⟩, .w1c, 0, false⟩]⟩,
   ⟨0x600, 1, 4, [⟨⟨16, 16⟩, .rw, 15396, false⟩, ⟨⟨2, 14⟩, .rsv, 0, false⟩, ⟨⟨1, 1⟩, .rw, 1, false⟩, ⟨⟨0, 1⟩, .rsv, 0, false⟩]⟩,
   ⟨0x604, 1, 4, [⟨⟨16, 16⟩, .rsv, 0, false⟩, ⟨⟨15, 1⟩, .ro, 0, false⟩, ⟨⟨10, 5⟩, .rsv, 0, false⟩, ⟨⟨9, 1⟩, .ro, 0, false⟩, ⟨⟨8, 1⟩, .ro, 0, false⟩, ⟨⟨5, 3⟩, .ro, 0, false⟩, ⟨⟨4, 1⟩, .ro, 0, false⟩, ⟨⟨3, 1⟩, .ro, 0, false⟩, ⟨⟨0, 3⟩, .ro, 0, false⟩]⟩,
   ⟨0x608, 1, 4, [⟨⟨16, 16⟩, .ro, 0, false⟩, ⟨⟨0, 16⟩, .rsv, 0, false⟩]⟩,
   ⟨0x700, 1, 4, [⟨⟨24, 8⟩, .rsv, 0, false⟩, ⟨⟨16, 8⟩, .rw, 128, false⟩, ⟨⟨8, 8⟩, .rw, 128, false⟩, ⟨⟨1, 7⟩, .rsv, 0, false⟩, ⟨⟨0, 1⟩, .rw, 0, false⟩]⟩,
   ⟨0x704, 1, 4, [⟨⟨24, 8⟩, .ro, 0, false⟩, ⟨⟨2, 22⟩, .rsv, 0, false⟩, ⟨⟨1, 1⟩, .w1c, 0, false⟩, ⟨⟨0, 1⟩, .w1c, 0, false⟩]⟩]

/-- Registers of the range window. -/
def regs_range_1 : List RegSpec :=
  [⟨0x708, 1, 4, [⟨⟨0, 32⟩, .rw, 0, false⟩]⟩,
   ⟨0x70c, 1, 4, [⟨⟨0, 32⟩, .rw, 0, false⟩]⟩,
   ⟨0x800, 32, 8, [⟨⟨0, 32⟩, .rw, 0, false⟩]⟩,
   ⟨0x804, 32, 8, [⟨⟨0, 32⟩, .rw, 0, false⟩]⟩,
   ⟨0xa00, 256, 4, [⟨⟨20, 12⟩, .rw, 0, false⟩, ⟨⟨12, 8⟩, .rw, 0, false⟩, ⟨⟨8, 4⟩, .rw, 0, false⟩, ⟨⟨5, 3⟩, .rw, 0, false⟩, ⟨⟨3, 2⟩, .rw, 0, false⟩, ⟨⟨2, 1⟩, .rw, 0, false⟩, ⟨⟨1, 1⟩, .rw, 0, false⟩, ⟨⟨0, 1⟩, .rsv, 0, false⟩]⟩,
   ⟨0x10000, 4096, 8, [⟨⟨0, 32⟩, .rw, 0, false⟩]⟩,
   ⟨0x10004, 4096, 8, [⟨⟨0, 32⟩, .rw, 0, false⟩]⟩,
   ⟨0xe00, 1, 4, [⟨⟨25, 7⟩, .rsv, 0, false⟩, ⟨⟨16, 9⟩, .rw, 0, false⟩, ⟨⟨7, 9⟩, .rsv, 0, false⟩, ⟨⟨0, 7⟩, .rw, 0, false⟩]⟩,
   ⟨0xe04, 1, 4, [⟨⟨29, 3⟩, .ro, 0, false⟩, ⟨⟨25, 4⟩, .ro, 0, false⟩, ⟨⟨24, 1⟩, .ro, 0, false⟩, ⟨⟨23, 1⟩, .rsv, 0, false⟩, ⟨⟨16, 7⟩, .ro, 0, false⟩, ⟨⟨0, 16⟩, .ro, 0, false⟩]⟩,
   ⟨0xe08, 1, 4, [⟨⟨0, 32⟩, .ro, 0, false⟩]⟩,
   ⟨0xe0c, 1, 4, [⟨⟨20, 12⟩, .rsv, 0, false⟩, ⟨⟨0, 20⟩, .ro, 0, false⟩]⟩,
   ⟨0xe10, 1, 4, [⟨⟨0, 32⟩, .rc, 0, false⟩]⟩]

/-- Registers of the range window. -/
def regs_range_2 : List RegSpec :=
  [⟨0xe14, 1, 4, [⟨⟨16, 16⟩, .ro, 0, false⟩, ⟨⟨0, 16⟩, .rsv, 0, false⟩]⟩,
   ⟨0x100, 128, 4, [⟨⟨0, 32⟩, .ro, 0, false⟩]⟩,
   ⟨0x300, 128, 4, [⟨⟨0, 32⟩, .ro, 0, false⟩]⟩,
   ⟨0x500, 4, 4, [⟨⟨0, 32⟩, .ro, 0, false⟩]⟩]

/-- Registers of the range window. -/
def regs_range : List RegSpec := regs_range_0 ++ regs_range_1 ++ regs_range_2

/-- Registers of the traverse window. -/
def regs_traverse_0 : List RegSpec :=
  [⟨0x400, 16, 4, [⟨⟨31, 1⟩, .ro, 0, false⟩, ⟨⟨16, 15⟩, .rsv, 0, false⟩, ⟨⟨0, 16⟩, .ro, 0, false⟩]⟩,
   ⟨0x440, 16, 4, [⟨⟨28, 4⟩, .rsv, 0, false⟩, ⟨⟨16, 12⟩, .ro, 0, false⟩, ⟨⟨13, 3⟩, .rsv, 0, false⟩, ⟨⟨0, 13⟩, .ro, 0, false⟩]⟩,
   ⟨0x480, 1, 4, [⟨⟨0, 32⟩, .rw, 100000, false⟩]⟩,
   ⟨0x8000, 4096, 4, [⟨⟨0, 32⟩, .rw, 0, false⟩]⟩,
   ⟨0x490, 1, 4, [⟨⟨16, 16⟩, .ro, 0, false⟩, ⟨⟨8, 8⟩, .ro, 0, false⟩, ⟨⟨0, 8⟩, .rsv, 0, false⟩]⟩,
   ⟨0x500, 16, 8, [⟨⟨28, 4⟩, .ro, 0, false⟩, ⟨⟨24, 4⟩, .ro, 0, false⟩, ⟨⟨20, 4⟩, .ro, 0, false⟩, ⟨⟨1, 19⟩, .rsv, 0, false⟩, ⟨⟨0, 1⟩, .ro, 0, false⟩]⟩,
   ⟨0x504, 16, 8, [⟨⟨0, 32⟩, .ro, 0, false⟩]⟩,
   ⟨0x580, 16, 8, [⟨⟨0, 32⟩, .rw, 0, false⟩]⟩,
   ⟨0x584, 16, 8, [⟨⟨0, 32⟩, .rw, 1065353216, false⟩]⟩,
   ⟨0x600, 16, 8, [⟨⟨0, 32⟩, .ro, 0, false⟩]⟩,
   ⟨0x604, 16, 8, [⟨⟨0, 32⟩, .ro, 0, false⟩]⟩,
   ⟨0x700, 1, 4, [⟨⟨31, 1⟩, .ro, 0, false⟩, ⟨⟨28, 3⟩, .rsv, 0, false⟩, ⟨⟨16, 12⟩, .ro, 0, false⟩, ⟨⟨0, 16⟩, .ro, 65535, false⟩]⟩]

/-- Registers of the traverse window. -/
def regs_traverse_1 : List RegSpec :=
  [⟨0x704, 1, 4, [⟨⟨0, 32⟩, .ro, 0, false⟩]⟩,
   ⟨0x708, 1, 4, [⟨⟨0, 32⟩, .rc, 0, false⟩]⟩,
   ⟨0x70c, 1, 4, [⟨⟨1, 31⟩, .rsv, 0, false⟩, ⟨⟨0, 1⟩, .rw, 0, false⟩]⟩,
   ⟨0x710, 1, 4, [⟨⟨31, 1⟩, .ro, 0, false⟩, ⟨⟨30, 1⟩, .w1c, 0, false⟩, ⟨⟨0, 30⟩, .rsv, 0, false⟩]⟩,
   ⟨0x714, 1, 4, [⟨⟨0, 32⟩, .ro, 0, false⟩]⟩,
   ⟨0x718, 1, 4, [⟨⟨0, 32⟩, .ro, 0, false⟩]⟩,
   ⟨0x71c, 1, 4, [⟨⟨0, 32⟩, .ro, 0, false⟩]⟩,
   ⟨0x800, 1, 4, [⟨⟨0, 32⟩, .rw, 10000000, false⟩]⟩,
   ⟨0x804, 1, 4, [⟨⟨4, 28⟩, .rsv, 0, false⟩, ⟨⟨0, 4⟩, .rw, 3, false⟩]⟩,
   ⟨0x808, 1, 4, [⟨⟨31, 1⟩, .ro, 0, false⟩, ⟨⟨27, 4⟩, .ro, 0, false⟩, ⟨⟨26, 1⟩, .rsv, 0, false⟩, ⟨⟨13, 13⟩, .ro, 0, false⟩, ⟨⟨0, 13⟩, .ro, 0, false⟩]⟩,
   ⟨0x810, 1, 4, [⟨⟨0, 32⟩, .ro, 0, false⟩]⟩,
   ⟨0x814, 1, 4, [⟨⟨0, 32⟩, .ro, 0, false⟩]⟩]

/-- Registers of the traverse window. -/
def regs_traverse_2 : List RegSpec :=
  [⟨0x818, 1, 4, [⟨⟨28, 4⟩, .ro, 0, false⟩, ⟨⟨24, 4⟩, .rsv, 0, false⟩, ⟨⟨16, 8⟩, .ro, 0, false⟩, ⟨⟨12, 4⟩, .rsv, 0, false⟩, ⟨⟨0, 12⟩, .ro, 0, false⟩]⟩,
   ⟨0x81c, 1, 4, [⟨⟨0, 32⟩, .rc, 0, false⟩]⟩,
   ⟨0x900, 16, 16, [⟨⟨31, 1⟩, .rw, 0, false⟩, ⟨⟨30, 1⟩, .rw, 0, false⟩, ⟨⟨28, 2⟩, .rsv, 0, false⟩, ⟨⟨24, 4⟩, .rw, 0, false⟩, ⟨⟨11, 13⟩, .rsv, 0, false⟩, ⟨⟨0, 11⟩, .rw, 1250, false⟩]⟩,
   ⟨0x904, 16, 16, [⟨⟨0, 32⟩, .rw, 0, false⟩]⟩,
   ⟨0x908, 16, 16, [⟨⟨0, 32⟩, .rw, 0, false⟩]⟩,
   ⟨0x90c, 16, 16, [⟨⟨16, 16⟩, .rc, 0, false⟩, ⟨⟨0, 16⟩, .rc, 0, false⟩]⟩]

/-- Registers of the traverse window. -/
def regs_traverse : List RegSpec := regs_traverse_0 ++ regs_traverse_1 ++ regs_traverse_2

/-- Registers of the foothill window. -/
def regs_foothill_0 : List RegSpec :=
  [⟨0x1008, 1, 4, [⟨⟨0, 32⟩, .ro, 0, false⟩]⟩,
   ⟨0x100c, 1, 4, [⟨⟨20, 12⟩, .rsv, 0, false⟩, ⟨⟨0, 20⟩, .ro, 0, false⟩]⟩,
   ⟨0x0, 1, 4, [⟨⟨28, 4⟩, .ro, 0, false⟩, ⟨⟨27, 1⟩, .ro, 0, false⟩, ⟨⟨0, 27⟩, .rsv, 0, false⟩]⟩,
   ⟨0x4, 1, 4, [⟨⟨0, 32⟩, .rc, 0, false⟩]⟩,
   ⟨0x8, 1, 4, [⟨⟨0, 32⟩, .rc, 0, false⟩]⟩,
   ⟨0xc, 1, 4, [⟨⟨31, 1⟩, .w1c, 0, false⟩, ⟨⟨30, 1⟩, .w1c, 0, false⟩, ⟨⟨27, 3⟩, .ro, 0, false⟩, ⟨⟨23, 4⟩, .ro, 0, false⟩, ⟨⟨0, 23⟩, .rsv, 0, false⟩]⟩,
   ⟨0x10, 1, 4, [⟨⟨0, 32⟩, .ro, 0, false⟩]⟩,
   ⟨0x14, 1, 4, [⟨⟨16, 16⟩, .rsv, 0, false⟩, ⟨⟨0, 16⟩, .ro, 0, false⟩]⟩,
   ⟨0x18, 1, 4, [⟨⟨8, 24⟩, .rsv, 0, false⟩, ⟨⟨0, 8⟩, .rw, 24, false⟩]⟩,
   ⟨0x1c, 1, 4, [⟨⟨31, 1⟩, .ro, 0, false⟩, ⟨⟨30, 1⟩, .ro, 0, false⟩, ⟨⟨22, 8⟩, .rsv, 0, false⟩, ⟨⟨0, 22⟩, .ro, 0, false⟩]⟩,
   ⟨0x20, 1, 4, [⟨⟨30, 2⟩, .rsv, 0, false⟩, ⟨⟨24, 6⟩, .rw, 34, false⟩, ⟨⟨18, 6⟩, .rw, 8, false⟩, ⟨⟨12, 6⟩, .rw, 16, false⟩, ⟨⟨6, 6⟩, .rw, 4, false⟩, ⟨⟨0, 6⟩, .rw, 2, false⟩]⟩,
   ⟨0x24, 1, 4, [⟨⟨31, 1⟩, .ro, 0, false⟩, ⟨⟨22, 9⟩, .rsv, 0, false⟩, ⟨⟨0, 22⟩, .ro, 2097152, false⟩]⟩]

/-- Registers of the foothill window. -/
def regs_foothill_1 : List RegSpec :=
  [⟨0x28, 1, 4, [⟨⟨4, 28⟩, .rsv, 0, false⟩, ⟨⟨3, 1⟩, .w1c, 0, false⟩, ⟨⟨2, 1⟩, .w1c, 0, false⟩, ⟨⟨1, 1⟩, .w1c, 0, false⟩, ⟨⟨0, 1⟩, .w1c, 0, false⟩]⟩,
   ⟨0x1000, 1, 4, [⟨⟨28, 4⟩, .ro, 0, false⟩, ⟨⟨24, 4⟩, .ro, 0, false⟩, ⟨⟨16, 8⟩, .rsv, 0, false⟩, ⟨⟨0, 16⟩, .ro, 0, false⟩]⟩,
   ⟨0x1004, 1, 4, [⟨⟨31, 1⟩, .w1c, 0, false⟩, ⟨⟨27, 4⟩, .ro, 0, false⟩, ⟨⟨20, 7⟩, .rsv, 0, false⟩, ⟨⟨16, 4⟩, .ro, 0, false⟩, ⟨⟨0, 16⟩, .ro, 0, false⟩]⟩,
   ⟨0x1100, 16, 16, [⟨⟨6, 26⟩, .rw, 0, false⟩, ⟨⟨0, 6⟩, .rsv, 0, false⟩]⟩,
   ⟨0x1104, 16, 16, [⟨⟨20, 12⟩, .rsv, 0, false⟩, ⟨⟨0, 20⟩, .rw, 0, false⟩]⟩,
   ⟨0x1108, 16, 16, [⟨⟨16, 16⟩, .rsv, 0, false⟩, ⟨⟨0, 16⟩, .rw, 0, false⟩]⟩,
   ⟨0x110c, 16, 16, [⟨⟨0, 32⟩, .rsv, 0, false⟩]⟩,
   ⟨0x1200, 16, 4, [⟨⟨31, 1⟩, .rw, 0, false⟩, ⟨⟨27, 4⟩, .ro, 0, false⟩, ⟨⟨24, 3⟩, .rsv, 0, false⟩, ⟨⟨20, 4⟩, .rw, 0, false⟩, ⟨⟨18, 2⟩, .rw, 0, false⟩, ⟨⟨17, 1⟩, .rw, 0, false⟩, ⟨⟨16, 1⟩, .rw, 0, false⟩, ⟨⟨11, 5⟩, .rw, 0, false⟩, ⟨⟨0, 11⟩, .rsv, 0, false⟩]⟩,
   ⟨0x1300, 128, 4, [⟨⟨0, 32⟩, .rw, 0, false⟩]⟩,
   ⟨0x1800, 256, 8, [⟨⟨0, 32⟩, .rw, 0, false⟩]⟩,
   ⟨0x1804, 256, 8, [⟨⟨0, 32⟩, .rw, 0, false⟩]⟩]

/-- Registers of the foothill window. -/
def regs_foothill : List RegSpec := regs_foothill_0 ++ regs_foothill_1

/-- Registers of the ledge window. -/
def regs_ledge : List RegSpec :=
  [⟨0x10, 2, 4, [⟨⟨0, 32⟩, .rc, 0, false⟩]⟩,
   ⟨0x18, 2, 4, [⟨⟨0, 32⟩, .rc, 0, false⟩]⟩,
   ⟨0x20, 1, 4, [⟨⟨31, 1⟩, .w1c, 0, false⟩, ⟨⟨30, 1⟩, .w1c, 0, false⟩, ⟨⟨27, 3⟩, .ro, 0, false⟩, ⟨⟨23, 4⟩, .ro, 0, false⟩, ⟨⟨0, 23⟩, .rsv, 0, false⟩]⟩,
   ⟨0x24, 1, 4, [⟨⟨0, 32⟩, .ro, 0, false⟩]⟩,
   ⟨0x28, 1, 4, [⟨⟨16, 16⟩, .rsv, 0, false⟩, ⟨⟨0, 16⟩, .ro, 0, false⟩]⟩,
   ⟨0x0, 1, 4, [⟨⟨31, 1⟩, .ro, 0, false⟩, ⟨⟨30, 1⟩, .ro, 0, false⟩, ⟨⟨29, 1⟩, .ro, 0, false⟩, ⟨⟨12, 17⟩, .rsv, 0, false⟩, ⟨⟨0, 12⟩, .ro, 0, false⟩]⟩,
   ⟨0x30, 2, 4, [⟨⟨28, 4⟩, .rw, 1, false⟩, ⟨⟨24, 4⟩, .rw, 1, false⟩, ⟨⟨20, 4⟩, .rw, 1, false⟩, ⟨⟨16, 4⟩, .rw, 1, false⟩, ⟨⟨12, 4⟩, .rw, 1, false⟩, ⟨⟨8, 4⟩, .rw, 1, false⟩, ⟨⟨4, 4⟩, .rw, 1, false⟩, ⟨⟨0, 4⟩, .rw, 1, false⟩]⟩,
   ⟨0x38, 1, 4, [⟨⟨8, 24⟩, .rsv, 0, false⟩, ⟨⟨4, 4⟩, .rw, 4, false⟩, ⟨⟨0, 4⟩, .rw, 4, false⟩]⟩,
   ⟨0x100, 16, 4, [⟨⟨16, 16⟩, .rc, 0, false⟩, ⟨⟨0, 16⟩, .rc, 0, false⟩]⟩]

/-- Registers of the cirque window. -/
def regs_cirque_0 : List RegSpec :=
  [⟨0x0, 1, 4, [⟨⟨28, 4⟩, .ro, 0, false⟩, ⟨⟨26, 2⟩, .ro, 0, false⟩, ⟨⟨25, 1⟩, .ro, 0, false⟩, ⟨⟨24, 1⟩, .ro, 0, false⟩, ⟨⟨23, 1⟩, .ro, 0, false⟩, ⟨⟨22, 1⟩, .ro, 0, false⟩, ⟨⟨21, 1⟩, .w1c, 0, false⟩, ⟨⟨10, 11⟩, .rsv, 0, false⟩, ⟨⟨0, 10⟩, .ro, 0, false⟩]⟩,
   ⟨0x4, 1, 4, [⟨⟨3, 29⟩, .rsv, 0, false⟩, ⟨⟨2, 1⟩, .wo, 0, false⟩, ⟨⟨1, 1⟩, .rw, 1, false⟩, ⟨⟨0, 1⟩, .rw, 0, false⟩]⟩,
   ⟨0x8, 2, 4, [⟨⟨31, 1⟩, .ro, 0, false⟩, ⟨⟨30, 1⟩, .ro, 0, false⟩, ⟨⟨29, 1⟩, .ro, 0, false⟩, ⟨⟨28, 1⟩, .ro, 0, false⟩, ⟨⟨27, 1⟩, .ro, 0, false⟩, ⟨⟨26, 1⟩, .ro, 0, false⟩, ⟨⟨24, 2⟩, .rsv, 0, false⟩, ⟨⟨16, 8⟩, .ro, 0, false⟩, ⟨⟨8, 8⟩, .ro, 0, false⟩, ⟨⟨0, 8⟩, .rsv, 0, false⟩]⟩,
   ⟨0x10, 2, 4, [⟨⟨0, 32⟩, .ro, 0, false⟩]⟩,
   ⟨0x20, 16, 4, [⟨⟨16, 16⟩, .rsv, 0, false⟩, ⟨⟨0, 16⟩, .ro, 32768, false⟩]⟩,
   ⟨0x200, 64, 4, [⟨⟨16, 16⟩, .rsv, 0, false⟩, ⟨⟨0, 16⟩, .ro, 32768, false⟩]⟩,
   ⟨0x400, 256, 4, [⟨⟨16, 16⟩, .rsv, 0, false⟩, ⟨⟨0, 16⟩, .ro, 32768, false⟩]⟩,
   ⟨0x60, 1, 4, [⟨⟨30, 2⟩, .ro, 0, true⟩, ⟨⟨11, 19⟩, .rsv, 0, false⟩, ⟨⟨0, 11⟩, .ro, 0, true⟩]⟩,
   ⟨0x64, 1, 4, [⟨⟨27, 5⟩, .rsv, 0, true⟩, ⟨⟨16, 11⟩, .ro, 0, true⟩, ⟨⟨11, 5⟩, .rsv, 0, true⟩, ⟨⟨0, 11⟩, .ro, 2000, true⟩]⟩,
   ⟨0x68, 1, 4, [⟨⟨0, 32⟩, .ro, 0, true⟩]⟩,
   ⟨0x6c, 1, 4, [⟨⟨16, 16⟩, .rc, 0, false⟩, ⟨⟨0, 16⟩, .rc, 0, false⟩]⟩,
   ⟨0x80, 8, 4, [⟨⟨8, 24⟩, .rsv, 0, false⟩, ⟨⟨6, 2⟩, .ro, 3, false⟩, ⟨⟨4, 2⟩, .ro, 2, false⟩, ⟨⟨2, 2⟩, .ro, 1, false⟩, ⟨⟨0, 2⟩, .ro, 0, false⟩]⟩]

/-- Registers of the cirque window. -/
def regs_cirque_1 : List RegSpec :=
  [⟨0x100, 32, 4, [⟨⟨16, 16⟩, .ro, 0, false⟩, ⟨⟨0, 16⟩, .ro, 65535, false⟩]⟩,
   ⟨0x1000, 1008, 4, [⟨⟨27, 5⟩, .rsv, 0, true⟩, ⟨⟨16, 11⟩, .ro, 2000, true⟩, ⟨⟨11, 5⟩, .rsv, 0, true⟩, ⟨⟨0, 11⟩, .ro, 2000, true⟩]⟩]

/-- Registers of the cirque window. -/
def regs_cirque : List RegSpec := regs_cirque_0 ++ regs_cirque_1

/-- Registers of the port window. -/
def regs_port_0 : List RegSpec :=
  [⟨0x0, 1, 4, [⟨⟨28, 4⟩, .ro, 0, false⟩, ⟨⟨24, 4⟩, .ro, 0, false⟩, ⟨⟨16, 8⟩, .ro, 0, false⟩, ⟨⟨8, 8⟩, .ro, 0, false⟩, ⟨⟨7, 1⟩, .ro, 0, false⟩, ⟨⟨6, 1⟩, .w1c, 0, false⟩, ⟨⟨4, 2⟩, .ro, 0, false⟩, ⟨⟨0, 4⟩, .rsv, 0, false⟩]⟩,
   ⟨0x4, 1, 4, [⟨⟨27, 5⟩, .ro, 0, false⟩, ⟨⟨26, 1⟩, .ro, 0, false⟩, ⟨⟨24, 2⟩, .rsv, 0, false⟩, ⟨⟨16, 8⟩, .ro, 0, false⟩, ⟨⟨12, 4⟩, .ro, 0, false⟩, ⟨⟨8, 4⟩, .ro, 0, false⟩, ⟨⟨0, 8⟩, .rsv, 0, false⟩]⟩,
   ⟨0x8, 1, 4, [⟨⟨0, 32⟩, .ro, 0, false⟩]⟩,
   ⟨0xc, 1, 4, [⟨⟨0, 32⟩, .ro, 0, false⟩]⟩,
   ⟨0x10, 1, 4, [⟨⟨14, 18⟩, .rsv, 0, false⟩, ⟨⟨0, 14⟩, .rw, 50, false⟩]⟩,
   ⟨0x14, 1, 4, [⟨⟨0, 32⟩, .rc, 0, false⟩]⟩,
   ⟨0x18, 1, 4, [⟨⟨0, 32⟩, .rc, 0, false⟩]⟩,
   ⟨0x1c, 1, 4, [⟨⟨0, 32⟩, .rc, 0, false⟩]⟩,
   ⟨0x20, 1, 4, [⟨⟨0, 32⟩, .rc, 0, false⟩]⟩,
   ⟨0x24, 1, 4, [⟨⟨0, 32⟩, .rc, 0, false⟩]⟩,
   ⟨0x28, 1, 4, [⟨⟨0, 32⟩, .rc, 0, false⟩]⟩,
   ⟨0x2c, 1, 4, [⟨⟨0, 32⟩, .rc, 0, false⟩]⟩]

/-- Registers of the port window. -/
def regs_port_1 : List RegSpec :=
  [⟨0x30, 1, 4, [⟨⟨0, 32⟩, .ro, 0, false⟩]⟩,
   ⟨0x34, 1, 4, [⟨⟨0, 32⟩, .ro, 0, false⟩]⟩,
   ⟨0x38, 1, 4, [⟨⟨23, 9⟩, .rsv, 0, false⟩, ⟨⟨0, 23⟩, .ro, 0, false⟩]⟩,
   ⟨0x8000, 1, 4, [⟨⟨6, 26⟩, .rsv, 0, false⟩, ⟨⟨5, 1⟩, .ro, 0, false⟩, ⟨⟨4, 1⟩, .ro, 0, false⟩, ⟨⟨3, 1⟩, .ro, 0, false⟩, ⟨⟨2, 1⟩, .ro, 0, false⟩, ⟨⟨1, 1⟩, .ro, 0, false⟩, ⟨⟨0, 1⟩, .ro, 0, false⟩]⟩,
   ⟨0x8004, 1, 4, [⟨⟨16, 16⟩, .ro, 0, false⟩, ⟨⟨3, 13⟩, .rsv, 0, false⟩, ⟨⟨2, 1⟩, .w1c, 0, false⟩, ⟨⟨1, 1⟩, .w1c, 0, false⟩, ⟨⟨0, 1⟩, .w1c, 0, false⟩]⟩,
   ⟨0x8008, 1, 4, [⟨⟨0, 32⟩, .rc, 0, false⟩]⟩,
   ⟨0x800c, 1, 4, [⟨⟨0, 32⟩, .rc, 0, false⟩]⟩,
   ⟨0x8010, 1, 4, [⟨⟨0, 32⟩, .rc, 0, false⟩]⟩]

/-- Registers of the port window. -/
def regs_port : List RegSpec := regs_port_0 ++ regs_port_1

/-- Registers of the belay window. -/
def regs_belay : List RegSpec :=
  [⟨0x0, 1, 4, [⟨⟨28, 4⟩, .ro, 0, false⟩, ⟨⟨27, 1⟩, .ro, 0, false⟩, ⟨⟨26, 1⟩, .ro, 0, false⟩, ⟨⟨16, 10⟩, .rsv, 0, false⟩, ⟨⟨8, 8⟩, .ro, 0, false⟩, ⟨⟨0, 8⟩, .rsv, 0, false⟩]⟩,
   ⟨0x4, 1, 4, [⟨⟨16, 16⟩, .rw, 60, false⟩, ⟨⟨7, 9⟩, .rsv, 0, false⟩, ⟨⟨0, 7⟩, .rw, 50, false⟩]⟩,
   ⟨0x8, 1, 4, [⟨⟨0, 32⟩, .ro, 0, false⟩]⟩,
   ⟨0xc, 1, 4, [⟨⟨0, 32⟩, .ro, 0, false⟩]⟩,
   ⟨0x10, 1, 4, [⟨⟨0, 32⟩, .ro, 0, false⟩]⟩,
   ⟨0x20, 2, 8, [⟨⟨31, 1⟩, .ro, 0, false⟩, ⟨⟨30, 1⟩, .ro, 0, false⟩, ⟨⟨0, 30⟩, .rsv, 0, false⟩]⟩,
   ⟨0x24, 2, 8, [⟨⟨0, 32⟩, .ro, 0, false⟩]⟩,
   ⟨0x30, 1, 4, [⟨⟨16, 16⟩, .rc, 0, false⟩, ⟨⟨0, 16⟩, .rc, 0, false⟩]⟩,
   ⟨0x100, 64, 4, [⟨⟨31, 1⟩, .ro, 0, false⟩, ⟨⟨7, 24⟩, .rsv, 0, false⟩, ⟨⟨0, 7⟩, .ro, 0, false⟩]⟩]

/-- Registers of the treeline window. -/
def regs_treeline_0 : List RegSpec :=
  [⟨0x0, 1, 4, [⟨⟨31, 1⟩, .ro, 0, false⟩, ⟨⟨30, 1⟩, .ro, 0, false⟩, ⟨⟨29, 1⟩, .ro, 0, false⟩, ⟨⟨28, 1⟩, .ro, 0, false⟩, ⟨⟨27, 1⟩, .w1c, 0, false⟩, ⟨⟨8, 19⟩, .rsv, 0, false⟩, ⟨⟨0, 8⟩, .ro, 0, false⟩]⟩,
   ⟨0x4, 1, 4, [⟨⟨16, 16⟩, .ro, 3200, false⟩, ⟨⟨0, 16⟩, .ro, 3200, false⟩]⟩,
   ⟨0x8, 1, 4, [⟨⟨16, 16⟩, .ro, 0, false⟩, ⟨⟨0, 16⟩, .ro, 0, false⟩]⟩,
   ⟨0xc, 1, 4, [⟨⟨16, 16⟩, .ro, 0, false⟩, ⟨⟨0, 16⟩, .ro, 0, false⟩]⟩,
   ⟨0x10, 1, 4, [⟨⟨16, 16⟩, .ro, 0, false⟩, ⟨⟨0, 16⟩, .ro, 0, false⟩]⟩,
   ⟨0x14, 1, 4, [⟨⟨24, 8⟩, .rw, 95, false⟩, ⟨⟨16, 8⟩, .rw, 105, false⟩, ⟨⟨8, 8⟩, .rw, 15, false⟩, ⟨⟨1, 7⟩, .rsv, 0, false⟩, ⟨⟨0, 1⟩, .rw, 1, false⟩]⟩,
   ⟨0x18, 1, 4, [⟨⟨16, 16⟩, .ro, 0, false⟩, ⟨⟨0, 16⟩, .ro, 0, false⟩]⟩,
   ⟨0x1c, 1, 4, [⟨⟨28, 4⟩, .rsv, 0, false⟩, ⟨⟨16, 12⟩, .rw, 100, false⟩, ⟨⟨0, 16⟩, .rw, 1000, false⟩]⟩,
   ⟨0x20, 1, 4, [⟨⟨16, 16⟩, .rc, 0, false⟩, ⟨⟨8, 8⟩, .rc, 0, false⟩, ⟨⟨0, 8⟩, .rc, 0, false⟩]⟩,
   ⟨0x100, 39, 4, [⟨⟨16, 16⟩, .ro, 0, false⟩, ⟨⟨12, 4⟩, .ro, 0, false⟩, ⟨⟨11, 1⟩, .rsv, 0, false⟩, ⟨⟨0, 11⟩, .ro, 0, false⟩]⟩,
   ⟨0x200, 16, 4, [⟨⟨16, 16⟩, .ro, 0, false⟩, ⟨⟨0, 16⟩, .ro, 0, false⟩]⟩,
   ⟨0x300, 1, 4, [⟨⟨29, 3⟩, .rsv, 0, false⟩, ⟨⟨16, 13⟩, .ro, 0, false⟩, ⟨⟨12, 4⟩, .rsv, 0, false⟩, ⟨⟨0, 12⟩, .ro, 400, false⟩]⟩]

/-- Registers of the treeline window. -/
def regs_treeline_1 : List RegSpec :=
  [⟨0x304, 1, 4, [⟨⟨29, 3⟩, .rsv, 0, false⟩, ⟨⟨16, 13⟩, .ro, 0, false⟩, ⟨⟨12, 4⟩, .rsv, 0, false⟩, ⟨⟨0, 12⟩, .ro, 550, false⟩]⟩,
   ⟨0x308, 1, 4, [⟨⟨29, 3⟩, .rsv, 0, false⟩, ⟨⟨16, 13⟩, .ro, 0, false⟩, ⟨⟨12, 4⟩, .rsv, 0, false⟩, ⟨⟨0, 12⟩, .ro, 1100, false⟩]⟩,
   ⟨0x30c, 1, 4, [⟨⟨29, 3⟩, .rsv, 0, false⟩, ⟨⟨16, 13⟩, .ro, 0, false⟩, ⟨⟨12, 4⟩, .rsv, 0, false⟩, ⟨⟨0, 12⟩, .ro, 1200, false⟩]⟩,
   ⟨0x310, 1, 4, [⟨⟨29, 3⟩, .rsv, 0, false⟩, ⟨⟨16, 13⟩, .ro, 0, false⟩, ⟨⟨12, 4⟩, .rsv, 0, false⟩, ⟨⟨0, 12⟩, .ro, 1300, false⟩]⟩,
   ⟨0x314, 1, 4, [⟨⟨29, 3⟩, .rsv, 0, false⟩, ⟨⟨16, 13⟩, .ro, 0, false⟩, ⟨⟨12, 4⟩, .rsv, 0, false⟩, ⟨⟨0, 12⟩, .ro, 950, false⟩]⟩,
   ⟨0x318, 1, 4, [⟨⟨29, 3⟩, .rsv, 0, false⟩, ⟨⟨16, 13⟩, .ro, 0, false⟩, ⟨⟨12, 4⟩, .rsv, 0, false⟩, ⟨⟨0, 12⟩, .ro, 700, false⟩]⟩,
   ⟨0x31c, 1, 4, [⟨⟨29, 3⟩, .rsv, 0, false⟩, ⟨⟨16, 13⟩, .ro, 0, false⟩, ⟨⟨12, 4⟩, .rsv, 0, false⟩, ⟨⟨0, 12⟩, .ro, 1400, false⟩]⟩]

/-- Registers of the treeline window. -/
def regs_treeline : List RegSpec := regs_treeline_0 ++ regs_treeline_1

/-- Registers of the cairn window. -/
def regs_cairn_0 : List RegSpec :=
  [⟨0x0, 1, 4, [⟨⟨30, 2⟩, .ro, 0, false⟩, ⟨⟨29, 1⟩, .ro, 0, false⟩, ⟨⟨28, 1⟩, .ro, 0, false⟩, ⟨⟨27, 1⟩, .ro, 0, false⟩, ⟨⟨26, 1⟩, .ro, 0, false⟩, ⟨⟨25, 1⟩, .ro, 0, false⟩, ⟨⟨24, 1⟩, .ro, 0, false⟩, ⟨⟨23, 1⟩, .ro, 0, false⟩, ⟨⟨16, 7⟩, .rsv, 0, false⟩, ⟨⟨0, 16⟩, .ro, 0, false⟩]⟩,
   ⟨0x4, 1, 4, [⟨⟨16, 16⟩, .rsv, 0, false⟩, ⟨⟨8, 8⟩, .ro, 96, true⟩, ⟨⟨0, 8⟩, .wl, 0, true⟩]⟩,
   ⟨0x8, 1, 4, [⟨⟨14, 18⟩, .rsv, 0, false⟩, ⟨⟨8, 6⟩, .ro, 32, true⟩, ⟨⟨6, 2⟩, .rsv, 0, false⟩, ⟨⟨0, 6⟩, .ro, 0, true⟩]⟩,
   ⟨0xc, 1, 4, [⟨⟨2, 30⟩, .rsv, 0, false⟩, ⟨⟨1, 1⟩, .ro, 1, true⟩, ⟨⟨0, 1⟩, .wl, 0, true⟩]⟩,
   ⟨0x10, 1, 4, [⟨⟨9, 23⟩, .rsv, 0, false⟩, ⟨⟨1, 8⟩, .lk, 60, false⟩, ⟨⟨0, 1⟩, .lk, 1, false⟩]⟩,
   ⟨0x14, 1, 4, [⟨⟨0, 32⟩, .rc, 0, false⟩]⟩,
   ⟨0x40, 16, 4, [⟨⟨0, 32⟩, .ro, 0, true⟩]⟩,
   ⟨0x100, 16, 4, [⟨⟨31, 1⟩, .ro, 0, false⟩, ⟨⟨30, 1⟩, .ro, 0, false⟩, ⟨⟨24, 6⟩, .rsv, 0, false⟩, ⟨⟨20, 4⟩, .ro, 0, false⟩, ⟨⟨16, 4⟩, .rsv, 0, false⟩, ⟨⟨0, 16⟩, .ro, 0, false⟩]⟩,
   ⟨0x180, 32, 4, [⟨⟨30, 2⟩, .ro, 0, false⟩, ⟨⟨24, 6⟩, .rsv, 0, false⟩, ⟨⟨0, 24⟩, .ro, 0, false⟩]⟩,
   ⟨0x200, 1, 4, [⟨⟨31, 1⟩, .rw, 0, false⟩, ⟨⟨16, 15⟩, .rsv, 0, false⟩, ⟨⟨0, 16⟩, .rw, 0, false⟩]⟩,
   ⟨0x204, 1, 4, [⟨⟨16, 16⟩, .ro, 0, true⟩, ⟨⟨0, 16⟩, .ro, 0, true⟩]⟩,
   ⟨0x210, 8, 4, [⟨⟨0, 32⟩, .ro, 0, false⟩]⟩]

/-- Registers of the cairn window. -/
def regs_cairn_1 : List RegSpec :=
  [⟨0x300, 1, 4, [⟨⟨28, 4⟩, .ro, 0, false⟩, ⟨⟨27, 1⟩, .ro, 0, false⟩, ⟨⟨24, 3⟩, .ro, 0, false⟩, ⟨⟨20, 4⟩, .ro, 0, false⟩, ⟨⟨19, 1⟩, .ro, 0, false⟩, ⟨⟨18, 1⟩, .ro, 0, false⟩, ⟨⟨17, 1⟩, .ro, 0, false⟩, ⟨⟨0, 17⟩, .rsv, 0, false⟩]⟩,
   ⟨0x304, 1, 4, [⟨⟨28, 4⟩, .ro, 0, false⟩, ⟨⟨24, 4⟩, .ro, 0, false⟩, ⟨⟨16, 8⟩, .ro, 0, false⟩, ⟨⟨0, 16⟩, .rc, 0, false⟩]⟩,
   ⟨0x310, 5, 4, [⟨⟨0, 32⟩, .ro, 0, false⟩]⟩,
   ⟨0x800, 1, 4, [⟨⟨0, 32⟩, .ro, Config.serial.toNat % 2 ^ 32, true⟩]⟩,
   ⟨0x804, 1, 4, [⟨⟨0, 32⟩, .ro, Config.serial.toNat / 2 ^ 32, true⟩]⟩,
   ⟨0x808, 1, 4, [⟨⟨16, 16⟩, .ro, 17936, false⟩, ⟨⟨8, 8⟩, .ro, 66, true⟩, ⟨⟨0, 8⟩, .ro, 0, true⟩]⟩,
   ⟨0x80c, 1, 4, [⟨⟨24, 8⟩, .ro, 0, false⟩, ⟨⟨16, 8⟩, .ro, 0, false⟩, ⟨⟨0, 16⟩, .ro, 0, false⟩]⟩,
   ⟨0x810, 1, 4, [⟨⟨24, 8⟩, .ro, 3, true⟩, ⟨⟨16, 8⟩, .ro, 1, true⟩, ⟨⟨8, 8⟩, .ro, 0, false⟩, ⟨⟨4, 4⟩, .ro, 7, true⟩, ⟨⟨0, 4⟩, .ro, 5, true⟩]⟩,
   ⟨0x814, 1, 4, [⟨⟨12, 20⟩, .rsv, 0, false⟩, ⟨⟨0, 12⟩, .w1c, 0, false⟩]⟩,
   ⟨0x818, 1, 4, [⟨⟨12, 20⟩, .rsv, 0, false⟩, ⟨⟨0, 12⟩, .rw, 0, false⟩]⟩,
   ⟨0x81c, 1, 4, [⟨⟨0, 32⟩, .rw, 0, false⟩]⟩]

/-- Registers of the cairn window. -/
def regs_cairn : List RegSpec := regs_cairn_0 ++ regs_cairn_1

/-- Registers of the swite window. -/
def regs_swite_0 : List RegSpec :=
  [⟨0x0, 1, 4, [⟨⟨28, 4⟩, .ro, 0, false⟩, ⟨⟨12, 16⟩, .ro, 0, false⟩, ⟨⟨11, 1⟩, .ro, 0, false⟩, ⟨⟨10, 1⟩, .ro, 0, false⟩, ⟨⟨0, 10⟩, .rsv, 0, false⟩]⟩,
   ⟨0x4, 1, 4, [⟨⟨0, 32⟩, .lk, 1000, false⟩]⟩,
   ⟨0x8, 1, 4, [⟨⟨6, 26⟩, .rsv, 0, false⟩, ⟨⟨0, 6⟩, .rw, 63, false⟩]⟩,
   ⟨0xc, 1, 4, [⟨⟨16, 16⟩, .rsv, 0, false⟩, ⟨⟨0, 16⟩, .ro, 0, false⟩]⟩,
   ⟨0x10, 8, 4, [⟨⟨8, 24⟩, .rsv, 0, false⟩, ⟨⟨0, 8⟩, .lk, 0, false⟩]⟩,
   ⟨0x40, 1, 4, [⟨⟨0, 32⟩, .rc, 0, false⟩]⟩,
   ⟨0x44, 1, 4, [⟨⟨0, 32⟩, .rc, 0, false⟩]⟩,
   ⟨0x48, 1, 4, [⟨⟨0, 32⟩, .rc, 0, false⟩]⟩,
   ⟨0x4c, 1, 4, [⟨⟨0, 32⟩, .rc, 0, false⟩]⟩,
   ⟨0x50, 1, 4, [⟨⟨0, 32⟩, .rc, 0, false⟩]⟩,
   ⟨0x54, 1, 4, [⟨⟨0, 32⟩, .rc, 0, false⟩]⟩,
   ⟨0x58, 1, 4, [⟨⟨0, 32⟩, .rc, 0, false⟩]⟩]

/-- Registers of the swite window. -/
def regs_swite_1 : List RegSpec :=
  [⟨0x5c, 1, 4, [⟨⟨0, 32⟩, .rc, 0, false⟩]⟩]

/-- Registers of the swite window. -/
def regs_swite : List RegSpec := regs_swite_0 ++ regs_swite_1

/-- Registers of the survey window. -/
def regs_survey : List RegSpec :=
  [⟨0x0, 1, 4, [⟨⟨30, 2⟩, .ro, 0, false⟩, ⟨⟨25, 5⟩, .rsv, 0, false⟩, ⟨⟨16, 9⟩, .ro, 0, false⟩, ⟨⟨0, 16⟩, .ro, 0, false⟩]⟩,
   ⟨0x4, 1, 4, [⟨⟨0, 32⟩, .ro, 0, false⟩]⟩,
   ⟨0x8, 1, 4, [⟨⟨0, 32⟩, .ro, 0, false⟩]⟩,
   ⟨0x10, 1, 4, [⟨⟨0, 32⟩, .ro, Config.freeValue 0 % 2 ^ 32, false⟩]⟩,
   ⟨0x100, 16, 8, [⟨⟨16, 16⟩, .ro, 0, false⟩, ⟨⟨0, 16⟩, .ro, 0, false⟩]⟩,
   ⟨0x104, 16, 8, [⟨⟨31, 1⟩, .ro, 0, false⟩, ⟨⟨30, 1⟩, .ro, 0, false⟩, ⟨⟨16, 14⟩, .rsv, 0, false⟩, ⟨⟨0, 16⟩, .ro, 0, false⟩]⟩]

/-- The registers of a block. -/
def Block.regs : Block → List RegSpec
  | .cairn => regs_cairn
  | .traverse => regs_traverse
  | .treeline => regs_treeline
  | .survey => regs_survey
  | .range => regs_range
  | .foothill => regs_foothill
  | .ledge => regs_ledge
  | .cirque => regs_cirque
  | .port => regs_port
  | .belay => regs_belay
  | .swite => regs_swite

/-- The window that an address lies in: the block, the instance and the offset (R647); none outside every window. -/
def windowOf (a : Nat) : Option (Block × Nat × Nat) :=
  if a < 0x00010000 then some (.cairn, 0, a)
  else if 0x00100000 ≤ a && a < 0x00110000 then some (.traverse, 0, a - 0x00100000)
  else if 0x00200000 ≤ a && a < 0x00210000 then some (.treeline, 0, a - 0x00200000)
  else if 0x00300000 ≤ a && a < 0x00310000 then some (.survey, 0, a - 0x00300000)
  else if 0x01000000 ≤ a && a < 0x02000000 then
    if a % 0x00100000 < 0x00020000 then some (.range, (a - 0x01000000) / 0x00100000, a % 0x00100000) else none
  else if 0x02000000 ≤ a && a < 0x02c00000 then
    if a % 0x00100000 < 0x00010000 then some (.foothill, (a - 0x02000000) / 0x00100000, a % 0x00100000) else none
  else if 0x03000000 ≤ a && a < 0x03010000 then some (.ledge, 0, a - 0x03000000)
  else if 0x04000000 ≤ a && a < 0x04010000 then some (.cirque, 0, a - 0x04000000)
  else if 0x05000000 ≤ a && a < 0x05200000 then some (.port, (a - 0x05000000) / 0x00010000, a % 0x00010000)
  else if 0x06000000 ≤ a && a < 0x06010000 then some (.belay, 0, a - 0x06000000)
  else if 0x07000000 ≤ a && a < 0x07010000 then some (.swite, 0, a - 0x07000000)
  else none

/-- Whether an offset names this register. -/
def RegSpec.covers (r : RegSpec) (off : Nat) : Bool :=
  decide (r.off ≤ off) && decide ((off - r.off) % r.stride = 0) && decide ((off - r.off) / r.stride < r.count)

/-- The first register of a list that an offset names. -/
def regFind (off : Nat) : List RegSpec → Option RegSpec
  | [] => none
  | r :: t => if r.covers off then some r else regFind off t

/-- The register at an address; none where no chapter assigns one (R649) or outside every window. -/
def regAt (a : Nat) : Option RegSpec :=
  match windowOf a with
  | none => none
  | some (b, _, off) => regFind off b.regs

/-- The reset value that a list of fields gives. -/
def fieldsReset : List FieldSpec → Nat
  | [] => 0
  | f :: t => f.reset % 2 ^ f.fld.width * 2 ^ f.fld.lo + fieldsReset t

/-- What control space holds at an address after reset: the register's reset value; 0 where no register lies. -/
def regReset (a : Nat) : Word :=
  match regAt a with
  | none => 0
  | some r => BitVec.ofNat 32 (fieldsReset r.fields)

end Sys2Proof.Machine
end

