-- ==== Sys2Proof/Machine/SpurMath.lean ====
section
/-!
DEFINITION. The arithmetic of Spur (06_spur_vector): kernel words and their checks, the kernel operations, reductions
and permutations, as pure functions of tiles and registers.
-/

namespace Sys2Proof.Machine

/-- The arithmetic classes of a kernel entry (R184). -/
inductive KClass where
  | fp32 | bf16 | fp16 | fp64 | int32
  deriving DecidableEq, Repr

def KClass.ofCode : Nat → Option KClass
  | 0 => some .fp32 | 1 => some .bf16 | 2 => some .fp16 | 3 => some .fp64 | 4 => some .int32 | _ => none

/-- The format of V0 to V15 in a class (R184). -/
def KClass.fmt : KClass → Fmt
  | .fp32 => .fp32 | .bf16 => .bf16 | .fp16 => .fp16 | .fp64 => .fp64 | .int32 => .int32

def KClass.code : KClass → Nat
  | .fp32 => 0 | .bf16 => 1 | .fp16 => 2 | .fp64 => 3 | .int32 => 4

/-- The input tags a class accepts (R184). -/
def KClass.accepts : KClass → Fmt → Bool
  | .fp32, .fp32 | .fp32, .bf16 | .fp32, .fp16 => true
  | .bf16, .bf16 => true
  | .fp16, .fp16 => true
  | .fp64, .fp64 | .fp64, .fp32 | .fp64, .bf16 | .fp64, .fp16 => true
  | .int32, .int32 => true
  | _, _ => false

/-- The output formats legal for a class (R184). -/
def KClass.outOk : KClass → Fmt → Bool
  | .fp32, .fp32 | .fp32, .bf16 | .fp32, .fp16 => true
  | .bf16, .bf16 | .bf16, .fp32 => true
  | .fp16, .fp16 | .fp16, .fp32 => true
  | .fp64, .fp64 | .fp64, .fp32 => true
  | .int32, .int32 | .int32, .fp32 => true
  | _, _ => false

/-- A kernel entry (R210). -/
structure KEntry where
  start : Nat
  length : Nat
  fmtOut : Nat
  cls : Nat
  in1Mode : Nat
  normEn : Bool
  normClr : Bool
  deriving DecidableEq, Repr

def KEntry.ofWord (x : Nat) : KEntry :=
  { start := bitsOf x 20 12, length := bitsOf x 12 8, fmtOut := bitsOf x 8 4, cls := bitsOf x 5 3,
    in1Mode := bitsOf x 3 2, normEn := bitOf x 2, normClr := bitOf x 1 }

/-- A kernel word (R185). -/
structure KWord where
  kop : Nat
  dst : Nat
  sa : Nat
  sb : Nat
  sc : Nat
  rsv : Nat
  imm : Nat
  deriving DecidableEq, Repr

def KWord.ofWord (x : Nat) : KWord :=
  { kop := bitsOf x 56 8, dst := bitsOf x 52 4, sa := bitsOf x 46 6, sb := bitsOf x 40 6, sc := bitsOf x 34 6,
    rsv := bitsOf x 32 2, imm := bitsOf x 0 32 }

/-- How many operands an operation reads (R187); 0 where the code names none. -/
def kopReads (k : Nat) : Nat :=
  match k with
  | 0x01 | 0x02 | 0x03 | 0x06 | 0x07 | 0x0B | 0x0C | 0x10 => 2
  | 0x04 | 0x05 | 0x0A | 0x0D => 3
  | 0x08 | 0x09 | 0x0E => 1
  | 0x11 | 0x12 | 0x13 | 0x14 | 0x15 | 0x16 | 0x17 | 0x18 | 0x19 | 0x1A | 0x1B | 0x1C => 1
  | 0x20 | 0x21 | 0x22 | 0x23 | 0x24 | 0x25 => 2
  | _ => 0

/-- Whether an operation appears in R187 for a class. -/
def kopClassOk (k : Nat) (c : KClass) : Bool :=
  if (1 ≤ k ∧ k ≤ 0x0E) then true
  else if (0x10 ≤ k ∧ k ≤ 0x13) || (0x1A ≤ k ∧ k ≤ 0x1C) then decide (c ≠ .int32)
  else if 0x14 ≤ k ∧ k ≤ 0x19 then decide (c = .fp32) || decide (c = .bf16) || decide (c = .fp16)
  else if 0x20 ≤ k ∧ k ≤ 0x25 then decide (c = .int32)
  else false

/-- The cost of an operation (R187). -/
def kopCost (k : Nat) : Nat := if 0x10 ≤ k ∧ k ≤ 0x19 then 4 else 1

/-- Operand selectors that R186 defines. -/
def selDefined (x : Nat) : Bool := decide (x ≤ 0x16) || decide (0x20 ≤ x)

/-- R188: whether a kernel word is legal for a class and the instruction's inputs. -/
def KWord.ok (w : KWord) (c : KClass) (hasI0 hasI1 : Bool) : Bool :=
  let n := kopReads w.kop
  let read := (if 1 ≤ n then [w.sa] else []) ++ (if 2 ≤ n then [w.sb] else []) ++ (if 3 ≤ n then [w.sc] else [])
  let idle := (if 1 ≤ n then [] else [w.sa]) ++ (if 2 ≤ n then [] else [w.sb]) ++ (if 3 ≤ n then [] else [w.sc])
  kopClassOk w.kop c && decide (1 ≤ n) && read.all selDefined && idle.all (fun x => decide (x = 0)) &&
  (read.contains 0x14 || decide (w.imm = 0)) && decide (w.rsv = 0) &&
  (hasI0 || !read.contains 0x10) && (hasI1 || !read.contains 0x11) &&
  (decide (c = .fp32) || decide (c = .fp64) || !read.contains 0x16)

/-- What the words of one position can read besides V0 to V15: the inputs and the norm accumulator as codes of the
class's format, the coordinates, and the 32 constants. -/
structure KEnv where
  i0 : Nat
  i1 : Nat
  row : Nat
  col : Nat
  nacc : Nat
  consts : List Nat
  deriving DecidableEq, Repr

/-- A constant as a class reads it (R186). -/
def kconst (c : KClass) (k : Nat) : Nat :=
  match c with
  | .fp32 | .int32 => k % 2 ^ 32
  | .bf16 | .fp16 => k % 2 ^ 16
  | .fp64 => k % 2 ^ 64

/-- The operand a selector names, as a code of the class's format (R186). -/
def kOperand (c : KClass) (v : List Nat) (env : KEnv) (imm sel : Nat) : Nat :=
  if sel ≤ 0x0F then v.getD sel 0
  else if sel = 0x10 then env.i0
  else if sel = 0x11 then env.i1
  else if sel = 0x12 then (match c with | .int32 => env.row | _ => c.fmt.round (Num.ofInt env.row))
  else if sel = 0x13 then (match c with | .int32 => env.col | _ => c.fmt.round (Num.ofInt env.col))
  else if sel = 0x14 then (match c with | .int32 => imm | _ => c.fmt.round (Fmt.fp32.decode imm))
  else if sel = 0x15 then 0
  else if sel = 0x16 then env.nacc
  else kconst c (env.consts.getD (sel - 0x20) 0)

/-- The neighbours that R189 allows for `RCP` and `RSQRT`: the choice among them is free. -/
def pickUlp (op : Nat) (c : KClass) (code : Nat) (x : Num) : Nat :=
  match x with
  | .fin s m e =>
    if m = 0 then c.fmt.round x
    else
      let f := c.fmt.fp
      let lo := magCode f m e (.stochastic 0)
      let exact := magExact f m e
      let k := Config.kernelPick op c.code code
      let mag := if exact then (if lo = 0 then k % 2 else lo - 1 + k % 3) else lo + k % 2
      f.signBit s + (if mag ≤ f.maxMag then mag else f.maxMag + 1)
  | y => c.fmt.round y

/-- The operations given only to within units in the last place: special operands as IEEE 754-2019 gives, a free code
for the others (R189). (DEDUCED, log entry 38.) -/
def kApprox (op : Nat) (c : KClass) (code : Nat) (x : Num) : Nat :=
  let r := c.fmt.round
  let free := Config.kernelFn op c.code code % 2 ^ c.fmt.width
  match op with
  | 0x14 | 0x16 => match x with
    | .nan => r .nan
    | .inf s => r (if s then Num.zero else .inf false)
    | .fin _ m _ => if m = 0 then r Num.one else free
  | 0x15 => match x with
    | .nan => r .nan
    | .inf s => r (if s then .nan else .inf false)
    | .fin s m _ => if m = 0 then r (.inf true) else if s then r .nan else if Num.eq x Num.one then r Num.zero else free
  | 0x17 | 0x19 => match x with
    | .nan => r .nan
    | .inf s => r (if s then Num.one.neg else Num.one)
    | .fin s m _ => if m = 0 then r (.fin s 0 0) else free
  | 0x18 => match x with
    | .nan => r .nan
    | .inf s => r (if s then Num.zero else Num.one)
    | .fin _ m _ => if m = 0 then r (.fin false 1 (-1)) else free
  | _ => free

/-- The class that an operation is computed in: BF16 and FP16 compute as FP32 and round once (R189). -/
def KClass.wide : KClass → KClass
  | .bf16 | .fp16 => .fp32
  | c => c

/-- A floating-point kernel operation on codes of the class's format (R187, R189). -/
def kFloat (op : Nat) (c : KClass) (a b d : Nat) : Nat :=
  let x := c.fmt.decode a
  let y := c.fmt.decode b
  let z := c.fmt.decode d
  let r := c.fmt.round
  let w := c.wide
  let wr (k : Nat) : Nat := r (w.fmt.decode k)
  let wa := w.fmt.round x
  let two (v : Num) : Nat := wr (w.fmt.round v)
  match op with
  | 0x01 => two (x.add y)
  | 0x02 => two (x.sub y)
  | 0x03 => two (x.mul y)
  | 0x04 => two ((x.mul y).add z)
  | 0x05 => two ((x.mul y).sub z)
  | 0x06 => r (Num.max x y)
  | 0x07 => r (Num.min x y)
  | 0x08 => r x.abs
  | 0x09 => r x.neg
  | 0x0A => r (if Num.lt Num.zero x then y else z)
  | 0x0B => r (if Num.lt y x then Num.one else Num.zero)
  | 0x0C => r (if Num.eq x y then Num.one else Num.zero)
  | 0x0D => r (if x.isNan || y.isNan || z.isNan then .nan else Num.min (Num.max x y) z)
  | 0x0E => r x
  | 0x10 => two (x.div y)
  | 0x11 => two x.sqrt
  | 0x12 => wr (pickUlp op w wa (Num.one.div x.sqrt))
  | 0x13 => wr (pickUlp op w wa (Num.one.div x))
  | 0x14 | 0x15 | 0x16 | 0x17 | 0x18 | 0x19 => wr (kApprox op w wa x)
  | 0x1A => r x.floor
  | 0x1B => r x.ceil
  | 0x1C => r x.rint
  | _ => 0

/-- An INT32 kernel operation on 32-bit codes (R187, R189). -/
def kInt (op a b d : Nat) : Nat :=
  let x := signedOf a 32
  let y := signedOf b 32
  let z := signedOf d 32
  let w (v : Int) : Nat := wrapNat v 32
  match op with
  | 0x01 => w (x + y)
  | 0x02 => w (x - y)
  | 0x03 => w (x * y)
  | 0x04 => w (x * y + z)
  | 0x05 => w (x * y - z)
  | 0x06 => w (max x y)
  | 0x07 => w (min x y)
  | 0x08 => w (if x < 0 then -x else x)
  | 0x09 => w (-x)
  | 0x0A => w (if 0 < x then y else z)
  | 0x0B => if y < x then 1 else 0
  | 0x0C => if x = y then 1 else 0
  | 0x0D => w (min (max x y) z)
  | 0x0E => w x
  | 0x20 => a &&& b
  | 0x21 => a ||| b
  | 0x22 => a ^^^ b
  | 0x23 => (a <<< (b % 32)) % 2 ^ 32
  | 0x24 => w (x / 2 ^ (b % 32))
  | 0x25 => a >>> (b % 32)
  | _ => 0

/-- One kernel word at one position: the new registers, and whether a NaN was made from operands none of which is NaN
(R189). -/
def kStep (c : KClass) (env : KEnv) (st : List Nat × Bool) (w : KWord) : List Nat × Bool :=
  let a := kOperand c st.1 env w.imm w.sa
  let b := kOperand c st.1 env w.imm w.sb
  let d := kOperand c st.1 env w.imm w.sc
  match c with
  | .int32 => (st.1.set w.dst (kInt w.kop a b d), st.2)
  | _ =>
    let r := kFloat w.kop c a b d
    let n := kopReads w.kop
    let nanIn := (c.fmt.decode a).isNan || (decide (2 ≤ n) && (c.fmt.decode b).isNan) ||
      (decide (3 ≤ n) && (c.fmt.decode d).isNan)
    (st.1.set w.dst r, st.2 || ((c.fmt.decode r).isNan && !nanIn))

/-- A kernel at one position (R183): V0 as a code of the class's format, and whether a NaN was made. -/
def kRun (c : KClass) (ws : List KWord) (env : KEnv) : Nat × Bool :=
  let r := ws.foldl (kStep c env) (List.replicate 16 0, false)
  (r.1.getD 0 0, r.2)

/-- The position that `IN1_MODE` selects (R183). -/
def in1Pos (mode i j : Nat) : Nat × Nat :=
  match mode with
  | 0 => (i, j) | 1 => (i, 0) | 2 => (0, j) | _ => (0, 0)

/-- What a kernel repeat yields: the output tile, the conversion flags, and whether a NaN was made. -/
structure KOut where
  tile : Tile
  flags : Nat
  nanMade : Bool
  deriving DecidableEq, Repr

/-- An input element as a code of the class's format (R183: converted exactly). -/
def kInput (c : KClass) (t : Option Tile) (i j : Nat) : Nat :=
  match t with
  | none => 0
  | some t => (match c with | .int32 => t.code i j | _ => c.fmt.round (t.val i j))

/-- One repeat of a SPUR.KERNEL (R183): every position of the tile. -/
def kernelTile (e : KEntry) (c : KClass) (out : Fmt) (ws : List KWord) (consts : List Nat) (nacc : Nat)
    (t0 t1 : Option Tile) : KOut :=
  let cells := (positions 128 128).map (fun p =>
    let q := in1Pos e.in1Mode p.1 p.2
    let r := kRun c ws ⟨kInput c t0 p.1 p.2, kInput c t1 q.1 q.2, p.1, p.2, nacc, consts⟩
    let o := if c.fmt = out then (r.1, 0) else narrow out .nearest (c.fmt.decode r.1)
    (128 * p.1 + p.2, o, r.2))
  { tile := { fmt := out, block := 0, axis := 0, scales := [],
              elems := (cells.map (fun x => (x.1, x.2.1.1))).filter (fun e => decide (e.2 ≠ 0)) },
    flags := cells.foldl (fun f x => f ||| x.2.1.2) 0,
    nanMade := cells.any (fun x => x.2.2) }

/-- The norm contribution of an output tile, each element's square added in FP64 in ascending position order (R193). (DEDUCED, log entry 37.) -/
def normAdd (acc : Nat) (t : Tile) : Nat :=
  (positions 128 128).foldl
    (fun a p => let v := t.val p.1 p.2; Fmt.fp64.round ((Fmt.fp64.decode a).add (v.mul v))) acc

/-- The tags Spur reads: FP64, FP32, BF16, FP16 and INT32, without scales (R135, R203). -/
def spurAccepts (t : Tile) : Bool :=
  !t.scaled && (decide (t.fmt = .fp64) || decide (t.fmt = .fp32) || decide (t.fmt = .bf16) ||
    decide (t.fmt = .fp16) || decide (t.fmt = .int32))

/-- The accumulation type of a reduction (R142). -/
def redAcc : Fmt → Fmt
  | .fp64 => .fp64
  | .int32 => .int32
  | _ => .fp32

/-- The `FMT_OUT` values legal for an accumulation type (R198). -/
def redOutOk : Fmt → Fmt → Bool
  | .fp32, .fp32 | .fp32, .bf16 | .fp32, .fp16 | .fp32, .fp64 => true
  | .fp64, .fp64 | .fp64, .fp32 => true
  | .int32, .int32 | .int32, .fp32 => true
  | _, _ => false

/-- A partial of a reduction's tree: its exact or rounded value, and the flags it has set. -/
structure Part where
  v : Num
  flags : Nat
  deriving DecidableEq, Repr

/-- One node of a reduction's tree in the accumulation type (R142, R197). -/
def redNode (op : Nat) (acc : Fmt) (x y : Part) : Part :=
  let fl := x.flags ||| y.flags
  match op with
  | 1 | 4 => ⟨Num.max x.v y.v, fl⟩
  | 2 => ⟨Num.min x.v y.v, fl⟩
  | _ =>
    if acc = .int32 then
      let s := x.v.add y.v
      let v : Int := match s with | .fin g m e => roundInt g m e .nearest | _ => 0
      let w := signedOf (wrapNat v 32) 32
      ⟨Num.ofInt w, if w = v then fl else fl ||| flagAccWrap⟩
    else ⟨acc.decode (acc.round (x.v.add y.v)), fl⟩

/-- A leaf of a reduction (R197): squared for `OP` 0b011, magnitude for 0b100. -/
def redLeaf (op : Nat) (acc : Fmt) (v : Num) : Part :=
  match op with
  | 3 =>
    if acc = .int32 then
      let s := v.mul v
      let x : Int := match s with | .fin g m e => roundInt g m e .nearest | _ => 0
      let w := signedOf (wrapNat x 32) 32
      ⟨Num.ofInt w, if w = x then 0 else flagAccWrap⟩
    else ⟨v.mul v, 0⟩
  | 4 =>
    if acc = .int32 ∧ Num.eq v.abs (Num.ofInt 2147483648) then ⟨Num.ofInt 2147483647, flagIntSat⟩ else ⟨v.abs, 0⟩
  | _ => ⟨v, 0⟩

/-- The tree of R197 over a run of values: empty leaves pass the other child unchanged; a lone square is rounded once. -/
def redTree (op : Nat) (acc : Fmt) (l : List Part) : Part :=
  let r := treeOf (redNode op acc) ⟨Num.zero, 0⟩ 7 l
  if acc = .int32 then r else ⟨acc.decode (acc.round r.v), r.flags⟩

/-- The result positions of a reduction with their partials, in the accumulation type (R196). -/
def reduceParts (t : Tile) (axis op vlen0 vlen1 : Nat) : List (Nat × Nat × Part) :=
  let acc := redAcc t.fmt
  let row (i : Nat) := redTree op acc ((List.range vlen0).map (fun j => redLeaf op acc (t.val i j)))
  let col (j : Nat) := redTree op acc ((List.range vlen1).map (fun i => redLeaf op acc (t.val i j)))
  match axis with
  | 0 => (List.range vlen1).map (fun i => (i, 0, row i))
  | 1 => (List.range vlen0).map (fun j => (0, j, col j))
  | _ => [(0, 0, redTree (if op = 3 then 0 else op) acc ((List.range vlen1).map row))]

/-- One repeat of a SPUR.REDUCE (R196 to R198): the output tile and the flags; `old` is the destination's tile where
`ACC` is 1. -/
def reduceTile (t : Tile) (axis op vlen0 vlen1 : Nat) (out : Fmt) (old : Option Tile) : Tile × Nat :=
  let comb (x y : Num) : Num := match op with
    | 1 | 4 => Num.max x y | 2 => Num.min x y | _ => x.add y
  let parts := reduceParts t axis op vlen0 vlen1
  match old with
  | none =>
    let cells := parts.map (fun p => (128 * p.1 + p.2.1, narrow out .nearest p.2.2.v, p.2.2.flags))
    ({ fmt := out, block := 0, axis := 0, scales := [],
       elems := (cells.map (fun c => (c.1, c.2.1.1))).filter (fun e => decide (e.2 ≠ 0)) },
     cells.foldl (fun f c => f ||| c.2.1.2 ||| c.2.2) 0)
  | some d =>
    let cells := parts.map (fun p =>
      let s := comb p.2.2.v (d.val p.1 p.2.1)
      let fl := if out = .int32 then
          (let v : Int := match s with | .fin g m e => roundInt g m e .nearest | _ => 0
           let w := wrapNat v 32
           ((w, 0), if signedOf w 32 = v then 0 else flagAccWrap))
        else (narrow out .nearest s, 0)
      (128 * p.1 + p.2.1, fl.1, p.2.2.flags ||| fl.2))
    ({ d with elems := cells.foldl (fun l c => Sparse.put (fun _ => 0) l c.1 c.2.1.1) d.elems },
     cells.foldl (fun f c => f ||| c.2.1.2 ||| c.2.2) 0)

/-- One position of SPUR.PERM along axis 0: the code, and whether an index lay beyond the vector length (R200). -/
def permOne (src idx : Tile) (axis vlen i j : Nat) : Nat × Bool :=
  let here := if axis = 0 then j else i
  if vlen ≤ here then (0, false)
  else
    let p := signedOf (idx.code i j) 32
    if 0 ≤ p ∧ p < (vlen : Int) then
      (if axis = 0 then src.code i p.toNat else src.code p.toNat j, false)
    else (0, true)

/-- One repeat of a SPUR.PERM (R200, R201): the output tile, and whether `PERM_RANGE` is set. -/
def permTile (src idx : Tile) (axis vlen : Nat) : Tile × Bool :=
  let cells := (positions 128 128).map (fun p => (128 * p.1 + p.2, permOne src idx axis vlen p.1 p.2))
  ({ src with elems := (cells.map (fun c => (c.1, c.2.1))).filter (fun e => decide (e.2 ≠ 0)) },
   cells.any (fun c => c.2.2))

end Sys2Proof.Machine
end

