-- ==== Sys2Proof/Machine/TrainTypes.lean ====
section
/-!
DEFINITION. Training steps (09_training_steps): schedule tables, Tarn records and Tarn programs; and the state of steps,
serving passes and Tarn that is not a control-space register. The checks and the update arithmetic are pure functions.
-/

namespace Sys2Proof.Machine

/-- An entry of a schedule table (R307). -/
structure Entry where
  copy : Bool
  image : Nat
  mask : Nat
  lockstep : Bool
  stage : Nat
  microbatch : Nat
  deps : List Nat
  src : Nat
  dst : Nat
  waitEn : Bool
  channel : Nat
  deriving DecidableEq, Repr

/-- A schedule table (R306). -/
structure Table where
  serving : Bool
  syncFirst : Nat
  syncCount : Nat
  entries : List Entry
  deriving DecidableEq, Repr

/-- Reading one entry of 32 bytes: the entry, or nothing where R307 and R308 refuse it (`i` is its own index). -/
def Entry.ofBytes (serving : Bool) (i : Nat) (l : List Byte) : Option Entry :=
  let kind := leAt l 0 1
  let mode := leAt l 4 1
  let w := leAt l 0x14 2
  let deps := (List.range 4).map (fun k => leAt l (8 + 2 * k) 2)
  let ok := decide (kind ≤ 1) && decide (mode ≤ 1) && (decide (mode = 0) || serving) &&
    deps.all (fun d => decide (d < i) || decide (d = 0xFFFF)) && decide (bitsOf w 8 7 = 0) && zeroAt l 0x16 10 &&
    (if kind = 0 then decide (leAt l 0x10 2 = 0xFFFF) && decide (leAt l 0x12 2 = 0xFFFF)
     else decide (leAt l 1 1 = 0) && decide (leAt l 2 2 = 0))
  if ok then
    some { copy := decide (kind = 1), image := leAt l 1 1, mask := leAt l 2 2, lockstep := decide (mode = 1),
           stage := leAt l 5 1, microbatch := leAt l 6 2, deps := deps.filter (fun d => decide (d ≠ 0xFFFF)),
           src := leAt l 0x10 2, dst := leAt l 0x12 2, waitEn := bitOf w 15, channel := bitsOf w 0 8 }
  else none

/-- The entries of a table from index `i`; an index where one is refused. -/
def entriesOf (serving : Bool) : Nat → Nat → List Byte → Except Nat (List Entry)
  | 0, _, _ => .ok []
  | n + 1, i, l =>
    match Entry.ofBytes serving i (l.take 32) with
    | none => .error i
    | some e => match entriesOf serving n (i + 1) (l.drop 32) with
      | .error j => .error j
      | .ok es => .ok (e :: es)

/-- SCHEDULE_LOAD's checks (R306, R308): the table, or the first failing entry index, 0xFFFF for a header fault. -/
def tableCheck (l : List Byte) (runLength : Nat) : Except Nat Table :=
  let n := leAt l 8 2
  let kind := leAt l 6 1
  let hdr := decide (32 ≤ l.length) && decide (leAt l 0 4 = 0x4C444353) && decide (leAt l 4 2 = 1) && decide (kind ≤ 1) &&
    zeroAt l 7 1 && decide (1 ≤ n) && decide (n ≤ 4096) && zeroAt l 0xA 2 && zeroAt l 0x14 12 &&
    decide (leAt l 0x12 2 ≤ 4096) && decide (l.length = 32 + 32 * n) && decide (crc32 (l.drop 32) = leAt l 0xC 4) &&
    decide (leAt l 0x10 2 + leAt l 0x12 2 ≤ runLength)
  if !hdr then .error 0xFFFF
  else match entriesOf (decide (kind = 1)) n 0 (l.drop 32) with
    | .error i => .error i
    | .ok es => .ok { serving := decide (kind = 1), syncFirst := leAt l 0x10 2, syncCount := leAt l 0x12 2, entries := es }

/-- Where an entry of the running attempt or pass stands (R310, R311): `over` once its work has ended and its end has not
been acted on. -/
inductive EntrySt where
  | waiting | running | over (status : Nat) | ended (status : Nat)
  deriving DecidableEq, Repr

/-- Who waits for a copy: a MEM_COPY or MEM_FILL, or an entry of a schedule table. -/
inductive CopyOwner where
  | cmd (lane : Lane) (tag op : Nat)
  | entry (idx : Nat)
  deriving DecidableEq, Repr

/-- A MEM_COPY, MEM_FILL or copy entry under way: where it reads (none for a fill), where it writes, the descriptors of an entry,
the key slot of a `DECRYPT`, the host bytes that have arrived by virtual address, whether its host writes are sent, and a status
once it has failed. -/
structure CopyJob where
  ctx : Nat
  owner : CopyOwner
  src : Option Nat
  dst : Nat
  pattern : Nat
  length : Nat
  handles : Option (Nat × Nat)
  slot : Option Nat
  arrived : List (Nat × Byte)
  sent : Bool
  failed : Nat
  moved : Nat
  prio : Nat
  deriving DecidableEq, Repr

/-- A step of a context (R316, R451 to R456), at this member: `t0` holds the attempt's T0 once START has come, `ending` that a
rollback ends the step under R454, `skipped` that the commit made no update (R315). -/
structure StepSt where
  step : Nat
  table : Nat
  attempt : Nat
  t0 : Option Nat
  td : Nat
  limit : Nat
  started : Bool
  entries : List EntrySt
  readySent : Bool
  failed : Option Nat
  norm : Nat
  hostCommit : Bool
  ending : Bool
  skipped : Bool
  lane : Lane
  tag : Nat
  prio : Nat
  deriving DecidableEq, Repr

/-- A serving pass of a context (R334, R494 to R497). -/
structure PassSt where
  table : Nat
  entries : List EntrySt
  outHandle : Nat
  outBytes : Nat
  lane : Lane
  tag : Nat
  prio : Nat
  failed : Option Nat
  deriving DecidableEq, Repr

/-- A Tarn record (R325), as its 64 bytes spell it. -/
structure Record where
  valid : Bool
  copy2 : Nat
  rsv : Bool
  prog : Nat
  hW : Nat
  hW2 : Nat
  hG : Nat
  half : Nat
  step : Nat
  stateBase : Nat
  copyStride : Nat
  halfStride : Nat
  copyBase : Nat
  copyScaleBase : Nat
  copy2Base : Nat
  copy2ScaleBase : Nat
  deriving DecidableEq, Repr

def Record.ofBytes (l : List Byte) : Record :=
  let w0 := leAt l 0 8
  let w1 := leAt l 8 8
  let w2 := leAt l 0x10 8
  let w3 := leAt l 0x18 8
  { valid := bitOf w0 63, copy2 := bitsOf w0 61 2,
    rsv := decide (bitsOf w0 56 5 ≠ 0) || decide (bitsOf w0 48 4 ≠ 0) || decide (bitsOf w1 32 31 ≠ 0) ||
      decide (bitsOf w2 52 12 ≠ 0) || decide (bitsOf w2 0 6 ≠ 0),
    prog := bitsOf w0 52 4, hW := bitsOf w0 32 16, hW2 := bitsOf w0 16 16, hG := bitsOf w0 0 16,
    half := bitsOf w1 63 1, step := bitsOf w1 0 32, stateBase := bitsOf w2 6 46 * 64,
    copyStride := bitsOf w3 32 32, halfStride := bitsOf w3 0 32, copyBase := leAt l 0x20 8,
    copyScaleBase := leAt l 0x28 8, copy2Base := leAt l 0x30 8, copy2ScaleBase := leAt l 0x38 8 }

/-- A program slot as Tarn latches it (R333, R342): its owner, algorithm, hyperparameters and words. -/
structure Prog where
  valid : Bool
  ctx : Nat
  algo : Nat
  moments : Nat
  sr : Bool
  nesterov : Bool
  length : Nat
  hp : List Nat
  code : List Nat
  deriving DecidableEq, Repr

/-- Whether a word of a programmable slot is legal (R329). -/
def tarnWordOk (x : Nat) : Bool :=
  let w := KWord.ofWord x
  let n := kopReads w.kop
  let read := (if 1 ≤ n then [w.sa] else []) ++ (if 2 ≤ n then [w.sb] else []) ++ (if 3 ≤ n then [w.sc] else [])
  let idle := (if 1 ≤ n then [] else [w.sa]) ++ (if 2 ≤ n then [] else [w.sb]) ++ (if 3 ≤ n then [] else [w.sc])
  kopClassOk w.kop .fp32 && decide (1 ≤ n) &&
  read.all (fun s => decide (s ≤ 0x15) || decide (s = 0x18) || (decide (0x20 ≤ s) && decide (s ≤ 0x27))) &&
  read.all (fun s => decide (s ≠ 0x16)) &&
  idle.all (fun s => decide (s = 0)) && (read.contains 0x14 || decide (w.imm = 0)) && decide (w.rsv = 0)

/-- Whether the program in a slot meets the rules under "Tarn programs" (cause 0x07 of R327, R342). -/
def Prog.ok (p : Prog) : Bool :=
  if p.algo = 0xF then
    decide (p.moments ≤ 2) && decide (1 ≤ p.length) && decide (p.length ≤ 16) && !p.nesterov &&
      (p.code.take p.length).all tarnWordOk
  else
    decide (p.algo ≤ 3) && decide (p.moments = 0) && decide (p.length = 0) && (!p.nesterov || decide (p.algo = 0))

/-- How many moments a program keeps (R328). -/
def Prog.momentCount (p : Prog) : Nat :=
  match p.algo with
  | 0 | 3 => 1 | 1 | 2 => 2 | _ => p.moments

/-- A stack's Tarn while it updates or rolls back (R320, R321). -/
structure TarnSt where
  ctx : Nat
  progs : List Prog
  f : Nat
  record : Nat
  deriving DecidableEq, Repr

/-! ### Update arithmetic (R328, R329): FP32 codes, each operation rounded in the order of its formula. -/

def f32 (x : Num) : Nat := Fmt.fp32.round x
def v32 (c : Nat) : Num := Fmt.fp32.decode c
def mul32 (a b : Nat) : Nat := f32 ((v32 a).mul (v32 b))
def add32 (a b : Nat) : Nat := f32 ((v32 a).add (v32 b))
def sub32 (a b : Nat) : Nat := f32 ((v32 a).sub (v32 b))
def div32 (a b : Nat) : Nat := f32 ((v32 a).div (v32 b))
def sqrt32 (a : Nat) : Nat := f32 (v32 a).sqrt
def one32 : Nat := f32 Num.one

/-- FP64 codes: bias corrections and LAMB's norms (09_training_steps, "Tarn programs"). -/
def f64 (x : Num) : Nat := Fmt.fp64.round x
def v64 (c : Nat) : Num := Fmt.fp64.decode c
def mul64 (a b : Nat) : Nat := f64 ((v64 a).mul (v64 b))
def add64 (a b : Nat) : Nat := f64 ((v64 a).add (v64 b))
def sub64 (a b : Nat) : Nat := f64 ((v64 a).sub (v64 b))

/-- β^t in FP64 by repeated multiplication. -/
def pow64 (b : Nat) : Nat → Nat
  | 0 => f64 Num.one
  | n + 1 => mul64 (pow64 b n) b

/-- 1 − β^t in FP64 (the bias correction of R328). -/
def biasCorr (beta t : Nat) : Nat := sub64 (f64 Num.one) (pow64 (f64 (v32 beta)) t)

/-- The state of one element: w, moment 1, moment 2 (FP32 codes). -/
structure Elem where
  w : Nat
  m : Nat
  v : Nat
  deriving DecidableEq, Repr

def Prog.h (p : Prog) (k : Nat) : Nat := p.hp.getD k 0

/-- m and v of AdamW after one gradient, and u (R328). -/
def adamU (p : Prog) (t : Nat) (e : Elem) (g : Nat) : Nat × Nat × Nat :=
  let m := add32 (mul32 (p.h 1) e.m) (mul32 (sub32 one32 (p.h 1)) g)
  let v := add32 (mul32 (p.h 2) e.v) (mul32 (sub32 one32 (p.h 2)) (mul32 g g))
  let mh := f32 ((v32 m).div (v64 (biasCorr (p.h 1) t)))
  let vh := f32 ((v32 v).div (v64 (biasCorr (p.h 2) t)))
  (m, v, add32 (div32 mh (add32 (sqrt32 vh) (p.h 3))) (mul32 (p.h 4) e.w))

/-- sign(x), with sign(0) = 0 (R328). -/
def sign32 (c : Nat) : Nat :=
  match v32 c with
  | .nan => f32 .nan
  | .inf s => f32 (if s then Num.one.neg else Num.one)
  | .fin s m _ => if m = 0 then 0 else f32 (if s then Num.one.neg else Num.one)

/-- One element of a programmable slot (R329). -/
def progElem (p : Prog) (t : Nat) (e : Elem) (g : Nat) : Elem :=
  let operand (v : List Nat) (imm sel : Nat) : Nat :=
    if sel ≤ 0x0F then v.getD sel 0
    else match sel with
      | 0x10 => g | 0x11 => e.w | 0x12 => e.m | 0x13 => e.v | 0x14 => imm | 0x15 => 0
      | 0x18 => f32 (Num.ofInt t)
      | k => p.h (k - 0x20)
  let v := (p.code.take p.length).foldl (fun v x =>
    let w := KWord.ofWord x
    v.set w.dst (kFloat w.kop .fp32 (operand v w.imm w.sa) (operand v w.imm w.sb) (operand v w.imm w.sc)))
    (List.replicate 16 0)
  { w := v.getD 0 0, m := if 1 ≤ p.moments then v.getD 1 0 else e.m, v := if 2 ≤ p.moments then v.getD 2 0 else e.v }

/-- One element's update, LAMB apart (R328). -/
def updateElem (p : Prog) (t : Nat) (e : Elem) (g : Nat) : Elem :=
  match p.algo with
  | 0 =>
    let g' := add32 g (mul32 (p.h 2) e.w)
    let m := add32 (mul32 (p.h 1) e.m) g'
    let d := if p.nesterov then add32 g' (mul32 (p.h 1) m) else m
    { w := sub32 e.w (mul32 (p.h 0) d), m := m, v := e.v }
  | 1 =>
    let r := adamU p t e g
    { w := sub32 e.w (mul32 (p.h 0) r.2.2), m := r.1, v := r.2.1 }
  | 3 =>
    let u := sign32 (add32 (mul32 (p.h 1) e.m) (mul32 (sub32 one32 (p.h 1)) g))
    { w := sub32 e.w (mul32 (p.h 0) (add32 u (mul32 (p.h 4) e.w))),
      m := add32 (mul32 (p.h 2) e.m) (mul32 (sub32 one32 (p.h 2)) g), v := e.v }
  | _ => progElem p t e g

/-- The FP64 sum of squares of FP32 codes, in order. -/
def sumSq (l : List Nat) : Nat := l.foldl (fun a x => f64 ((v64 a).add ((v32 x).mul (v32 x)))) 0

/-- The whole record's update: elements with their reduced gradients already multiplied by f (R328). -/
def updateRecord (p : Prog) (t : Nat) (es : List Elem) (gs : List Nat) : List Elem :=
  if p.algo = 2 then
    let us := List.zipWith (adamU p t) es gs
    let nw := f64 (v64 (sumSq (es.map (fun e => e.w)))).sqrt
    let nu := f64 (v64 (sumSq (us.map (fun u => u.2.2)))).sqrt
    let ratio := if (v64 nw).isZero || (v64 nu).isZero then Num.one else v64 (f64 ((v64 nw).div (v64 nu)))
    let r := f32 (Num.min ratio (v32 (p.h 5)))
    List.zipWith (fun e u => { w := sub32 e.w (mul32 (mul32 (p.h 0) r) u.2.2), m := u.1, v := u.2.1 : Elem }) es us
  else List.zipWith (updateElem p t) es gs

/-- The gradient multiplier f of R314, an FP32 code; `s` is an FP64 code, the others FP32 codes. -/
def gradMultiplier (s maxNorm gradScale : Nat) : Nat :=
  let n := f64 ((v32 gradScale).mul (v64 (f64 (v64 s).sqrt)))
  if (v32 maxNorm).isZero || !(Num.lt (v32 maxNorm) (v64 n)) then gradScale
  else f32 (v64 (f64 ((v64 (f64 ((v32 gradScale).mul (v32 maxNorm)))).div (v64 n))))

end Sys2Proof.Machine
end

