-- ==== Sys2Proof/Machine/State.lean ====
section
/-!
DEFINITION. The state of the module: every register, table, queue, buffer and memory that the spec gives it, as plain data;
why a step can stop; and the state right after reset. `Mach` is the module itself; `State` adds the queue of commands.
-/

namespace Sys2Proof.Machine

/-- Why the machine stops with a fault. No meaning of this model faults: every effect the spec describes is a next state. -/
inductive Fault where
  | unreachable
  deriving DecidableEq, Repr

/-- Why a command has no meaning here. `notModelled` is answered by an arm of Dispatch whose row has no meaning yet (safe:
nothing is claimed of it). -/
inductive Refusal where
  | notModelled (mnemonic : String)
  deriving DecidableEq, Repr

/-- A reply or an event that the module has sent (R578, R587). -/
structure Reply where
  lane : Lane
  opcode : Nat
  tag : Nat
  status : Nat
  ctx : Nat
  final : Bool
  event : Bool
  dup : Bool
  cls : Nat
  detail : Nat
  data : List Byte
  deriving DecidableEq, Repr

/-- A command that has begun and has not sent its final reply (R577, R584). -/
structure Outst where
  lane : Lane
  ctx : Nat
  tag : Nat
  opcode : Nat
  prio : Nat
  deriving DecidableEq, Repr

/-- A packet that is arriving on a class of the data link (R569, R588), or that has arrived whole: its bytes, the length its
header announces, whether its header has passed R577, when its header came whole, and when its last flit came. -/
structure Packet where
  lane : Lane
  cls : Nat
  bytes : List Byte
  total : Nat
  accepted : Bool
  since : Nat
  last : Nat
  deriving DecidableEq, Repr

/-- A packet that the module sends on the data lanes: its class and kind, whether its first flit has gone, and the bytes left (R567 to
R569). -/
structure TxPacket where
  cls : Nat
  kind : Nat
  begun : Bool
  rest : List Byte
  deriving DecidableEq, Repr

/-- The Swite link (17_swite_commands) beside its registers. `outq` holds what waits to be sent, `kept` the flits sent and not
acknowledged, `linkOut` and `control` the flits and the link-control flits that have gone out. `txns` holds the host-memory transactions outstanding, at most
4,096 (R575), and `txnWait` those that wait to be issued. -/
structure SwiteSt where
  rxExpect : Nat
  waitReplay : Bool
  txSeq : Nat
  kept : List Flit
  credits : List Nat
  arriving : List Packet
  arrived : List Packet
  discarding : List Nat
  outstanding : List Outst
  replies : List Reply
  held : List Reply
  events : List (Nat × Nat × Nat)
  eventAt : List (Nat × Nat)
  outq : List TxPacket
  linkOut : List Flit
  control : List LinkControl
  txns : List HostTxn
  txnWait : List HostTxn
  nextTxn : Nat
  txnSent : List HostTxn
  deriving DecidableEq, Repr

def SwiteSt.reset : SwiteSt :=
  { rxExpect := 0, waitReplay := false, txSeq := 0, kept := [], credits := [0, 0, 0, 0, 0, 0, 0, 0], arriving := [],
    arrived := [], discarding := [], outstanding := [], replies := [], held := [], events := [], eventAt := [],
    outq := [], linkOut := [], control := [], txns := [], txnWait := [], nextTxn := 0, txnSent := [] }

/-- A run of mapped pages of a context (R264, R267). -/
structure MapRun where
  va : Nat
  size : Nat
  page : Nat
  pa : Nat
  write : Bool
  pdom : Nat
  deriving DecidableEq, Repr

/-- A FRAME_PUSH that has arrived whole and waits (R495, R497). -/
structure Push where
  lane : Lane
  tag : Nat
  prio : Nat
  outHandle : Nat
  outBytes : Nat
  deadline : Nat
  deriving DecidableEq, Repr

/-- A context (R39) beside its registers: tables, mappings, steps, serving. -/
structure Ctx where
  syncBase : Nat
  syncLen : Nat
  seed : Nat
  pdoms : Nat
  descs : List (Nat × Desc)
  images : List (Nat × Image)
  tables : List (Nat × Table)
  maps : List MapRun
  step : Option StepSt
  next : Option StepSt
  holds : List Nat
  pass : Option PassSt
  pushWait : Option Push
  p0 : Option Nat
  pinned : Bool
  deriving DecidableEq, Repr

/-- A run of 64 KiB frames: first frame number and length (R268, R269, R551). -/
structure FrameRun where
  first : Nat
  count : Nat
  deriving DecidableEq, Repr

/-- A stack's dirty tracker (R283 to R285): every bit set, or the frames whose bit is set. -/
structure Tracker where
  full : Bool
  frames : List Nat
  deriving DecidableEq, Repr

structure StackSt where
  current : Tracker
  captured : Tracker
  scrubbing : Bool
  grants : List Rat
  rangeGrants : List Rat
  patrolAt : Nat
  deriving DecidableEq, Repr

/-- A MEM_UNMAP whose mappings are gone and whose accesses are still being performed (R270): the physical runs it had. -/
structure Unmap where
  lane : Lane
  ctx : Nat
  tag : Nat
  runs : List (Nat × Nat)
  deriving DecidableEq, Repr

/-- Memory (08_foothill_and_ledge): bytes by physical address, poisoned words, ownership, frames waiting for scrub, sealed
frames, and the stacks. -/
structure MemSt where
  bytes : List (Nat × Byte)
  poison : List Nat
  owned : List (Nat × FrameRun)
  scrubQueue : List (Nat × List FrameRun)
  sealed : List FrameRun
  unmapping : List Unmap
  dram : List StackSt
  ledgeGrants : List (List Rat)
  patrolLedge : List Nat
  deriving DecidableEq, Repr

def StackSt.reset : StackSt :=
  { current := ⟨true, []⟩, captured := ⟨false, []⟩, scrubbing := false, grants := [], rangeGrants := [], patrolAt := 0 }

def MemSt.reset : MemSt :=
  { bytes := [], poison := [], owned := [], scrubQueue := [], sealed := [], unmapping := [], dram := List.replicate 12 StackSt.reset,
    ledgeGrants := [[], []], patrolLedge := [0, 0, 0, 0] }

/-- A clock island (R13, R503): its frequency in kHz and voltage in mV; what its unit's grant allows; whether it is powered,
clocked, pinned, halved by the fast path, and the change that waits for its voltage. -/
structure Island where
  kHz : Nat
  mV : Nat
  grant : Nat
  powered : Bool
  clocked : Bool
  pinned : Bool
  halved : Bool
  waiting : Option (Nat × Nat)
  deriving DecidableEq, Repr

/-- A thermal zone (R517, R518): readings of the last 1 ms, newest first with the time of each, and its actions. -/
structure Zone where
  history : List (Nat × Int)
  holdSince : Option Nat
  stepAt : Nat
  throttled : Bool
  deriving DecidableEq, Repr

/-- A unit of work that waits for admission under R17 (R508, R515): a stream, or an entry of a context's running table, and
since when. -/
structure Waiting where
  stream : Option Nat
  ctx : Nat
  entry : Nat
  since : Nat
  deriving DecidableEq, Repr

/-- Treeline (15_treeline_power) beside its registers. -/
structure TreelineSt where
  islands : List Island
  zones : List Zone
  samples : List (List Rat)
  waiting : List Waiting
  starving : Option (Nat × Nat)
  coolantGood : Option Nat
  coolSince : Option Nat
  coolantBad : Option Nat
  coolantCap : Option Nat
  coolantStopped : Bool
  dipping : Bool
  goodSince : Option Nat
  lowered : Bool
  capAt : Nat
  restoreAt : Nat
  pool : Rat
  offSince : List (Nat × Nat)
  deriving DecidableEq, Repr

/-- The SPDM session (R535 to R537, R543). -/
structure Session where
  exchangedIn : Nat
  finished : Bool
  measured : Bool
  hbS : Nat
  lastMsg : Nat
  generation : Nat
  countH2m : Nat
  countM2h : Nat
  deriving DecidableEq, Repr

/-- A firmware bank (R529 to R531): the package it holds, or empty. -/
structure Bank2 where
  empty : Bool
  svn : Nat
  minor : Nat
  patch : Nat
  deriving DecidableEq, Repr

/-- What a RESET that has not replied waits for (R609, R618): the clearing of ranges, a port's discovery, or the end of S5; and a
FABRIC_DISCOVER, which waits for the discovery of every lit port (R409). -/
inductive ResetFor where
  | ranges (mask : Nat)
  | port (p : Nat)
  | stages
  | discovery
  deriving DecidableEq, Repr

/-- A RESET or a FABRIC_DISCOVER that has not replied. -/
structure ResetWait where
  lane : Lane
  ctx : Nat
  tag : Nat
  what : ResetFor
  deriving DecidableEq, Repr

/-- Cairn (16_cairn_security) beside its registers: the session; live ephemeral keys with the time of each; the keys in the slots; the
banks, the running package's SVN, the package that FW_UPDATE gathers, and the bank that an activation starts; the audit log; the
clearing under way, since when and which commands wait for it; OWNER_TRANSFERs that wait for the scrub; the lk registers that
measurement 8 froze; and the start sequence: power-good, when the stage began, the cold (0) or module (1) reset in progress,
whether `MOD_RESET_N` holds it, and the RESETs that wait. -/
structure CairnSt where
  session : Option Session
  ephKeys : List (Nat × Nat)
  slotKeys : List (Nat × List Byte)
  banks : List Bank2
  runSvn : Nat
  fwTotal : Option Nat
  fwChunks : List (Nat × List Byte)
  activating : Option Nat
  log : List (List Byte)
  permanent : List (List Byte)
  logSeq : Nat
  chain : List Byte
  prodDebugUsed : Bool
  clearing : Option (Nat × List (Lane × Nat × Nat))
  ownerScrub : List (Lane × Nat)
  lkFrozen : Option (List Word)
  powerGood : Option Nat
  stageAt : Nat
  resetting : Option Nat
  resetHeld : Bool
  waits : List ResetWait
  deriving DecidableEq, Repr

/-- Survey (19_survey_and_waymark): the pending snapshot's tick, option and command; the draw that the capture's event
counts are free values of; the units read since; the trouble counters, their shadows, and the units that were off. -/
structure SurveySt where
  tick : Nat
  clear : Bool
  cmd : Option (Lane × Nat × Nat)
  capture : Nat
  read : List Nat
  trouble : List (Nat × Nat)
  shadow : List (Nat × Nat)
  shadowOff : List Nat
  deriving DecidableEq, Repr

/-- An arm or resume that has not replied (R637, R638): the ranges that it names, and with them those of the streams it applies to. -/
structure ArmSt where
  lane : Lane
  ctx : Nat
  tag : Nat
  mask : Nat
  ranges : Nat
  deriving DecidableEq, Repr

/-- A Saddle instance's frames waiting, postings and partials, and the group protocol (12_saddle_reduction). -/
structure SaddleSt where
  posted : List Posted
  partials : List Partial
  occur : List (Nat × Nat × Nat × Nat)
  deriving DecidableEq, Repr

/-- The group protocol (R450 to R456): open steps by group and step number at their master, the floods already passed on (group,
kind, step, attempt), the messages that this module sends itself, and those it has sent on its ports. -/
structure GroupSt where
  masters : List (Nat × Nat × MasterSt)
  seen : List (Nat × Nat × Nat × Nat)
  loop : List GMsg
  sent : List GSent
  deriving DecidableEq, Repr

/-- A frame that a port has sent (R392). -/
structure SentFrame where
  port : Nat
  frame : Frame
  deriving DecidableEq, Repr

/-- The timebase (R421 to R424). -/
structure TimebaseSt where
  ticks : BitVec 64
  lastEpoch : Option Nat
  badFrames : Nat
  holdover : Bool
  slewing : Int
  tdHi : Word
  epochSent : Nat
  combined : Bool
  deriving DecidableEq, Repr

/-- The module. Times are in tenths of a nanosecond of its local clock. -/
structure Mach where
  clk : Nat
  draws : Nat
  csr : List (Nat × Word)
  faultN : Bool
  modResetLow : Bool
  swite : SwiteSt
  mem : MemSt
  ctxs : List (Option Ctx)
  ranges : List RangeSt
  streams : List Stream
  nextStream : Nat
  copies : List CopyJob
  tarn : List (Option TarnSt)
  treeline : TreelineSt
  cairn : CairnSt
  optics : OpticsSt
  plan : Option Plan
  ports : List PortSt
  channels : List ChanSt
  messages : List Message
  sent : List SentFrame
  timebase : TimebaseSt
  saddle : SaddleSt
  group : GroupSt
  belay : BelaySt
  survey : SurveySt
  arms : List ArmSt
  deriving DecidableEq, Repr

/-- The state: the module and the commands that wait, first in first out. -/
structure State extends Mach where
  pending : List Instr
  deriving DecidableEq, Repr

/-! ### Reset -/

def TQueue.reset : TQueue := { entries := [], held := 0 }

def DrainSt.reset : DrainSt :=
  { busy := false, bank := 0, toQueue := false }

/-- A range after power-on or clearing (R40, R205). -/
def RangeSt.reset : RangeSt :=
  { stream := none, lastCtx := 16, streamCount := 0, pc := 0, nextSeq := 0, loops := [], fence := none, ctrlWait := none,
    ended := false, col := [], crest := [], spur := [], talus := [], scree := [], link := [], signals := [],
    aFeed := .reset, bFeed := .reset, drain := .reset, store := .reset, screeSpur := .reset, screeCrest := .reset,
    tiles := [], bank0 := .zeroed, bank1 := .zeroed, statA := none, statB := none, gate := (0, 0), drainUnit := .reset,
    regWrites := [], staged := [], kernNorm := 0, norms := [], tlbCol := [], tlbTalus := [], tlbScree := [], walks := [], hostReps := [], hostData := [], passes := [],
    rowCache := [], cacheHits := (0, 0), marks := [], progress := 0, halted := false }

/-- The fixed frequency of each island in kHz (R682): 4 per range, 3 per Massif, one per stack, the Hub's ten, and two per
face, in the order of R517's zones. -/
def islandKHz (i : Nat) : Nat :=
  if i < 64 then 1250000
  else if i < 70 then (if (i - 64) % 3 = 0 then 1250000 else 1500000)
  else if i < 82 then 1000000
  else match i - 82 with
    | 0 => 1500000 | 1 => 500000 | 2 => 500000 | 3 => 500000 | 4 => 875000 | 5 => 1250000 | 6 => 1000000
    | 7 => 2000000 | 8 => 2000000 | 9 => 500000 | _ => 1000000

def Island.off (i : Nat) : Island :=
  { kHz := islandKHz i, mV := 750, grant := islandKHz i, powered := false, clocked := false, pinned := false,
    halved := false, waiting := none }

/-- The Cairn island, the one that runs at reset (R16). -/
def cairnIsland : Nat := 83

def islandReset (i : Nat) : Island := if i = cairnIsland then { Island.off i with powered := true, clocked := true } else Island.off i

def Zone.reset : Zone := { history := [], holdSince := none, stepAt := 0, throttled := false }

def TreelineSt.reset : TreelineSt :=
  { islands := (List.range 108).map islandReset, zones := List.replicate 39 Zone.reset, samples := List.replicate 8 [],
    waiting := [], starving := none, coolantGood := none, coolSince := none, coolantBad := none, coolantCap := none, coolantStopped := false,
    dipping := false, goodSince := none, lowered := false, capAt := 0, restoreAt := 0, pool := 0, offSince := [] }

/-- Cairn at power-on. (DESIGN CHOICE, log entry 8.) -/
def CairnSt.reset : CairnSt :=
  { session := none, ephKeys := [], slotKeys := [],
    banks := [{ empty := false, svn := 0, minor := 0, patch := 0 }, { empty := true, svn := 0, minor := 0, patch := 0 }],
    runSvn := 0, fwTotal := none, fwChunks := [], activating := none, log := [], permanent := [], logSeq := 0,
    chain := List.replicate 64 0, prodDebugUsed := false, clearing := none, ownerScrub := [], lkFrozen := none,
    powerGood := none, stageAt := 0, resetting := some 0, resetHeld := false, waits := [] }

def SurveySt.reset : SurveySt :=
  { tick := 0, clear := false, cmd := none, capture := 0, read := [], trouble := [], shadow := [], shadowOff := [] }

def TimebaseSt.reset : TimebaseSt :=
  { ticks := 0, lastEpoch := none, badFrames := 0, holdover := false, slewing := 0, tdHi := 0, epochSent := 0,
    combined := false }

/-- The module right after a cold reset (R602, R617): stage S0, trust state OPEN, every register at its reset value. (DESIGN CHOICE, log entry 7.) -/
def Mach.reset : Mach :=
  { clk := 0, draws := 1, csr := [], faultN := false, modResetLow := false, swite := .reset, mem := .reset,
    ctxs := List.replicate 16 none, ranges := List.replicate 16 .reset, streams := [], nextStream := 0, copies := [],
    tarn := List.replicate 12 none, treeline := .reset, cairn := .reset, optics := .reset, plan := none,
    ports := List.replicate 32 .reset, channels := [], messages := [], sent := [],
    timebase := .reset, saddle := { posted := [], partials := [], occur := [] },
    group := { masters := [], seen := [], loop := [], sent := [] }, belay := .reset, survey := .reset, arms := [] }

/-- The machine right after reset, with no command waiting. -/
def State.reset : State := { Mach.reset with pending := [] }

end Sys2Proof.Machine
end

