-- ==== Sys2Proof/Machine/Ops.lean ====
section
/-!
DEFINITION. The named operations over the module that every meaning is written with: time, control space, free values,
the indexed parts of the state, pins and the trouble summary, replies and events, and the admission of a host command.
-/

namespace Sys2Proof.Machine

/-! ### Outcomes -/

/-- What a meaning answers: it changes the module and leaves the queue alone. -/
def State.run (s : State) (f : Mach → Mach) : Host.Outcome State Fault Refusal :=
  .next { f s.toMach with pending := s.pending }

/-- An event whose condition does not hold leaves the module as it is. (DESIGN CHOICE, log entry 2.) -/
def Mach.when (m : Mach) (c : Bool) (f : Mach → Mach) : Mach := if c then f m else m

/-! ### Time: tenths of a nanosecond -/

def ns (n : Nat) : Nat := 10 * n
def us (n : Nat) : Nat := 10000 * n
def ms (n : Nat) : Nat := 10000000 * n
def secs (n : Nat) : Nat := 10000000000 * n

/-- One tick of the timebase, 6.4 ns (R422). -/
def tickLen : Nat := 64

/-- The local clock and the timebase count together; toward a reference that has returned the timebase slews at 100 ppm, one tick in
10,000, and never steps back (R423). -/
def TimebaseSt.tick (t : TimebaseSt) (clk : Nat) : TimebaseSt :=
  if t.slewing = 0 ∨ clk / tickLen % 10000 ≠ 0 then { t with ticks := t.ticks + 1 }
  else if 0 < t.slewing then { t with ticks := t.ticks + 2, slewing := t.slewing - 1 }
  else { t with slewing := t.slewing + 1 }

/-- Time passing: one tick. (DESIGN CHOICE, log entry 1.) -/
def Mach.tick (m : Mach) : Mach := { m with clk := m.clk + tickLen, timebase := m.timebase.tick m.clk }

/-- A free value: a numbered draw that nothing constrains. -/
def Mach.draw (m : Mach) : Nat := Config.freeValue m.draws
/-- The counter of free values goes on. (DESIGN CHOICE, log entry 4.) -/
def Mach.drawn (m : Mach) : Mach := { m with draws := m.draws + 1 }

/-! ### Control space -/

/-- The register at an address, as stored. -/
def Mach.rd (m : Mach) (a : Nat) : Word := Sparse.get regReset m.csr a

/-- A field of a register, as stored. -/
def Mach.rdF (m : Mach) (a : Nat) (f : Fld) : Nat := Word.getF (m.rd a) f

/-- Storing a register. -/
def Mach.wr (m : Mach) (a : Nat) (v : Word) : Mach := { m with csr := Sparse.put regReset m.csr a v }

/-- Storing one field of a register. -/
def Mach.wrF (m : Mach) (a : Nat) (f : Fld) (v : Nat) : Mach := m.wr a (Word.setF (m.rd a) f v)

/-- Adding to a counter field, which saturates at its largest value. -/
def Mach.addF (m : Mach) (a : Nat) (f : Fld) (d : Nat) : Mach := m.wrF a f (satAdd (m.rdF a f) d (2 ^ f.width - 1))

/-- Setting a run of bits of a register (sticky flags). -/
def Mach.orR (m : Mach) (a : Nat) (bits : Nat) : Mach := m.wr a (m.rd a ||| BitVec.ofNat 32 bits)

/-- The value a register keeps when its block is reset: its non-volatile fields, and the reset value elsewhere. -/
def keepNv (a : Nat) (v : Word) : Word :=
  match regAt a with
  | none => regReset a
  | some r => r.fields.foldl (fun w f => if f.nv then Word.setF w f.fld (Word.getF v f.fld) else w) (regReset a)

/-- Every register that a test picks goes to its reset value; non-volatile fields stay. -/
def Mach.resetRegs (m : Mach) (p : Nat → Bool) : Mach :=
  { m with csr := m.csr.filterMap (fun e =>
      if p e.1 then (let v := keepNv e.1 e.2; if v = regReset e.1 then none else some (e.1, v)) else some e) }

/-- The addresses of one block. -/
def inBlock (b : Block) (a : Nat) : Bool := match windowOf a with | some (c, _, _) => decide (c = b) | none => false

/-- The addresses of one copy of a block. -/
def inWindow (b : Block) (i : Nat) (a : Nat) : Bool :=
  match windowOf a with | some (c, j, _) => decide (c = b) && decide (j = i) | none => false

/-! ### Indexed parts -/

def Mach.ctx (m : Mach) (c : Nat) : Option Ctx := (m.ctxs.getD c none)
def Mach.setCtx (m : Mach) (c : Nat) (x : Option Ctx) : Mach := { m with ctxs := m.ctxs.set c x }
def Mach.updCtx (m : Mach) (c : Nat) (f : Ctx → Ctx) : Mach :=
  match m.ctx c with
  | none => m
  | some x => m.setCtx c (some (f x))

def Mach.range (m : Mach) (n : Nat) : RangeSt := m.ranges.getD n .reset
def Mach.setRange (m : Mach) (n : Nat) (r : RangeSt) : Mach := { m with ranges := m.ranges.set n r }
def Mach.updRange (m : Mach) (n : Nat) (f : RangeSt → RangeSt) : Mach := m.setRange n (f (m.range n))

def Mach.port (m : Mach) (p : Nat) : PortSt := m.ports.getD p .reset
def Mach.updPort (m : Mach) (p : Nat) (f : PortSt → PortSt) : Mach := { m with ports := m.ports.set p (f (m.port p)) }

def Mach.island (m : Mach) (i : Nat) : Island := m.treeline.islands.getD i (Island.off i)
def Mach.updIsland (m : Mach) (i : Nat) (f : Island → Island) : Mach :=
  { m with treeline := { m.treeline with islands := m.treeline.islands.set i (f (m.island i)) } }

def Mach.zone (m : Mach) (z : Nat) : Zone := m.treeline.zones.getD z .reset
def Mach.updZone (m : Mach) (z : Nat) (f : Zone → Zone) : Mach :=
  { m with treeline := { m.treeline with zones := m.treeline.zones.set z (f (m.zone z)) } }

def Mach.stack (m : Mach) (s : Nat) : StackSt := m.mem.dram.getD s .reset
def Mach.updStack (m : Mach) (s : Nat) (f : StackSt → StackSt) : Mach :=
  { m with mem := { m.mem with dram := m.mem.dram.set s (f (m.stack s)) } }

def Mach.stream (m : Mach) (id : Nat) : Option Stream := m.streams.find? (fun s => decide (s.id = id))
def Mach.updStream (m : Mach) (id : Nat) (f : Stream → Stream) : Mach :=
  { m with streams := m.streams.map (fun s => if s.id = id then f s else s) }

def Mach.chan (m : Mach) (n : Nat) : ChanSt :=
  (m.channels.find? (fun c => decide (c.number = n))).getD
    { number := n, sent := 0, received := 0, landed := [], discarded := [], claimed := 0, entryClaim := none }
def Mach.updChan (m : Mach) (n : Nat) (f : ChanSt → ChanSt) : Mach :=
  { m with channels := f (m.chan n) :: m.channels.filter (fun c => decide (c.number ≠ n)) }

/-- A fold over a run of indices. -/
def Mach.each (m : Mach) (l : List Nat) (f : Mach → Nat → Mach) : Mach := l.foldl f m

/-- The ranges of a mask, ascending. -/
def maskBits (mask w : Nat) : List Nat := (List.range w).filter (fun i => bitOf mask i)

/-! ### The start sequence, trust and pins -/

/-- Whether every island except Cairn is off, awaiting a reset (R500, R518, R620). -/
def Mach.poweredOff (m : Mach) : Bool := decide (m.rdF Reg.CAIRN_START_STATUS Fld.CAIRN_START_STATUS_POWERED_OFF = 1)

/-- The stage that `STAGE` and HELLO show (R608, R620). -/
def Mach.stageShown (m : Mach) : Nat := m.rdF Reg.CAIRN_START_STATUS Fld.CAIRN_START_STATUS_STAGE

/-- The stage that commands and events see: a power-off takes it back to S1, since no island but Cairn is there (R500, R604). -/
def Mach.stage (m : Mach) : Nat := if m.poweredOff then min 1 m.stageShown else m.stageShown
def Mach.trust (m : Mach) : Nat := m.rdF Reg.CAIRN_STATE Fld.CAIRN_STATE_TRUST
def Mach.recovery (m : Mach) : Bool := decide (m.rdF Reg.CAIRN_STATE Fld.CAIRN_STATE_RECOVERY = 1)
def Mach.clearing (m : Mach) : Bool := decide (m.rdF Reg.CAIRN_STATE Fld.CAIRN_STATE_CLEARING = 1)
def Mach.fabricOk (m : Mach) : Bool := !m.poweredOff && decide (m.rdF Reg.CAIRN_START_STATUS Fld.CAIRN_START_STATUS_FABRIC_OK = 1)

/-- A trouble counter of Survey (R623): unit and index; it saturates (R625) and is independent of every register (R626). -/
def troubleKey (u i : Nat) : Nat := 256 * u + i
def Mach.tallyBy (m : Mach) (u i d : Nat) : Mach :=
  let k := troubleKey u i
  let v := satAdd (Sparse.get (fun _ => 0) m.survey.trouble k) d 0xFFFFFFFF
  { m with survey := { m.survey with trouble := Sparse.put (fun _ => 0) m.survey.trouble k v } }
def Mach.tally (m : Mach) (u i : Nat) : Mach := m.tallyBy u i 1

/-- Setting a bit of `SUMMARY` (R656). -/
def Mach.trouble (m : Mach) (b : Nat) : Mach := m.orR Reg.MODULE_TROUBLE (2 ^ b)

/-- `ALERT_N` asserted: the masked summary (R657), recovery (R530), a failed stage (R608), a brown-out (R500), a compute
stop (R519) or a cold inlet (R521). (DESIGN CHOICE, log entry 61.) -/
def Mach.alert (m : Mach) : Bool :=
  decide (m.rd Reg.MODULE_TROUBLE &&& m.rd Reg.MODULE_ALERT_MASK ≠ 0) || m.recovery ||
  decide (m.rdF Reg.CAIRN_START_STATUS Fld.CAIRN_START_STATUS_FAILED = 1) ||
  decide (m.rdF Reg.TREELINE_STATUS Fld.TREELINE_STATUS_BROWNOUT = 1) ||
  decide (m.rdF Reg.TREELINE_STATUS Fld.TREELINE_STATUS_COMPUTE_STOPPED = 1) ||
  decide (m.rdF Reg.TREELINE_STATUS Fld.TREELINE_STATUS_COLD_INLET = 1)

/-- `PRESENT_N` asserted: from the end of stage S0 while the Cairn island runs (R667). -/
def Mach.present (m : Mach) : Bool := decide (1 ≤ m.stage)

/-! ### Status codes (R680) -/

namespace St
def done : Nat := 0x00
def accepted : Nat := 0x01
def badOpcode : Nat := 0x10
def badParam : Nat := 0x11
def busy : Nat := 0x12
def notPermitted : Nat := 0x13
def locked : Nat := 0x14
def limitReached : Nat := 0x15
def attestFail : Nat := 0x16
def descInvalid : Nat := 0x20
def descAlias : Nat := 0x21
def streamFault : Nat := 0x30
def slotMiss : Nat := 0x31
def translationFault : Nat := 0x32
def protectionFault : Nat := 0x33
def indexRange : Nat := 0x34
def powerLimit : Nat := 0x40
def thermalLimit : Nat := 0x41
def stepAborted : Nat := 0x50
def stepLimit : Nat := 0x51
def frameLate : Nat := 0x58
def partialDiscard : Nat := 0x59
def linkDown : Nat := 0x60
def linkVersion : Nat := 0x61
def cablingMismatch : Nat := 0x62
def ringLockFail : Nat := 0x63
def internal : Nat := 0x7F
end St

/-! ### Opcodes (R591) -/

namespace Op
def hello : Nat := 0x0001
def identify : Nat := 0x0002
def csrRead : Nat := 0x0003
def csrWrite : Nat := 0x0004
def csrReadBlock : Nat := 0x0005
def memCopy : Nat := 0x0101
def memFill : Nat := 0x0102
def memMap : Nat := 0x0103
def memUnmap : Nat := 0x0104
def contextCreate : Nat := 0x0201
def contextDestroy : Nat := 0x0202
def descLoad : Nat := 0x0203
def streamLoad : Nat := 0x0204
def streamStart : Nat := 0x0205
def streamStop : Nat := 0x0206
def streamStatus : Nat := 0x0207
def framePush : Nat := 0x0208
def stepBegin : Nat := 0x0301
def stepCommit : Nat := 0x0302
def stepAbort : Nat := 0x0303
def scheduleLoad : Nat := 0x0304
def fabricDiscover : Nat := 0x0401
def fabricPlan : Nat := 0x0402
def meshSet : Nat := 0x0403
def darkMapWrite : Nat := 0x0404
def linkStatus : Nat := 0x0405
def spdmMsg : Nat := 0x0501
def keyRelease : Nat := 0x0502
def lockConfig : Nat := 0x0503
def tenantEnd : Nat := 0x0504
def ownerTransfer : Nat := 0x0505
def fwUpdate : Nat := 0x0506
def belayPlan : Nat := 0x0601
def belaySnapshot : Nat := 0x0602
def belayRestore : Nat := 0x0603
def surveySnap : Nat := 0x0701
def surveyRead : Nat := 0x0702
def waymarkSet : Nat := 0x0703
def debugDump : Nat := 0x0704
def debugMode : Nat := 0x0705
def powerBudgetSet : Nat := 0x0801
def thermalStatus : Nat := 0x0802
def reset : Nat := 0x0901
end Op

/-- The context rule of an opcode (R591). -/
inductive CtxRule where
  | required | none | either
  deriving DecidableEq, Repr

/-- What R591 says of an opcode: its context rule, the flag it may set beside `FENCE` (a mask), the stage whose end opens it
(R604; 0 for S0), and which payload lengths it allows, given its parameter bytes. -/
structure OpSpec where
  rule : CtxRule
  flags : Nat
  stage : Nat
  len : List Byte → Nat → Bool

def exactly (k : Nat) (_ : List Byte) (n : Nat) : Bool := decide (n = k)
def atMost (k : Nat) (_ : List Byte) (n : Nat) : Bool := decide (n ≤ k)

/-- The opcode catalogue (R591, R604). Group 0x04 opens by its own rows; CSR commands open by block (R650). -/
def opSpec (op : Nat) : Option OpSpec :=
  match op with
  | 0x0001 => some ⟨.either, 0, 0, exactly 0⟩
  | 0x0002 => some ⟨.either, 0, 0, exactly 0⟩
  | 0x0003 => some ⟨.either, 0, 1, exactly 0⟩
  | 0x0004 => some ⟨.either, 0, 1, fun p n => let k := leAt p 4 2; decide (1 ≤ k) && decide (k ≤ 1024) && decide (n = 4 * k)⟩
  | 0x0005 => some ⟨.either, 0, 1, fun p n => let k := leAt p 4 2; decide (1 ≤ k) && decide (k ≤ 4096) && decide (n = 0)⟩
  | 0x0101 => some ⟨.required, 16, 2, exactly 16⟩
  | 0x0102 => some ⟨.required, 0, 2, exactly 8⟩
  | 0x0103 => some ⟨.required, 0, 2, exactly 32⟩
  | 0x0104 => some ⟨.required, 0, 2, exactly 0⟩
  | 0x0201 => some ⟨.either, 0, 2, exactly 48⟩
  | 0x0202 => some ⟨.required, 0, 2, exactly 0⟩
  | 0x0203 => some ⟨.required, 0, 2, fun p n => let k := leAt p 2 2; decide (1 ≤ k) && decide (n = 64 * k)⟩
  | 0x0204 => some ⟨.required, 0, 2, atMost 1048624⟩
  | 0x0205 => some ⟨.required, 0, 2, exactly 0⟩
  | 0x0206 => some ⟨.required, 0, 2, exactly 0⟩
  | 0x0207 => some ⟨.required, 0, 2, exactly 0⟩
  | 0x0208 => some ⟨.required, 0, 2, atMost 16777216⟩
  | 0x0301 => some ⟨.required, 2, 2, exactly 0⟩
  | 0x0302 => some ⟨.required, 0, 2, exactly 0⟩
  | 0x0303 => some ⟨.required, 0, 2, exactly 0⟩
  | 0x0304 => some ⟨.required, 0, 2, atMost (32 + 32 * 4096)⟩
  | 0x0401 => some ⟨.none, 0, 3, exactly 0⟩
  | 0x0402 => some ⟨.none, 0, 4, atMost (0x1340 + 32 * 256)⟩
  | 0x0403 => some ⟨.none, 32, 3, fun p n => let k := leAt p 1 1; decide (k ≤ 64) && decide (n = 8 + 4 * k)⟩
  | 0x0404 => some ⟨.none, 0, 3, fun p n => let k := leAt p 0 1; decide (k ≤ 32) && decide (n = 4 * k)⟩
  | 0x0405 => some ⟨.none, 0, 3, exactly 0⟩
  | 0x0501 => some ⟨.either, 0, 1, atMost 4096⟩
  | 0x0502 => some ⟨.required, 0, 2, fun p n => match leAt p 0 1 with
      | 0 => decide (n = 32) | 1 => decide (n = 204) | 2 => decide (n = 0) | _ => false⟩
  | 0x0503 => some ⟨.none, 0, 1, exactly 0⟩
  | 0x0504 => some ⟨.none, 0, 2, exactly 0⟩
  | 0x0505 => some ⟨.none, 0, 1, exactly 196⟩
  | 0x0506 => some ⟨.none, 12, 1, atMost 16777216⟩
  | 0x0601 => some ⟨.required, 0, 2, fun _ n => decide (32 ≤ n) && decide (n % 16 = 0) && decide (n ≤ 32 + 16 * 64)⟩
  | 0x0602 => some ⟨.required, 0, 2, exactly 0⟩
  | 0x0603 => some ⟨.required, 0, 2, exactly 0⟩
  | 0x0701 => some ⟨.either, 64, 2, exactly 0⟩
  | 0x0702 => some ⟨.either, 0, 2, exactly 0⟩
  | 0x0703 => some ⟨.required, 0, 2, exactly 0⟩
  | 0x0704 => some ⟨.required, 0, 2, exactly 0⟩
  | 0x0705 => some ⟨.none, 0, 2, fun p n => if leAt p 0 1 = 0 then decide (n = 0) else decide (n = 0) || decide (n = 132)⟩
  | 0x0801 => some ⟨.either, 0, 1, exactly 4⟩
  | 0x0802 => some ⟨.either, 0, 0, exactly 0⟩
  | 0x0901 => some ⟨.either, 0, 0, exactly 0⟩
  | _ => none

/-! ### Replies -/

/-- Whether the data lanes carry packets (R572, R599). -/
def Mach.dataUp (m : Mach) : Bool := decide (2 ≤ m.rdF Reg.SWITE_STATUS Fld.SWITE_STATUS_STATE)

/-- A packet that travels under the session counts in its direction's nonce (R543). -/
def Mach.countPacket (m : Mach) (lane : Lane) (out : Bool) : Mach :=
  match m.cairn.session with
  | none => m
  | some s =>
    if lane = .data ∧ s.finished then
      let t : Session := if out then { s with countM2h := s.countM2h + 1 } else { s with countH2m := s.countH2m + 1 }
      { m with cairn := { m.cairn with session := some t } }
    else m

/-- A reply's bytes (R578). -/
def Reply.bytes (r : Reply) : List Byte :=
  leBytes r.opcode 2 ++ leBytes r.tag 2 ++ leBytes r.status 1 ++ leBytes r.ctx 1 ++ leBytes (b2n r.final + 2 * b2n r.event + 4 * b2n r.dup) 1 ++ [0] ++
    leBytes r.detail 4 ++ leBytes r.data.length 4 ++ r.data

/-- What travels of a packet under a session: its header, the encrypted data and the tag (R543, R579). (DESIGN CHOICE, log entry 13.) -/
def sealed (s : Option Session) (l : List Byte) : List Byte :=
  match s with
  | none => l
  | some s => if s.finished then l.take 16 ++ (List.range (l.length - 16 + 16)).map (Config.cipherByte s.generation s.countM2h) else l

/-- A packet waits to be sent on the data lanes. -/
def Mach.enqueue (m : Mach) (cls kind : Nat) (l : List Byte) : Mach :=
  { m with swite := { m.swite with outq := m.swite.outq ++ [{ cls := cls, kind := kind, begun := false, rest := sealed m.cairn.session l }] } }

/-- Sending a reply; while the data link is down a data-lane reply waits (R572). -/
def Mach.send (m : Mach) (r : Reply) : Mach :=
  if r.lane = .mgmt then { m with swite := { m.swite with replies := m.swite.replies ++ [r] } }
  else if m.dataUp then
    (({ m with swite := { m.swite with replies := m.swite.replies ++ [r] } } : Mach).enqueue r.cls 0 r.bytes).countPacket r.lane true
  else { m with swite := { m.swite with held := m.swite.held ++ [r] } }

/-- A reply to a command of a class. -/
def replyOf (cls : Nat) (lane : Lane) (ctx tag op status detail : Nat) (data : List Byte) (final : Bool) : Reply :=
  { lane := lane, opcode := op, tag := tag, status := status, ctx := ctx, final := final, event := false, dup := false, cls := cls,
    detail := detail, data := data }

/-- The final reply to a command that begins and ends in one step. -/
def Mach.answer (m : Mach) (h : Hdr) (op status : Nat) (detail : Nat := 0) (data : List Byte := []) : Mach :=
  m.send (replyOf h.prio h.lane h.ctx h.tag op status detail data true)

def Mach.setOutst (m : Mach) (l : List Outst) : Mach :=
  { m with swite := { m.swite with outstanding := l } }

/-- A command that stays without a final reply for now (R584). -/
def Mach.begin (m : Mach) (h : Hdr) (op : Nat) : Mach :=
  m.setOutst (m.swite.outstanding ++ [{ lane := h.lane, ctx := h.ctx, tag := h.tag, opcode := op, prio := h.prio }])

/-- Its first reply, ACCEPTED (R584). -/
def Mach.accept (m : Mach) (h : Hdr) (op : Nat) : Mach :=
  (m.begin h op).send (replyOf h.prio h.lane h.ctx h.tag op St.accepted 0 [] false)

def Outst.isFor (o : Outst) (lane : Lane) (ctx tag op : Nat) : Bool :=
  decide (o.lane = lane) && decide (o.ctx = ctx) && decide (o.tag = tag) && decide (o.opcode = op)

/-- The class of a command that has begun. -/
def Mach.classOf (m : Mach) (lane : Lane) (ctx tag op : Nat) : Nat :=
  (m.swite.outstanding.find? (fun o => o.isFor lane ctx tag op)).elim 0 (fun o => o.prio)

/-- The final reply of a command that had begun earlier. -/
def Mach.finish (m : Mach) (lane : Lane) (ctx tag op status : Nat) (detail : Nat := 0) (data : List Byte := []) : Mach :=
  (m.setOutst (m.swite.outstanding.filter (fun o => !o.isFor lane ctx tag op))).send
    (replyOf (m.classOf lane ctx tag op) lane ctx tag op status detail data true)

/-! ### Events (R587) -/

namespace Ev
def port : Nat := 0
def optics : Nat := 1
def thermal : Nat := 2
def power : Nat := 3
def step : Nat := 4
def memory : Nat := 5
end Ev

/-- Something of an event kind has happened: it waits for EVENT_SEND, merged with one that already waits. -/
def Mach.event (m : Mach) (kind status detail : Nat) : Mach :=
  if bitOf (m.rdF Reg.SWITE_EVENT_MASK Fld.SWITE_EVENT_MASK_KINDS) kind then
    (if m.swite.events.any (fun e => decide (e.1 = kind)) then m
     else { m with swite := { m.swite with events := m.swite.events ++ [(kind, status, detail)] } })
  else m

/-! ### Admission of a host command -/

/-- What becomes of a command packet before its own rule is asked. -/
inductive Verdict where
  | discard | refuse (status : Nat) (dup : Bool) (dropped : Nat) | wait | go
  deriving DecidableEq, Repr

def Packet.opcode (p : Packet) : Nat := leAt p.bytes 0 2
def Packet.tag (p : Packet) : Nat := leAt p.bytes 8 2
def Packet.ctx (p : Packet) : Nat := leAt p.bytes 10 1
def Packet.isFor (p : Packet) (op : Nat) (h : Hdr) : Bool :=
  decide (p.lane = h.lane) && decide (p.opcode = op) && decide (p.tag = h.tag) && decide (p.ctx = h.ctx)
def Packet.fence (p : Packet) : Bool := bitOf (leAt p.bytes 2 2) 0

/-- The packets whose headers have been accepted and whose commands have not begun. -/
def Mach.inFlight (m : Mach) : List Packet :=
  (m.swite.arriving ++ m.swite.arrived).filter (fun p => p.accepted)

/-- Whether a header names an accepted packet that has arrived whole. -/
def Mach.hasArrived (m : Mach) (op : Nat) (h : Hdr) : Bool :=
  m.swite.arrived.any (fun p => p.isFor op h)

/-- That packet taken up. -/
def Mach.takeArrived (m : Mach) (op : Nat) (h : Hdr) : Mach :=
  { m with swite := { m.swite with arrived := m.swite.arrived.filter (fun p => !p.isFor op h) } }

/-- How many commands of a CONTEXT value have no final reply. -/
def Mach.countOf (m : Mach) (c : Nat) : Nat :=
  (m.swite.outstanding.filter (fun o => decide (o.ctx = c))).length + (m.inFlight.filter (fun p => decide (p.ctx = c))).length

/-- Whether a tag is held by a command of the same CONTEXT without a final reply. -/
def Mach.tagHeld (m : Mach) (c t : Nat) : Bool :=
  m.swite.outstanding.any (fun o => decide (o.ctx = c) && decide (o.tag = t)) ||
  m.inFlight.any (fun p => decide (p.ctx = c) && decide (p.tag = t))

/-- The header checks of R577, in its order. -/
def Mach.headerCheck (m : Mach) (op : Nat) (h : Hdr) (param : List Byte) : Option (Nat × Bool) :=
  match opSpec op with
  | none => some (St.badOpcode, false)
  | some o =>
    if h.rsv || decide (8 ≤ h.prio) || decide (h.tag = 0xFFFF) || decide (h.flags / 2 * 2 &&& (127 - o.flags) ≠ 0) ||
        decide (128 ≤ h.flags) || !o.len param h.len || (decide (h.lane = .mgmt) && decide (4160 < 32 + h.len)) then
      some (St.badParam, false)
    else
      let exists_ : Bool := decide (h.ctx < 16) && (m.ctx h.ctx).isSome
      let ctxOk : Bool := match o.rule with
        | .required => exists_
        | .none => decide (h.ctx = 0xFF)
        | .either => decide (h.ctx = 0xFF) || exists_ || (decide (op = Op.contextCreate) && decide (h.ctx < 16))
      if !ctxOk then some (St.badParam, false)
      else if m.tagHeld h.ctx h.tag then some (St.badParam, true)
      else if 256 ≤ m.countOf h.ctx then some (St.busy, false)
      else none

/-- The restrictions of trust, recovery, clearing, start stage and session on a command (R530, R541, R542, R544, R604). (DEDUCED, log entry 9.) -/
def Mach.restricted (m : Mach) (op : Nat) (h : Hdr) : Option Nat :=
  let s := (opSpec op).map (fun o => o.stage)
  if h.lane = .mgmt ∧ m.trust = 2 ∧ op ≠ Op.hello ∧ op ≠ Op.identify ∧ op ≠ Op.thermalStatus ∧ op ≠ Op.reset ∧ op ≠ Op.spdmMsg
  then some St.notPermitted
  else if h.lane = .mgmt ∧ op = Op.spdmMsg ∧ m.rdF Reg.CAIRN_POLICY Fld.CAIRN_POLICY_MGMT_SPDM = 0 then some St.notPermitted
  else if m.recovery then
    (if op = Op.hello ∨ op = Op.identify ∨ op = Op.fwUpdate ∨ op = Op.reset then none else some St.notPermitted)
  else if m.clearing ∧ op ≠ Op.hello ∧ op ≠ Op.identify ∧ op ≠ Op.spdmMsg ∧ op ≠ Op.thermalStatus ∧ op ≠ Op.tenantEnd ∧
      op ≠ Op.reset then some St.busy
  else match s with
    | some 0 => none
    | some k => if (if op = Op.csrRead ∨ op = Op.csrWrite ∨ op = Op.csrReadBlock then m.stageShown else m.stage) ≤ k then some St.busy else none
    | none => none

/-- The packets that arrived before a command's own and have not begun. -/
def Mach.arrivedBefore (m : Mach) (op : Nat) (h : Hdr) : List Packet :=
  if m.swite.arrived.any (fun p => p.isFor op h) then m.swite.arrived.takeWhile (fun p => !p.isFor op h) else m.swite.arrived

/-- Whether a command with `FENCE` still has an earlier command of its CONTEXT without a final reply (R583). -/
def Mach.fenced (m : Mach) (op : Nat) (h : Hdr) : Bool :=
  bitOf h.flags 0 && (m.swite.outstanding.any (fun o => decide (o.ctx = h.ctx)) || (m.arrivedBefore op h).any (fun p => decide (p.ctx = h.ctx)))

/-- Whether another command begins first: one of the same CONTEXT and class, or a fenced one of the same CONTEXT, that arrived before
(R582, R583), or a waiting one of a higher class (R580). -/
def Mach.outOfTurn (m : Mach) (op : Nat) (h : Hdr) : Bool :=
  (m.arrivedBefore op h).any (fun p => decide (p.ctx = h.ctx) && (decide (p.cls = h.prio) || p.fence)) ||
  (decide (h.lane = .data) && m.swite.arrived.any (fun p => decide (p.lane = .data) && decide (h.prio < p.cls) && !p.fence))

/-- Whether the packets of a session are required (R543, R544). -/
def Mach.sessionUp (m : Mach) : Bool := match m.cairn.session with | some s => s.finished | none => false

/-- What becomes of a command's packet. A packet whose header was accepted as it arrived is checked for the reserved bytes
of its payload only; a module whose Cairn
island is off hears nothing (R16). -/
def Mach.verdict (m : Mach) (op : Nat) (h : Hdr) (param : List Byte) : Verdict :=
  if !(m.island cairnIsland).powered then .wait
  else if h.lane = .data ∧ !m.dataUp then .wait
  else if h.lane = .data ∧ m.sessionUp ∧ !h.auth then .discard
  else
    match (if m.hasArrived op h then (if h.rsv then some (St.badParam, false) else none) else m.headerCheck op h param) with
    | some (st, dup) => .refuse st dup (if m.hasArrived op h then 0 else h.len)
    | none =>
      match m.restricted op h with
      | some st => .refuse st false 0
      | none => if m.fenced op h || m.outOfTurn op h then .wait else .go

/-- A host command: discarded, refused, held back, or run. (DESIGN CHOICE, log entry 10.) -/
def Mach.command (m : Mach) (op : Nat) (h : Hdr) (param : List Byte) (body : Mach → Mach) : Mach :=
  match m.verdict op h param with
  | .discard => ((m.addF Reg.CAIRN_COUNTS Fld.CAIRN_COUNTS_SWITE_AUTH_FAIL 1).trouble 8).tally 304 0
  | .refuse st dup dropped =>
    (((m.countPacket h.lane false).takeArrived op h).addF Reg.SWITE_DISCARD_BYTES Fld.SWITE_DISCARD_BYTES_COUNT dropped).send
      { replyOf h.prio h.lane h.ctx h.tag op st 0 [] true with dup := dup }
  | .wait => m
  | .go => body ((m.countPacket h.lane false).takeArrived op h)

end Sys2Proof.Machine
end

