-- ==== Sys2Proof/Machine/StreamOps.lean ====
section
/-!
DEFINITION. Operations over running streams: power grants, a range's registers, what a stop records and discards (R45), the
end of a stream (R43, R44), and the clearing of a range (R40, R205).
-/

namespace Sys2Proof.Machine

/-! ### Power figures (R503, R509 to R512) -/

/-- The voltage in mV that a frequency in kHz needs (R503). -/
def voltageFor (kHz : Nat) : Nat :=
  if kHz ≤ 625000 then 600 else if kHz ≤ 800000 then 630 else if kHz ≤ 1000000 then 680
  else if kHz ≤ 1250000 then 750 else if kHz ≤ 1400000 then 800 else 850

/-- The power factor k(f) of R503. -/
def powerFactor (kHz : Nat) : Rat :=
  ((kHz * voltageFor kHz * voltageFor kHz : Nat) : Rat) / ((1250000 * 750 * 750 : Nat) : Rat)

/-- P_wc in watts (R510). -/
def worstCase (c : Nat) : Rat :=
  match c with
  | 0 => 40 | 1 => 55 | 2 => 110 | 3 => 120 | 4 => 130 | 5 => 95 | 6 => 70 | _ => 140

/-- P_pred (R511). -/
def Mach.predicted (m : Mach) (c : Nat) : Rat :=
  let l := m.treeline.samples.getD c []
  if l.length < 4096 then worstCase c
  else min (worstCase c) (105 / 100 * l.foldl max 0)

/-- How many ranges a mask names. -/
def popcount (mask : Nat) : Nat := (maskBits mask 16).length

/-- The grant of a flow unit at a frequency (R509). -/
def Mach.flowGrant (m : Mach) (c mask kHz : Nat) : Rat := (popcount mask : Rat) * m.predicted c * powerFactor kHz

/-- The power a lockstep unit needs (R512). -/
def lockNeed (c mask kHz : Nat) : Rat := (popcount mask : Rat) * worstCase c * powerFactor kHz

/-- The sum of the flow grants in force. -/
def Mach.flowSum (m : Mach) : Rat :=
  ((m.streams.filter (fun s => s.admitted && !s.lockstep)).map (fun s => s.grant)).sum

/-- What running lockstep units of a context hold of its reservation. -/
def Mach.lockSum (m : Mach) (c : Nat) : Rat :=
  ((m.streams.filter (fun s => s.admitted && s.lockstep && decide (s.ctx = c))).map (fun s => s.grant)).sum

def Mach.reservation (m : Mach) (c : Nat) : Nat := m.rdF (Reg.TREELINE_RESERVE c) Fld.TREELINE_RESERVE_WATTS
def Mach.reservedSum (m : Mach) : Nat := ((List.range 16).map m.reservation).sum

/-- `free` of R508. -/
def Mach.freeW (m : Mach) : Rat := m.treeline.pool - (m.reservedSum : Rat) - m.flowSum

/-- Whole watts of a power figure, as a 16-bit field. (DESIGN CHOICE, log entry 59.) -/
def wattsOf (x : Rat) : Nat := min x.floor.toNat 65535

/-- The budget registers brought up to date (R525, R528). -/
def Mach.showBudget (m : Mach) : Mach :=
  let m := m.wrF Reg.TREELINE_BUDGET Fld.TREELINE_BUDGET_GRANTED_W (wattsOf m.flowSum)
  let m := m.wrF Reg.TREELINE_BUDGET Fld.TREELINE_BUDGET_RESERVED_W m.reservedSum
  let m := m.wrF Reg.TREELINE_BASE Fld.TREELINE_BASE_FREE_W (wattsOf m.freeW)
  m.each (List.range 16) (fun m c => m.wrF (Reg.TREELINE_RESERVE c) Fld.TREELINE_RESERVE_IN_USE_W (wattsOf (m.lockSum c)))

/-- Whether a compute stop or a brown-out is in force, and the status it gives (R683). -/
def Mach.stopStatus (m : Mach) : Option Nat :=
  if m.rdF Reg.TREELINE_STATUS Fld.TREELINE_STATUS_COMPUTE_STOPPED = 1 then some St.thermalLimit
  else if m.rdF Reg.TREELINE_STATUS Fld.TREELINE_STATUS_BROWNOUT = 1 then some St.powerLimit
  else none

/-! ### A range's registers -/

def Mach.rangeState (m : Mach) (n : Nat) : Nat := m.rdF (Reg.RANGE_STREAM_STATUS n) Fld.RANGE_STREAM_STATUS_STATE
def Mach.setRangeState (m : Mach) (n v : Nat) : Mach := m.wrF (Reg.RANGE_STREAM_STATUS n) Fld.RANGE_STREAM_STATUS_STATE v
def Mach.rangeCtx (m : Mach) (n : Nat) : Nat := m.rdF (Reg.RANGE_STREAM_STATUS n) Fld.RANGE_STREAM_STATUS_CONTEXT

/-- Whether a context owns a range. -/
def Mach.owns (m : Mach) (c n : Nat) : Bool := decide (m.rangeState n ≠ 0) && decide (m.rangeCtx n = c) && (m.ctx c).isSome

/-- Whether a range runs a stream, is halted, or is clearing. -/
def Mach.rangeBusy (m : Mach) (n : Nat) : Bool :=
  let s := m.rangeState n
  decide (s = 2) || decide (s = 3) || decide (s = 5) || decide (s = 6)

/-- The four islands of a range (R517). -/
def rangeIslands (n : Nat) : List Nat := [4 * n, 4 * n + 1, 4 * n + 2, 4 * n + 3]

/-- The entries that a tile takes in a queue: two for FP64 (R178). -/
def Tile.weight (t : Tile) : Nat := if t.fmt = .fp64 then 2 else 1

def fullCount (q : TQueue) : Nat := ((q.entries.filter (fun e => e.full)).map (fun e => e.tile.weight)).sum

/-- `QUEUE_FILL` of a range (R81). -/
def queueFill (r : RangeSt) : Word :=
  BitVec.ofNat 32 (fullCount r.aFeed * 2 ^ 20 + fullCount r.bFeed * 2 ^ 16 + fullCount r.drain * 2 ^ 12 +
    fullCount r.store * 2 ^ 8 + fullCount r.screeSpur * 2 ^ 4 + fullCount r.screeCrest)

/-- Every instruction in a range's station sequences, with its station code. -/
def RangeSt.inFlight (r : RangeSt) : List (Nat × Placed) :=
  r.col.map (fun p => (1, p)) ++ r.crest.map (fun p => (2, p)) ++ r.spur.map (fun p => (3, p)) ++
    r.talus.map (fun p => (4, p)) ++ r.scree.map (fun p => (5, p)) ++ r.link.map (fun p => (7, p))

/-- The oldest placed instruction, in stream order, that has not completed (R45). -/
def RangeSt.oldest (r : RangeSt) : Option (Nat × Placed) :=
  r.inFlight.foldl (fun o x => match o with
    | none => some x
    | some y => if x.2.seq < y.2.seq then some x else some y) none

/-- Where a range itself met a stop: its status and cause, the instruction, the repeat, the station and, for a slot miss,
the condition. -/
structure StopAt where
  range : Nat
  status : Nat
  cause : Nat
  instr : Nat
  rep : Nat
  station : Nat
  cond : Nat
  deriving DecidableEq, Repr

/-- What a range records at a stop (R45, R81). -/
def Mach.recordStop (m : Mach) (n status cause instr rep station cond slot : Nat) : Mach :=
  let m := m.wrF (Reg.RANGE_STREAM_STATUS n) Fld.RANGE_STREAM_STATUS_STOP_STATUS status
  let m := m.wrF (Reg.RANGE_STREAM_STATUS n) Fld.RANGE_STREAM_STATUS_STOP_CAUSE cause
  let m := m.wrF (Reg.RANGE_STOP_POSITION n) Fld.RANGE_STOP_POSITION_INSTR_INDEX instr
  let m := m.wrF (Reg.RANGE_STOP_POSITION n) Fld.RANGE_STOP_POSITION_REPEAT_INDEX rep
  let m := m.wrF (Reg.RANGE_STOP_DETAIL n) Fld.RANGE_STOP_DETAIL_STATION station
  let m := m.wrF (Reg.RANGE_STOP_DETAIL n) Fld.RANGE_STOP_DETAIL_CONDITION cond
  m.wr (Reg.RANGE_STOP_SLOT n) (BitVec.ofNat 32 slot)

/-- Accumulators whose contents a stop leaves undefined (R45, R164): free values. -/
def Bank.undefined (draw : Nat) (b : Bank) : Bank :=
  { b with acc := ((List.range 16384).map (fun k => (k, Config.freeValue (draw + k) % 2 ^ 32))).filter (fun e => decide (e.2 ≠ 0)) }

/-- A tile register whose contents a stop leaves undefined (R202): free codes of the tile's format. (DESIGN CHOICE, log entry 41.) -/
def Tile.undefined (draw : Nat) (t : Tile) : Tile :=
  { t with elems := sparseOf 128 128 (fun i j => Config.freeValue (draw + 128 * i + j) % 2 ^ t.fmt.width) }

/-- The tile registers that results under way would have written: undefined after a stop (R28, R202). -/
def undefinedTiles (draw : Nat) (ws : List RegWrite) (l : List (Nat × Tile)) : List (Nat × Tile) :=
  (ws.foldl (fun a w => (a.1 + 16384, Sparse.put (fun _ => Tile.zeroed) a.2 w.treg (Tile.undefined a.1 w.tile))) (draw, l)).2

/-- What a stop does to a range's hidden state (R45, R164, R202): sequences, signals, marks and queued tiles go, banks and
results under way become undefined, and tile registers stay. -/
def RangeSt.stopped (r : RangeSt) (draw : Nat) : RangeSt :=
  { r with stream := none, pc := 0, loops := [], fence := none, ctrlWait := none, ended := false, col := [], crest := [],
           spur := [], talus := [], scree := [], link := [], signals := [], aFeed := .reset, bFeed := .reset,
           drain := .reset, store := .reset, screeSpur := .reset, screeCrest := .reset,
           bank0 := r.bank0.undefined draw, bank1 := r.bank1.undefined (draw + 16384), statA := none, statB := none,
           tiles := undefinedTiles (draw + 32768) r.regWrites r.tiles, drainUnit := .reset, regWrites := [], staged := [],
           walks := [], hostReps := [], hostData := [], passes := [], marks := [], halted := false,
           tlbCol := r.tlbCol.map (fun e => { e with locked := false }),
           tlbTalus := r.tlbTalus.map (fun e => { e with locked := false }),
           tlbScree := r.tlbScree.map (fun e => { e with locked := false }) }

/-- How many draws one range's stop takes. -/
def stopDraws (r : RangeSt) : Nat := 32768 + 16384 * r.regWrites.length

/-- Whether a later entry of a serving pass of the range's context still uses the range (R493). -/
def Mach.passKeeps (m : Mach) (n : Nat) : Bool :=
  (m.ctx (m.rangeCtx n)).elim false (fun x => x.pass.elim false (fun p =>
    p.failed.isNone && ((x.tables.find? (fun t => decide (t.1 = p.table))).elim false (fun t =>
      (t.2.entries.zip p.entries).any (fun e => decide (e.2 = .waiting) && e.1.lockstep && bitOf e.1.mask n)))))

/-- A range's islands stop their clocks and return to Treeline (R78, R505). -/
def Mach.unpin (m : Mach) (n : Nat) : Mach :=
  (m.each (rangeIslands n) (fun m i => m.updIsland i (fun x => { x with clocked := false, pinned := false }))).wrF
    (Reg.RANGE_STREAM_STATUS n) Fld.RANGE_STREAM_STATUS_LOCKSTEP_PIN 0

/-- The same at the end of a stream: islands that a later entry of the pass uses stay at their frequency (R493). -/
def Mach.releaseIslands (m : Mach) (n : Nat) : Mach := if m.passKeeps n then m else m.unpin n

/-- The norm accumulator of a range becomes undefined where a repeat that adds to it was under way (R202). -/
def Mach.undefinedNorm (m : Mach) (n : Nat) : Mach :=
  if (m.range n).spur.any (fun p => decide (p.done < p.begun)) && decide ((m.range n).kernNorm = 1) then
    { (m.wr (Reg.RANGE_SPUR_NORM_ACC_LO n) (BitVec.ofNat 32 m.draw)).wr (Reg.RANGE_SPUR_NORM_ACC_HI n)
        (BitVec.ofNat 32 (m.draw / 2 ^ 32)) with draws := m.draws + 1 }
  else m

/-- One range of a stopping stream. -/
def Mach.stopRange (m : Mach) (s : Stream) (own : List StopAt) (n : Nat) : Mach :=
  let r := m.range n
  let slot := if s.lockstep then s.slot - 1 else 0
  let m := match own.find? (fun o => decide (o.range = n)) with
    | some o => m.recordStop n o.status o.cause o.instr o.rep o.station o.cond (if o.cause = 2 then 0 else slot)
    | none => match r.oldest with
      | some x => m.recordStop n St.streamFault 0x09 x.2.idx x.2.done x.1 0 slot
      | none => m.recordStop n St.streamFault 0x09 0xFFFF 0 0 0 slot
  let m := (m.wr (Reg.RANGE_QUEUE_FILL n) (queueFill r)).setRangeState n 4
  let m := { m.undefinedNorm n with draws := m.draws + 1 + stopDraws r }
  let m := m.setRange n (r.stopped m.draws)
  let m := m.wrF (Reg.WAYMARK_POSITION_HI n) Fld.WAYMARK_POSITION_HI_HALTED 0
  (m.wrF (Reg.WAYMARK_POSITION_HI n) Fld.WAYMARK_POSITION_HI_ARMED 0).releaseIslands n

/-- The stop record of R592 for a range. -/
def Mach.stopRecord (m : Mach) (n : Nat) : List Byte :=
  leBytes n 1 ++ leBytes (m.rdF (Reg.RANGE_STOP_DETAIL n) Fld.RANGE_STOP_DETAIL_STATION) 1 ++
  leBytes (m.rdF (Reg.RANGE_STREAM_STATUS n) Fld.RANGE_STREAM_STATUS_STOP_CAUSE) 1 ++
  leBytes (m.rdF (Reg.RANGE_STOP_DETAIL n) Fld.RANGE_STOP_DETAIL_CONDITION) 1 ++
  leBytes (m.rdF (Reg.RANGE_STOP_POSITION n) Fld.RANGE_STOP_POSITION_INSTR_INDEX) 2 ++
  leBytes (m.rdF (Reg.RANGE_STOP_POSITION n) Fld.RANGE_STOP_POSITION_REPEAT_INDEX) 2 ++
  leBytes (m.rd (Reg.RANGE_STOP_SLOT n)).toNat 4 ++ leBytes 0 4

/-- An entry of a context's running table has ended with a status (R311): the entry of the pass (base 4096) or of a step's
attempt; SCHEDULE_ENTRY_END acts on it. -/
def overAt (l : List EntrySt) (i status : Nat) : List EntrySt := l.set i (.over status)

def Mach.entryOver (m : Mach) (c i status : Nat) : Mach :=
  m.updCtx c (fun x =>
    if 8192 ≤ i then { x with next := x.next.map (fun s => { s with entries := overAt s.entries (i - 8192) status }) }
    else if 4096 ≤ i then { x with pass := x.pass.map (fun p => { p with entries := overAt p.entries (i - 4096) status }) }
    else { x with step := x.step.map (fun s => { s with entries := overAt s.entries i status }) })

/-- Who hears of a stream's end: the STREAM_START's final reply (R43, R592), or its schedule entry (R311). -/
def Mach.tellStarter (m : Mach) (s : Stream) (status first : Nat) : Mach :=
  match s.starter with
  | .command lane tag =>
    m.finish lane s.ctx tag Op.streamStart status 0 (if status = St.done then [] else m.stopRecord first)
  | .entry i => m.entryOver s.ctx i status

/-- No position is armed on the ranges of a mask. -/
def Mach.disarmRanges (m : Mach) (mask : Nat) : Mach :=
  m.each (maskBits mask 16) (fun m n => m.wrF (Reg.WAYMARK_POSITION_HI n) Fld.WAYMARK_POSITION_HI_ARMED 0)

/-- The arms that a test picks end with a reply, and their positions with them (R638). -/
def Mach.dropArms (m : Mach) (p : ArmSt → Bool) (status detail : Nat) : Mach :=
  let mine := m.arms.filter p
  let m : Mach := { m with arms := m.arms.filter (fun a => !p a) }
  mine.foldl (fun m a => (m.disarmRanges a.ranges).finish a.lane a.ctx a.tag Op.waymarkSet status detail) m

/-- The arms of a stream that ends before every range has halted reply with its status and bit 31 of `DETAIL` (R638). -/
def Mach.endArms (m : Mach) (mask status : Nat) : Mach :=
  m.dropArms (fun a => decide (a.mask &&& mask ≠ 0)) status (2 ^ 31)

/-- The postings of a stream's ranges that have not completed are withdrawn (R438). -/
def Mach.withdraw (m : Mach) (mask : Nat) : Mach :=
  { m with saddle := { m.saddle with posted := m.saddle.posted.filter (fun p => !bitOf mask p.range || decide (p.rep ≤ p.read)) } }

/-- A stream stops with a status; `own` says where each range that met the stop met it (R45, R78, R438). (DEDUCED, log entry 40.) -/
def Mach.stopStream (m : Mach) (id status : Nat) (own : List StopAt) : Mach :=
  match m.stream id with
  | none => m
  | some s =>
    let m := if s.admitted then m.each (maskBits s.mask 16) (fun m n => m.stopRange s own n) else m
    let m := own.foldl (fun m o => if o.status = St.streamFault then m.tally (7 * o.range) 2 else m) m
    let m := if status = St.slotMiss then (match own with | o :: _ => m.tally (7 * o.range) 0 | [] => m) else m
    let m := { m with streams := m.streams.filter (fun t => decide (t.id ≠ id)),
                      treeline := { m.treeline with waiting := m.treeline.waiting.filter (fun w => decide (w.stream ≠ some id)) } }
    let first := match own with | o :: _ => o.range | [] => (maskBits s.mask 16).headD 0
    let m := if s.admitted then (m.withdraw s.mask).endArms s.mask status else m
    (((m.tellStarter s status first).trouble 0).showBudget)

/-- A stop met by no station of its own (a host stop, a power or thermal stop, an abort): each range is named at the
instruction it had reached, with one cause. -/
def Mach.stopAll (m : Mach) (id status cause : Nat) : Mach :=
  match m.stream id with
  | none => m
  | some s => m.stopStream id status ((maskBits s.mask 16).map (fun n =>
      match (m.range n).oldest with
      | some x => { range := n, status := status, cause := cause, instr := x.2.idx, rep := x.2.done, station := x.1, cond := 0 }
      | none => { range := n, status := status, cause := cause, instr := 0xFFFF, rep := 0, station := 0, cond := 0 }))

/-- Every stream that a test picks stops. -/
def Mach.stopStreams (m : Mach) (p : Stream → Bool) (status cause : Nat) : Mach :=
  (m.streams.filter p).foldl (fun m s => m.stopAll s.id status cause) m

/-- A stream ends with DONE (R44, R78): its ranges are idle and keep tile registers and banks. -/
def Mach.endRange (m : Mach) (n : Nat) : Mach :=
  let r := m.range n
  let m := m.recordStop n St.done 0 0 0 0 0 0
  let m := ((m.wr (Reg.RANGE_QUEUE_FILL n) 0).setRangeState n 1).setRange n
    { r with stream := none, pc := 0, loops := [], ended := false, marks := [],
             tlbCol := r.tlbCol.map (fun e => { e with locked := false }),
             tlbTalus := r.tlbTalus.map (fun e => { e with locked := false }),
             tlbScree := r.tlbScree.map (fun e => { e with locked := false }) }
  let m := m.wrF (Reg.WAYMARK_POSITION_HI n) Fld.WAYMARK_POSITION_HI_HALTED 0
  (m.wrF (Reg.WAYMARK_POSITION_HI n) Fld.WAYMARK_POSITION_HI_ARMED 0).releaseIslands n

/-! ### Clearing a range (R40, R205, R252) -/

/-- The range registers that R40, R205 and R252 return to their reset values. -/
def clearedReg (n a : Nat) : Bool :=
  decide (a = Reg.RANGE_QUEUE_FILL n) ||
  (decide (Reg.RANGE_AX_COORD n 0 ≤ a) && decide (a < Reg.RANGE_AX_COORD n 0 + 0x410)) ||
  (match windowOf a with
   | some (.range, k, off) => decide (k = n) && decide (0x0700 ≤ off)
   | _ => false) || decide (a = Reg.RANGE_CREST_BANK_STATUS n)

/-- The zeroing of a range begins: its state and registers are zeroed and it reports CLEARING until RANGE_CLEARED. -/
def Mach.clearRange (m : Mach) (n ctx : Nat) : Mach :=
  let r := m.range n
  let m := { m with csr := Sparse.clear m.csr (clearedReg n) }
  let m := m.setRange n { RangeSt.reset with lastCtx := ctx, streamCount := if r.lastCtx = ctx then r.streamCount else 0 }
  let m := m.wrF (Reg.RANGE_STREAM_STATUS n) Fld.RANGE_STREAM_STATUS_PERM_RANGE 0
  m.setRangeState n 6

end Sys2Proof.Machine
end

