-- ==== Sys2Proof/Machine/CairnOps.lean ====
section
/-!
DEFINITION. Operations that Cairn lends to other blocks: the audit log (R560, R561), the use of a count of a write-limited
setting (R558), and a change of the trust state (R538).
-/

namespace Sys2Proof.Machine

/-- The tick count that a log entry carries: 0 while the timebase is not locked (R560). -/
def Mach.logTime (m : Mach) : Nat :=
  if m.rdF Reg.TRAVERSE_TIMEBASE_STATUS Fld.TRAVERSE_TIMEBASE_STATUS_LOCKED = 1 then m.timebase.ticks.toNat else 0

/-- The first 28 bytes of a log entry. -/
def logBody (seq time event result arg remain : Nat) : List Byte :=
  leBytes seq 4 ++ leBytes time 8 ++ leBytes event 2 ++ leBytes result 1 ++ leBytes 0 1 ++ leBytes arg 8 ++ leBytes remain 4

/-- Appending an entry: the chain head moves, the ring drops its oldest entry when full, and events 0x0001 to 0x0003 also go
to the permanent section (R560, R561). -/
def Mach.log (m : Mach) (event result arg remain : Nat) : Mach :=
  let body := logBody m.cairn.logSeq m.logTime event result arg remain
  let head := sha512 (m.cairn.chain ++ body)
  let entry := body ++ (head.drop 60).reverse
  let full := decide (65536 ≤ m.cairn.log.length)
  let ring := (if full then m.cairn.log.drop 1 else m.cairn.log) ++ [entry]
  let perm := if 1 ≤ event ∧ event ≤ 3 ∧ m.cairn.permanent.length < 160 then m.cairn.permanent ++ [entry] else m.cairn.permanent
  let m := { m with cairn := { m.cairn with log := ring, permanent := perm, logSeq := m.cairn.logSeq + 1, chain := head } }
  if full then m.addF Reg.CAIRN_LOG_STATUS Fld.CAIRN_LOG_STATUS_LOST 1 else m

/-- Causes of a trust-state change, as a log entry names them (R560). -/
inductive TrustCause where
  | command | config | session | reset
  deriving DecidableEq, Repr

def TrustCause.code : TrustCause → Nat
  | .command => 0 | .config => 1 | .session => 2 | .reset => 3

/-- A move of the trust state, logged as 0x0010 (R538, R560); no move, no entry. -/
def Mach.setTrust (m : Mach) (new : Nat) (cause : TrustCause) : Mach :=
  let old := m.trust
  if old = new then m
  else (m.wrF Reg.CAIRN_STATE Fld.CAIRN_STATE_TRUST new).log 0x0010 St.done (old + 256 * new + 65536 * cause.code) 0

/-! ### Trimmers (R374, R388) -/

def trimField (k : Nat) : Fld := if k % 2 = 0 then Fld.CIRQUE_TRIM_REMAIN_EVEN else Fld.CIRQUE_TRIM_REMAIN_ODD

/-- The counts left of an interferometer. -/
def Mach.trimLeft (m : Mach) (k : Nat) : Nat := m.rdF (Reg.CIRQUE_TRIM_REMAIN (k / 2)) (trimField k)

/-- One pulse of a trimmer: it uses one count and is logged (R371, R374); `event` is 0x0004, or 0x0005 for a restoration. -/
def Mach.pulse (m : Mach) (k attempt event : Nat) : Mach :=
  let left := m.trimLeft k - 1
  (m.wrF (Reg.CIRQUE_TRIM_REMAIN (k / 2)) (trimField k) left).log event St.done
    (k + 65536 * attempt + 16777216 * (m.rd Reg.CIRQUE_DARK_MAP_VERSION).toNat) left

end Sys2Proof.Machine
end

