-- ==== Sys2Proof/Machine/Optics.lean ====
section
/-!
DEFINITION. Cirque and the laser sources (10_cirque_optics): the meanings of the laser, ring, circuit-set and trimmer
commands and events.
-/

namespace Sys2Proof.Machine

/-! ### Ports and lanes (R389, R418, R425) -/

def Mach.portState (m : Mach) (p : Nat) : Nat := m.rdF (Reg.PORT_STATUS p) Fld.PORT_STATUS_STATE
def Mach.setPortState (m : Mach) (p v : Nat) : Mach := m.wrF (Reg.PORT_STATUS p) Fld.PORT_STATUS_STATE v

/-- The plan's entry of a port. -/
def Mach.portEntry (m : Mach) (p : Nat) : PortEntry := match m.plan with | some x => x.port p | none => PortEntry.none

/-- Whether a ring of a port is in service. -/
def Mach.inService (m : Mach) (rx : Bool) (p n : Nat) : Bool :=
  decide (bitsOf (m.rd (Reg.CIRQUE_RING_STATE p)).toNat ((if rx then 16 else 0) + 2 * n) 2 ≠ 2)

/-- A lane set, as a mask: in transmission the lanes whose ring is in service; in reception also those that are neither being
retrained nor left out (R389, R419). -/
def Mach.laneSet (m : Mach) (rx : Bool) (p : Nat) : Nat :=
  ((List.range 8).map (fun n =>
    if m.inService rx p n && (!rx || (!(m.port p).lanesOut.contains n && !(m.port p).lanesDown.any (fun x => decide (x.1 = n))))
    then 2 ^ n else 0)).sum

/-- The lane sets of a port as `STATUS` shows them, and since when one of them has been below `LANE_MIN`. A port that is unused, in
training or down has none. -/
def Mach.showLanes (m : Mach) (p : Nat) : Mach :=
  let s := m.portState p
  let on := decide (s ≠ 0) && decide (s ≠ 1) && decide (s ≠ 6)
  let tx := if on then m.laneSet false p else 0
  let rx := if on then m.laneSet true p else 0
  let min_ := (m.portEntry p).laneMin
  let low := on && (decide ((maskBits tx 8).length < min_) || decide ((maskBits rx 8).length < min_))
  let m := (m.wrF (Reg.PORT_STATUS p) Fld.PORT_STATUS_TX_LANES tx).wrF (Reg.PORT_STATUS p) Fld.PORT_STATUS_RX_LANES rx
  m.updPort p (fun x => { x with lowSince := if low then some (x.lowSince.getD m.clk) else none })

/-- A port trains its lanes before discovery, and its link begins afresh (R409). -/
def Mach.trainPort (m : Mach) (p : Nat) : Mach :=
  let m := m.updPort p (fun x => { x with
    trained := false, discovered := false, matched := false, lightAt := m.clk, replay := [], txq := [], waitReplay := false, others := [],
    credits := [0, 0, 0, 0], txSeq := 0, rxExpect := 0, rxLast := 0xFFFFFF, lanesDown := [], lanesOut := [] })
  ((m.wr (Reg.PORT_REPLAY_FILL p) 0).setPortState p 1).showLanes p

/-! ### Rings -/

def ringField (r : Ring) : Fld := ⟨(if r.rx then 16 else 0) + 2 * r.line.val, 2⟩

/-- A ring's code in `RING_STATE` (R387): 0 acquiring, 1 locked, 2 out of service, 3 parked. -/
def Mach.ringCode (m : Mach) (r : Ring) : Nat := m.rdF (Reg.CIRQUE_RING_STATE r.port) (ringField r)
def Mach.setRingCode (m : Mach) (r : Ring) (v : Nat) : Mach := m.wrF (Reg.CIRQUE_RING_STATE r.port) (ringField r) v

def RingSt.fresh (r : Ring) : RingSt :=
  { rx := r.rx, port := r.port, line := r.line, swept := false, attempts := 0, heater := 0, kLine := 0 }

def RingSt.isFor (x : RingSt) (r : Ring) : Bool :=
  decide (x.rx = r.rx) && decide (x.port = r.port.val) && decide (x.line = r.line.val)

def Mach.ring (m : Mach) (r : Ring) : RingSt := (m.optics.rings.find? (fun x => x.isFor r)).getD (RingSt.fresh r)
def Mach.setRing (m : Mach) (r : Ring) (x : RingSt) : Mach :=
  { m with optics := { m.optics with rings := x :: m.optics.rings.filter (fun y => !y.isFor r) } }

/-- The sixteen rings of a port, and all 512. -/
def ringsOf (p : Fin 32) : List Ring :=
  (List.finRange 8).flatMap (fun n => [{ rx := false, port := p, line := n }, { rx := true, port := p, line := n }])
def allRings : List Ring := (List.finRange 32).flatMap ringsOf

/-- `RINGS_OUT` counts the rings out of service (R380). -/
def Mach.countRings (m : Mach) : Mach :=
  m.wrF Reg.CIRQUE_STATUS Fld.CIRQUE_STATUS_RINGS_OUT (allRings.filter (fun r => decide (m.ringCode r = 2))).length

/-- Reporting a condition of a port through LINK_STATUS (R359, R410, R412, R553): what LINK_STATUS returns, and its event. -/
def Mach.report (m : Mach) (p status detail kind evDetail : Nat) : Mach :=
  (m.updPort p (fun x => { x with reported := (status, detail) })).event kind status evDetail

/-- Cirque's stage (R380). -/
def Mach.opticsStage (m : Mach) : Nat := m.rdF Reg.CIRQUE_STATUS Fld.CIRQUE_STATUS_STAGE

/-- When every ring is locked, out of service or parked during ring lock, calibration begins (R375). -/
def Mach.ringsSettled (m : Mach) : Mach :=
  if m.opticsStage = 2 ∧ !allRings.any (fun r => decide (m.ringCode r = 0)) then
    m.wrF Reg.CIRQUE_STATUS Fld.CIRQUE_STATUS_STAGE 3 else m

/-- A ring that acquires afresh with a full sweep (R357, R359). -/
def Mach.resweep (m : Mach) (r : Ring) : Mach := (m.setRing r (RingSt.fresh r)).setRingCode r 0

/-- FULL_SWEEP_DONE (R357): the monitor has recorded every resonance, lowest heater first; the ring starts from the one whose
place matches its line, the highest frequency coming first. (DESIGN CHOICE, log entry 52.) -/
def fullSweep (r : Ring) (resonances : List Nat) (kLine : Nat) (m : Mach) : Mach :=
  m.when (decide (m.ringCode r = 0) && !(m.ring r).swept && decide (7 - r.line.val < resonances.length)) (fun m =>
    m.setRing r { RingSt.fresh r with swept := true, heater := resonances.getD (7 - r.line.val) 0, kLine := kLine })

/-- A ring leaves service after its third failed attempt (R356, R359). -/
def Mach.ringOut (m : Mach) (r : Ring) : Mach :=
  let d := r.port.val + 256 * r.line.val + 2048 * b2n r.rx
  ((((m.setRingCode r 2).countRings).trouble 3).tally (253 + r.port.val / 4) 2).report r.port St.ringLockFail d Ev.optics d |>.showLanes r.port

/-- TONE_CHECK_DONE (R355, R356, R358): the ring locks on its own line, steps toward it, or leaves service. -/
def toneCheck (r : Ring) (found : Option (Fin 8)) (heater : Int) (m : Mach) : Mach :=
  m.when (decide (m.ringCode r = 0) && (m.ring r).swept) (fun m =>
    let x := m.ring r
    if found = some r.line then ((m.setRing r { x with attempts := 0, heater := heater }).setRingCode r 1).ringsSettled
    else
      let m := if found.isSome then
          (m.addF Reg.CIRQUE_RING_COUNTS Fld.CIRQUE_RING_COUNTS_WRONG_LINE 1).tally (253 + r.port.val / 4) 0 else m
      if x.attempts + 1 = 3 then ((m.setRing r { x with attempts := 3 }).ringOut r).ringsSettled
      else
        let h : Int := match found with
          | none => heater + x.kLine / 2
          | some f => heater + ((f.val : Int) - (r.line.val : Int)) * x.kLine
        m.setRing r { x with attempts := x.attempts + 1, heater := h })

/-- RING_LOCK_LOSS (R358): a locked ring starts a warm lock from its last locked heater value, corrected for temperature. -/
def ringLoss (r : Ring) (heater : Int) (m : Mach) : Mach :=
  m.when (decide (m.ringCode r = 1)) (fun m =>
    (((m.setRing r { m.ring r with attempts := 0, heater := heater }).setRingCode r 0).addF
      Reg.CIRQUE_RING_COUNTS Fld.CIRQUE_RING_COUNTS_RELOCK 1).tally (253 + r.port.val / 4) 1)

/-! ### Laser sources -/

def Mach.activeBay (m : Mach) : Nat := m.rdF Reg.CIRQUE_STATUS Fld.CIRQUE_STATUS_ACTIVE_BAY
def Mach.standbyReady (m : Mach) : Bool := decide (m.rdF Reg.CIRQUE_STATUS Fld.CIRQUE_STATUS_STANDBY_READY = 1)
def Mach.lsu (m : Mach) (b : Nat) (f : Fld) : Bool := decide (m.rdF (Reg.CIRQUE_LSU_STATUS b) f = 1)

/-- The bay selector starts toward the standby unit (R351, R352). -/
def Mach.failover (m : Mach) : Mach :=
  if m.standbyReady ∧ m.optics.failing = none then { m with optics := { m.optics with failing := some m.clk } } else m

/-- A loss at the active unit: an automatic switch when `AUTO` is 1 and the standby unit is ready; otherwise the light is
gone (R351). -/
def Mach.lightLost (m : Mach) : Mach :=
  if m.rdF Reg.CIRQUE_LSU_CTL Fld.CIRQUE_LSU_CTL_AUTO = 1 ∧ m.standbyReady then m.failover
  else { m with optics := { m.optics with outputsLit := false } }

/-- LSU_INSERTED (R353, R382, R383): the unit is present and enabled; what it says of itself comes with it. -/
def lsuInsert (b : Fin 2) (hours lineLow toneBad : Nat) (m : Mach) : Mach :=
  m.when (!m.lsu b Fld.CIRQUE_LSU_STATUS_PRESENT) (fun m =>
    let worn := decide (43800 < hours) || decide (lineLow % 256 ≠ 0)
    let w : Nat := 2 ^ 31 + b2n (decide (1 ≤ m.stage)) * 2 ^ 30 + b2n worn * 2 ^ 27 + lineLow % 256 * 65536 + toneBad % 256 * 256
    (m.wr (Reg.CIRQUE_LSU_STATUS b) (BitVec.ofNat 32 w)).wr (Reg.CIRQUE_LSU_HOURS b) (BitVec.ofNat 32 hours))

/-- LSU_STABLE (R349, R375): during LSU warm-up the active bay is chosen and ring lock begins. -/
def lsuStable (b : Fin 2) (m : Mach) : Mach :=
  m.when (m.lsu b Fld.CIRQUE_LSU_STATUS_PRESENT && m.lsu b Fld.CIRQUE_LSU_STATUS_ENABLED) (fun m =>
    let m := m.wrF (Reg.CIRQUE_LSU_STATUS b) Fld.CIRQUE_LSU_STATUS_STABLE 1
    if m.opticsStage = 1 then
      let prefer := m.rdF Reg.CIRQUE_LSU_CTL Fld.CIRQUE_LSU_CTL_PREFER
      let act := if m.lsu prefer Fld.CIRQUE_LSU_STATUS_STABLE then prefer else b.val
      let m := m.wrF Reg.CIRQUE_STATUS Fld.CIRQUE_STATUS_ACTIVE_BAY act
      let m := (m.wrF (Reg.CIRQUE_LSU_STATUS act) Fld.CIRQUE_LSU_STATUS_ALIGNED 1).wrF Reg.CIRQUE_STATUS Fld.CIRQUE_STATUS_STAGE 2
      allRings.foldl (fun m r => m.resweep r) { m with optics := { m.optics with outputsLit := true } }
    else m)

/-- STANDBY_ALIGNED (R350). -/
def standbyAligned (m : Mach) : Mach :=
  let b := 1 - m.activeBay
  m.when (m.lsu b Fld.CIRQUE_LSU_STATUS_PRESENT && m.lsu b Fld.CIRQUE_LSU_STATUS_STABLE &&
      !m.lsu b Fld.CIRQUE_LSU_STATUS_FAULT && decide (2 ≤ m.opticsStage) && decide (m.opticsStage ≤ 4)) (fun m =>
    (m.wrF (Reg.CIRQUE_LSU_STATUS b) Fld.CIRQUE_LSU_STATUS_ALIGNED 1).wrF
      Reg.CIRQUE_STATUS Fld.CIRQUE_STATUS_STANDBY_READY 1)

/-- A power in units of 0.01 dBm as a register holds it (R384). -/
def powerCode (x : Int) : Nat := wrapNat x 16

/-- LINE_LOSS (R351, R352): an active line has stayed below +22.0 dBm for 1 µs. -/
def lineLoss (line : Fin 8) (power : Int) (m : Mach) : Mach :=
  let b := m.activeBay
  m.when (decide (power < 2200) && m.lsu b Fld.CIRQUE_LSU_STATUS_PRESENT && decide (2 ≤ m.opticsStage)) (fun m =>
    let m := m.wrF (Reg.CIRQUE_LSU_LINE_POWER (8 * b + line.val)) Fld.CIRQUE_LSU_LINE_POWER_POWER (powerCode power)
    let m := m.orR (Reg.CIRQUE_LSU_STATUS b) (2 ^ (16 + line.val))
    (m.wrF (Reg.CIRQUE_LSU_STATUS b) Fld.CIRQUE_LSU_STATUS_WORN 1).lightLost)

/-- LSU_FAULT (R351). -/
def lsuFault (b : Fin 2) (m : Mach) : Mach :=
  m.when (m.lsu b Fld.CIRQUE_LSU_STATUS_PRESENT) (fun m =>
    let m := m.wrF (Reg.CIRQUE_LSU_STATUS b) Fld.CIRQUE_LSU_STATUS_FAULT 1
    if m.activeBay = b.val then m.lightLost
    else (m.wrF Reg.CIRQUE_STATUS Fld.CIRQUE_STATUS_STANDBY_READY 0).wrF
      (Reg.CIRQUE_LSU_STATUS b) Fld.CIRQUE_LSU_STATUS_ALIGNED 0)

/-- LSU_REMOVED (R351, R383): the bay is empty. -/
def lsuRemoved (b : Fin 2) (m : Mach) : Mach :=
  m.when (m.lsu b Fld.CIRQUE_LSU_STATUS_PRESENT) (fun m =>
    let m := (m.wr (Reg.CIRQUE_LSU_STATUS b) 0).wr (Reg.CIRQUE_LSU_HOURS b) 0
    let m := m.each (List.range 8) (fun m n =>
      m.wrF (Reg.CIRQUE_LSU_LINE_POWER (8 * b.val + n)) Fld.CIRQUE_LSU_LINE_POWER_POWER 0x8000)
    if m.activeBay = b.val then m.lightLost
    else m.wrF Reg.CIRQUE_STATUS Fld.CIRQUE_STATUS_STANDBY_READY 0)

/-- FAILOVER_COMPLETE (R352): the former standby unit is active; the switch is never undone by Cirque itself. -/
def failoverComplete (m : Mach) : Mach :=
  m.when m.optics.failing.isSome (fun m =>
    let b := 1 - m.activeBay
    let m := { m with optics := { m.optics with failing := none, outputsLit := true } }
    let m := m.wrF Reg.CIRQUE_STATUS Fld.CIRQUE_STATUS_ACTIVE_BAY b
    let m := (m.wrF Reg.CIRQUE_STATUS Fld.CIRQUE_STATUS_STANDBY_READY 0).wrF Reg.CIRQUE_STATUS Fld.CIRQUE_STATUS_FAILOVER 1
    let m := (m.wrF (Reg.CIRQUE_LSU_STATUS b) Fld.CIRQUE_LSU_STATUS_ALIGNED 1).wrF
      (Reg.CIRQUE_LSU_STATUS (1 - b)) Fld.CIRQUE_LSU_STATUS_ALIGNED 0
    (m.trouble 3).tally 261 0)

/-- LSU_WORN (R382, R675): operating hours pass 43,800. -/
def lsuWorn (b : Fin 2) (m : Mach) : Mach :=
  m.when (m.lsu b Fld.CIRQUE_LSU_STATUS_PRESENT) (fun m =>
    (m.wr (Reg.CIRQUE_LSU_HOURS b) (BitVec.ofNat 32 (max 43801 (m.rd (Reg.CIRQUE_LSU_HOURS b)).toNat))).wrF
      (Reg.CIRQUE_LSU_STATUS b) Fld.CIRQUE_LSU_STATUS_WORN 1)

/-- A bay's indicator (R671). -/
inductive Indicator where
  | dark | green | amber | flashingAmber | red
  deriving DecidableEq, Repr

def Mach.indicator (m : Mach) (b : Nat) : Indicator :=
  if !m.lsu b Fld.CIRQUE_LSU_STATUS_PRESENT then .dark
  else if m.lsu b Fld.CIRQUE_LSU_STATUS_FAULT ∨ m.lsu b Fld.CIRQUE_LSU_STATUS_WORN then .red
  else if m.lsu b Fld.CIRQUE_LSU_STATUS_STABLE ∧ m.activeBay = b then .green
  else if m.standbyReady ∧ m.activeBay ≠ b then .amber else .flashingAmber

/-! ### Circuit sets -/

def Mach.meshMode (m : Mach) : Nat := m.rdF Reg.CIRQUE_STATUS Fld.CIRQUE_STATUS_MESH_MODE

/-- Why a command on the mesh is BUSY: fabric lost (R606), stage S3, a dark-map write, or a set being applied. (DESIGN CHOICE, log entry 52.) -/
def Mach.meshBusy (m : Mach) : Bool :=
  !m.fabricOk || decide (m.opticsStage ≠ 4) || m.optics.dark.isSome || m.optics.applying.isSome

/-- Shutters follow the set (R364): a transmitter that no entry names is parked, one that is named again acquires. -/
def Mach.shutter (m : Mach) (cs : List Circuit) (p : Fin 32) : Mach :=
  let named := cs.any (fun c => decide (c.inp = p.val))
  (List.finRange 8).foldl (fun m n =>
    let r : Ring := { rx := false, port := p, line := n }
    if named then (if m.ringCode r = 3 then m.setRingCode r 0 else m)
    else (if m.ringCode r = 2 then m else m.setRingCode r 3)) m

/-- A circuit set comes into force (R361, R364, R366). (DESIGN CHOICE, log entry 65.) -/
def Mach.setCircuits (m : Mach) (cs : List Circuit) (service : Bool) : Mach :=
  let m := { m with optics := { m.optics with circuits := cs, service := service } }
  let m := m.wrF Reg.CIRQUE_STATUS Fld.CIRQUE_STATUS_MESH_MODE (if service then 2 else 1)
  (List.finRange 32).foldl (fun m p => m.shutter cs p) m

/-- The identity permutation: what the mesh holds in circuit-switch mode after calibration (R375). -/
def identityCircuits : List Circuit := (List.range 64).map (fun i => { inp := i, out := i, share := 0 })

def Mach.setRxMap (m : Mach) (l : List Nat) : Mach :=
  m.each (List.range 8) (fun m f => m.wr (Reg.CIRQUE_RX_MAP f) (BitVec.ofNat 32 (l.getD f 0xE4 % 256)))

/-- MESH_SET's own checks and its start (R347, R362 to R367); DONE comes with CIRCUIT_SET_APPLIED. -/
def meshSetBody (h : Hdr) (mode : Nat) (rxMap : List Nat) (entries : List Word) (m : Mach) : Mach :=
  if m.plan.isSome || m.meshBusy then m.answer h Op.meshSet St.busy
  else if 1 < mode then m.answer h Op.meshSet St.badParam
  else match circuitsOf 0 (entries.map (fun w => w.toNat)) with
    | .error i => m.answer h Op.meshSet St.badParam i
    | .ok cs => match circuitFault (decide (mode = 1)) cs with
      | some i => m.answer h Op.meshSet St.badParam i
      | none =>
        let a : Applying :=
          { circuits := cs, rxMap := rxMap, service := decide (mode = 1), balance := bitOf h.flags 5,
            plan := none, lane := h.lane, tag := h.tag, ctx := h.ctx, opcode := Op.meshSet }
        ({ m with optics := { m.optics with applying := some a } }.wrF Reg.CIRQUE_STATUS Fld.CIRQUE_STATUS_APPLYING 1).begin h Op.meshSet

/-! ### Dark maps -/

def Mach.crossed (m : Mach) (k : Nat) : Bool := Sparse.get (fun _ => false) m.optics.cross k
def Mach.setCross (m : Mach) (k : Nat) (v : Bool) : Mach :=
  { m with optics := { m.optics with cross := Sparse.put (fun _ => false) m.optics.cross k v } }

/-- The interferometers whose setting a new dark map changes (R368). -/
def Mach.darkTodo (m : Mach) (cs : List Circuit) : List (Nat × Bool) :=
  (((List.range 2016).zip (darkSettings cs)).filter (fun x => decide (m.crossed x.1 ≠ x.2)))

/-- The next group of up to 32 interferometers is pulsed (R371). -/
def Mach.darkGroup (m : Mach) (d : DarkWrite) : Mach :=
  let g := d.todo.take 32
  let m := g.foldl (fun m x => m.pulse x.1 1 0x0004) m
  { m with optics := { m.optics with dark := some { d with todo := d.todo.drop 32, group := g.map (fun x => (x.1, x.2, 0)) } } }

/-- Ports that a dark-map write interrupted retrain and run discovery again (R370). -/
def Mach.retrainPorts (m : Mach) : Mach :=
  match m.plan with
  | none => m
  | some pl => m.each ((List.range 32).filter (fun p => decide ((pl.port p).role ≠ 0))) Mach.trainPort

/-- A dark-map write ends (R370 to R372). -/
def Mach.darkEnd (m : Mach) (d : DarkWrite) : Mach :=
  let m := { m with optics := { m.optics with dark := none } }.wrF Reg.CIRQUE_STATUS Fld.CIRQUE_STATUS_DARK_WRITE 0
  let m := m.retrainPorts
  if d.ending = St.done then
    let v := (m.rd Reg.CIRQUE_DARK_MAP_VERSION).toNat + 1
    let m := (m.wrF Reg.CIRQUE_DARK_MAP Fld.CIRQUE_DARK_MAP_STATE 0).wr Reg.CIRQUE_DARK_MAP_VERSION (BitVec.ofNat 32 v)
    m.finish d.lane d.ctx d.tag Op.darkMapWrite St.done (v % 2 ^ 32)
  else
    let m := ((m.wrF Reg.CIRQUE_DARK_MAP Fld.CIRQUE_DARK_MAP_STATE 1).trouble 3).event Ev.optics St.internal 0
    m.finish d.lane d.ctx d.tag Op.darkMapWrite d.ending

/-- DARK_MAP_WRITE's own checks and its start (R368, R369). -/
def darkMapBody (h : Hdr) (entries : List Word) (m : Mach) : Mach :=
  if m.meshBusy || decide (m.meshMode = 0) then m.answer h Op.darkMapWrite St.busy
  else match circuitsOf 0 (entries.map (fun w => w.toNat)) with
    | .error _ => m.answer h Op.darkMapWrite St.badParam
    | .ok cs =>
      if !darkOk cs then m.answer h Op.darkMapWrite St.badParam
      else
        let todo := m.darkTodo cs
        if todo.any (fun x => decide (m.trimLeft x.1 = 0)) then m.answer h Op.darkMapWrite St.limitReached
        else
          let d : DarkWrite := { todo := todo, group := [], verified := 0, ending := St.done, lane := h.lane, tag := h.tag, ctx := h.ctx }
          let m := (m.wrF Reg.CIRQUE_STATUS Fld.CIRQUE_STATUS_DARK_WRITE 1).wrF Reg.CIRQUE_DARK_MAP Fld.CIRQUE_DARK_MAP_STATE 2
          let m := m.begin h Op.darkMapWrite
          if todo = [] then m.darkEnd d else m.darkGroup d

/-- What follows once an interferometer of the group has finished: the group goes on, the next group is pulsed, or the write
ends. -/
def Mach.darkNext (m : Mach) (d : DarkWrite) : Mach :=
  if d.group ≠ [] then { m with optics := { m.optics with dark := some d } }
  else if d.ending ≠ St.done ∨ d.todo = [] then m.darkEnd d
  else m.darkGroup d

/-- TRIM_ATTEMPT_DONE (R371, R372): a 2 ms attempt on one interferometer of the group ends with its verify. -/
def trimAttempt (k : Nat) (verified : Bool) (m : Mach) : Mach :=
  match m.optics.dark with
  | none => m
  | some d =>
    match d.group.find? (fun x => decide (x.1 = k)) with
    | none => m
    | some (_, new, tries) =>
      let rest := d.group.filter (fun x => decide (x.1 ≠ k))
      if verified then (m.setCross k new).darkNext { d with group := rest, verified := d.verified + 1 }
      else
        let left := m.trimLeft k
        if tries = 3 ∨ left = 0 ∨ d.ending ≠ St.done then
          let fails := decide (tries = 3) || decide (left = 0)
          let m := if fails then (m.addF Reg.CIRQUE_DARK_MAP Fld.CIRQUE_DARK_MAP_TRIM_FAILED 1).tally 261 1 else m
          let m := { (m.setCross k (decide (m.draw % 2 = 1))) with draws := m.draws + 1 }
          let e := if d.ending ≠ St.done then d.ending else if tries = 3 then St.internal else St.limitReached
          m.darkNext { d with group := rest, ending := e }
        else
          { (m.pulse k (tries + 2) 0x0004) with optics := { m.optics with dark := some { d with
              group := d.group.map (fun x => if x.1 = k then (k, new, tries + 1) else x) } } }

/-- A reset that arrives during a dark-map write (R373): interferometers of the group that have not verified go back to
their recorded setting, and the version does not advance. -/
def Mach.darkReset (m : Mach) : Mach :=
  match m.optics.dark with
  | none => m
  | some d =>
    let m := d.group.foldl (fun m x => if m.trimLeft x.1 = 0 then m.setCross x.1 x.2.1 else m.pulse x.1 (x.2.2 + 1) 0x0005) m
    let new := decide (0 < d.verified) || d.group.any (fun x => decide (m.crossed x.1 = x.2.1))
    let m := { m with optics := { m.optics with dark := none } }.wrF Reg.CIRQUE_STATUS Fld.CIRQUE_STATUS_DARK_WRITE 0
    m.wrF Reg.CIRQUE_DARK_MAP Fld.CIRQUE_DARK_MAP_STATE (if new then 1 else 0)

/-! ### Meanings -/

/-- MESH_SET (R363 to R367). -/
def execMeshSet (h : Hdr) (mode count : Nat) (rxMap : List Nat) (entries : List Word) (s : State) : Host.Outcome State Fault Refusal :=
  s.run (fun m => m.command Op.meshSet h (leBytes mode 1 ++ leBytes count 1) (meshSetBody h mode rxMap entries))

/-- DARK_MAP_WRITE (R368 to R372). -/
def execDarkMapWrite (h : Hdr) (count : Nat) (entries : List Word) (s : State) : Host.Outcome State Fault Refusal :=
  s.run (fun m => m.command Op.darkMapWrite h (leBytes count 1) (darkMapBody h entries))

/-- LSU_STABLE (R349, R375). -/
def execLsuStable (bay : Fin 2) (s : State) : Host.Outcome State Fault Refusal := s.run (lsuStable bay)

/-- STANDBY_ALIGNED (R350). -/
def execStandbyAligned (s : State) : Host.Outcome State Fault Refusal := s.run standbyAligned

/-- LINE_LOSS (R351). -/
def execLineLoss (line : Fin 8) (power : Int) (s : State) : Host.Outcome State Fault Refusal := s.run (lineLoss line power)

/-- LSU_FAULT (R351). -/
def execLsuFault (bay : Fin 2) (s : State) : Host.Outcome State Fault Refusal := s.run (lsuFault bay)

/-- LSU_REMOVED (R351). -/
def execLsuRemoved (bay : Fin 2) (s : State) : Host.Outcome State Fault Refusal := s.run (lsuRemoved bay)

/-- LSU_INSERTED (R353). -/
def execLsuInserted (bay : Fin 2) (hours lineLow toneBad : Nat) (s : State) : Host.Outcome State Fault Refusal :=
  s.run (lsuInsert bay hours lineLow toneBad)

/-- FAILOVER_COMPLETE (R352). -/
def execFailoverComplete (s : State) : Host.Outcome State Fault Refusal := s.run failoverComplete

/-- LSU_WORN (R382). -/
def execLsuWorn (bay : Fin 2) (s : State) : Host.Outcome State Fault Refusal := s.run (lsuWorn bay)

/-- FULL_SWEEP_DONE (R357). -/
def execFullSweepDone (r : Ring) (resonances : List Nat) (kLine : Nat) (s : State) : Host.Outcome State Fault Refusal :=
  s.run (fullSweep r resonances kLine)

/-- TONE_CHECK_DONE (R355, R356). -/
def execToneCheckDone (r : Ring) (found : Option (Fin 8)) (heater : Int) (s : State) : Host.Outcome State Fault Refusal :=
  s.run (toneCheck r found heater)

/-- RING_LOCK_LOSS (R358). -/
def execRingLockLoss (r : Ring) (heater : Int) (s : State) : Host.Outcome State Fault Refusal := s.run (ringLoss r heater)

/-- TRIM_ATTEMPT_DONE (R371, R372). -/
def execTrimAttemptDone (index : Nat) (verified : Bool) (s : State) : Host.Outcome State Fault Refusal :=
  s.run (trimAttempt index verified)

end Sys2Proof.Machine
end

