-- ==== Sys2Proof/Machine/MemOps.lean ====
section
/-!
DEFINITION. Operations over memory (08_foothill_and_ledge): the physical map, translation of virtual addresses, reads and
writes, poison, dirty trackers and the record of errors. An address in an `Ecc` operand below 2^48 is the physical address
of a word; from 2^48 on it is 2^48 + 2^32 × range + word number of that range's tile file.
-/

namespace Sys2Proof.Machine

/-! ### The physical map (R259 to R261) -/

/-- Where a physical address lies. -/
inductive Place where
  | foothill (s : Nat) | ledge (b : Nat) | host | hole
  deriving DecidableEq, Repr

def placeOf (pa : Nat) : Place :=
  if pa < 12 * 2 ^ 37 then .foothill (pa / 2 ^ 37)
  else if 0x020000000000 ≤ pa ∧ pa < 0x020100000000 then .ledge 0
  else if 0x020100000000 ≤ pa ∧ pa < 0x020200000000 then .ledge 1
  else if 2 ^ 47 ≤ pa ∧ pa < 2 ^ 48 then .host
  else .hole

def isHost (pa : Nat) : Bool := decide (placeOf pa = .host)

/-- The two regions reserved for Traverse (R261). -/
def inReserved (pa len : Nat) : Bool :=
  runsMeet pa len 0x001FC0000000 0x40000000 || runsMeet pa len 0x00DFC0000000 0x40000000

/-- Whether a stack has failed (R291). -/
def Mach.stackFailed (m : Mach) (s : Nat) : Bool := decide (m.rdF (Reg.FOOTHILL_STATUS s) Fld.FOOTHILL_STATUS_STATE = 4)

/-- Whether a whole-memory scrub is running (R280). -/
def Mach.scrubbing (m : Mach) : Bool := m.mem.dram.any (fun s => s.scrubbing)

/-- Whether a run of physical addresses is one that a mapping may target (R267, first row). -/
def Mach.targetOk (m : Mach) (pa len : Nat) : Bool :=
  let last := pa + len - 1
  !inReserved pa len &&
  (match placeOf pa, placeOf last with
   | .foothill a, .foothill b => (List.range' a (b + 1 - a)).all (fun s => !m.stackFailed s)
   | .ledge _, .ledge _ => true
   | .host, .host => true
   | _, _ => false)

/-! ### Translation (R262 to R265) -/

/-- The leaf of a mapped page. -/
structure Leaf where
  va : Nat
  size : Nat
  pa : Nat
  write : Bool
  pdom : Nat
  deriving DecidableEq, Repr

/-- The leaf of the page that a virtual address lies in. -/
def Ctx.leaf (x : Ctx) (va : Nat) : Option Leaf :=
  (x.maps.find? (fun r => decide (r.va ≤ va) && decide (va < r.va + r.size))).map (fun r =>
    let k := (va - r.va) / r.page
    { va := r.va + k * r.page, size := r.page, pa := r.pa + k * r.page, write := r.write, pdom := r.pdom })

def Leaf.addr (l : Leaf) (va : Nat) : Nat := l.pa + (va - l.va)

/-- The physical address of a mapped virtual address. -/
def Ctx.phys (x : Ctx) (va : Nat) : Option Nat := (x.leaf va).map (fun l => l.addr va)

/-- The kind of fault that an access through a leaf meets, in R215's order. -/
def leafFault (l : Option Leaf) (pdom : Nat) (store scree lockstep : Bool) : Option Nat :=
  match l with
  | none => some 1
  | some l =>
    if l.pdom ≠ pdom then some 3
    else if scree && isHost l.pa then some 4
    else if lockstep && isHost l.pa then some 5
    else if store && !l.write then some 2
    else none

def faultStatus (kind : Nat) : Nat := if kind = 1 then St.translationFault else if kind = 6 then St.indexRange else St.protectionFault

/-! ### Reads -/

def byteAt (l : List (Nat × Byte)) (pa : Nat) : Byte := Sparse.get (fun _ => 0) l pa

/-- One byte of memory. (DESIGN CHOICE, log entry 5.) -/
def Mach.readByte (m : Mach) (pa : Nat) : Byte := byteAt m.mem.bytes pa

/-- A run of bytes at a physical address. -/
def Mach.readPa (m : Mach) (pa n : Nat) : List Byte := Sparse.getRun (fun _ => 0) m.mem.bytes pa n

/-- A byte at a virtual address; an unmapped page and the host window have none here. -/
def Mach.readVa (m : Mach) (x : Ctx) (va : Nat) : Byte := match x.phys va with | some pa => m.readByte pa | none => 0

def Mach.readRun (m : Mach) (x : Ctx) (va n : Nat) : List Byte := (List.range n).map (fun i => m.readVa x (va + i))

/-- The `w` bits at a bit address of virtual memory, little-endian (R127, R128). -/
def Mach.readBits (m : Mach) (x : Ctx) (bit w : Nat) : Nat :=
  bitsOf (leNat (m.readRun x (bit / 8) ((bit % 8 + w + 7) / 8))) (bit % 8) w

/-! ### Poison, dirty trackers and writes (R277, R283) -/

/-- A rising list of numbers with one more. -/
def insertNat (k : Nat) : List Nat → List Nat
  | [] => [k]
  | x :: t => if k < x then k :: x :: t else if k = x then x :: t else x :: insertNat k t

def Mach.poisoned (m : Mach) (w : Nat) : Bool := m.mem.poison.contains w

def Mach.setPoison (m : Mach) (w : Nat) : Mach :=
  let q : Mach := { m with mem := { m.mem with poison := insertNat w m.mem.poison } }
  match placeOf w with | .foothill s => q.tally (112 + s) 2 | _ => q

/-- How many frames a tracker has set. -/
def Tracker.count (t : Tracker) : Nat := if t.full then 2097152 else t.frames.length

def Tracker.mark (t : Tracker) (f : Nat) : Tracker := if t.full then t else { t with frames := insertNat f t.frames }

def Tracker.has (t : Tracker) (f : Nat) : Bool := t.full || t.frames.contains f

/-- `DIRTY_STATUS` follows the trackers (R298). -/
def Mach.showDirty (m : Mach) (s : Nat) : Mach :=
  let st := m.stack s
  (m.wrF (Reg.FOOTHILL_DIRTY_STATUS s) Fld.FOOTHILL_DIRTY_STATUS_DIRTY st.current.count).wrF
    (Reg.FOOTHILL_DIRTY_STATUS s) Fld.FOOTHILL_DIRTY_STATUS_CAPTURE_HELD (b2n (decide (0 < st.captured.count)))

/-- A performed write sets its frame's `CURRENT` bit (R283). -/
def Mach.markDirty (m : Mach) (pa : Nat) : Mach :=
  match placeOf pa with
  | .foothill s =>
    let f := pa % 2 ^ 37 / 65536
    if (m.stack s).current.has f then m
    else (m.updStack s (fun x => { x with current := x.current.mark f })).showDirty s
  | _ => m

/-- Whether a run covers a 64-bit word whole. -/
def covers (pa len w : Nat) : Bool := decide (pa ≤ w) && decide (w + 8 ≤ pa + len)

/-- A write of bytes at a physical address: words it replaces whole are no longer poisoned. -/
def Mach.writePa (m : Mach) (pa : Nat) (l : List Byte) : Mach :=
  if l = [] then m
  else
    let mem := { m.mem with bytes := Sparse.putRun (fun _ => 0) m.mem.bytes pa l,
                            poison := m.mem.poison.filter (fun w => !covers pa l.length w) }
    let frames := (List.range' (pa / 65536) ((pa + l.length - 1) / 65536 + 1 - pa / 65536))
    { m with mem := mem }.each frames (fun m f => m.markDirty (f * 65536))

/-- A write at a virtual address, page by page; bytes of unmapped pages and of the host window go nowhere here. -/
def Mach.writeVa (m : Mach) (x : Ctx) (va : Nat) : List Byte → Mach
  | [] => m
  | b :: t => match x.phys va with
    | some pa => (if isHost pa then m else m.writePa pa [b]).writeVa x (va + 1) t
    | none => m.writeVa x (va + 1) t

/-- Runs of consecutive addresses: a list of (address, byte), in rising order, as whole writes. -/
def runsOf : List (Nat × Byte) → List (Nat × List Byte)
  | [] => []
  | (a, b) :: t => match runsOf t with
    | (c, l) :: r => if a + 1 = c then (a, b :: l) :: r else (a, [b]) :: (c, l) :: r
    | [] => [(a, [b])]

def Mach.writeRuns (m : Mach) (l : List (Nat × Byte)) : Mach := (runsOf l).foldl (fun m r => m.writePa r.1 r.2) m

/-- Zeroing a region of memory (a scrub, a clearing): contents and poison go (R279). -/
def Mach.zeroMem (m : Mach) (p : Nat → Bool) : Mach :=
  { m with mem := { m.mem with bytes := Sparse.clear m.mem.bytes p, poison := m.mem.poison.filter (fun w => !p w) } }

/-! ### The record of errors (R275, R276, R293) -/

/-- Who read an uncorrectable word (`SOURCE` of R293). -/
def srcRange : Nat := 0
def srcMerge : Nat := 1
def srcTarn : Nat := 2
def srcPort : Nat := 3
def srcBelay : Nat := 4
def srcSwite : Nat := 5
def srcPatrol : Nat := 6

/-- A corrected word is counted. -/
def Mach.countCe (m : Mach) (w : Nat) : Mach :=
  match placeOf w with
  | .foothill s => (m.addF (Reg.FOOTHILL_ECC_CE_COUNT s) Fld.FOOTHILL_ECC_CE_COUNT_COUNT 1).tally (112 + s) 0
  | .ledge b => (m.addF (Reg.LEDGE_ECC_CE_COUNT b) Fld.LEDGE_ECC_CE_COUNT_COUNT 1).tally (184 + 2 * b + w / 256 % 2) 0
  | _ => m

/-- The log of a memory: a free log records, a held one overflows; a new entry raises a memory event (R587). -/
def Mach.eccLog (m : Mach) (log lo hi src range w stack : Nat) : Mach :=
  if m.rdF log Fld.FOOTHILL_ECC_LOG_VALID = 1 then m.wrF log Fld.FOOTHILL_ECC_LOG_OVERFLOW 1
  else
    let m := m.wr log (BitVec.ofNat 32 (2 ^ 31 + src * 2 ^ 27 + (if src ≤ 1 then range else 0) * 2 ^ 23))
    let m := (m.wr lo (BitVec.ofNat 32 w)).wr hi (BitVec.ofNat 32 (w / 2 ^ 32))
    m.event Ev.memory St.internal stack

/-- An uncorrectable word is counted, recorded and reported (R276, R656). -/
def Mach.countUe (m : Mach) (src range w : Nat) : Mach :=
  match placeOf w with
  | .foothill s =>
    (((m.addF (Reg.FOOTHILL_ECC_UE_COUNT s) Fld.FOOTHILL_ECC_UE_COUNT_COUNT 1).eccLog (Reg.FOOTHILL_ECC_LOG s)
      (Reg.FOOTHILL_ECC_LOG_PA_LO s) (Reg.FOOTHILL_ECC_LOG_PA_HI s) src range w s).trouble 1).tally (112 + s) 1
  | .ledge b =>
    (((m.addF (Reg.LEDGE_ECC_UE_COUNT b) Fld.LEDGE_ECC_UE_COUNT_COUNT 1).eccLog Reg.LEDGE_ECC_LOG
      Reg.LEDGE_ECC_LOG_PA_LO Reg.LEDGE_ECC_LOG_PA_HI src range w 0xF).trouble 1).tally (184 + 2 * b + w / 256 % 2) 1
  | _ => m

/-- The words of the 64-byte sector at a physical address. -/
def sectorWords (pa : Nat) : List Nat := (List.range 8).map (fun i => pa / 64 * 64 + 8 * i)

/-- The words that a run of bytes touches. -/
def wordsIn (pa len : Nat) : List Nat :=
  if len = 0 then [] else (List.range' (pa / 8) ((pa + len - 1) / 8 + 1 - pa / 8)).map (fun k => 8 * k)

/-- Which of the words read are uncorrectable: those the check code finds, and the poisoned ones. (DESIGN CHOICE, log entry 18.) -/
def Mach.badWords (m : Mach) (e : Ecc) (words : List Nat) : List Nat := words.filter (fun w => e.bad.contains w || m.poisoned w)

/-- A read of words is checked: corrections and uncorrectable words are counted (R275, R276). -/
def Mach.checkWords (m : Mach) (src range : Nat) (e : Ecc) (words : List Nat) : Mach :=
  let m := (words.filter (fun w => e.corrected.contains w && !e.bad.contains w && !m.poisoned w)).foldl (fun m w => m.countCe w) m
  (m.badWords e words).foldl (fun m w => m.countUe src range w) m

/-- The corrected and uncorrectable words that a read of a range's tile file found. -/
def tileWords (n : Nat) (l : List Nat) : List Nat := l.filter (fun w => decide (w / 2 ^ 32 = 65536 + n))

/-- A read of tile registers is checked (R275, R304); whether a word was uncorrectable comes with it. -/
def Mach.checkTile (m : Mach) (n : Nat) (e : Ecc) : Mach × Bool :=
  let bad := tileWords n e.bad
  let m := (m.addF (Reg.LEDGE_TILE_ECC n) Fld.LEDGE_TILE_ECC_CE (tileWords n e.corrected).length).addF
    (Reg.LEDGE_TILE_ECC n) Fld.LEDGE_TILE_ECC_UE bad.length
  (if bad = [] then m else m.trouble 1, !bad.isEmpty)

/-! ### Host-memory transactions (R575) -/

/-- The class of a transaction (R581). -/
def Mach.txnClass (m : Mach) (o : TxnOwner) : Nat :=
  match o with
  | .col n _ _ | .talus n _ _ => ((m.range n).stream.bind m.stream).elim 0 (fun s => s.prio)
  | .cmd lane ctx tag => (m.swite.outstanding.find? (fun o => decide (o.lane = lane) && decide (o.ctx = ctx) && decide (o.tag = tag))).elim 0 (fun o => o.prio)
  | .entry c _ => (m.copies.find? (fun j => decide (j.ctx = c))).elim 0 (fun j => j.prio)
  | .port | .nobody => 0

/-- A request's packet (R575). -/
def HostTxn.bytes (t : HostTxn) : List Byte :=
  [if t.write then 2 else 1, 0] ++ leBytes t.tag 2 ++ leBytes t.data.length 2 ++ [0, 0] ++ leBytes t.addr 8 ++ (if t.write then t.data else [])

/-- A transaction is issued, with the next tag. -/
def Mach.issueTxn (m : Mach) (t : HostTxn) : Mach :=
  let t := { t with tag := m.swite.nextTxn % 65536, since := m.clk }
  ({ m with swite := { m.swite with txns := m.swite.txns ++ [t], txnSent := m.swite.txnSent ++ [t], nextTxn := m.swite.nextTxn + 1 } } : Mach).enqueue
    (m.txnClass t.owner) 1 t.bytes

/-- A read or write of host memory: it is issued, or it waits while 4,096 are outstanding; its owner waits for what comes back. -/
def Mach.hostTxn (m : Mach) (write : Bool) (pa len : Nat) (data : List Byte) (merge : List (Nat × Nat × Nat)) (owner : TxnOwner) : Mach :=
  let t : HostTxn := { tag := 0, write := write, addr := pa - 2 ^ 47, data := if write then data else List.replicate len 0,
                       merge := merge, owner := owner, since := m.clk }
  if m.swite.txns.length < 4096 then m.issueTxn t else { m with swite := { m.swite with txnWait := m.swite.txnWait ++ [t] } }

/-- A transaction has ended, and the oldest that waits is issued. -/
def Mach.endTxn (m : Mach) (t : HostTxn) : Mach :=
  let m : Mach := { m with swite := { m.swite with txns := m.swite.txns.erase t } }
  match m.swite.txnWait with
  | [] => m
  | w :: rest => { m with swite := { m.swite with txnWait := rest } }.issueTxn w

/-- How many transactions wait for one owner. -/
def Mach.txnsOf (m : Mach) (o : TxnOwner) : Nat :=
  ((m.swite.txns ++ m.swite.txnWait).filter (fun t => decide (t.owner = o))).length

/-- The owner of every transaction, changed. -/
def Mach.reown (m : Mach) (f : TxnOwner → TxnOwner) : Mach :=
  { m with swite := { m.swite with txns := m.swite.txns.map (fun t => { t with owner := f t.owner }),
                                   txnWait := m.swite.txnWait.map (fun t => { t with owner := f t.owner }) } }

end Sys2Proof.Machine
end

