-- ==== Sys2Proof/Machine/StreamCtl.lean ====
section
/-!
DEFINITION. Shared operations over a range's streams (02_tile_streams): the next instruction of a dispatcher, placing it, the
station sequences, tile registers and their ordering rule R31, tile queues, translation at the stations, and how a station's
attempt to begin a repeat ends. A repeat reads all its inputs at the event that begins it.
-/

namespace Sys2Proof.Machine

/-! ### Streams and sequences -/

/-- The stream that runs on a range. -/
def Mach.streamOn (m : Mach) (n : Nat) : Option Stream := (m.range n).stream.bind (fun id => m.stream id)

/-- The sequence of a station (R26). -/
def RangeSt.seqOf (r : RangeSt) (st : Nat) : List Placed :=
  match st with
  | 1 => r.col | 2 => r.crest | 3 => r.spur | 4 => r.talus | 5 => r.scree | 7 => r.link | _ => []

def RangeSt.setSeq (r : RangeSt) (st : Nat) (l : List Placed) : RangeSt :=
  match st with
  | 1 => { r with col := l } | 2 => { r with crest := l } | 3 => { r with spur := l }
  | 4 => { r with talus := l } | 5 => { r with scree := l } | 7 => { r with link := l } | _ => r

/-- Whether a placed instruction is a wait in the sequence (R67). -/
def Placed.isWait (p : Placed) : Bool := decide (p.ins.station = 6)

/-- Changing one placed instruction of a station. -/
def RangeSt.updPlaced (r : RangeSt) (st seq : Nat) (f : Placed → Placed) : RangeSt :=
  r.setSeq st ((r.seqOf st).map (fun p => if p.seq = seq then f p else p))

/-- Repeats begun and finished. -/
def RangeSt.begin (r : RangeSt) (st seq : Nat) : RangeSt := r.updPlaced st seq (fun p => { p with begun := p.begun + 1 })
def RangeSt.did (r : RangeSt) (st seq : Nat) : RangeSt := r.updPlaced st seq (fun p => { p with done := p.done + 1 })

/-- Whether every instruction before `seq` that is addressed to a station of the mask has completed (R28, R32, R66). -/
def RangeSt.doneBefore (r : RangeSt) (mask seq : Nat) : Bool :=
  (maskBits mask 8).all (fun st => (r.seqOf st).all (fun p => p.isWait || decide (seq ≤ p.seq)))

/-- The value of a context's sync counter (R65). -/
def Mach.syncBase (m : Mach) (c : Nat) : Nat := (m.ctx c).elim 0 (fun x => x.syncBase)
def Mach.syncLen (m : Mach) (c : Nat) : Nat := (m.ctx c).elim 0 (fun x => x.syncLen)
def Mach.syncVal (m : Mach) (c k : Nat) : Nat := (m.rd (Reg.TRAVERSE_SYNC_COUNTER (m.syncBase c + k))).toNat

/-- The descriptor of a handle. -/
def Ctx.desc (x : Ctx) (h : Nat) : Option Desc := (x.descs.find? (fun e => decide (e.1 = h))).map (fun e => e.2)

def Mach.descOf (m : Mach) (c h : Nat) : Option Desc := (m.ctx c).bind (fun x => x.desc h)

/-- A repeat of a range's stream has completed: the time that R38 counts starts again. -/
def Mach.progress (m : Mach) (n : Nat) : Mach :=
  match (m.range n).stream with
  | none => m
  | some id => m.updStream id (fun s => { s with progress := m.clk })

/-! ### Armed positions (R636) -/

/-- A range's armed position: instruction, pass, repeat. -/
def Mach.armed (m : Mach) (n : Nat) : Option (Nat × Nat × Nat) :=
  if m.rdF (Reg.WAYMARK_POSITION_HI n) Fld.WAYMARK_POSITION_HI_ARMED = 1 then
    some (m.rdF (Reg.WAYMARK_POSITION n) Fld.WAYMARK_POSITION_INSTR_INDEX,
      m.rdF (Reg.WAYMARK_POSITION_HI n) Fld.WAYMARK_POSITION_HI_PASS,
      m.rdF (Reg.WAYMARK_POSITION n) Fld.WAYMARK_POSITION_REPEAT_INDEX)
  else none

/-- How often an instruction has been placed since the stream started. -/
def RangeSt.passOf (r : RangeSt) (idx : Nat) : Nat := Sparse.get (fun _ => 0) r.passes idx

/-- The station sequences' entry of a placement. -/
def RangeSt.placedAt (r : RangeSt) (i pass : Nat) : Option Placed :=
  (r.inFlight.find? (fun x => decide (x.2.idx = i) && decide (x.2.pass = pass))).map (fun x => x.2)

/-- Whether a range has passed a position: its placement has completed, a repeat at or after it has begun, or an instruction after it
has been executed (R636, R638). -/
def RangeSt.passed (r : RangeSt) (pos : Nat × Nat × Nat) : Bool :=
  decide (pos.2.1 < r.passOf pos.1) &&
    (match r.placedAt pos.1 pos.2.1 with
     | none => true
     | some p =>
       let later := (r.inFlight.filter (fun x => decide (p.seq < x.2.seq))).map (fun x => x.2)
       let left := (later.map (fun q => q.seq) ++ r.signals.map (fun g => g.seq) ++ r.fence.toList.map (fun f => f.2) ++
         r.ctrlWait.toList.map (fun w => w.2.2)).filter (fun k => decide (p.seq < k))
       decide (pos.2.2 < p.begun) || later.any (fun q => decide (0 < q.begun)) || decide (p.seq + 1 + left.eraseDups.length < r.nextSeq))

/-- The position at which a range is to halt: none where a range of its stream has passed it (R638, R639). -/
def Mach.mark (m : Mach) (n : Nat) : Option (Nat × Nat × Nat) :=
  match m.armed n, m.streamOn n with
  | some pos, some s => if (maskBits s.mask 16).any (fun k => (m.range k).passed pos && !(m.range k).halted) then none else some pos
  | _, _ => none

/-- Whether the dispatcher waits for a halt: it has placed the waymark instruction, or reaches it and executes it itself. -/
def Mach.markHolds (m : Mach) (n : Nat) (e : Ewx) : Bool :=
  match m.mark n with
  | none => false
  | some (i, pass, _) =>
    let r := m.range n
    decide (pass < r.passOf i) || (decide (r.pc = i) && decide (r.passOf i = pass) && (decide (e.station = 0) || decide (e.station = 6)))

/-- Whether a repeat lies at or after the armed position: at it or after it in its instruction, or in an instruction after it. -/
def Mach.repHeld (m : Mach) (n : Nat) (p : Placed) (rep : Nat) : Bool :=
  match m.mark n with
  | none => false
  | some (i, pass, k) =>
    match (m.range n).placedAt i pass with
    | none => false
    | some q => (decide (q.seq = p.seq) && decide (k ≤ rep)) || decide (q.seq < p.seq)

/-- Whether what the dispatcher placed with a sequence number waits: the range is halted, or it comes after the waymark instruction. -/
def Mach.seqHeld (m : Mach) (n seq : Nat) : Bool :=
  (m.range n).halted ||
  (match m.mark n with
   | none => false
   | some (i, pass, _) => ((m.range n).placedAt i pass).elim false (fun q => decide (q.seq < seq)))

/-! ### The dispatcher -/

/-- Whether a Belay freeze holds the ranges of a context (R21, R471). -/
def Mach.frozen (m : Mach) (c : Nat) : Bool := m.belay.mirror.isSome && m.belay.plan.elim false (fun p => decide (p.ctx = c))

/-- The instruction that a range's dispatcher comes to next: none while a fence or a wait holds it, while the range is halted
or waits to be admitted, or at the end of the image. -/
def Mach.next (m : Mach) (n : Nat) : Option (Stream × Ewx) :=
  match m.streamOn n with
  | none => none
  | some s =>
    let r := m.range n
    if r.halted || !s.admitted || m.frozen s.ctx || r.fence.isSome || r.ctrlWait.isSome then none
    else match s.image.code[r.pc]? with
      | none => none
      | some e => if m.markHolds n e then none else some (s, e)

/-- The next instruction, where it is the operation named and no weight update holds an operand (R20, R319). -/
def Mach.nextIs (m : Mach) (n : Nat) (o : SOp) : Option (Stream × Ewx) :=
  match m.next n with
  | none => none
  | some (s, e) =>
    let held := (m.ctx s.ctx).elim [] (fun x => x.holds)
    let uses := (if o.usesA then [e.hA] else []) ++ (if o.usesB then [e.hB] else []) ++ (if o.usesD then [e.hD] else [])
    if e.sop = some o ∧ !uses.any (fun h => held.contains h) then some (s, e) else none

/-- The dispatcher moves past the instruction at its place. -/
def RangeSt.step (r : RangeSt) : RangeSt :=
  { r with passes := Sparse.put (fun _ => 0) r.passes r.pc (r.passOf r.pc + 1), pc := r.pc + 1, nextSeq := r.nextSeq + 1 }

def Mach.axAt (m : Mach) (n k d : Nat) : Int := (m.rd (Reg.RANGE_AX_COORD n (8 * k + d))).toInt
def Mach.incAt (m : Mach) (n k d : Nat) : Int := (m.rd (Reg.RANGE_INC_COORD n (8 * k + d))).toInt

def in32 (x : Int) : Bool := decide (-2147483648 ≤ x) && decide (x ≤ 2147483647)

/-- A fault of the instruction at the dispatcher's place (R116). -/
def Mach.placeFault (m : Mach) (n : Nat) (s : Stream) (e : Ewx) (cause : Nat) : Mach :=
  m.stopStream s.id St.streamFault
    [{ range := n, status := St.streamFault, cause := cause, instr := (m.range n).pc, rep := 0, station := e.station, cond := 0 }]

/-- Whether AXa and AXb name one register that advances (R59). -/
def Ewx.axSame (e : Ewx) (o : SOp) : Bool := o.usesB && (o.usesA || o.usesD) && decide (e.axa = e.axb)

def Ewx.usesAxa (_ : Ewx) (o : SOp) : Bool := o.usesA || o.usesD

/-- Whether the first and the second address register advance with each repeat (R57 to R59). -/
def Ewx.incsA (e : Ewx) (o : SOp) : Bool := e.usesAxa o && (e.incA || (e.axSame o && e.incB))
def Ewx.incsB (e : Ewx) (o : SOp) : Bool := o.usesB && (e.incB || (e.axSame o && e.incA))

/-- The coordinates of an address register as the dispatcher places an instruction (R58). -/
def Mach.snap (m : Mach) (n k : Nat) (inc : Bool) : AxSnap :=
  { c := (List.range 6).map (m.axAt n k), inc := (List.range 6).map (fun d => if inc then m.incAt n k d else 0) }

/-- R60: some coordinate of a repeat, or what is left in the register, passes the 32-bit range. -/
def AxSnap.overflows (a : AxSnap) (rep : Nat) : Bool := !(a.at rep).all in32 || !(a.at (rep - 1)).all in32

/-- A register advanced by a whole instruction (R58). -/
def Mach.advance (m : Mach) (n k : Nat) (a : AxSnap) (rep : Nat) : Mach :=
  m.each (List.range 6) (fun m d => m.wr (Reg.RANGE_AX_COORD n (8 * k + d)) (BitVec.ofInt 32 ((a.at rep).getD d 0)))

/-- Placing an instruction in its station's sequence (R26, R57 to R60), its own placement cause weighed with AX_OVERFLOW: the
lowest is reported (R116). (DESIGN CHOICE, log entry 34.) -/
def Mach.place (m : Mach) (n : Nat) (s : Stream) (e : Ewx) (o : SOp) (cause : Option Nat) : Mach :=
  let a := m.snap n e.axa (e.incsA o)
  let b := m.snap n e.axb (e.incsB o)
  if (e.usesAxa o && a.overflows e.rep) || (o.usesB && b.overflows e.rep) then m.placeFault n s e 0x03
  else match cause with
    | some k => m.placeFault n s e k
    | none =>
      let r := m.range n
      let p : Placed := { seq := r.nextSeq, idx := r.pc, ins := e, a := a, b := b, pass := r.passOf r.pc, begun := 0, done := 0 }
      let m := m.setRange n ((r.setSeq e.station (r.seqOf e.station ++ [p])).step)
      let m := if e.incsA o then m.advance n e.axa a e.rep else m
      if e.incsB o && !e.axSame o then m.advance n e.axb b e.rep else m

/-- Whether every earlier instruction of the stations of a mask has completed; a mask that names LINK also waits for the
result stores of earlier LINK.REDUCEs of the range (R32, R66, R437). -/
def Mach.doneBefore (m : Mach) (n mask seq : Nat) : Bool :=
  (m.range n).doneBefore mask seq &&
    (!bitOf mask 7 || !m.saddle.posted.any (fun p => decide (p.range = n) && decide (p.seq < seq)))

/-- A fence that is satisfied lets the dispatcher go on; one that names TALUS or SCREE invalidates the row cache (R32, R247). -/
def Mach.settle (m : Mach) (n : Nat) : Mach :=
  match (m.range n).fence with
  | none => m
  | some (mask, seq) =>
    if m.doneBefore n mask seq ∧ !m.seqHeld n seq then
      m.updRange n (fun r => { r with fence := none, rowCache := if bitOf mask 4 || bitOf mask 5 then [] else r.rowCache })
    else m

/-! ### Tile registers (R31, R178) -/

/-- The tile that an instruction reads from a tile register: an FP64 tile spans two. -/
def RangeSt.treg (r : RangeSt) (k : Nat) : Tile :=
  let t := Sparse.get (fun _ => Tile.zeroed) r.tiles k
  if t.fmt = .fp64 then
    let u := Sparse.get (fun _ => Tile.zeroed) r.tiles ((k + 1) % 512)
    { t with elems := t.elems.filter (fun e => decide (e.1 < 8192)) ++ u.elems.filter (fun e => decide (8192 ≤ e.1)) }
  else t

/-- Writing a tile register. -/
def RangeSt.setTreg (r : RangeSt) (k : Nat) (t : Tile) : RangeSt :=
  let put (l : List (Nat × Tile)) (k : Nat) (t : Tile) := Sparse.put (fun _ => Tile.zeroed) l k t
  if t.fmt = .fp64 then
    let lo : Tile := { t with elems := t.elems.filter (fun e => decide (e.1 < 8192)) }
    let hi : Tile := { t with elems := t.elems.filter (fun e => decide (8192 ≤ e.1)) }
    { r with tiles := put (put r.tiles k lo) ((k + 1) % 512) hi }
  else { r with tiles := put r.tiles k t }

/-- A register and, for an FP64 tile, the next one. -/
def tregSpan (wide : Bool) (k : Nat) : List Nat := if wide then [k, (k + 1) % 512] else [k]

/-- The tile-register fields that an instruction reads, and the one it writes (R97 to R109). -/
def Ewx.tregReads (e : Ewx) : List Nat :=
  match e.sop with
  | some .mma => (if e.m 36 2 = 2 then [e.m 25 9] else []) ++ (if e.m 34 2 = 2 then [e.m 16 9] else [])
  | some .drain => if e.m 32 3 ≠ 0 ∨ e.m 28 4 ≠ 0 then [e.m 8 9] else []
  | some .kernel => (if e.m 30 2 = 2 then [e.m 21 9] else []) ++ (if e.m 20 1 = 1 then [e.m 11 9] else [])
  | some .reduce => (if e.m 33 2 = 2 then [e.m 24 9] else []) ++ (if e.m 23 1 = 1 then [e.m 12 9] else [])
  | some .perm => (if e.m 38 2 = 2 then [e.m 29 9] else []) ++ [e.m 20 9]
  | some .store => if e.m 38 2 = 2 then [e.m 29 9] else []
  | some .scatter => [e.m 29 9]
  | some .scatterAdd => [e.m 29 9]
  | _ => []

def Ewx.tregWrite (e : Ewx) : Option Nat :=
  match e.sop with
  | some .load => if e.m 38 2 = 2 then some (e.m 29 9) else none
  | some .loadt => if e.m 38 2 = 2 then some (e.m 29 9) else none
  | some .drain => if e.m 26 2 = 1 then some (e.m 17 9) else none
  | some .kernel => if e.m 9 2 = 1 then some (e.m 0 9) else none
  | some .reduce => if e.m 21 2 = 1 then some (e.m 12 9) else none
  | some .perm => if e.m 18 2 = 1 then some (e.m 9 9) else none
  | some .gather => if e.m 38 2 = 2 then some (e.m 29 9) else none
  | _ => none

/-- Whether the tile that an instruction writes is FP64. -/
def Mach.writesWide (m : Mach) (n c : Nat) (e : Ewx) : Bool :=
  let descWide (h : Nat) : Bool := (m.descOf c h).elim false (fun d => decide (d.format = .fp64))
  match e.sop with
  | some .load => if e.m 28 1 = 1 then decide (e.m 24 4 = 11) else descWide e.hA
  | some .loadt => if e.m 28 1 = 1 then decide (e.m 24 4 = 11) else descWide e.hA
  | some .gather => descWide e.hA
  | some .kernel => decide (bitsOf (m.rd (Reg.RANGE_SPUR_KENTRY n (e.m 32 8))).toNat 8 4 = Fmt.fp64.code)
  | some .reduce => decide (e.m 8 4 = Fmt.fp64.code)
  | some .perm =>
    if e.m 38 2 = 2 then decide (((m.range n).treg (e.m 29 9)).fmt = .fp64)
    else ((if e.m 38 2 = 0 then (m.range n).drain else (m.range n).screeSpur).entries.head?).elim false
      (fun q => decide (q.tile.fmt = .fp64))
  | _ => false

/-- The registers an instruction reads and writes, FP64 tiles with both. -/
def Mach.regsRead (m : Mach) (n : Nat) (e : Ewx) : List Nat :=
  e.tregReads.flatMap (fun k => tregSpan (decide ((Sparse.get (fun _ => Tile.zeroed) (m.range n).tiles k).fmt = .fp64)) k)
def Mach.regsWritten (m : Mach) (n c : Nat) (e : Ewx) : List Nat :=
  match e.tregWrite with
  | none => []
  | some k => tregSpan (m.writesWide n c e) k

/-- Whether two lists share a member. -/
def meets (a b : List Nat) : Bool := a.any (fun x => b.contains x)

/-- R31: an earlier instruction still holds a register that this one reads or writes. An earlier writer has finished once its
writes are complete; an earlier reader once its last repeat has begun, since a repeat reads as it begins. -/
def Mach.tregBlocked (m : Mach) (n c : Nat) (p : Placed) : Bool :=
  let rd := m.regsRead n p.ins
  let wr := m.regsWritten n c p.ins
  ((m.range n).inFlight.filter (fun x => decide (x.2.seq < p.seq) && !x.2.isWait)).any (fun x =>
    (decide (x.2.done < x.2.ins.rep) && meets (m.regsWritten n c x.2.ins) (rd ++ wr)) ||
    (decide (x.2.begun < x.2.ins.rep) && meets (m.regsRead n x.2.ins) wr)) ||
  (m.range n).regWrites.any (fun w => decide (w.seq < p.seq) && meets (tregSpan (decide (w.tile.fmt = .fp64)) w.treg) (rd ++ wr))

/-- R230: a tile-register field names a register of Col's staging area. -/
def Mach.stagingNamed (m : Mach) (n : Nat) (e : Ewx) : Bool :=
  let base := m.rdF (Reg.RANGE_COL_PREFETCH_CFG n) Fld.RANGE_COL_PREFETCH_CFG_PF_BASE
  let cnt := m.rdF (Reg.RANGE_COL_PREFETCH_CFG n) Fld.RANGE_COL_PREFETCH_CFG_PF_COUNT
  let area := (List.range cnt).map (fun i => (base + i) % 512)
  meets (e.tregReads ++ e.tregWrite.toList) area

/-! ### Tile queues (R34, R35) -/

def RangeSt.queue (r : RangeSt) : QId → TQueue
  | .aFeed => r.aFeed | .bFeed => r.bFeed | .drain => r.drain | .store => r.store
  | .screeSpur => r.screeSpur | .screeCrest => r.screeCrest

def RangeSt.setQueue (r : RangeSt) (q : QId) (v : TQueue) : RangeSt :=
  match q with
  | .aFeed => { r with aFeed := v } | .bFeed => { r with bFeed := v } | .drain => { r with drain := v }
  | .store => { r with store := v } | .screeSpur => { r with screeSpur := v } | .screeCrest => { r with screeCrest := v }

def queueDepth : QId → Nat
  | .drain => 8 | .store => 8 | _ => 4

def allQueues : List QId := [.aFeed, .bFeed, .drain, .store, .screeSpur, .screeCrest]

/-- The consuming station of a queue. -/
def consumer : QId → Nat
  | .aFeed => 2 | .bFeed => 2 | .drain => 3 | .store => 4 | .screeSpur => 3 | .screeCrest => 2

/-- The entries in use: an FP64 tile takes two, and a stationary operand keeps its entry (R100, R178). -/
def TQueue.used (q : TQueue) : Nat := (q.entries.map (fun e => e.tile.weight)).sum + q.held

/-- Whether a tile finds empty entries (R35). -/
def RangeSt.room (r : RangeSt) (q : QId) (t : Tile) : Bool := decide ((r.queue q).used + t.weight ≤ queueDepth q)

/-- An entry taken by a producer; it becomes full later. -/
def RangeSt.reserve (r : RangeSt) (q : QId) (st : Nat) (t : Tile) : RangeSt :=
  let v := r.queue q
  r.setQueue q { v with entries := v.entries ++ [{ tile := t, full := false, station := st }] }

/-- The oldest tile of a queue, where it is full. -/
def RangeSt.front (r : RangeSt) (q : QId) : Option Tile :=
  match (r.queue q).entries with
  | e :: _ => if e.full then some e.tile else none
  | [] => none

/-- Taking the oldest tile; a stationary operand keeps its entry until its instruction ends. -/
def RangeSt.take (r : RangeSt) (q : QId) (keep : Bool) : RangeSt :=
  let v := r.queue q
  let w := (v.entries.head?).elim 0 (fun e => e.tile.weight)
  r.setQueue q { entries := v.entries.drop 1, held := if keep then v.held + w else v.held }

/-! ### How an attempt to begin a repeat ends -/

/-- A station's attempt: held (with the code of R74), stopped (with where), or begun. -/
inductive Begin where
  | held (cond : Nat)
  | stop (m : Mach) (at_ : StopAt)
  | ok (m : Mach)

/-- A stop of a placed instruction at a repeat. -/
def Placed.stopAt (p : Placed) (n st status cause rep : Nat) : StopAt :=
  { range := n, status := status, cause := cause, instr := p.idx, rep := rep, station := st, cond := 0 }

/-- The lowest condition of R74 that holds, if any. -/
def holdCode (l : List (Nat × Bool)) : Option Nat := (l.find? (fun x => x.2)).map (fun x => x.1)

/-- A station's front instruction, ready to be asked: its repeat and its own conditions come next. A wait holds with code 5
until it is satisfied; an instruction whose repeats have all begun holds the next with code 3; an empty sequence, 7. -/
def Mach.frontOf (m : Mach) (n st : Nat) : Except Nat Placed :=
  match ((m.range n).seqOf st).head? with
  | none => .error 7
  | some p =>
    if p.isWait then .error 5
    else if p.ins.rep ≤ p.begun then .error 3
    else .ok p

/-- In lockstep a repeat must find the one before it finished (R74). -/
def Placed.prevBusy (p : Placed) (lockstep : Bool) : Bool := lockstep && decide (p.done < p.begun)

/-- A flow-mode attempt: a hold changes nothing, a stop stops the stream (R36, R45). (DESIGN CHOICE, log entry 35.) -/
def Mach.flowBegin (m : Mach) (n : Nat) (f : Mach → Stream → Begin) : Mach :=
  match m.streamOn n with
  | none => m
  | some s =>
    if s.lockstep || (m.range n).halted || !s.admitted || m.frozen s.ctx then m
    else match f m s with
      | .held _ => m
      | .ok m' => m'
      | .stop m' a => m'.stopStream s.id a.status [a]

/-! ### Translation at the stations (R214 to R219) -/

def RangeSt.tlb (r : RangeSt) (st : Nat) : List TlbEntry :=
  match st with
  | 1 => r.tlbCol | 4 => r.tlbTalus | _ => r.tlbScree

def RangeSt.setTlb (r : RangeSt) (st : Nat) (l : List TlbEntry) : RangeSt :=
  match st with
  | 1 => { r with tlbCol := l } | 4 => { r with tlbTalus := l } | _ => { r with tlbScree := l }

def tlbFind (l : List TlbEntry) (va : Nat) : Option TlbEntry := l.find? (fun e => decide (e.va ≤ va) && decide (va < e.va + e.size))

def TlbEntry.leaf (e : TlbEntry) : Leaf := { va := e.va, size := e.size, pa := e.pa, write := e.write, pdom := e.pdom }

/-- The entries without the last that is not locked. -/
def dropOldest : List TlbEntry → List TlbEntry
  | [] => []
  | e :: t => if t.all (fun x => x.locked) && !e.locked then t else e :: dropOldest t

/-- A leaf put first; a full cache loses its least recently used unlocked entry (R272). -/
def tlbInsert (l : List TlbEntry) (c : Nat) (f : Leaf) (locked : Bool) : List TlbEntry :=
  let rest := l.filter (fun e => decide (e.va ≠ f.va))
  { ctx := c, va := f.va, size := f.size, pa := f.pa, write := f.write, pdom := f.pdom, locked := locked } ::
    (if 4096 ≤ rest.length then dropOldest rest else rest)

/-- The entries used go to the front (R272). -/
def tlbUse (l : List TlbEntry) (vas : List Nat) : List TlbEntry :=
  let used := fun e : TlbEntry => vas.any (fun v => decide (e.va ≤ v) && decide (v < e.va + e.size))
  l.filter used ++ l.filter (fun e => !used e)

/-- The sectors of a run of bytes. -/
def sectorsOf (va len : Nat) : List Nat :=
  if len = 0 then [] else (List.range' (va / 64) ((va + len - 1) / 64 + 1 - va / 64)).map (fun k => 64 * k)

/-- An access of a station: the virtual sectors of one descriptor. -/
structure Access where
  handle : Nat
  pdom : Nat
  write : Bool
  sectors : List Nat
  deriving DecidableEq, Repr

/-- What the translation of a repeat's accesses says: walks are needed, a check failed (kind, handle, direction, sector), or
every sector has a leaf. -/
inductive Xlate where
  | walks (l : List (Nat × Nat × Bool))
  | fault (kind handle : Nat) (write : Bool) (va : Nat)
  | ok
  deriving DecidableEq, Repr

def xlateOne (tlb : List TlbEntry) (st : Nat) (lockstep : Bool) (a : Access) (va : Nat) : Option (Nat × Nat × Bool × Nat) :=
  (leafFault ((tlbFind tlb va).map (fun e => e.leaf)) a.pdom a.write (decide (st = 5)) lockstep).map
    (fun k => (k, a.handle, a.write, va))

/-- The first of each 64 KiB page: one walk serves the page. -/
def onePerPage (l : List (Nat × Nat × Bool)) : List (Nat × Nat × Bool) :=
  l.foldl (fun a x => if a.any (fun y => decide (y.1 / 65536 = x.1 / 65536)) then a else a ++ [x]) []

/-- Every sector is translated and checked before any data moves (R214, R218). In lockstep nothing is walked: the caches were
loaded at the start (R219). (DESIGN CHOICE, log entry 20.) -/
def Mach.xlate (m : Mach) (n st : Nat) (lockstep : Bool) (l : List Access) : Xlate :=
  let tlb := (m.range n).tlb st
  let missing := l.flatMap (fun a => (a.sectors.filter (fun v => (tlbFind tlb v).isNone)).map (fun v => (v, a.handle, a.write)))
  if !lockstep && !missing.isEmpty then .walks (onePerPage missing)
  else match (l.flatMap (fun a => a.sectors.filterMap (xlateOne tlb st lockstep a))).head? with
    | some (k, h, w, v) => .fault k h w v
    | none => .ok

/-- Walks started for a repeat, at most 16 of a station in flight (R272). -/
def Mach.startWalks (m : Mach) (n st seq rep : Nat) (l : List (Nat × Nat × Bool)) : Mach :=
  m.updRange n (fun r =>
    let mine := r.walks.filter (fun w => decide (w.station = st))
    let new := (l.filter (fun x => !mine.any (fun w => decide (w.va / 65536 = x.1 / 65536)))).take (16 - mine.length)
    { r with walks := r.walks ++ new.map (fun x => { station := st, seq := seq, rep := rep, va := x.1, handle := x.2.1, write := x.2.2 }) })

/-- What a memory fault records (R216, R254, R255). -/
def Mach.recordFault (m : Mach) (n st kind handle : Nat) (write : Bool) (pos va : Nat) : Mach :=
  let w : Nat := st * 2 ^ 29 + kind * 2 ^ 25 + b2n write * 2 ^ 24 + pos * 65536 + handle
  let m := if kind = 1 ∧ (st = 1 ∨ st = 5) then m.tally (7 * n + st) 0 else m
  ((m.wr (Reg.RANGE_FAULT_INFO n) (BitVec.ofNat 32 w)).wr (Reg.RANGE_FAULT_VA_LO n) (BitVec.ofNat 32 va)).wr
    (Reg.RANGE_FAULT_VA_HI n) (BitVec.ofNat 32 (va / 2 ^ 32))

/-- The accesses of a repeat are translated and checked before any data moves (R214, R218): walks start, the stream stops
with the fault (R216), or the repeat goes on. -/
def Mach.access (m : Mach) (n st : Nat) (lockstep : Bool) (p : Placed) (rep : Nat) (l : List Access) (k : Mach → Begin) : Begin :=
  match m.xlate n st lockstep l with
  | .walks ws => .ok (m.startWalks n st p.seq rep ws)
  | .fault kind h w va => .stop (m.recordFault n st kind h w 0 va) (p.stopAt n st (faultStatus kind) 0 rep)
  | .ok => k (m.updRange n (fun r => r.setTlb st (tlbUse (r.tlb st) (l.flatMap (fun a => a.sectors)))))

/-- The lowest cause of a repeat that holds, as a stop (R251, R681). -/
def Placed.causes (p : Placed) (n st rep : Nat) (l : List (Nat × Bool)) : Option StopAt :=
  (holdCode l).map (fun c => p.stopAt n st St.streamFault c rep)

/-- A repeat has begun; one has completed (R38). -/
def Mach.beginRep (m : Mach) (n st seq : Nat) : Mach := m.updRange n (fun r => r.begin st seq)
def Mach.didRep (m : Mach) (n st seq : Nat) : Mach := (m.updRange n (fun r => r.did st seq)).progress n

/-- The tile that a register holds once the results under way have landed: what the next repeat of the same instruction
reads (R190). -/
def RangeSt.tregNow (r : RangeSt) (k : Nat) : Tile :=
  match (r.regWrites.filter (fun w => decide (w.treg = k))).getLast? with
  | some w => w.tile
  | none => r.treg k

/-- A tile on its way to a queue (0: none) or to a register; it arrives at TILE_FULL. -/
def RangeSt.deliver (r : RangeSt) (st seq : Nat) (q : Option QId) (treg : Option Nat) (t : Tile) : RangeSt :=
  let r := match q with | some q => r.reserve q st t | none => r
  match treg with
  | some k => { r with regWrites := r.regWrites ++ [{ station := st, seq := seq, treg := k, tile := t }] }
  | none => r

/-- Whether a repeat's destination queue is without room. -/
def RangeSt.full (r : RangeSt) (q : Option QId) (f : Fmt) : Bool :=
  match q with | some q => !r.room q { Tile.zeroed with fmt := f } | none => false

/-- Whether a queue source is not visible. -/
def RangeSt.absent (r : RangeSt) (q : Option QId) : Bool := match q with | some q => (r.front q).isNone | none => false

/-- The oldest tile of a station's queue entries becomes full, with the tile given where there is one. -/
def fillWith (st : Nat) (t : Option Tile) : List QEntry → List QEntry
  | [] => []
  | e :: l => if e.station = st ∧ !e.full then { e with full := true, tile := t.getD e.tile } :: l else e :: fillWith st t l

/-- A delivered tile arrives (R35, R248). -/
def RangeSt.arrive (r : RangeSt) (st seq : Nat) (q : Option QId) (treg : Option Nat) (t : Option Tile) : RangeSt :=
  let r := match q with
    | some q => (let v := r.queue q; r.setQueue q { v with entries := fillWith st t v.entries })
    | none => r
  match treg with
  | some _ =>
    (match r.regWrites.find? (fun w => decide (w.station = st) && decide (w.seq = seq)) with
     | some w => ({ r with regWrites := r.regWrites.erase w }).setTreg w.treg (t.getD w.tile)
     | none => r)
  | none => r

/-- A page walk ends (R262 to R265, R272): the leaf enters the station's cache; no valid entry stops the stream if the repeat
that needs it is the one to begin (R215, R217). -/
def Mach.walkDone (m : Mach) (n st : Nat) : Mach :=
  match m.streamOn n, (m.range n).walks.find? (fun w => decide (w.station = st)) with
  | some s, some w =>
    let m := m.updRange n (fun r => { r with walks := r.walks.erase w })
    match (m.ctx s.ctx).bind (fun x => x.leaf w.va) with
    | some f => m.updRange n (fun r => r.setTlb st (tlbInsert (r.tlb st) s.ctx f false))
    | none =>
      match ((m.range n).seqOf st).head? with
      | some p =>
        if p.seq = w.seq ∧ p.begun = w.rep then
          (m.recordFault n st 1 w.handle w.write 0 w.va).stopStream s.id St.translationFault
            [p.stopAt n st St.translationFault 0 w.rep]
        else m
      | none => m
  | _, _ => m

end Sys2Proof.Machine
end

