-- ==== Sys2Proof/Machine/Flags.lean ====
section
/-!
DEFINITION. The sticky flags that conversions and accumulations set (R138, R139, R141, R193), and the rounding draws of R146.
-/

namespace Sys2Proof.Machine

/-- The flags of a conversion set in a range's `CONVERT_STATUS` (R138, R149). -/
def Mach.convFlags (m : Mach) (n fl : Nat) : Mach := if fl = 0 then m else m.orR (Reg.RANGE_CONVERT_STATUS n) fl

/-- The flags of a narrowing by Tarn set in its stack's `CONVERT_STATUS` (R138, R299). -/
def Mach.tarnFlags (m : Mach) (s fl : Nat) : Mach := if fl = 0 then m else m.orR (Reg.FOOTHILL_CONVERT_STATUS s) (fl % 16)

/-- `NAN_MADE` and `NORM_NAN` (R189, R193). -/
def Mach.nanMade (m : Mach) (n : Nat) (b : Bool) : Mach := if b then m.orR (Reg.RANGE_SPUR_STATUS n) 1 else m
def Mach.normNan (m : Mach) (n : Nat) (b : Bool) : Mach := if b then m.orR (Reg.RANGE_SPUR_STATUS n) 2 else m

/-- The rounding of each position of an output tile of a range (R144 to R147). -/
def Mach.rounding (m : Mach) (n c : Nat) (p : Placed) (rep : Nat) (pos : Nat) : Rounding :=
  srMode p.ins.sr ((m.ctx c).elim 0 (fun x => x.seed)) n (m.range n).streamCount p.idx rep pos

end Sys2Proof.Machine
end

