-- ==== Sys2Proof/Machine/Operands.lean ====
section
/-!
DEFINITION. Operands in memory: tiles read and written through descriptors (R48 to R51, R56, R127 to R134, R136, R137, R224 to
R229, R234), as the accesses they make, the codes they load and the bytes they store.
-/

namespace Sys2Proof.Machine

/-! ### Loading -/

/-- The `w` bits at a bit address, through a reader of bytes (R127, R128). -/
def bitsVia (rd : Nat → Byte) (bit w : Nat) : Nat :=
  bitsOf (leNat ((List.range ((bit % 8 + w + 7) / 8)).map (fun i => rd (bit / 8 + i)))) (bit % 8) w

/-- Whether the scale block of a position has an in-extent position (R134, R228). -/
def Desc.blockHas (d : Desc) (c : List Int) : Bool :=
  let a := d.scaleAxis
  let b : Int := d.block
  let lo := c.getD a 0 / b * b
  let o := if d.rank < 2 ∧ a = 0 then 0 else c.getD (1 - a) 0
  decide (0 ≤ o) && decide (o < (d.extent (1 - a) : Int)) && decide (lo < (d.extent a : Int)) && decide (0 < lo + b)

/-- The scale of a position: 0x7F in a block with no in-extent position (R228). -/
def Desc.scaleVia (d : Desc) (rd : Nat → Byte) (c : List Int) : Nat := if d.blockHas c then (rd (d.scaleAddr c)).toNat else 127

/-- The element code of a position: memory in extent, `PAD_VALUE` elsewhere (R49, R228). -/
def Desc.codeVia (d : Desc) (rd : Nat → Byte) (c : List Int) : Nat :=
  if d.classOf c = .inExtent then bitsVia rd (d.bitAddr c) d.format.width else padCode d.format d.padValue

/-- A position's value (R132). -/
def Desc.valVia (d : Desc) (rd : Nat → Byte) (c : List Int) : Num :=
  if d.block = 0 then d.format.decode (d.codeVia rd c) else scaledValue d.format (d.codeVia rd c) (d.scaleVia rd c)

/-- Rows and columns of a loaded tile (R226). -/
def Desc.shape (d : Desc) (tr : Bool) : Nat × Nat := if tr then (d.tileCols, d.tileRows) else (d.tileRows, d.tileCols)

/-- The scale bytes of a loaded tile (R133, R227): by line and block. -/
def Desc.tileScales (d : Desc) (rd : Nat → Byte) (o : List Int) (tr : Bool) : List (Nat × Nat) :=
  let s := d.shape tr
  let axis := if tr then 1 - d.scaleAxis else d.scaleAxis
  let cells := if axis = 0 then positions s.1 ((s.2 + d.block - 1) / d.block) else positions s.2 ((s.1 + d.block - 1) / d.block)
  (cells.map (fun p =>
    let c := if axis = 0 then tileCoords o p.1 (p.2 * d.block) tr else tileCoords o (p.2 * d.block) p.1 tr
    (128 * p.1 + p.2, d.scaleVia rd c))).filter (fun e => decide (e.2 ≠ 127))

/-- The tile of a load (R136, R225 to R229). -/
def Desc.load (d : Desc) (rd : Nat → Byte) (o : List Int) (tr : Bool) (cvt : Option Fmt) : Tile :=
  let s := d.shape tr
  match cvt with
  | some f => Tile.ofFn f s.1 s.2 (fun i j => f.round (d.valVia rd (tileCoords o i j tr)))
  | none =>
    { fmt := d.format, block := d.block, axis := if d.block = 0 then 0 else if tr then 1 - d.scaleAxis else d.scaleAxis,
      elems := sparseOf s.1 s.2 (fun i j => d.codeVia rd (tileCoords o i j tr)),
      scales := if d.block = 0 then [] else d.tileScales rd o tr }

/-- The virtual sectors that an element and its scale lie in. -/
def Desc.elemSectors (d : Desc) (c : List Int) : List Nat :=
  let bit := d.bitAddr c
  sectorsOf (bit / 8) ((bit % 8 + d.format.width + 7) / 8)

/-- The sectors of the in-extent positions of a tile and of their scales (R212, R213). -/
def Desc.loadSectors (d : Desc) (o : List Int) (tr : Bool) : List Nat :=
  let s := d.shape tr
  let cs := (positions s.1 s.2).map (fun p => tileCoords o p.1 p.2 tr)
  let ins := cs.filter (fun c => decide (d.classOf c = .inExtent))
  (ins.flatMap d.elemSectors ++ (if d.block = 0 then [] else ins.flatMap (fun c => sectorsOf (d.scaleAddr c) 1))).eraseDups

/-- R227: the coordinate along the scale axis is a multiple of the block size. -/
def Desc.aligned (d : Desc) (o : List Int) : Bool := decide (d.block = 0) || decide (o.getD d.scaleAxis 0 % (d.block : Int) = 0)

/-! ### Storing -/

/-- The pairs of tile and descriptor that Talus converts (R137). -/
def storeOk (t : Tile) (d : Desc) : Bool :=
  if t.scaled then decide (t.fmt = d.format) && decide (t.block = d.block) && decide (t.axis = d.scaleAxis)
  else match t.fmt with
    | .fp32 | .bf16 | .fp16 => decide (d.format.code ≤ 10)
    | .fp64 => decide (d.format = .fp64) || decide (d.format = .fp32)
    | .int32 => decide (d.format = .int32) || decide (d.format = .int8) || decide (d.format = .int4) || decide (d.format = .fp32)
    | f => decide (f = d.format) && decide (d.block = 0)

/-- A bit write: bit address, width, code. -/
structure BitWrite where
  bit : Nat
  width : Nat
  code : Nat
  deriving DecidableEq, Repr

/-- What a store writes and the flags it sets. -/
structure StoreOut where
  writes : List BitWrite
  flags : Nat
  deriving DecidableEq, Repr

/-- The in-extent positions of the block that a tile position lies in, as tile positions (R134). -/
def Desc.blockCells (d : Desc) (o : List Int) (i j : Nat) : List (Nat × Nat) :=
  let b := d.block
  let cells := if d.scaleAxis = 0 then (List.range' (j / b * b) b).map (fun k => (i, k)) else (List.range' (i / b * b) b).map (fun k => (k, j))
  cells.filter (fun p => decide (p.1 < d.tileRows) && decide (p.2 < d.tileCols) &&
    decide (d.classOf (tileCoords o p.1 p.2 false) = .inExtent))

/-- A tile's value after conversion to FP32 (R134). -/
def Tile.val32 (t : Tile) (i j : Nat) : Num := Fmt.fp32.decode (Fmt.fp32.round (t.val i j))

/-- The scale byte that a store gives a position's block, and its flags (R134). -/
def Desc.storeScale (d : Desc) (t : Tile) (o : List Int) (i j : Nat) : Nat × Nat :=
  if t.scaled then (t.scaleAt i j, 0)
  else
    let l := d.blockCells o i j
    if l = [] then (127, 0) else blockScale d.format (l.map (fun p => t.val32 p.1 p.2))

/-- The element code that a store writes at a position, and its flags; nothing where it writes none (R49, R134, R137, R138). -/
def Desc.storeCode (d : Desc) (t : Tile) (o : List Int) (mode : Nat → Rounding) (i j : Nat) : Option (Nat × Nat) :=
  let c := tileCoords o i j false
  match d.classOf c with
  | .masked => none
  | .padding =>
    if !d.padWrite then none
    else if d.block ≠ 0 ∧ (d.storeScale t o i j).1 = 255 then some (0, 0)
    else some (padCode d.format d.padValue, 0)
  | .inExtent =>
    if d.block ≠ 0 ∧ !t.scaled then some (scaledElement d.format (d.storeScale t o i j).1 (mode (128 * i + j)) (t.val32 i j))
    else if t.fmt = d.format then some (t.code i j, 0)
    else some (narrow d.format (mode (128 * i + j)) (t.val i j))

/-- The blocks of a tile whose scale a store writes: their first in-extent position. -/
def Desc.scaleCells (d : Desc) (o : List Int) : List (Nat × Nat) :=
  if d.block = 0 then []
  else (positions d.tileRows d.tileCols).filter (fun p => decide ((d.blockCells o p.1 p.2).head? = some p))

/-- A store of a tile (R234). -/
def Desc.store (d : Desc) (t : Tile) (o : List Int) (mode : Nat → Rounding) : StoreOut :=
  let cells := (positions d.tileRows d.tileCols).filterMap (fun p => (d.storeCode t o mode p.1 p.2).map (fun r => (p, r)))
  let elems := cells.map (fun x => { bit := d.bitAddr (tileCoords o x.1.1 x.1.2 false), width := d.format.width, code := x.2.1 : BitWrite })
  let scs := (d.scaleCells o).map (fun p => (p, d.storeScale t o p.1 p.2))
  { writes := elems ++ scs.map (fun x => { bit := 8 * d.scaleAddr (tileCoords o x.1.1 x.1.2 false), width := 8, code := x.2.1 : BitWrite }),
    flags := cells.foldl (fun f x => f ||| x.2.2) (scs.foldl (fun f x => f ||| x.2.2) 0) }

/-- The sectors that a store touches. -/
def storeSectors (l : List BitWrite) : List Nat :=
  (l.flatMap (fun w => sectorsOf (w.bit / 8) ((w.bit % 8 + w.width + 7) / 8))).eraseDups

/-- The bits that a store replaces, byte by byte: virtual address, value and mask. -/
abbrev ByteMap := List (Nat × (Nat × Nat))

/-- One bit write laid over a byte map. -/
def ByteMap.add (b : ByteMap) (w : BitWrite) : ByteMap :=
  (List.range ((w.bit % 8 + w.width + 7) / 8)).foldl (fun b i =>
    let va := w.bit / 8 + i
    let old := Sparse.get (fun _ => (0, 0)) b va
    let mask := bitsOf (((2 ^ w.width - 1) <<< (w.bit % 8))) (8 * i) 8
    let val := bitsOf ((w.code % 2 ^ w.width) <<< (w.bit % 8)) (8 * i) 8
    Sparse.put (fun _ => (0, 0)) b va ((old.1 &&& (255 - mask)) ||| val, old.2 ||| mask)) b

def byteMap (l : List BitWrite) : ByteMap := l.foldl ByteMap.add []

/-- A byte with masked bits replaced. -/
def mergeByte (old : Byte) (v mask : Nat) : Byte := BitVec.ofNat 8 ((old.toNat &&& (255 - mask)) ||| v)

/-- Whether a byte map replaces a whole 64-bit word. -/
def ByteMap.whole (b : ByteMap) (va : Nat) : Bool :=
  (List.range 8).all (fun i => decide ((Sparse.get (fun _ => (0, 0)) b (va + i)).2 = 255))

/-- A store is performed: whole sectors are written, partial ones merged; what the merge reads is checked, and a word it
cannot correct and does not replace whole is left poisoned (R129, R276, R277). Host pages go as transactions (R220). (DEDUCED, log entry 19.) -/
def Mach.perform (m : Mach) (n : Nat) (x : Ctx) (b : ByteMap) (e : Ecc) (owner : TxnOwner) : Mach :=
  let local_ := b.filter (fun y => (x.phys y.1).elim false (fun pa => !isHost pa))
  let sectors := (local_.map (fun y => y.1 / 64 * 64)).eraseDups
  let partialSectors := sectors.filter (fun s => !(List.range 8).all (fun i => b.whole (s + 8 * i)))
  let read := partialSectors.flatMap (fun s => (x.phys s).elim [] sectorWords)
  let lost := (partialSectors.flatMap (fun s => (List.range 8).map (fun i => s + 8 * i))).filterMap (fun w => (x.phys w).bind (fun pa =>
    if !b.whole w && (e.bad.contains pa || m.poisoned pa) then some pa else none))
  let m := m.checkWords srcMerge n e read
  let m := m.writeRuns (local_.filterMap (fun y => (x.phys y.1).map (fun pa => (pa, mergeByte (m.readByte pa) y.2.1 y.2.2))))
  let m := lost.foldl (fun m w => m.setPoison w) m
  let hosts := ((b.filter (fun y => (x.phys y.1).elim false isHost)).map (fun y => y.1 / 64 * 64)).eraseDups
  hosts.foldl (fun m s => match x.phys s with
    | none => m
    | some pa =>
      let mine := b.filter (fun y => decide (y.1 / 64 * 64 = s))
      if (List.range 8).all (fun i => b.whole (s + 8 * i)) then
        m.hostTxn true pa 64 (mine.map (fun y => BitVec.ofNat 8 y.2.1)) [] owner
      else m.hostTxn false pa 64 [] (mine.map (fun y => (y.1 - s, y.2.1, y.2.2))) owner) m

end Sys2Proof.Machine
end

