-- ==== Sys2Proof/Machine/Ctrl.lean ====
section
/-!
DEFINITION. The instructions that a range's dispatcher executes itself, IDLE, SYNC, and the events that complete an
instruction, end a stream, find no progress or end a page walk (02_tile_streams, 03_stream_encoding).
-/

namespace Sys2Proof.Machine

/-! ### CTRL (R32, R61 to R64, R95, R96) -/

/-- The range rank: how many ranges of the mask lie below (R45, closing text). -/
def rangeRank (mask n : Nat) : Nat := (maskBits mask n).length

/-- CTRL.FENCE (R32, R437). -/
def ctrlFence (n : Nat) (m : Mach) : Mach :=
  match m.nextIs n .fence with
  | none => m
  | some (_, e) => (m.updRange n (fun r => { r.step with fence := some (e.m 0 8, r.nextSeq) })).settle n

/-- The place after the CTRL.ENDLOOP that closes `depth` open loops, from place `i` on. -/
def afterEnd : List Ewx → Nat → Nat → Nat
  | [], i, _ => i
  | e :: t, i, depth =>
    if e.sop = some .loop then afterEnd t (i + 1) (depth + 1)
    else if e.sop = some .endloop then (if depth ≤ 1 then i + 1 else afterEnd t (i + 1) (depth - 1))
    else afterEnd t (i + 1) depth

/-- CTRL.LOOP (R62, R64). -/
def ctrlLoop (n : Nat) (m : Mach) : Mach :=
  match m.nextIs n .loop with
  | none => m
  | some (s, e) =>
    let r := m.range n
    if 4 ≤ r.loops.length then m.placeFault n s e 0x04
    else
      let count := (m.rd (Reg.RANGE_LC n (e.m 0 2))).toNat
      if count = 0 then m.setRange n { r.step with pc := afterEnd (s.image.code.drop (r.pc + 1)) (r.pc + 1) 1 }
      else m.setRange n { r.step with loops := { body := r.pc + 1, count := count } :: r.loops }

/-- CTRL.ENDLOOP (R62). -/
def ctrlEndloop (n : Nat) (m : Mach) : Mach :=
  match m.nextIs n .endloop with
  | none => m
  | some _ =>
    let r := m.range n
    match r.loops with
    | [] => m.setRange n r.step
    | f :: t =>
      if 1 < f.count then m.setRange n { r.step with pc := f.body, loops := { f with count := f.count - 1 } :: t }
      else m.setRange n { r.step with loops := t }

/-- CTRL.SETLC (R63, R95). -/
def ctrlSetlc (n : Nat) (m : Mach) : Mach :=
  match m.nextIs n .setlc with
  | none => m
  | some (_, e) => (m.wr (Reg.RANGE_LC n (e.m 32 2)) (BitVec.ofNat 32 (e.m 0 32))).updRange n RangeSt.step

/-- The index of the coordinate register that a CTRL write names: 8 × register + dimension (R82, R95). -/
def Ewx.axIndex (e : Ewx) : Nat := 8 * e.axa + e.m 37 3

/-- The signed immediate (R95). -/
def Ewx.imm (e : Ewx) : Int := signedOf (e.m 0 32) 32

/-- CTRL.SETAX (R61, R96). -/
def ctrlSetax (n : Nat) (m : Mach) : Mach :=
  match m.nextIs n .setax with
  | none => m
  | some (s, e) =>
    let v := if e.m 36 1 = 1 then e.imm * (rangeRank s.mask n : Int) else e.imm
    if !in32 v then m.placeFault n s e 0x03
    else (m.wr (Reg.RANGE_AX_COORD n e.axIndex) (BitVec.ofInt 32 v)).updRange n RangeSt.step

/-- CTRL.ADDAX (R61, R96). -/
def ctrlAddax (n : Nat) (m : Mach) : Mach :=
  match m.nextIs n .addax with
  | none => m
  | some (s, e) =>
    let v := (m.rd (Reg.RANGE_AX_COORD n e.axIndex)).toInt + e.imm
    if !in32 v then m.placeFault n s e 0x03
    else (m.wr (Reg.RANGE_AX_COORD n e.axIndex) (BitVec.ofInt 32 v)).updRange n RangeSt.step

/-- CTRL.SETINC (R61). -/
def ctrlSetinc (n : Nat) (m : Mach) : Mach :=
  match m.nextIs n .setinc with
  | none => m
  | some (_, e) => (m.wr (Reg.RANGE_INC_COORD n e.axIndex) (BitVec.ofInt 32 e.imm)).updRange n RangeSt.step

/-! ### IDLE (R92) -/

/-- A station's front instruction leaves its sequence, complete. -/
def Mach.retire (m : Mach) (n st : Nat) : Mach := (m.updRange n (fun r => r.setSeq st ((r.seqOf st).drop 1))).settle n

/-- IDLE: placed by the dispatcher, which executes it itself at CTRL and SYNC; in flow mode complete as soon as its station
reaches it. In lockstep its slots are taken at SLOT_START. -/
def idle (n st : Nat) (ph : Phase) (m : Mach) : Mach :=
  match ph with
  | .place =>
    (match m.nextIs n .idle with
     | none => m
     | some (s, e) =>
       if e.station ≠ st then m
       else if st = 0 ∨ st = 6 then m.updRange n RangeSt.step
       else m.place n s e .idle none)
  | .run =>
    match m.streamOn n, ((m.range n).seqOf st).head? with
    | some s, some p =>
      if p.ins.sop = some .idle ∧ !s.lockstep ∧ !(m.range n).halted ∧ !m.repHeld n p 0 then m.retire n st else m
    | _, _ => m

/-! ### SYNC (R65 to R69) -/

/-- A signal adds to its counter, or stops its stream where it would pass 2^32 − 1 (R69). -/
def Mach.addCounter (m : Mach) (n : Nat) (s : Stream) (idx counter inc : Nat) : Mach :=
  let v := m.syncVal s.ctx counter + inc
  if 2 ^ 32 ≤ v then
    (m.tally 315 0).stopStream s.id St.streamFault
      [{ range := n, status := St.streamFault, cause := 0x06, instr := idx, rep := 0, station := 6, cond := 0 }]
  else m.wr (Reg.TRAVERSE_SYNC_COUNTER (m.syncBase s.ctx + counter)) (BitVec.ofNat 32 v)

/-- SYNC.SIGNAL placed (R65, R66, R93): with a mask of zero it fires at once. -/
def syncSignal (n : Nat) (m : Mach) : Mach :=
  match m.nextIs n .signal with
  | none => m
  | some (s, e) =>
    if m.syncLen s.ctx ≤ e.counter then m.placeFault n s e 0x05
    else
      let r := m.range n
      if e.mask = 0 then (m.setRange n r.step).addCounter n s r.pc e.counter (e.m 0 16)
      else m.setRange n { r.step with signals := r.signals ++
        [{ seq := r.nextSeq, idx := r.pc, counter := e.counter, inc := e.m 0 16, mask := e.mask }] }

/-- A pending signal fires once everything before it at its stations has completed (R66). -/
def syncFire (n i : Nat) (m : Mach) : Mach :=
  match m.streamOn n, (m.range n).signals[i]? with
  | some s, some g =>
    if m.doneBefore n g.mask g.seq ∧ !m.seqHeld n g.seq then
      (m.updRange n (fun r => { r with signals := r.signals.erase g })).addCounter n s g.idx g.counter g.inc
    else m
  | _, _ => m

/-- SYNC.WAIT placed: in the sequence of each station of the mask, and at the dispatcher where it names CTRL (R67). -/
def syncWait (n : Nat) (m : Mach) : Mach :=
  match m.nextIs n .wait with
  | none => m
  | some (s, e) =>
    if m.syncLen s.ctx ≤ e.counter then m.placeFault n s e 0x05
    else
      let r := m.range n
      let p : Placed := { seq := r.nextSeq, idx := r.pc, ins := e, a := ⟨[], []⟩, b := ⟨[], []⟩, pass := r.passOf r.pc, begun := 0, done := 0 }
      let q := (maskBits e.mask 8).foldl (fun r st => r.setSeq st (r.seqOf st ++ [p])) r
      m.setRange n { q.step with ctrlWait := if bitOf e.mask 0 then some (e.counter, e.m 0 32, r.nextSeq) else none }

/-- Whether the front of a station's sequence is a wait whose counter is at its target (R67). -/
def Mach.waitMet (m : Mach) (c : Nat) (p : Placed) : Bool := p.isWait && decide (p.ins.m 0 32 ≤ m.syncVal c p.ins.counter)

/-- A wait is satisfied at a station; one that names SCREE invalidates the row cache (R67, R247). -/
def waitSatisfied (n st : Nat) (m : Mach) : Mach :=
  match m.streamOn n with
  | none => m
  | some s =>
    if st = 0 then
      match (m.range n).ctrlWait with
      | some (c, target, seq) => if target ≤ m.syncVal s.ctx c ∧ !m.seqHeld n seq then m.updRange n (fun r => { r with ctrlWait := none }) else m
      | none => m
    else
      match ((m.range n).seqOf st).head? with
      | some p =>
        if m.waitMet s.ctx p ∧ !m.seqHeld n p.seq then
          m.updRange n (fun r => { r.setSeq st ((r.seqOf st).drop 1) with rowCache := if bitOf p.ins.mask 5 then [] else r.rowCache })
        else m
      | none => m

/-! ### Completion (R28) -/

/-- What the completion of a CREST.MMA leaves: stationary entries are released, and `LAST_FRAC` is set (R100, R176). -/
def Mach.mmaDone (m : Mach) (n : Nat) : Mach :=
  let r := m.range n
  let frac := if m.rdF (Reg.RANGE_CREST_CTL n) Fld.RANGE_CREST_CTL_GATE_EN = 0 ∨ r.gate.2 = 0 then 0
    else min 65535 (r.gate.1 * 65536 / r.gate.2)
  let free (q : TQueue) : TQueue := { q with held := 0 }
  (m.setRange n { r with statA := none, statB := none, gate := (0, 0), aFeed := free r.aFeed, bFeed := free r.bFeed,
                         screeCrest := free r.screeCrest }).wrF (Reg.RANGE_CREST_GATE n) Fld.RANGE_CREST_GATE_LAST_FRAC frac

/-- The norm accumulator of a range (R193, R208). -/
def Mach.normAcc (m : Mach) (n : Nat) : Nat := (m.rd (Reg.RANGE_SPUR_NORM_ACC_LO n)).toNat + 2 ^ 32 * (m.rd (Reg.RANGE_SPUR_NORM_ACC_HI n)).toNat
def Mach.setNormAcc (m : Mach) (n v : Nat) : Mach :=
  (m.wr (Reg.RANGE_SPUR_NORM_ACC_LO n) (BitVec.ofNat 32 v)).wr (Reg.RANGE_SPUR_NORM_ACC_HI n) (BitVec.ofNat 32 (v / 2 ^ 32))

/-- The kernel entry that an instruction names (R182, R210). -/
def Mach.kentry (m : Mach) (n : Nat) (e : Ewx) : KEntry := KEntry.ofWord (m.rd (Reg.RANGE_SPUR_KENTRY n (e.m 32 8))).toNat

/-- What the completion of a SPUR.KERNEL leaves: `LAST_ENTRY`, and a cleared accumulator under `NORM_CLR` (R194, R207). -/
def Mach.kernelDone (m : Mach) (n : Nat) (e : Ewx) : Mach :=
  let m := m.wrF (Reg.RANGE_SPUR_STATUS n) Fld.RANGE_SPUR_STATUS_LAST_ENTRY (e.m 32 8)
  if (m.kentry n e).normClr then m.setNormAcc n 0 else m

/-- What the completion of a SCREE.GATHER leaves: `LAST_HIT_FRAC` (R257). -/
def Mach.gatherDone (m : Mach) (n : Nat) : Mach :=
  let h := (m.range n).cacheHits
  (m.updRange n (fun r => { r with cacheHits := (0, 0) })).wrF (Reg.RANGE_SCREE_CACHE n) Fld.RANGE_SCREE_CACHE_LAST_HIT_FRAC
    (if h.2 = 0 then 0 else min 65535 (h.1 * 65536 / h.2))

/-- The front instruction of a station completes once each of its repeats has reached the point of R28. -/
def instrComplete (n st : Nat) (m : Mach) : Mach :=
  match ((m.range n).seqOf st).head? with
  | none => m
  | some p =>
    if p.isWait ∨ p.done < p.ins.rep then m
    else
      let m := match p.ins.sop with
        | some .mma => m.mmaDone n
        | some .kernel => m.kernelDone n p.ins
        | some .gather => m.gatherDone n
        | _ => m
      m.retire n st

/-! ### The end of a stream (R37, R38, R44) -/

/-- Whether every instruction of a range has completed. -/
def RangeSt.finished (r : RangeSt) (code : List Ewx) : Bool :=
  decide (code.length ≤ r.pc) && r.fence.isNone && r.ctrlWait.isNone && r.inFlight.isEmpty && r.signals.isEmpty

/-- The first queue of a range, in R34's order, that holds a tile. -/
def RangeSt.heldQueue (r : RangeSt) : Option QId := allQueues.find? (fun q => !(r.queue q).entries.isEmpty)

/-- The index of the last instruction of an image that is addressed to a station; 0xFFFF if there is none. -/
def lastFor (code : List Ewx) (st : Nat) : Nat :=
  (((List.range code.length).filter (fun i => (code[i]?).elim false (fun e => decide (e.station = st)))).getLast?).getD 0xFFFF

/-- Where a range that still holds a tile stops (R37). -/
def Mach.queueStop (m : Mach) (s : Stream) (n : Nat) : Option StopAt :=
  (m.range n).heldQueue.map (fun q =>
    { range := n, status := St.streamFault, cause := 0x02, instr := lastFor s.image.code (consumer q), rep := 0,
      station := consumer q, cond := 0 })

/-- The end of a stream whose every instruction has completed: DONE, or QUEUE_NOT_EMPTY (R37, R43, R44). -/
def streamEnd (n : Nat) (m : Mach) : Mach :=
  match m.streamOn n with
  | none => m
  | some s =>
    let ranges := maskBits s.mask 16
    if !s.admitted || !ranges.all (fun k => (m.range k).finished s.image.code) then m
    else
      let own := ranges.filterMap (m.queueStop s)
      if own ≠ [] then m.stopStream s.id St.streamFault own
      else
        let m := m.each ranges Mach.endRange
        let m := { m with streams := m.streams.filter (fun t => decide (t.id ≠ s.id)) }
        ((m.endArms s.mask St.done).tellStarter s St.done 0).showBudget

/-- No station of a flow-mode stream has completed a repeat for the time in PROGRESS_TIMEOUT (R38). (DEDUCED, log entry 66.) -/
def noProgress (n : Nat) (m : Mach) : Mach :=
  match m.streamOn n with
  | none => m
  | some s =>
    if s.lockstep || !s.admitted || (maskBits s.mask 16).any (fun k => (m.range k).halted) ||
        decide (m.clk < s.progress + us (m.rdF Reg.TRAVERSE_PROGRESS_TIMEOUT Fld.TRAVERSE_PROGRESS_TIMEOUT_TIMEOUT_US)) then m
    else m.stopAll s.id St.streamFault 0x01

/-! ### Rows -/

def execCtrlFence (n : Fin 16) (s : State) : Host.Outcome State Fault Refusal := s.run (ctrlFence n)
def execCtrlLoop (n : Fin 16) (s : State) : Host.Outcome State Fault Refusal := s.run (ctrlLoop n)
def execCtrlEndloop (n : Fin 16) (s : State) : Host.Outcome State Fault Refusal := s.run (ctrlEndloop n)
def execCtrlSetlc (n : Fin 16) (s : State) : Host.Outcome State Fault Refusal := s.run (ctrlSetlc n)
def execCtrlSetax (n : Fin 16) (s : State) : Host.Outcome State Fault Refusal := s.run (ctrlSetax n)
def execCtrlAddax (n : Fin 16) (s : State) : Host.Outcome State Fault Refusal := s.run (ctrlAddax n)
def execCtrlSetinc (n : Fin 16) (s : State) : Host.Outcome State Fault Refusal := s.run (ctrlSetinc n)
def execIdle (n : Fin 16) (station : Fin 8) (phase : Phase) (s : State) : Host.Outcome State Fault Refusal := s.run (idle n station phase)
def execSyncSignal (n : Fin 16) (s : State) : Host.Outcome State Fault Refusal := s.run (syncSignal n)
def execSyncSignalFire (n : Fin 16) (index : Nat) (s : State) : Host.Outcome State Fault Refusal := s.run (syncFire n index)
def execSyncWait (n : Fin 16) (s : State) : Host.Outcome State Fault Refusal := s.run (syncWait n)
def execSyncWaitSatisfied (n : Fin 16) (station : Fin 8) (s : State) : Host.Outcome State Fault Refusal := s.run (waitSatisfied n station)
def execInstructionComplete (n : Fin 16) (station : Fin 8) (s : State) : Host.Outcome State Fault Refusal := s.run (instrComplete n station)
def execStreamEnd (n : Fin 16) (s : State) : Host.Outcome State Fault Refusal := s.run (streamEnd n)
def execNoProgress (n : Fin 16) (s : State) : Host.Outcome State Fault Refusal := s.run (noProgress n)
def execPageWalkDone (n : Fin 16) (station : Fin 8) (s : State) : Host.Outcome State Fault Refusal := s.run (fun m => m.walkDone n station)

end Sys2Proof.Machine
end

