-- ==== Sys2Proof/Machine/Talus.lean ====
section
/-!
DEFINITION. Talus and Scree (07_col_talus_scree): placing stores, marks, gathers and scatters, and beginning a repeat. A store
is performed when its repeat begins, but for what goes to host memory; a gathered tile arrives at TILE_FULL.
-/

namespace Sys2Proof.Machine

/-! ### Placement -/

/-- TALUS.STORE is placed (R26, R107). -/
def storePlace (n : Nat) (m : Mach) : Mach :=
  match m.nextIs n .store with
  | none => m
  | some (s, e) => m.place n s e .store none

/-- TALUS.MARK is placed: handle D names a descriptor with GRADIENT set (R108). -/
def markPlace (n : Nat) (m : Mach) : Mach :=
  match m.nextIs n .mark with
  | none => m
  | some (s, e) => m.place n s e .mark (if (m.descOf s.ctx e.hD).elim true (fun d => !d.gradient) then some 0x90 else none)

/-- The table's handle of a Scree instruction (R110). -/
def Ewx.table (e : Ewx) : Nat := if e.sop = some .gather then e.hA else e.hD

/-- The cause that a Scree instruction meets at placement (R110, R135). -/
def Mach.screeCause (m : Mach) (c : Nat) (e : Ewx) : Option Nat :=
  match m.descOf c e.table, m.descOf c e.hB with
  | some t, some i =>
    if !i.index || t.index then some 0x90
    else if e.sop = some .scatterAdd then
      (if t.block ≠ 0 ∨ !(decide (t.format = .fp64) || decide (t.format = .fp32) || decide (t.format = .bf16) ||
          decide (t.format = .fp16) || decide (t.format = .int32)) then some 0x91 else none)
    else if t.block ≠ 0 ∧ t.scaleAxis ≠ 0 then some 0x91 else none
  | _, _ => some 0x90

/-- SCREE.GATHER, SCREE.SCATTER or SCREE.SCATTER_ADD is placed (R26, R109, R110). -/
def screePlace (n : Nat) (o : SOp) (m : Mach) : Mach :=
  match m.nextIs n o with
  | none => m
  | some (s, e) => m.place n s e o (m.screeCause s.ctx e)

/-! ### Indices (R239 to R241) -/

def Mach.ctxByte (m : Mach) (x : Ctx) (va : Nat) : Byte := m.readVa x va

/-- The element of index position i. -/
def idxCoords (p : Placed) (rep i : Nat) : List Int := let o := p.b.at rep; o.set 0 (o.getD 0 0 + (i : Int))

/-- The active positions of a repeat with their index values. -/
def Mach.indices (m : Mach) (x : Ctx) (d : Desc) (p : Placed) (rep : Nat) : List (Nat × Int) :=
  ((List.range 128).filter (fun i => decide (d.classOf (idxCoords p rep i) = .inExtent))).map (fun i =>
    (i, signedOf (bitsVia (m.ctxByte x) (d.bitAddr (idxCoords p rep i)) 32) 32))

def idxSectors (d : Desc) (p : Placed) (rep : Nat) : List Nat :=
  (((List.range 128).filter (fun i => decide (d.classOf (idxCoords p rep i) = .inExtent))).flatMap
    (fun i => d.elemSectors (idxCoords p rep i))).eraseDups

/-- The table row that an index selects: none where its row is dropped (R240). -/
def resolve (policy rows : Nat) (v : Int) : Option Nat :=
  if 0 ≤ v ∧ v < (rows : Int) then some v.toNat
  else if policy = 1 then some (v % (rows : Int)).toNat else none

/-- The resolved rows of the active positions. -/
def rowsOf (policy rows : Nat) (l : List (Nat × Int)) : List (Nat × Nat) :=
  l.filterMap (fun x => (resolve policy rows x.2).map (fun r => (x.1, r)))

def outOfRange (rows : Nat) (v : Int) : Bool := decide (v < 0) || decide ((rows : Int) ≤ v)

/-- The coordinates of column j of a table row (R242). -/
def rowCoords (o : List Int) (row j : Nat) : List Int := (o.set 1 (row : Int)).set 0 (o.getD 0 0 + (j : Int))

/-! ### Gathers (R242, R247) -/

/-- The sectors that one gathered row reads (R213, R242). -/
def Desc.rowSectors (d : Desc) (o : List Int) (row : Nat) : List Nat :=
  let cs := ((List.range d.tileCols).map (rowCoords o row)).filter (fun c => decide (d.classOf c = .inExtent))
  (cs.flatMap d.elemSectors ++ (if d.block = 0 then [] else cs.flatMap (fun c => sectorsOf (d.scaleAddr c) 1))).eraseDups

/-- The row cache after a run of rows, with the sectors it served and the sectors asked for (R247, R257). -/
def Mach.cacheRows (m : Mach) (x : Ctx) (d : Desc) (o : List Int) (rows : List (Nat × Nat)) (cache : List (Nat × List Byte)) :
    List (Nat × List Byte) × Nat × Nat :=
  rows.foldl (fun st r => (d.rowSectors o r.2).foldl (fun st v =>
    if st.1.any (fun c => decide (c.1 = v)) then (st.1, st.2.1 + 1, st.2.2 + 1)
    else ((v, m.readRun x v 64) :: st.1, st.2.1, st.2.2 + 1)) st) (cache, 0, 0)

/-- A byte through the row cache. -/
def cachedByte (cache : List (Nat × List Byte)) (va : Nat) : Byte :=
  match cache.find? (fun c => decide (c.1 = va / 64 * 64)) with
  | some c => c.2.getD (va % 64) 0
  | none => 0

/-- The tile of a gather (R228, R239, R242). -/
def Desc.gather (d : Desc) (rd : Nat → Byte) (o : List Int) (rows : List (Nat × Nat)) : Tile :=
  let at_ (f : Nat → Nat → Nat) (dflt i j : Nat) : Nat := match rows.find? (fun r => decide (r.1 = i)) with | some r => f r.2 j | none => dflt
  { fmt := d.format, block := d.block, axis := 0,
    elems := sparseOf 128 d.tileCols (at_ (fun row j => d.codeVia rd (rowCoords o row j)) 0),
    scales := if d.block = 0 then [] else
      ((positions 128 ((d.tileCols + d.block - 1) / d.block)).map (fun p =>
        (128 * p.1 + p.2, at_ (fun row k => d.scaleVia rd (rowCoords o row (k * d.block))) 127 p.1 p.2))).filter (fun e => decide (e.2 ≠ 127)) }

/-! ### Scatters (R243 to R246) -/

/-- The writes of one scattered row (R242, R243): the row of a store whose origin puts position i on it. -/
def Desc.rowWrites (d : Desc) (t : Tile) (o : List Int) (i row : Nat) : List BitWrite :=
  let e : Desc := { d with rows := 127 }
  let o : List Int := o.set 1 ((row : Int) - (i : Int))
  let elems := (List.range d.tileCols).filterMap (fun j => (e.storeCode t o (fun _ => .nearest) i j).map (fun c =>
    ({ bit := d.bitAddr (tileCoords o i j false), width := d.format.width, code := c.1 } : BitWrite)))
  let scs := if d.block = 0 then [] else
    ((List.range d.tileCols).filter (fun j => decide ((e.blockCells o i j).head? = some (i, j)))).map (fun j =>
      ({ bit := 8 * d.scaleAddr (tileCoords o i j false), width := 8, code := t.scaleAt i j } : BitWrite))
  elems ++ scs

/-- The positions that name one row. -/
def sharing (rows : List (Nat × Nat)) (row : Nat) : List Nat := (rows.filter (fun r => decide (r.2 = row))).map (fun r => r.1)

/-- The bytes of a scatter: each sector of a row takes the data of one of the positions that name it, a free choice (R245). -/
def Desc.scatterMap (d : Desc) (t : Tile) (o : List Int) (rows : List (Nat × Nat)) (draw : Nat) : ByteMap :=
  ((rows.map (fun r => r.2)).eraseDups).foldl (fun acc row =>
    match sharing rows row with
    | [i] => (d.rowWrites t o i row).foldl ByteMap.add acc
    | l =>
      let maps := l.map (fun i => byteMap (d.rowWrites t o i row))
      (maps.headD []).foldl (fun acc y =>
        let pick := Config.freeValue (draw + (y.1 / 64 + row)) % l.length
        let v := Sparse.get (fun _ => (0, 0)) (maps.getD pick []) y.1
        acc.add { bit := 8 * y.1, width := 8, code := v.1 }) acc) []

/-- The tag pairs of a scatter and a scatter-add (R243, R244). -/
def scatterOk (t : Tile) (d : Desc) : Bool :=
  decide (t.fmt = d.format) && decide (t.block = d.block) && (decide (d.block = 0) || decide (t.axis = d.scaleAxis))

def scatterAddOk (t : Tile) (d : Desc) : Bool :=
  !t.scaled && (match d.format with
    | .fp64 => decide (t.fmt = .fp64)
    | .int32 => decide (t.fmt = .int32)
    | _ => decide (t.fmt = .fp32) || decide (t.fmt = .bf16) || decide (t.fmt = .fp16))

/-- The sum of an element and a contribution, and whether an INT32 sum wrapped (R244). -/
def addCode (f : Fmt) (old : Nat) (v : Num) : Nat × Bool :=
  let s := (f.decode old).add v
  if f = .int32 then
    (match s with
     | .fin g k e => let w := roundInt g k e .nearest; (wrapNat w 32, decide (signedOf (wrapNat w 32) 32 ≠ w))
     | _ => (old, false))
  else (f.round s, false)

/-- One contribution of a scatter-add: an atomic read-modify-write of its element; on a word that reads uncorrectable it is
dropped and the word stays poisoned (R244, R276). -/
def Mach.addOne (m : Mach) (n : Nat) (x : Ctx) (d : Desc) (e : Ecc) (c : List Int) (v : Num) : Mach :=
  match x.phys (d.bitAddr c / 8) with
  | none => m
  | some pa =>
    let w := pa / 8 * 8
    if e.bad.contains w || m.poisoned w then (m.countUe srcMerge n w).setPoison w
    else
      let m := if e.corrected.contains w then m.countCe w else m
      let k := d.format.width / 8
      let r := addCode d.format (leNat (m.readPa pa k)) v
      (m.writePa pa (leBytes r.1 k)).convFlags n (if r.2 then flagAccWrap else 0)

/-- A run of positions in an order that free values choose: contributions to one row combine in an unspecified order (R245). -/
def insertBy (key : Nat → Nat) (a : Nat) : List Nat → List Nat
  | [] => [a]
  | b :: t => if key a < key b then a :: b :: t else b :: insertBy key a t

/-- An order of a list that free values choose (R245, R246). (DESIGN CHOICE, log entry 39.) -/
def freeOrder (draw : Nat) : List Nat → List Nat
  | [] => []
  | [i] => [i]
  | l => l.foldl (fun acc i => insertBy (fun k => Config.freeValue (draw + k)) i acc) []

/-- Every addition of a scatter-add (R244 to R246). -/
def Mach.scatterAddAll (m : Mach) (n : Nat) (x : Ctx) (d : Desc) (t : Tile) (o : List Int) (rows : List (Nat × Nat)) (e : Ecc) : Mach :=
  let draw := m.draws
  ((rows.map (fun r => r.2)).eraseDups).foldl (fun m row =>
    (freeOrder draw (sharing rows row)).foldl (fun m i =>
      (List.range d.tileCols).foldl (fun m j =>
        let c := rowCoords o row j
        if d.classOf c = .inExtent then m.addOne n x d e c (t.val i j) else m) m) m) { m with draws := draw + 128 }

/-! ### Ordering of stores (R29) -/

/-- The sectors that the repeats of a store from `lo` on write. -/
def Mach.reach (m : Mach) (x : Ctx) (p : Placed) (lo : Nat) : List Nat :=
  let reps := List.range' lo (p.ins.rep - lo)
  match p.ins.sop with
  | some .store => (x.desc p.ins.hD).elim [] (fun d => reps.flatMap (fun r =>
      storeSectors (d.store Tile.zeroed (p.a.at r) (fun _ => .nearest)).writes))
  | some .scatter | some .scatterAdd =>
    (match x.desc p.ins.hD, x.desc p.ins.hB with
     | some d, some i => reps.flatMap (fun r =>
         (rowsOf i.oor (d.extent 1) (m.indices x i p r)).flatMap (fun y => storeSectors (d.rowWrites Tile.zeroed (p.a.at r) y.1 y.2)))
     | _, _ => [])
  | _ => []

/-- R29: an earlier store of the other station still has an overlapping sector to write. (DESIGN CHOICE, log entry 36.) -/
def Mach.storeHeld (m : Mach) (n other : Nat) (x : Ctx) (p : Placed) (sectors : List Nat) : Bool :=
  (((m.range n).seqOf other).filter (fun q => decide (q.seq < p.seq) && decide (q.done < q.ins.rep))).any (fun q =>
    meets (m.reach x q q.done) sectors)

/-! ### TALUS.STORE and TALUS.MARK -/

def Ewx.storeQueue (e : Ewx) : Option QId := if e.m 38 2 = 0 then some .store else none

/-- The causes of a store's repeat (R50, R230, R234). -/
def Mach.storeCauses (m : Mach) (n : Nat) (d : Desc) (p : Placed) (rep : Nat) (t : Tile) : List (Nat × Bool) :=
  [(0x07, d.coordOut (p.a.at rep)), (0x61, !d.aligned (p.a.at rep)), (0x62, !storeOk t d),
   (0x64, decide (rep = 0) && m.stagingNamed n p.ins)]

/-- A repeat of a store (R218, R220, R234, R235). -/
def Mach.storeRep (m : Mach) (n : Nat) (s : Stream) (x : Ctx) (d : Desc) (p : Placed) (t : Tile) (e : Ecc) : Begin :=
  let rep := p.begun
  let out := d.store t (p.a.at rep) (m.rounding n s.ctx p rep)
  let sectors := storeSectors out.writes
  if !s.lockstep && m.storeHeld n 5 x p sectors then .held 3
  else m.access n 4 s.lockstep p rep [{ handle := p.ins.hD, pdom := d.pdom, write := true, sectors := sectors }] (fun m =>
    let c := if p.ins.tregReads = [] then (m, false) else m.checkTile n e
    if c.2 then .stop c.1 (p.stopAt n 4 St.internal 0 rep)
    else
      let owner : TxnOwner := .talus n p.seq rep
      let m := (c.1.convFlags n out.flags).perform n x (byteMap out.writes) e owner
      let m := m.updRange n (fun r => (match p.ins.storeQueue with | some q => r.take q false | none => r).begin 4 p.seq)
      .ok (if m.txnsOf owner = 0 then m.didRep n 4 p.seq else m))

/-- A mark goes to the link interface once every earlier store of the range has completed (R108, R238). -/
def Mach.markRep (m : Mach) (n : Nat) (p : Placed) : Begin :=
  let r := m.range n
  if r.scree.any (fun q => decide (q.seq < p.seq) && (decide (q.ins.sop = some .scatter) || decide (q.ins.sop = some .scatterAdd))) then .held 3
  else
    let q : RangeSt := { r with marks := r.marks ++ [{ seq := p.seq, layer := p.ins.m 24 16, handle := p.ins.hD, accepted := false }] }
    .ok (m.setRange n (q.begin 4 p.seq))

/-- TALUS_REPEAT_BEGIN (R29, R234 to R236); a mark's one repeat in lockstep. -/
def talusBegin (n : Nat) (ecc : Ecc) (m : Mach) (s : Stream) : Begin :=
  match m.ctx s.ctx, m.frontOf n 4 with
  | none, _ => .held 7
  | _, .error c => .held c
  | some x, .ok p =>
    let r := m.range n
    if m.repHeld n p p.begun then .held 3
    else match p.ins.sop with
    | some .mark => if p.prevBusy s.lockstep then .held 3 else m.markRep n p
    | some .store =>
      (match x.desc p.ins.hD with
       | none => .held 7
       | some d =>
         match holdCode [(1, r.absent p.ins.storeQueue), (3, p.prevBusy s.lockstep), (4, m.tregBlocked n s.ctx p)] with
         | some c => .held c
         | none =>
           match (match p.ins.storeQueue with | some q => r.front q | none => some (r.treg (p.ins.m 29 9))) with
           | none => .held 1
           | some t => match p.causes n 4 p.begun (m.storeCauses n d p p.begun t) with
             | some a => .stop m a
             | none => m.storeRep n s x d p t ecc)
    | _ => .held 3

/-- A store's repeat begins in flow mode: a mark has its own row. -/
def storeBegin (n : Nat) (ecc : Ecc) (m : Mach) (s : Stream) : Begin :=
  match ((m.range n).talus).head? with
  | some p => if p.ins.sop = some .store then talusBegin n ecc m s else .held 3
  | none => .held 7

def markBegin (n : Nat) (m : Mach) (s : Stream) : Begin :=
  match ((m.range n).talus).head? with
  | some p => if p.ins.sop = some .mark then talusBegin n { corrected := [], bad := [] } m s else .held 3
  | none => .held 7

/-- TALUS.MARK: placed by the dispatcher, then sent by its station. -/
def talusMark (n : Nat) (ph : Phase) (m : Mach) : Mach :=
  match ph with
  | .place => markPlace n m
  | .run => m.flowBegin n (markBegin n)

/-- The oldest mark becomes accepted. -/
def acceptMark : List Mark → List Mark
  | [] => []
  | a :: t => if a.accepted then a :: acceptMark t else { a with accepted := true } :: t

/-- MARK_ACCEPTED (R238): the link interface accepts the oldest mark, and its TALUS.MARK has completed. -/
def markAccepted (n : Nat) (m : Mach) : Mach :=
  match (m.range n).marks.find? (fun a => !a.accepted) with
  | none => m
  | some a => (m.updRange n (fun r => { r with marks := acceptMark r.marks })).didRep n 4 a.seq

/-! ### Scree -/

def Ewx.gatherQueue (e : Ewx) : Option QId :=
  if e.sop ≠ some .gather then none else match e.m 38 2 with | 0 => some .screeSpur | 1 => some .screeCrest | _ => none
def Ewx.gatherTreg (e : Ewx) : Option Nat := if e.sop = some .gather ∧ e.m 38 2 = 2 then some (e.m 29 9) else none

/-- The causes of a Scree repeat (R50, R227, R230, R243, R244). -/
def Mach.screeCauses (m : Mach) (n : Nat) (d i : Desc) (p : Placed) (rep : Nat) : List (Nat × Bool) :=
  let t := (m.range n).treg (p.ins.m 29 9)
  let o := p.a.at rep
  [(0x07, d.coordOut o || i.coordOut (p.b.at rep)),
   (0x61, decide (d.block ≠ 0) && decide (o.getD 0 0 % (d.block : Int) ≠ 0)),
   (0x63, (decide (p.ins.sop = some .scatter) && !scatterOk t d) || (decide (p.ins.sop = some .scatterAdd) && !scatterAddOk t d)),
   (0x64, decide (rep = 0) && m.stagingNamed n p.ins)]

/-- A gather's rows are read and its tile is on its way (R242, R247). -/
def Mach.gatherRep (m : Mach) (n : Nat) (x : Ctx) (d : Desc) (p : Placed) (rows : List (Nat × Nat)) (e : Ecc) : Begin :=
  let rep := p.begun
  let o := p.a.at rep
  let r := m.range n
  let c := m.cacheRows x d o rows r.rowCache
  let fresh := (c.1.map (fun y => y.1)).take (c.1.length - r.rowCache.length)
  let words := (fresh.filterMap x.phys).flatMap sectorWords
  let bad := m.badWords e words
  let m := (m.checkWords srcRange n e words).tallyBy (7 * n + 5) 1 bad.length
  if bad ≠ [] then .stop m (p.stopAt n 5 St.internal 0 rep)
  else .ok (m.updRange n (fun r =>
    let h := if rep = 0 then (0, 0) else r.cacheHits
    let r := { r with rowCache := c.1.take 8192, cacheHits := (h.1 + c.2.1, h.2 + c.2.2) }
    (r.deliver 5 p.seq p.ins.gatherQueue p.ins.gatherTreg (d.gather (cachedByte c.1) o rows)).begin 5 p.seq))

/-- A scatter or scatter-add is performed; the row cache loses the sectors it writes (R218, R243 to R247). -/
def Mach.scatterRep (m : Mach) (n : Nat) (x : Ctx) (d : Desc) (p : Placed) (rows : List (Nat × Nat)) (sectors : List Nat) (e : Ecc) : Begin :=
  let rep := p.begun
  let t := (m.range n).treg (p.ins.m 29 9)
  let c := m.checkTile n e
  if c.2 then .stop c.1 (p.stopAt n 5 St.internal 0 rep)
  else
    let m := if p.ins.sop = some .scatterAdd then c.1.scatterAddAll n x d t (p.a.at rep) rows e
      else c.1.drawn.perform n x (d.scatterMap t (p.a.at rep) rows c.1.draws) e (.talus n p.seq rep)
    let m := m.updRange n (fun r => { r with rowCache := r.rowCache.filter (fun y => !sectors.contains y.1) })
    .ok ((m.beginRep n 5 p.seq).didRep n 5 p.seq)

/-- The rows of a repeat, once its indices are read and checked, go on to the table (R239 to R241). -/
def Mach.screeRows (m : Mach) (n : Nat) (s : Stream) (x : Ctx) (d i : Desc) (p : Placed) (e : Ecc) : Begin :=
  let rep := p.begun
  let store := decide (p.ins.sop ≠ some .gather)
  let idx := m.indices x i p rep
  let extent := d.extent 1
  match (if i.oor = 2 then idx.find? (fun y => outOfRange extent y.2) else none) with
  | some y => .stop (m.recordFault n 5 6 p.ins.hB false y.1 (wrapNat y.2 32)) (p.stopAt n 5 St.indexRange 0 rep)
  | none =>
    let rows := rowsOf i.oor extent idx
    let t := (m.range n).treg (p.ins.m 29 9)
    let sectors := (if store then rows.flatMap (fun r => storeSectors (d.rowWrites t (p.a.at rep) r.1 r.2))
      else rows.flatMap (fun r => d.rowSectors (p.a.at rep) r.2)).eraseDups
    if store && !s.lockstep && m.storeHeld n 4 x p sectors then .held 3
    else m.access n 5 s.lockstep p rep [{ handle := p.ins.table, pdom := d.pdom, write := store, sectors := sectors }] (fun m =>
      let lost := if i.oor = 0 then (idx.filter (fun y => outOfRange extent y.2)).length else 0
      let m := (m.addF (Reg.RANGE_SCREE_OOR_COUNT n) Fld.RANGE_SCREE_OOR_COUNT_COUNT lost).tallyBy (7 * n + 5) 2 lost
      if store then m.scatterRep n x d p rows sectors e else m.gatherRep n x d p rows e)

/-- SCREE_REPEAT_BEGIN (R239 to R247). -/
def screeBegin (n : Nat) (ecc : Ecc) (m : Mach) (s : Stream) : Begin :=
  match m.ctx s.ctx, m.frontOf n 5 with
  | none, _ => .held 7
  | _, .error c => .held c
  | some x, .ok p =>
    let r := m.range n
    if p.ins.sop = some .idle ∨ m.repHeld n p p.begun then .held 3
    else match x.desc p.ins.table, x.desc p.ins.hB with
    | some d, some i =>
      (match holdCode [(2, r.full p.ins.gatherQueue d.format), (3, p.prevBusy s.lockstep), (4, m.tregBlocked n s.ctx p)] with
       | some c => .held c
       | none =>
         match p.causes n 5 p.begun (m.screeCauses n d i p p.begun) with
         | some a => .stop m a
         | none =>
           let sectors := idxSectors i p p.begun
           m.access n 5 s.lockstep p p.begun [{ handle := p.ins.hB, pdom := i.pdom, write := false, sectors := sectors }] (fun m =>
             let words := (sectors.filterMap x.phys).flatMap sectorWords
             let bad := m.badWords ecc words
             let m := (m.checkWords srcRange n ecc words).tallyBy (7 * n + 5) 1 bad.length
             if bad ≠ [] then .stop m (p.stopAt n 5 St.internal 0 p.begun) else m.screeRows n s x d i p ecc))
    | _, _ => .held 7

/-- A gathered tile arrives (R242, R248). -/
def Mach.screeFull (m : Mach) (n : Nat) : Mach :=
  match (m.range n).scree.find? (fun p => decide (p.done < p.begun)) with
  | some p =>
    if p.ins.sop ≠ some .gather then m
    else (m.updRange n (fun r => r.arrive 5 p.seq p.ins.gatherQueue p.ins.gatherTreg none)).didRep n 5 p.seq
  | none => m

/-! ### Rows -/

def execTalusStore (n : Fin 16) (s : State) : Host.Outcome State Fault Refusal := s.run (storePlace n)
def execTalusRepeatBegin (n : Fin 16) (ecc : Ecc) (s : State) : Host.Outcome State Fault Refusal :=
  s.run (fun m => m.flowBegin n (storeBegin n ecc))
def execTalusMark (n : Fin 16) (phase : Phase) (s : State) : Host.Outcome State Fault Refusal := s.run (talusMark n phase)
def execMarkAccepted (n : Fin 16) (s : State) : Host.Outcome State Fault Refusal := s.run (markAccepted n)
def execScreeGather (n : Fin 16) (s : State) : Host.Outcome State Fault Refusal := s.run (screePlace n .gather)
def execScreeScatter (n : Fin 16) (s : State) : Host.Outcome State Fault Refusal := s.run (screePlace n .scatter)
def execScreeScatterAdd (n : Fin 16) (s : State) : Host.Outcome State Fault Refusal := s.run (screePlace n .scatterAdd)
def execScreeRepeatBegin (n : Fin 16) (ecc : Ecc) (s : State) : Host.Outcome State Fault Refusal :=
  s.run (fun m => m.flowBegin n (screeBegin n ecc))

end Sys2Proof.Machine
end

