-- ==== Sys2Proof/Machine/Copy.lean ====
section
/-!
DEFINITION. Copies and fills (R309, R549 to R551, R585, R586, R594): what a copy moves, the host memory it reads first, and how it
ends. A copy's stores are performed at COPY_COMPLETE, its writes to host memory as transactions.
-/

namespace Sys2Proof.Machine

/-! ### Runs of frames -/

def inRuns (l : List FrameRun) (f : Nat) : Bool := l.any (fun r => decide (r.first ≤ f) && decide (f < r.first + r.count))

def FrameRun.meets (r : FrameRun) (first count : Nat) : Bool := decide (r.first < first + count) && decide (first < r.first + r.count)

/-- A run without the frames of another. -/
def FrameRun.minus (r q : FrameRun) : List FrameRun :=
  if !r.meets q.first q.count then [r]
  else
    (if r.first < q.first then [{ first := r.first, count := q.first - r.first }] else []) ++
    (if q.first + q.count < r.first + r.count then
      [{ first := q.first + q.count, count := r.first + r.count - (q.first + q.count) }] else [])

def runsMinus (l : List FrameRun) (q : FrameRun) : List FrameRun := l.flatMap (fun r => r.minus q)

/-- Whether a physical address lies in a sealed frame (R551). -/
def Mach.sealedAt (m : Mach) (pa : Nat) : Bool := inRuns m.mem.sealed (pa / 65536)

def Mach.sealFrame (m : Mach) (f : Nat) : Mach :=
  if inRuns m.mem.sealed f then m else { m with mem := { m.mem with sealed := m.mem.sealed ++ [{ first := f, count := 1 }] } }

/-! ### What a copy moves -/

/-- A run of bits that a copy moves: where it lies and where it goes. -/
structure Move where
  src : Nat
  dst : Nat
  width : Nat
  deriving DecidableEq, Repr

/-- Every coordinate below the extents of the first dimensions, dimension 0 fastest. -/
def coordsBelow (ext : Nat → Nat) : Nat → List (List Int)
  | 0 => [[]]
  | k + 1 => (List.range (ext k)).flatMap (fun (x : Nat) => (coordsBelow ext k).map (fun c => c ++ [(x : Int)]))

/-- A copy entry moves every in-extent element and every scale (R309). -/
def entryMoves (a b : Desc) : List Move :=
  let cs := coordsBelow a.extent 6
  cs.map (fun c => { src := a.bitAddr c, dst := b.bitAddr c, width := a.format.width }) ++
  (if a.block = 0 then [] else
    (cs.filter (fun c => decide (c.getD a.scaleAxis 0 % (a.block : Int) = 0))).map (fun c =>
      { src := 8 * a.scaleAddr c, dst := 8 * b.scaleAddr c, width := 8 }))

def Ctx.moves (x : Ctx) (j : CopyJob) : List Move :=
  match j.handles with
  | some (a, b) => (match x.desc a, x.desc b with | some a, some b => entryMoves a b | _, _ => [])
  | none => (List.range j.length).map (fun i => { src := 8 * (j.src.getD 0 + i), dst := 8 * (j.dst + i), width := 8 })

/-- The protection domains that a copy's descriptors demand: a MEM_COPY or MEM_FILL has none of its own. -/
def Ctx.copyPdoms (x : Ctx) (j : CopyJob) : Option (Nat × Nat) :=
  match j.handles with
  | some (a, b) => (match x.desc a, x.desc b with | some a, some b => some (a.pdom, b.pdom) | _, _ => none)
  | none => none

def bytesOf (bit w : Nat) : List Nat := List.range' (bit / 8) ((bit + w - 1) / 8 + 1 - bit / 8)

/-- The fault that a run of bits meets (R215, R594). -/
def Ctx.bitsFault (x : Ctx) (pdom : Option Nat) (bit w : Nat) (store : Bool) : Option Nat :=
  (bytesOf bit w).findSome? (fun va => let l := x.leaf va; leafFault l (pdom.getD (l.elim 0 (fun l => l.pdom))) store false false)

def Ctx.moveFault (x : Ctx) (j : CopyJob) (mv : Move) : Option Nat :=
  let pd := x.copyPdoms j
  (if j.src.isNone then none else x.bitsFault (pd.map (fun p => p.1)) mv.src mv.width false).or
    (x.bitsFault (pd.map (fun p => p.2)) mv.dst mv.width true)

/-- The moves before the first fault, and the status that the fault gives. -/
def Ctx.goodMoves (x : Ctx) (j : CopyJob) : List Move × Option Nat :=
  let l := x.moves j
  let good := l.takeWhile (fun mv => (x.moveFault j mv).isNone)
  (good, ((l.drop good.length).head?).bind (fun mv => (x.moveFault j mv).map faultStatus))

/-- The physical addresses of the bytes that a list of moves reads or writes. -/
def Ctx.sources (x : Ctx) (l : List Move) : List Nat := l.flatMap (fun mv => (bytesOf mv.src mv.width).filterMap x.phys)
def Ctx.targets (x : Ctx) (l : List Move) : List Nat := l.flatMap (fun mv => (bytesOf mv.dst mv.width).filterMap x.phys)

/-- Whether a copy would carry sealed data out to the host window (R551). -/
def Mach.leaks (m : Mach) (x : Ctx) (j : CopyJob) : Bool :=
  j.src.isSome && j.slot.isNone && (x.targets (x.moves j)).any isHost && (x.sources (x.moves j)).any m.sealedAt

/-! ### How a copy begins -/

def CopyJob.txnOwner (j : CopyJob) : TxnOwner :=
  match j.owner with | .cmd lane tag _ => .cmd lane j.ctx tag | .entry i => .entry j.ctx i

/-- The bytes of the object that a `DECRYPT` reads. -/
def Ctx.objectBytes (x : Ctx) (j : CopyJob) : List Nat := (List.range j.length).filterMap (fun i => x.phys (j.src.getD 0 + i))

/-- A copy begins: the host memory it reads is asked for (R575). -/
def Mach.beginCopy (m : Mach) (x : Ctx) (j : CopyJob) : Mach :=
  let pas := if j.src.isNone then [] else if j.slot.isSome then x.objectBytes j else x.sources (x.goodMoves j).1
  let sectors := ((pas.filter isHost).map (fun pa => pa / 64 * 64)).eraseDups
  let q : Mach := { m with copies := m.copies ++ [j] }
  sectors.foldl (fun m pa => m.hostTxn false pa 64 [] [] j.txnOwner) q

/-! ### How a copy ends -/

/-- A byte that a copy reads. -/
def Mach.copyByte (m : Mach) (x : Ctx) (j : CopyJob) (va : Nat) : Byte :=
  match x.phys va with
  | some pa => if isHost pa then byteAt j.arrived pa else m.readByte pa
  | none => 0

def patternByte (pattern dst i : Nat) : Nat := bitsOf pattern (8 * ((dst + i) % 4)) 8

/-- What a list of moves writes. -/
def Mach.movesWrites (m : Mach) (x : Ctx) (j : CopyJob) (l : List Move) : List BitWrite :=
  l.map (fun mv =>
    let code := if j.src.isNone then patternByte j.pattern 0 (mv.dst / 8)
      else bitsOf (leNat ((bytesOf mv.src mv.width).map (m.copyByte x j))) (mv.src % 8) mv.width
    { bit := mv.dst, width := mv.width, code := code })

/-- The final reply of a copy, or the end of its entry. -/
def Mach.endCopy (m : Mach) (j : CopyJob) (status detail moved : Nat) : Mach :=
  let m : Mach := { m with copies := m.copies.erase j }
  match j.owner with
  | .cmd lane tag op => m.finish lane j.ctx tag op status detail (leBytes moved 8)
  | .entry i => m.entryOver j.ctx i status

/-- The stores of a copy are performed; it ends when its writes to host memory have (R585). -/
def Mach.storeCopy (m : Mach) (x : Ctx) (j : CopyJob) (w : List BitWrite) (e : Ecc) (status detail moved : Nat) : Mach :=
  let m := m.perform 0 x (byteMap w) e j.txnOwner
  if m.txnsOf j.txnOwner = 0 then m.endCopy j status detail moved
  else { m with copies := m.copies.map (fun k => if k = j then { j with sent := true, failed := status, moved := moved } else k) }

/-- A plain copy or a fill: up to the first fault, or the first word that cannot be corrected (R276, R594). -/
def Mach.plainCopy (m : Mach) (x : Ctx) (j : CopyJob) (e : Ecc) : Mach :=
  let g := x.goodMoves j
  let wordsOf (mv : Move) : List Nat := if j.src.isNone then [] else
    (((bytesOf mv.src mv.width).filterMap x.phys).filter (fun pa => !isHost pa)).map (fun pa => pa / 8 * 8)
  let ok := g.1.takeWhile (fun mv => (m.badWords e (wordsOf mv)).isEmpty)
  let words := ((g.1.take (ok.length + 1)).flatMap wordsOf).eraseDups
  let status := if ok.length < g.1.length then St.internal else g.2.getD St.done
  (m.checkWords srcSwite 0 e words).storeCopy x j (m.movesWrites x j ok) e status 0 ok.length

/-! ### Protected objects (R549, R550) -/

/-- The chunks of an object that open, and the index of the first that does not. -/
def openChunks (key : List Byte) (obj : List Byte) (objectId length : Nat) : Nat → Nat → List Byte × Option Nat
  | 0, _ => ([], none)
  | n + 1, i =>
    let len := min 65536 (length - 65536 * i)
    let at_ := 64 + 65552 * i
    let cipher := (obj.drop at_).take len
    let aad := leBytes objectId 4 ++ leBytes i 8 ++ leBytes len 4 ++ leBytes length 8
    match Config.gcmOpen key (leBytes objectId 4 ++ leBytes i 8) aad cipher ((obj.drop (at_ + len)).take 16) with
    | none => ([], some i)
    | some plain => let r := openChunks key obj objectId length n (i + 1); (plain ++ r.1, r.2)

/-- A `DECRYPT` copy: the header first, then whole chunks; a `NO_EXPORT` slot seals the frames written (R550, R551). -/
def Mach.decryptCopy (m : Mach) (x : Ctx) (j : CopyJob) (slot : Nat) (e : Ecc) : Mach :=
  let pas := x.objectBytes j
  if pas.length < j.length then m.endCopy j St.translationFault 0 0
  else
    let obj := (List.range j.length).map (fun i => m.copyByte x j (j.src.getD 0 + i))
    let words := ((pas.filter (fun pa => !isHost pa)).map (fun pa => pa / 8 * 8)).eraseDups
    let bad := m.badWords e words
    let m := m.checkWords srcSwite 0 e words
    if bad ≠ [] then m.endCopy j St.internal 0 0
    else if leAt obj 0 4 ≠ 0x4C414553 ∨ leAt obj 8 2 ≠ m.rdF (Reg.CAIRN_KEY_SLOT slot) Fld.CAIRN_KEY_SLOT_KEY_ID then
      m.endCopy j St.badParam 0 0
    else
      let key := ((m.cairn.slotKeys.find? (fun k => decide (k.1 = slot))).map (fun k => k.2)).getD []
      let r := openChunks key obj (leAt obj 4 4) (leAt obj 12 8) (leAt obj 20 4) 0
      let k : CopyJob := { j with src := none, length := r.1.length }
      let g := x.goodMoves k
      let w := (g.1.zip r.1).map (fun y => { bit := y.1.dst, width := 8, code := y.2.toNat : BitWrite })
      let frames := ((x.targets g.1).map (fun pa => pa / 65536)).eraseDups
      let m := if m.rdF (Reg.CAIRN_KEY_SLOT slot) Fld.CAIRN_KEY_SLOT_NO_EXPORT = 1 then frames.foldl (fun m f => m.sealFrame f) m else m
      match g.2, r.2 with
      | some st, _ => m.storeCopy x j w e st 0 g.1.length
      | none, some i => ((m.trouble 8).tally 306 0).storeCopy x j w e St.attestFail i g.1.length
      | none, none => m.storeCopy x j w e St.done 0 g.1.length

/-- A copy whose transactions have ended goes on: it fails, performs its stores, or, these being performed, ends. -/
def Mach.advanceCopy (m : Mach) (j : CopyJob) (e : Ecc) : Mach :=
  if m.txnsOf j.txnOwner ≠ 0 then m
  else if j.sent then m.endCopy j j.failed 0 j.moved
  else if j.failed ≠ 0 then m.endCopy j j.failed 0 0
  else match m.ctx j.ctx with
    | none => m.endCopy j St.translationFault 0 0
    | some x => match j.slot with
      | some k => m.decryptCopy x j k e
      | none => m.plainCopy x j e

end Sys2Proof.Machine
end

