-- ==== Sys2Proof/Machine/PowerOps.lean ====
section
/-!
DEFINITION. Operations over islands, zones and the power budget (15_treeline_power) that starting a stream, the thermal rules
and the budget share. Frequencies are in kHz, voltages in mV, temperatures in quarters of a degree.
-/

namespace Sys2Proof.Machine

/-! ### Frequencies (R503, R504, R493) -/

/-- The lowest frequency of an island that moves (R503). -/
def floorKHz : Nat := 312500

def boostKHz : Nat := 1600000
def flowKHz : Nat := 1250000

/-- The locked frequency of a context (R492). -/
def Mach.lockKHz (m : Mach) (c : Nat) : Nat := 1000 * m.rdF (Reg.TRAVERSE_SERVE_CFG c) Fld.TRAVERSE_SERVE_CFG_LOCK_MHZ

def Mach.serving (m : Mach) (c : Nat) : Bool := decide (m.rdF (Reg.TRAVERSE_SERVE_CFG c) Fld.TRAVERSE_SERVE_CFG_ENABLE = 1)

/-- The voltage that an island is held at or above: f_L's, while its context serves (R493). -/
def Mach.voltFloor (m : Mach) (i : Nat) : Nat :=
  if i < 64 ∧ m.rangeState (i / 4) ≠ 0 ∧ m.serving (m.rangeCtx (i / 4)) then voltageFor (m.lockKHz (m.rangeCtx (i / 4))) else 0

/-- A new frequency: lower, or within the voltage, at once, the voltage following; higher, once the voltage has risen (R504). -/
def Mach.setFreq (m : Mach) (i kHz : Nat) : Mach :=
  let v := max (voltageFor kHz) (m.voltFloor i)
  m.updIsland i (fun x =>
    if v ≤ x.mV ∨ kHz ≤ x.kHz then { x with kHz := kHz, waiting := if x.mV = v then none else some (kHz, v) }
    else { x with waiting := some (kHz, v) })

/-- A voltage change that waits has taken effect, and the frequency that it was for (R504). -/
def Mach.voltageDone (m : Mach) (i : Nat) : Mach :=
  m.updIsland i (fun x => match x.waiting with
    | some (f, v) => { x with kHz := f, mV := v, waiting := none }
    | none => x)

/-- The zone of an island, and the islands of a zone (R517). -/
def islandsOf (z : Nat) : List Nat :=
  if z < 16 then rangeIslands z
  else if z < 18 then [64 + 3 * (z - 16), 65 + 3 * (z - 16), 66 + 3 * (z - 16)]
  else if z < 30 then [70 + (z - 18)]
  else if z = 30 then List.range' 82 10
  else [92 + 2 * (z - 31), 93 + 2 * (z - 31)]

/-- A zone's temperature: the highest reading of its sensors (R517, R527). -/
def Mach.zoneTemp (m : Mach) (z : Nat) : Int := signedOf (m.rdF (Reg.TREELINE_ZONE z) Fld.TREELINE_ZONE_TEMP) 16

/-- A threshold of `THERMAL_CFG` in quarters of a degree. -/
def Mach.thermal (m : Mach) (f : Fld) : Int := 4 * (m.rdF Reg.TREELINE_THERMAL_CFG f : Int)

/-- Whether a zone slows its islands: a throttle or a hold is in force (R518). -/
def Mach.slowed (m : Mach) (z : Nat) : Bool := (m.zone z).throttled || (m.zone z).holdSince.isSome

/-- A range's islands run at a granted frequency; a zone that slows its islands keeps them below it (R506, R518). -/
def Mach.runRange (m : Mach) (n kHz : Nat) (pinned : Bool) : Mach :=
  m.each (rangeIslands n) (fun m i =>
    let slow := (m.zone n).holdSince.isSome || ((m.zone n).throttled && !pinned)
    let m := m.updIsland i (fun x => { x with clocked := true, pinned := pinned, grant := kHz })
    m.setFreq i (if slow then min kHz (m.island i).kHz else kHz))

/-! ### Grants (R508, R509, R512, R516) -/

/-- Whether a flow unit may hold boost (R516): enabled, every zone of its ranges cool enough, and no dip. -/
def Mach.boostOk (m : Mach) (mask : Nat) : Bool :=
  decide (m.rdF Reg.TREELINE_THERMAL_CFG Fld.TREELINE_THERMAL_CFG_BOOST_EN = 1) && !m.treeline.dipping &&
    (maskBits mask 16).all (fun z => decide (m.zoneTemp z < m.thermal Fld.TREELINE_THERMAL_CFG_BOOST_TJ))

/-- The grant and the boost mask of a flow unit that `free` admits (R508, R509, R516). -/
def Mach.flowAdmit (m : Mach) (c mask : Nat) : Option (Rat × Nat) :=
  let big := m.flowGrant c mask boostKHz
  let plain := m.flowGrant c mask flowKHz
  if m.boostOk mask && decide (big ≤ m.freeW) then some (big, mask)
  else if plain ≤ m.freeW then some (plain, 0) else none

/-- The grant of a lockstep unit that the context's reservation admits (R512). -/
def Mach.lockAdmit (m : Mach) (ctx c mask : Nat) : Option Rat :=
  let need := lockNeed c mask (m.lockKHz ctx)
  if need ≤ (m.reservation ctx : Rat) - m.lockSum ctx then some need else none

end Sys2Proof.Machine
end

