-- ==== Sys2Proof/Machine/RidgeOps.lean ====
section
/-!
DEFINITION. The Ridge link layer, router and channels (11_ridge_fabric): what a port sends and keeps for replay, what it does
with a frame it receives, forwarding, the reassembly of messages, and the going up and down of ports.
-/

namespace Sys2Proof.Machine

/-! ### Port state (R412, R418, R425) -/

def Mach.revision (m : Mach) (p : Nat) : Nat := m.rdF (Reg.PORT_STATUS p) Fld.PORT_STATUS_REVISION
def Mach.encrypted (m : Mach) (p : Nat) : Bool := decide (m.rdF (Reg.PORT_STATUS p) Fld.PORT_STATUS_ENCRYPTED = 1)
def Mach.faddr (m : Mach) : Option Nat := m.plan.map (fun x => x.faddr)

/-- The port toward a fabric address: none where the route says unreachable or the port is down (R400, R403, R418). -/
def Mach.routeTo (m : Mach) (a : Nat) : Option Nat :=
  match m.plan with
  | none => none
  | some x =>
    let p := x.route a
    if p < 32 ∧ !(m.port p).cut ∧ (m.portState p = 4 ∨ m.portState p = 5) then some p else none

/-- The bytes of data that a frame's payload field carries (R392, R396, R398). -/
def Mach.payloadMax (m : Mach) (p : Nat) (poison : Bool) : Nat :=
  1024 - (if m.encrypted p then 16 else 0) - (if poison then 16 else 0)

/-! ### Sending (R394, R397, R405) -/

/-- The frames that the replay buffer holds (R394): 4,194,304 / 1,048. -/
def replayFrames : Nat := 4002

/-- Sequence numbers are compared modulo 2^24: whether `a` is at or before `b`. (DEDUCED, log entry 48.) -/
def seqLe (a b : Nat) : Bool := decide ((b + 16777216 - a) % 16777216 < 8388608)

/-- Whether a port in its state may send a frame (R409, R412, R417, R425). -/
def Mach.carries (m : Mach) (p : Nat) (f : Frame) : Bool :=
  match m.portState p with
  | 4 => true
  | 3 | 5 => decide (f.cls = 0)
  | 2 | 7 => decide (f.typ = 3)
  | _ => false

/-- The receivers of a port beside its own peer, while its circuits split its light (R405). -/
def Mach.otherReceivers (m : Mach) (p : Nat) : Nat := branchesOf m.optics.circuits p - 1

/-- Whether a class has credit from every receiver (R397, R405). -/
def Mach.hasCredit (m : Mach) (p c : Nat) : Bool :=
  decide (c = 0) || (decide (0 < (m.port p).credits.getD c 0) && decide (m.otherReceivers p ≤ (m.port p).others.length) &&
    (m.port p).others.all (fun o => decide (0 < o.2.2.getD c 0)))

/-- The order in which classes 1 to 3 take turns, 4 : 2 : 1 (R397). -/
def classWheel : List Nat := [1, 2, 1, 3, 1, 2, 1]

def useCredit (c : Nat) (l : List Nat) : List Nat := if c = 0 then l else l.set c (l.getD c 0 - 1)

/-- The next frame that a port sends: class 0 first, then the classes in turn (R397). A port that a new plan changes sends none
(R417). -/
def Mach.nextFrame (m : Mach) (p : Nat) : Option (Frame × Nat) :=
  let x := m.port p
  let ready (c : Nat) : Option Frame := (x.txq.filter (fun f => m.carries p f && decide (f.cls = c))).head?
  if replayFrames ≤ x.replay.length ∨ x.changed then none
  else match ready 0 with
    | some f => some (f, x.turn)
    | none =>
      ((List.range 7).map (fun k => (x.turn + k) % 7)).findSome? (fun k =>
        let c := classWheel.getD k 1
        match ready c with
        | some f => if m.hasCredit p c then some (f, (k + 1) % 7) else none
        | none => none)

/-- `REPLAY_FILL` of a port (R428). -/
def Mach.showReplay (m : Mach) (p : Nat) : Mach :=
  m.wrF (Reg.PORT_REPLAY_FILL p) Fld.PORT_REPLAY_FILL_BYTES (1048 * (m.port p).replay.length)

/-- One frame leaves a port: numbered, kept for replay, counted under the key (R392, R394, R398). -/
def Mach.emit (m : Mach) (p : Nat) (f : Frame) (turn : Nat) : Mach :=
  let x := m.port p
  let g := { f with seq := x.txSeq, ackSeq := x.rxLast, credCls := 0, credit := 0 }
  let m := m.updPort p (fun x => { x with
    txq := x.txq.erase f, turn := turn, txSeq := (x.txSeq + 1) % 16777216, replay := x.replay ++ [g],
    credits := useCredit f.cls x.credits, others := x.others.map (fun o => (o.1, o.2.1, useCredit f.cls o.2.2)),
    framesUnderKey := if m.encrypted p && (decide (f.typ = 1) || decide (f.typ = 2)) then x.framesUnderKey + 1 else x.framesUnderKey })
  let m : Mach := { m with sent := m.sent ++ [{ port := p, frame := g }] }
  m.showReplay p

/-- A port sends what it can; at most `n` frames. -/
def Mach.pumpN : Nat → Nat → Mach → Mach
  | 0, _, m => m
  | n + 1, p, m => match m.nextFrame p with | some (f, t) => Mach.pumpN n p (m.emit p f t) | none => m

def Mach.pump (m : Mach) (p : Nat) : Mach := Mach.pumpN (m.port p).txq.length p m

/-- A frame to send on a port: a port that is down or unused sends nothing (R403). -/
def Mach.sendOn (m : Mach) (p : Nat) (f : Frame) : Mach :=
  let s := m.portState p
  if s = 0 ∨ s = 6 then m else (m.updPort p (fun x => { x with txq := x.txq ++ [f] })).pump p

/-- An idle frame that carries an acknowledgement and a returned credit (R392, R397). -/
def Mach.idleFrame (m : Mach) (p cls credit : Nat) : Mach :=
  { m with sent := m.sent ++ [{ port := p, frame :=
      { typ := 0, cls := 0, poison := false, stomp := false, hops := 0, dest := 0xFFF, src := m.faddr.getD 0xFFF, channel := 0,
        seq := 0, msg := 0, ackSeq := (m.port p).rxLast, credCls := cls, credit := credit, payload := [] } }] }

/-- A frame of this module (R401). -/
def Mach.newFrame (m : Mach) (typ cls dest channel msg : Nat) (poison : Bool) (payload : List Byte) : Frame :=
  { typ := typ, cls := cls, poison := poison, stomp := false, hops := 15, dest := dest, src := m.faddr.getD 0xFFF, channel := channel,
    seq := 0, msg := msg % 65536, ackSeq := 0, credCls := 0, credit := 0, payload := payload }

/-- A poison mask over the payload's words, as its last 16 bytes (R396). -/
def poisonMask (words : List Nat) : List Byte := leBytes (words.foldl (fun a w => a ||| 2 ^ w) 0) 16

/-- Sending a run of bytes as frames of at most `maxData` bytes; `poison` holds the offsets of poisoned words. -/
def Mach.sendRun : Nat → Mach → Nat → (Bool → List Byte → Frame) → Nat → Nat → List Byte → List Nat → Mach
  | 0, m, _, _, _, _, _, _ => m
  | n + 1, m, p, make, maxData, off, l, poison =>
    if l = [] then m
    else
      let d := l.take maxData
      let bad := (List.range 128).filter (fun w => poison.contains (off + 8 * w) && decide (8 * w < d.length))
      let f := if bad = [] then make false d else make true (d ++ poisonMask bad)
      (m.sendOn p f).sendRun n p make maxData (off + maxData) (l.drop maxData) poison

/-! ### Acknowledgement, replay and errors (R393 to R395, R405) -/

/-- The lowest acknowledgement of a port's receivers. -/
def lowestAck (a : Nat) (l : List (Nat × Nat × List Nat)) : Nat := l.foldl (fun a o => if seqLe o.2.1 a then o.2.1 else a) a

/-- An acknowledgement and a credit arrive from the port's own peer, or from another receiver of its multicast. -/
def Mach.acked (m : Mach) (p : Nat) (src : Option Nat) (ack cls credit : Nat) : Mach :=
  let give (l : List Nat) : List Nat := if cls = 0 then l else l.set cls (l.getD cls 0 + credit)
  let m := m.updPort p (fun x => match src with
    | none => { x with credits := give x.credits,
                       replay := x.replay.filter (fun f => !seqLe f.seq (lowestAck ack x.others)) }
    | some a =>
      let old := (x.others.find? (fun o => decide (o.1 = a))).getD (a, ack, [0, 0, 0, 0])
      { x with others := (a, ack, give old.2.2) :: x.others.filter (fun o => decide (o.1 ≠ a)) })
  (m.showReplay p).pump p

/-- The frames from a sequence number on are sent again, in order and unchanged, before any new one (R394). -/
def Mach.replayFrom (m : Mach) (p seq : Nat) : Mach :=
  { m with sent := m.sent ++ (((m.port p).replay.filter (fun f => seqLe seq f.seq)).map (fun f => { port := p, frame := f })) }

/-- A frame received in error: it and every later frame is discarded until the expected one, and a replay is requested. -/
def Mach.rxError (m : Mach) (p : Nat) : Mach :=
  if (m.port p).waitReplay then m
  else
    let m := ((m.updPort p (fun x => { x with waitReplay := true })).addF (Reg.PORT_REPLAYS p) Fld.PORT_REPLAYS_COUNT 1).tally (188 + p) 1
    m.sendOn p (m.newFrame 2 0 0xFFF 0 0 false (leBytes (m.port p).rxExpect 3))

/-! ### Going down and up (R403, R418) -/

/-- A port's kept and waiting frames go. -/
def Mach.flushPort (m : Mach) (p : Nat) : Mach :=
  (m.updPort p (fun x => { x with replay := [], txq := [], waitReplay := false, others := [], credits := [0, 0, 0, 0] })).showReplay p

/-- What every port that goes down reports: LINK_DOWN in the record that LINK_STATUS returns, `DOWN_EVENT`, and a port event
(R418, R587). Outside a dark-map write its route-table entries are unreachable until a new plan. -/
def Mach.portDown (m : Mach) (p : Nat) : Mach :=
  let m := ((m.setPortState p 6).wrF (Reg.PORT_STATUS p) Fld.PORT_STATUS_DOWN_EVENT 1).wr (Reg.PORT_SADDLE_FMT p) 0
  let m := (m.updPort p (fun x => { x with
    reported := (St.linkDown, p), trained := false, matched := false, reduceIn := [], cut := x.cut || m.optics.dark.isNone,
    light := x.light && decide (x.lanesDown.length < 8) })).flushPort p
  (((m.showLanes p).event Ev.port St.linkDown p).trouble 2).tally (188 + p) 3

/-! ### Messages (R404, R406, R408) -/

/-- The bytes of a message after its header. -/
def messageBytes (rows cols tag : Nat) : Nat :=
  let w := ((Fmt.ofCode (tag % 16)).getD .fp32).width
  let b := match bitsOf tag 4 2 with | 1 => 32 | 2 => 16 | _ => 0
  (rows * cols * w + 7) / 8 +
    (if b = 0 then 0 else if bitOf tag 6 then (rows + b - 1) / b * cols else rows * ((cols + b - 1) / b))

/-- The words that a frame's mask marks, as offsets from the start of its payload. -/
def markedWords (f : Frame) : List Nat :=
  if f.poison then (List.range 128).filterMap (fun w => if bitOf (leNat (f.payload.drop (f.payload.length - 16))) w then some (8 * w) else none)
  else []

/-- A frame's data without its mask. -/
def frameData (f : Frame) : List Byte := if f.poison then f.payload.take (f.payload.length - 16) else f.payload

/-- The 64-bit words of a run of bytes from an offset on that its frame marked; partial words at the ends count whole. -/
def shiftWords (marked : List Nat) (skip base : Nat) : List Nat := (marked.filter (fun w => decide (skip ≤ w))).map (fun w => base + w - skip)

/-- A message that has received all its bytes is whole. -/
def Message.settle (x : Message) : Message :=
  { x with complete := decide (messageBytes x.rows x.cols x.fmtTag ≤ x.data.length) }

/-- A data frame of a kind-1 channel: it begins a message or adds to the one under way. -/
def Mach.messageFrame (m : Mach) (p : Nat) (c : Channel) (f : Frame) : Mach :=
  let st := m.chan c.number
  let d := frameData f
  match m.messages.find? (fun x => decide (x.channel = c.number) && !x.complete && decide (x.number % 65536 = f.msg)) with
  | some x =>
    { m with messages := m.messages.map (fun y => if y = x then
        Message.settle { x with data := x.data ++ d, poison := x.poison ++ shiftWords (markedWords f) 0 x.data.length } else y) }
  | none =>
    let num := st.received + (f.msg + 65536 - st.received % 65536) % 65536
    let x : Message := { port := p, channel := c.number, number := num, step := leAt d 0 4, attempt := leAt d 4 1,
                         rows := leAt d 5 1 + 1, cols := leAt d 6 1 + 1, fmtTag := leAt d 7 1, data := d.drop 16,
                         poison := shiftWords (markedWords f) 16 0, complete := false }
    { m.updChan c.number (fun s => { s with received := num + 1 }) with messages := m.messages ++ [x.settle] }

/-! ### The router and delivery (R395, R400, R401, R403) -/

/-- Whether an address is this module's own or link-local. -/
def Mach.isLocal (m : Mach) (dest : Nat) : Bool := decide (dest = 0xFFF) || decide (m.faddr = some dest)

/-- Forwarding toward the route's port; a frame with no hop left, no route or a down port is dropped and counted. -/
def Mach.forward (m : Mach) (p : Nat) (f : Frame) : Mach :=
  match (if f.hops = 0 then none else m.routeTo f.dest) with
  | some q => m.sendOn q { f with hops := f.hops - 1 }
  | none => (m.addF (Reg.PORT_FWD_DROP p) Fld.PORT_FWD_DROP_COUNT 1).tally (188 + p) 5

/-- A frame for this module: reduction frames wait in the receive buffer and keep their credit; messages gather; the rest is
handled by its own commands. -/
def Mach.deliverFrame (m : Mach) (p : Nat) (f : Frame) : Mach :=
  if f.typ ≠ 1 then m
  else match m.plan.bind (fun x => x.channel f.channel) with
    | none => m.idleFrame p f.cls 1
    | some c =>
      if c.kind = 3 ∧ f.cls = 1 then m.updPort p (fun x => { x with reduceIn := x.reduceIn ++ [f] })
      else if c.kind = 1 ∧ (f.dest = 0xFFF ∨ f.src = c.peer) then (m.messageFrame p c f).idleFrame p f.cls 1
      else m.idleFrame p f.cls 1

/-- Which frames a port in its state accepts (R412, R417). -/
def Mach.accepts (m : Mach) (p : Nat) (f : Frame) : Bool :=
  match m.portState p with
  | 4 => true
  | 3 => decide (f.cls = 0)
  | 2 | 7 | 8 => decide (f.typ = 3)
  | _ => false

/-- An acknowledgement and a credit that a frame carries: its trailer's for this link, or, for a control frame of a multicast
channel addressed to this module, those of another receiver (R405). -/
def Mach.takeAck (m : Mach) (p : Nat) (f : Frame) : Mach :=
  let m := m.acked p none f.ackSeq f.credCls f.credit
  match m.plan.bind (fun x => x.channel f.channel) with
  | some c => if f.typ = 2 ∧ f.dest ≠ 0xFFF ∧ m.isLocal f.dest ∧ c.kind = 2 then m.acked c.port (some f.src) f.ackSeq (bitsOf (leAt f.payload 0 1) 6 2)
      (bitsOf (leAt f.payload 0 1) 0 6) else m
  | none => m

/-- Sixteen tag failures within 1 ms take the port down (R399, R418). -/
def Mach.tagFailed (m : Mach) (p : Nat) : Mach :=
  let m := (m.addF (Reg.PORT_AUTH_FAIL p) Fld.PORT_AUTH_FAIL_COUNT 1).tally (188 + p) 4
  let w := (m.port p).authWindow
  let w := if w.2 + ms 1 < m.clk ∨ w.1 = 0 then (1, m.clk) else (w.1 + 1, w.2)
  let m := ((m.updPort p (fun x => { x with authWindow := w })).trouble 8).rxError p
  if 16 ≤ w.1 then m.portDown p else m

/-- A frame that arrives on a port (R391 to R405). -/
def frameReceive (p : Nat) (f : Frame) (rx : FrameRx) (m : Mach) : Mach :=
  let m := m.addF (Reg.PORT_FEC_CORRECTED p) Fld.PORT_FEC_CORRECTED_COUNT rx.corrected
  let m := if rx.dropped then (m.addF (Reg.PORT_FEC_DROPPED p) Fld.PORT_FEC_DROPPED_COUNT 1).tally (188 + p) 0 else m
  if !m.accepts p f then m
  else if rx.dropped || !rx.hcrcOk then m.rxError p
  else
    let x := m.port p
    let inOrder := decide (f.typ ≠ 0) && decide (f.seq = x.rxExpect)
    let through := inOrder && !m.isLocal f.dest && (decide (f.typ = 1) || decide (f.typ = 2)) && !f.stomp
    if !rx.fcrcOk then
      -- a frame cut through before its FCRC was known leaves stomped
      (if through then m.forward p { f with stomp := true } else m).rxError p
    else if m.encrypted p && (decide (f.typ = 1) || decide (f.typ = 2)) && !rx.tagOk then m.tagFailed p
    else if f.typ = 0 then (if x.waitReplay then m else m.updPort p (fun x => { x with lastInOrder := m.clk })).takeAck p f
    else if x.waitReplay && !inOrder then m
    else if !inOrder then (if seqLe f.seq x.rxLast then m else m.rxError p)
    else
      let m := m.updPort p (fun x => { x with rxExpect := (f.seq + 1) % 16777216, rxLast := f.seq, waitReplay := false, lastInOrder := m.clk })
      let m := m.takeAck p f
      if f.stomp then m.idleFrame p f.cls 1
      else if !m.isLocal f.dest ∧ (f.typ = 1 ∨ f.typ = 2) then (m.forward p f).idleFrame p f.cls 1
      else if f.cls = 0 then (m.deliverFrame p f).idleFrame p 0 0
      else m.deliverFrame p f

/-- A replay request names the first frame to send again (R393, R394). -/
def replayRequest (p seq : Nat) (m : Mach) : Mach := if m.portState p = 4 ∨ m.portState p = 5 then m.replayFrom p seq else m

def execReplayRequest (p : Fin 32) (seq : Nat) (s : State) : Host.Outcome State Fault Refusal := s.run (replayRequest p seq)

end Sys2Proof.Machine
end

