-- ==== Sys2Proof/Machine/Saddle.lean ====
section
/-!
DEFINITION. LINK instructions (R112, R113, R404 to R408) and the reductions that Saddle performs in the receive path
(12_saddle_reduction): placing, sending and claiming messages, postings, contributions, partials, final values and their stores.
-/

namespace Sys2Proof.Machine

/-! ### Placement (R113, R114, R407, R439) -/

/-- The step and attempt of a stream; 0 and 0 outside a step (R408, R444). -/
def Mach.streamStep (m : Mach) (s : Stream) : Nat × Nat :=
  match s.starter, m.ctx s.ctx with
  | .entry i, some x =>
    if 8192 ≤ i then x.next.elim (0, 0) (fun t => (t.step, t.attempt))
    else if 4096 ≤ i then (0, 0)
    else x.step.elim (0, 0) (fun t => (t.step, t.attempt))
  | _, _ => (0, 0)

def Mach.channel (m : Mach) (k : Nat) : Option Channel := m.plan.bind (fun x => x.channel k)

/-- The channel that a LINK instruction names, where it suits the instruction (cause 0x92 of R114). -/
def Mach.linkChannel (m : Mach) (c : Nat) (e : Ewx) (o : SOp) : Option Channel :=
  (m.channel (e.m 32 8)).bind (fun ch =>
    let ok := match o with
      | .send => decide (ch.kind = 0) || decide (ch.kind = 2)
      | .recv => decide (ch.kind = 1) && decide (ch.ctx = c)
      | _ => decide (ch.kind = 3)
    if ok then some ch else none)

/-- R439: the formats of a reduction. -/
def reduceFormatsOk (a d : Desc) (wire : Nat) (norm : Bool) (ch : Option Channel) : Bool :=
  let unscaled (x : Desc) : Bool := decide (x.block = 0) && (decide (x.format = .fp32) || decide (x.format = .bf16) || decide (x.format = .fp16))
  let w := Fmt.ofCode wire
  unscaled a && unscaled d &&
    (decide (w = some .fp32) || decide (w = some .bf16) || decide (w = some .fp16) || decide (w = some .e4m3) || decide (w = some .e5m2)) &&
    (!(ch.elim false (fun c => c.reduce.wireBlock)) || decide (w = some .e4m3) || decide (w = some .e5m2)) &&
    (!norm || (decide (w = some .fp32) && decide (a.format = .fp32) && decide (d.format = .fp32)))

/-- The lowest cause that the placement of a LINK instruction meets. -/
def Mach.linkCause (m : Mach) (c : Nat) (e : Ewx) (o : SOp) : Option Nat :=
  let ch := m.linkChannel c e o
  let a := m.descOf c e.hA
  let d := m.descOf c e.hD
  let role : Bool := match o with
    | .lreduce => (match a, d with
      | some a, some d => decide (a.rank ≠ d.rank) || (List.range 6).any (fun i => decide (a.extent i ≠ d.extent i))
      | _, _ => false)
    | .recv => ch.elim false (fun ch => decide (e.hD ≠ ch.land))
    | _ => false
  let fmt : Bool := match o, a, d with
    | .lreduce, some a, some d => !reduceFormatsOk a d (e.m 12 4) (decide (e.m 11 1 = 1)) ch
    | _, _, _ => false
  holdCode [(0x90, role), (0x91, fmt), (0x92, ch.isNone)]

def linkPlace (n : Nat) (o : SOp) (m : Mach) : Mach :=
  match m.nextIs n o with
  | none => m
  | some (s, e) => m.place n s e o (m.linkCause s.ctx e o)

/-! ### What the link interface and the ports read -/

/-- A byte of local memory; an unmapped page and the host window hold a free value here. (DESIGN CHOICE, log entry 6.) -/
def Mach.linkByte (m : Mach) (x : Ctx) (va : Nat) : Byte :=
  match x.phys va with
  | some pa => if isHost pa then Config.unreadByte m.draws va else m.readByte pa
  | none => Config.unreadByte m.draws va

/-- The in-extent positions of a tile, in row-major order. -/
def Desc.inside (d : Desc) (o : List Int) : List (Nat × Nat) :=
  (positions d.tileRows d.tileCols).filter (fun p => decide (d.classOf (tileCoords o p.1 p.2 false) = .inExtent))

/-- The 64-bit words of memory that a run of virtual bytes lies in. -/
def Ctx.wordsAt (x : Ctx) (va len : Nat) : List Nat :=
  (((List.range len).filterMap (fun i => x.phys (va + i))).map (fun pa => pa / 8 * 8)).eraseDups

/-- The words that an element lies in, and those of its scale. -/
def Ctx.elemWords (x : Ctx) (d : Desc) (c : List Int) : List Nat :=
  let bit := d.bitAddr c
  x.wordsAt (bit / 8) ((bit % 8 + d.format.width + 7) / 8) ++ (if d.block = 0 then [] else x.wordsAt (d.scaleAddr c) 1)

/-- Codes of `w` bits packed from bit 0 of byte 0 on (R127, R128). -/
def packBits (w : Nat) (l : List Nat) : List Byte := leBytes (l.foldr (fun c a => c + 2 ^ w * a) 0) ((l.length * w + 7) / 8)

/-! ### LINK.SEND (R404, R408) -/

/-- A message: its bytes with the 16-byte header, and the offsets of its poisoned words. (DEDUCED, log entry 49.) -/
def Mach.messageOf (m : Mach) (x : Ctx) (d : Desc) (o : List Int) (st : Nat × Nat) (bad : List Nat) : List Byte × List Nat :=
  let ps := d.inside o
  let cs := ps.map (fun p => tileCoords o p.1 p.2 false)
  let rows := (ps.map (fun p => p.1)).eraseDups.length
  let cols := (ps.map (fun p => p.2)).eraseDups.length
  let w := d.format.width
  let scaleAt := if d.block = 0 then [] else (cs.map d.scaleAddr).eraseDups
  let tag := d.fmt + 16 * d.scaleBlock + 64 * (if d.block = 0 then 0 else d.scaleAxis)
  let header := leBytes st.1 4 ++ leBytes st.2 1 ++ leBytes (rows - 1) 1 ++ leBytes (cols - 1) 1 ++ leBytes tag 1 ++ leBytes 0 8
  let elems := packBits w (cs.map (d.codeVia (m.linkByte x)))
  let isBad (va len : Nat) : Bool := meets (x.wordsAt va len) bad
  let poisonE := ((List.range cs.length).zip cs).flatMap (fun e =>
    if isBad (d.bitAddr e.2 / 8) ((d.bitAddr e.2 % 8 + w + 7) / 8) then [(128 + e.1 * w) / 64 * 8, (128 + e.1 * w + w - 1) / 64 * 8] else [])
  let poisonS := ((List.range scaleAt.length).zip scaleAt).filterMap (fun e =>
    if isBad e.2 1 then some ((16 + elems.length + e.1) / 8 * 8) else none)
  (header ++ elems ++ scaleAt.map (m.linkByte x), (poisonE ++ poisonS).eraseDups)

/-- A message leaves on its channel: to the peer by the route table, or link-local on a multicast's port (R404). -/
def Mach.sendMessage (m : Mach) (ch : Channel) (l : List Byte) (poison : List Nat) : Mach :=
  let num := (m.chan ch.number).sent
  let m := m.updChan ch.number (fun s => { s with sent := s.sent + 1 })
  match (if ch.kind = 2 then some ch.port else m.routeTo ch.peer) with
  | none => m
  | some p =>
    let dest := if ch.kind = 2 then 0xFFF else ch.peer
    m.sendRun (l.length + 1) p (fun po d => m.newFrame 1 ch.cls dest ch.number num po d) (m.payloadMax p (!poison.isEmpty)) 0 l poison

/-- A repeat of LINK.SEND: its bytes are read, and the message leaves. -/
def Mach.sendRep (m : Mach) (n : Nat) (s : Stream) (x : Ctx) (d : Desc) (ch : Channel) (p : Placed) (e : Ecc) : Begin :=
  let rep := p.begun
  let o := p.a.at rep
  match p.causes n 7 rep [(0x07, d.coordOut o)] with
  | some a => .stop m a
  | none =>
    let words := (((d.inside o).flatMap (fun q => x.elemWords d (tileCoords o q.1 q.2 false)))).eraseDups
    let local_ := words.filter (fun w => !isHost w)
    let msg := m.messageOf x d o (m.streamStep s) (m.badWords e local_)
    let m := ((m.checkWords srcPort n e local_).sendMessage ch msg.1 msg.2).drawn
    .ok ((m.beginRep n 7 p.seq).didRep n 7 p.seq)

/-! ### LINK.RECV (R406, R407) -/

/-- The next message that a repeat of LINK.RECV claims: what a schedule entry claimed, else the oldest landed one. -/
def ChanSt.nextClaim (c : ChanSt) : Option Nat := match c.entryClaim with | some k => some k | none => c.landed.head?

/-- Claiming a message frees the slot of the message before it (R407). -/
def ChanSt.claim (c : ChanSt) (k : Nat) : ChanSt :=
  if c.entryClaim = some k then { c with entryClaim := none }
  else { c with landed := c.landed.filter (fun x => decide (x ≠ k)), claimed := Nat.max c.claimed (k + 1) }

/-- A range's LINK.RECV that waits for a message claims one that has landed. -/
def Mach.recvClaim (m : Mach) (n : Nat) : Mach :=
  match ((m.range n).link).head? with
  | none => m
  | some p =>
    if p.ins.sop = some .recv ∧ p.done < p.begun then
      match (m.chan (p.ins.m 32 8)).nextClaim with
      | some k => (m.updChan (p.ins.m 32 8) (fun c => c.claim k)).didRep n 7 p.seq
      | none => m
    else m

/-! ### Postings (R433 to R436) -/

/-- What the link station begins: a message sent, a claim, or a posting's next repeat (R72, R74). A posting in flow mode begins
all its repeats. -/
def linkBegin (n : Nat) (ecc : Ecc) (m : Mach) (s : Stream) : Begin :=
  match m.ctx s.ctx, m.frontOf n 7 with
  | none, _ => .held 7
  | _, .error c => .held c
  | some x, .ok p =>
    if m.repHeld n p p.begun || p.prevBusy s.lockstep then .held 3
    else match p.ins.sop, m.channel (p.ins.m 32 8) with
    | some .send, some ch =>
      (match x.desc p.ins.hA with
       | some d => m.sendRep n s x d ch p ecc
       | none => .held 7)
    | some .recv, some _ => if p.done < p.begun then .held 3 else .ok ((m.beginRep n 7 p.seq).recvClaim n)
    | some .lreduce, some _ => .ok (m.beginRep n 7 p.seq)
    | _, _ => .held 7

/-- A flow-mode begin of one kind of LINK instruction. -/
def linkBeginOf (o : SOp) (n : Nat) (ecc : Ecc) (m : Mach) (s : Stream) : Begin :=
  match ((m.range n).link).head? with
  | some p => if p.ins.sop = some o then linkBegin n ecc m s else .held 3
  | none => .held 7

/-! ### Wire values (R440 to R444) -/

/-- A carried value: position, scale byte (127 without scales), element code, poison. -/
structure WireCell where
  pos : Nat
  scale : Nat
  code : Nat
  poison : Bool
  deriving DecidableEq, Repr

/-- The block of 32 along tile dimension 0 that a position lies in. -/
def blockOf (pos : Nat) : Nat := pos / 32

/-- The scale byte that a block's values take, and its flags (R134, R440). -/
def wireScale (f : Fmt) (l : List Cell) (b : Nat) : Nat × Nat :=
  blockScale f ((l.filter (fun c => decide (blockOf c.pos = b))).map (fun c => v32 c.code))

/-- Narrowing for a link, and the flags (R138, R440); FP64 norm values travel as they are. -/
def wireOf (f : Fmt) (scaled norm : Bool) (l : List Cell) : List (WireCell × Nat) :=
  l.map (fun c =>
    if norm then (⟨c.pos, 127, c.code, c.poison⟩, 0)
    else if scaled then
      let s := (wireScale f l (blockOf c.pos)).1
      let r := scaledElement f s .nearest (v32 c.code)
      (⟨c.pos, s, r.1, c.poison⟩, r.2)
    else (let r := narrow f .nearest (v32 c.code); (⟨c.pos, 127, r.1, c.poison⟩, r.2)))

/-- The FP32 code of a carried value; FP64 with `NORM`. -/
def WireCell.code32 (w : WireCell) (f : Fmt) (scaled norm : Bool) : Nat :=
  if norm then w.code else f32 (if scaled then scaledValue f w.code w.scale else f.decode w.code)

/-- Whether a link of a revision provides a wire format (R411, R442). -/
def linkProvides (rev : Nat) (f : Fmt) (scaled : Bool) : Bool :=
  if scaled then decide (7 ≤ rev)
  else match f with
    | .fp32 | .bf16 => decide (5 ≤ rev)
    | _ => decide (6 ≤ rev)

/-- An item of a reduction frame: the position it begins at, its bytes, and the offsets of its poisoned bytes. -/
structure WireItem where
  first : Nat
  bytes : List Byte
  bad : List Nat
  deriving DecidableEq, Repr

/-- The items of a carried tile: elements, or whole blocks with their scale byte first (R444). -/
def itemsOf (width : Nat) (scaled : Bool) (l : List WireCell) : List WireItem :=
  if scaled then
    ((l.map (fun c => blockOf c.pos)).eraseDups).map (fun b =>
      let cs := l.filter (fun c => decide (blockOf c.pos = b))
      let at_ (k : Nat) : Option WireCell := cs.find? (fun c => decide (c.pos = 32 * b + k))
      { first := 32 * b,
        bytes := leBytes ((cs.head?).elim 127 (fun c => c.scale)) 1 ++ (List.range 32).flatMap (fun k => leBytes ((at_ k).elim 0 (fun c => c.code)) 1),
        bad := (List.range 32).filterMap (fun k => if (at_ k).elim false (fun c => c.poison) then some (k + 1) else none) })
  else l.map (fun c => { first := c.pos, bytes := leBytes c.code (width / 8), bad := if c.poison then List.range (width / 8) else [] })

/-- The subheader of a reduction frame (R444). -/
def subheader (po : Posted) (rep fmt : Nat) (scaled result : Bool) (first : Nat) : List Byte :=
  leBytes po.step 4 ++
  leBytes (po.attempt % 16 * 2 ^ 28 + po.key.rank % 16 * 2 ^ 24 + fmt * 2 ^ 20 + b2n scaled * 2 ^ 19 + b2n result * 2 ^ 18 +
    b2n po.norm * 2 ^ 17 + po.key.occur % 512 * 2 ^ 8) 4 ++
  leBytes (po.key.layer * 65536 + rep) 4 ++ leBytes first 4

/-- A tile's frames leave on a port (R442, R444): `n` bounds how many. -/
def Mach.sendItems : Nat → Mach → Nat → (Nat → List Byte) → (Bool → List Byte → Frame) → Nat → Bool → List WireItem → Mach
  | 0, m, _, _, _, _, _, _ => m
  | n + 1, m, p, sub, make, k, fell, l =>
    match l with
    | [] => m
    | i :: _ =>
      let now := l.take k
      let size := i.bytes.length
      let payload := sub i.first ++ now.flatMap (fun x => x.bytes)
      let bad := (((List.range now.length).zip now).flatMap (fun x => x.2.bad.map (fun b => (16 + x.1 * size + b) / 8))).eraseDups
      let f := if bad = [] then make false payload else make true (payload ++ poisonMask bad)
      let m := m.sendOn p f
      let m := if fell then (m.addF (Reg.PORT_SADDLE_FALLBACK p) Fld.PORT_SADDLE_FALLBACK_COUNT 1).tally (220 + p) 1 else m
      m.sendItems n p sub make k fell (l.drop k)

/-- A partial or a final value leaves toward a port (R440 to R442): what the link carries, or that value in FP32. -/
def Mach.sendTile (m : Mach) (po : Posted) (ch : Channel) (rep : Nat) (result : Bool) (cells : List Cell) (p dest : Nat) (at_ : Nat) : Mach :=
  let wire := (Fmt.ofCode po.wire).getD .fp32
  let scaled := ch.reduce.wireBlock && !po.norm
  let w := wireOf wire scaled po.norm cells
  let fell := !po.norm && !linkProvides (m.revision p) wire scaled
  let carried : List WireCell :=
    if fell then w.map (fun x => ⟨x.1.pos, 127, x.1.code32 wire scaled po.norm, x.1.poison⟩) else w.map (fun x => x.1)
  let fmt : Fmt := if po.norm then .fp64 else if fell then .fp32 else wire
  let sc := scaled && !fell
  let items := itemsOf fmt.width sc carried
  let room := m.payloadMax p (cells.any (fun c => c.poison)) - 16
  let k := room / (if sc then 33 else fmt.width / 8)
  let m := if w.any (fun x => decide (x.2 ≠ 0)) then m.orR (Reg.PORT_SADDLE_STATUS at_) 1 else m
  m.sendItems items.length p (subheader po rep fmt.code sc result) (fun b l => m.newFrame 1 1 dest ch.number 0 b l) k fell items

/-! ### Instances -/

/-- The posting of an instance. -/
def Mach.postingOf (m : Mach) (k : InstKey) : Option Posted := m.saddle.posted.find? (fun p => decide (p.key = k))
def Mach.updPosting (m : Mach) (k : InstKey) (f : Posted → Posted) : Mach :=
  { m with saddle := { m.saddle with posted := m.saddle.posted.map (fun p => if p.key = k then f p else p) } }

def Posted.at (p : Posted) (r : Nat) : List Int := AxSnap.at ⟨p.c, p.inc⟩ r

/-- The positions of a tile that take part: position (0, 0) alone with `NORM` (R440). -/
def Posted.places (p : Posted) (d : Desc) (r : Nat) : List (Nat × Nat) :=
  (d.inside (p.at r)).filter (fun q => !p.norm || decide (q = (0, 0)))

/-- The member's contribution to a tile (R436, R440). -/
def Mach.contribution (m : Mach) (x : Ctx) (d : Desc) (p : Posted) (r : Nat) (e : Ecc) : List Cell :=
  (p.places d r).map (fun q =>
    let c := tileCoords (p.at r) q.1 q.2 false
    let v := d.valVia (m.linkByte x) c
    { pos := 128 * q.1 + q.2, count := 1, code := if p.norm then f64 v else f32 v, poison := decide (m.badWords e (x.elemWords d c) ≠ []) })

/-- One addition (R440, R443). -/
def Cell.add (norm : Bool) (a b : Cell) : Cell :=
  { pos := a.pos, count := a.count + b.count, code := if norm then add64 a.code b.code else add32 a.code b.code, poison := a.poison || b.poison }

/-- Adding values to a tile under way; a position that has none yet takes the value as it is. -/
def addCells (norm : Bool) (l : List Cell) (new : List Cell) : List Cell :=
  l.map (fun c => match new.find? (fun d => decide (d.pos = c.pos)) with | some d => c.add norm d | none => c) ++
    new.filter (fun d => !l.any (fun c => decide (c.pos = d.pos)))

/-- The sticky flags of an addition (R443, R457). -/
def Mach.sumFlags (m : Mach) (p : Nat) (norm : Bool) (l : List Cell) : Mach :=
  let m := if l.any (fun c => c.poison && decide (1 < c.count)) then m.orR (Reg.PORT_SADDLE_STATUS p) 4 else m
  if l.any (fun c => decide (1 < c.count) && !(if norm then v64 c.code else v32 c.code).isFinite) then m.orR (Reg.PORT_SADDLE_STATUS p) 2 else m

/-- The partials of tiles under way. -/
def Mach.partialOf (m : Mach) (k : InstKey) (rep : Nat) (result : Bool) : List Cell :=
  ((m.saddle.partials.find? (fun x => decide (x.key = k) && decide (x.rep = rep) && decide (x.result = result))).map (fun x => x.cells)).getD []
def Mach.setPartial (m : Mach) (k : InstKey) (rep : Nat) (result : Bool) (l : List Cell) : Mach :=
  let rest := m.saddle.partials.filter (fun x => !(decide (x.key = k) && decide (x.rep = rep) && decide (x.result = result)))
  { m with saddle := { m.saddle with partials := if l = [] then rest else rest ++ [{ key := k, rep := rep, result := result, cells := l }] } }

/-- How many repeats of a posting store a result at this member (R432). -/
def Posted.stores (p : Posted) (r : ReduceSpec) (rep : Nat) : Bool := decide (r.algo ≠ 1) || decide (rep % r.members = r.index) || decide (p.rep ≤ rep)

/-- A posting whose contributions are read and whose results are stored is over (R437). -/
def Mach.postingOver (m : Mach) (k : InstKey) (r : ReduceSpec) : Mach :=
  { m with saddle := { m.saddle with posted := m.saddle.posted.filter (fun p =>
      !(decide (p.key = k) && decide (p.rep ≤ p.read) && (List.range p.rep).all (fun i => !p.stores r i || p.stored.contains i))) } }

/-- A final value is stored at handle D, converted to its format (R113, R441), its poisoned words poisoned (R443); with `NORM` it
enters the attempt's S (R449). -/
def Mach.storeFinal (m : Mach) (po : Posted) (ch : Channel) (rep : Nat) (cells : List Cell) (e : Ecc) : Mach :=
  let m : Mach := match m.ctx po.ctx with
    | none => m
    | some x =>
      match x.desc po.hD with
      | none => m
      | some d =>
        let coords (c : Cell) : List Int := tileCoords (po.at rep) (c.pos / 128) (c.pos % 128) false
        let w := cells.map (fun c =>
          { bit := d.bitAddr (coords c), width := d.format.width,
            code := (narrow d.format .nearest (if po.norm then v64 c.code else v32 c.code)).1 : BitWrite })
        let m := m.perform po.range x (byteMap w) e .port
        (cells.filter (fun (c : Cell) => c.poison)).foldl (fun m c => (x.elemWords d (coords c)).foldl (fun m a => m.setPoison a) m) m
  let m := if po.norm then
      (let add (t : StepSt) : StepSt :=
        if t.step = po.step ∧ t.attempt = po.attempt then { t with norm := cells.foldl (fun a c => add64 a c.code) t.norm } else t
       m.updCtx po.ctx (fun x => { x with step := x.step.map add, next := x.next.map add }))
    else m
  (m.updPosting po.key (fun p => { p with stored := insertNat rep p.stored })).postingOver po.key ch.reduce

/-- The final value of a tile (R441): the FP32 sum narrowed to `WIRE_FMT`, as FP32 codes. -/
def finalOf (po : Posted) (ch : Channel) (cells : List Cell) : List Cell :=
  let wire := (Fmt.ofCode po.wire).getD .fp32
  let scaled := ch.reduce.wireBlock && !po.norm
  List.zipWith (fun (c : Cell) (w : WireCell × Nat) => { c with code := w.1.code32 wire scaled po.norm }) cells (wireOf wire scaled po.norm cells)

/-- Toward the ring's next member or the tree's parent (R432). -/
def Mach.towardPeer (m : Mach) (po : Posted) (ch : Channel) (rep : Nat) (result : Bool) (cells : List Cell) (at_ : Option Nat) : Mach :=
  match m.routeTo ch.peer with
  | some p => m.sendTile po ch rep result cells p ch.peer (at_.getD p)
  | none => m

/-- Toward the children of a tree (R430, R432). -/
def Mach.towardChildren (m : Mach) (po : Posted) (ch : Channel) (rep : Nat) (cells : List Cell) (at_ : Option Nat) : Mach :=
  if ch.reduce.mport < 32 then m.sendTile po ch rep true cells ch.reduce.mport 0xFFF (at_.getD ch.reduce.mport) else m

/-- A tile whose sum is complete at its owner or root (R432, R441). -/
def Mach.finish_ (m : Mach) (po : Posted) (ch : Channel) (rep : Nat) (sum : List Cell) (at_ : Option Nat) (e : Ecc) : Mach :=
  let f := finalOf po ch sum
  let m := match ch.reduce.algo with
    | 0 => m.towardPeer po ch rep true f at_
    | 1 => m
    | _ => m.towardChildren po ch rep f at_
  m.storeFinal po ch rep f e

/-- The reduce phase of a tile goes on when what it needs is in (R432, R448). (DESIGN CHOICE, log entry 50.) -/
def Mach.advanceTile (m : Mach) (po : Posted) (ch : Channel) (d : Desc) (rep : Nat) (at_ : Option Nat) (e : Ecc) : Mach :=
  let r := ch.reduce
  let places := (po.places d rep).length
  let got := m.partialOf po.key rep false
  if r.algo = 2 then
    if got.length = places ∧ got.all (fun c => decide (c.count = r.fanin + 1)) then
      let m := m.setPartial po.key rep false []
      if ch.peer = 0xFFF then m.finish_ po ch rep got at_ e else m.towardPeer po ch rep false got at_
    else m
  else
    match (m.postingOf po.key).bind (fun p => p.buf.find? (fun b => decide (b.1 = rep))) with
    | none => m
    | some own =>
      let drop (m : Mach) : Mach := m.updPosting po.key (fun p => { p with buf := p.buf.filter (fun b => decide (b.1 ≠ rep)) })
      if (rep + 1) % r.members = r.index then (drop m).towardPeer po ch rep false own.2 at_
      else if got.length = places then
        let sum := addCells po.norm got own.2
        let m := ((drop m).setPartial po.key rep false []).sumFlags (at_.getD 0) po.norm sum
        if rep % r.members = r.index then m.finish_ po ch rep sum at_ e else m.towardPeer po ch rep false sum at_
      else m

/-- The bytes of contributions that a posting holds read ahead (R436). -/
def Posted.held (p : Posted) (d : Desc) : Nat := ((p.buf.map (fun b => b.2.length)).sum * d.format.width + 7) / 8

/-- Whether the Saddle buffer of 8 MiB has room for one more partial of a tree (R448). -/
def Mach.saddleRoom (m : Mach) (places : Nat) : Bool :=
  decide (((m.saddle.partials.filter (fun p => !p.result)).map (fun p => 4 * p.cells.length)).sum + 4 * places ≤ 8388608)

/-- Saddle reads a posting's contributions in repeat order, up to 256 KiB ahead of their use (R436); `n` bounds how many. A
coordinate out of range stops the stream (R50). -/
def Mach.readAhead : Nat → InstKey → Ecc → Mach → Mach
  | 0, _, _, m => m
  | n + 1, k, e, m =>
    match m.postingOf k with
    | none => m
    | some po =>
      match m.channel k.channel, (m.ctx po.ctx).bind (fun x => (x.desc po.hA).map (fun d => (x, d))) with
      | some ch, some (x, d) =>
        let limit := (((m.range po.range).link.find? (fun p => decide (p.seq = po.seq))).map (fun p => p.begun)).getD po.rep
        let bytes := ((po.places d po.read).length * d.format.width + 7) / 8
        if limit ≤ po.read ∨ 262144 < po.held d + bytes then m
        else if d.coordOut (po.at po.read) then
          match (m.range po.range).stream with
          | some id => m.stopStream id St.streamFault
              [{ range := po.range, status := St.streamFault, cause := 0x07, instr := po.idx, rep := po.read, station := 7, cond := 0 }]
          | none => m
        else if ch.reduce.algo = 2 ∧ m.partialOf k po.read false = [] ∧ !m.saddleRoom (po.places d po.read).length then m
        else
          let cells := m.contribution x d po po.read e
          let words := (((po.places d po.read).flatMap (fun q => x.elemWords d (tileCoords (po.at po.read) q.1 q.2 false)))).eraseDups
          let m := (m.checkWords srcPort po.range e (words.filter (fun w => !isHost w))).drawn
          let m := m.updPosting k (fun p => { p with read := p.read + 1 })
          let m := if ch.reduce.algo = 2 then m.setPartial k po.read false (addCells po.norm (m.partialOf k po.read false) cells)
            else m.updPosting k (fun p => { p with buf := p.buf ++ [(po.read, cells)] })
          let m := if (m.range po.range).link.any (fun p => decide (p.seq = po.seq)) then m.didRep po.range 7 po.seq else m
          Mach.readAhead n k e ((m.advanceTile po ch d po.read none e).postingOver k ch.reduce)
      | _, _ => m

/-- A posting starts (R433 to R435): for `LAYER` 0xFFFF at once, otherwise once a mark of its layer and handle is accepted. -/
def postingStart (n i : Nat) (ecc : Ecc) (m : Mach) : Mach :=
  match m.streamOn n, (m.range n).link[i]? with
  | some s, some p =>
    if i ≠ 0 ∨ p.ins.sop ≠ some .lreduce ∨ (m.range n).halted ∨ m.saddle.posted.any (fun q => decide (q.range = n) && decide (q.seq = p.seq)) ∨
        m.repHeld n p p.begun ∨ (s.lockstep ∧ p.begun = 0) then m
    else
      let layer := p.ins.m 16 16
      let r := m.range n
      let mark := r.marks.find? (fun a => a.accepted && decide (a.layer = layer) && decide (a.handle = p.ins.hA))
      if layer ≠ 0xFFFF ∧ mark.isNone then m
      else
        let r := match mark with | some a => if layer = 0xFFFF then r else { r with marks := r.marks.erase a } | none => r
        let r := if s.lockstep then r else r.updPlaced 7 p.seq (fun q => { q with begun := q.ins.rep })
        let rank := rangeRank s.mask n
        let occur := (m.saddle.occur.filter (fun o => decide (o = (s.ctx, p.ins.m 32 8, layer, rank)))).length
        let key : InstKey := { channel := p.ins.m 32 8, layer := layer, rank := rank, occur := occur }
        let st := m.streamStep s
        let po : Posted := { range := n, ctx := s.ctx, key := key, step := st.1, attempt := st.2, seq := p.seq, idx := p.idx,
                             hA := p.ins.hA, hD := p.ins.hD, c := p.a.c, inc := p.a.inc, rep := p.ins.rep, wire := p.ins.m 12 4,
                             norm := decide (p.ins.m 11 1 = 1), read := 0, buf := [], stored := [] }
        let m := m.setRange n r
        let m := { m with saddle := { m.saddle with posted := m.saddle.posted ++ [po], occur := m.saddle.occur ++ [(s.ctx, key.channel, layer, rank)] } }
        m.readAhead (po.rep + 1) key ecc
  | _, _ => m

/-! ### Reduction frames (R432, R436, R440 to R448) -/

/-- What a reduction frame's subheader says. -/
structure SubHdr where
  step : Nat
  attempt : Nat
  rank : Nat
  wfmt : Nat
  scaled : Bool
  result : Bool
  norm : Bool
  occur : Nat
  layer : Nat
  rep : Nat
  first : Nat
  deriving DecidableEq, Repr

def SubHdr.ofBytes (l : List Byte) : SubHdr :=
  let w := leAt l 4 4
  let v := leAt l 8 4
  { step := leAt l 0 4, attempt := bitsOf w 28 4, rank := bitsOf w 24 4, wfmt := bitsOf w 20 4, scaled := bitOf w 19,
    result := bitOf w 18, norm := bitOf w 17, occur := bitsOf w 8 9, layer := bitsOf v 16 16, rep := bitsOf v 0 16,
    first := bitsOf (leAt l 12 4) 0 14 }

def frameKey (f : Frame) : InstKey :=
  let s := SubHdr.ofBytes f.payload
  { channel := f.channel, layer := s.layer, rank := s.rank, occur := s.occur }

/-- `ACTIVE` of a port (R457). -/
def Mach.showActive (m : Mach) (p : Nat) : Mach :=
  m.wrF (Reg.PORT_SADDLE_STATUS p) Fld.PORT_SADDLE_STATUS_ACTIVE ((m.port p).reduceIn.map frameKey).eraseDups.length

/-- The current step and attempt of a context; after a step's close, the next step (R408, R445). -/
def Mach.currentAttempt (m : Mach) (c : Nat) : Nat × Nat :=
  match (m.ctx c).bind (fun x => x.step) with
  | some t => (t.step, t.attempt)
  | none => (0, 0)

/-- Whether a step and attempt are older than a member's current attempt. -/
def older (a b : Nat × Nat) : Bool := decide (a.1 < b.1) || (decide (a.1 = b.1) && decide (a.2 < b.2))

/-- The context that a reduction frame's attempt is compared with: the group context, else the posting's. -/
def Mach.reduceCtx (m : Mach) (k : InstKey) : Nat :=
  match m.postingOf k with
  | some p => p.ctx
  | none => m.rdF Reg.TRAVERSE_STEP_GROUP Fld.TRAVERSE_STEP_GROUP_CONTEXT

/-- The values that a frame carries, at the positions of its tile (R440, R444). -/
def frameCells (f : Frame) (places : List Nat) : List Cell :=
  let s := SubHdr.ofBytes f.payload
  let data := (frameData f).drop 16
  let marked := markedWords f
  let bad (o len : Nat) : Bool := (List.range len).any (fun i => marked.contains ((16 + o + i) / 8 * 8))
  let fmt := (Fmt.ofCode s.wfmt).getD .fp32
  if s.scaled then
    let blocks := ((places.filter (fun q => decide (s.first ≤ q))).map blockOf).eraseDups.take (data.length / 33)
    (((List.range blocks.length).zip blocks).flatMap (fun b =>
      (places.filter (fun q => decide (blockOf q = b.2))).map (fun q =>
        let o := 33 * b.1 + 1 + q % 32
        { pos := q, count := 1, code := f32 (scaledValue fmt (leAt data o 1) (leAt data (33 * b.1) 1)), poison := bad o 1 : Cell })))
  else
    let w := fmt.width / 8
    let ps := (places.filter (fun q => decide (s.first ≤ q))).take (data.length / w)
    ((List.range ps.length).zip ps).map (fun q =>
      let c := leAt data (w * q.1) w
      { pos := q.2, count := 1, code := if s.norm then c else f32 (fmt.decode c), poison := bad (w * q.1) w })

/-- Whether a held frame can be taken: a stale one, or one whose posting has started and whose partial has room. -/
def Mach.takesFrame (m : Mach) (f : Frame) : Bool :=
  let s := SubHdr.ofBytes f.payload
  if older (s.step, s.attempt) (m.currentAttempt (m.reduceCtx (frameKey f))) then true
  else match m.channel f.channel, m.postingOf (frameKey f) with
    | none, _ => true
    | some _, none => false
    | some ch, some po =>
      ch.reduce.algo ≠ 2 || s.result || decide (m.partialOf (frameKey f) s.rep false ≠ []) ||
        m.saddleRoom (((m.ctx po.ctx).bind (fun x => x.desc po.hA)).elim 0 (fun d => (po.places d s.rep).length))

/-- A final value that arrives whole is stored and passed on (R432). -/
def Mach.resultTile (m : Mach) (po : Posted) (ch : Channel) (d : Desc) (rep p : Nat) (e : Ecc) : Mach :=
  let got := m.partialOf po.key rep true
  let r := ch.reduce
  if got.length ≠ (po.places d rep).length then m
  else
    let m := m.setPartial po.key rep true []
    let m := if r.algo = 2 then m.towardChildren po ch rep got (some p)
      else if (r.index + 1) % r.members = rep % r.members then m else m.towardPeer po ch rep true got (some p)
    m.storeFinal po ch rep got e

/-- The oldest held frame of a port that can be taken is added, stored or discarded, and its credit returns. -/
def reductionFrame (p : Nat) (ecc : Ecc) (m : Mach) : Mach :=
  match (m.port p).reduceIn.find? m.takesFrame with
  | none => m
  | some f =>
    let s := SubHdr.ofBytes f.payload
    let m := ((m.updPort p (fun x => { x with reduceIn := x.reduceIn.erase f })).idleFrame p 1 1).showActive p
    if older (s.step, s.attempt) (m.currentAttempt (m.reduceCtx (frameKey f))) then
      (m.addF (Reg.PORT_SADDLE_STALE p) Fld.PORT_SADDLE_STALE_COUNT 1).tally (220 + p) 0
    else match m.channel f.channel, m.postingOf (frameKey f) with
      | some ch, some po =>
        (match (m.ctx po.ctx).bind (fun x => x.desc po.hA) with
         | none => m
         | some d =>
           let cells := frameCells f ((po.places d s.rep).map (fun q => 128 * q.1 + q.2))
           let sum := addCells po.norm (m.partialOf (frameKey f) s.rep s.result) cells
           let m := (m.addF (Reg.PORT_SADDLE_FRAMES p) Fld.PORT_SADDLE_FRAMES_COUNT 1).setPartial (frameKey f) s.rep s.result sum
           let m := m.sumFlags p po.norm sum
           let m := if s.result then m.resultTile po ch d s.rep p ecc else m.advanceTile po ch d s.rep (some p) ecc
           m.readAhead (po.rep + 1) (frameKey f) ecc)
      | _, _ => m

/-! ### MESSAGE_LAND (R406 to R408) -/

/-- Whether the slot of a message is free again. -/
def ChanSt.slotFreed (c : ChanSt) (k : Nat) : Bool := decide (k + 1 < c.claimed) || c.discarded.contains k

/-- Why a message is discarded (R406, R408). -/
def Mach.messageBad (m : Mach) (ch : Channel) (x : Message) : Bool :=
  older (x.step, x.attempt) (m.currentAttempt ch.ctx) ||
  (match m.descOf ch.ctx ch.land with
   | none => true
   | some d => !d.valid || decide (d.rank < 3) ||
      decide (x.fmtTag % 128 ≠ d.fmt + 16 * d.scaleBlock + 64 * (if d.block = 0 then 0 else d.scaleAxis)) ||
      decide (d.extent 2 ≤ x.number % ch.slots))

/-- What a landing writes: elements, scale bytes, and the words left poisoned. -/
def Mach.landMessage (m : Mach) (c : Ctx) (d : Desc) (slot : Nat) (x : Message) (e : Ecc) : Mach :=
  let o : List Int := [0, 0, (slot : Int), 0, 0, 0]
  let w := d.format.width
  let elemBytes := (x.rows * x.cols * w + 7) / 8
  let cells := (positions x.rows x.cols).filter (fun p => decide (d.classOf (tileCoords o p.1 p.2 false) = .inExtent))
  let num (p : Nat × Nat) : Nat := p.1 * x.cols + p.2
  let b := d.block
  let blockIx (p : Nat × Nat) : Nat :=
    if d.scaleAxis = 0 then p.1 * ((x.cols + b - 1) / b) + p.2 / b else p.1 / b * x.cols + p.2
  let rd (i : Nat) : Byte := x.data.getD i 0
  let writes := cells.flatMap (fun p =>
    let at_ := tileCoords o p.1 p.2 false
    { bit := d.bitAddr at_, width := w, code := bitsVia rd (num p * w) w : BitWrite } ::
      (if b = 0 then [] else [{ bit := 8 * d.scaleAddr at_, width := 8, code := (rd (elemBytes + blockIx p)).toNat }]))
  let bad := (cells.filter (fun p => x.poison.contains (num p * w / 64 * 8) || x.poison.contains ((num p * w + w - 1) / 64 * 8) ||
      (decide (b ≠ 0) && x.poison.contains ((elemBytes + blockIx p) / 8 * 8)))).flatMap (fun p => c.elemWords d (tileCoords o p.1 p.2 false))
  let m := m.perform 0 c (byteMap writes) e .port
  bad.foldl (fun m a => m.setPoison a) m

/-- MESSAGE_LAND: the oldest whole message of a channel lands in its slot, or is discarded and counted. -/
def messageLand (k : Nat) (ecc : Ecc) (m : Mach) : Mach :=
  match m.channel k, m.messages.find? (fun x => decide (x.channel = k) && x.complete) with
  | some ch, some x =>
    if ch.kind ≠ 1 then m
    else
      let st := m.chan k
      let gone : Mach := { m with messages := m.messages.erase x }
      if older (x.step, x.attempt) (m.currentAttempt ch.ctx) then
        gone.addF (Reg.PORT_RX_DISCARD x.port) Fld.PORT_RX_DISCARD_COUNT 1
      else if ch.slots ≤ x.number ∧ !st.slotFreed (x.number - ch.slots) then m
      else if m.messageBad ch x then
        (gone.updChan k (fun s => { s with discarded := insertNat x.number s.discarded })).addF (Reg.PORT_RX_DISCARD x.port) Fld.PORT_RX_DISCARD_COUNT 1
      else
        match m.ctx ch.ctx, m.descOf ch.ctx ch.land with
        | some c, some d =>
          let m := gone.landMessage c d (x.number % ch.slots) x ecc
          (m.updChan k (fun s => { s with landed := s.landed ++ [x.number] })).each (List.range 16) (fun m n => m.recvClaim n)
        | _, _ => m
  | _, _ => m

/-! ### Rows -/

def linkSend (n : Nat) (ph : Phase) (ecc : Ecc) (m : Mach) : Mach :=
  match ph with
  | .place => linkPlace n .send m
  | .run => m.flowBegin n (linkBeginOf .send n ecc)

def linkRecv (n : Nat) (ph : Phase) (m : Mach) : Mach :=
  match ph with
  | .place => linkPlace n .recv m
  | .run => m.flowBegin n (linkBeginOf .recv n { corrected := [], bad := [] })

def execLinkSend (n : Fin 16) (phase : Phase) (ecc : Ecc) (s : State) : Host.Outcome State Fault Refusal := s.run (linkSend n phase ecc)
def execLinkReduce (n : Fin 16) (s : State) : Host.Outcome State Fault Refusal := s.run (linkPlace n .lreduce)
def execLinkRecv (n : Fin 16) (phase : Phase) (s : State) : Host.Outcome State Fault Refusal := s.run (linkRecv n phase)
def execMessageLand (channel : Fin 256) (ecc : Ecc) (s : State) : Host.Outcome State Fault Refusal := s.run (messageLand channel ecc)

end Sys2Proof.Machine
end

