-- ==== Sys2Proof/Machine/Launch.lean ====
section
/-!
DEFINITION. Starting and stopping streams (R41 to R45, R71, R219, R489, R493, R512, R515, R640, R683, R684), the entries of
schedule tables (R309 to R312), the admission of units that wait, and STREAM_STATUS.
-/

namespace Sys2Proof.Machine

/-! ### The checks of a start -/

def Ctx.image (x : Ctx) (k : Nat) : Option Image := (x.images.find? (fun e => decide (e.1 = k))).map (fun e => e.2)
def Ctx.table (x : Ctx) (k : Nat) : Option Table := (x.tables.find? (fun e => decide (e.1 = k))).map (fun e => e.2)

/-- Whether every range of a mask belongs to a context. -/
def Mach.ownsAll (m : Mach) (c mask : Nat) : Bool := (maskBits mask 16).all (fun n => m.owns c n)

/-- Whether a stream that waits for admission names a range of a mask. -/
def Mach.awaited (m : Mach) (mask : Nat) : Bool := m.streams.any (fun s => !s.admitted && decide (s.mask &&& mask ≠ 0))

/-- The handles that a station's instructions use in memory (R219). -/
def Image.handlesAt (i : Image) (st : Nat) : List Nat :=
  (i.code.flatMap (fun e => match e.sop with
    | none => []
    | some o => if e.station ≠ st then [] else
        (if o.usesA then [e.hA] else []) ++ (if o.usesB then [e.hB] else []) ++ (if o.usesD && decide (o ≠ .mark) then [e.hD] else []))).eraseDups

/-- The leaves of a context that a run of virtual bytes touches; at most `cap` of each mapped run. -/
def Ctx.leavesOf (x : Ctx) (cap va len : Nat) : List Leaf :=
  if len = 0 then []
  else x.maps.flatMap (fun r =>
    if runsMeet va len r.va r.size then
      let lo := (max va r.va - r.va) / r.page
      let hi := (min (va + len) (r.va + r.size) - 1 - r.va) / r.page
      (List.range' lo (min cap (hi + 1 - lo))).map (fun k =>
        { va := r.va + k * r.page, size := r.page, pa := r.pa + k * r.page, write := r.write, pdom := r.pdom })
    else [])

/-- Every page that the spans of a station's handles touch (R219). -/
def Ctx.pagesOf (x : Ctx) (i : Image) (st : Nat) : List Leaf :=
  (((i.handlesAt st).filterMap x.desc).flatMap (fun d => x.leavesOf 4097 d.base d.spanBytes ++ x.leavesOf 4097 d.scaleBase d.scaleBytes)).eraseDups

/-- Whether an armed position holds a range (R640). -/
def Mach.armedAny (m : Mach) (mask : Nat) : Bool := (maskBits mask 16).any (fun n => (m.armed n).isSome)

/-- The status with which a start is refused, BUSY apart (R41, R71, R219, R512, R640, R683, R684): the first that holds. -/
def Mach.startStatus (m : Mach) (c imageNo mode mask : Nat) : Option Nat :=
  if mask = 0 then some St.badParam
  else if !m.ownsAll c mask then some St.notPermitted
  else match m.ctx c, (m.ctx c).bind (fun x => x.image imageNo) with
    | some x, some i =>
      if decide (1 < mode) || (decide (mode = 1) && (decide (i.cSlot = 0) || decide (i.cGuard < 2))) then some St.badParam
      else if i.handles.any (fun h => (x.desc h).elim true (fun d => !d.valid)) then some St.descInvalid
      else if mode = 1 ∧ m.reservation c = 0 then some St.powerLimit
      else if mode = 1 ∧ m.armedAny mask then some St.badParam
      else if mode = 1 ∧ [1, 4, 5].any (fun st => decide (4096 < (x.pagesOf i st).length)) then some St.badParam
      else match m.stopStatus with
        | some st => some st
        | none => if mode = 1 ∧ (m.lockAdmit c i.cls mask).isNone then some St.powerLimit else none
    | _, _ => some St.badParam

/-- Whether a range of a mask is busy (R41). -/
def Mach.startBusy (m : Mach) (mask : Nat) : Bool := (maskBits mask 16).any m.rangeBusy || m.awaited mask

/-! ### Launching -/

/-- The registers that a start zeroes: AX, INC and LC (R42), and what the last stop left (R81). -/
def startedReg (n a : Nat) : Bool :=
  (decide (Reg.RANGE_AX_COORD n 0 ≤ a) && decide (a < Reg.RANGE_LC n 4)) ||
  decide (a = Reg.RANGE_STOP_POSITION n) || decide (a = Reg.RANGE_STOP_DETAIL n) || decide (a = Reg.RANGE_STOP_SLOT n) ||
  decide (a = Reg.RANGE_QUEUE_FILL n) || decide (a = Reg.RANGE_FAULT_INFO n) || decide (a = Reg.RANGE_FAULT_VA_LO n) ||
  decide (a = Reg.RANGE_FAULT_VA_HI n)

/-- The position armed on a range of a mask, as its registers hold it. -/
def Mach.armOf (m : Mach) (mask : Nat) : Option (Word × Word) :=
  ((maskBits mask 16).find? (fun n => (m.armed n).isSome)).map (fun n => (m.rd (Reg.WAYMARK_POSITION n), m.rd (Reg.WAYMARK_POSITION_HI n)))

/-- One range of a starting stream. -/
def Mach.launchRange (m : Mach) (s : Stream) (x : Ctx) (arm : Option (Word × Word)) (n : Nat) : Mach :=
  let m := { m with csr := Sparse.clear m.csr (startedReg n) }
  let m := (m.wrF (Reg.RANGE_STREAM_STATUS n) Fld.RANGE_STREAM_STATUS_STOP_STATUS 0).wrF (Reg.RANGE_STREAM_STATUS n) Fld.RANGE_STREAM_STATUS_STOP_CAUSE 0
  let m := if s.lockstep then
      (m.wrF (Reg.RANGE_LOCKSTEP_CFG n) Fld.RANGE_LOCKSTEP_CFG_C_SLOT s.image.cSlot).wrF (Reg.RANGE_LOCKSTEP_CFG n) Fld.RANGE_LOCKSTEP_CFG_C_GUARD s.image.cGuard
    else m
  let m := (m.setRangeState n (if s.lockstep then 3 else 2)).wrF (Reg.RANGE_STREAM_STATUS n) Fld.RANGE_STREAM_STATUS_LOCKSTEP_PIN (b2n s.lockstep)
  let m := match arm with
    | some (p, h) => (m.wr (Reg.WAYMARK_POSITION n) p).wr (Reg.WAYMARK_POSITION_HI n) h
    | none => m
  let lock (st : Nat) (l : List TlbEntry) : List TlbEntry :=
    if s.lockstep then (x.pagesOf s.image st).foldl (fun l f => tlbInsert l s.ctx f true) l else l
  let m := m.updRange n (fun r => { r with
    stream := some s.id, streamCount := r.streamCount + 1, pc := 0, loops := [], fence := none, ctrlWait := none, ended := false,
    passes := [], rowCache := [], halted := false, tlbCol := lock 1 r.tlbCol, tlbTalus := lock 4 r.tlbTalus,
    tlbScree := lock 5 r.tlbScree })
  m.runRange n (if s.lockstep then s.fL else if bitOf s.boost n then boostKHz else flowKHz) s.lockstep

/-- An admitted stream begins on every range of its mask; arms of those ranges apply to it (R637, R639). -/
def Mach.launch (m : Mach) (s : Stream) : Mach :=
  match m.ctx s.ctx with
  | none => m
  | some x =>
    let arm := m.armOf s.mask
    let m : Mach := { m with
      streams := m.streams.filter (fun t => decide (t.id ≠ s.id)) ++ [{ s with admitted := true, progress := m.clk }],
      arms := m.arms.map (fun a => if a.mask &&& s.mask ≠ 0 then { a with ranges := a.ranges ||| s.mask } else a),
      treeline := { m.treeline with waiting := m.treeline.waiting.filter (fun w => decide (w.stream ≠ some s.id)) } }
    (m.each (maskBits s.mask 16) (fun m n => m.launchRange s x arm n)).showBudget

/-- A stream that is not yet admitted. -/
def Mach.newStream (m : Mach) (c imageNo : Nat) (i : Image) (mask : Nat) (lockstep : Bool) (by_ : Starter) (prio : Nat) : Stream :=
  { id := m.nextStream, ctx := c, imageNo := imageNo, image := i, mask := mask, lockstep := lockstep, starter := by_, prio := prio,
    admitted := false, waitSince := m.clk, grant := 0, boost := 0, fL := m.lockKHz c, startAt := none, slot := 0, progress := m.clk }

/-- The grant that a stream would have now (R508, R512, R516). -/
def Mach.grantOf (m : Mach) (s : Stream) : Option (Rat × Nat) :=
  if s.lockstep then (m.lockAdmit s.ctx s.image.cls s.mask).map (fun g => (g, 0)) else m.flowAdmit s.image.cls s.mask

/-- STREAM_START (R41, R43): refused, admitted at once, or waiting for its grant. -/
def streamStartBody (h : Hdr) (imageNo mode mask : Nat) (m : Mach) : Mach :=
  if mask = 0 then m.answer h Op.streamStart St.badParam
  else if !m.ownsAll h.ctx mask then m.answer h Op.streamStart St.notPermitted
  else if m.startBusy mask then m.answer h Op.streamStart St.busy
  else match m.startStatus h.ctx imageNo mode mask, (m.ctx h.ctx).bind (fun x => x.image imageNo) with
    | some st, _ => m.answer h Op.streamStart st
    | none, none => m.answer h Op.streamStart St.badParam
    | none, some i =>
      let s := m.newStream h.ctx imageNo i mask (decide (mode = 1)) (.command h.lane h.tag) h.prio
      let m := { m with nextStream := m.nextStream + 1 }
      match (if m.treeline.starving.isSome then none else m.grantOf s) with
      | some (g, b) => (m.accept h Op.streamStart).launch { s with grant := g, boost := b }
      | none =>
        (let q : Mach := { m with streams := m.streams ++ [s], treeline := { m.treeline with
           waiting := m.treeline.waiting ++ [{ stream := some s.id, ctx := s.ctx, entry := 0, since := m.clk }] } }
         q.begin h Op.streamStart)

/-- STREAM_STOP (R45): every stream that runs on a range of the mask. -/
def streamStopBody (h : Hdr) (mask : Nat) (m : Mach) : Mach :=
  if mask = 0 then m.answer h Op.streamStop St.badParam
  else if !m.ownsAll h.ctx mask then m.answer h Op.streamStop St.notPermitted
  else (m.stopStreams (fun s => decide (s.mask &&& mask ≠ 0)) St.streamFault 0x08).answer h Op.streamStop St.done

/-- STREAM_STATUS (R79, R81, R591): four registers of each range in the mask. -/
def streamStatusBody (h : Hdr) (mask : Nat) (m : Mach) : Mach :=
  if mask = 0 then m.answer h Op.streamStatus St.badParam
  else if !m.ownsAll h.ctx mask then m.answer h Op.streamStatus St.notPermitted
  else m.answer h Op.streamStatus St.done 0 ((maskBits mask 16).flatMap (fun n =>
    [Reg.RANGE_STREAM_STATUS n, Reg.RANGE_STOP_POSITION n, Reg.RANGE_STOP_DETAIL n, Reg.RANGE_STOP_SLOT n].flatMap (fun a =>
      leBytes (m.rd a).toNat 4)))

/-! ### Lockstep start instants (R72, R489, R493) -/

/-- C_fill in cycles: 48 and the CTRL instructions before the first instruction that occupies a slot. -/
def Image.cFill (i : Image) : Nat :=
  48 + ((i.code.takeWhile (fun e => decide (e.station = 0) || decide (e.station = 6))).filter (fun e => decide (e.station = 0))).length

/-- A number of cycles at a frequency in kHz, in tenths of a nanosecond. -/
def cyclesAt (cycles kHz : Nat) : Nat := cycles * 10000000 / kHz

/-- The start instant of a lockstep stream: C_fill after it may start, its islands pinned to f_L. -/
def startInstant (n : Nat) (m : Mach) : Mach :=
  match m.streamOn n with
  | none => m
  | some s =>
    if s.lockstep ∧ s.admitted ∧ s.startAt = none ∧ s.progress + cyclesAt s.image.cFill s.fL ≤ m.clk ∧
        (maskBits s.mask 16).all (fun k => (rangeIslands k).all (fun i => decide ((m.island i).kHz = s.fL))) then
      m.updStream s.id (fun s => { s with startAt := some m.clk })
    else m

/-! ### Schedule entries (R309 to R312, R515) -/

/-- Which running table of a context an entry number belongs to: 0 the step, 4096 the serving pass, 8192 the next step. -/
def Ctx.running (x : Ctx) (base : Nat) : Option (Table × List EntrySt) :=
  if base = 4096 then x.pass.bind (fun p => if p.failed.isSome then none else (x.table p.table).map (fun t => (t, p.entries)))
  else
    (if base = 8192 then x.next else x.step).bind (fun s =>
      if s.started && s.failed.isNone then (x.table s.table).map (fun t => (t, s.entries)) else none)

/-- A message that an entry with `WAIT_EN` can claim (R310). -/
def Mach.entryMessage (m : Mach) (e : Entry) : Bool :=
  !e.waitEn || (decide ((m.chan e.channel).landed ≠ []) && (m.chan e.channel).entryClaim.isNone)

/-- Whether an entry's dependencies have ended with DONE, its message has landed and its ranges are free (R310). -/
def Mach.entryReady (m : Mach) (base : Nat) (t : Table) (es : List EntrySt) (i : Nat) : Bool :=
  match t.entries[i]? with
  | none => false
  | some e =>
    decide (es[i]? = some .waiting) && e.deps.all (fun d => decide (es[d]? = some (.ended St.done))) && m.entryMessage e &&
    (e.copy || !m.startBusy e.mask) && decide (base ≤ 8192)

/-- The lowest entry of a table that is ready. -/
def Mach.firstReady (m : Mach) (base : Nat) (t : Table) (es : List EntrySt) : Option Nat :=
  (List.range t.entries.length).find? (fun i => m.entryReady base t es i)

/-- An entry changes its standing. -/
def Mach.setEntry (m : Mach) (c i : Nat) (v : EntrySt) : Mach :=
  m.updCtx c (fun x =>
    if 8192 ≤ i then { x with next := x.next.map (fun s => { s with entries := s.entries.set (i - 8192) v }) }
    else if 4096 ≤ i then { x with pass := x.pass.map (fun p => { p with entries := p.entries.set (i - 4096) v }) }
    else { x with step := x.step.map (fun s => { s with entries := s.entries.set i v }) })

/-- An entry with `WAIT_EN` claims the oldest landed message of its channel. -/
def Mach.entryClaims (m : Mach) (e : Entry) : Mach :=
  if e.waitEn then
    m.updChan e.channel (fun c => match c.landed with
      | k :: t => { c with landed := t, entryClaim := some k, claimed := Nat.max c.claimed (k + 1) }
      | [] => c)
  else m

/-- Whether a stack of an entry's copy agrees (R309). -/
def copyAgrees (a b : Desc) : Bool :=
  decide (a.fmt = b.fmt) && decide (a.rank = b.rank) && (List.range 6).all (fun i => decide (a.extent i = b.extent i)) &&
  decide (a.scaleBlock = b.scaleBlock) && (decide (a.block = 0) || decide (a.scaleAxis = b.scaleAxis))

/-- A copy entry starts; descriptors that disagree, or are not loaded, end it with DESC_INVALID. -/
def Mach.startCopy (m : Mach) (c i : Nat) (e : Entry) : Mach :=
  match m.descOf c e.src, m.descOf c e.dst with
  | some a, some b =>
    if a.valid && b.valid && copyAgrees a b then
      (let j : CopyJob := { ctx := c, owner := .entry i, src := some a.base, dst := b.base, pattern := 0, length := 0,
                            handles := some (e.src, e.dst), slot := none, arrived := [], sent := false, failed := 0, moved := 0, prio := 0 }
       match m.ctx c with
       | none => m
       | some x => if m.leaks x j then m.entryOver c i St.notPermitted else (m.setEntry c i .running).beginCopy x j)
    else m.entryOver c i St.descInvalid
  | _, _ => m.entryOver c i St.descInvalid

/-- Whether a unit that waits keeps others from starting (R515). -/
def Mach.starvedBy (m : Mach) (c i : Nat) : Bool := match m.treeline.starving with | some w => decide (w ≠ (c, i)) | none => false

/-- An entry that has no grant waits (R17, R515). -/
def Mach.entryWaits (m : Mach) (c i : Nat) : Mach :=
  if m.treeline.waiting.any (fun w => decide (w.stream = none) && decide (w.ctx = c) && decide (w.entry = i)) then m
  else { m with treeline := { m.treeline with waiting := m.treeline.waiting ++ [{ stream := none, ctx := c, entry := i, since := m.clk }] } }

def Mach.entryStops (m : Mach) (c i : Nat) : Mach :=
  { m with treeline := { m.treeline with
      waiting := m.treeline.waiting.filter (fun w => !(decide (w.stream = none) && decide (w.ctx = c) && decide (w.entry = i))),
      starving := if m.treeline.starving = some (c, i) then none else m.treeline.starving } }

/-- The priority class of an entry's work: that of the command that its step or pass came with (R580). -/
def Ctx.prioAt (x : Ctx) (i : Nat) : Nat :=
  if 8192 ≤ i then x.next.elim 0 (fun s => s.prio) else if 4096 ≤ i then x.pass.elim 0 (fun p => p.prio) else x.step.elim 0 (fun s => s.prio)

/-- A stream entry starts, waits for its grant, or ends with the status that R41, R512 or R683 gives it. -/
def Mach.startStreamEntry (m : Mach) (c i : Nat) (e : Entry) : Mach :=
  match m.startStatus c e.image (b2n e.lockstep) e.mask, (m.ctx c).bind (fun x => x.image e.image) with
  | some st, _ => (m.entryStops c i).entryOver c i st
  | none, none => (m.entryStops c i).entryOver c i St.badParam
  | none, some img =>
    let prio := (m.ctx c).elim 0 (fun x => x.prioAt i)
    let s := m.newStream c e.image img e.mask e.lockstep (.entry i) prio
    match (if m.starvedBy c i then none else m.grantOf s) with
    | some (g, b) =>
      (let q : Mach := { m.entryStops c i with nextStream := m.nextStream + 1 }
       ((q.entryClaims e).setEntry c i .running).launch { s with grant := g, boost := b })
    | none => m.entryWaits c i

/-- Whether an entry that is not the first may start ahead of it (R515): the first needs a grant that `free` does not hold, and
this one is memory movement or Spur work. -/
def Mach.mayPass (m : Mach) (c : Nat) (t : Table) (first i : Nat) : Bool :=
  match t.entries[first]?, t.entries[i]? with
  | some f, some e =>
    let cls (e : Entry) : Option Image := (m.ctx c).bind (fun x => x.image e.image)
    !f.copy && (match cls f with | some g => !f.lockstep && (m.flowAdmit g.cls f.mask).isNone | none => false) &&
    (e.copy || (match cls e with | some g => decide (g.cls = 0) || decide (g.cls = 1) || decide (g.cls = 6) | none => false))
  | _, _ => false

/-- The plan that forms a group, where one is in force (R450). -/
def Mach.groupPlan (m : Mach) : Option Plan := m.plan.filter (fun p => decide (2 ≤ p.size))

/-- Whether a Belay freeze, in force or due, holds the entries of a context (R21, R324). The group master knows that one is due. -/
def Mach.freezeHolds (m : Mach) (c base : Nat) : Bool :=
  m.frozen c ||
  (match m.belay.plan, m.groupPlan, (m.ctx c).bind (fun x => if base = 0 then x.step else x.next) with
   | some p, some g, some s => decide (base ≠ 4096) && decide (p.ctx = c) && decide (g.rank = 0) &&
       ((decide (p.interval ≠ 0) && decide (m.belay.sinceRound + p.interval < s.step)) ||
        (decide (m.belay.snapshots ≠ []) && decide (base = 8192)) ||
        m.group.loop.any (fun x => match x.body with | .mirror .. => true | _ => false))
   | _, _, _ => false)

/-- SCHEDULE_ENTRY_START: entry `k` mod 4096 of the table whose base is `k` / 4096 × 4096. -/
def entryStart (c k : Nat) (m : Mach) : Mach :=
  let base := k / 4096 * 4096
  match (m.ctx c).bind (fun x => x.running base) with
  | none => m
  | some (t, es) =>
    let i := k - base
    if !m.entryReady base t es i ∨ m.clearing ∨ m.freezeHolds c base then m
    else match m.firstReady base t es, t.entries[i]? with
      | some f, some e =>
        if f ≠ i ∧ !m.mayPass c t f i then m
        else if e.copy then (if m.starvedBy c k then m else (m.entryClaims e).startCopy c k e)
        else m.startStreamEntry c k e
      | _, _ => m

/-- The waiting streams and entries are tried again, in the order they began to wait (R508, R515). -/
def Mach.admitWaiting (m : Mach) : Mach :=
  m.treeline.waiting.foldl (fun m w => match w.stream with
    | none => entryStart w.ctx w.entry m
    | some id => match m.stream id with
      | none => m
      | some s =>
        if m.treeline.starving.isSome then m
        else match m.grantOf s, s.starter with
          | some (g, b), .command lane tag =>
            (m.send (replyOf s.prio lane s.ctx tag Op.streamStart St.accepted 0 [] false)).launch { s with grant := g, boost := b }
          | some (g, b), _ => m.launch { s with grant := g, boost := b }
          | none, _ => m) m

/-- Every unit that waits for admission ends with a status (R683). -/
def Mach.endWaiting (m : Mach) (status : Nat) : Mach :=
  let m := m.stopStreams (fun s => !s.admitted) status 0
  (m.treeline.waiting.filter (fun w => decide (w.stream = none))).foldl (fun m w => (m.entryStops w.ctx w.entry).entryOver w.ctx w.entry status) m

/-- R312: the sync counters that a table names go to zero. -/
def Mach.zeroCounters (m : Mach) (c : Nat) (t : Table) : Mach :=
  m.each (List.range' (m.syncBase c + t.syncFirst) t.syncCount) (fun m k => m.wr (Reg.TRAVERSE_SYNC_COUNTER k) 0)

/-! ### Rows -/

def execStreamStart (h : Hdr) (image mode rangeMask : Nat) (s : State) : Host.Outcome State Fault Refusal :=
  s.run (fun m => if m.frozen h.ctx then m else
    m.command Op.streamStart h (leBytes image 1 ++ leBytes mode 1 ++ leBytes rangeMask 2) (streamStartBody h image mode rangeMask))
def execStreamStop (h : Hdr) (rangeMask : Nat) (s : State) : Host.Outcome State Fault Refusal :=
  s.run (fun m => m.command Op.streamStop h (leBytes rangeMask 2) (streamStopBody h rangeMask))
def execStreamStatus (h : Hdr) (rangeMask : Nat) (s : State) : Host.Outcome State Fault Refusal :=
  s.run (fun m => m.command Op.streamStatus h (leBytes rangeMask 2) (streamStatusBody h rangeMask))
def execLockstepStartInstant (n : Fin 16) (s : State) : Host.Outcome State Fault Refusal := s.run (startInstant n)
def execScheduleEntryStart (c : Fin 16) (entry : Nat) (s : State) : Host.Outcome State Fault Refusal := s.run (entryStart c entry)

end Sys2Proof.Machine
end

