-- ==== Sys2Proof/Machine/TarnOps.lean ====
section
/-!
DEFINITION. Tarn (09_training_steps, R318 to R333): reading its records and programs, the checks of STEP_BEGIN, the update of a
record and its flip, the restoration of a rollback, and the record of a fault.
-/

namespace Sys2Proof.Machine

/-! ### Tables and programs -/

/-- The virtual address of a context's table in a stack, and how many records it has (R341). -/
def Mach.tarnTable (m : Mach) (s c : Nat) : Nat × Nat :=
  (m.rdF (Reg.FOOTHILL_TARN_TABLE_HI s c) Fld.FOOTHILL_TARN_TABLE_HI_BASE_HI * 2 ^ 32 +
     (m.rd (Reg.FOOTHILL_TARN_TABLE_LO s c)).toNat / 64 * 64,
   m.rdF (Reg.FOOTHILL_TARN_TABLE_COUNT s c) Fld.FOOTHILL_TARN_TABLE_COUNT_COUNT)

/-- The record at an index of a context's table (R325). -/
def Mach.tarnRecord (m : Mach) (x : Ctx) (s c i : Nat) : Record := Record.ofBytes (m.readRun x ((m.tarnTable s c).1 + 64 * i) 64)

/-- The records in use of a stack's table, with their indices. -/
def Mach.tarnRecords (m : Mach) (x : Ctx) (s c : Nat) : List (Nat × Record) :=
  ((List.range (m.tarnTable s c).2).map (fun i => (i, m.tarnRecord x s c i))).filter (fun r => r.2.valid)

/-- A program slot as its registers hold it (R342 to R344). -/
def Mach.tarnProg (m : Mach) (s p : Nat) : Prog :=
  let w := m.rd (Reg.FOOTHILL_TARN_PROG s p)
  { valid := decide (Word.getF w Fld.FOOTHILL_TARN_PROG_VALID = 1), ctx := Word.getF w Fld.FOOTHILL_TARN_PROG_CONTEXT,
    algo := Word.getF w Fld.FOOTHILL_TARN_PROG_ALGO, moments := Word.getF w Fld.FOOTHILL_TARN_PROG_MOMENTS,
    sr := decide (Word.getF w Fld.FOOTHILL_TARN_PROG_SR = 1), nesterov := decide (Word.getF w Fld.FOOTHILL_TARN_PROG_NESTEROV = 1),
    length := Word.getF w Fld.FOOTHILL_TARN_PROG_LENGTH,
    hp := (List.range 8).map (fun k => (m.rd (Reg.FOOTHILL_TARN_HP s (8 * p + k))).toNat),
    code := (List.range 16).map (fun i => (m.rd (Reg.FOOTHILL_TARN_CODE_LO s (16 * p + i))).toNat +
      2 ^ 32 * (m.rd (Reg.FOOTHILL_TARN_CODE_HI s (16 * p + i))).toNat) }

/-- The handles that a record names: what R319 holds. -/
def Record.handles (r : Record) : List Nat := if r.copy2 = 0 then [r.hW, r.hG] else [r.hW, r.hW2, r.hG]

/-! ### Shapes (R326) -/

/-- The number of elements in the extents. -/
def Desc.count (d : Desc) : Nat := ((List.range 6).map d.extent).foldl (· * ·) 1

/-- The coordinates of element `k`, dimension 0 varying fastest. -/
def Desc.coordsOf (d : Desc) (k : Nat) : List Int :=
  (List.range 6).map (fun i => ((k / ((List.range i).map d.extent).foldl (· * ·) 1 % d.extent i : Nat) : Int))

/-- The bytes of one array of the state. -/
def arrayBytes (n : Nat) : Nat := (4 * n + 63) / 64 * 64

/-- Where half `h` of a record's state starts. -/
def Record.stateAt (r : Record) (h : Nat) : Nat := r.stateBase + h * r.halfStride * 64

/-- A descriptor placed at half `h` of a compute copy: the record's first or second. -/
def Record.place (r : Record) (second : Bool) (h : Nat) (d : Desc) : Desc :=
  let b := if second then r.copy2Base else r.copyBase
  let sb := if second then r.copy2ScaleBase else r.copyScaleBase
  { d with base := b + h * r.copyStride * 64, scaleBase := if d.block = 0 then d.scaleBase else sb + h * r.copyStride * 64 }

/-! ### The checks of R318 and R327 -/

/-- Two descriptors alike in what an alias view or a second copy shares with the first. -/
def Desc.alike (a b : Desc) : Bool :=
  decide (a.fmt = b.fmt) && decide (a.scaleBlock = b.scaleBlock) && decide (a.layout = b.layout) && decide (a.rank = b.rank) &&
  (List.range 6).all (fun i => decide (a.extent i = b.extent i)) && (List.range 6).all (fun i => decide (b.rank ≤ i ∨ a.strideAt i = b.strideAt i))

/-- Cause 0x02: the compute copy. -/
def weightOk (d : Option Desc) : Bool :=
  d.elim false (fun d => d.valid && d.weight && d.gradAccum && decide (d.fmt ≤ 9) && (!d.format.isInt || decide (d.block ≠ 0)))

/-- Cause 0x03: the reduced gradient. -/
def gradOk (w g : Option Desc) : Bool :=
  match w, g with
  | some w, some g => g.valid && g.gradient && (decide (g.format = .fp32) || decide (g.format = .bf16)) && decide (g.block = 0) &&
      (List.range 6).all (fun i => decide (w.extent i = g.extent i))
  | none, some g => g.valid && g.gradient && (decide (g.format = .fp32) || decide (g.format = .bf16)) && decide (g.block = 0)
  | _, none => false

/-- Cause 0x04: the second handle. -/
def secondOk (r : Record) (w v : Option Desc) : Bool :=
  match r.copy2 with
  | 0 => decide (r.hW2 = 0xFFFF)
  | 3 => true
  | k => match w, v with
    | some w, some v => v.valid && v.weight && !v.gradAccum && w.alike v &&
        (if k = 1 then decide (w.block = 0) || decide (w.scaleAxis = v.scaleAxis) else decide (w.scaleAxis ≠ v.scaleAxis) && decide (v.scaleBlock ≠ 0))
    | _, _ => false

/-- Cause 0x06: reserved fields, alignment and strides. -/
def layoutOk (r : Record) (p : Prog) (w v : Option Desc) : Bool :=
  let clears (d : Option Desc) : Bool := d.elim true (fun d => decide (d.spanBytes ≤ r.copyStride * 64) && decide (d.scaleBytes ≤ r.copyStride * 64))
  !r.rsv && decide (r.copy2 ≠ 3) && decide (r.copyBase % 64 = 0) && decide (r.copyScaleBase % 64 = 0) && decide (r.copy2Base % 64 = 0) &&
  decide (r.copy2ScaleBase % 64 = 0) && (decide (r.copy2 = 2) || (decide (r.copy2Base = 0) && decide (r.copy2ScaleBase = 0))) &&
  w.elim true (fun d => decide ((1 + p.momentCount) * arrayBytes d.count ≤ r.halfStride * 64)) && clears w &&
  (decide (r.copy2 ≠ 2) || clears v)

/-- The lowest cause of R327 that a record meets; `shared` says that another record names one of its handles. -/
def Mach.recordCause (m : Mach) (x : Ctx) (s c : Nat) (r : Record) (shared : Bool) : Option Nat :=
  let p := m.tarnProg s r.prog
  let w := x.desc r.hW
  let v := x.desc r.hW2
  holdCode [(0x01, !p.valid || decide (p.ctx ≠ c)), (0x02, !weightOk w), (0x03, !gradOk w (x.desc r.hG)), (0x04, !secondOk r w v),
    (0x05, shared), (0x06, !layoutOk r p w v), (0x07, !p.ok)]

/-- Every record in use of a context: stack, index, record. -/
def Mach.allRecords (m : Mach) (x : Ctx) (c : Nat) : List (Nat × Nat × Record) :=
  (List.range 12).flatMap (fun s => (m.tarnRecords x s c).map (fun r => (s, r.1, r.2)))

/-- The first record that fails: stack, index, cause (R318). -/
def Mach.tarnCheck (m : Mach) (x : Ctx) (c : Nat) : Option (Nat × Nat × Nat) :=
  let all := m.allRecords x c
  all.findSome? (fun r =>
    let shared := all.any (fun q => !(decide (q.1 = r.1) && decide (q.2.1 = r.2.1)) && meets q.2.2.handles r.2.2.handles)
    (m.recordCause x r.1 c r.2.2 shared).map (fun k => (r.1, r.2.1, k)))

/-- Changing a descriptor of a context. -/
def Ctx.updDesc (x : Ctx) (h : Nat) (f : Desc → Desc) : Ctx :=
  { x with descs := x.descs.map (fun e => if e.1 = h then (h, f e.2) else e) }

/-- Rebasing the handles of a record to half `h` (R318, R320). -/
def Ctx.rebase (x : Ctx) (r : Record) (h : Nat) : Ctx :=
  let x := x.updDesc r.hW (r.place false h)
  if r.copy2 = 0 then x else x.updDesc r.hW2 (r.place (decide (r.copy2 = 2)) h)

/-- R318: every handle named in a record takes the half that the record gives. -/
def Mach.rebaseAll (m : Mach) (c : Nat) : Mach :=
  match m.ctx c with
  | none => m
  | some x => m.setCtx c (some ((m.allRecords x c).foldl (fun x r => x.rebase r.2.2 r.2.2.half) x))

/-! ### An update (R319, R320, R326 to R330, R333) -/

/-- The first record in use from an index on. -/
def Mach.nextRecord (m : Mach) (x : Ctx) (s c i : Nat) : Option Nat :=
  ((m.tarnRecords x s c).find? (fun r => decide (i ≤ r.1))).map (fun r => r.1)

/-- Showing a stack's Tarn (R339). -/
def Mach.showTarn (m : Mach) (s state ctx record : Nat) : Mach :=
  let m := m.wrF (Reg.FOOTHILL_TARN_STATUS s) Fld.FOOTHILL_TARN_STATUS_STATE state
  let m := m.wrF (Reg.FOOTHILL_TARN_STATUS s) Fld.FOOTHILL_TARN_STATUS_CONTEXT ctx
  m.wrF (Reg.FOOTHILL_TARN_STATUS s) Fld.FOOTHILL_TARN_STATUS_RECORD record

def Mach.tarnOf (m : Mach) (s : Nat) : Option TarnSt := m.tarn.getD s none
def Mach.setTarn (m : Mach) (s : Nat) (t : Option TarnSt) : Mach := { m with tarn := m.tarn.set s t }

/-- Whether a stack's Tarn still has a record of a context to update. -/
def Mach.tarnBusy (m : Mach) (s c : Nat) : Bool :=
  match m.tarnOf s, m.ctx c with
  | some t, some x => decide (t.ctx = c) && (m.nextRecord x s c t.record).isSome
  | _, _ => false

/-- The start of the update on a stack: every slot is latched (R333). -/
def Mach.startTarn (m : Mach) (x : Ctx) (c f s : Nat) : Mach :=
  match m.nextRecord x s c 0 with
  | none => m
  | some i => (m.setTarn s (some { ctx := c, progs := (List.range 16).map (m.tarnProg s), f := f, record := i })).showTarn s 1 c i

/-- The FP32 code at a virtual address. -/
def Mach.word32 (m : Mach) (x : Ctx) (va : Nat) : Nat := leNat (m.readRun x va 4)

/-- The elements of a record at its current half. -/
def Mach.elemsOf (m : Mach) (x : Ctx) (r : Record) (n moments : Nat) : List Elem :=
  let a := arrayBytes n
  let at_ (j k : Nat) : Nat := m.word32 x (r.stateAt r.half + j * a + 4 * k)
  (List.range n).map (fun k => { w := at_ 0 k, m := if 1 ≤ moments then at_ 1 k else 0, v := if 2 ≤ moments then at_ 2 k else 0 })

/-- What a compute copy's store writes (R330): elements, scales and flags; `ws` holds the new weights in coordinate order. -/
def copyWrites (d : Desc) (ws : List Nat) (mode : Nat → Rounding) : StoreOut :=
  let n := ws.length
  let blockKey (k : Nat) : Nat := d.scaleAddr (d.coordsOf k)
  let keys := if d.block = 0 then [] else ((List.range n).map blockKey).eraseDups
  let scales := keys.map (fun a => (a, blockScale d.format (((List.range n).filter (fun k => decide (blockKey k = a))).map (fun k => v32 (ws.getD k 0)))))
  let codeOf (k : Nat) : Nat × Nat :=
    if d.block = 0 then narrow d.format (mode k) (v32 (ws.getD k 0))
    else scaledElement d.format ((scales.find? (fun s => decide (s.1 = blockKey k))).elim 127 (fun s => s.2.1)) (mode k) (v32 (ws.getD k 0))
  let cells := (List.range n).map (fun k => (k, codeOf k))
  { writes := cells.map (fun e => { bit := d.bitAddr (d.coordsOf e.1), width := d.format.width, code := e.2.1 : BitWrite }) ++
      scales.map (fun s => { bit := 8 * s.1, width := 8, code := s.2.1 : BitWrite }),
    flags := cells.foldl (fun f e => f ||| e.2.2) (scales.foldl (fun f s => f ||| s.2.2) 0) }

/-- A run of bytes that Tarn reads or writes: address, length, the protection domain it must have, and the direction. -/
structure TarnAccess where
  va : Nat
  len : Nat
  pdom : Option Nat
  store : Bool
  deriving DecidableEq, Repr

/-- The elements of a tensor, and their scales, as accesses. -/
def Desc.tarnRuns (d : Desc) (store : Bool) : List TarnAccess :=
  (List.range d.count).flatMap (fun k =>
    let c := d.coordsOf k
    { va := d.bitAddr c / 8, len := (d.bitAddr c % 8 + d.format.width + 7) / 8, pdom := some d.pdom, store := store : TarnAccess } ::
      (if d.block = 0 then [] else [{ va := d.scaleAddr c, len := 1, pdom := some d.pdom, store := store }]))

/-- Every access of a record's update. (DEDUCED, log entry 54.) -/
def Ctx.tarnRuns (x : Ctx) (r : Record) (p : Prog) : List TarnAccess :=
  match x.desc r.hW, x.desc r.hG with
  | some w, some g =>
    let bytes := (1 + p.momentCount) * arrayBytes w.count
    [{ va := r.stateAt r.half, len := bytes, pdom := none, store := false : TarnAccess },
     { va := r.stateAt (1 - r.half), len := bytes, pdom := none, store := true }] ++ g.tarnRuns false ++
      (r.place false (1 - r.half) w).tarnRuns true ++
      (if r.copy2 = 2 then (x.desc r.hW2).elim [] (fun v => (r.place true (1 - r.half) v).tarnRuns true) else [])
  | _, _ => []

/-- The kind of fault that an access of Tarn's meets (R273, R340). -/
def Ctx.tarnKind (x : Ctx) (s : Nat) (a : TarnAccess) (va : Nat) : Option Nat :=
  match x.leaf va with
  | none => some 1
  | some l =>
    if a.store && !l.write then some 2
    else if a.pdom.elim false (fun p => decide (p ≠ l.pdom)) then some 3
    else if placeOf (l.addr va) ≠ .foothill s then some 4 else none

/-- The addresses at which a run meets each page that it touches. -/
def TarnAccess.probes (a : TarnAccess) : List Nat :=
  if a.len = 0 then [] else (List.range ((a.len + 65535) / 65536)).map (fun k => a.va + 65536 * k) ++ [a.va + a.len - 1]

/-- Whether every access of an update reaches its data, and every word it reads is good. -/
def Mach.tarnClear (m : Mach) (x : Ctx) (s : Nat) (l : List TarnAccess) : Bool :=
  l.all (fun a => a.probes.all (fun va => (x.tarnKind s a va).isNone)) &&
  l.all (fun a => a.store || !(x.wordsAt a.va a.len).any m.poisoned)

/-- The word at 0x08 of a record with `HALF` inverted and a new `STEP`. -/
def flipWord (r : Record) (step : Nat) : List Byte := leBytes ((1 - r.half) * 2 ^ 63 + step % 2 ^ 32) 8

/-- The update of a record: the new state and the compute copies go into the other halves, then the flip (R320). -/
def Mach.updateRecordAt (m : Mach) (x : Ctx) (s c i : Nat) (r : Record) (p : Prog) (f : Nat) (w g : Desc) : Mach :=
  let n := w.count
  let t := r.step + 1
  let es := m.elemsOf x r n p.momentCount
  let gs := (List.range n).map (fun k => mul32 f (f32 (g.valVia (m.readVa x) (g.coordsOf k))))
  let new := updateRecord p t es gs
  let a := arrayBytes n
  let other := r.stateAt (1 - r.half)
  let stateWrites := ((List.range n).zip new).flatMap (fun e =>
    { bit := 8 * (other + 4 * e.1), width := 32, code := e.2.w : BitWrite } ::
      ((if 1 ≤ p.momentCount then [{ bit := 8 * (other + a + 4 * e.1), width := 32, code := e.2.m : BitWrite }] else []) ++
       (if 2 ≤ p.momentCount then [{ bit := 8 * (other + 2 * a + 4 * e.1), width := 32, code := e.2.v : BitWrite }] else [])))
  let ws := new.map (fun e => e.w)
  let mode (k : Nat) : Rounding := srMode p.sr x.seed (16 + s) i t 0 k
  let one := copyWrites (r.place false (1 - r.half) w) ws mode
  let two := if r.copy2 = 2 then (x.desc r.hW2).elim { writes := [], flags := 0 : StoreOut } (fun v => copyWrites (r.place true (1 - r.half) v) ws mode)
    else { writes := [], flags := 0 }
  let m := m.perform 0 x (byteMap (stateWrites ++ one.writes ++ two.writes)) { corrected := [], bad := [] } .port
  (m.tarnFlags s (one.flags ||| two.flags)).writeVa x ((m.tarnTable s c).1 + 64 * i + 8) (flipWord r t)

/-- TARN_RECORD_FLIP: the record in progress on a stack is updated and flips; its handles are rebased, and the hold on them ends. -/
def tarnRecordFlip (s : Nat) (m : Mach) : Mach :=
  match m.tarnOf s with
  | none => m
  | some t =>
    match m.ctx t.ctx with
    | none => m
    | some x =>
      match m.nextRecord x s t.ctx t.record with
      | none => m
      | some i =>
        let r := m.tarnRecord x s t.ctx i
        match t.progs[r.prog]?, x.desc r.hW, x.desc r.hG with
        | some p, some w, some g =>
          if !p.valid ∨ p.ctx ≠ t.ctx ∨ !p.ok ∨ !m.tarnClear x s (x.tarnRuns r p) then m
          else
            let m := m.updateRecordAt x s t.ctx i r p t.f w g
            let m := m.updCtx t.ctx (fun x =>
              let y := x.rebase r (1 - r.half)
              { y with holds := y.holds.filter (fun h => !r.handles.contains h) })
            let m := m.setTarn s (some { t with record := i + 1 })
            (match m.nextRecord x s t.ctx (i + 1) with
             | some j => m.showTarn s 1 t.ctx j
             | none => m.showTarn s 0 t.ctx i)
        | _, _, _ => m

/-! ### Rollback and faults (R321, R323, R332) -/

/-- One record restored: `HALF` inverted, `STEP` less 1, in one write; its handles take that half. -/
def Mach.restoreRecord (m : Mach) (c closed : Nat) (e : Nat × Nat × Record) : Mach :=
  match m.ctx c with
  | none => m
  | some x =>
    let r := e.2.2
    if closed < r.step then
      (m.writeVa x ((m.tarnTable e.1 c).1 + 64 * e.2.1 + 8) (flipWord r (r.step - 1))).updCtx c (fun x => x.rebase r (1 - r.half))
    else m

/-- Every record whose `STEP` exceeds the closed step is restored, and every hold ends. -/
def Mach.restoreRecords (m : Mach) (c : Nat) : Mach :=
  match m.ctx c with
  | none => m
  | some x =>
    let closed := (m.rd (Reg.TRAVERSE_CLOSED_STEP c)).toNat
    let m := (m.allRecords x c).foldl (fun m e => m.restoreRecord c closed e) m
    let m := m.each (List.range 12) (fun m s => if (m.tarnOf s).elim false (fun t => decide (t.ctx = c)) then (m.setTarn s none).showTarn s 0 c 0 else m)
    m.updCtx c (fun x => { x with holds := [] })

/-- Recording a fault of Tarn (R340). -/
def Mach.recordTarnFault (m : Mach) (s kind c record va : Nat) : Mach :=
  let m := m.wr (Reg.FOOTHILL_TARN_FAULT s) (BitVec.ofNat 32 (2 ^ 31 + kind % 16 * 2 ^ 27 + c % 16 * 2 ^ 16 + record % 65536))
  let m := m.wr (Reg.FOOTHILL_TARN_FAULT_VA_LO s) (BitVec.ofNat 32 (va / 64 * 64))
  ((m.wr (Reg.FOOTHILL_TARN_FAULT_VA_HI s) (BitVec.ofNat 32 (va / 2 ^ 32 % 2 ^ 20))).tally (172 + s) 0).trouble 11

/-- Whether the record in progress meets a fault of a kind at an address. -/
def Ctx.tarnMeets (x : Ctx) (s : Nat) (r : Record) (p : Prog) (c kind va : Nat) : Bool :=
  if kind = 6 then !p.valid || decide (p.ctx ≠ c) || !p.ok
  else if kind = 5 then (x.tarnRuns r p).any (fun a => !a.store && decide (a.va / 64 ≤ va / 64) && decide (va / 64 ≤ (a.va + a.len - 1) / 64))
  else (x.tarnRuns r p).any (fun a => decide (a.va ≤ va) && decide (va < a.va + a.len) && decide (x.tarnKind s a va = some kind))

end Sys2Proof.Machine
end

