-- ==== Sys2Proof/Machine/Group.lean ====
section
/-!
DEFINITION. The group protocol (R316 to R324, R450 to R456): group messages and their flooding, the group master, and what a
member does at START, COMMIT, ABORT and CLOSE. A context that is a group of one has the group number 2^64 + context.
-/

namespace Sys2Proof.Machine

/-! ### Groups (R450) -/

def soloGroup (c : Nat) : Nat := 2 ^ 64 + c

/-- Whether a context is the module's group context. -/
def Mach.bound (m : Mach) (c : Nat) : Bool :=
  decide (m.rdF Reg.TRAVERSE_STEP_GROUP Fld.TRAVERSE_STEP_GROUP_BOUND = 1) &&
    decide (m.rdF Reg.TRAVERSE_STEP_GROUP Fld.TRAVERSE_STEP_GROUP_CONTEXT = c)

/-- The group that a context's steps belong to. -/
def Mach.groupOf (m : Mach) (c : Nat) : Nat :=
  match m.groupPlan with
  | some p => if m.bound c then p.group else soloGroup c
  | none => soloGroup c

/-- The context of a group at this module. -/
def Mach.ctxOf (m : Mach) (g : Nat) : Option Nat := (List.range 16).find? (fun c => (m.ctx c).isSome && decide (m.groupOf c = g))

def Mach.groupSize (m : Mach) (g : Nat) : Nat := if 2 ^ 64 ≤ g then 1 else m.groupPlan.elim 1 (fun p => p.size)
def Mach.groupRank (m : Mach) (g : Nat) : Nat := if 2 ^ 64 ≤ g then 0 else m.groupPlan.elim 0 (fun p => p.rank)

/-- Whether this module is a group's master: rank 0 of it, or a group of one. -/
def Mach.isMaster (m : Mach) (g : Nat) : Bool :=
  decide (2 ^ 64 ≤ g) || m.groupPlan.elim false (fun p => decide (p.group = g) && decide (p.rank = 0))

/-- The `PLAN_ID` in force; 0 for none. -/
def Mach.planId (m : Mach) : Nat := m.plan.elim 0 (fun p => p.id)

/-- Group time in tenths of a nanosecond: the timebase plus `GROUP_OFFSET` (R424). -/
def Mach.groupTime (m : Mach) : Int := 64 * (m.timebase.ticks.toNat : Int) + 10 * (m.rd Reg.TRAVERSE_GROUP_OFFSET).toInt

/-! ### Messages (R451) -/

/-- A message on one port: class 0 travels in states up and version-mismatch (R417). -/
def Mach.sendGroup (m : Mach) (p : Nat) (x : GMsg) : Mach :=
  if m.portState p = 3 ∨ m.portState p = 4 then { m with group := { m.group with sent := m.group.sent ++ [{ port := p, msg := x }] } } else m

def Mach.loopBack (m : Mach) (x : GMsg) : Mach := { m with group := { m.group with loop := m.group.loop ++ [x] } }

/-- The port toward the group master. -/
def Mach.parentPort (m : Mach) : Option Nat := (List.range 32).find? (fun p => (m.portEntry p).timingParent)

def Mach.towardMaster (m : Mach) (x : GMsg) : Mach := match m.parentPort with | some p => m.sendGroup p x | none => m

/-- A member's message to its group master. -/
def Mach.toMaster (m : Mach) (c : Nat) (b : GBody) : Mach :=
  let x : GMsg := { group := m.groupOf c, body := b }
  if m.isMaster x.group then m.loopBack x else m.towardMaster x

/-- A flooded message passed on: every port of `ROLE` 1 or 2 except the one it came on. -/
def Mach.relay (m : Mach) (except : Option Nat) (x : GMsg) : Mach :=
  let m : Mach := { m with group := { m.group with seen := (x.group, x.body.key) :: m.group.seen } }
  (m.each ((List.range 32).filter (fun p =>
    (decide ((m.portEntry p).role = 1) || decide ((m.portEntry p).role = 2)) && decide (except ≠ some p))) (fun m p => m.sendGroup p x))

/-- The master's message to every member, itself included. -/
def Mach.flood (m : Mach) (g : Nat) (b : GBody) : Mach :=
  let x : GMsg := { group := g, body := b }
  (if 2 ^ 64 ≤ g then m else m.relay none x).loopBack x

/-- A group message that arrives, on a port or from this module itself: relayed, or acted on by `act`. -/
def Mach.gotMsg (m : Mach) (port : Option (Fin 32)) (g : Nat) (b : GBody) (act : Mach → Mach) : Mach :=
  let x : GMsg := { group := g, body := b }
  match port with
  | none => if m.group.loop.contains x then act { m with group := { m.group with loop := m.group.loop.erase x } } else m
  | some p =>
    if (m.portState p ≠ 3 ∧ m.portState p ≠ 4) ∨ m.plan.elim true (fun q => decide (q.group ≠ g)) then m
    else if b.flooded then (if m.group.seen.contains (g, b.key) then m else act (m.relay (some p.val) x))
    else if m.isMaster g then act m else m.towardMaster x

/-! ### A context's open steps -/

def Mach.stepState (m : Mach) (c : Nat) : Nat := m.rdF (Reg.TRAVERSE_STEP_STATUS c) Fld.TRAVERSE_STEP_STATUS_STATE
def Mach.setStepState (m : Mach) (c v : Nat) : Mach := m.wrF (Reg.TRAVERSE_STEP_STATUS c) Fld.TRAVERSE_STEP_STATUS_STATE v
def Mach.closedStep (m : Mach) (c : Nat) : Nat := (m.rd (Reg.TRAVERSE_CLOSED_STEP c)).toNat

/-- The open step with a number, with the base of its entries: 0 for the current step, 8192 for the one begun after it. -/
def Ctx.stepAt (x : Ctx) (k : Nat) : Option (Nat × StepSt) :=
  match x.step.filter (fun s => decide (s.step = k)), x.next.filter (fun s => decide (s.step = k)) with
  | some s, _ => some (0, s)
  | none, some s => some (8192, s)
  | none, none => none

def Mach.stepAt (m : Mach) (c k : Nat) : Option (Nat × StepSt) := (m.ctx c).bind (fun x => x.stepAt k)

def Mach.updStep (m : Mach) (c base : Nat) (f : StepSt → StepSt) : Mach :=
  m.updCtx c (fun x => if base = 0 then { x with step := x.step.map f } else { x with next := x.next.map f })

/-- JOIN for an open step: its state, and this module's plan. A frozen member holds it until the freeze ends (R471). -/
def Mach.sendJoin (m : Mach) (c base k : Nat) : Mach :=
  if m.frozen c then m
  else m.toMaster c (.join (m.groupRank (m.groupOf c)) k (if base = 0 then m.stepState c else 1) m.planId)

/-- FAIL, once an attempt (R311, R332). -/
def Mach.sendFail (m : Mach) (c base status : Nat) : Mach :=
  match (m.ctx c).bind (fun x => if base = 0 then x.step else x.next) with
  | some s =>
    if s.t0.isNone ∨ s.failed.isSome then m
    else (m.updStep c base (fun s => { s with failed := some status })).toMaster c (.fail (m.groupRank (m.groupOf c)) s.step s.attempt status)
  | none => m

/-- Whether an attempt has done all that READY says: every entry ended with DONE, and every store of its postings performed. -/
def Mach.readyNow (m : Mach) (c : Nat) (s : StepSt) : Bool :=
  s.started && !s.readySent && s.failed.isNone && s.entries.all (fun e => decide (e = .ended St.done)) &&
    !m.saddle.posted.any (fun p => decide (p.ctx = c) && decide (p.step = s.step) && decide (p.attempt = s.attempt))

/-- READY is sent as soon as it holds. -/
def Mach.checkReady (m : Mach) (c : Nat) : Mach :=
  m.each [0, 8192] (fun m base =>
    match (m.ctx c).bind (fun x => if base = 0 then x.step else x.next) with
    | some s =>
      if m.readyNow c s then
        (m.updStep c base (fun s => { s with readySent := true })).toMaster c (.ready (m.groupRank (m.groupOf c)) s.step s.attempt)
      else m
    | none => m)

/-! ### The group master (R322, R450 to R456) -/

def Mach.master (m : Mach) (g k : Nat) : Option MasterSt :=
  (m.group.masters.find? (fun e => decide (e.1 = g) && decide (e.2.1 = k))).map (fun e => e.2.2)

def Mach.dropMaster (m : Mach) (g k : Nat) : Mach :=
  { m with group := { m.group with masters := m.group.masters.filter (fun e => !(decide (e.1 = g) && decide (e.2.1 = k))) } }

/-- Storing the master's record of a step; `STEP_GROUP` shows its JOINs and READYs (R459). -/
def Mach.setMaster (m : Mach) (g k : Nat) (r : MasterSt) : Mach :=
  let m := m.dropMaster g k
  let m : Mach := { m with group := { m.group with masters := m.group.masters ++ [(g, k, r)] } }
  (m.wrF Reg.TRAVERSE_STEP_GROUP Fld.TRAVERSE_STEP_GROUP_JOINED r.joins.length).wrF Reg.TRAVERSE_STEP_GROUP Fld.TRAVERSE_STEP_GROUP_READY r.readies.length

/-- A new record: where this module becomes master with an attempt of its own in progress, it takes that attempt up. -/
def Mach.newMaster (m : Mach) (g k : Nat) : MasterSt :=
  match (m.ctxOf g).bind (fun c => m.stepAt c k) with
  | some (_, s) => { MasterSt.reset with attempt := s.attempt, resolving := s.t0.isSome }
  | none => MasterSt.reset

/-- START (R452, R454). -/
def Mach.sendStart (m : Mach) (g k : Nat) (r : MasterSt) : Mach :=
  let a := if r.again then r.attempt + 1 else r.attempt
  let t0 := m.timebase.ticks.toNat + 15625
  let us := (m.rd Reg.TRAVERSE_STEP_CFG_DEADLINE).toNat
  let lim := m.rdF Reg.TRAVERSE_STEP_CFG_LIMIT Fld.TRAVERSE_STEP_CFG_LIMIT_REPEAT_LIMIT
  let td := t0 + us * 625 / 4
  (m.setMaster g k { r with joins := [], readies := [], updated := [], running := true, attempt := a, again := false,
                            planAtStart := m.planId, deadline := td, deadlineUs := us, limit := lim, committedAt := none,
                            resolving := false }).flood g (.start k a t0 td lim)

/-- `STEP_ABORT` (R459). -/
def Mach.noteAbort (m : Mach) (reason status rank : Nat) : Mach :=
  m.wr Reg.TRAVERSE_STEP_ABORT (BitVec.ofNat 32 (reason % 16 * 2 ^ 28 + status % 256 * 2 ^ 16 + rank % 4096))

/-- ABORT (R452, R454, R456): counted, and with reason limit at the last repeat, unless the plan has changed since START. A step
begun after a committed one starts again from its JOINs. -/
def Mach.masterAbort (m : Mach) (g k reason status rank : Nat) : Mach :=
  match m.master g k with
  | none => m
  | some r =>
    let counted := r.running && decide (r.planAtStart = m.planId)
    let last := counted && decide (r.limit ≤ r.attempt)
    let why := if last then 4 else reason
    let m := (m.noteAbort why status rank).flood g (.abort k r.attempt why)
    let m := if last then m.dropMaster g k else
      m.setMaster g k { r with joins := [], readies := [], updated := [], running := false, committedAt := none,
                               again := r.again || counted, resolving := false }
    match (if r.committedAt.isSome then m.master g (k + 1) else none) with
    | none => m
    | some q => if last then m.dropMaster g (k + 1) else
      m.setMaster g (k + 1) { q with joins := [], readies := [], running := false, again := q.again || q.running }

/-- COMMIT, once READY is held from every rank, step k − 1 is closed, and the host allows it (R322, R452, R597). -/
def Mach.commitDecision (m : Mach) (g k : Nat) : Mach :=
  match m.master g k, (m.ctxOf g).bind (fun c => m.stepAt c k) with
  | some r, some (_, s) =>
    if r.running ∧ r.committedAt = none ∧ r.readies.length = m.groupSize g ∧ (m.master g (k - 1)).isNone ∧ (!s.hostCommit ∨ r.allowed) then
      (m.setMaster g k { r with committedAt := some m.clk }).flood g (.commit k r.attempt s.norm)
    else m
  | _, _ => m

/-- The mirror round that the close of step k starts (R470): `INTERVAL` steps after the last, or for a BELAY_SNAPSHOT. -/
def Mach.startRound (m : Mach) (g k : Nat) : Mach :=
  match m.belay.plan with
  | none => m
  | some p =>
    if 2 ^ 64 ≤ g ∨ m.belay.roundOpen ∨ !((p.interval ≠ 0 ∧ m.belay.sinceRound + p.interval ≤ k) ∨ m.belay.snapshots ≠ []) then m
    else
      let r := m.belay.round + 1
      let m : Mach := { m with belay := { m.belay with round := r, roundStep := k, roundOpen := true, results := [], sinceRound := k } }
      m.flood g (.mirror r k (m.rd Reg.BELAY_ROUND).toNat)

/-- CLOSE (R322), and directly after it MIRROR where a round is due. -/
def Mach.sendClose (m : Mach) (g k : Nat) : Mach :=
  (((m.dropMaster g k).flood g (.close k)).startRound g k).commitDecision g (k + 1)

/-- Whether the master holds a JOIN from every rank for a step, with its own plan; a rank that has gone on to the next step counts. -/
def Mach.allJoined (m : Mach) (g k : Nat) (r : MasterSt) : Bool :=
  (List.range (m.groupSize g)).all (fun i =>
    r.joins.any (fun j => decide (j.1 = i) && decide (j.2.2 = m.planId) && decide (j.2.1 ≠ 4)) ||
    (m.master g (k + 1)).elim false (fun q => q.joins.any (fun j => decide (j.1 = i) && decide (j.2.2 = m.planId))))

/-- What the master does once it holds every JOIN (R451, R456). -/
def Mach.joinCheck (m : Mach) (g k : Nat) : Mach :=
  match m.master g k with
  | none => m
  | some r =>
    if !m.allJoined g k r then m
    else
      let states := r.joins.map (fun j => j.2.1)
      if r.resolving ∨ states.any (fun v => decide (v ≠ 1)) then
        (if states.all (fun v => decide (v ≠ 1) && decide (v ≠ 2)) then m.sendClose g k
         else if r.running ∨ states.any (fun v => decide (v = 2) || decide (v = 3)) then m.masterAbort g k 6 0 0
         else m.sendStart g k r)
      else if r.running then m else m.sendStart g k r

/-- A JOIN at the master. A member whose step is closed reports it only to a resolution under way. -/
def Mach.takeJoin (m : Mach) (g rank k state planId : Nat) : Mach :=
  if !m.isMaster g then m
  else match m.master g k, state with
    | none, 0 => m
    | o, _ =>
      let r := o.getD (m.newMaster g k)
      let m := m.setMaster g k { r with joins := r.joins.filter (fun j => decide (j.1 ≠ rank)) ++ [(rank, state, planId)] }
      let m := if (m.master g (k - 1)).elim false (fun q => q.resolving) then m.joinCheck g (k - 1) else m
      m.joinCheck g k

/-- A READY at the master: in time only at or before T_D. -/
def Mach.takeReady (m : Mach) (g rank k attempt : Nat) : Mach :=
  match m.master g k with
  | some r =>
    if r.running ∧ r.attempt = attempt ∧ m.timebase.ticks.toNat ≤ r.deadline ∧ !r.readies.contains rank ∧ m.isMaster g then
      (m.setMaster g k { r with readies := r.readies ++ [rank] }).commitDecision g k
    else m
  | none => m

/-- A FAIL at the master, before COMMIT or after it. -/
def Mach.takeFail (m : Mach) (g rank k attempt status : Nat) : Mach :=
  match m.master g k with
  | some r => if r.running ∧ r.attempt = attempt ∧ m.isMaster g then m.masterAbort g k 1 status rank else m
  | none => m

def Mach.takeUpdated (m : Mach) (g rank k : Nat) : Mach :=
  match m.master g k with
  | some r =>
    if r.committedAt.isSome ∧ !r.updated.contains rank ∧ m.isMaster g then
      (if r.updated.length + 1 = m.groupSize g then m.sendClose g k else m.setMaster g k { r with updated := r.updated ++ [rank] })
    else m
  | none => m

/-! ### The member -/

/-- START: the attempt is known; its table starts at T0 (R452, R454). -/
def Mach.takeStart (m : Mach) (g k attempt t0 td limit : Nat) : Mach :=
  match (m.ctxOf g).bind (fun c => (m.stepAt c k).map (fun s => (c, s))) with
  | some (c, base, s) =>
    if s.t0.isSome ∨ (base = 0 ∧ m.stepState c ≠ 1) then m
    else
      let m := m.updStep c base (fun s => { s with attempt := attempt, t0 := some t0, td := td, limit := limit, started := false,
                                                   entries := [], readySent := false, failed := none, norm := 0 })
      let m := if base = 0 then m.wrF (Reg.TRAVERSE_STEP_STATUS c) Fld.TRAVERSE_STEP_STATUS_ATTEMPT attempt else m
      let q := m.wr Reg.TRAVERSE_STEP_DEADLINE_LO (BitVec.ofNat 32 td)
      { q with timebase := { q.timebase with tdHi := BitVec.ofNat 32 (td / 2 ^ 32) } }
  | none => m

/-- R408: at T0 every channel of the context restarts. -/
def Mach.resetChannels (m : Mach) (c : Nat) : Mach :=
  match m.plan with
  | none => m
  | some p => p.channels.foldl (fun m ch =>
      if ch.kind = 1 then
        (if ch.ctx = c then m.updChan ch.number (fun s => { s with received := 0, landed := [], discarded := [], claimed := 0, entryClaim := none }) else m)
      else m.updChan ch.number (fun s => { s with sent := 0 })) m

/-- An open step whose attempt starts now: START has come, and its T0 has passed in group time. -/
def Mach.startsNow (m : Mach) (o : Option StepSt) : Option StepSt :=
  o.filter (fun s => !s.started && s.t0.elim false (fun t => decide (64 * (t : Int) ≤ m.groupTime)))

/-- ATTEMPT_START (R312, R408, R452). -/
def attemptStart (c : Nat) (m : Mach) : Mach :=
  match m.ctx c with
  | none => m
  | some x =>
    let pick : Option (Nat × StepSt) := match (if m.stepState c = 1 then m.startsNow x.step else none),
        (if m.stepState c = 2 ∨ m.stepState c = 3 then m.startsNow x.next else none) with
      | some s, _ => some (0, s)
      | none, some s => some (8192, s)
      | none, none => none
    match pick with
    | none => m
    | some (base, s) =>
      match x.table s.table with
      | none => m
      | some t =>
        let m := (m.zeroCounters c t).resetChannels c
        let m : Mach := { m with saddle := { m.saddle with occur := m.saddle.occur.filter (fun o => decide (o.1 ≠ c)) } }
        m.updStep c base (fun s => { s with started := true, entries := List.replicate t.entries.length .waiting })

/-- COMMIT (R314, R315, R316, R319): S is shown, f is computed, every Tarn that has a record starts, and its handles are held. -/
def Mach.takeCommit (m : Mach) (g k attempt norm : Nat) : Mach :=
  match (m.ctxOf g).bind (fun c => (m.ctx c).map (fun x => (c, x))) with
  | none => m
  | some (c, x) =>
    match x.step with
    | none => m
    | some s =>
      if s.step ≠ k ∨ s.attempt ≠ attempt ∨ m.stepState c ≠ 1 then m
      else
        let m := (m.setStepState c 2).wr (Reg.TRAVERSE_NORM_RESULT_LO c) (BitVec.ofNat 32 norm)
        let m := m.wr (Reg.TRAVERSE_NORM_RESULT_HI c) (BitVec.ofNat 32 (norm / 2 ^ 32))
        if !(v64 norm).isFinite then m.updStep c 0 (fun s => { s with skipped := true })
        else
          let f := gradMultiplier norm (m.rd (Reg.TRAVERSE_CLIP_CFG_MAX c)).toNat (m.rd (Reg.TRAVERSE_CLIP_CFG_SCALE c)).toNat
          let m := m.updCtx c (fun y => { y with holds := (m.allRecords x c).flatMap (fun r => r.2.2.handles) })
          m.each (List.range 12) (fun m s => m.startTarn x c f s)

/-- Whether no record of a context is left to flip. -/
def Mach.updateOver (m : Mach) (c : Nat) : Bool := (List.range 12).all (fun s => !m.tarnBusy s c)

/-- TARN_UPDATE_COMPLETE (R316): the module enters UPDATED and says so. -/
def tarnUpdateComplete (c : Nat) (m : Mach) : Mach :=
  match (m.ctx c).bind (fun x => x.step) with
  | some s =>
    if m.stepState c = 2 ∧ m.updateOver c ∧ s.failed = none then
      let m := m.each (List.range 12) (fun m t => if (m.tarnOf t).elim false (fun q => decide (q.ctx = c)) then m.setTarn t none else m)
      (m.setStepState c 3).toMaster c (.updated (m.groupRank (m.groupOf c)) s.step)
    else m
  | none => m

/-- TARN_FAULT (R332): the record is not flipped, the fault is recorded, and the module's contribution fails. (DEDUCED, log entry 54.) -/
def tarnFault (s kind va : Nat) (m : Mach) : Mach :=
  match m.tarnOf s with
  | none => m
  | some t =>
    match m.ctx t.ctx with
    | none => m
    | some x =>
      match m.nextRecord x s t.ctx t.record with
      | none => m
      | some i =>
        let r := m.tarnRecord x s t.ctx i
        match t.progs[r.prog]? with
        | none => m
        | some p =>
          if kind = 0 ∨ 6 < kind ∨ !x.tarnMeets s r p t.ctx kind va then m
          else
            let m := m.recordTarnFault s kind t.ctx i va
            let m := if kind = 5 then (match x.phys va with | some pa => m.countUe srcTarn 0 (pa / 8 * 8) | none => m) else m
            ((m.setTarn s none).showTarn s 0 t.ctx i).sendFail t.ctx 0 (if kind ≤ 3 then faultStatus kind else if kind = 4 then St.protectionFault else St.internal)

/-! ### ABORT and CLOSE at the member (R316, R321, R453 to R456) -/

/-- Whether an entry number belongs to the table of a base. -/
def ofBase (base i : Nat) : Bool := decide (i / 4096 * 4096 = base)

/-- An attempt's streams, copies, postings, partials, waiting units and held frames go (R453). -/
def Mach.stopAttempt (m : Mach) (c base : Nat) (s : StepSt) : Mach :=
  let m := m.stopStreams (fun t => decide (t.ctx = c) && (match t.starter with | .entry i => ofBase base i | _ => false)) St.stepAborted 0
  let gone (p : Posted) : Bool := decide (p.ctx = c) && decide (p.step = s.step) && decide (p.attempt = s.attempt)
  let keys := (m.saddle.posted.filter gone).map (fun p => p.key)
  let m := m.reown (fun o => match o with | .entry k i => if k = c ∧ ofBase base i then .nobody else o | _ => o)
  let m : Mach := { m with
    copies := m.copies.filter (fun j => !(decide (j.ctx = c) && (match j.owner with | .entry i => ofBase base i | _ => false))),
    treeline := { m.treeline with waiting := m.treeline.waiting.filter (fun w => !(decide (w.stream = none) && decide (w.ctx = c) && ofBase base w.entry)) },
    saddle := { m.saddle with posted := m.saddle.posted.filter (fun p => !gone p), partials := m.saddle.partials.filter (fun p => !keys.contains p.key) } }
  m.each (List.range 32) (fun m p =>
    let old := (m.port p).reduceIn.filter (fun f =>
      decide ((SubHdr.ofBytes f.payload).step = s.step) && decide ((SubHdr.ofBytes f.payload).attempt = s.attempt) && decide (m.reduceCtx (frameKey f) = c))
    if old = [] then m
    else old.foldl (fun m _ => m.idleFrame p 1 1) ((m.updPort p (fun x => { x with reduceIn := x.reduceIn.filter (fun f => !old.contains f) })).showActive p))

/-- What an aborted attempt leaves in the registers (R459, R656, R587). -/
def Mach.countAbort (m : Mach) (c reason : Nat) : Mach :=
  (((m.addF Reg.TRAVERSE_STEP_ABORTS Fld.TRAVERSE_STEP_ABORTS_COUNT 1).trouble 6).tally 302 0).event Ev.step
    (if reason = 4 then St.stepLimit else St.stepAborted) (c + 16 * reason)

/-- The final reply of a STEP_BEGIN (R317). -/
def Mach.endStep (m : Mach) (c : Nat) (s : StepSt) (status : Nat) : Mach := m.finish s.lane c s.tag Op.stepBegin status s.step

/-- The step ends with STEP_LIMIT and the context is IDLE again; so does a step begun after it (R454). -/
def Mach.endLimit (m : Mach) (c : Nat) : Mach :=
  match m.ctx c with
  | none => m
  | some x =>
    let m := match x.step with | some s => m.endStep c s St.stepLimit | none => m
    let m := match x.next with | some s => m.endStep c s St.stepLimit | none => m
    (m.updCtx c (fun x => { x with step := none, next := none })).setStepState c 0

/-- An attempt is forgotten: its step waits for a START again. -/
def StepSt.again (s : StepSt) : StepSt :=
  { s with t0 := none, started := false, entries := [], readySent := false, failed := none, norm := 0 }

/-- ABORT, or the local abort of R455, at a member. (DEDUCED, log entry 53.) -/
def Mach.abortStep (m : Mach) (c k reason : Nat) : Mach :=
  if k ≤ m.closedStep c then m
  else match m.ctx c, m.stepAt c k with
    | some x, some (base, s) =>
      let late := decide (base = 0) && (decide (m.stepState c = 2) || decide (m.stepState c = 3))
      let m := m.stopAttempt c base s
      let m := if s.t0.isSome then m.countAbort c reason else m
      if late then
        -- the update is rolled back, and a step begun meanwhile starts again
        let m := match x.next with | some q => (m.stopAttempt c 8192 q).updStep c 8192 StepSt.again | none => m
        let m := m.updStep c 0 (fun s => { s with ending := decide (reason = 4) })
        let m := m.each (List.range 12) (fun m t => if (m.tarnOf t).elim false (fun q => decide (q.ctx = c)) then m.showTarn t 2 c 0 else m)
        m.setStepState c 4
      else if base = 0 ∧ m.stepState c = 4 then m.updStep c 0 (fun s => { s with ending := s.ending || decide (reason = 4) })
      else if reason = 4 then
        (if base = 0 then m.endLimit c else (m.endStep c s St.stepLimit).updCtx c (fun x => { x with next := none }))
      else (m.updStep c base StepSt.again).sendJoin c base k
    | _, _ => m

/-- ABORT from the master. -/
def Mach.takeAbort (m : Mach) (g k reason : Nat) : Mach :=
  match m.ctxOf g with
  | none => m
  | some c => (if m.isMaster g then m else m.noteAbort reason 0 0).abortStep c k reason

/-- ROLLBACK (R321): the records are restored, and the attempt starts again, or the step ends at its limit. -/
def rollback (c : Nat) (m : Mach) : Mach :=
  match (m.ctx c).bind (fun x => x.step) with
  | none => m
  | some s =>
    if m.stepState c ≠ 4 then m
    else
      let m := m.restoreRecords c
      if s.ending then m.endLimit c
      else
        let m := ((m.updStep c 0 (fun s => { StepSt.again s with skipped := false })).setStepState c 1).sendJoin c 0 s.step
        match (m.ctx c).bind (fun x => x.next) with
        | some q => m.sendJoin c 8192 q.step
        | none => m

/-- The step begun after a closed one becomes the current step. -/
def Mach.promote (m : Mach) (c : Nat) : Mach :=
  match (m.ctx c).bind (fun x => x.next) with
  | none => (m.updCtx c (fun x => { x with step := none })).setStepState c 0
  | some s =>
    let down (i : Nat) : Nat := if ofBase 8192 i then i - 8192 else i
    let m := m.updCtx c (fun x => { x with step := some s, next := none })
    let m : Mach := { m with
      streams := m.streams.map (fun t => if t.ctx = c then { t with starter := match t.starter with | .entry i => .entry (down i) | a => a } else t),
      copies := m.copies.map (fun j => if j.ctx = c then { j with owner := match j.owner with | .entry i => .entry (down i) | a => a } else j),
      treeline := { m.treeline with waiting := m.treeline.waiting.map (fun w => if w.ctx = c ∧ w.stream = none then { w with entry := down w.entry } else w) } }
    let m := m.reown (fun o => match o with | .entry k i => if k = c then .entry k (down i) else o | _ => o)
    let m := m.setStepState c 1
    let m := m.wrF (Reg.TRAVERSE_STEP_STATUS c) Fld.TRAVERSE_STEP_STATUS_ATTEMPT s.attempt
    m.wrF (Reg.TRAVERSE_STEP_STATUS c) Fld.TRAVERSE_STEP_STATUS_TABLE s.table

/-- CLOSE at a member (R316, R322): whether it closes a step, and the module after it. -/
def Mach.takeClose (m : Mach) (g k : Nat) : Mach :=
  match m.ctxOf g with
  | none => m
  | some c =>
    match (m.ctx c).bind (fun x => x.step) with
    | none => m
    | some s =>
      if s.step ≠ k ∨ (m.stepState c ≠ 2 ∧ m.stepState c ≠ 3) then m
      else
        let m := m.wrF (Reg.TRAVERSE_STEP_STATUS c) Fld.TRAVERSE_STEP_STATUS_SKIPPED (b2n s.skipped)
        let m := (m.wr (Reg.TRAVERSE_CLOSED_STEP c) (BitVec.ofNat 32 k)).updCtx c (fun x => { x with holds := [] })
        (m.endStep c s St.done).promote c

/-! ### The master's deadlines, and a member's own (R452, R455) -/

/-- The open steps of a context's group at its master. -/
def Mach.openSteps (m : Mach) (c : Nat) : List (Nat × MasterSt) :=
  (m.group.masters.filter (fun e => decide (e.1 = m.groupOf c))).map (fun e => e.2)

/-- STEP_DEADLINE_EXPIRY: T_D without COMMIT. -/
def stepDeadline (c : Nat) (m : Mach) : Mach :=
  if (m.ctx c).isNone ∨ !m.isMaster (m.groupOf c) then m
  else match (m.openSteps c).find? (fun e => e.2.running && e.2.committedAt.isNone && decide (e.2.deadline ≤ m.timebase.ticks.toNat)) with
    | some e => m.masterAbort (m.groupOf c) e.1 2 0 0
    | none => m

/-- UPDATE_DEADLINE_EXPIRY: `DEADLINE_US` after COMMIT without every UPDATED. -/
def updateDeadline (c : Nat) (m : Mach) : Mach :=
  if (m.ctx c).isNone ∨ !m.isMaster (m.groupOf c) then m
  else match (m.openSteps c).find? (fun e => e.2.running && e.2.committedAt.elim false (fun t => decide (t + us e.2.deadlineUs ≤ m.clk))) with
    | some e => m.masterAbort (m.groupOf c) e.1 3 0 0
    | none => m

/-- Whether a running attempt has heard nothing by T_D + 10 ms of group time. -/
def Mach.unheard (m : Mach) (s : StepSt) : Bool := s.t0.isSome && decide (64 * (s.td : Int) + 100000000 ≤ m.groupTime)

/-- LOCAL_ABORT (R455). -/
def localAbort (c : Nat) (m : Mach) : Mach :=
  let go (s : StepSt) : Mach := ((m.noteAbort 5 0 0).tally 314 0).abortStep c s.step (if s.limit ≤ s.attempt then 4 else 5)
  match m.ctx c with
  | none => m
  | some x =>
    match (if m.stepState c = 1 then x.step.filter m.unheard else none), x.next.filter m.unheard with
    | some s, _ => go s
    | none, some s => go s
    | none, none => m

/-! ### A new plan (R450, R451, R456) -/

/-- What the steps of the module do when a plan takes effect. (DEDUCED, log entry 53.) -/
def Mach.newPlanSteps (m : Mach) (old : Option Plan) : Mach :=
  let keep := match old.filter (fun p => decide (2 ≤ p.size)), m.groupPlan with
    | some a, some b => decide (a.group = b.group)
    | _, _ => false
  let m := if keep then m else m.wrF Reg.TRAVERSE_STEP_GROUP Fld.TRAVERSE_STEP_GROUP_BOUND 0
  let m : Mach := { m with group := { m.group with seen := [], masters := m.group.masters.map (fun e =>
    (e.1, e.2.1, { e.2.2 with resolving := true, joins := e.2.2.joins.filter (fun j => decide (j.2.2 = m.planId)) })) } }
  m.each (List.range 16) (fun m c => match m.ctx c with
    | none => m
    | some x =>
      let m := match x.step with
        | some s => m.sendJoin c 0 s.step
        | none => if m.bound c then m.toMaster c (.join (m.groupRank (m.groupOf c)) (m.closedStep c) 0 m.planId) else m
      match x.next with
      | some s => m.sendJoin c 8192 s.step
      | none => m)

/-! ### The host's step commands (R317, R318, R450, R597) -/

/-- STEP_BEGIN. (DESIGN CHOICE, log entry 55.) -/
def stepBeginBody (h : Hdr) (table : Nat) (m : Mach) : Mach :=
  match m.ctx h.ctx with
  | none => m.answer h Op.stepBegin St.badParam
  | some x =>
    let c := h.ctx
    let st := m.stepState c
    if (x.table table).elim true (fun t => t.serving) then m.answer h Op.stepBegin St.badParam
    else if m.groupPlan.isSome ∧ m.rdF Reg.TRAVERSE_STEP_GROUP Fld.TRAVERSE_STEP_GROUP_BOUND = 1 ∧ !m.bound c then
      m.answer h Op.stepBegin St.notPermitted
    else if st = 1 ∨ st = 4 ∨ x.next.isSome ∨ (x.step.isSome ∧ m.groupPlan.isSome ∧ !m.bound c) then m.answer h Op.stepBegin St.busy
    else match (if st = 0 then m.tarnCheck x c else none) with
      | some (s, i, k) => m.answer h Op.stepBegin St.badParam (i + 65536 * k + 16777216 * s)
      | none =>
        let m := if m.groupPlan.isSome then
            (m.wrF Reg.TRAVERSE_STEP_GROUP Fld.TRAVERSE_STEP_GROUP_BOUND 1).wrF Reg.TRAVERSE_STEP_GROUP Fld.TRAVERSE_STEP_GROUP_CONTEXT c
          else m
        let m := if st = 0 then m.rebaseAll c else m
        let k := m.closedStep c + (if st = 0 then 1 else 2)
        let s : StepSt := { step := k, table := table, attempt := 0, t0 := none, td := 0, limit := 0, started := false, entries := [],
                            readySent := false, failed := none, norm := 0, hostCommit := bitOf h.flags 1, ending := false,
                            skipped := false, lane := h.lane, tag := h.tag, prio := h.prio }
        let m := m.accept h Op.stepBegin
        if st = 0 then
          let m := (m.updCtx c (fun x => { x with step := some s })).setStepState c 1
          let m := m.wrF (Reg.TRAVERSE_STEP_STATUS c) Fld.TRAVERSE_STEP_STATUS_ATTEMPT 0
          (m.wrF (Reg.TRAVERSE_STEP_STATUS c) Fld.TRAVERSE_STEP_STATUS_TABLE table).sendJoin c 0 k
        else (m.updCtx c (fun x => { x with next := some s })).sendJoin c 8192 k

/-- STEP_COMMIT: the host allows the commit of an open step. -/
def stepCommitBody (h : Hdr) (k : Nat) (m : Mach) : Mach :=
  let g := m.groupOf h.ctx
  if !m.isMaster g then m.answer h Op.stepCommit St.notPermitted
  else match m.stepAt h.ctx k with
    | none => m.answer h Op.stepCommit St.badParam
    | some _ =>
      let r := (m.master g k).getD (m.newMaster g k)
      ((m.setMaster g k { r with allowed := true }).commitDecision g k).answer h Op.stepCommit St.done

/-- STEP_ABORT: a FAIL from rank 0, whatever the step's state. -/
def stepAbortBody (h : Hdr) (k : Nat) (m : Mach) : Mach :=
  let g := m.groupOf h.ctx
  if !m.isMaster g then m.answer h Op.stepAbort St.notPermitted
  else match m.stepAt h.ctx k with
    | none => m.answer h Op.stepAbort St.badParam
    | some _ =>
      let m := m.setMaster g k ((m.master g k).getD (m.newMaster g k))
      (m.masterAbort g k 1 St.stepAborted 0).answer h Op.stepAbort St.done

/-! ### Rows -/

def execStepBegin (h : Hdr) (table : Nat) (s : State) : Host.Outcome State Fault Refusal :=
  s.run (fun m => m.command Op.stepBegin h (leBytes table 1) (stepBeginBody h table))
def execStepCommit (h : Hdr) (step : Nat) (s : State) : Host.Outcome State Fault Refusal :=
  s.run (fun m => m.command Op.stepCommit h (leBytes step 4) (stepCommitBody h step))
def execStepAbort (h : Hdr) (step : Nat) (s : State) : Host.Outcome State Fault Refusal :=
  s.run (fun m => m.command Op.stepAbort h (leBytes step 4) (stepAbortBody h step))
def execAttemptStart (c : Fin 16) (s : State) : Host.Outcome State Fault Refusal := s.run (attemptStart c)
def execJoin (port : Option (Fin 32)) (group rank step state planId : Nat) (s : State) : Host.Outcome State Fault Refusal :=
  s.run (fun m => m.gotMsg port group (.join rank step state planId) (fun m => m.takeJoin group rank step state planId))
def execStart (port : Option (Fin 32)) (group step attempt t0 td limit : Nat) (s : State) : Host.Outcome State Fault Refusal :=
  s.run (fun m => m.gotMsg port group (.start step attempt t0 td limit) (fun m => m.takeStart group step attempt t0 td limit))
def execReady (port : Option (Fin 32)) (group rank step attempt : Nat) (s : State) : Host.Outcome State Fault Refusal :=
  s.run (fun m => m.gotMsg port group (.ready rank step attempt) (fun m => m.takeReady group rank step attempt))
def execFail (port : Option (Fin 32)) (group rank step attempt status : Nat) (s : State) : Host.Outcome State Fault Refusal :=
  s.run (fun m => m.gotMsg port group (.fail rank step attempt status) (fun m => m.takeFail group rank step attempt status))
def execCommit (port : Option (Fin 32)) (group step attempt norm : Nat) (s : State) : Host.Outcome State Fault Refusal :=
  s.run (fun m => m.gotMsg port group (.commit step attempt norm) (fun m => m.takeCommit group step attempt norm))
def execAbort (port : Option (Fin 32)) (group step attempt reason : Nat) (s : State) : Host.Outcome State Fault Refusal :=
  s.run (fun m => m.gotMsg port group (.abort step attempt reason) (fun m => m.takeAbort group step reason))
def execUpdated (port : Option (Fin 32)) (group rank step : Nat) (s : State) : Host.Outcome State Fault Refusal :=
  s.run (fun m => m.gotMsg port group (.updated rank step) (fun m => m.takeUpdated group rank step))
def execStepDeadlineExpiry (c : Fin 16) (s : State) : Host.Outcome State Fault Refusal := s.run (stepDeadline c)
def execUpdateDeadlineExpiry (c : Fin 16) (s : State) : Host.Outcome State Fault Refusal := s.run (updateDeadline c)
def execLocalAbort (c : Fin 16) (s : State) : Host.Outcome State Fault Refusal := s.run (localAbort c)
def execTarnRecordFlip (n : Fin 12) (s : State) : Host.Outcome State Fault Refusal := s.run (tarnRecordFlip n)
def execTarnUpdateComplete (c : Fin 16) (s : State) : Host.Outcome State Fault Refusal := s.run (tarnUpdateComplete c)
def execTarnFault (n : Fin 12) (cause address : Nat) (s : State) : Host.Outcome State Fault Refusal := s.run (tarnFault n cause address)
def execRollback (c : Fin 16) (s : State) : Host.Outcome State Fault Refusal := s.run (rollback c)

end Sys2Proof.Machine
end

