-- ==== Sys2Proof/Machine/Serve.lean ====
section
/-!
DEFINITION. Serving passes (R334, R492 to R499, R596) and the ends of schedule entries (R306 to R311): FRAME_PUSH, intake
deadlines, the pinning before a pass, SCHEDULE_LOAD, and what follows when an entry, a posting or a reduction frame is done.
-/

namespace Sys2Proof.Machine

/-! ### Deadlines (R495) -/

def Mach.periodic (m : Mach) (c : Nat) : Bool := decide (m.rdF (Reg.TRAVERSE_SERVE_CFG c) Fld.TRAVERSE_SERVE_CFG_PERIODIC = 1)

/-- The timebase in tenths of a nanosecond. -/
def Mach.baseTime (m : Mach) : Nat := 64 * m.timebase.ticks.toNat

def Mach.periodOf (m : Mach) (c : Nat) : Nat := 10 * (m.rd (Reg.TRAVERSE_SERVE_PERIOD c)).toNat
def Mach.intakeOf (m : Mach) (c : Nat) : Nat := 10 * (m.rd (Reg.TRAVERSE_SERVE_INTAKE c)).toNat

/-- The first deadline after an instant; 0 until P0 is known. -/
def Mach.deadlineAfter (m : Mach) (c t : Nat) : Nat :=
  match (m.ctx c).bind (fun x => x.p0) with
  | none => 0
  | some p0 =>
    let first := p0 + m.intakeOf c
    if t < first then first else first + ((t - first) / m.periodOf c + 1) * m.periodOf c

/-- Whether a push's deadline has come. -/
def Mach.deadlineCome (m : Mach) (c deadline : Nat) : Bool :=
  match (m.ctx c).bind (fun x => x.p0) with
  | none => false
  | some p0 => decide (Nat.max deadline (p0 + m.intakeOf c) ≤ m.baseTime)

/-! ### Releasing a pass (R312, R495, R497) -/

/-- A pass begins: its counters go to zero, and its entries can start. -/
def Mach.release (m : Mach) (c : Nat) (p : Push) : Mach :=
  let k := m.rdF (Reg.TRAVERSE_SERVE_CFG c) Fld.TRAVERSE_SERVE_CFG_TABLE
  let m := m.updCtx c (fun x => { x with pushWait := none })
  match (m.ctx c).bind (fun x => (x.table k).filter (fun t => t.serving)) with
  | none => m.finish p.lane c p.tag Op.framePush St.badParam
  | some t =>
    let m := (m.addF (Reg.TRAVERSE_SERVE_COUNTS c) Fld.TRAVERSE_SERVE_COUNTS_RUN 1).zeroCounters c t
    m.updCtx c (fun x => { x with pass := some {
      table := k, entries := List.replicate t.entries.length .waiting, outHandle := p.outHandle, outBytes := p.outBytes,
      lane := p.lane, tag := p.tag, prio := p.prio, failed := none } })

/-- Whether every byte of a push has been performed. -/
def Mach.pushPerformed (m : Mach) (c : Nat) (p : Push) : Bool := decide (m.txnsOf (.cmd p.lane c p.tag) = 0)

/-- In the mode of release on completion, a push that waits is released once no pass runs. -/
def Mach.tryRelease (m : Mach) (c : Nat) : Mach :=
  match m.ctx c with
  | none => m
  | some x =>
    match x.pushWait with
    | some p => if m.periodic c ∨ x.pass.isSome ∨ !m.pushPerformed c p then m else m.release c p
    | none => m

/-- A late frame (R495). -/
def Mach.frameLate (m : Mach) (lane : Lane) (c tag : Nat) : Mach :=
  (m.addF (Reg.TRAVERSE_SERVE_COUNTS c) Fld.TRAVERSE_SERVE_COUNTS_LATE 1).finish lane c tag Op.framePush St.frameLate

/-- INTAKE_DEADLINE: the deadline's push is released, or is late; a push still arriving is late and its rest is discarded. -/
def intakeDeadline (c : Nat) (m : Mach) : Mach :=
  match m.ctx c with
  | none => m
  | some x =>
    if !m.serving c ∨ !m.periodic c then m
    else match x.pushWait with
      | some p =>
        if !m.deadlineCome c p.deadline ∨ !m.pushPerformed c p then m
        else if x.pass.isSome then (m.updCtx c (fun x => { x with pushWait := none })).frameLate p.lane c p.tag
        else m.release c p
      | none =>
        match m.swite.arriving.find? (fun q => q.accepted && decide (q.opcode = Op.framePush) && decide (q.ctx = c) &&
            m.deadlineCome c (m.deadlineAfter c q.since)) with
        | some q =>
          let m : Mach := { m with swite := { m.swite with arriving := m.swite.arriving.erase q,
                                                           discarding := insertNat q.cls m.swite.discarding } }
          m.frameLate q.lane c q.tag
        | none => m

/-! ### FRAME_PUSH (R494, R596) -/

/-- The first fault that a run of virtual bytes meets as a store through a descriptor (R215). -/
def Ctx.runFault (x : Ctx) (va len pdom : Nat) (store : Bool) : Option Nat :=
  (List.range len).findSome? (fun i => leafFault (x.leaf (va + i)) pdom store false false)

def framePushBody (h : Hdr) (inH outH outBytes : Nat) (payload : List Byte) (m : Mach) : Mach :=
  let c := h.ctx
  match m.ctx c with
  | none => m.answer h Op.framePush St.badParam
  | some x =>
    let k := m.rdF (Reg.TRAVERSE_SERVE_CFG c) Fld.TRAVERSE_SERVE_CFG_TABLE
    match (x.desc inH).filter (fun d => d.valid), (x.desc outH).filter (fun d => d.valid) with
    | some a, some b =>
      if !m.serving c then m.answer h Op.framePush St.notPermitted
      else if (x.table k).elim true (fun t => !t.serving) then m.answer h Op.framePush St.badParam
      else if a.spanBytes < payload.length ∨ b.spanBytes < outBytes then m.answer h Op.framePush St.badParam
      else if x.pushWait.isSome then m.answer h Op.framePush St.busy
      else if m.stopStatus.isSome then m.answer h Op.framePush (m.stopStatus.getD 0)
      else
        (match x.runFault a.base payload.length a.pdom true with
         | some f => m.answer h Op.framePush (faultStatus f)
         | none =>
           let m := m.accept h Op.framePush
           let w := ((List.range payload.length).zip payload).map (fun e => { bit := 8 * (a.base + e.1), width := 8, code := e.2.toNat : BitWrite })
           let m := m.perform 0 x (byteMap w) { corrected := [], bad := [] } (.cmd h.lane c h.tag)
           let p : Push := { lane := h.lane, tag := h.tag, prio := h.prio, outHandle := outH, outBytes := outBytes,
                             deadline := if m.periodic c then m.deadlineAfter c m.baseTime else 0 }
           (m.updCtx c (fun x => { x with pushWait := some p })).tryRelease c)
    | _, _ => if !m.serving c then m.answer h Op.framePush St.notPermitted else m.answer h Op.framePush St.badParam

/-! ### Pinning (R493) -/

/-- The ranges of a serving table's lockstep entries that no stream runs on. -/
def Mach.pinRanges (m : Mach) (c : Nat) : List Nat :=
  match (m.ctx c).bind (fun x => (x.table (m.rdF (Reg.TRAVERSE_SERVE_CFG c) Fld.TRAVERSE_SERVE_CFG_TABLE)).filter (fun t => t.serving)) with
  | none => []
  | some t => (List.range 16).filter (fun n => m.owns c n && !m.rangeBusy n && t.entries.any (fun e => e.lockstep && !e.copy && bitOf e.mask n))

/-- Whether the pinning before a pass is due: a push has arrived or is arriving, in periodic mode from 2 µs before its deadline. (DEDUCED, log entry 56.) -/
def Mach.pinDue (m : Mach) (c : Nat) : Bool :=
  match m.ctx c with
  | none => false
  | some x =>
    if m.periodic c then decide (x.p0 ≠ none) && decide (m.deadlineAfter c m.baseTime ≤ m.baseTime + us 2)
    else x.pushWait.isSome || x.pass.isSome ||
      m.swite.arriving.any (fun q => q.accepted && decide (q.opcode = Op.framePush) && decide (q.ctx = c))

/-- PIN_START: the islands of the pass's ranges go to f_L, pinned. -/
def pinStart (c : Nat) (m : Mach) : Mach :=
  if !m.serving c ∨ !m.pinDue c ∨ (m.ctx c).elim false (fun x => x.pinned) then m
  else
    (m.each (m.pinRanges c) (fun m n =>
      (m.runRange n (m.lockKHz c) true).wrF (Reg.RANGE_STREAM_STATUS n) Fld.RANGE_STREAM_STATUS_LOCKSTEP_PIN 1)).updCtx c
      (fun x => { x with pinned := true })

/-! ### The end of a pass -/

/-- A pass ends once nothing of it runs: with DONE when every entry has, else with the status that ended it. Idle islands return
to Treeline (R78), and a push that waits follows (R497). -/
def Mach.settlePass (m : Mach) (c : Nat) : Mach :=
  match m.ctx c with
  | none => m
  | some x =>
    match x.pass with
    | none => m
    | some p =>
      let going := p.entries.any (fun e => match e with | .running | .over _ => true | _ => false)
      let complete := p.entries.all (fun e => decide (e = .ended St.done))
      if going ∨ (p.failed.isNone ∧ !complete) then m
      else
        let m := (m.updCtx c (fun x => { x with pass := none, pinned := false }))
        let m := m.each ((List.range 16).filter (fun n => m.owns c n && !m.rangeBusy n)) (fun m n => m.unpin n)
        let out := (x.desc p.outHandle).elim [] (fun d => (List.range p.outBytes).map (fun i => m.linkByte x (d.base + i)))
        let m := match p.failed with
          | some st => m.finish p.lane c p.tag Op.framePush st
          | none => (m.finish p.lane c p.tag Op.framePush St.done 0 out).drawn
        m.tryRelease c

/-! ### SCHEDULE_LOAD and the end of an entry (R306 to R311) -/

def scheduleLoadBody (h : Hdr) (k : Nat) (payload : List Byte) (m : Mach) : Mach :=
  match m.ctx h.ctx with
  | none => m.answer h Op.scheduleLoad St.badParam
  | some x =>
    if 16 ≤ k then m.answer h Op.scheduleLoad St.badParam 0xFFFF
    else match tableCheck payload x.syncLen with
      | .error i => m.answer h Op.scheduleLoad St.badParam i
      | .ok t =>
        let used := x.step.elim false (fun s => decide (s.table = k)) || x.next.elim false (fun s => decide (s.table = k)) ||
          x.pass.elim false (fun p => decide (p.table = k))
        if used then m.answer h Op.scheduleLoad St.busy
        else (m.updCtx h.ctx (fun x => { x with tables := (k, t) :: x.tables.filter (fun e => decide (e.1 ≠ k)) })).answer h Op.scheduleLoad St.done

/-- The standing of an entry. -/
def Mach.entryAt (m : Mach) (c k : Nat) : Option EntrySt :=
  (m.ctx c).bind (fun x =>
    if 8192 ≤ k then x.next.bind (fun s => s.entries[k - 8192]?)
    else if 4096 ≤ k then x.pass.bind (fun p => p.entries[k - 4096]?)
    else x.step.bind (fun s => s.entries[k]?))

/-- SCHEDULE_ENTRY_END: an entry whose work is over has ended; a status other than DONE fails its attempt or its pass. -/
def entryEnd (c k : Nat) (m : Mach) : Mach :=
  match m.entryAt c k with
  | some (.over st) =>
    let m := m.setEntry c k (.ended st)
    let m := if st = St.done then m
      else if 4096 ≤ k ∧ k < 8192 then m.updCtx c (fun x => { x with pass := x.pass.map (fun p => { p with failed := some (p.failed.getD st) }) })
      else m.sendFail c (if 8192 ≤ k then 8192 else 0) st
    (m.checkReady c).settlePass c
  | _ => m

/-- READY is asked again of every context. -/
def Mach.checkAll (m : Mach) : Mach := m.each (List.range 16) Mach.checkReady

def execScheduleLoad (h : Hdr) (table : Nat) (payload : List Byte) (s : State) : Host.Outcome State Fault Refusal :=
  s.run (fun m => m.command Op.scheduleLoad h (leBytes table 1) (scheduleLoadBody h table payload))
def execScheduleEntryEnd (c : Fin 16) (entry : Nat) (s : State) : Host.Outcome State Fault Refusal := s.run (entryEnd c entry)
def execFramePush (h : Hdr) (inHandle outHandle outBytes : Nat) (payload : List Byte) (s : State) : Host.Outcome State Fault Refusal :=
  s.run (fun m => m.command Op.framePush h (leBytes inHandle 2 ++ leBytes outHandle 2 ++ leBytes outBytes 4)
    (framePushBody h inHandle outHandle outBytes payload))
def execPinStart (c : Fin 16) (s : State) : Host.Outcome State Fault Refusal := s.run (pinStart c)
def execIntakeDeadline (c : Fin 16) (s : State) : Host.Outcome State Fault Refusal := s.run (intakeDeadline c)
def execPostingStart (n : Fin 16) (index : Nat) (ecc : Ecc) (s : State) : Host.Outcome State Fault Refusal :=
  s.run (fun m => (postingStart n index ecc m).checkAll)
def execReductionFrame (p : Fin 32) (ecc : Ecc) (s : State) : Host.Outcome State Fault Refusal :=
  s.run (fun m => (reductionFrame p ecc m).checkAll)

end Sys2Proof.Machine
end

