-- ==== Sys2Proof/Machine/Blank.lean ====
section
/-!
DEFINITION. Losing every island except Cairn (R16, R500, R518, R609, R611, R617): what a module reset and a power-off leave.
-/

namespace Sys2Proof.Machine

/-- The registers of the LSUs themselves, which a module reset leaves running (R611, R617). -/
def lsuReg (a : Nat) : Bool := decide (Reg.CIRQUE_LSU_STATUS 0 ≤ a) && decide (a < Reg.CIRQUE_LSU_LINE_POWER 8)

/-- What a cut-off of every command leaves in Cairn: nothing waits, and a bank that FW_UPDATE was writing is empty (R584, R619). -/
def CairnSt.cut (c : CairnSt) (idle : Nat) : CairnSt :=
  { c with waits := [], ownerScrub := [], clearing := c.clearing.map (fun x => (x.1, [])), fwTotal := none, fwChunks := [],
           banks := if c.fwTotal.isSome then c.banks.set idle { empty := true, svn := 0, minor := 0, patch := 0 } else c.banks }

/-- `DEBUG_NONCE` takes a new random value, a free one (R641, R645). -/
def Mach.newNonce (m : Mach) : Mach := (m.wr Reg.SURVEY_DEBUG_NONCE (BitVec.ofNat 32 m.draw)).drawn

/-- Every island except Cairn goes back to its reset state; non-volatile state, LSUs, Cairn, and what has already been sent stay. -/
def Mach.blank (m : Mach) : Mach :=
  let q : Mach := { Mach.reset with
    clk := m.clk, draws := m.draws, csr := m.csr, faultN := m.faultN, modResetLow := m.modResetLow,
    cairn := m.cairn.cut (1 - m.rdF Reg.CAIRN_STATE Fld.CAIRN_STATE_RUN_BANK),
    optics := { OpticsSt.reset with cross := m.optics.cross },
    group := { Mach.reset.group with sent := m.group.sent }, sent := m.sent,
    swite := { SwiteSt.reset with replies := m.swite.replies, txnSent := m.swite.txnSent, linkOut := m.swite.linkOut, control := m.swite.control, nextTxn := m.swite.nextTxn,
                                  arriving := m.swite.arriving.filter (fun p => decide (p.lane = .mgmt)),
                                  arrived := m.swite.arrived.filter (fun p => decide (p.lane = .mgmt)) } }
  (q.resetRegs (fun a => !inBlock .cairn a && !lsuReg a)).newNonce

/-- Every island except Cairn is powered off, and `FAULT_N` is asserted, until a module reset or a cold reset (R500, R501, R518). (DEDUCED, log entry 32.) -/
def Mach.powerOff (m : Mach) : Mach :=
  let m : Mach := { m.darkReset.blank with faultN := true }
  let m : Mach := { m with cairn := { m.cairn with resetting := none } }
  m.wrF Reg.CAIRN_START_STATUS Fld.CAIRN_START_STATUS_POWERED_OFF 1

end Sys2Proof.Machine
end

