-- ==== Sys2Proof/Machine/Power.lean ====
section
/-!
DEFINITION. Treeline's commands and events (15_treeline_power): sensors and thermal actions, the power budget, cap enforcement,
boost, voltage changes, the input supply and the coolant. Temperatures are in quarters of a degree, voltages of J1 in 10 mV,
coolant flow in 0.01 L/min.
-/

namespace Sys2Proof.Machine

/-! ### Frequency steps (R503) -/

/-- One step of 25 MHz down, to a multiple of 25 MHz, not below 312.5 MHz. -/
def stepDown (kHz : Nat) : Nat := Nat.max floorKHz ((kHz + 24999) / 25000 * 25000 - 25000)

/-- One step up toward a granted frequency. -/
def stepUp (kHz grant : Nat) : Nat := Nat.min grant ((kHz / 25000 + 1) * 25000)

/-- Rounding a halved frequency down to a multiple of 25 MHz, not below 312.5 MHz. -/
def roundStep (kHz : Nat) : Nat := Nat.max floorKHz (kHz / 25000 * 25000)

/-- Lowering and raising an island by one step; a rise that waits for its voltage is not overtaken. -/
def Mach.lower (m : Mach) (i : Nat) : Mach := m.setFreq i (stepDown (m.island i).kHz)
def Mach.raise (m : Mach) (i : Nat) : Mach :=
  let x := m.island i
  if x.grant ≤ x.kHz ∨ x.waiting.elim false (fun w => decide (x.kHz < w.1)) then m else m.setFreq i (stepUp x.kHz x.grant)

/-! ### Zones (R517, R518, R527) -/

/-- The first sensor of a zone, and how many it has, in the order of R517's table. -/
def sensorsOf (z : Nat) : Nat × Nat :=
  if z < 16 then (24 * z, 24) else if z < 18 then (384 + 8 * (z - 16), 8) else if z < 30 then (400 + 4 * (z - 18), 4)
  else if z = 30 then (448, 32) else (480 + 4 * (z - 31), 4)

/-- The highest of a zone's readings. -/
def zoneReading (l : List Int) (z : Nat) : Int :=
  let s := sensorsOf z
  ((l.drop s.1).take s.2).foldl max ((l.drop s.1).headD 0)

def Mach.setZoneState (m : Mach) (z v : Nat) : Mach := m.wrF (Reg.TREELINE_ZONE z) Fld.TREELINE_ZONE_STATE v
def Mach.zoneStopped (m : Mach) (z : Nat) : Bool := decide (m.rdF (Reg.TREELINE_ZONE z) Fld.TREELINE_ZONE_STATE = 3)

/-- `STATE` of a zone that is not stopped. -/
def Zone.code (z : Zone) : Nat := if z.holdSince.isSome then 2 else if z.throttled then 1 else 0

def Mach.showZone (m : Mach) (z : Nat) : Mach := if m.zoneStopped z then m else m.setZoneState z (m.zone z).code

/-- The island whose frequency a zone reports (R527). -/
def reporting (z : Nat) : Nat :=
  if z < 16 then 4 * z + 1 else if z < 18 then 64 + 3 * (z - 16) else if z < 30 then 70 + (z - 18) else if z = 30 then 82 else 92 + 2 * (z - 31)

/-- `ZONE[z]` as it reads. -/
def Mach.zoneWord (m : Mach) (z : Nat) : Word :=
  let x := m.island (reporting z)
  Word.setF (m.rd (Reg.TREELINE_ZONE z)) Fld.TREELINE_ZONE_FREQ_MHZ (if x.powered && x.clocked then x.kHz / 1000 else 0)

/-! ### Boost (R516) -/

def boosted (s : Stream) : Nat := (maskBits s.boost 16).length

/-- The grant of a running flow unit with a boost mask. -/
def Mach.grantWith (m : Mach) (s : Stream) (boost : Nat) : Rat :=
  let b := popcount boost
  m.predicted s.image.cls * ((b : Rat) * powerFactor boostKHz + ((popcount s.mask - b : Nat) : Rat) * powerFactor flowKHz)

/-- A running unit's islands take the frequency that a boost mask gives them. -/
def Mach.setBoost (m : Mach) (s : Stream) (boost : Nat) : Mach :=
  let g := m.grantWith s boost
  let m := m.updStream s.id (fun s => { s with boost := boost, grant := g })
  (m.each ((maskBits s.mask 16).filter (fun n => decide (bitOf boost n ≠ bitOf s.boost n))) (fun m n =>
    m.runRange n (if bitOf boost n then boostKHz else flowKHz) false)).showBudget

/-- Boost is withdrawn from the ranges whose zone has reached `BOOST_TJ`. -/
def Mach.dropBoost (m : Mach) : Mach :=
  (m.streams.filter (fun s => s.admitted && !s.lockstep && decide (s.boost ≠ 0))).foldl (fun m s =>
    let keep := (maskBits s.boost 16).filter (fun n => decide (m.zoneTemp n < m.thermal Fld.TREELINE_THERMAL_CFG_BOOST_TJ))
    let b := keep.foldl (fun a n => a + 2 ^ n) 0
    if b = s.boost then m else m.setBoost s b) m

/-- Flow units in ascending order of their lowest range. -/
def Mach.flowUnits (m : Mach) : List Stream :=
  (List.range 16).filterMap (fun n => m.streams.find? (fun s => s.admitted && !s.lockstep && decide ((maskBits s.mask 16).head? = some n)))

/-- BOOST_CHECK: boost is withdrawn where it must be, and granted to a unit whose increase fits. -/
def boostCheck (m : Mach) : Mach :=
  m.dropBoost.flowUnits.foldl (fun m s =>
    if s.boost = s.mask ∨ !m.boostOk s.mask then m
    else if m.grantWith s s.mask - m.grantWith s s.boost ≤ m.freeW then m.setBoost s s.mask else m) m.dropBoost

/-! ### The fast path and the slow throttle (R518, R520) -/

/-- The lockstep stream on a range whose pinned islands the fast path has changed stops (R77). -/
def Mach.thermalStop (m : Mach) (n : Nat) : Mach :=
  match (m.streams.find? (fun s => s.admitted && s.lockstep && bitOf s.mask n)) with
  | none => m
  | some s =>
    let own : StopAt := match (m.range n).oldest with
      | some x => { range := n, status := St.thermalLimit, cause := 0, instr := x.2.idx, rep := x.2.done, station := x.1, cond := 0 }
      | none => { range := n, status := St.thermalLimit, cause := 0, instr := 0xFFFF, rep := 0, station := 0, cond := 0 }
    (m.stopStream s.id St.thermalLimit [own]).tally (7 * n) 1

/-- An island halves at once; what it was waiting for is cancelled. -/
def Mach.halve (m : Mach) (i : Nat) : Mach :=
  let m := m.updIsland i (fun x => { x with waiting := none, halved := true })
  m.setFreq i (Nat.max floorKHz ((m.island i).kHz / 2))

/-- The fast path of a zone: during a hold it only restarts the hold. (DEDUCED, log entry 60.) -/
def Mach.fastPath (m : Mach) (z : Nat) : Mach :=
  if (m.zone z).holdSince.isSome then m.updZone z (fun x => { x with holdSince := some m.clk })
  else
    let pinned := decide (z < 16) && (islandsOf z).any (fun i => (m.island i).pinned)
    let m := (m.updZone z (fun x => { x with holdSince := some m.clk, throttled := true })).each (islandsOf z) (fun m i => m.halve i)
    let m := ((m.addF Reg.TREELINE_COUNTS Fld.TREELINE_COUNTS_FAST_EVENTS 1).tally (262 + z) 0).trouble 4
    let m := (m.showZone z).event Ev.thermal St.thermalLimit z
    if pinned then m.thermalStop z else m

/-- The slow throttle takes a zone up. -/
def Mach.slowStart (m : Mach) (z : Nat) : Mach :=
  if (m.zone z).throttled then m
  else
    let m := m.updZone z (fun x => { x with throttled := true, stepAt := m.clk })
    (((m.showZone z).tally (262 + z) 1).trouble 4).event Ev.thermal St.thermalLimit z

/-- FAST_HOLD_END: halved islands come to a multiple of 25 MHz, and the slow throttle or the recovery governs. -/
def fastHoldEnd (z : Nat) (m : Mach) : Mach :=
  match (m.zone z).holdSince with
  | none => m
  | some t =>
    if m.clk < t + ms 1 then m
    else
      let m := m.updZone z (fun x => { x with holdSince := none, throttled := true, stepAt := m.clk })
      (m.each (islandsOf z) (fun m i =>
        let m := m.updIsland i (fun x => { x with halved := false })
        m.setFreq i (if (m.island i).pinned then (m.island i).grant else roundStep (m.island i).kHz))).showZone z

/-- Whether every island of a zone is back at what its grant allows. -/
def Mach.recovered (m : Mach) (z : Nat) : Bool :=
  (islandsOf z).all (fun i => (m.island i).pinned || decide ((m.island i).grant ≤ (m.island i).kHz))

/-- SLOW_THROTTLE_STEP: 25 MHz down every 50 µs while the zone is hot, one step up every 1 ms after. -/
def slowStep (z : Nat) (m : Mach) : Mach :=
  let x := m.zone z
  if !x.throttled ∨ x.holdSince.isSome then m
  else
    let moving := (islandsOf z).filter (fun i => !(m.island i).pinned)
    let stamp (m : Mach) : Mach := m.updZone z (fun x => { x with stepAt := m.clk })
    if m.thermal Fld.TREELINE_THERMAL_CFG_THROTTLE_TJ - 8 ≤ m.zoneTemp z then
      (if m.clk < x.stepAt + us 50 then m else stamp (m.each moving (fun m i => m.lower i)))
    else if m.clk < x.stepAt + ms 1 then m
    else
      let m := stamp (m.each moving (fun m i => m.raise i))
      if m.recovered z then (m.updZone z (fun x => { x with throttled := false })).showZone z else m

/-! ### Compute stop (R519, R683) -/

/-- A Tarn that stops in the middle of an update fails its module's contribution. -/
def Mach.stopTarns (m : Mach) (status : Nat) : Mach :=
  m.each (List.range 12) (fun m s => match m.tarnOf s with
    | none => m
    | some t => ((m.setTarn s none).showTarn s 0 t.ctx t.record).sendFail t.ctx 0 status)

/-- Every stream and every waiting unit ends, and the range islands stop their clocks. -/
def Mach.stopCompute (m : Mach) (status : Nat) : Mach :=
  ((m.endWaiting status).stopStreams (fun _ => true) status 0).each (List.range 64) (fun m i => m.updIsland i (fun x => { x with clocked := false }))

def Mach.computeStop (m : Mach) (source : Nat) (coolant : Bool) : Mach :=
  if m.rdF Reg.TREELINE_STATUS Fld.TREELINE_STATUS_COMPUTE_STOPPED = 1 then
    { m with treeline := { m.treeline with coolantStopped := m.treeline.coolantStopped || coolant } }
  else
    let m := m.wrF Reg.TREELINE_STATUS Fld.TREELINE_STATUS_COMPUTE_STOPPED 1
    let m := (m.stopCompute St.thermalLimit).stopTarns St.thermalLimit
    let m := m.each (List.range 16) (fun m z => m.setZoneState z 3)
    let m : Mach := { m with treeline := { m.treeline with coolantStopped := coolant, coolSince := none } }
    (m.trouble 4).event Ev.thermal St.thermalLimit source

/-- COMPUTE_STOP_END: 100 ms below 100 °C everywhere, and 100 ms of good coolant where the coolant caused the stop. -/
def computeStopEnd (m : Mach) : Mach :=
  let past (o : Option Nat) : Bool := o.elim false (fun t => decide (t + ms 100 ≤ m.clk))
  if m.rdF Reg.TREELINE_STATUS Fld.TREELINE_STATUS_COMPUTE_STOPPED = 1 ∧ past m.treeline.coolSince ∧
      (!m.treeline.coolantStopped ∨ past m.treeline.coolantGood) then
    let m := m.wrF Reg.TREELINE_STATUS Fld.TREELINE_STATUS_COMPUTE_STOPPED 0
    let m : Mach := { m with treeline := { m.treeline with coolantStopped := false } }
    m.each (List.range 16) (fun m z => m.setZoneState z (m.zone z).code)
  else m

/-! ### SENSOR_READ -/

/-- A zone's new temperature, with the readings of the last 1 ms. -/
def Mach.readZone (m : Mach) (l : List Int) (z : Nat) : Mach :=
  let t := zoneReading l z
  (m.updZone z (fun x => { x with history := (m.clk, t) :: x.history.filter (fun h => decide (m.clk ≤ h.1 + ms 1)) })).wrF
    (Reg.TREELINE_ZONE z) Fld.TREELINE_ZONE_TEMP (wrapNat t 16)

/-- Whether a zone's reading calls the fast path: 110 °C, or a rise of `FAST_DELTA` within 1 ms. -/
def Mach.fastCalled (m : Mach) (z : Nat) : Bool :=
  let t := m.zoneTemp z
  decide (440 ≤ t) || (m.zone z).history.any (fun h => decide (h.2 + m.thermal Fld.TREELINE_THERMAL_CFG_FAST_DELTA ≤ t))

/-- The actions of a zone's temperature, the stops apart. -/
def Mach.zoneActs (m : Mach) (z : Nat) : Mach :=
  let m := if m.fastCalled z then m.fastPath z else m
  if m.thermal Fld.TREELINE_THERMAL_CFG_THROTTLE_TJ ≤ m.zoneTemp z then m.slowStart z else m

/-- SENSOR_READ: the 512 readings, and every threshold they reach. -/
def sensorRead (l : List Int) (m : Mach) : Mach :=
  if m.poweredOff then m
  else
    let zones := List.range 39
    let m := m.each zones (fun m z => m.readZone l z)
    let m : Mach := { m with treeline := { m.treeline with
      coolSince := if zones.all (fun z => decide (m.zoneTemp z < 400)) then some (m.treeline.coolSince.getD m.clk) else none } }
    if zones.any (fun z => decide (500 ≤ m.zoneTemp z)) then (m.event Ev.thermal St.thermalLimit ((zones.find? (fun z => decide (500 ≤ m.zoneTemp z))).getD 0)).powerOff
    else
      let m := m.each zones (fun m z => m.zoneActs z)
      let m := m.dropBoost
      match zones.find? (fun z => decide (460 ≤ m.zoneTemp z)) with
      | some z => m.computeStop z false
      | none => m

/-! ### The budget (R507, R508, R511 to R515) -/

def Mach.effCap (m : Mach) : Nat := m.rdF Reg.TREELINE_CAP Fld.TREELINE_CAP_EFFECTIVE_W
def Mach.baseW (m : Mach) : Nat := m.rdF Reg.TREELINE_BASE Fld.TREELINE_BASE_BASE_W
def Mach.marginW (m : Mach) : Nat := m.rdF Reg.TREELINE_ADMIT_CFG Fld.TREELINE_ADMIT_CFG_MARGIN_W

/-- `pool` of R508 under an effective cap. -/
def Mach.poolAt (m : Mach) (eff : Nat) : Rat := (eff : Rat) - (m.baseW : Rat) - (m.marginW : Rat)

def Mach.setPool (m : Mach) : Mach :=
  let q : Mach := { m with treeline := { m.treeline with pool := m.poolAt m.effCap } }
  q.showBudget

/-- BUDGET_EVALUATION: `base` is measured, `pool` and `free` follow, and what waits is tried again. -/
def budgetEvaluation (base : Nat) (m : Mach) : Mach :=
  if m.poweredOff then m else ((m.wrF Reg.TREELINE_BASE Fld.TREELINE_BASE_BASE_W base).setPool).admitWaiting

/-- POWER_SAMPLE: a range's mean power over a window in which it ran one unit, divided by k(f), goes to the unit's class. -/
def powerSample (n milliwatts : Nat) (m : Mach) : Mach :=
  match (m.range n).stream.bind (fun id => m.stream id) with
  | none => m
  | some s =>
    let c := s.image.cls
    let x := (milliwatts : Rat) / 1000 / powerFactor (m.island (4 * n + 1)).kHz
    let l := m.treeline.samples.getD c []
    let l := (if 4096 ≤ l.length then l.drop 1 else l) ++ [x]
    let m : Mach := { m with treeline := { m.treeline with samples := m.treeline.samples.set c l } }
    let m := m.wrF (Reg.TREELINE_PREDICT c) Fld.TREELINE_PREDICT_SAMPLES l.length
    let m := m.wrF (Reg.TREELINE_PREDICT c) Fld.TREELINE_PREDICT_PRED_DW (10 * m.predicted c).floor.toNat
    if l.length = 4096 then m.orR Reg.TREELINE_STATUS (2 ^ c) else m

def Mach.setPower (m : Mach) (w : Nat) : Mach := m.wrF Reg.TREELINE_INPUT Fld.TREELINE_INPUT_POWER_W w

/-- The islands of the running flow units that are not pinned, unit by unit in an order of grants. -/
def Mach.unitIslands (m : Mach) (descending : Bool) : List Nat :=
  let l := m.flowUnits.mergeSort (fun a b => if descending then decide (b.grant ≤ a.grant) else decide (a.grant ≤ b.grant))
  (l.flatMap (fun s => (maskBits s.mask 16).flatMap rangeIslands)).filter (fun i => !(m.island i).pinned)

/-- CAP_ENFORCEMENT_STEP: over the effective cap, every flow island falls one step each 100 µs. -/
def capEnforce (power : Nat) (m : Mach) : Mach :=
  let m := m.setPower power
  if power ≤ m.effCap ∨ m.clk < m.treeline.capAt + us 100 then m
  else
    let m := if m.treeline.lowered then m else
      (((m.addF Reg.TREELINE_COUNTS Fld.TREELINE_COUNTS_CAP_EVENTS 1).tally 301 0).trouble 5).event Ev.power St.powerLimit 2
    let m := m.each (m.unitIslands true) (fun m i => m.lower i)
    { m with treeline := { m.treeline with lowered := true, capAt := m.clk, restoreAt := m.clk } }

/-- CAP_RESTORE_STEP: under the cap again, every lowered island rises one step each 1 ms, up to its unit's grant; a zone that slows
its islands keeps them (R518). -/
def capRestore (power : Nat) (m : Mach) : Mach :=
  let m := m.setPower power
  if m.effCap < power ∨ !m.treeline.lowered ∨ m.clk < m.treeline.restoreAt + ms 1 then m
  else
    let m := m.each ((m.unitIslands false).filter (fun i => !m.slowed (i / 4))) (fun m i => m.raise i)
    let full := (m.unitIslands false).all (fun i => decide ((m.island i).grant ≤ (m.island i).kHz) || m.slowed (i / 4))
    { m with treeline := { m.treeline with lowered := !full, restoreAt := m.clk } }

/-- STARVE_EXPIRY: the context's first waiting entry has waited `STARVE_US`; nothing else starts until it is admitted. -/
def starveExpiry (c : Nat) (m : Mach) : Mach :=
  match m.treeline.waiting.find? (fun w => decide (w.stream = none) && decide (w.ctx = c)) with
  | none => m
  | some w =>
    if m.treeline.starving.isSome ∨ m.clk < w.since + us (m.rdF Reg.TREELINE_ADMIT_CFG Fld.TREELINE_ADMIT_CFG_STARVE_US) then m
    else { m with treeline := { m.treeline with starving := some (w.ctx, w.entry) } }

/-- POWER_BUDGET_SET with `KIND` 0 (R514, R522). -/
def budgetCapBody (h : Hdr) (context watts : Nat) (m : Mach) : Mach :=
  let eff := Nat.min watts (m.treeline.coolantCap.getD 3200)
  if context ≠ 0 ∨ watts < 600 ∨ 3200 < watts then m.answer h Op.powerBudgetSet St.badParam
  else if m.poolAt eff < (m.reservedSum : Rat) then m.answer h Op.powerBudgetSet St.powerLimit
  else
    let m := (m.wrF Reg.TREELINE_CAP Fld.TREELINE_CAP_CAP_W watts).wrF Reg.TREELINE_CAP Fld.TREELINE_CAP_EFFECTIVE_W eff
    let m := m.wrF Reg.TREELINE_STATUS Fld.TREELINE_STATUS_DERATED (b2n (decide (eff < watts)))
    (m.setPool.admitWaiting).answer h Op.powerBudgetSet St.done

/-- POWER_BUDGET_SET with `KIND` 1 (R512, R522). -/
def reservationBody (h : Hdr) (context watts : Nat) (m : Mach) : Mach :=
  if 16 ≤ context ∨ 3200 < watts then m.answer h Op.powerBudgetSet St.badParam
  else if h.ctx ≠ context then m.answer h Op.powerBudgetSet St.notPermitted
  else if m.treeline.pool - ((m.reservedSum : Rat) - (m.reservation context : Rat)) - m.flowSum < (watts : Rat) then
    m.answer h Op.powerBudgetSet St.powerLimit
  else ((m.wrF (Reg.TREELINE_RESERVE context) Fld.TREELINE_RESERVE_WATTS watts).showBudget).answer h Op.powerBudgetSet St.done

/-- THERMAL_STATUS (R523). -/
def thermalStatusBody (h : Hdr) (m : Mach) : Mach :=
  m.answer h Op.thermalStatus St.done 0 ((List.range 39).flatMap (fun z => leBytes (m.zoneWord z).toNat 4) ++
    [Reg.TREELINE_INPUT, Reg.TREELINE_COOLANT, Reg.TREELINE_STATUS].flatMap (fun a => leBytes (m.rd a).toNat 4))

/-! ### Islands (R504, R505) -/

/-- RANGE_POWER_OFF: a range that no context has held for 10 ms; its registers are lost with its islands (R651). -/
def rangePowerOff (n : Nat) (m : Mach) : Mach :=
  match m.treeline.offSince.find? (fun e => decide (e.1 = n)) with
  | none => m
  | some e =>
    if m.rangeState n ≠ 0 ∨ m.clk < e.2 + ms 10 then m
    else
      let m := m.each (rangeIslands n) (fun m i => m.updIsland i (fun x => { x with powered := false, clocked := false }))
      let m := m.resetRegs (inWindow .range n)
      { m with treeline := { m.treeline with offSince := m.treeline.offSince.filter (fun e => decide (e.1 ≠ n)) } }

/-! ### The input (R500, R501) -/

def Mach.setVoltage (m : Mach) (v : Nat) : Mach := m.wrF Reg.TREELINE_INPUT Fld.TREELINE_INPUT_VOLTAGE v

/-- INPUT_DIP: J1 between 54 V and 58 V; a reading of 58 V or more ends the dip. -/
def inputDip (v : Nat) (m : Mach) : Mach :=
  if m.poweredOff then m
  else
    let m := m.setVoltage v
    if 5800 ≤ v then { m with treeline := { m.treeline with dipping := false } }
    else
      let m := if m.treeline.dipping then m else ((m.wrF Reg.TREELINE_STATUS Fld.TREELINE_STATUS_DIP 1).trouble 5).tally 301 2
      { m with treeline := { m.treeline with dipping := true } }

/-- BROWN_OUT. -/
def brownOut (v : Nat) (m : Mach) : Mach :=
  if m.poweredOff ∨ 5800 ≤ v then m
  else
    let m := m.setVoltage v
    if m.rdF Reg.TREELINE_STATUS Fld.TREELINE_STATUS_BROWNOUT = 1 then m
    else
      let m := (m.wrF Reg.TREELINE_STATUS Fld.TREELINE_STATUS_BROWNOUT 1).stopCompute St.powerLimit
      let m := ((m.addF Reg.TREELINE_COUNTS Fld.TREELINE_COUNTS_BROWNOUTS 1).tally 301 1).trouble 5
      m.event Ev.power St.powerLimit 0

/-- BROWNOUT_END: 58 V or more for 100 ms. -/
def brownoutEnd (v : Nat) (m : Mach) : Mach :=
  if m.rdF Reg.TREELINE_STATUS Fld.TREELINE_STATUS_BROWNOUT = 1 ∧ 5800 ≤ v then
    let m := (m.setVoltage v).wrF Reg.TREELINE_STATUS Fld.TREELINE_STATUS_BROWNOUT 0
    { m with treeline := { m.treeline with dipping := false } }
  else m

/-- INPUT_POWER_OFF: below 48 V or above 70 V for 1 ms. -/
def inputPowerOff (v : Nat) (m : Mach) : Mach := if v < 4800 ∨ 7000 < v then m.powerOff else m

/-! ### The coolant (R521) -/

/-- The cap that the coolant allows: none while both limits are met. -/
def coolantLimit (inlet : Int) (flow : Nat) : Option Nat :=
  let byFlow := if flow < 500 then some (3200 * flow / 500) else none
  let byTemp := if 160 < inlet then some (3200 - 50 * (inlet - 160)).toNat else none
  match byFlow, byTemp with
  | some a, some b => some (Nat.min a b)
  | some a, none => some a
  | none, b => b

/-- Whether the coolant is in the compute-stop row. -/
def coolantBadAt (inlet : Int) (flow : Nat) : Bool := decide (flow < 250) || decide (180 < inlet)

/-- COOLANT_CHANGE: the effective cap follows the coolant. -/
def coolantChange (inlet : Int) (flow : Nat) (m : Mach) : Mach :=
  if m.poweredOff then m
  else
    let m := (m.wrF Reg.TREELINE_COOLANT Fld.TREELINE_COOLANT_INLET (wrapNat inlet 16)).wrF Reg.TREELINE_COOLANT Fld.TREELINE_COOLANT_FLOW flow
    let bad := coolantBadAt inlet flow
    let cap := m.rdF Reg.TREELINE_CAP Fld.TREELINE_CAP_CAP_W
    let eff := Nat.min cap ((coolantLimit inlet flow).getD 3200)
    let was := m.rdF Reg.TREELINE_STATUS Fld.TREELINE_STATUS_DERATED
    let m : Mach := { m with treeline := { m.treeline with
      coolantCap := coolantLimit inlet flow,
      coolantBad := if bad then some (m.treeline.coolantBad.getD m.clk) else none,
      coolantGood := if bad then none else some (m.treeline.coolantGood.getD m.clk) } }
    let m := m.wrF Reg.TREELINE_STATUS Fld.TREELINE_STATUS_COLD_INLET (b2n (decide (inlet < 60)))
    let m := (m.wrF Reg.TREELINE_CAP Fld.TREELINE_CAP_EFFECTIVE_W eff).wrF Reg.TREELINE_STATUS Fld.TREELINE_STATUS_DERATED (b2n (decide (eff < cap)))
    let m := if eff < cap ∧ was = 0 then (m.trouble 5).event Ev.power St.powerLimit 1 else m
    m.setPool

/-- COOLANT_STOP: 1 s in the compute-stop row. -/
def coolantStop (m : Mach) : Mach :=
  if m.treeline.coolantBad.elim false (fun t => decide (t + secs 1 ≤ m.clk)) then m.computeStop 0xFF true else m

/-! ### Rows -/

def execPowerBudgetCap (h : Hdr) (context watts : Nat) (s : State) : Host.Outcome State Fault Refusal :=
  s.run (fun m => m.command Op.powerBudgetSet h [] (budgetCapBody h context watts))
def execPowerBudgetReservation (h : Hdr) (context watts : Nat) (s : State) : Host.Outcome State Fault Refusal :=
  s.run (fun m => m.command Op.powerBudgetSet h [] (reservationBody h context watts))
def execThermalStatus (h : Hdr) (s : State) : Host.Outcome State Fault Refusal :=
  s.run (fun m => m.command Op.thermalStatus h [] (thermalStatusBody h))
def execSensorRead (readings : List Int) (s : State) : Host.Outcome State Fault Refusal := s.run (sensorRead readings)
def execFastHoldEnd (z : Fin 39) (s : State) : Host.Outcome State Fault Refusal := s.run (fastHoldEnd z)
def execSlowThrottleStep (z : Fin 39) (s : State) : Host.Outcome State Fault Refusal := s.run (slowStep z)
def execComputeStopEnd (s : State) : Host.Outcome State Fault Refusal := s.run computeStopEnd
def execBudgetEvaluation (base : Nat) (s : State) : Host.Outcome State Fault Refusal := s.run (budgetEvaluation base)
def execPowerSample (n : Fin 16) (milliwatts : Nat) (s : State) : Host.Outcome State Fault Refusal := s.run (powerSample n milliwatts)
def execCapEnforcementStep (power : Nat) (s : State) : Host.Outcome State Fault Refusal := s.run (capEnforce power)
def execCapRestoreStep (power : Nat) (s : State) : Host.Outcome State Fault Refusal := s.run (capRestore power)
def execBoostCheck (s : State) : Host.Outcome State Fault Refusal := s.run boostCheck
def execStarveExpiry (c : Fin 16) (s : State) : Host.Outcome State Fault Refusal := s.run (starveExpiry c)
def execVoltageChangeDone (island : Fin 108) (s : State) : Host.Outcome State Fault Refusal := s.run (fun m => m.voltageDone island)
def execRangePowerOff (n : Fin 16) (s : State) : Host.Outcome State Fault Refusal := s.run (rangePowerOff n)
def execInputDip (voltage : Nat) (s : State) : Host.Outcome State Fault Refusal := s.run (inputDip voltage)
def execBrownOut (voltage : Nat) (s : State) : Host.Outcome State Fault Refusal := s.run (brownOut voltage)
def execBrownoutEnd (voltage : Nat) (s : State) : Host.Outcome State Fault Refusal := s.run (brownoutEnd voltage)
def execInputPowerOff (voltage : Nat) (s : State) : Host.Outcome State Fault Refusal := s.run (inputPowerOff voltage)
def execCoolantChange (inlet : Int) (flow : Nat) (s : State) : Host.Outcome State Fault Refusal := s.run (coolantChange inlet flow)
def execCoolantStop (s : State) : Host.Outcome State Fault Refusal := s.run coolantStop

end Sys2Proof.Machine
end

