-- ==== Sys2Proof/Machine/Memory.lean ====
section
/-!
DEFINITION. The memory commands and events (08_foothill_and_ledge, R575, R590, R594): mapping and unmapping, copies and fills,
host-memory transactions, bandwidth grants, patrol and bulk scrubs.
-/

namespace Sys2Proof.Machine

/-! ### MEM_MAP (R261, R266 to R269, R551) -/

/-- The bytes of a page code (R591). -/
def pageBytes : Nat → Option Nat
  | 0 => some (2 ^ 16) | 1 => some (2 ^ 21) | 2 => some (2 ^ 30) | _ => none

/-- How many aligned blocks of 2^k bytes a rising list of runs touches. -/
def blocksTouched (k : Nat) (l : List MapRun) : Nat :=
  (l.foldl (fun (a : Nat × Nat) r =>
    let lo := Nat.max a.2 (r.va / 2 ^ k)
    let hi := (r.va + r.size - 1) / 2 ^ k + 1
    (a.1 + (hi - lo), Nat.max a.2 hi)) (0, 0)).1

/-- The page tables that a context's mappings need (R262). -/
def tableBytes (l : List MapRun) : Nat :=
  if l = [] then 0
  else 65536 + 4096 * blocksTouched 39 l + 4096 * blocksTouched 30 (l.filter (fun r => decide (r.page < 2 ^ 30))) +
    256 * blocksTouched 21 (l.filter (fun r => decide (r.page = 65536)))

/-- A run put in its place by virtual address. -/
def insertRun (r : MapRun) : List MapRun → List MapRun
  | [] => [r]
  | q :: t => if r.va < q.va then r :: q :: t else q :: insertRun r t

/-- The page tables of every context, with one context's mappings as given. -/
def Mach.tablesWith (m : Mach) (c : Nat) (l : List MapRun) : Nat :=
  ((List.range 16).map (fun i => if i = c then tableBytes l else tableBytes ((m.ctx i).elim [] (fun x => x.maps)))).sum

/-- The domains that a context's descriptors and mappings may name: those granted, but for the slots' (R469). -/
def Mach.granted (m : Mach) (c : Nat) (x : Ctx) (d : Nat) : Bool :=
  bitOf x.pdoms d && !(m.belay.plan.elim false (fun p => decide (p.ctx = c) && decide (p.ward ≠ 0xFFF) && decide (p.slotPdom = d)))

/-- The status with which R267, in its order, refuses a mapping. -/
def Mach.mapRefused (m : Mach) (c : Nat) (x : Ctx) (r : MapRun) : Option Nat :=
  let first := r.pa / 65536
  let count := r.size / 65536
  if r.size = 0 ∨ r.va % r.page ≠ 0 ∨ r.size % r.page ≠ 0 ∨ r.pa % r.page ≠ 0 ∨ 2 ^ 52 < r.va + r.size ∨ !m.targetOk r.pa r.size then
    some St.badParam
  else if x.maps.any (fun q => runsMeet q.va q.size r.va r.size) then some St.badParam
  else if !m.granted c x r.pdom then some St.notPermitted
  else if !isHost r.pa && m.mem.owned.any (fun e => decide (e.1 ≠ c) && e.2.meets first count) then some St.notPermitted
  else if isHost r.pa && m.mem.sealed.any (fun q => m.mem.owned.any (fun e => decide (e.1 = c) && e.2.meets q.first q.count)) then
    some St.notPermitted
  else if m.mem.scrubQueue.any (fun q => q.2.any (fun f => f.meets first count)) then some St.busy
  else if m.scrubbing && decide (r.pa < 12 * 2 ^ 37) then some St.busy
  else if 512 * 2 ^ 20 < m.tablesWith c (insertRun r x.maps) then some St.busy
  else none

def memMapBody (h : Hdr) (va size pa page write pdom : Nat) (m : Mach) : Mach :=
  match m.ctx h.ctx, pageBytes page with
  | some x, some p =>
    let r : MapRun := { va := va, size := size, page := p, pa := pa, write := decide (write = 1), pdom := pdom }
    if 1 < write then m.answer h Op.memMap St.badParam
    else match m.mapRefused h.ctx x r with
      | some st => m.answer h Op.memMap st
      | none =>
        let own := (m.mem.owned.filter (fun e => decide (e.1 = h.ctx))).map (fun e => e.2)
        let fresh := if isHost pa then [] else own.foldl runsMinus [{ first := pa / 65536, count := size / 65536 }]
        let m := m.updCtx h.ctx (fun x => { x with maps := insertRun r x.maps })
        let q : Mach := { m with mem := { m.mem with owned := m.mem.owned ++ fresh.map (fun f => (h.ctx, f)) } }
        q.answer h Op.memMap St.done
  | _, _ => m.answer h Op.memMap St.badParam

/-! ### MEM_UNMAP (R270) -/

/-- The part of a run that lies in an interval. -/
def MapRun.cut (r : MapRun) (va size : Nat) : Nat × Nat :=
  let lo := Nat.max r.va va
  (lo, min (r.va + r.size) (va + size) - lo)

/-- Whether an interval covers only mapped pages, and whole ones. -/
def coversPages (l : List MapRun) (va size : Nat) : Bool :=
  let parts := l.filter (fun r => runsMeet r.va r.size va size)
  decide ((parts.map (fun r => (r.cut va size).2)).sum = size) &&
  parts.all (fun r => decide (((r.cut va size).1 - r.va) % r.page = 0) && decide ((r.cut va size).2 % r.page = 0))

/-- A run without an interval of whole pages. -/
def MapRun.without (r : MapRun) (va size : Nat) : List MapRun :=
  if !runsMeet r.va r.size va size then [r]
  else
    (if r.va < va then [{ r with size := va - r.va }] else []) ++
    (if va + size < r.va + r.size then
      [{ r with va := va + size, size := r.va + r.size - (va + size), pa := r.pa + (va + size - r.va) }] else [])

/-- Every translation cache loses a context's entries in an interval (R270). -/
def dropEntries (c va size : Nat) (l : List TlbEntry) : List TlbEntry :=
  l.filter (fun e => !(decide (e.ctx = c) && runsMeet e.va e.size va size))

def Mach.dropTlb (m : Mach) (c va size : Nat) : Mach :=
  m.each (List.range 16) (fun m n => m.updRange n (fun r => { r with
    tlbCol := dropEntries c va size r.tlbCol, tlbTalus := dropEntries c va size r.tlbTalus, tlbScree := dropEntries c va size r.tlbScree }))

/-- Whether a locked translation holds a page of an interval (R219). -/
def Mach.lockedIn (m : Mach) (c va size : Nat) : Bool :=
  m.ranges.any (fun r => (r.tlbCol ++ r.tlbTalus ++ r.tlbScree).any (fun e =>
    e.locked && decide (e.ctx = c) && runsMeet e.va e.size va size))

/-- Whether host-memory transactions still touch physical runs. -/
def Mach.txnIn (m : Mach) (runs : List (Nat × Nat)) : Bool :=
  (m.swite.txns ++ m.swite.txnWait).any (fun t => runs.any (fun r => runsMeet (t.addr + 2 ^ 47) 64 r.1 r.2))

/-- MEM_UNMAPs whose accesses have all been performed reply DONE. -/
def Mach.settleUnmaps (m : Mach) : Mach :=
  let ended := m.mem.unmapping.filter (fun u => !m.txnIn u.runs)
  let q : Mach := { m with mem := { m.mem with unmapping := m.mem.unmapping.filter (fun u => m.txnIn u.runs) } }
  ended.foldl (fun m u => m.finish u.lane u.ctx u.tag Op.memUnmap St.done) q

def memUnmapBody (h : Hdr) (va size : Nat) (m : Mach) : Mach :=
  match m.ctx h.ctx with
  | none => m.answer h Op.memUnmap St.badParam
  | some x =>
    if size = 0 ∨ !coversPages x.maps va size then m.answer h Op.memUnmap St.badParam
    else if m.lockedIn h.ctx va size then m.answer h Op.memUnmap St.busy
    else
      let gone := ((x.maps.filter (fun r => runsMeet r.va r.size va size)).map (fun r =>
        let k := r.cut va size; (r.pa + (k.1 - r.va), k.2)))
      let m := (m.updCtx h.ctx (fun x => { x with maps := x.maps.flatMap (fun r => r.without va size) })).dropTlb h.ctx va size
      if m.txnIn gone then
        (let q : Mach := { m with mem := { m.mem with unmapping := m.mem.unmapping ++
            [{ lane := h.lane, ctx := h.ctx, tag := h.tag, runs := gone }] } }
         q.begin h Op.memUnmap)
      else m.answer h Op.memUnmap St.done

/-! ### MEM_COPY and MEM_FILL (R541, R550, R551, R594) -/

/-- Whether a slot holds a key of a context. -/
def Mach.slotOf (m : Mach) (k c : Nat) : Bool :=
  decide (m.rdF (Reg.CAIRN_KEY_SLOT k) Fld.CAIRN_KEY_SLOT_VALID = 1) && decide (m.rdF (Reg.CAIRN_KEY_SLOT k) Fld.CAIRN_KEY_SLOT_CONTEXT = c)

def memCopyBody (h : Hdr) (src dst length slot : Nat) (m : Mach) : Mach :=
  match m.ctx h.ctx with
  | none => m.answer h Op.memCopy St.badParam
  | some x =>
    let dec := bitOf h.flags 4
    let j : CopyJob := { ctx := h.ctx, owner := .cmd h.lane h.tag Op.memCopy, src := some src, dst := dst, pattern := 0, length := length,
                         handles := none, slot := if dec then some slot else none, arrived := [], sent := false, failed := 0,
                         moved := 0, prio := h.prio }
    if length = 0 ∨ 2 ^ 48 < length ∨ (!dec ∧ slot ≠ 0) then m.answer h Op.memCopy St.badParam
    else if dec ∧ m.trust ≠ 2 then m.answer h Op.memCopy St.notPermitted
    else if dec ∧ (16 ≤ slot ∨ !m.slotOf slot h.ctx) then m.answer h Op.memCopy St.notPermitted
    else if dec ∧ (x.targets (x.moves j)).any isHost then m.answer h Op.memCopy St.badParam
    else if m.leaks x j then m.answer h Op.memCopy St.notPermitted
    else (m.begin h Op.memCopy).beginCopy x j

def memFillBody (h : Hdr) (dst pattern length : Nat) (m : Mach) : Mach :=
  match m.ctx h.ctx with
  | none => m.answer h Op.memFill St.badParam
  | some x =>
    if length = 0 ∨ length % 4 ≠ 0 ∨ dst % 4 ≠ 0 then m.answer h Op.memFill St.badParam
    else (m.begin h Op.memFill).beginCopy x
      { ctx := h.ctx, owner := .cmd h.lane h.tag Op.memFill, src := none, dst := dst, pattern := pattern, length := length,
        handles := none, slot := none, arrived := [], sent := false, failed := 0, moved := 0, prio := h.prio }

/-- COPY_COMPLETE for the copy at a place in the list of copies. (DESIGN CHOICE, log entry 14.) -/
def copyComplete (index : Nat) (e : Ecc) (m : Mach) : Mach :=
  match m.copies[index]? with
  | none => m
  | some j => m.advanceCopy j e

/-! ### Host-memory transactions (R129, R220, R575, R590) -/

/-- A copy that a transaction belongs to, changed. -/
def Mach.updCopies (m : Mach) (o : TxnOwner) (f : CopyJob → CopyJob) : Mach :=
  { m with copies := m.copies.map (fun j => if j.txnOwner = o then f j else j) }

/-- The bytes of a sector with a partial store laid over them. -/
def mergeSector (data : List Byte) (l : List (Nat × Nat × Nat)) : List Byte :=
  l.foldl (fun d y => d.set y.1 (mergeByte (d.getD y.1 0) y.2.1 y.2.2)) data

/-- A read has completed: a partial store writes its sector back; else its owner takes the bytes. -/
def Mach.hostRead (m : Mach) (t : HostTxn) (data : List Byte) : Mach :=
  let pa := t.addr + 2 ^ 47
  let m := m.endTxn t
  if t.merge ≠ [] then m.hostTxn true pa 64 (mergeSector data t.merge) [] t.owner
  else match t.owner with
    | .col n seq rep =>
      if (m.range n).hostReps.contains (seq, rep) then
        m.updRange n (fun r => { r with hostData := Sparse.putRun (fun _ => 0) r.hostData pa data })
      else m
    | o => m.updCopies o (fun j => { j with arrived := Sparse.putRun (fun _ => 0) j.arrived pa data })

/-- A write is acknowledged: the store or push that waited for it may be performed (R28). -/
def Mach.hostAck (m : Mach) (t : HostTxn) : Mach :=
  let m := m.endTxn t
  match t.owner with
  | .talus n seq rep =>
    if m.txnsOf (.talus n seq rep) = 0 ∧ (m.range n).talus.any (fun p => decide (p.seq = seq)) then m.didRep n 4 seq else m
  | .cmd _ c _ => m.tryRelease c
  | _ => m

/-- The stop that a failed transaction brings on a range (R590). -/
def Mach.hostStop (m : Mach) (n st seq rep : Nat) : Mach :=
  match m.streamOn n, ((m.range n).seqOf st).find? (fun p => decide (p.seq = seq)) with
  | some s, some p => m.stopStream s.id St.internal [p.stopAt n st St.internal 0 rep]
  | _, _ => m

/-- A FRAME_PUSH that depends on a failed transaction ends with INTERNAL; a copy will end with it (R590). -/
def Mach.failOwner (m : Mach) (t : HostTxn) : Mach :=
  let pa := t.addr + 2 ^ 47
  let before (j : CopyJob) : Nat := match m.ctx j.ctx with
    | none => 0
    | some x => ((x.goodMoves j).1.takeWhile (fun mv => (x.targets [mv]).all (fun q => decide (q / 64 * 64 ≠ pa)))).length
  let lost (j : CopyJob) : CopyJob := { j with failed := St.internal, moved := min j.moved (before j) }
  match t.owner with
  | .col n seq rep => m.hostStop n 1 seq rep
  | .talus n seq rep => m.hostStop n 4 seq rep
  | .cmd lane c tag =>
    (match ((m.ctx c).bind (fun x => x.pushWait)).filter (fun p => decide (p.lane = lane) && decide (p.tag = tag)) with
     | some _ => ((m.updCtx c (fun x => { x with pushWait := none })).reown (fun o => if o = t.owner then .nobody else o)).finish
         lane c tag Op.framePush St.internal
     | none => m.updCopies t.owner lost)
  | o => m.updCopies o lost

/-- A transaction has failed (R590). -/
def Mach.hostFail (m : Mach) (t : HostTxn) : Mach :=
  ((((m.addF Reg.SWITE_HOST_ERRORS Fld.SWITE_HOST_ERRORS_COUNT 1).tally 303 2).trouble 7).endTxn t).failOwner t

def hostTxnCompletion (tag : Nat) (r : TxnResult) (m : Mach) : Mach :=
  match m.swite.txns.find? (fun t => decide (t.tag = tag)) with
  | none => m
  | some t =>
    (match r with
     | .error => m.hostFail t
     | .completion data => if !t.write ∧ data.length = t.data.length then m.hostRead t data else m
     | .ack => if t.write then m.hostAck t else m).settleUnmaps

def hostTxnTimeout (tag : Nat) (m : Mach) : Mach :=
  match m.swite.txns.find? (fun t => decide (t.tag = tag)) with
  | none => m
  | some t => if t.since + ms 1 ≤ m.clk then (m.hostFail t).settleUnmaps else m

/-! ### Bandwidth grants (R286 to R288), in MB/s -/

/-- The weight and the demand of a class. -/
structure Share where
  weight : Rat
  demand : Rat
  deriving DecidableEq, Repr

/-- What a class has once the loop of R287 has shared out `level` of the spare bandwidth for each unit of weight. -/
def Share.at (s : Share) (level : Rat) : Rat := min s.demand (min s.demand (4800000 * s.weight / 64) + s.weight * level)

/-- The five grants at a level: the fabric keeps its grant, and the ranges have at most what it leaves of the package interface. -/
def grantsAt (l : List Share) (level : Rat) : List Rat :=
  match l with
  | r :: f :: t => min (r.at level) (max 0 (3200000 - f.at level)) :: f.at level :: t.map (fun s => s.at level)
  | _ => []

/-- The levels at which a class is satisfied or the package interface is full: between two of them every grant is linear. -/
def grantBreaks (l : List Share) : List Rat :=
  let base (s : Share) : Rat := min s.demand (4800000 * s.weight / 64)
  let full := l.map (fun s => (s.demand - base s) / s.weight)
  match l with
  | r :: f :: _ =>
    (3200000 - base r - base f) / (r.weight + f.weight) :: (3200000 - r.demand - base f) / f.weight ::
      (3200000 - base r - f.demand) / r.weight :: full
  | _ => full

/-- The level that the loop of R287 comes to: the whole 4.8 TB/s is granted, or every class is satisfied. -/
def grantLevel (l : List Share) : Rat :=
  let total (x : Rat) : Rat := (grantsAt l x).sum
  let breaks := (grantBreaks l).filter (fun x => decide (0 < x))
  if 4800000 ≤ total 0 then 0
  else
    let p := (breaks.filter (fun x => decide (total x < 4800000))).foldl max 0
    match breaks.filter (fun x => decide (p < x)) with
    | [] => p
    | x :: t =>
      let b := t.foldl min x
      p + (4800000 - total p) * (b - p) / (total b - total p)

/-- The weights of `BW_SHARE`, in the order of R287. -/
def Mach.bwWeights (m : Mach) (s : Nat) : List Nat :=
  [Fld.FOOTHILL_BW_SHARE_RANGE, Fld.FOOTHILL_BW_SHARE_FABRIC, Fld.FOOTHILL_BW_SHARE_TARN, Fld.FOOTHILL_BW_SHARE_BELAY,
   Fld.FOOTHILL_BW_SHARE_SCRUB].map (fun f => m.rdF (Reg.FOOTHILL_BW_SHARE s) f)

/-- The grants of R287 in MB/s. Its loop tends to them: each round that grants more to the fabric takes as much from the ranges, so that
spare bandwidth comes back and the rounds need not end. (DEDUCED, log entry 17.) -/
def grantsOf (weights demand : List Nat) : List Rat :=
  let l := (weights.zip (List.range 5)).map (fun (w, i) =>
    let d : Rat := (demand.getD i 0 : Nat)
    { weight := (w : Rat), demand := if i ≤ 1 then min d 3200000 else d : Share })
  grantsAt l (grantLevel l)

/-- A weight of `RANGE_WEIGHT`. -/
def Mach.rangeWeight (m : Mach) (n : Nat) : Nat := bitsOf (m.rd (Reg.LEDGE_RANGE_WEIGHT (n / 8))).toNat (4 * (n % 8)) 4

/-- A total shared by weight among the requesters with demand (R288). -/
def shareOut (total : Rat) (l : List (Nat × Nat)) : List Rat :=
  let sum : Rat := (((l.filter (fun y => decide (y.2 ≠ 0))).map (fun y => y.1)).sum : Nat)
  l.map (fun y => if y.2 = 0 then 0 else total * (y.1 : Rat) / sum)

/-- GRANT_WINDOW: a stack's five class grants (R287), its ranges' shares, and the shares at its Massif's Ledge base (R288). The
demand lists the five classes, then the 16 ranges at the stack, then the 16 ranges and the die-to-die port at the base. -/
def grantWindow (s : Nat) (demand : List Nat) (m : Mach) : Mach :=
  let g := grantsOf (m.bwWeights s) demand
  let ranges := (List.range 16).map (fun n => (m.rangeWeight n, demand.getD (5 + n) 0))
  let d2d := m.rdF Reg.LEDGE_D2D_WEIGHT (if s < 6 then Fld.LEDGE_D2D_WEIGHT_MASSIF_A else Fld.LEDGE_D2D_WEIGHT_MASSIF_B)
  let base := (List.range 16).map (fun n => (m.rangeWeight n, demand.getD (21 + n) 0)) ++ [(d2d, demand.getD 37 0)]
  let q := m.updStack s (fun x => { x with grants := g, rangeGrants := shareOut (g.getD 0 0) ranges })
  { q with mem := { q.mem with ledgeGrants := q.mem.ledgeGrants.set (s / 6) (shareOut 48000000 base) } }

/-! ### Patrol (R278) -/

/-- The sector of a Ledge tier that patrol reads: tiers alternate every 256 bytes (R260). -/
def tierSector (base tier k : Nat) : Nat := 0x020000000000 + base * 0x100000000 + (k / 4) * 512 + tier * 256 + k % 4 * 64

/-- One sector is read and corrected; a word that cannot be is rewritten poisoned (R275, R276, R278). -/
def Mach.patrolSector (m : Mach) (pa : Nat) (e : Ecc) : Mach :=
  let words := sectorWords pa
  (m.badWords e words).foldl (fun m w => m.setPoison w) (m.checkWords srcPatrol 0 e words)

/-- PATROL_READ: units 0 to 11 are the stacks, 12 to 15 the tiers of Ledge under Massif A and B. -/
def patrolRead (unit : Nat) (e : Ecc) (m : Mach) : Mach :=
  if unit < 12 then
    (if m.rdF (Reg.FOOTHILL_STATUS unit) Fld.FOOTHILL_STATUS_STATE ≠ 3 then m
     else
       let k := (m.stack unit).patrolAt
       (m.patrolSector (unit * 2 ^ 37 + 64 * k) e).updStack unit (fun x => { x with patrolAt := (k + 1) % 2 ^ 31 }))
  else if unit < 16 then
    (let b := (unit - 12) / 2
     if m.rdF Reg.LEDGE_MEM_SUMMARY (if b = 0 then Fld.LEDGE_MEM_SUMMARY_LEDGE_A_READY else Fld.LEDGE_MEM_SUMMARY_LEDGE_B_READY) ≠ 1 then m
     else
       let k := m.mem.patrolLedge.getD (unit - 12) 0
       let q := m.patrolSector (tierSector b (unit % 2) k) e
       { q with mem := { q.mem with patrolLedge := q.mem.patrolLedge.set (unit - 12) ((k + 1) % 2 ^ 25) } })
  else m

/-! ### Bulk scrubs (R269, R277, R279 to R285) -/

def stackState (m : Mach) (s v : Nat) : Mach := m.wrF (Reg.FOOTHILL_STATUS s) Fld.FOOTHILL_STATUS_STATE v

def Mach.showProgress (m : Mach) (s active kind frames : Nat) : Mach :=
  ((m.wrF (Reg.FOOTHILL_SCRUB_PROGRESS s) Fld.FOOTHILL_SCRUB_PROGRESS_ACTIVE active).wrF
    (Reg.FOOTHILL_SCRUB_PROGRESS s) Fld.FOOTHILL_SCRUB_PROGRESS_KIND kind).wrF
    (Reg.FOOTHILL_SCRUB_PROGRESS s) Fld.FOOTHILL_SCRUB_PROGRESS_FRAMES frames

/-- A whole-memory scrub begins on every stack that has not failed (R280). -/
def Mach.startScrub (m : Mach) : Mach :=
  let m := m.each ((List.range 12).filter (fun s => !m.stackFailed s)) (fun m s =>
    (((stackState m s 2).wrF (Reg.FOOTHILL_STATUS s) Fld.FOOTHILL_STATUS_SCRUB_DONE 0).showProgress s 1 0 0).updStack s
      (fun x => { x with scrubbing := true }))
  m.wrF Reg.LEDGE_MEM_SUMMARY Fld.LEDGE_MEM_SUMMARY_SCRUB_COMPLETE 0

/-- The frames of a stack. -/
def stackFrames (s : Nat) : FrameRun := { first := s * 2097152, count := 2097152 }

/-- Whether every healthy stack has set `SCRUB_DONE`. -/
def Mach.scrubComplete (m : Mach) : Bool :=
  (List.range 12).all (fun s => m.stackFailed s || decide (m.rdF (Reg.FOOTHILL_STATUS s) Fld.FOOTHILL_STATUS_SCRUB_DONE = 1))

/-- The OWNER_TRANSFERs that wait for the scrub to end reply (R559). -/
def Mach.tellScrub (m : Mach) : Mach :=
  let q : Mach := { m with cairn := { m.cairn with ownerScrub := [] } }
  m.cairn.ownerScrub.foldl (fun m w => m.finish w.1 0xFF w.2 Op.ownerTransfer St.done) q

/-- A stack's whole-memory scrub is done: its memory is zero, no word of it is poisoned (R279). (DESIGN CHOICE, log entry 21.) -/
def wholeMemoryScrubDone (s : Nat) (m : Mach) : Mach :=
  if !(m.stack s).scrubbing then m
  else
    let m := m.zeroMem (fun a => decide (s * 2 ^ 37 ≤ a) && decide (a < (s + 1) * 2 ^ 37))
    let m : Mach := { m with mem := { m.mem with sealed := runsMinus m.mem.sealed (stackFrames s),
                                                 scrubQueue := m.mem.scrubQueue.filter (fun q => decide (q.1 ≠ s)) } }
    let m := (m.updStack s (fun x => { x with scrubbing := false, current := ⟨true, []⟩, captured := ⟨false, []⟩ })).showDirty s
    let m := ((stackState m s 3).wrF (Reg.FOOTHILL_STATUS s) Fld.FOOTHILL_STATUS_SCRUB_DONE 1).showProgress s 0 0 2097152
    if m.scrubComplete then (m.wrF Reg.LEDGE_MEM_SUMMARY Fld.LEDGE_MEM_SUMMARY_SCRUB_COMPLETE 1).tellScrub else m

/-- The frames that one destroyed context leaves on a stack wait for one frame scrub (R279). -/
def Mach.queueScrub (m : Mach) (s : Nat) (l : List FrameRun) : Mach :=
  if l = [] then m
  else
    let first := !m.mem.scrubQueue.any (fun q => decide (q.1 = s))
    let q : Mach := { m with mem := { m.mem with scrubQueue := m.mem.scrubQueue ++ [(s, l)] } }
    if first ∧ !(m.stack s).scrubbing then q.showProgress s 1 1 0 else q

/-- Zeroing a run of frames (R269, R279): contents, poison and seals go. -/
def Mach.zeroRun (m : Mach) (r : FrameRun) : Mach :=
  let m := m.zeroMem (fun a => decide (r.first * 65536 ≤ a) && decide (a < (r.first + r.count) * 65536))
  { m with mem := { m.mem with sealed := runsMinus m.mem.sealed r } }

/-- FRAME_SCRUB_DONE: the oldest frame scrub whose stack runs no whole-memory scrub has zeroed its frames (R279, R283). -/
def frameScrubDone (m : Mach) : Mach :=
  match m.mem.scrubQueue.find? (fun q => !(m.stack q.1).scrubbing) with
  | none => m
  | some (s, l) =>
    let m := l.foldl (fun m r => (List.range' r.first r.count).foldl (fun m f => m.markDirty (f * 65536)) (m.zeroRun r)) m
    let m : Mach := { m with mem := { m.mem with scrubQueue := m.mem.scrubQueue.erase (s, l) } }
    let more := m.mem.scrubQueue.any (fun q => decide (q.1 = s))
    if more then m.showProgress s 1 1 0 else m.showProgress s 0 1 (l.map (fun r => r.count)).sum

/-! ### Rows -/

def execMemMap (h : Hdr) (va size pa page write pdom : Nat) (s : State) : Host.Outcome State Fault Refusal :=
  s.run (fun m => m.command Op.memMap h [] (memMapBody h va size pa page write pdom))
def execMemUnmap (h : Hdr) (va size : Nat) (s : State) : Host.Outcome State Fault Refusal :=
  s.run (fun m => m.command Op.memUnmap h (leBytes va 8 ++ leBytes size 8) (memUnmapBody h va size))
def execMemCopy (h : Hdr) (src dst length slot : Nat) (s : State) : Host.Outcome State Fault Refusal :=
  s.run (fun m => m.command Op.memCopy h (leBytes src 8 ++ leBytes dst 8) (memCopyBody h src dst length slot))
def execMemFill (h : Hdr) (dst pattern length : Nat) (s : State) : Host.Outcome State Fault Refusal :=
  s.run (fun m => m.command Op.memFill h (leBytes dst 8 ++ leBytes pattern 4) (memFillBody h dst pattern length))
def execCopyComplete (index : Nat) (ecc : Ecc) (s : State) : Host.Outcome State Fault Refusal := s.run (copyComplete index ecc)
def execHostTxnCompletion (tag : Nat) (result : TxnResult) (s : State) : Host.Outcome State Fault Refusal :=
  s.run (hostTxnCompletion tag result)
def execHostTxnTimeout (tag : Nat) (s : State) : Host.Outcome State Fault Refusal := s.run (hostTxnTimeout tag)
def execGrantWindow (k : Fin 12) (demand : List Nat) (s : State) : Host.Outcome State Fault Refusal := s.run (grantWindow k demand)
def execPatrolRead (unit : Nat) (ecc : Ecc) (s : State) : Host.Outcome State Fault Refusal := s.run (patrolRead unit ecc)
def execWholeMemoryScrubDone (k : Fin 12) (s : State) : Host.Outcome State Fault Refusal := s.run (wholeMemoryScrubDone k)
def execFrameScrubDone (s : State) : Host.Outcome State Fault Refusal := s.run frameScrubDone

end Sys2Proof.Machine
end

