-- ==== Sys2Proof/Machine/Belay.lean ====
section
/-!
DEFINITION. Belay (13_belay): plans, mirror rounds at the group master, the freeze and the mirror at a ward, slots and catch-up
at a buddy, and restoring. A unit is 64 KiB; the frames of one unit arrive as one command.
-/

namespace Sys2Proof.Machine

/-! ### What a mirror holds (R461, R462, R465) -/

/-- The 64 bytes of a descriptor (R47). -/
def Desc.toBytes (d : Desc) : List Byte :=
  leBytes (d.layout * 2 ^ 60 + d.rank * 2 ^ 57 + b2n d.valid * 2 ^ 56 + d.fmt * 2 ^ 52 + d.base + b2n d.padWrite * 32 + b2n d.index * 16 +
    b2n d.gradAccum * 8 + b2n d.gradient * 4 + b2n d.activation * 2 + b2n d.weight) 8 ++
  leBytes (d.pdom * 2 ^ 56 + b2n d.rsv55 * 2 ^ 55 + d.scaleAxis * 2 ^ 54 + d.scaleBlock * 2 ^ 52 + d.scaleBase + d.rsv5to2 * 4 + d.oor) 8 ++
  ((List.range 6).map (fun i => leBytes (d.ext.getD i 0) 4)).flatten ++ ((List.range 5).map (fun i => leBytes (d.stride.getD (i + 1) 0) 4)).flatten ++
  leBytes (d.rows * 2 ^ 25 + d.cols * 2 ^ 18 + d.padHi1 * 2 ^ 14 + d.padLo1 * 2 ^ 10 + d.padHi0 * 64 + d.padLo0 * 4 + d.padValue) 4

def Region.toBytes (r : Region) : List Byte := leBytes r.va 8 ++ leBytes r.units 4 ++ leBytes (b2n r.tarn) 1 ++ leBytes r.method 1 ++ leBytes 0 2

/-- The 32-byte header and the regions of a Belay plan (R482). -/
def BelayPlan.toBytes (p : BelayPlan) : List Byte :=
  leBytes p.buddy 2 ++ leBytes p.ward 2 ++ leBytes p.portMask 4 ++ leBytes p.interval 2 ++ leBytes p.slotPdom 1 ++
    leBytes p.regions.length 1 ++ leBytes p.slotUnits 4 ++ leBytes p.slotBase 8 ++ leBytes 0 8 ++ (p.regions.map Region.toBytes).flatten

/-- A register of Tarn that a context owns, by stack, kind, slot and index; the last is its value. -/
structure TarnReg where
  stack : Nat
  kind : Nat
  slot : Nat
  index : Nat
  value : Nat
  deriving DecidableEq, Repr

/-- The address of such a register for a context. -/
def TarnReg.addr (r : TarnReg) (c : Nat) : Nat :=
  match r.kind with
  | 0 => (match r.index with | 0 => Reg.FOOTHILL_TARN_TABLE_LO r.stack c | 1 => Reg.FOOTHILL_TARN_TABLE_HI r.stack c | _ => Reg.FOOTHILL_TARN_TABLE_COUNT r.stack c)
  | 1 => Reg.FOOTHILL_TARN_PROG r.stack r.slot
  | 2 => Reg.FOOTHILL_TARN_HP r.stack (8 * r.slot + r.index)
  | 3 => Reg.FOOTHILL_TARN_CODE_LO r.stack (16 * r.slot + r.index)
  | _ => Reg.FOOTHILL_TARN_CODE_HI r.stack (16 * r.slot + r.index)

/-- Whether a context owns a Tarn slot (R342). -/
def Mach.ownsProg (m : Mach) (s p c : Nat) : Bool :=
  decide (m.rdF (Reg.FOOTHILL_TARN_PROG s p) Fld.FOOTHILL_TARN_PROG_VALID = 1) &&
    decide (m.rdF (Reg.FOOTHILL_TARN_PROG s p) Fld.FOOTHILL_TARN_PROG_CONTEXT = c)

/-- The Tarn registers of a context: its table in each stack and the slots it owns (R461). -/
def Mach.tarnRegs (m : Mach) (c : Nat) : List TarnReg :=
  (List.range 12).flatMap (fun s =>
    let one (k p i : Nat) : TarnReg := let r : TarnReg := { stack := s, kind := k, slot := p, index := i, value := 0 }
                                       { r with value := (m.rd (r.addr c)).toNat }
    (List.range 3).map (one 0 0) ++ ((List.range 16).filter (fun p => m.ownsProg s p c)).flatMap (fun p =>
      [one 1 p 0] ++ (List.range 8).map (one 2 p) ++ (List.range 16).map (one 3 p) ++ (List.range 16).map (one 4 p)))

/-- The context record: counts, `CLOSED_STEP` and `CLIP_CFG`, the Belay plan, the descriptor table, the Tarn registers (R461). (DESIGN CHOICE, log entry 57.) -/
def Mach.contextRecord (m : Mach) (x : Ctx) (p : BelayPlan) (step : Nat) : List Byte :=
  let plan := p.toBytes
  let regs := m.tarnRegs p.ctx
  leBytes x.descs.length 4 ++ leBytes step 4 ++ leBytes (m.rd (Reg.TRAVERSE_CLIP_CFG_MAX p.ctx)).toNat 4 ++
    leBytes (m.rd (Reg.TRAVERSE_CLIP_CFG_SCALE p.ctx)).toNat 4 ++ leBytes plan.length 4 ++ leBytes regs.length 4 ++ plan ++
    (x.descs.map (fun e => leBytes e.1 2 ++ e.2.toBytes)).flatten ++
    (regs.map (fun r => leBytes r.stack 1 ++ leBytes r.kind 1 ++ leBytes r.slot 1 ++ leBytes r.index 1 ++ leBytes r.value 4)).flatten

/-- What a context record says. -/
structure CtxRecord where
  step : Nat
  clipMax : Nat
  clipScale : Nat
  plan : Option BelayPlan
  descs : List (Nat × Desc)
  regs : List TarnReg
  deriving DecidableEq, Repr

def CtxRecord.ofBytes (l : List Byte) : CtxRecord :=
  let nd := leAt l 0 4
  let np := leAt l 16 4
  let nr := leAt l 20 4
  let d0 := 24 + np
  let r0 := d0 + 66 * nd
  { step := leAt l 4 4, clipMax := leAt l 8 4, clipScale := leAt l 12 4, plan := belayPlanCheck ((l.drop 24).take np) 0,
    descs := (List.range nd).map (fun i => (leAt l (d0 + 66 * i) 2, Desc.ofBytes ((l.drop (d0 + 66 * i + 2)).take 64))),
    regs := (List.range nr).map (fun i => { stack := leAt l (r0 + 8 * i) 1, kind := leAt l (r0 + 8 * i + 1) 1, slot := leAt l (r0 + 8 * i + 2) 1,
                                            index := leAt l (r0 + 8 * i + 3) 1, value := leAt l (r0 + 8 * i + 4) 4 }) }

/-- The runs of the Tarn-state region: the current half of each record's state, compute copies and scales (R326, R462). -/
def Mach.tarnRuns (m : Mach) (x : Ctx) (c : Nat) : List (Nat × Nat) :=
  (m.allRecords x c).flatMap (fun r =>
    let rec_ := r.2.2
    let p := m.tarnProg r.1 rec_.prog
    let copy (second : Bool) (h : Nat) : List (Nat × Nat) := match x.desc h with
      | none => []
      | some d => let e := rec_.place second rec_.half d
                  (e.base, e.spanBytes) :: (if e.block = 0 then [] else [(e.scaleBase, e.scaleBytes)])
    let n := (x.desc rec_.hW).elim 0 (fun d => d.count)
    (rec_.stateAt rec_.half, arrayBytes n * (1 + p.momentCount)) :: copy false rec_.hW ++ (if rec_.copy2 = 2 then copy true rec_.hW2 else []))

/-- The virtual addresses of a region's bytes, in order. -/
def Mach.regionBytes (m : Mach) (x : Ctx) (c : Nat) (r : Region) : List Nat :=
  if r.tarn then (m.tarnRuns x c).flatMap (fun y => List.range' y.1 y.2) else List.range' r.va (65536 * r.units)

def Mach.regionUnits (m : Mach) (x : Ctx) (c : Nat) (r : Region) : Nat :=
  if r.tarn then (((m.tarnRuns x c).map (fun y => y.2)).sum + 65535) / 65536 else r.units

/-- The bytes of one unit of a region. -/
def Mach.unitBytes (m : Mach) (x : Ctx) (c : Nat) (r : Region) (u : Nat) : List Nat := ((m.regionBytes x c r).drop (65536 * u)).take 65536

/-- The offset in the slot at which each region begins (R465). -/
def Mach.regionOffsets (m : Mach) (x : Ctx) (p : BelayPlan) : List (Nat × Region) :=
  (p.regions.foldl (fun (a : Nat × List (Nat × Region)) r => (a.1 + m.regionUnits x p.ctx r, a.2 ++ [(a.1, r)])) (129, [])).2

/-- The mirror's size in units: header, context record and regions. -/
def Mach.mirrorSize (m : Mach) (x : Ctx) (p : BelayPlan) : Nat := 129 + (p.regions.map (m.regionUnits x p.ctx)).sum

/-! ### Trackers (R284) -/

def Tracker.union (a b : Tracker) : Tracker := if a.full || b.full then ⟨true, []⟩ else ⟨false, b.frames.foldl (fun l f => insertNat f l) a.frames⟩

/-- The trackers of every stack captured at once. -/
def Mach.captureAll (m : Mach) : Mach :=
  m.each (List.range 12) (fun m s => (m.updStack s (fun t => { t with captured := t.captured.union t.current, current := ⟨false, []⟩ })).showDirty s)

/-- The trackers released. -/
def Mach.releaseAll (m : Mach) : Mach :=
  m.each (List.range 12) (fun m s => (m.updStack s (fun t => { t with captured := ⟨false, []⟩ })).showDirty s)

/-- Whether the frame of a unit's first byte was captured. -/
def Mach.unitDirty (m : Mach) (x : Ctx) (va : Nat) : Bool :=
  match x.phys va with
  | some pa => (match placeOf pa with | .foothill s => (m.stack s).captured.has (pa % 2 ^ 37 / 65536) | _ => false)
  | none => false

/-- Whether a range region touches Ledge (R463). -/
def Ctx.touchesLedge (x : Ctx) (r : Region) : Bool :=
  !r.tarn && (List.range r.units).any (fun u => (x.phys (r.va + 65536 * u)).elim false (fun pa => match placeOf pa with | .ledge _ => true | _ => false))

/-- The percentage of a range region's frames that are dirty. -/
def Mach.dirtyPct (m : Mach) (x : Ctx) (r : Region) : Nat :=
  if r.tarn || decide (r.units = 0) then 0
  else 100 * ((List.range r.units).filter (fun u => m.unitDirty x (r.va + 65536 * u))).length / r.units

/-- Whether region `i` is sent full (R463, R464). -/
def Mach.sentFull (m : Mach) (x : Ctx) (i : Nat) (r : Region) : Bool :=
  let last := (m.belay.lastDirty.find? (fun e => decide (e.1 = i))).map (fun e => e.2)
  !m.belay.buddyHasSlot || !m.belay.committedSincePower || r.tarn || x.touchesLedge r || decide (r.method = 1) ||
    (decide (r.method = 0) && (decide (r.units < 16) || last.elim false (fun q => decide (m.rdF Reg.BELAY_CFG Fld.BELAY_CFG_AUTO_PCT < q))))

/-! ### The path to the buddy (R472, R474, R476) -/

def Mach.belayPorts (m : Mach) (p : BelayPlan) : List Nat :=
  if p.portMask = 0 then (m.routeTo p.buddy).toList else (maskBits p.portMask 32).filter (fun q => decide (m.portState q = 4))

/-- The path's payload rate in MB/s. -/
def Mach.belayRate (m : Mach) (p : BelayPlan) : Rat :=
  ((m.belayPorts p).map (fun q =>
    let lanes := (maskBits (m.rdF (Reg.PORT_STATUS q) Fld.PORT_STATUS_TX_LANES) 8).length
    (((if m.encrypted q then 116320 else 118170) * lanes : Nat) : Rat) / 8)).sum

/-- The `BELAY` grant of a stack in MB/s: its last window's, or its share of the array. -/
def Mach.belayGrant (m : Mach) (s : Nat) : Rat :=
  let g := (m.stack s).grants.getD 3 0
  if 0 < g then g else 4800000 * (m.rdF (Reg.FOOTHILL_BW_SHARE s) Fld.FOOTHILL_BW_SHARE_BELAY : Rat) / 64

/-- T_F of R476 in µs, for the units sent. -/
def Mach.predictUs (m : Mach) (x : Ctx) (p : BelayPlan) (recordBytes : Nat) (vas : List Nat) : Nat :=
  let total : Rat := ((recordBytes + vas.length : Nat) : Rat)
  let link := if m.belayRate p = 0 then 0 else total / m.belayRate p
  let perStack := (List.range 12).map (fun s =>
    (((vas.filter (fun va => decide ((x.phys va).map placeOf = some (.foothill s)))).length : Nat) : Rat) / m.belayGrant s)
  (200 + perStack.foldl max link).floor.toNat

/-! ### The freeze and the mirror (R471 to R474) -/

def Mach.belaySend (m : Mach) (b : BelayMsg) : Mach := { m with belay := { m.belay with sent := m.belay.sent ++ [b] } }
def Mach.setBelayState (m : Mach) (v : Nat) : Mach := m.wrF Reg.BELAY_STATUS Fld.BELAY_STATUS_STATE v

/-- The JOINs that a freeze held are sent (R471). -/
def Mach.sendHeldJoins (m : Mach) (c : Nat) : Mach :=
  let m := match (m.ctx c).bind (fun x => x.step) with
    | some s => if m.stepState c = 1 ∧ s.t0 = none then m.sendJoin c 0 s.step else m
    | none => m
  match (m.ctx c).bind (fun x => x.next) with
  | some s => if s.t0 = none then m.sendJoin c 8192 s.step else m
  | none => m

/-- The freeze ends: the mirror has committed, or it has failed with a code (R473, R474). -/
def Mach.endFreeze (m : Mach) (code : Nat) : Mach :=
  match m.belay.mirror, m.belay.plan with
  | some r, some p =>
    let m : Mach := { m with belay := { m.belay with mirror := none, lastBuddy := some p.buddy, buddyHasSlot := if code = 0 then true else if code = 4 then false else m.belay.buddyHasSlot,
                                                     committedSincePower := m.belay.committedSincePower || decide (code = 0) } }
    let m := (m.setBelayState 1).wrF Reg.BELAY_STATUS Fld.BELAY_STATUS_LAST_RESULT code
    let m := m.wr Reg.BELAY_LAST_FREEZE (BitVec.ofNat 32 ((m.clk - r.began) / 10000))
    let m := if code = 0 then (m.addF Reg.BELAY_COUNTS Fld.BELAY_COUNTS_ROUNDS_OK 1).releaseAll
      else ((m.addF Reg.BELAY_COUNTS Fld.BELAY_COUNTS_ROUNDS_FAILED 1).trouble 9).tally 305 0
    (m.toMaster p.ctx (.mirrored (m.groupRank (m.groupOf p.ctx)) r.round code)).sendHeldJoins p.ctx
  | _, _ => m

/-- The poisoned or uncorrectable words of a run of virtual bytes, as offsets from its start. -/
def Mach.badOffsets (m : Mach) (x : Ctx) (e : Ecc) (vas : List Nat) : List Nat :=
  ((List.range vas.length).zip vas).filterMap (fun y => (x.phys y.2).bind (fun pa =>
    if pa % 8 = 0 ∧ (m.badWords e [pa]) ≠ [] then some y.1 else none))

/-- The units of a region that are sent. -/
def Mach.unitsSent (m : Mach) (x : Ctx) (p : BelayPlan) (i : Nat) (r : Region) : List Nat :=
  if m.sentFull x i r then List.range (m.regionUnits x p.ctx r)
  else (List.range r.units).filter (fun u => m.unitDirty x (r.va + 65536 * u))

/-- A run of bytes cut into units. -/
def cutUnits (l : List Byte) : List (List Byte) := (List.range ((l.length + 65535) / 65536)).map (fun i => (l.drop (65536 * i)).take 65536)

/-- The mirror leaves for the buddy: the open frame, then every unit (R471, R472). -/
def Mach.sendMirror (m : Mach) (x : Ctx) (p : BelayPlan) (round step : Nat) (e : Ecc) : Mach :=
  let idx := (List.range p.regions.length).zip (m.regionOffsets x p)
  let plan := idx.map (fun y => (y.2.1, y.2.2, m.unitsSent x p y.1 y.2.2, y.1))
  let record := cutUnits (m.contextRecord x p step)
  let units := (List.range record.length).map (fun i => i + 1) ++ plan.flatMap (fun y => y.2.2.1.map (fun u => y.1 + u))
  let bytes := plan.flatMap (fun y => y.2.2.1.flatMap (fun u => m.unitBytes x p.ctx y.2.1 u))
  let shown := idx.map (fun y => (y.1, m.sentFull x y.1 y.2.2, m.dirtyPct x y.2.2))
  let us := m.predictUs x p (record.map List.length).sum bytes
  let msgs : List BelayMsg := ((List.range record.length).zip record).map (fun y => BelayMsg.data p.buddy round (y.1 + 1) [] y.2) ++
    plan.flatMap (fun y => y.2.2.1.map (fun u =>
      let vas := m.unitBytes x p.ctx y.2.1 u
      BelayMsg.data p.buddy round (y.1 + u) (m.badOffsets x e vas) (vas.map (m.linkByte x))))
  let m := m.checkWords srcBelay 0 e ((bytes.filterMap x.phys).filter (fun pa => decide (pa % 8 = 0)))
  let m := shown.foldl (fun m y => m.wr (Reg.BELAY_REGION_DIRTY y.1) (BitVec.ofNat 32 (b2n y.2.1 * 2 ^ 31 + y.2.2))) m
  let m : Mach := { m with belay := { m.belay with lastDirty := shown.map (fun y => (y.1, y.2.2)) } }
  let m := (m.wr Reg.BELAY_PREDICT (BitVec.ofNat 32 us)).belaySend (.opening p.buddy round step (m.mirrorSize x p) units)
  (msgs.foldl (fun m b => m.belaySend b) m).drawn

/-- MIRROR at a member (R464, R471): the freeze begins, the trackers are captured and the mirror leaves; a member that sends no
mirror answers at once. (DEDUCED, log entry 58.) -/
def Mach.takeMirror (m : Mach) (g round k l : Nat) (e : Ecc) : Mach :=
  match (m.ctxOf g).bind (fun c => (m.ctx c).map (fun x => (c, x))) with
  | none => m
  | some (c, x) =>
    if m.belay.mirror.isSome then m
    else
      let m : Mach := { m.wr Reg.BELAY_ROUND (BitVec.ofNat 32 l) with belay := { m.belay with sinceRound := k } }
      match m.belay.plan.filter (fun p => decide (p.ctx = c) && decide (p.buddy ≠ 0xFFF)) with
      | none => m.toMaster c (.mirrored (m.groupRank g) round 0)
      | some p =>
        let m : Mach := { m with belay := { m.belay with mirror := some { round := round, step := k, began := m.clk } } }
        let m := (m.setBelayState 2).captureAll
        if m.belayPorts p = [] then m.endFreeze 2 else m.sendMirror x p round k e

/-- BELAY_COMMIT_FRAME: the buddy has committed the slot, or refuses the mirror (R473, R474). -/
def belayCommitFrame (src round result : Nat) (m : Mach) : Mach :=
  match m.belay.mirror, m.belay.plan with
  | some r, some p => if r.round = round ∧ p.buddy = src then m.endFreeze result else m
  | _, _ => m

/-- MIRROR_TIMEOUT (code 0x01). -/
def mirrorTimeout (m : Mach) : Mach :=
  match m.belay.mirror with
  | some r => if r.began + secs (m.rdF Reg.BELAY_CFG Fld.BELAY_CFG_TIMEOUT_S) ≤ m.clk then m.endFreeze 1 else m
  | none => m

/-- A port has gone down: with no port of the path up, a mirror fails (code 0x02). -/
def Mach.belayPathDown (m : Mach) : Mach :=
  match m.belay.mirror, m.belay.plan with
  | some _, some p => if m.belayPorts p = [] then m.endFreeze 2 else m
  | _, _ => m

/-- A new fabric plan: a mirror whose path or group it changes fails (code 0x05). -/
def Mach.belayNewPlan (m : Mach) (old : Option Plan) : Mach :=
  match m.belay.mirror, m.belay.plan, old, m.plan with
  | some _, some p, some a, some b =>
    let path (q : Plan) : List PortEntry × Nat := if p.portMask = 0 then ([], q.route p.buddy) else ((maskBits p.portMask 32).map q.port, 0)
    if a.group ≠ b.group ∨ a.size ≠ b.size ∨ a.rank ≠ b.rank ∨ path a ≠ path b then m.endFreeze 5 else m
  | some _, _, _, _ => m.endFreeze 5
  | _, _, _, _ => m

/-! ### The group master (R470, R475, R483) -/

/-- MIRRORED at the master; with every rank's, ROUND_END. -/
def Mach.takeMirrored (m : Mach) (g rank round result : Nat) : Mach :=
  if !m.isMaster g ∨ !m.belay.roundOpen ∨ round ≠ m.belay.round ∨ m.belay.results.any (fun r => decide (r.1 = rank)) then m
  else
    let rs := m.belay.results ++ [(rank, result)]
    let m : Mach := { m with belay := { m.belay with results := rs } }
    if rs.length < m.groupSize g then m
    else
      let complete := rs.all (fun r => decide (r.2 = 0))
      let l := if complete then m.belay.roundStep else (m.rd Reg.BELAY_ROUND).toNat
      ({ m with belay := { m.belay with roundOpen := false } } : Mach).flood g (.roundEnd round complete l)

/-! ### Slots at the buddy (R465 to R468, R472, R473) -/

def Mach.slotSt (m : Mach) (x : Nat) : SlotSt := if x = 0 then m.belay.slotA else m.belay.slotB
def Mach.setSlot (m : Mach) (x : Nat) (v : SlotSt) : Mach :=
  { m with belay := if x = 0 then { m.belay with slotA := v } else { m.belay with slotB := v } }

/-- The slot registers and flags brought up to date (R484, R486). -/
def Mach.showSlots (m : Mach) : Mach :=
  let writing (x : Nat) : Bool := m.belay.landing.elim false (fun l => decide (l.slot = x)) || m.belay.catchUp.elim false (fun c => decide (c.1 = x))
  let m := m.each [0, 1] (fun m x =>
    ((m.wrF (Reg.BELAY_SLOT x) Fld.BELAY_SLOT_VALID (b2n (m.slotSt x).valid)).wrF (Reg.BELAY_SLOT x) Fld.BELAY_SLOT_WRITING (b2n (writing x))).wr
      (Reg.BELAY_SLOT_STEP x) (BitVec.ofNat 32 (m.slotSt x).step))
  (m.wrF Reg.BELAY_STATUS Fld.BELAY_STATUS_WARD_RECV (b2n m.belay.landing.isSome)).wrF Reg.BELAY_STATUS Fld.BELAY_STATUS_CATCHUP (b2n m.belay.catchUp.isSome)

/-- The virtual address of a unit of a slot. -/
def BelayPlan.unitVa (p : BelayPlan) (slot unit : Nat) : Nat := p.slotBase + 65536 * (slot * p.slotUnits + unit)

/-- Bytes that land at a virtual address, their marked words poisoned (R396). -/
def Mach.landBytes (m : Mach) (x : Ctx) (va : Nat) (data : List Byte) (poison : List Nat) : Mach :=
  (poison.filterMap (fun o => x.phys ((va + o) / 8 * 8))).foldl (fun m w => m.setPoison w) (m.writeVa x va data)

/-- A slot's header: `VALID`, the step and the ward's serial (R465, R466). (DESIGN CHOICE, log entry 57.) -/
def slotHeader (valid step serial : Nat) : List Byte := leBytes valid 4 ++ leBytes step 4 ++ leBytes serial 8

/-- The slot that holds step L, if one does. -/
def Mach.slotWith (m : Mach) (l : Nat) : Option Nat := [0, 1].find? (fun x => (m.slotSt x).valid && decide ((m.slotSt x).step = l))

/-- MIRROR_OPEN (R465 to R467, R474): the slot that does not hold L becomes the target, or the mirror is refused. -/
def mirrorOpen (src round step size serial : Nat) (units : List Nat) (m : Mach) : Mach :=
  match m.belay.plan.filter (fun p => decide (p.ward = src) && decide (src ≠ 0xFFF)) with
  | none => m.belaySend (.commit src round 4)
  | some p =>
    if p.slotUnits < size then m.belaySend (.commit src round 3)
    else
      let t := match m.slotWith (m.rd Reg.BELAY_ROUND).toNat with | some 0 => 1 | _ => 0
      let m := m.setSlot t { (m.slotSt t) with valid := false }
      let m : Mach := { m with belay := { m.belay with landing := some { slot := t, round := round, step := step, serial := serial, units := units, got := [] } } }
      (match m.ctx p.ctx with | some x => m.landBytes x (p.unitVa t 0) (slotHeader 0 0 serial) [] | none => m).showSlots

/-- MIRROR_DATA: one unit lands in the target slot. -/
def mirrorData (src round unit : Nat) (poison : List Nat) (data : List Byte) (m : Mach) : Mach :=
  match m.belay.plan.filter (fun p => decide (p.ward = src)), m.belay.landing with
  | some p, some l =>
    if l.round ≠ round ∨ !l.units.contains unit ∨ l.got.contains unit then m
    else
      let m := match m.ctx p.ctx with | some x => m.landBytes x (p.unitVa l.slot unit) data poison | none => m
      { m with belay := { m.belay with landing := some { l with got := l.got ++ [unit] } } }
  | _, _ => m

/-- SLOT_COMMIT: every announced unit has landed and the catch-up is complete (R466, R473). -/
def slotCommit (m : Mach) : Mach :=
  match m.belay.plan, m.belay.landing with
  | some p, some l =>
    if !l.units.all (fun u => l.got.contains u) ∨ m.belay.catchUp.elim false (fun c => decide (c.1 = l.slot)) then m
    else
      let m := match m.ctx p.ctx with | some x => m.landBytes x (p.unitVa l.slot 0) (slotHeader 1 l.step l.serial) [] | none => m
      let n := m.belay.stamp + 1
      let old := m.slotSt l.slot
      let stamps := l.got.map (fun u => (u, n)) ++ old.unitStamp.filter (fun e => !l.got.contains e.1)
      let m := m.setSlot l.slot { valid := true, step := l.step, stamp := n, unitStamp := stamps }
      let m : Mach := { m with belay := { m.belay with stamp := n, landing := none } }
      (m.showSlots).belaySend (.commit p.ward l.round 0)
  | _, _ => m

/-- The catch-up that a round's end starts: the units of the slot that holds L that are newer than the target's contents, or all
of them (R468). -/
def Mach.startCatchUp (m : Mach) (l : Nat) : Mach :=
  match m.belay.plan.filter (fun p => decide (p.ward ≠ 0xFFF)), m.slotWith l with
  | some p, some h =>
    let t := 1 - h
    let units := if (m.slotSt t).valid then ((m.slotSt h).unitStamp.filter (fun e => decide (129 ≤ e.1) && decide ((m.slotSt t).stamp < e.2))).map (fun e => e.1)
      else List.range' 129 (p.slotUnits - 129)
    if units = [] ∨ m.belay.landing.isSome then m
    else (({ m with belay := { m.belay with catchUp := some (t, units) } } : Mach).setSlot t { (m.slotSt t) with valid := false }).showSlots
  | _, _ => m

/-- CATCH_UP_DONE: the units are copied from the other slot, but for those that a mirror has since written (R468). -/
def catchUpDone (slot : Nat) (m : Mach) : Mach :=
  match m.belay.plan, m.belay.catchUp with
  | some p, some (t, units) =>
    if t ≠ slot then m
    else
      let newer := m.belay.landing.elim [] (fun l => if l.slot = t then l.got else [])
      let m := match m.ctx p.ctx with
        | none => m
        | some x => (units.filter (fun u => !newer.contains u)).foldl (fun m u =>
            let vas := List.range' (p.unitVa (1 - t) u) 65536
            m.landBytes x (p.unitVa t u) (vas.map (m.linkByte x)) (m.badOffsets x { corrected := [], bad := [] } vas)) m
      ({ m with belay := { m.belay with catchUp := none } } : Mach).showSlots
  | _, _ => m

/-- ROUND_END (R470, R475, R483): L is known, catch-up begins, and snapshots are answered at the master. -/
def Mach.takeRoundEnd (m : Mach) (g round : Nat) (complete : Bool) (l : Nat) : Mach :=
  let m := (m.wr Reg.BELAY_ROUND (BitVec.ofNat 32 l)).startCatchUp l
  if !m.isMaster g ∨ round ≠ m.belay.round then m
  else
    let code := if complete then 0 else ((m.belay.results.find? (fun r => decide (r.2 ≠ 0))).map (fun r => r.2)).getD 0
    let asked := m.belay.snapshots
    asked.foldl (fun m q => m.finish q.1 q.2.1 q.2.2 Op.belaySnapshot St.done code) { m with belay := { m.belay with snapshots := [] } }

/-! ### The host's commands (R460, R469, R480 to R483) -/

/-- Whether a context may use Belay. -/
def Mach.belayAllowed (m : Mach) (c : Nat) : Bool := m.groupPlan.isSome && m.bound c

/-- What a header in memory says of a slot. -/
def Mach.readSlot (m : Mach) (x : Ctx) (p : BelayPlan) (slot stamp : Nat) : SlotSt :=
  let h := m.readRun x (p.unitVa slot 0) 16
  if leAt h 0 4 = 1 then { valid := true, step := leAt h 4 4, stamp := stamp, unitStamp := [] } else SlotSt.reset

def belayPlanBody (h : Hdr) (payload : List Byte) (m : Mach) : Mach :=
  match m.ctx h.ctx with
  | none => m.answer h Op.belayPlan St.badParam
  | some x =>
    if !m.belayAllowed h.ctx then m.answer h Op.belayPlan St.notPermitted
    else if m.stepState h.ctx ≠ 0 ∨ m.belay.roundOpen ∨ m.belay.mirror.isSome ∨ m.belay.restoring.isSome then m.answer h Op.belayPlan St.busy
    else match belayPlanCheck payload h.ctx with
      | none => m.answer h Op.belayPlan St.badParam
      | some p =>
        if p.regions.any (fun r => decide (r.method = 2) && x.touchesLedge r) then m.answer h Op.belayPlan St.badParam
        else
          let old := m.belay.plan
          let sameBuddy := decide (m.belay.lastBuddy = some p.buddy)
          let keepWard := old.elim true (fun q => decide (q.ward = p.ward) && decide (q.slotBase = p.slotBase) && decide (q.slotUnits = p.slotUnits))
          let slot (i : Nat) : SlotSt := if p.ward = 0xFFF ∨ !keepWard then SlotSt.reset else if old.isSome then m.slotSt i else m.readSlot x p i 1
          let m : Mach := { m with belay := { m.belay with
            plan := some p, slotA := slot 0, slotB := slot 1, landing := none, catchUp := none, stamp := Nat.max m.belay.stamp 1,
            buddyHasSlot := m.belay.buddyHasSlot && sameBuddy, lastDirty := if sameBuddy then m.belay.lastDirty else [],
            sinceRound := if old.isSome then m.belay.sinceRound else m.closedStep h.ctx } }
          ((m.setBelayState 1).showSlots).answer h Op.belayPlan St.done

def belaySnapshotBody (h : Hdr) (m : Mach) : Mach :=
  if !m.belayAllowed h.ctx ∨ !m.isMaster (m.groupOf h.ctx) then m.answer h Op.belaySnapshot St.notPermitted
  else ({ m with belay := { m.belay with snapshots := m.belay.snapshots ++ [(h.lane, h.ctx, h.tag)] } } : Mach).begin h Op.belaySnapshot

/-- Two plans with the same regions, of the same kinds and sizes. -/
def sameRegions (a b : List Region) : Bool := decide (a.map (fun r => (r.va, r.units, r.tarn)) = b.map (fun r => (r.va, r.units, r.tarn)))

/-- A region that is not wholly mapped with `WRITE`. -/
def Ctx.unmapped (x : Ctx) (r : Region) : Bool :=
  !r.tarn && (List.range r.units).any (fun u => (x.leaf (r.va + 65536 * u)).elim true (fun l => !l.write))

/-- BELAY_RESTORE; `record` is the context record of the buddy's slot for the step, empty where the buddy holds none (R481). -/
def belayRestoreBody (h : Hdr) (step : Nat) (record : List Byte) (m : Mach) : Mach :=
  match m.ctx h.ctx with
  | none => m.answer h Op.belayRestore St.badParam
  | some x =>
    let r := CtxRecord.ofBytes record
    let regions := m.belay.plan.elim [] (fun p => p.regions)
    if !m.belayAllowed h.ctx then m.answer h Op.belayRestore St.notPermitted
    else if m.stepState h.ctx ≠ 0 ∨ m.streams.any (fun s => decide (s.ctx = h.ctx)) ∨ m.belay.restoring.isSome ∨ m.belay.mirror.isSome then
      m.answer h Op.belayRestore St.busy
    else if record = [] ∨ r.step ≠ step then m.answer h Op.belayRestore St.badParam
    else if m.belay.plan.isNone ∨ r.plan.elim true (fun p => !sameRegions p.regions regions) then m.answer h Op.belayRestore St.badParam
    else if regions.any x.unmapped then m.answer h Op.belayRestore St.translationFault
    else if r.regs.any (fun t => decide (t.kind = 1) && decide (m.rdF (Reg.FOOTHILL_TARN_PROG t.stack t.slot) Fld.FOOTHILL_TARN_PROG_VALID = 1) &&
        !m.ownsProg t.stack t.slot h.ctx) then m.answer h Op.belayRestore St.notPermitted
    else (({ m with belay := { m.belay with restoring := some { step := step, record := record, got := [], lane := h.lane, tag := h.tag, ctx := h.ctx } } }
      : Mach).setBelayState 3).begin h Op.belayRestore

/-- Bytes at a list of virtual addresses, with the poisoned offsets among them. -/
def Mach.landAt (m : Mach) (x : Ctx) (vas : List Nat) (data : List Byte) (poison : List Nat) : Mach :=
  let m := (vas.zip data).foldl (fun m y => m.writeVa x y.1 [y.2]) m
  (poison.filterMap (fun o => (vas[o]?).bind (fun va => x.phys (va / 8 * 8)))).foldl (fun m w => m.setPoison w) m

/-- The units of one region that have arrived, written. -/
def Mach.landRegion (m : Mach) (x : Ctx) (c : Nat) (off : Nat) (r : Region) (got : List (Nat × List Byte × List Nat)) : Mach :=
  let n := m.regionUnits x c r
  (got.filter (fun g => decide (off ≤ g.1) && decide (g.1 < off + n))).foldl (fun m g => m.landAt x (m.unitBytes x c r (g.1 - off)) g.2.1 g.2.2) m

/-- The context record is loaded: descriptors, Tarn registers, `CLIP_CFG`, `CLOSED_STEP` (R461, R480). -/
def Mach.loadRecord (m : Mach) (c : Nat) (r : CtxRecord) : Mach :=
  let m := m.updCtx c (fun x => { x with descs := r.descs })
  let m := r.regs.foldl (fun m t =>
    let v : Word := BitVec.ofNat 32 t.value
    m.wr (t.addr c) (if t.kind = 1 then Word.setF v Fld.FOOTHILL_TARN_PROG_CONTEXT c else v)) m
  (((m.wr (Reg.TRAVERSE_CLIP_CFG_MAX c) (BitVec.ofNat 32 r.clipMax)).wr (Reg.TRAVERSE_CLIP_CFG_SCALE c) (BitVec.ofNat 32 r.clipScale)).wr
    (Reg.TRAVERSE_CLOSED_STEP c) (BitVec.ofNat 32 r.step)).setStepState c 0

/-- A restore ends. -/
def Mach.endRestore (m : Mach) (q : RestoreSt) (status : Nat) : Mach :=
  (({ m with belay := { m.belay with restoring := none } } : Mach).setBelayState 1).finish q.lane q.ctx q.tag Op.belayRestore status

/-- A restore that broke off leaves the regions undefined: free values (R481). -/
def Mach.undefinedRegions (m : Mach) (x : Ctx) (c : Nat) (l : List Region) : Mach :=
  (l.foldl (fun m r => (m.regionBytes x c r).foldl (fun m va => m.writeVa x va [Config.unreadByte m.draws va]) m) m).drawn

/-- RESTORE_FRAME: a unit of the buddy's slot; the last completes the restore, range regions first, then the record, then the
Tarn-state region into the halves that the restored records name (R480); a loss ends it with LINK_DOWN (R481). -/
def restoreFrame (unit : Nat) (poison : List Nat) (data : List Byte) (last lost : Bool) (m : Mach) : Mach :=
  match m.belay.restoring, m.belay.plan with
  | some q, some p =>
    match m.ctx q.ctx with
    | none => m
    | some x =>
      if lost then (m.undefinedRegions x q.ctx p.regions).endRestore q St.linkDown
      else
        let q : RestoreSt := { q with got := q.got ++ [(unit, data, poison)] }
        if !last then { m with belay := { m.belay with restoring := some q } }
        else
          let ranges := (m.regionOffsets x p).filter (fun (r : Nat × Region) => !r.2.tarn)
          let m : Mach := ranges.foldl (fun m r => m.landRegion x q.ctx r.1 r.2 q.got) m
          let m := m.loadRecord q.ctx (CtxRecord.ofBytes q.record)
          let m := match m.ctx q.ctx with
            | none => m
            | some y =>
              let tarns := (m.regionOffsets y p).filter (fun (r : Nat × Region) => r.2.tarn)
              tarns.foldl (fun (m : Mach) (r : Nat × Region) => m.landRegion y q.ctx r.1 r.2 q.got) m
          ({ m with belay := { m.belay with sinceRound := q.step } } : Mach).endRestore q St.done
  | _, _ => m

/-- Belay's part in the end of its context: a mirror under way fails with 0x06, and plan, slots and restore go (R474). (DEDUCED, log entry 58.) -/
def Mach.belayDrop (m : Mach) (c : Nat) : Mach :=
  if m.belay.plan.elim true (fun p => decide (p.ctx ≠ c)) then m
  else
    let m := m.endFreeze 6
    let m := match m.belay.restoring with | some q => m.endRestore q St.linkDown | none => m
    let m := m.belay.snapshots.foldl (fun m q => m.finish q.1 q.2.1 q.2.2 Op.belaySnapshot St.stepAborted) m
    let m : Mach := { m with belay := { m.belay with plan := none, landing := none, catchUp := none, slotA := .reset, slotB := .reset,
                                                     buddyHasSlot := false, lastDirty := [], snapshots := [], roundOpen := false } }
    (m.setBelayState 0).showSlots

/-! ### Rows -/

def execBelayPlan (h : Hdr) (payload : List Byte) (s : State) : Host.Outcome State Fault Refusal :=
  s.run (fun m => m.command Op.belayPlan h [] (belayPlanBody h payload))
def execBelaySnapshot (h : Hdr) (s : State) : Host.Outcome State Fault Refusal :=
  s.run (fun m => m.command Op.belaySnapshot h [] (belaySnapshotBody h))
def execBelayRestore (h : Hdr) (step : Nat) (record : List Byte) (s : State) : Host.Outcome State Fault Refusal :=
  s.run (fun m => m.command Op.belayRestore h (leBytes step 4) (belayRestoreBody h step record))
def execMirror (port : Option (Fin 32)) (group round step l : Nat) (ecc : Ecc) (s : State) : Host.Outcome State Fault Refusal :=
  s.run (fun m => m.gotMsg port group (.mirror round step l) (fun m => m.takeMirror group round step l ecc))
def execMirrorOpen (src round step size serial : Nat) (units : List Nat) (s : State) : Host.Outcome State Fault Refusal :=
  s.run (mirrorOpen src round step size serial units)
def execMirrorData (src round unit : Nat) (poison : List Nat) (data : List Byte) (s : State) : Host.Outcome State Fault Refusal :=
  s.run (mirrorData src round unit poison data)
def execCatchUpDone (slot : Fin 2) (s : State) : Host.Outcome State Fault Refusal := s.run (catchUpDone slot)
def execSlotCommit (s : State) : Host.Outcome State Fault Refusal := s.run slotCommit
def execBelayCommitFrame (src round result : Nat) (s : State) : Host.Outcome State Fault Refusal := s.run (belayCommitFrame src round result)
def execMirrorTimeout (s : State) : Host.Outcome State Fault Refusal := s.run mirrorTimeout
def execMirrored (port : Option (Fin 32)) (group rank round result : Nat) (s : State) : Host.Outcome State Fault Refusal :=
  s.run (fun m => m.gotMsg port group (.mirrored rank round result) (fun m => m.takeMirrored group rank round result))
def execRoundEnd (port : Option (Fin 32)) (group round : Nat) (complete : Bool) (l : Nat) (s : State) : Host.Outcome State Fault Refusal :=
  s.run (fun m => m.gotMsg port group (.roundEnd round complete l) (fun m => m.takeRoundEnd group round complete l))
def execRestoreFrame (unit : Nat) (poison : List Nat) (data : List Byte) (last lost : Bool) (s : State) : Host.Outcome State Fault Refusal :=
  s.run (restoreFrame unit poison data last lost)
def execClose (port : Option (Fin 32)) (group step : Nat) (s : State) : Host.Outcome State Fault Refusal :=
  s.run (fun m => m.gotMsg port group (.close step) (fun m => m.takeClose group step))

end Sys2Proof.Machine
end

