-- ==== Sys2Proof/Machine/Context.lean ====
section
/-!
DEFINITION. Contexts (R39, R40, R65, R147, R505, R595): creating one and clearing its ranges, ending one, and what a context reset
stops (R613); and the loads into a context's tables: descriptors (R52 to R55, R223) and stream images (R115 to R121).
-/

namespace Sys2Proof.Machine

/-! ### CONTEXT_CREATE -/

def Mach.freeRanges (m : Mach) : List Nat := (List.range 16).filter (fun n => decide (m.rangeState n = 0))

def maskOf (l : List Nat) : Nat := l.foldl (fun a n => a ||| 2 ^ n) 0

/-- The ranges that R39 assigns: `place` is 0 for either Massif, 1 for A, 2 for B, 3 for an explicit mask. -/
def Mach.placeRanges (m : Mach) (count place mask : Nat) : Option (List Nat) :=
  if place = 3 then
    (let l := maskBits mask 16
     if l.all (fun n => m.freeRanges.contains n) then some l else none)
  else
    let l := m.freeRanges.filter (fun n => decide (place = 0) || (decide (place = 1) == decide (n < 8)))
    if count ≤ l.length then some (l.take count) else none

/-- The first counter of the lowest run of free sync counters (R65). -/
def Mach.syncRun (m : Mach) (k : Nat) : Option Nat :=
  if k = 0 then some 0
  else
    let used := m.ctxs.filterMap (fun o => o.map (fun x => (x.syncBase, x.syncLen)))
    let free (a : Nat) : Bool := decide (a + k ≤ 4096) && used.all (fun r => !runsMeet r.1 r.2 a k)
    let starts := ((0 :: used.map (fun r => r.1 + r.2)).filter free)
    match starts with
    | [] => none
    | a :: t => some (t.foldl min a)

/-- The number that a new context takes: the one named if it is free, or the lowest free one (R595). -/
def Mach.newNumber (m : Mach) (c : Nat) : Option Nat :=
  if c = 0xFF then (List.range 16).find? (fun k => (m.ctx k).isNone)
  else if c < 16 ∧ (m.ctx c).isNone then some c else none

def Ctx.fresh (base len seed pdoms : Nat) : Ctx :=
  { syncBase := base, syncLen := len, seed := seed, pdoms := pdoms, descs := [], images := [], tables := [], maps := [],
    step := none, next := none, holds := [], pass := none, pushWait := none, p0 := none,
    pinned := false }

/-- A range goes to a context: its islands are powered on, and it is cleared (R40, R505). -/
def Mach.assignRange (m : Mach) (c n : Nat) : Mach :=
  let m : Mach := { m with treeline := { m.treeline with offSince := m.treeline.offSince.filter (fun e => decide (e.1 ≠ n)) } }
  let m := m.each (rangeIslands n) (fun m i => m.updIsland i (fun x => { x with powered := true }))
  (m.wrF (Reg.RANGE_STREAM_STATUS n) Fld.RANGE_STREAM_STATUS_CONTEXT c).clearRange n c

/-- A context comes into being. -/
def Mach.makeCtx (m : Mach) (c : Nat) (ranges : List Nat) (x : Ctx) : Mach :=
  let m := m.setCtx c (some x)
  let m := m.each (List.range' x.syncBase x.syncLen) (fun m k => m.wr (Reg.TRAVERSE_SYNC_COUNTER k) 0)
  let m := (m.wrF (Reg.TRAVERSE_CONTEXT_RANGES c) Fld.TRAVERSE_CONTEXT_RANGES_VALID 1).wrF (Reg.TRAVERSE_CONTEXT_RANGES c)
    Fld.TRAVERSE_CONTEXT_RANGES_RANGE_MASK (maskOf ranges)
  let m := (m.wrF (Reg.TRAVERSE_CONTEXT_SYNC c) Fld.TRAVERSE_CONTEXT_SYNC_SYNC_BASE x.syncBase).wrF (Reg.TRAVERSE_CONTEXT_SYNC c)
    Fld.TRAVERSE_CONTEXT_SYNC_SYNC_COUNT x.syncLen
  m.each ranges (fun m n => m.assignRange c n)

/-- CONTEXT_CREATE: its checks, the ranges and counters taken, the registers cleared, the seed (R40, R147, R595). (DESIGN CHOICE, log entry 23.) -/
def contextCreateBody (h : Hdr) (count place mask syncs seed pdoms : Nat) (m : Mach) : Mach :=
  let ok : Bool := if place = 3 then decide (mask ≠ 0) && decide (mask < 65536) && decide (count = (maskBits mask 16).length)
    else decide (place < 3) && decide (mask = 0) && decide (1 ≤ count) && decide (count ≤ 16)
  if !ok ∨ 4096 < syncs then m.answer h Op.contextCreate St.badParam
  else match m.newNumber h.ctx, m.placeRanges count place mask, m.syncRun syncs with
    | some c, some l, some base =>
      let q := if seed = 0 then m.drawn else m
      let s := if seed = 0 then m.draw % 2 ^ 64 else seed
      (q.makeCtx c l (Ctx.fresh base syncs s pdoms)).answer h Op.contextCreate St.done (maskOf l * 65536 + base * 16 + c)
    | _, _, _ => m.answer h Op.contextCreate St.busy

/-- Whether what a RESET waits for has come. -/
def Mach.resetOver (m : Mach) (w : ResetWait) : Bool :=
  match w.what with
  | .ranges mask => (maskBits mask 16).all (fun n => decide (m.rangeState n ≠ 6))
  | .port p => (m.port p).discovered && (!(m.portEntry p).encrypt || (m.port p).keyed ||
      decide (m.rdF (Reg.CAIRN_PORT_KEY p) Fld.CAIRN_PORT_KEY_STATE = 3))
  | .stages => decide (m.stage = 5)
  | .discovery => m.ports.all (fun x => x.discovered || !x.light)

/-- The 32 records of FABRIC_DISCOVER (R593). -/
def Mach.discoverData (m : Mach) : List Byte :=
  (List.range 32).flatMap (fun p =>
    let info := (m.rd (Reg.PORT_PEER_INFO p)).toNat
    leBytes (m.rd (Reg.PORT_PEER_SERIAL_LO p)).toNat 4 ++ leBytes (m.rd (Reg.PORT_PEER_SERIAL_HI p)).toNat 4 ++
      [BitVec.ofNat 8 (bitsOf info 27 5), BitVec.ofNat 8 (bitsOf info 16 8), BitVec.ofNat 8 (bitsOf info 8 8),
       BitVec.ofNat 8 (m.portState p), BitVec.ofNat 8 (b2n (m.port p).light + 2 * bitsOf info 26 1), 0, 0, 0])

/-- RESETs that wait reply once what they wait for has come (R609), and FABRIC_DISCOVER its records. -/
def Mach.settleResets (m : Mach) : Mach :=
  let ended := m.cairn.waits.filter m.resetOver
  let q : Mach := { m with cairn := { m.cairn with waits := m.cairn.waits.filter (fun w => !m.resetOver w) } }
  ended.foldl (fun m w =>
    if w.what = .discovery then m.finish w.lane w.ctx w.tag Op.fabricDiscover St.done 0 m.discoverData
    else m.finish w.lane w.ctx w.tag Op.reset St.done) q

/-- RANGE_CLEARED: the zeroing of R40 has ended. -/
def rangeCleared (n : Nat) (m : Mach) : Mach :=
  if m.rangeState n ≠ 6 then m else (m.setRangeState n 1).settleResets

/-! ### The end of a context -/

/-- FAIL for every open step of a context that is the group context (R557, R595, R613). -/
def Mach.failOpen (m : Mach) (c status : Nat) : Mach :=
  if m.groupPlan.isNone ∨ !m.bound c then m
  else
    let rank := m.groupRank (m.groupOf c)
    match m.ctx c with
    | none => m
    | some x => (x.step.toList ++ x.next.toList).foldl (fun m s => m.toMaster c (.fail rank s.step s.attempt status)) m

/-- An open step of a context ends with STEP_ABORTED. -/
def Mach.dropStep (m : Mach) (c base : Nat) (s : StepSt) : Mach := (m.stopAttempt c base s).endStep c s St.stepAborted

/-- What stops when a context ends or is reset: streams with `HOST_STOP`, passes, Tarn's work, and open steps (R595, R613); FAIL
carries `status`. -/
def Mach.quietContext (m : Mach) (c status : Nat) : Mach :=
  let m := m.failOpen c status
  let m := m.stopStreams (fun s => decide (s.ctx = c)) St.streamFault 0x08
  match m.ctx c with
  | none => m
  | some x =>
    let m := match x.step with | some s => m.dropStep c 0 s | none => m
    let m := match x.next with | some s => m.dropStep c 8192 s | none => m
    let m := match x.pass with | some p => m.finish p.lane c p.tag Op.framePush St.streamFault | none => m
    let m := match x.pushWait with | some p => m.finish p.lane c p.tag Op.framePush St.streamFault | none => m
    let m := m.reown (fun o => match o with | .entry k _ => if k = c then .nobody else o | _ => o)
    let m : Mach := { m with
      copies := m.copies.filter (fun j => !(decide (j.ctx = c) && (match j.owner with | .entry _ => true | _ => false))),
      treeline := { m.treeline with waiting := m.treeline.waiting.filter (fun w => decide (w.ctx ≠ c)) },
      group := { m.group with masters := m.group.masters.filter (fun e => decide (e.1 ≠ soloGroup c)) } }
    let m := m.each (List.range 12) (fun m s =>
      if (m.tarnOf s).elim false (fun t => decide (t.ctx = c)) then (m.setTarn s none).showTarn s 0 c 0 else m)
    (m.updCtx c (fun x => { x with step := none, next := none, pass := none, pushWait := none, pinned := false })).setStepState c 0

/-- The commands of an ended context that still run: copies meet no mapping any more, and waiting arms no stream. -/
def Mach.dropCommands (m : Mach) (c : Nat) : Mach :=
  let mine := m.copies.filter (fun j => decide (j.ctx = c))
  let m := mine.foldl (fun m j => (m.endCopy j St.translationFault 0 0).reown (fun o => if o = j.txnOwner then .nobody else o)) m
  m.dropArms (fun a => decide (a.ctx = c)) St.streamFault (2 ^ 31)

/-- The part of a run of frames that lies in another. -/
def FrameRun.inter (a b : FrameRun) : List FrameRun :=
  let lo := Nat.max a.first b.first
  let hi := min (a.first + a.count) (b.first + b.count)
  if lo < hi then [{ first := lo, count := hi - lo }] else []

/-- The frames of an ended context: Foothill's wait for a frame scrub of their stack, Ledge's are zeroed by their tiers (R269). -/
def Mach.dropFrames (m : Mach) (c : Nat) : Mach :=
  let mine := (m.mem.owned.filter (fun e => decide (e.1 = c))).map (fun e => e.2)
  let m : Mach := { m with mem := { m.mem with owned := m.mem.owned.filter (fun e => decide (e.1 ≠ c)) } }
  let m := m.each (List.range 12) (fun m s =>
    if m.stackFailed s then m else m.queueScrub s (mine.flatMap (fun r => r.inter (stackFrames s))))
  (mine.filter (fun r => decide (12 * 2097152 ≤ r.first))).foldl (fun m r => m.zeroRun r) m

/-- Erasing a key slot (R547, R548): copies that decrypt with it end (R550). -/
def Mach.eraseSlot (m : Mach) (k : Nat) : Mach :=
  let users := m.copies.filter (fun j => decide (j.slot = some k))
  let m := users.foldl (fun m j => (m.endCopy j St.notPermitted 0 0).reown (fun o => if o = j.txnOwner then .nobody else o)) m
  let m : Mach := { m with cairn := { m.cairn with slotKeys := m.cairn.slotKeys.filter (fun e => decide (e.1 ≠ k)) } }
  let left := m.rdF Reg.CAIRN_STATE Fld.CAIRN_STATE_SLOTS_LOADED
  (m.wr (Reg.CAIRN_KEY_SLOT k) 0).wrF Reg.CAIRN_STATE Fld.CAIRN_STATE_SLOTS_LOADED
    (if bitOf left k then left - 2 ^ k else left)

/-- The slots that hold a key of a context. -/
def Mach.slotsOf (m : Mach) (c : Nat) : List Nat := (List.range 16).filter (fun k => m.slotOf k c)

/-- A range is free: no context holds it, and its islands wait to be powered off (R505). -/
def Mach.freeRange (m : Mach) (n : Nat) : Mach :=
  let m := ((m.setRangeState n 0).wr (Reg.WAYMARK_POSITION n) 0).wr (Reg.WAYMARK_POSITION_HI n) 0
  let m := m.updRange n (fun r => { r with lastCtx := 16 })
  { m with treeline := { m.treeline with offSince := (n, m.clk) :: m.treeline.offSince.filter (fun e => decide (e.1 ≠ n)) } }

/-- The registers that belong to one context: serving, clipping, step, and its Tarn tables (R335, R498). -/
def ctxReg (c a : Nat) : Bool :=
  decide (Reg.TRAVERSE_CONTEXT_RANGES c = a) || decide (Reg.TRAVERSE_CONTEXT_SYNC c = a) ||
  (decide (Reg.TRAVERSE_STEP_STATUS c ≤ a) && decide (a < Reg.TRAVERSE_STEP_STATUS c + 8)) ||
  (decide (Reg.TRAVERSE_CLIP_CFG_MAX c ≤ a) && decide (a < Reg.TRAVERSE_CLIP_CFG_MAX c + 8)) ||
  (decide (Reg.TRAVERSE_NORM_RESULT_LO c ≤ a) && decide (a < Reg.TRAVERSE_NORM_RESULT_LO c + 8)) ||
  (decide (Reg.TRAVERSE_SERVE_CFG c ≤ a) && decide (a < Reg.TRAVERSE_SERVE_CFG c + 16)) ||
  decide (Reg.TREELINE_RESERVE c = a) ||
  (List.range 12).any (fun s => decide (Reg.FOOTHILL_TARN_TABLE_LO s c ≤ a) && decide (a < Reg.FOOTHILL_TARN_TABLE_LO s c + 16))

/-- The registers of a Tarn slot. -/
def progReg (s p a : Nat) : Bool :=
  decide (Reg.FOOTHILL_TARN_PROG s p = a) ||
  (decide (Reg.FOOTHILL_TARN_HP s (8 * p) ≤ a) && decide (a < Reg.FOOTHILL_TARN_HP s (8 * p) + 32)) ||
  (decide (Reg.FOOTHILL_TARN_CODE_LO s (16 * p) ≤ a) && decide (a < Reg.FOOTHILL_TARN_CODE_LO s (16 * p) + 128))

/-- The Tarn slots of a context, as (stack, slot). -/
def Mach.progsOf (m : Mach) (c : Nat) : List (Nat × Nat) :=
  (List.range 12).flatMap (fun s => ((List.range 16).filter (fun p => m.ownsProg s p c)).map (fun p => (s, p)))

/-- A context ends: everything that R595 frees; `status` goes into FAIL. (DEDUCED, log entry 22.) -/
def Mach.endContext (m : Mach) (c status : Nat) : Mach :=
  let m := ((m.quietContext c status).belayDrop c).dropCommands c
  let m := (m.each (m.slotsOf c) Mach.eraseSlot).dropFrames c
  let m := m.dropTlb c 0 (2 ^ 52)
  let m := m.each ((List.range 16).filter (fun n => m.owns c n)) Mach.freeRange
  let m := if m.bound c then m.wrF Reg.TRAVERSE_STEP_GROUP Fld.TRAVERSE_STEP_GROUP_BOUND 0 else m
  let progs := m.progsOf c
  let m := m.resetRegs (fun a => ctxReg c a || progs.any (fun q => progReg q.1 q.2 a))
  (m.setCtx c none).showBudget.settleResets

def contextDestroyBody (h : Hdr) (m : Mach) : Mach := (m.endContext h.ctx St.stepAborted).answer h Op.contextDestroy St.done

/-! ### DESC_LOAD (R52 to R55, R223) -/

/-- The handles that the running streams of a context name. -/
def Mach.handlesInUse (m : Mach) (c : Nat) : List Nat :=
  (m.streams.filter (fun s => decide (s.ctx = c) && s.admitted)).flatMap (fun s => s.image.handles)

/-- A descriptor put in its place by handle. -/
def insertDesc (h : Nat) (d : Desc) : List (Nat × Desc) → List (Nat × Desc)
  | [] => [(h, d)]
  | e :: t => if h < e.1 then (h, d) :: e :: t else if h = e.1 then (h, d) :: t else e :: insertDesc h d t

/-- The pair of R54, of a table in rising order of handles. -/
def aliasPair : List (Nat × Desc) → Option (Nat × Nat)
  | [] => none
  | e :: t => match t.find? (fun f => e.2.spansMeet f.2) with
    | some f => some (e.1, f.1)
    | none => aliasPair t

def descLoadBody (h : Hdr) (first count : Nat) (payload : List Byte) (m : Mach) : Mach :=
  match m.ctx h.ctx with
  | none => m.answer h Op.descLoad St.badParam
  | some x =>
    let handles := List.range' first count
    let used := m.handlesInUse h.ctx
    let new := handles.map (fun k => (k, Desc.ofBytes ((payload.drop (64 * (k - first))).take 64)))
    if 0xFFFE < first + count - 1 then m.answer h Op.descLoad St.badParam
    else if handles.any (fun k => used.contains k) then m.answer h Op.descLoad St.busy
    else match new.findSome? (fun e => if e.2.valid then (e.2.cause (m.granted h.ctx x)).map (fun k => (e.1, k)) else none) with
      | some (k, cause) => m.answer h Op.descLoad St.descInvalid (k * 65536 + cause)
      | none =>
        let table := new.foldl (fun l e => insertDesc e.1 e.2 l) x.descs
        match aliasPair (table.filter (fun e => e.2.trained)) with
        | some (a, b) => m.answer h Op.descLoad St.descAlias (a * 65536 + b)
        | none => (m.updCtx h.ctx (fun x => { x with descs := table })).answer h Op.descLoad St.done

/-! ### STREAM_LOAD (R115 to R121) -/

/-- The bytes of the image store in use, but for one image. -/
def Mach.imagesWithout (m : Mach) (c k : Nat) : Nat :=
  ((List.range 16).map (fun i => (((m.ctx i).elim [] (fun x => x.images)).filter (fun e => !(decide (i = c) && decide (e.1 = k)))).map
    (fun e => e.2.bytes) |>.sum)).sum

def streamLoadBody (h : Hdr) (k : Nat) (payload : List Byte) (m : Mach) : Mach :=
  if m.streams.any (fun s => decide (s.ctx = h.ctx) && s.admitted && decide (s.imageNo = k)) then m.answer h Op.streamLoad St.busy
  else match imageCheck payload with
    | .error (i, cause) =>
      (m.wrF Reg.TRAVERSE_IMAGE_STORE Fld.TRAVERSE_IMAGE_STORE_LAST_CAUSE cause).answer h Op.streamLoad St.badParam (i * 65536 + cause)
    | .ok i =>
      if 64 * 2 ^ 20 < m.imagesWithout h.ctx k + i.bytes then m.answer h Op.streamLoad St.busy
      else (m.updCtx h.ctx (fun x => { x with images := (k, i) :: x.images.filter (fun e => decide (e.1 ≠ k)) })).answer h
        Op.streamLoad St.done

/-! ### Rows -/

def execContextCreate (h : Hdr) (rangeCount place rangeMask syncCount seed pdomGrant : Nat) (s : State) : Host.Outcome State Fault Refusal :=
  s.run (fun m => m.command Op.contextCreate h [] (contextCreateBody h rangeCount place rangeMask syncCount seed pdomGrant))
def execContextDestroy (h : Hdr) (s : State) : Host.Outcome State Fault Refusal :=
  s.run (fun m => m.command Op.contextDestroy h [] (contextDestroyBody h))
def execDescLoad (h : Hdr) (first count : Nat) (payload : List Byte) (s : State) : Host.Outcome State Fault Refusal :=
  s.run (fun m => m.command Op.descLoad h (leBytes first 2 ++ leBytes count 2) (descLoadBody h first count payload))
def execStreamLoad (h : Hdr) (image : Nat) (payload : List Byte) (s : State) : Host.Outcome State Fault Refusal :=
  s.run (fun m => m.command Op.streamLoad h (leBytes image 1) (streamLoadBody h image payload))
def execRangeCleared (n : Fin 16) (s : State) : Host.Outcome State Fault Refusal := s.run (rangeCleared n)

end Sys2Proof.Machine
end

