-- ==== Sys2Proof/Machine/Cairn.lean ====
section
/-!
DEFINITION. Cairn (16_cairn_security, R598, R641, R642): the SPDM session, trust states and configuration changes, the clearing of
tenant state, key release, owner transfer, firmware packages and debug mode.
-/

namespace Sys2Proof.Machine

/-! ### Free bytes -/

/-- A run of free bytes. -/
def Mach.freeBytes (m : Mach) (n : Nat) : List Byte := (List.range n).map (fun i => BitVec.ofNat 8 (Config.freeValue (m.draws + i)))
def Mach.drawnBy (m : Mach) (n : Nat) : Mach := { m with draws := m.draws + n }

def Mach.serial (m : Mach) : Nat := (m.rd Reg.MODULE_SERIAL_LO).toNat + 2 ^ 32 * (m.rd Reg.MODULE_SERIAL_HI).toNat
def Mach.ownerIndex (m : Mach) : Nat := m.rdF Reg.CAIRN_OWNER Fld.CAIRN_OWNER_OWNER_INDEX
def Mach.ownerDigest (m : Mach) : List Byte := (List.range 16).flatMap (fun i => leBytes (m.rd (Reg.CAIRN_OWNER_HASH i)).toNat 4)
def Mach.debug (m : Mach) : Bool := decide (m.rdF Reg.CAIRN_STATE Fld.CAIRN_STATE_DEBUG = 1)

/-! ### Measurements (R532) -/

/-- Every lk register of control space, in address order. -/
def Mach.lkWords (m : Mach) : List Word :=
  m.rd Reg.CAIRN_POLICY :: m.rd Reg.SWITE_PACKET_TIMEOUT :: (List.range 8).map (fun k => m.rd (Reg.SWITE_CLASS_RESERVE k))

/-- The live measurements 7 to 10; the fixed ones are digests of images that the state does not hold. -/
def Mach.measurement (m : Mach) (i : Nat) : Option (List Byte) :=
  match i with
  | 7 => some [BitVec.ofNat 8 m.cairn.runSvn, BitVec.ofNat 8 (m.rdF Reg.CAIRN_SVN Fld.CAIRN_SVN_VALUE), BitVec.ofNat 8 m.ownerIndex,
      BitVec.ofNat 8 (m.rdF Reg.CAIRN_FUSES Fld.CAIRN_FUSES_PROD_DEBUG_OFF), BitVec.ofNat 8 (m.rdF Reg.CAIRN_STATE Fld.CAIRN_STATE_FALLBACK), 0, 0, 0]
  | 8 => some (sha512 ((m.cairn.lkFrozen.getD m.lkWords).flatMap (fun w => leBytes w.toNat 4)))
  | 9 => some [BitVec.ofNat 8 m.trust, BitVec.ofNat 8 (b2n m.debug), BitVec.ofNat 8 (b2n m.cairn.prodDebugUsed), 0]
  | 10 => some m.cairn.chain
  | _ => none

/-! ### The session (R535 to R537, R543, R544) -/

/-- The session and its keys are gone. -/
def Mach.dropSession (m : Mach) : Mach :=
  let m : Mach := { m with cairn := { m.cairn with session := none } }
  (m.wrF Reg.CAIRN_STATE Fld.CAIRN_STATE_SESSION 0).wrF Reg.SWITE_STATUS Fld.SWITE_STATUS_ENCRYPTED 0

/-! ### The clearing (R538, R542, R555 to R557) -/

/-- A move to OPEN: measurement 8 is live again. -/
def Mach.toOpen (m : Mach) (cause : TrustCause) : Mach :=
  let m := m.setTrust 0 cause
  { m with cairn := { m.cairn with lkFrozen := none } }

/-- A port's key is erased; the port waits for a new exchange and carries only class 0 (R552, R556). -/
def Mach.dropPortKey (m : Mach) (p : Nat) : Mach :=
  let m := (m.wr (Reg.CAIRN_PORT_KEY p) 0).updPort p (fun x => { x with keyed := false, keyEpoch := 0, framesUnderKey := 0 })
  let m := m.wrF (Reg.PORT_STATUS p) Fld.PORT_STATUS_ENCRYPTED 0
  if (m.portEntry p).encrypt ∧ (m.portState p = 4 ∨ m.portState p = 5) then (m.setPortState p 3).flushPort p else m

/-- Key slots, ephemeral keys, port keys and session keys go (R555). -/
def Mach.dropKeys (m : Mach) : Mach :=
  let m := m.each (List.range 16) Mach.eraseSlot
  let m : Mach := { m with cairn := { m.cairn with ephKeys := [] } }
  m.dropSession.each ((List.range 32).filter (fun p => (m.portEntry p).encrypt)) Mach.dropPortKey

/-- The Massif and ingress islands, which a clearing switches off and on. -/
def massifIslands : List Nat := 88 :: List.range 70

/-- The Massif's rails go: tile files, range registers and Ledge are lost (R555, R651). -/
def Mach.massifOff (m : Mach) : Mach :=
  let m := m.each massifIslands (fun m i => m.updIsland i (fun x => { x with powered := false, clocked := false }))
  let m : Mach := { m with ranges := List.replicate 16 .reset, treeline := { m.treeline with offSince := [] } }
  let m := m.resetRegs (inBlock .range)
  let m := m.zeroMem (fun a => decide (0x020000000000 ≤ a) && decide (a < 0x020200000000))
  let m : Mach := { m with mem := { m.mem with sealed := runsMinus m.mem.sealed { first := 0x02000000, count := 0x20000 } } }
  (m.wrF Reg.LEDGE_MEM_SUMMARY Fld.LEDGE_MEM_SUMMARY_LEDGE_A_READY 0).wrF Reg.LEDGE_MEM_SUMMARY Fld.LEDGE_MEM_SUMMARY_LEDGE_B_READY 0

/-- The rails return, and Ledge reads as zero. -/
def Mach.massifOn (m : Mach) : Mach :=
  let m := m.each (88 :: List.range' 64 6) (fun m i => m.updIsland i (fun x => { x with powered := true, clocked := true }))
  (m.wrF Reg.LEDGE_MEM_SUMMARY Fld.LEDGE_MEM_SUMMARY_LEDGE_A_READY 1).wrF Reg.LEDGE_MEM_SUMMARY Fld.LEDGE_MEM_SUMMARY_LEDGE_B_READY 1

/-- The clearing of R555 begins; a command that asks for one while it runs waits for its end (R542). (DEDUCED, log entry 25.) -/
def Mach.beginClearing (m : Mach) (waiters : List (Lane × Nat × Nat)) (cause : TrustCause) : Mach :=
  match m.cairn.clearing with
  | some (t, ws) => { m with cairn := { m.cairn with clearing := some (t, ws ++ waiters) } }
  | none =>
    let m := (m.toOpen cause).wrF Reg.CAIRN_STATE Fld.CAIRN_STATE_CLEARING 1
    let m : Mach := { m with cairn := { m.cairn with clearing := some (m.clk, waiters) } }
    let m := m.each ((List.range 16).filter (fun c => (m.ctx c).isSome)) (fun m c => m.endContext c St.notPermitted)
    m.dropKeys.massifOff.startScrub

/-- CLEARING_END: the rails have returned and the scrub has ended. -/
def clearingEnd (m : Mach) : Mach :=
  match m.cairn.clearing with
  | none => m
  | some (t, ws) =>
    if m.stage < 3 ∨ m.clk < t + ms 21 ∨ m.rdF Reg.LEDGE_MEM_SUMMARY Fld.LEDGE_MEM_SUMMARY_SCRUB_COMPLETE ≠ 1 then m
    else
      let m : Mach := { m with cairn := { m.cairn with clearing := none } }
      let m := (m.massifOn.wrF Reg.CAIRN_STATE Fld.CAIRN_STATE_CLEARING 0).log 0x0011 St.done ((m.clk - t) / us 1) 0
      ws.foldl (fun m w => m.finish w.1 0xFF w.2.1 w.2.2 St.done) m

/-- A configuration change moves the module to OPEN before it runs (R538). -/
def Mach.configChange (m : Mach) : Mach :=
  if m.trust = 2 then m.beginClearing [] .config else if m.trust = 1 then m.toOpen .config else m

/-- The session ends; in TRUSTED the module clears (R538). -/
def Mach.endSession (m : Mach) : Mach := if m.trust = 2 then m.dropSession.beginClearing [] .session else m.dropSession

/-! ### Commands on trust -/

def tenantEndBody (h : Hdr) (m : Mach) : Mach := (m.begin h Op.tenantEnd).beginClearing [(h.lane, h.tag, Op.tenantEnd)] .command

/-- Whether the session admits a move to TRUSTED (R539). -/
def Mach.admitsTrusted (m : Mach) (h : Hdr) : Bool :=
  h.auth && decide (h.lane = .data) && m.cairn.session.elim false (fun s => s.finished && s.measured && decide (s.exchangedIn = 1))

/-- LOCK_CONFIG (R538, R539). -/
def lockConfigBody (h : Hdr) (level : Nat) (m : Mach) : Mach :=
  let t := m.trust
  if 2 < level then m.answer h Op.lockConfig St.badParam
  else if level = t then m.answer h Op.lockConfig St.done
  else if (level = 2 ∧ t = 0) ∨ (level = 1 ∧ t = 2) then m.answer h Op.lockConfig St.badParam
  else if level = 1 then
    (if m.debug then m.answer h Op.lockConfig St.notPermitted
     else
       let m := m.setTrust 1 .command
       ({ m with cairn := { m.cairn with lkFrozen := some m.lkWords } } : Mach).answer h Op.lockConfig St.done)
  else if level = 2 then
    (if m.admitsTrusted h then (m.setTrust 2 .command).answer h Op.lockConfig St.done else m.answer h Op.lockConfig St.attestFail)
  else if t = 2 then (m.begin h Op.lockConfig).beginClearing [(h.lane, h.tag, Op.lockConfig)] .command
  else (m.toOpen .command).answer h Op.lockConfig St.done

/-- An SPDM response, whose bytes the spec leaves to SPDM. (DESIGN CHOICE, log entry 27.) -/
def Mach.spdmReply (m : Mach) (h : Hdr) : Mach :=
  (m.drawnBy 4097).answer h Op.spdmMsg St.done 0 ((m.drawnBy 1).freeBytes (m.draw % 4097))

/-- What an SPDM request that succeeds does to the session. -/
def Mach.spdmEffect (m : Mach) (kind : SpdmKind) (inSession : Bool) : Mach :=
  match m.cairn.session, kind with
  | none, .keyExchange =>
    if inSession then m
    else
      let s : Session := { exchangedIn := m.trust, finished := false, measured := false,
                           hbS := m.rdF Reg.CAIRN_POLICY Fld.CAIRN_POLICY_HB_S, lastMsg := m.clk, generation := 0, countH2m := 0, countM2h := 0 }
      ({ m with cairn := { m.cairn with session := some s } } : Mach).wrF Reg.CAIRN_STATE Fld.CAIRN_STATE_SESSION 1
  | none, _ => m
  | some _, .endSession => if inSession then m.endSession else m
  | some s, k =>
    if !inSession then m
    else
      let t : Session := match k with
        | .finish => { s with finished := true, lastMsg := m.clk }
        | .getMeasurements => { s with measured := true, lastMsg := m.clk }
        | .keyUpdate => { s with generation := s.generation + 1, countH2m := 0, countM2h := 0, lastMsg := m.clk }
        | _ => { s with lastMsg := m.clk }
      let m : Mach := { m with cairn := { m.cairn with session := some t } }
      if t.finished then m.wrF Reg.SWITE_STATUS Fld.SWITE_STATUS_ENCRYPTED 1 else m

/-- SPDM_MSG: a request that fails, or a second KEY_EXCHANGE, is answered with an SPDM error. The answer to FINISH is the last packet
before the keys apply. -/
def spdmBody (h : Hdr) (kind : SpdmKind) (inSession ok : Bool) (m : Mach) : Mach :=
  if h.lane = .mgmt ∧ m.trust = 2 ∧ inSession then m.answer h Op.spdmMsg St.notPermitted
  else if ok then (m.spdmReply h).spdmEffect kind inSession
  else m.spdmReply h

/-- HEARTBEAT_EXPIRY (R537). -/
def heartbeatExpiry (m : Mach) : Mach :=
  match m.cairn.session with
  | some s => if s.hbS ≠ 0 ∧ s.lastMsg + secs (2 * s.hbS) ≤ m.clk then m.endSession else m
  | none => m

/-! ### Key release (R541, R545 to R548) -/

def getEphemeralBody (h : Hdr) (m : Mach) : Mach :=
  if m.trust ≠ 2 then m.answer h Op.keyRelease St.notPermitted
  else if 4 ≤ m.cairn.ephKeys.length then m.answer h Op.keyRelease St.busy
  else
    let id := m.draw % 2 ^ 32
    let data := leBytes id 4 ++ (m.drawnBy 1).freeBytes 265
    let m : Mach := { m with cairn := { m.cairn with ephKeys := m.cairn.ephKeys ++ [(id, m.clk)] } }
    (m.drawnBy 266).answer h Op.keyRelease St.done 0 data

/-- EPHEMERAL_KEY_EXPIRY: 60 s after its creation. -/
def ephemeralExpiry (id : Nat) (m : Mach) : Mach :=
  { m with cairn := { m.cairn with ephKeys := m.cairn.ephKeys.filter (fun k => !(decide (k.1 = id) && decide (k.2 + secs 60 ≤ m.clk))) } }

/-- Whether the plan has a port of `ROLE` 1 or 2 without `ENCRYPT`. -/
def Plan.clearPort (p : Plan) : Bool := p.ports.any (fun e => (decide (e.role = 1) || decide (e.role = 2)) && !e.encrypt)

/-- LOAD's fields (R546). -/
structure KeyLoad where
  slot : Nat
  noExport : Bool
  rsv : Bool
  keyId : Nat
  eph : Nat
  aad : List Byte
  point : List Byte
  nonce : List Byte
  wrapped : List Byte
  tag : List Byte
  deriving DecidableEq, Repr

def KeyLoad.ofBytes (l : List Byte) : KeyLoad :=
  { slot := leAt l 0 1, noExport := bitOf (leAt l 1 1) 0, rsv := decide (2 ≤ leAt l 1 1) || !zeroAt l 0x8D 3, keyId := leAt l 2 2,
    eph := leAt l 4 4, aad := (l.drop 1).take 3, point := (l.drop 8).take 133, nonce := (l.drop 0x90).take 12,
    wrapped := (l.drop 0x9C).take 32, tag := (l.drop 0xBC).take 16 }

def Mach.loadKey (m : Mach) (h : Hdr) (k : KeyLoad) : Mach :=
  let named := m.cairn.ephKeys.any (fun e => decide (e.1 = k.eph))
  let key := if named then Config.gcmOpen (Config.releaseKey k.eph k.point) k.nonce k.aad k.wrapped k.tag else none
  let hostMapped := (m.ctx h.ctx).elim false (fun x => x.maps.any (fun r => isHost r.pa))
  let m : Mach := { m with cairn := { m.cairn with ephKeys := m.cairn.ephKeys.filter (fun e => decide (e.1 ≠ k.eph)) } }
  if k.rsv ∨ 15 < k.slot then m.answer h Op.keyRelease St.badParam
  else match key with
    | none => m.answer h Op.keyRelease St.attestFail
    | some v =>
      if m.rdF (Reg.CAIRN_KEY_SLOT k.slot) Fld.CAIRN_KEY_SLOT_VALID = 1 then m.answer h Op.keyRelease St.busy
      else if k.noExport ∧ (hostMapped ∨ m.plan.elim false Plan.clearPort) then m.answer h Op.keyRelease St.notPermitted
      else
        let m : Mach := { m with cairn := { m.cairn with slotKeys := m.cairn.slotKeys ++ [(k.slot, v)] } }
        let m := m.wr (Reg.CAIRN_KEY_SLOT k.slot) (BitVec.ofNat 32 (2 ^ 31 + b2n k.noExport * 2 ^ 30 + h.ctx % 16 * 2 ^ 20 + k.keyId))
        let m := m.orR Reg.CAIRN_STATE (2 ^ k.slot)
        (m.log 0x0012 St.done (k.slot + k.keyId * 256 + h.ctx * 16777216) 0).answer h Op.keyRelease St.done

/-- A LOAD of a wrapped key: the ephemeral key is used up, and the key goes into its slot or the command is refused (R546). (DEDUCED, log entry 28.) -/
def loadBody (h : Hdr) (payload : List Byte) (m : Mach) : Mach :=
  if m.trust ≠ 2 then m.answer h Op.keyRelease St.notPermitted else m.loadKey h (KeyLoad.ofBytes payload)

/-- CLEAR: a slot of the command's context. (DEDUCED, log entry 28.) -/
def clearBody (h : Hdr) (slot : Nat) (m : Mach) : Mach :=
  if m.trust ≠ 2 then m.answer h Op.keyRelease St.notPermitted
  else if 15 < slot then m.answer h Op.keyRelease St.badParam
  else if !m.slotOf slot h.ctx then m.answer h Op.keyRelease St.notPermitted
  else (m.eraseSlot slot).answer h Op.keyRelease St.done

/-! ### Owner transfer (R558, R559) -/

def ownerTransferBody (h : Hdr) (digest signature : List Byte) (m : Mach) : Mach :=
  let i := m.ownerIndex
  let signed := digest ++ leBytes m.serial 8 ++ leBytes i 1
  let left := m.rdF Reg.CAIRN_OWNER Fld.CAIRN_OWNER_REMAIN
  if i ≠ 0 ∧ !Config.ecdsaOk m.ownerDigest signed signature then m.answer h Op.ownerTransfer St.attestFail
  else if left = 0 then m.answer h Op.ownerTransfer St.limitReached
  else
    let m := (m.configChange.wrF Reg.CAIRN_OWNER Fld.CAIRN_OWNER_OWNER_INDEX (i + 1)).wrF Reg.CAIRN_OWNER Fld.CAIRN_OWNER_REMAIN (left - 1)
    let m := m.each (List.range 16) (fun m k => m.wr (Reg.CAIRN_OWNER_HASH k) (BitVec.ofNat 32 (leAt digest (4 * k) 4)))
    let m := (m.log 0x0002 St.done (leAt digest 0 8) (left - 1)).begin h Op.ownerTransfer
    let q : Mach := { m with cairn := { m.cairn with ownerScrub := m.cairn.ownerScrub ++ [(h.lane, h.tag)] } }
    q.startScrub

/-! ### Firmware packages (R531, R598) -/

/-- The bytes of the gathered chunks, where every one of `total` is present. -/
def gather (total : Nat) (chunks : List (Nat × List Byte)) : Option (List Byte) :=
  let m := chunks.foldl (fun l c => Sparse.putRun (fun _ => (none : Option Byte)) l c.1 (c.2.map some)) []
  allSome ((List.range total).map (fun i => Sparse.get (fun _ => none) m i))

def Mach.setBank (m : Mach) (b : Nat) (v : Bank2) : Mach := { m with cairn := { m.cairn with banks := m.cairn.banks.set b v } }
def Mach.bank (m : Mach) (b : Nat) : Bank2 := m.cairn.banks.getD b { empty := true, svn := 0, minor := 0, patch := 0 }
def Bank2.none : Bank2 := { empty := true, svn := 0, minor := 0, patch := 0 }
def Mach.svn (m : Mach) : Nat := m.rdF Reg.CAIRN_SVN Fld.CAIRN_SVN_VALUE

/-- The bank that FW_UPDATE writes: the one that is not running. -/
def Mach.idleBank (m : Mach) : Nat := 1 - m.rdF Reg.CAIRN_STATE Fld.CAIRN_STATE_RUN_BANK

/-- The checks of the command with `LAST`, and what follows them. -/
def Mach.checkPackage (m : Mach) (h : Hdr) (total : Nat) : Mach :=
  let b := m.idleBank
  let package := ((gather total m.cairn.fwChunks).bind Config.package).filter (fun p => decide (m.svn ≤ p.1))
  let m : Mach := { m with cairn := { m.cairn with fwTotal := none, fwChunks := [] } }
  match package with
  | none => (m.setBank b Bank2.none).answer h Op.fwUpdate St.badParam
  | some (svn, minor, patch) =>
    let m := (m.setBank b { empty := false, svn := svn, minor := minor, patch := patch }).wrF Reg.CAIRN_STATE Fld.CAIRN_STATE_PREFER_BANK b
    if bitOf h.flags 3 then
      (let m := m.configChange
       ({ m with cairn := { m.cairn with activating := some b } } : Mach).answer h Op.fwUpdate St.done)
    else m.answer h Op.fwUpdate St.done

/-- FW_UPDATE: a chunk of a package, its checks with the last one, and the activation (R531, R598). (DEDUCED, log entry 29.) -/
def fwUpdateBody (h : Hdr) (offset total : Nat) (payload : List Byte) (m : Mach) : Mach :=
  let last := bitOf h.flags 2
  if total = 0 ∨ 67108864 < total ∨ total < offset + payload.length ∨ (bitOf h.flags 3 ∧ !last) ∨
      m.cairn.fwTotal.elim false (fun t => decide (t ≠ total)) then m.answer h Op.fwUpdate St.badParam
  else
    let m : Mach := { m with cairn := { m.cairn with fwTotal := some total, fwChunks := m.cairn.fwChunks ++ [(offset, payload)] } }
    if last then m.checkPackage h total else m.answer h Op.fwUpdate St.done

/-! ### Debug mode (R540, R641, R642) -/

/-- Debug mode changes, and the change is logged. -/
def Mach.setDebug (m : Mach) (on : Bool) : Mach :=
  if m.debug = on then m else (m.wrF Reg.CAIRN_STATE Fld.CAIRN_STATE_DEBUG (b2n on)).log 0x0014 St.done (b2n on) 0

def debugEnableBody (h : Hdr) (signature : List Byte) (m : Mach) : Mach :=
  let owned := decide (m.ownerIndex ≠ 0)
  let signed := leBytes m.serial 8 ++ leBytes m.ownerIndex 1 ++ leBytes (m.rd Reg.SURVEY_DEBUG_NONCE).toNat 4
  if h.len ≠ (if owned then 132 else 0) then m.answer h Op.debugMode St.badParam
  else if owned ∧ !Config.ecdsaOk m.ownerDigest signed signature then m.newNonce.answer h Op.debugMode St.attestFail
  else (m.configChange.setDebug true).newNonce.answer h Op.debugMode St.done

def debugDisableBody (h : Hdr) (m : Mach) : Mach := (m.setDebug false).answer h Op.debugMode St.done

/-! ### Rows -/

def execSpdmMsg (h : Hdr) (kind : SpdmKind) (inSession ok : Bool) (s : State) : Host.Outcome State Fault Refusal :=
  s.run (fun m => m.command Op.spdmMsg h [] (spdmBody h kind inSession ok))
def execGetEphemeral (h : Hdr) (nonce : List Byte) (s : State) : Host.Outcome State Fault Refusal :=
  s.run (fun m => m.command Op.keyRelease h (leBytes 0 2) (fun m => if nonce.length = 32 then getEphemeralBody h m else m.answer h Op.keyRelease St.badParam))
def execLoad (h : Hdr) (payload : List Byte) (s : State) : Host.Outcome State Fault Refusal :=
  s.run (fun m => m.command Op.keyRelease h (leBytes 1 2) (loadBody h payload))
def execClear (h : Hdr) (slot : Nat) (s : State) : Host.Outcome State Fault Refusal :=
  s.run (fun m => m.command Op.keyRelease h (leBytes 2 1 ++ leBytes slot 1) (clearBody h slot))
def execLockConfig (h : Hdr) (level : Nat) (s : State) : Host.Outcome State Fault Refusal :=
  s.run (fun m => m.command Op.lockConfig h (leBytes level 1) (lockConfigBody h level))
def execTenantEnd (h : Hdr) (s : State) : Host.Outcome State Fault Refusal :=
  s.run (fun m => m.command Op.tenantEnd h [] (tenantEndBody h))
def execClearingEnd (s : State) : Host.Outcome State Fault Refusal := s.run clearingEnd
def execOwnerTransfer (h : Hdr) (digest signature : List Byte) (s : State) : Host.Outcome State Fault Refusal :=
  s.run (fun m => m.command Op.ownerTransfer h [] (ownerTransferBody h digest signature))
def execFwUpdate (h : Hdr) (offset total : Nat) (payload : List Byte) (s : State) : Host.Outcome State Fault Refusal :=
  s.run (fun m => m.command Op.fwUpdate h (leBytes offset 8 ++ leBytes total 4) (fwUpdateBody h offset total payload))
def execHeartbeatExpiry (s : State) : Host.Outcome State Fault Refusal := s.run heartbeatExpiry
def execEphemeralKeyExpiry (id : Nat) (s : State) : Host.Outcome State Fault Refusal := s.run (ephemeralExpiry id)
def execDebugModeEnable (h : Hdr) (signature : List Byte) (s : State) : Host.Outcome State Fault Refusal :=
  s.run (fun m => m.command Op.debugMode h (leBytes 1 1) (debugEnableBody h signature))
def execDebugModeDisable (h : Hdr) (s : State) : Host.Outcome State Fault Refusal :=
  s.run (fun m => m.command Op.debugMode h (leBytes 0 1) (debugDisableBody h))

end Sys2Proof.Machine
end

