-- ==== Sys2Proof/Machine/Col.lean ====
section
/-!
DEFINITION. Col (07_col_talus_scree): placing loads, beginning a repeat, read-ahead into staging registers, and the arrival
of a tile. A repeat that reads host memory builds its tile when every transaction has ended.
-/

namespace Sys2Proof.Machine

/-! ### Placement -/

/-- The conversion of a load: the format, or none where CVT_EN is 0 (R97). -/
def Ewx.cvt (e : Ewx) : Option Fmt := if e.m 28 1 = 1 then Fmt.ofCode (e.m 24 4) else none

/-- R97, R136: CVT_FMT is not a legal widening of the descriptor's format. -/
def Ewx.cvtBad (e : Ewx) (d : Desc) : Bool :=
  decide (e.m 28 1 = 1) && (match Fmt.ofCode (e.m 24 4) with | some f => !widenOk d.format (decide (d.block ≠ 0)) f | none => true)

/-- COL.LOAD or COL.LOADT is placed (R26, R58, R97). -/
def loadPlace (n : Nat) (o : SOp) (m : Mach) : Mach :=
  match m.nextIs n o with
  | none => m
  | some (s, e) =>
    m.place n s e o (if (m.descOf s.ctx e.hA).elim false (fun d => e.cvtBad d) then some 0x91 else none)

/-! ### The tile of a repeat -/

/-- A byte at a virtual address, host memory as it has arrived (R220). -/
def Mach.colByte (m : Mach) (n : Nat) (x : Ctx) (va : Nat) : Byte :=
  match x.phys va with
  | some pa => if isHost pa then byteAt (m.range n).hostData pa else m.readByte pa
  | none => 0

def Placed.transposed (p : Placed) : Bool := decide (p.ins.sop = some .loadt)

/-- The tile that a repeat of a load delivers (R225 to R229). -/
def Mach.colTile (m : Mach) (n : Nat) (x : Ctx) (d : Desc) (p : Placed) (rep : Nat) : Tile :=
  d.load (m.colByte n x) (p.a.at rep) p.transposed p.ins.cvt

/-- The destination of a load (R97). -/
def Ewx.loadQueue (e : Ewx) : Option QId := match e.m 38 2 with | 0 => some .aFeed | 1 => some .bFeed | _ => none
def Ewx.loadTreg (e : Ewx) : Option Nat := if e.m 38 2 = 2 then some (e.m 29 9) else none

/-- The format of the tile that a load delivers. -/
def Desc.loadFmt (d : Desc) (e : Ewx) : Fmt := (e.cvt).getD d.format

/-- The causes that a repeat of a load meets (R50, R226, R227, R230). -/
def Mach.colCauses (m : Mach) (n : Nat) (d : Desc) (p : Placed) (rep : Nat) : List (Nat × Bool) :=
  [(0x07, d.coordOut (p.a.at rep)), (0x60, decide (rep = 0) && p.transposed && decide (d.rank = 1)),
   (0x61, decide (p.ins.m 28 1 = 0) && !d.aligned (p.a.at rep)), (0x64, decide (rep = 0) && m.stagingNamed n p.ins)]

/-- The reads of a repeat: sectors translated, words checked, host sectors asked for; then what follows takes the module, and
an uncorrectable word stops the stream with INTERNAL (R276). -/
def Mach.colRead (m : Mach) (n : Nat) (s : Stream) (x : Ctx) (d : Desc) (p : Placed) (rep : Nat) (e : Ecc) (k : Mach → Begin) : Begin :=
  let sectors := d.loadSectors (p.a.at rep) p.transposed
  m.access n 1 s.lockstep p rep [{ handle := p.ins.hA, pdom := d.pdom, write := false, sectors := sectors }] (fun m =>
    let pas := sectors.filterMap x.phys
    let words := (pas.filter (fun a => !isHost a)).flatMap sectorWords
    let bad := m.badWords e words
    let m := (m.checkWords srcRange n e words).tallyBy (7 * n + 1) 1 bad.length
    if bad ≠ [] then .stop m (p.stopAt n 1 St.internal 0 rep)
    else
      let hosts := pas.filter isHost
      let m := hosts.foldl (fun m a => m.hostTxn false a 64 [] [] (.col n p.seq rep)) m
      k (if hosts = [] then m else m.updRange n (fun r => { r with hostReps := r.hostReps ++ [(p.seq, rep)] })))

/-! ### Beginning a repeat -/

/-- A repeat of the front load begins with its destination free (R233). -/
def Mach.colDirect (m : Mach) (n : Nat) (s : Stream) (x : Ctx) (d : Desc) (p : Placed) (e : Ecc) : Begin :=
  let rep := p.begun
  match p.causes n 1 rep (m.colCauses n d p rep) with
  | some a => .stop m a
  | none => m.colRead n s x d p rep e (fun m =>
      .ok (m.updRange n (fun r => (r.deliver 1 p.seq p.ins.loadQueue p.ins.loadTreg (m.colTile n x d p rep)).begin 1 p.seq)))

/-- The instruction whose repeat Col reads ahead next: the first with a repeat that has not begun, before any wait (R231). -/
def aheadOf : List Placed → Option Placed
  | [] => none
  | p :: t => if p.isWait then none else if p.begun < p.ins.rep then some p else aheadOf t

/-- Staging registers in use: an FP64 tile takes two (R231). -/
def RangeSt.stagingUsed (r : RangeSt) : Nat := (r.staged.map (fun s => s.tile.weight)).sum

/-- A repeat is read ahead into staging; one that meets a cause or a fault is left for its turn (R217, R231, R251). -/
def Mach.colAhead (m : Mach) (n : Nat) (s : Stream) (x : Ctx) (e : Ecc) : Begin :=
  let r := m.range n
  match aheadOf r.col with
  | none => .held 7
  | some p =>
    match p.ins.sop, x.desc p.ins.hA with
    | some o, some d =>
      let rep := p.begun
      let w := ({ Tile.zeroed with fmt := d.loadFmt p.ins } : Tile).weight
      if o = .idle then .held 3
      else if m.rdF (Reg.RANGE_COL_PREFETCH_CFG n) Fld.RANGE_COL_PREFETCH_CFG_PF_COUNT < r.stagingUsed + w then .held 2
      else if (p.causes n 1 rep (m.colCauses n d p rep)).isSome then .held 2
      else
        match m.colRead n s x d p rep e (fun m => .ok (m.updRange n (fun r =>
            let q : RangeSt := { r with staged := r.staged ++ [{ seq := p.seq, rep := rep, tile := m.colTile n x d p rep }] }
            q.begin 1 p.seq))) with
        | .ok m => .ok m
        | _ => .held 2
    | _, _ => .held 3

/-- COL_REPEAT_BEGIN (R25, R74, R225 to R233). -/
def colBegin (n : Nat) (e : Ecc) (m : Mach) (s : Stream) : Begin :=
  match m.ctx s.ctx with
  | none => .held 7
  | some x =>
    let r := m.range n
    let ahead := !s.lockstep && decide (m.rdF (Reg.RANGE_COL_PREFETCH_CFG n) Fld.RANGE_COL_PREFETCH_CFG_PF_COUNT ≠ 0)
    match m.frontOf n 1 with
    | .error c => if ahead then m.colAhead n s x e else .held c
    | .ok p =>
      match x.desc p.ins.hA with
      | none => .held 7
      | some d =>
        if p.ins.sop = some .idle ∨ m.repHeld n p p.begun then .held 3
        else
          match holdCode [(2, r.full p.ins.loadQueue (d.loadFmt p.ins)), (3, p.prevBusy s.lockstep), (4, m.tregBlocked n s.ctx p)] with
          | some c => if ahead then m.colAhead n s x e else .held c
          | none => if r.staged = [] then m.colDirect n s x d p e else m.colAhead n s x e

/-- STAGED_TILE_MOVE (R232): the oldest staged tile goes to its destination once that is free. -/
def stagedMove (n : Nat) (m : Mach) : Mach :=
  match m.streamOn n, (m.range n).col.head?, (m.range n).staged with
  | some s, some p, g :: rest =>
    let r := m.range n
    let ready := !r.halted && decide (p.seq = g.seq) && decide (p.done = g.rep) && decide (m.txnsOf (.col n p.seq g.rep) = 0) &&
      !m.repHeld n p g.rep && !r.full p.ins.loadQueue g.tile.fmt && !m.tregBlocked n s.ctx p
    if !ready then m
    else
      let tile := if r.hostReps.contains (p.seq, g.rep) then
          (match (m.ctx s.ctx).bind (fun x => (x.desc p.ins.hA).map (fun d => m.colTile n x d p g.rep)) with
           | some t => t | none => g.tile)
        else g.tile
      let reps := r.hostReps.filter (fun h => decide (h ≠ (p.seq, g.rep)))
      let r := { r with staged := rest, hostReps := reps, hostData := if reps = [] then [] else r.hostData }
      let r := ((r.deliver 1 p.seq p.ins.loadQueue p.ins.loadTreg tile).arrive 1 p.seq p.ins.loadQueue p.ins.loadTreg none)
      (m.setRange n r).didRep n 1 p.seq
  | _, _, _ => m

/-- A tile of Col arrives (R35, R248): its transactions have ended, and a tile with host sectors is built from what came. -/
def Mach.colFull (m : Mach) (n : Nat) : Mach :=
  match m.streamOn n, (m.range n).col.find? (fun p => decide (p.done < p.begun)) with
  | some s, some p =>
    let r := m.range n
    let rep := p.done
    if m.txnsOf (.col n p.seq rep) ≠ 0 ∨ r.staged.any (fun g => decide (g.seq = p.seq) && decide (g.rep = rep)) then m
    else
      let built := if r.hostReps.contains (p.seq, rep) then
          (m.ctx s.ctx).bind (fun x => (x.desc p.ins.hA).map (fun d => m.colTile n x d p rep))
        else none
      let reps := r.hostReps.filter (fun h => decide (h ≠ (p.seq, rep)))
      let r := { r with hostReps := reps, hostData := if reps = [] then [] else r.hostData }
      (m.setRange n (r.arrive 1 p.seq p.ins.loadQueue p.ins.loadTreg built)).didRep n 1 p.seq
  | _, _ => m

/-! ### Rows -/

def execColLoad (n : Fin 16) (s : State) : Host.Outcome State Fault Refusal := s.run (loadPlace n .load)
def execColLoadt (n : Fin 16) (s : State) : Host.Outcome State Fault Refusal := s.run (loadPlace n .loadt)
def execColRepeatBegin (n : Fin 16) (ecc : Ecc) (s : State) : Host.Outcome State Fault Refusal :=
  s.run (fun m => m.flowBegin n (colBegin n ecc))
def execStagedTileMove (n : Fin 16) (s : State) : Host.Outcome State Fault Refusal := s.run (stagedMove n)

end Sys2Proof.Machine
end

