-- ==== Sys2Proof/Machine/Crest.lean ====
section
/-!
DEFINITION. Crest (05_crest_matrix): placing CREST.MMA and CREST.DRAIN, beginning a repeat, claiming a destination for a
drain, and the two events that end a drain. A repeat's accumulation is made when it begins.
-/

namespace Sys2Proof.Machine

/-! ### CREST.MMA -/

/-- CREST.MMA is placed (R26, R98). -/
def mmaPlace (n : Nat) (m : Mach) : Mach :=
  match m.nextIs n .mma with
  | none => m
  | some (s, e) => m.place n s e .mma none

/-- The queue that an operand comes from: SRC_A or SRC_B (R98). -/
def Ewx.queueA (e : Ewx) : Option QId := match e.m 36 2 with | 0 => some .aFeed | 1 => some .screeCrest | _ => none
def Ewx.queueB (e : Ewx) : Option QId := match e.m 34 2 with | 0 => some .bFeed | 1 => some .screeCrest | _ => none

/-- Whether repeat `rep` uses an operand that repeat 0 kept: A or B stationary (R100). -/
def Ewx.keptA (e : Ewx) (rep : Nat) : Bool := decide (e.m 14 2 = 2) && decide (rep ≠ 0)
def Ewx.keptB (e : Ewx) (rep : Nat) : Bool := decide (e.m 14 2 = 1) && decide (rep ≠ 0)

/-- An operand tile: kept, from the front of its queue, or from its register. -/
def RangeSt.operand (r : RangeSt) (kept : Bool) (stat : Option Tile) (q : Option QId) (treg : Nat) : Option Tile :=
  if kept then stat else match q with | some q => r.front q | none => some (r.treg treg)

def RangeSt.bank (r : RangeSt) (k : Nat) : Bank := if k = 0 then r.bank0 else r.bank1
def RangeSt.setBank (r : RangeSt) (k : Nat) (b : Bank) : RangeSt := if k = 0 then { r with bank0 := b } else { r with bank1 := b }

/-- Taking the operands of a repeat from their queues (R100, R158). -/
def RangeSt.takeOperands (r : RangeSt) (e : Ewx) (rep : Nat) : RangeSt :=
  let r := match e.queueA with | some q => if e.keptA rep then r else r.take q (decide (e.m 14 2 = 2)) | none => r
  match e.queueB with | some q => if e.keptB rep then r else r.take q (decide (e.m 14 2 = 1)) | none => r

/-- The bank that a repeat starts from: zeroed and tagged at repeat 0 under INIT (R159). -/
def mmaBank (e : Ewx) (rep : Nat) (a b : Tile) (bank : Bank) : Bank :=
  if rep = 0 ∧ e.m 38 1 = 1 then { int := accInt a b, fold := foldCode (e.m 4 4), acc := [] } else bank

/-- R159: the repeat's type, or at repeat 0 its fold code, differs from the bank's tag. -/
def bankBad (e : Ewx) (rep : Nat) (a b : Tile) (bank : Bank) : Bool :=
  decide (bank.int ≠ accInt a b) || (decide (rep = 0) && decide (bank.fold ≠ foldCode (e.m 4 4)))

/-- The causes that a repeat meets (R172, R230); a kept operand was checked at repeat 0. -/
def Mach.mmaCauses (m : Mach) (n : Nat) (e : Ewx) (rep : Nat) (a b : Tile) : List (Nat × Bool) :=
  let bank := mmaBank e rep a b ((m.range n).bank (e.m 39 1))
  [(0x20, (!e.keptA rep && !crestAccepts a.fmt) || (!e.keptB rep && !crestAccepts b.fmt)),
   (0x21, (!e.keptA rep && a.scaled && decide (a.axis ≠ 0)) || (!e.keptB rep && b.scaled && decide (b.axis ≠ 1))),
   (0x22, bankBad e rep a b bank), (0x64, decide (rep = 0) && m.stagingNamed n e)]

/-- A repeat accumulates (R140, R141, R150 to R156, R169 to R171). -/
def RangeSt.accumulateRep (r : RangeSt) (p : Placed) (a b : Tile) (gated : Bool) : RangeSt × Bool :=
  let e := p.ins
  let out := mmaRepeat a b (e.m 4 4) (mmaBank e p.begun a b (r.bank (e.m 39 1)))
  let g := gateCount a b (e.m 4 4)
  let r := (r.setBank (e.m 39 1) out.1).takeOperands e p.begun
  ({ r with statA := if e.m 14 2 = 2 then some a else none, statB := if e.m 14 2 = 1 then some b else none,
            gate := if gated then (r.gate.1 + g.1, r.gate.2 + g.2) else r.gate }, out.2)

/-- CREST_REPEAT_BEGIN (R158, R159, R162). -/
def crestBegin (n : Nat) (ecc : Ecc) (m : Mach) (s : Stream) : Begin :=
  match m.frontOf n 2 with
  | .error c => .held c
  | .ok p =>
    let r := m.range n
    let e := p.ins
    let absentA := !e.keptA p.begun && r.absent e.queueA
    let absentB := !e.keptB p.begun && r.absent e.queueB
    if e.sop ≠ some .mma ∨ m.repHeld n p p.begun then .held 3
    else
      match holdCode [(1, absentA || absentB), (3, p.prevBusy s.lockstep), (4, m.tregBlocked n s.ctx p),
          (6, r.drainUnit.busy && decide (r.drainUnit.bank = e.m 39 1))] with
      | some c => .held c
      | none =>
        match r.operand (e.keptA p.begun) r.statA e.queueA (e.m 25 9), r.operand (e.keptB p.begun) r.statB e.queueB (e.m 16 9) with
        | some a, some b =>
          (match p.causes n 2 p.begun (m.mmaCauses n e p.begun a b) with
           | some at_ => .stop m at_
           | none =>
             let c := if e.tregReads = [] then (m, false) else m.checkTile n ecc
             if c.2 then .stop c.1 (p.stopAt n 2 St.internal 0 p.begun)
             else
               let gated := decide (m.rdF (Reg.RANGE_CREST_CTL n) Fld.RANGE_CREST_CTL_GATE_EN = 1)
               let out := r.accumulateRep p a b gated
               let m := (c.1.setRange n (out.1.begin 2 p.seq)).didRep n 2 p.seq
               .ok (m.convFlags n (if out.2 then flagAccWrap else 0)))
        | _, _ => .held 1

/-! ### CREST.DRAIN -/

/-- The formats that a drain produces (R135). -/
def drainFmt (code : Nat) : Option Fmt := (Fmt.ofCode code).filter (fun f => decide (f = .fp32) || decide (f = .bf16) || decide (f = .fp16) || decide (f = .int32))

def drainPlace (n : Nat) (m : Mach) : Mach :=
  match m.nextIs n .drain with
  | none => m
  | some (s, e) => m.place n s e .drain (if (drainFmt (e.m 35 4)).isNone then some 0x91 else none)

def Ewx.drainQueue (e : Ewx) : Option QId := if e.m 26 2 = 0 then some .drain else none
def Ewx.drainTreg (e : Ewx) : Option Nat := if e.m 26 2 = 1 then some (e.m 17 9) else none

/-- Whether a drain uses TREG_F (R101). -/
def Ewx.fused (e : Ewx) : Bool := decide (e.m 32 3 ≠ 0) || decide (e.m 28 4 ≠ 0)

/-- The causes that a drain meets at its claim (R166, R172, R230). -/
def Mach.drainCauses (m : Mach) (n : Nat) (e : Ewx) (out : Fmt) : List (Nat × Bool) :=
  let b := (m.range n).bank (e.m 39 1)
  let f := (m.range n).treg (e.m 8 9)
  [(0x23, decide (out = .int32) != b.int),
   (0x24, e.fused && (b.int || f.scaled || !(decide (f.fmt = .fp32) || decide (f.fmt = .bf16) || decide (f.fmt = .fp16)))),
   (0x64, m.stagingNamed n e)]

/-- A CREST.DRAIN claims its destination (R160 to R162). -/
def drainBegin (n : Nat) (ecc : Ecc) (m : Mach) (s : Stream) : Begin :=
  match m.frontOf n 2 with
  | .error c => .held c
  | .ok p =>
    let r := m.range n
    let e := p.ins
    match (if e.sop = some .drain then drainFmt (e.m 35 4) else none) with
    | none => .held 3
    | some out =>
      if m.repHeld n p 0 then .held 3
      else
        match holdCode [(2, r.full e.drainQueue out), (3, r.drainUnit.busy), (4, m.tregBlocked n s.ctx p)] with
        | some c => .held c
        | none =>
          match p.causes n 2 0 (m.drainCauses n e out) with
          | some at_ => .stop m at_
          | none =>
            let c := if e.fused then m.checkTile n ecc else (m, false)
            if c.2 then .stop c.1 (p.stopAt n 2 St.internal 0 0)
            else
              let leak := m.rdF (Reg.RANGE_CREST_CTL n) Fld.RANGE_CREST_CTL_LEAK_SLOPE
              let d := drainTile (r.bank (e.m 39 1)) (e.m 32 3) (e.m 28 4) leak (r.treg (e.m 8 9)) out (m.rounding n s.ctx p 0)
              let r := (r.deliver 2 p.seq e.drainQueue e.drainTreg d.1).begin 2 p.seq
              let r := { r with drainUnit := { busy := true, bank := e.m 39 1, toQueue := decide (e.m 26 2 = 0) } }
              .ok (((c.1.setRange n r).didRep n 2 p.seq).convFlags n d.2)

/-- CREST.DRAIN: placed by the dispatcher, then claimed at its station. -/
def crestDrain (n : Nat) (ph : Phase) (ecc : Ecc) (m : Mach) : Mach :=
  match ph with
  | .place => drainPlace n m
  | .run => m.flowBegin n (drainBegin n ecc)

/-- The 16 readout cycles end: the bank is not draining any more (R161). -/
def readoutEnd (n : Nat) (m : Mach) : Mach :=
  m.when (m.range n).drainUnit.busy (fun m => m.updRange n (fun r => { r with drainUnit := { r.drainUnit with busy := false } }))

/-- How many drained tiles have not arrived. -/
def RangeSt.drainsOut (r : RangeSt) : Nat :=
  (r.drain.entries.filter (fun q => !q.full)).length + (r.regWrites.filter (fun w => decide (w.station = 2))).length

/-- The oldest drained tile arrives in the drain queue or its register, after its readout (R161). -/
def drainFull (n : Nat) (m : Mach) : Mach :=
  let r := m.range n
  if r.drainsOut ≤ b2n r.drainUnit.busy then m
  else
    let queued := r.drain.entries.any (fun q => !q.full)
    match r.regWrites.find? (fun w => decide (w.station = 2)) with
    | none => m.setRange n (r.arrive 2 0 (some .drain) none none)
    | some w =>
      if queued ∧ !r.drainUnit.toQueue then m.setRange n (r.arrive 2 0 (some .drain) none none)
      else m.setRange n (r.arrive 2 w.seq none (some w.treg) none)

/-! ### Rows -/

def execCrestMma (n : Fin 16) (s : State) : Host.Outcome State Fault Refusal := s.run (mmaPlace n)
def execCrestRepeatBegin (n : Fin 16) (ecc : Ecc) (s : State) : Host.Outcome State Fault Refusal :=
  s.run (fun m => m.flowBegin n (crestBegin n ecc))
def execCrestDrain (n : Fin 16) (phase : Phase) (ecc : Ecc) (s : State) : Host.Outcome State Fault Refusal := s.run (crestDrain n phase ecc)
def execDrainReadoutEnd (n : Fin 16) (s : State) : Host.Outcome State Fault Refusal := s.run (readoutEnd n)
def execDrainTileFull (n : Fin 16) (s : State) : Host.Outcome State Fault Refusal := s.run (drainFull n)

end Sys2Proof.Machine
end

