-- ==== Sys2Proof/Machine/Start.lean ====
section
/-!
DEFINITION. Start-up and reset (18_start_and_reset): the cold reset, the stages S0 to S5 and how they fail, and the reset kinds.
-/

namespace Sys2Proof.Machine

/-! ### The start sequence's registers -/

def Mach.failed (m : Mach) : Bool := decide (m.rdF Reg.CAIRN_START_STATUS Fld.CAIRN_START_STATUS_FAILED = 1)

/-- A stage fails: the module stays in it (R608). -/
def Mach.failStage (m : Mach) (stage cause : Nat) : Mach :=
  let m := (m.wrF Reg.CAIRN_START_STATUS Fld.CAIRN_START_STATUS_FAILED 1).wrF Reg.CAIRN_START_STATUS Fld.CAIRN_START_STATUS_FAIL_STAGE stage
  let m := m.wrF Reg.CAIRN_START_STATUS Fld.CAIRN_START_STATUS_FAIL_CAUSE cause
  { m with cairn := { m.cairn with resetting := none } }

/-- Stage `k` ends: its time is kept, and the next one begins (R603, R622). -/
def Mach.nextStage (m : Mach) (k : Nat) : Mach :=
  let t := if k = 0 ∧ m.cairn.resetting = some 1 then 0 else (m.clk - m.cairn.powerGood.getD m.clk) / ms 1
  let m := (m.wr (Reg.CAIRN_STAGE_TIME k) (BitVec.ofNat 32 t)).wrF Reg.CAIRN_START_STATUS Fld.CAIRN_START_STATUS_STAGE (k + 1)
  { m with cairn := { m.cairn with stageAt := m.clk } }

/-- `RESET_CAUSE` (R621). -/
def Mach.resetCause (m : Mach) (kind source target : Nat) : Mach :=
  let m := (m.wrF Reg.CAIRN_RESET_CAUSE Fld.CAIRN_RESET_CAUSE_KIND kind).wrF Reg.CAIRN_RESET_CAUSE Fld.CAIRN_RESET_CAUSE_SOURCE source
  (m.wrF Reg.CAIRN_RESET_CAUSE Fld.CAIRN_RESET_CAUSE_TARGET target).addF Reg.CAIRN_RESET_CAUSE Fld.CAIRN_RESET_CAUSE_COUNT 1

def laneSource (l : Lane) : Nat := match l with | .data => 2 | .mgmt => 3

/-! ### Cold reset (R602, R617) -/

/-- What outlives the loss of every island: non-volatile fields and hours of the LSUs, banks, the audit log, the trimmers and the
record of a dark-map write; and what has already been sent. -/
def Mach.coldState (m : Mach) : Mach :=
  let m := m.toOpen .reset
  let q : Mach := { Mach.reset with
    clk := m.clk, draws := m.draws, csr := m.csr,
    cairn := { CairnSt.reset with banks := m.cairn.banks, log := m.cairn.log, permanent := m.cairn.permanent, logSeq := m.cairn.logSeq,
                                  chain := m.cairn.chain },
    optics := { OpticsSt.reset with cross := m.optics.cross, dark := m.optics.dark },
    group := { Mach.reset.group with sent := m.group.sent }, sent := m.sent,
    swite := { SwiteSt.reset with replies := m.swite.replies, txnSent := m.swite.txnSent, linkOut := m.swite.linkOut, control := m.swite.control } }
  q.resetRegs (fun a => !(decide (a = Reg.CIRQUE_LSU_HOURS 0) || decide (a = Reg.CIRQUE_LSU_HOURS 1)))

/-- COLD_RESET: the Cairn island starts. -/
def coldReset (m : Mach) : Mach := m.coldState.newNonce

/-- CAIRN_INPUT_LOSS: every island loses power (R500, R602). -/
def cairnInputLoss (m : Mach) : Mach :=
  let m := m.coldState
  { m with treeline := { m.treeline with islands := (List.range 108).map Island.off }, cairn := { m.cairn with resetting := none } }

/-- POWER_GOOD: time t0 of R603; the strap `TB_COMBINED_N` is sampled (R666). -/
def powerGood (m : Mach) : Mach :=
  if (m.island cairnIsland).powered ∧ m.cairn.powerGood = none then
    { m with cairn := { m.cairn with powerGood := some m.clk, stageAt := m.clk }, timebase := { m.timebase with combined := Config.tbCombined } }
  else m

/-! ### The stages (R529, R530, R603 to R608) -/

/-- Whether a bank's package passes the checks of R529. -/
def Mach.bankPasses (m : Mach) (r : StageResult) (b : Nat) : Bool :=
  !(m.bank b).empty && (if b = 0 then r.bankAOk else r.bankBOk) && decide (m.svn ≤ (m.bank b).svn)

/-- S0 ends with the package of a bank running, or stays in recovery. -/
def Mach.endS0 (m : Mach) (r : StageResult) : Mach :=
  let m := m.wrF Reg.SWITE_STATUS Fld.SWITE_STATUS_MGMT_UP 1
  let p := m.rdF Reg.CAIRN_STATE Fld.CAIRN_STATE_PREFER_BANK
  match [p, 1 - p].find? (m.bankPasses r) with
  | none => (m.wrF Reg.CAIRN_STATE Fld.CAIRN_STATE_RECOVERY 1).failStage 0 1
  | some b =>
    let m : Mach := { m with cairn := { m.cairn with runSvn := (m.bank b).svn } }
    ((m.wrF Reg.CAIRN_STATE Fld.CAIRN_STATE_RUN_BANK b).wrF Reg.CAIRN_STATE Fld.CAIRN_STATE_FALLBACK (b2n (decide (b ≠ p)))).nextStage 0

/-- Replies that waited for the data link go out (R572). -/
def Mach.releaseHeld (m : Mach) : Mach :=
  let q : Mach := { m with swite := { m.swite with held := [] } }
  m.swite.held.foldl (fun m r => m.send r) q

/-- The receive space that the module grants each class as the link comes up (R571). -/
def Mach.grantSpace (m : Mach) : Mach :=
  { m with swite := { m.swite with control := m.swite.control ++ (List.range 8).map (fun k => .credit k 1024) } }

/-- The stacks come out of training (R605): a failed one reads 0x4. -/
def Mach.trainStacks (m : Mach) (failed : Nat) : Mach :=
  (m.each (List.range 12) (fun m s => stackState m s (if bitOf failed s then 4 else 3))).wrF Reg.LEDGE_MEM_SUMMARY
    Fld.LEDGE_MEM_SUMMARY_STACK_FAILED failed

/-- S1 ends: rails, data link and firmware version; S2 trains the stacks and runs the whole-memory scrub, unless Foothill was retained
with its scrub complete (R603, R605, R612, R619). -/
def Mach.endS1 (m : Mach) (r : StageResult) : Mach :=
  let m := m.each (List.range' 64 44) (fun m i => m.updIsland i (fun x => { x with powered := true, clocked := true }))
  let b := m.bank (m.rdF Reg.CAIRN_STATE Fld.CAIRN_STATE_RUN_BANK)
  let m := m.wr Reg.MODULE_FW_VERSION (BitVec.ofNat 32 (4 * 2 ^ 24 + b.minor % 256 * 65536 + b.patch % 65536))
  let m := (m.wrF Reg.SWITE_STATUS Fld.SWITE_STATUS_STATE 2).wrF Reg.SWITE_STATUS Fld.SWITE_STATUS_LANES_UP 0xFFFF
  let kept := decide (m.rdF Reg.LEDGE_MEM_SUMMARY Fld.LEDGE_MEM_SUMMARY_SCRUB_COMPLETE = 1)
  let m := (m.grantSpace.releaseHeld.trainStacks r.stacksFailed).nextStage 1
  let m := if kept then m else m.startScrub
  if bitOf r.stacksFailed 0 ∨ bitOf r.stacksFailed 6 then m.failStage 2 3 else m

/-- Stage S3 begins (R375): the LSUs are enabled, and one that is stable already starts ring lock. -/
def Mach.beginS3 (m : Mach) : Mach :=
  let m := m.darkReset.wrF Reg.CIRQUE_STATUS Fld.CIRQUE_STATUS_STAGE 1
  let m := m.each [0, 1] (fun m b => if m.lsu b Fld.CIRQUE_LSU_STATUS_PRESENT then m.wrF (Reg.CIRQUE_LSU_STATUS b) Fld.CIRQUE_LSU_STATUS_ENABLED 1 else m)
  if m.lsu 0 Fld.CIRQUE_LSU_STATUS_STABLE then lsuStable 0 m
  else if m.lsu 1 Fld.CIRQUE_LSU_STATUS_STABLE then lsuStable 1 m
  else m

/-- A context that a retained reset kept has its ranges again, and its Tarn records restored (R323, R612). -/
def Mach.rebuild (m : Mach) (c : Nat) : Mach :=
  if (m.ctx c).isNone then m
  else (m.restoreRecords c).each (maskBits (m.rdF (Reg.TRAVERSE_CONTEXT_RANGES c) Fld.TRAVERSE_CONTEXT_RANGES_RANGE_MASK) 16)
    (fun m n => m.assignRange c n)

/-- S2 ends: Ledge is zeroed and ready, kept contexts are rebuilt, and a clearing that the reset cut off starts again (R542). -/
def Mach.endS2 (m : Mach) : Mach :=
  let m := (m.massifOn.each (List.range 16) Mach.rebuild).nextStage 2
  let m := match m.cairn.clearing with
    | none => m
    | some (_, ws) => ({ m with cairn := { m.cairn with clearing := some (m.clk, ws) } } : Mach).massifOff.startScrub
  m.beginS3

/-- S3 ends: circuit-switch mode with the identity permutation, and every lit port trains (R375, R607). -/
def Mach.endS3 (m : Mach) : Mach :=
  let m := (m.wrF Reg.CIRQUE_STATUS Fld.CIRQUE_STATUS_STAGE 4).setCircuits identityCircuits false
  let m := (m.wrF Reg.CAIRN_START_STATUS Fld.CAIRN_START_STATUS_FABRIC_OK 1).nextStage 3
  m.each ((List.range 32).filter (fun p => (m.port p).light)) Mach.trainPort

/-- Whether every port has completed discovery or has seen no light for 5 s (R607); without a fabric no port
sees any (R606). -/
def Mach.discoveryOver (m : Mach) : Bool := m.ports.all (fun x => x.discovered || (x.noLight5s && (!x.light || !m.fabricOk)))

def Mach.endS4 (m : Mach) : Mach :=
  let m := m.nextStage 4
  ({ m with cairn := { m.cairn with resetting := none } } : Mach).settleResets

/-- STAGE_END. (DEDUCED, log entry 30.) -/
def stageEnd (r : StageResult) (m : Mach) : Mach :=
  if m.failed ∨ m.cairn.powerGood = none ∨ m.cairn.resetHeld ∨ m.poweredOff ∨ !(m.island cairnIsland).powered then m
  else match m.stage with
    | 0 => m.endS0 r
    | 1 => m.endS1 r
    | 2 => if m.rdF Reg.LEDGE_MEM_SUMMARY Fld.LEDGE_MEM_SUMMARY_SCRUB_COMPLETE = 1 then m.endS2 else m
    | 3 => if m.opticsStage = 3 then m.endS3 else m
    | 4 => if m.discoveryOver then m.endS4 else m
    | _ => m

/-- The deadlines of S0 to S2 from power-good. -/
def stageLimit (k : Nat) : Nat := if k = 0 then ms 100 else if k = 1 then secs 2 else secs 6

/-- STAGE_DEADLINE_OVERRUN: a rail fault (0x2), or the deadline has passed (0x4). -/
def stageOverrun (cause : Nat) (m : Mach) : Mach :=
  match m.cairn.powerGood with
  | none => m
  | some t =>
    if 2 < m.stage ∨ m.failed ∨ m.poweredOff then m
    else if cause = 2 then m.failStage m.stage 2
    else if cause = 4 ∧ t + stageLimit m.stage ≤ m.clk then m.failStage m.stage 4
    else m

/-- DISCOVERY_LIGHT_TIMEOUT. -/
def lightTimeout (p : Nat) (m : Mach) : Mach :=
  if m.stage = 4 ∧ (!(m.port p).light ∨ !m.fabricOk) ∧ m.cairn.stageAt + secs 5 ≤ m.clk then m.updPort p (fun x => { x with noLight5s := true }) else m

/-- S3_TIMEOUT: no LSU stable at 30 s, or no end within 45 s; the module goes on without its fabric (R375, R606). -/
def s3Timeout (m : Mach) : Mach :=
  if m.stage = 3 ∧ ((m.opticsStage = 1 ∧ m.cairn.stageAt + secs 30 ≤ m.clk) ∨ m.cairn.stageAt + secs 45 ≤ m.clk) then
    ((m.wrF Reg.CIRQUE_STATUS Fld.CIRQUE_STATUS_STAGE 5).wrF Reg.CAIRN_START_STATUS Fld.CAIRN_START_STATUS_FABRIC_OK 0).nextStage 3
  else m

/-! ### Module reset (R609 to R612, R619) -/

/-- The registers that Traverse rebuilds from its reserved regions. -/
def rebuiltReg (a : Nat) : Bool :=
  (List.range 16).any (fun c => decide (a = Reg.TRAVERSE_CONTEXT_RANGES c) || decide (a = Reg.TRAVERSE_CONTEXT_SYNC c) || decide (a = Reg.TRAVERSE_CLOSED_STEP c)) ||
  (match windowOf a with
   | some (.foothill, _, off) => decide (0x1100 ≤ off) || decide (off = 0x24) || decide (off = 0)
   | some (.ledge, _, off) => decide (off = 0)
   | _ => false)

/-- What a retained reset keeps of a context. -/
def Ctx.kept (x : Ctx) : Ctx :=
  { x with step := none, next := none, holds := [], pass := none, pushWait := none, p0 := none, pinned := false }

/-- Foothill's contents, trackers and queued scrubs, every context, and what the ward knows of its buddy's slots, as they were before
(R464, R478, R612, R619). -/
def Mach.retainFrom (m old : Mach) : Mach :=
  let foot (a : Nat) : Bool := decide (a < 12 * 2 ^ 37)
  let q : Mach := { m with
    mem := { MemSt.reset with bytes := Sparse.clear old.mem.bytes (fun a => !foot a), poison := old.mem.poison.filter foot,
                              owned := old.mem.owned, scrubQueue := old.mem.scrubQueue, sealed := old.mem.sealed,
                              dram := old.mem.dram.map (fun s => { s with scrubbing := false, grants := [], rangeGrants := [] }) },
    ctxs := old.ctxs.map (fun o => o.map Ctx.kept),
    belay := { m.belay with buddyHasSlot := old.belay.buddyHasSlot, lastBuddy := old.belay.lastBuddy,
                            committedSincePower := old.belay.committedSincePower, lastDirty := old.belay.lastDirty } }
  let q := (old.csr.filter (fun e => rebuiltReg e.1)).foldl (fun m e => m.wr e.1 e.2) q
  (q.wrF Reg.LEDGE_MEM_SUMMARY Fld.LEDGE_MEM_SUMMARY_LEDGE_A_READY 0).wrF Reg.LEDGE_MEM_SUMMARY Fld.LEDGE_MEM_SUMMARY_LEDGE_B_READY 0

/-- Cairn restarts from its boot ROM: its volatile state goes (R531). -/
def Mach.restartCairn (m : Mach) : Mach :=
  let prefer := m.rdF Reg.CAIRN_STATE Fld.CAIRN_STATE_PREFER_BANK
  let m : Mach := { m with cairn := { m.cairn with session := none, ephKeys := [], slotKeys := [], lkFrozen := none, activating := none } }
  let m := m.resetRegs (fun a => inBlock .cairn a && decide (a ≠ Reg.CAIRN_RESET_CAUSE))
  (m.wrF Reg.CAIRN_STATE Fld.CAIRN_STATE_PREFER_BANK prefer)

/-- A module reset: `restart` says that Cairn restarts with it, `held` that `MOD_RESET_N` holds S1 back. (DEDUCED, log entry 31.) -/
def Mach.moduleReset (m : Mach) (source : Nat) (retain restart held : Bool) : Mach :=
  let keep := retain && decide (m.trust ≠ 2)
  let clears := decide (m.trust = 2) || m.clearing
  let recovery := m.recovery
  let old := m
  let m := (m.setDebug false).darkReset
  let m := (if clears then m.toOpen .reset |>.blank.dropKeys else (m.toOpen .reset).blank)
  let m := if keep then m.retainFrom old else m
  let m := if restart then m.restartCairn else m
  let m := if m.sessionUp then m.wrF Reg.SWITE_STATUS Fld.SWITE_STATUS_ENCRYPTED 1 else m
  let m := (m.wrF Reg.SWITE_STATUS Fld.SWITE_STATUS_MGMT_UP (b2n (!restart))).wr Reg.CAIRN_START_STATUS 0
  let m := m.wrF Reg.CAIRN_START_STATUS Fld.CAIRN_START_STATUS_STAGE (if restart || recovery then 0 else 1)
  let m := (m.wrF Reg.CAIRN_START_STATUS Fld.CAIRN_START_STATUS_RETAINED (b2n keep)).wrF Reg.CAIRN_STATE Fld.CAIRN_STATE_RECOVERY 0
  let m := (m.each (List.range 5) (fun m k => m.wr (Reg.CAIRN_STAGE_TIME k) 0)).resetCause 1 source 0
  let m := ((m.wr Reg.MODULE_ALERT_MASK 0).wr Reg.MODULE_SCRATCH 0).wr Reg.CAIRN_LOG_CTL 0
  let m := (((m.wr Reg.MODULE_TROUBLE 0).wr Reg.MODULE_FW_VERSION 0).wrF Reg.MODULE_COMPAT Fld.MODULE_COMPAT_LEVEL_PLAN 0).wrF
    Reg.CAIRN_STATE Fld.CAIRN_STATE_CLEARING (b2n clears)
  { m with faultN := false, cairn := { m.cairn with
      resetting := some 1, powerGood := some m.clk, stageAt := m.clk, resetHeld := held, clearing := if clears then some (m.clk, []) else none } }

/-- Whether a cold or module reset is in progress (R609, R618). -/
def Mach.inReset (m : Mach) : Bool := m.cairn.resetting.isSome

/-- A RESET that waits: no reply yet. -/
def Mach.awaitReset (m : Mach) (h : Hdr) (w : ResetFor) : Mach :=
  let q : Mach := { m with cairn := { m.cairn with waits := m.cairn.waits ++ [{ lane := h.lane, ctx := h.ctx, tag := h.tag, what := w }] } }
  q.begin h Op.reset

/-- RESET kind 1: DONE first, then the reset; one that arrives during a reset is merged into it. -/
def moduleResetBody (h : Hdr) (target : Nat) (m : Mach) : Mach :=
  if h.ctx ≠ 0xFF ∨ 1 < target then m.answer h Op.reset St.badParam
  else if m.inReset then m.awaitReset h .stages
  else (m.answer h Op.reset St.done).moduleReset (laneSource h.lane) (decide (target = 1)) false false

/-- ACTIVATION: a module reset in which Cairn restarts, logged with the bank and its SVN (R531, R560). -/
def activation (m : Mach) : Mach :=
  match m.cairn.activating with
  | none => m
  | some b => (m.log 0x0013 St.done (b + 256 * (m.bank b).svn) 0).moduleReset 4 false true false

/-- MOD_RESET_N low for 10 µs. -/
def modResetAssert (m : Mach) : Mach :=
  if m.modResetLow then m
  else
    let q : Mach := { m with modResetLow := true }
    if !(m.island cairnIsland).powered then q
    else if m.inReset then { q with cairn := { q.cairn with resetHeld := decide (q.stage ≤ 1) && q.cairn.powerGood.isSome } }
    else q.moduleReset 1 false false true

/-- MOD_RESET_N released: S1 begins. -/
def modResetDeassert (m : Mach) : Mach :=
  let q : Mach := { m with modResetLow := false }
  if q.cairn.resetHeld then { q with cairn := { q.cairn with resetHeld := false, stageAt := q.clk } } else q

/-! ### Context, range, port and tenant resets (R613 to R616) -/

/-- The ranges assigned to a context. -/
def Mach.ctxMask (m : Mach) (c : Nat) : Nat := m.rdF (Reg.TRAVERSE_CONTEXT_RANGES c) Fld.TRAVERSE_CONTEXT_RANGES_RANGE_MASK

/-- A range that a reset clears: its rw registers go with R40's clearing, and it stays assigned (R617). -/
def Mach.resetRange (m : Mach) (c n : Nat) : Mach := (m.wr (Reg.RANGE_CREST_CTL n) (regReset (Reg.RANGE_CREST_CTL n))).clearRange n c

/-- A context reset: its streams stop, its own registers and its ranges' take their reset values (R613, R617). (DEDUCED, log entry 24.) -/
def Mach.resetContext (m : Mach) (c : Nat) : Mach :=
  let m := m.quietContext c St.stepAborted
  let m := if m.frozen c then m.endFreeze 6 else m
  let m := m.restoreRecords c
  let m := m.each (List.range' (m.syncBase c) (m.syncLen c)) (fun m k => m.wr (Reg.TRAVERSE_SYNC_COUNTER k) 0)
  let m := m.resetRegs (fun a => (decide (Reg.TRAVERSE_SERVE_CFG c ≤ a) && decide (a < Reg.TRAVERSE_SERVE_CFG c + 16)) ||
    (decide (Reg.TRAVERSE_CLIP_CFG_MAX c ≤ a) && decide (a < Reg.TRAVERSE_CLIP_CFG_MAX c + 8)))
  let m := m.updCtx c (fun x => { x with p0 := none })
  m.each (maskBits (m.ctxMask c) 16) (fun m n => m.resetRange c n)

def contextResetBody (h : Hdr) (target : Nat) (m : Mach) : Mach :=
  let w : ResetFor := .ranges (m.ctxMask h.ctx)
  if 16 ≤ h.ctx ∨ target ≠ 0 then m.answer h Op.reset St.badParam
  else if m.cairn.waits.any (fun v => decide (v.what = w)) then m.awaitReset h w
  else (((m.resetCause 2 (laneSource h.lane) h.ctx).resetContext h.ctx).awaitReset h w).settleResets

def rangeResetBody (h : Hdr) (target : Nat) (m : Mach) : Mach :=
  if 16 ≤ h.ctx ∨ 16 ≤ target then m.answer h Op.reset St.badParam
  else if !m.owns h.ctx target then m.answer h Op.reset St.notPermitted
  else match m.cairn.waits.find? (fun v => match v.what with | .ranges mask => bitOf mask target | _ => false) with
    | some v => m.awaitReset h v.what
    | none =>
      let at_ : StopAt := match (m.range target).oldest with
        | some x => { range := target, status := St.streamFault, cause := 0x08, instr := x.2.idx, rep := x.2.done, station := x.1, cond := 0 }
        | none => { range := target, status := St.streamFault, cause := 0x08, instr := 0xFFFF, rep := 0, station := 0, cond := 0 }
      let m := m.resetCause 3 (laneSource h.lane) target
      let m := match m.streamOn target with | some s => m.stopStream s.id St.streamFault [at_] | none => m
      (m.resetRange h.ctx target).awaitReset h (.ranges (2 ^ target))

/-- A port starts over: kept and received frames go, its rings sweep, and its lanes train (R615). -/
def Mach.restartPort (m : Mach) (p : Nat) : Mach :=
  let m := (m.flushPort p).updPort p (fun x => { x with reduceIn := [], peer := none, keyed := false })
  let m : Mach := { m with messages := m.messages.filter (fun x => decide (x.port ≠ p)) }
  let m := (m.wr (Reg.PORT_SADDLE_FMT p) 0).trainPort p
  (if (m.port p).light then m else m.setPortState p 6).belayPathDown

def Mach.resetPort (m : Mach) (p : Fin 32) : Mach := ((ringsOf p).foldl (fun m r => m.resweep r) m).restartPort p

def portResetBody (h : Hdr) (target : Nat) (m : Mach) : Mach :=
  if h.ctx ≠ 0xFF then m.answer h Op.reset St.badParam
  else if hp : target < 32 then
    (if m.inReset then m.awaitReset h .stages
     else
       let m := m.resetCause 4 (laneSource h.lane) target
       if !m.fabricOk then m.answer h Op.reset St.done else (m.resetPort ⟨target, hp⟩).awaitReset h (.port target))
  else m.answer h Op.reset St.badParam

/-- RESET kind 5: the clearing, which also ends debug mode (R616, R642). -/
def tenantResetBody (h : Hdr) (target : Nat) (m : Mach) : Mach :=
  if h.ctx ≠ 0xFF ∨ target ≠ 0 then m.answer h Op.reset St.badParam
  else if m.inReset then m.awaitReset h .stages
  else
    let m := ((m.resetCause 5 (laneSource h.lane) 0).setDebug false).begin h Op.reset
    m.beginClearing [(h.lane, h.tag, Op.reset)] .reset

/-! ### Rows -/

def resetParam (kind target : Nat) : List Byte := leBytes kind 1 ++ [0] ++ leBytes target 2

def execModuleReset (h : Hdr) (target : Nat) (s : State) : Host.Outcome State Fault Refusal :=
  s.run (fun m => m.command Op.reset h (resetParam 1 target) (moduleResetBody h target))
def execContextReset (h : Hdr) (target : Nat) (s : State) : Host.Outcome State Fault Refusal :=
  s.run (fun m => m.command Op.reset h (resetParam 2 target) (contextResetBody h target))
def execRangeReset (h : Hdr) (target : Nat) (s : State) : Host.Outcome State Fault Refusal :=
  s.run (fun m => m.command Op.reset h (resetParam 3 target) (rangeResetBody h target))
def execPortReset (h : Hdr) (target : Nat) (s : State) : Host.Outcome State Fault Refusal :=
  s.run (fun m => m.command Op.reset h (resetParam 4 target) (portResetBody h target))
def execTenantReset (h : Hdr) (target : Nat) (s : State) : Host.Outcome State Fault Refusal :=
  s.run (fun m => m.command Op.reset h (resetParam 5 target) (tenantResetBody h target))
def execColdReset (s : State) : Host.Outcome State Fault Refusal := s.run coldReset
def execPowerGood (s : State) : Host.Outcome State Fault Refusal := s.run powerGood
def execStageEnd (r : StageResult) (s : State) : Host.Outcome State Fault Refusal := s.run (stageEnd r)
def execStageDeadlineOverrun (cause : Nat) (s : State) : Host.Outcome State Fault Refusal := s.run (stageOverrun cause)
def execDiscoveryLightTimeout (p : Fin 32) (s : State) : Host.Outcome State Fault Refusal := s.run (lightTimeout p)
def execModResetNAssert (s : State) : Host.Outcome State Fault Refusal := s.run modResetAssert
def execModResetNDeassert (s : State) : Host.Outcome State Fault Refusal := s.run modResetDeassert
def execActivation (s : State) : Host.Outcome State Fault Refusal := s.run activation
def execCairnInputLoss (s : State) : Host.Outcome State Fault Refusal := s.run cairnInputLoss
def execS3Timeout (s : State) : Host.Outcome State Fault Refusal := s.run s3Timeout

end Sys2Proof.Machine
end

