-- ==== Sys2Proof/Machine/Csr.lean ====
section
/-!
DEFINITION. Control space (20_control_space, R8, R9): the checks of a CSR command, registers as they read, writes with their
field codes, checks and actions, and the commands HELLO, IDENTIFY, CSR_READ, CSR_WRITE and CSR_READ_BLOCK.
-/

namespace Sys2Proof.Machine

/-! ### Checks of a whole command (R648, R650, R651) -/

/-- The window of `n` registers from an address; none where R648 refuses them. -/
def csrWindow (a n : Nat) : Option (Block × Nat) :=
  if a % 4 ≠ 0 then none
  else match windowOf a, windowOf (a + 4 * (n - 1)) with
    | some (b, i, _), some (c, j, _) => if b = c ∧ i = j then some (b, i) else none
    | _, _ => none

/-- The stage whose end opens a block's registers (R604, R650). -/
def Block.stage : Block → Nat
  | .cairn | .treeline | .swite => 1
  | _ => 2

/-- Whether the registers of a window can be written: its island is powered (R651). -/
def Mach.writable (m : Mach) (b : Block) (i : Nat) : Bool :=
  match b with
  | .range => (m.island (4 * i)).powered && !m.poweredOff
  | .cairn => true
  | _ => !m.poweredOff

/-! ### Registers as they read -/

/-- The section of the audit log that `LOG_CTL` selects (R566). -/
def Mach.logSection (m : Mach) : List (List Byte) :=
  if m.rdF Reg.CAIRN_LOG_CTL Fld.CAIRN_LOG_CTL_PERMANENT = 1 then m.cairn.permanent else m.cairn.log

/-- `FREE_KIB` (R121). -/
def Mach.freeKiB (m : Mach) : Nat := if m.stage = 0 then 0 else min ((64 * 2 ^ 20 - m.imagesWithout 16 0) / 1024) 0xFFFF

/-- The interferometer with the fewest counts left, and how many (R385). -/
def Mach.trimMin (m : Mach) : Nat × Nat :=
  (List.range' 1 2015).foldl (fun best k => if m.trimLeft k < best.2 then (k, m.trimLeft k) else best) (0, m.trimLeft 0)

/-- `CREST_BANK_STATUS` (R175). -/
def RangeSt.bankStatus (r : RangeSt) : Nat :=
  b2n r.drainUnit.busy * 2 ^ 15 + b2n (r.drainUnit.busy && decide (r.drainUnit.bank = 1)) * 2 ^ 9 + b2n r.bank1.int * 2 ^ 8 +
    r.bank1.fold * 2 ^ 5 + b2n (r.drainUnit.busy && decide (r.drainUnit.bank = 0)) * 2 ^ 4 + b2n r.bank0.int * 2 ^ 3 + r.bank0.fold

def Mach.streaming (m : Mach) (n : Nat) : Bool := decide (m.rangeState n = 2) || decide (m.rangeState n = 3)

/-- A register of a range (R81, R82, R175, R208). -/
def Mach.viewRange (m : Mach) (n off : Nat) (v : Word) : Word :=
  if off = 0x10 then (if m.streaming n || decide (m.rangeState n = 5) then queueFill (m.range n) else v)
  else if 0x100 ≤ off ∧ off < 0x510 then (if m.streaming n then 0 else v)
  else if off = 0x708 ∨ off = 0x70C then (if m.streaming n then 0 else v)
  else if off = 0x604 then BitVec.ofNat 32 (m.range n).bankStatus
  else v

/-- The commands without a final reply, the one that reads among them (R600). -/
def Mach.withoutReply (m : Mach) : Nat := m.swite.outstanding.length + m.inFlight.length + 1

/-- A register as it reads: the stored value, or what it is computed from. (DEDUCED, log entry 16.) -/
def Mach.view (m : Mach) (a : Nat) : Word :=
  let v := m.rd a
  match windowOf a with
  | some (.range, n, off) => m.viewRange n off v
  | some (.cairn, _, off) =>
    if off = 0x204 then Word.setF v Fld.CAIRN_LOG_STATUS_HELD (min m.logSection.length 0xFFFF)
    else if 0x210 ≤ off ∧ off < 0x230 then
      BitVec.ofNat 32 (leAt (m.logSection.getD (m.rdF Reg.CAIRN_LOG_CTL Fld.CAIRN_LOG_CTL_INDEX) []) (off - 0x210) 4)
    else v
  | some (.traverse, _, off) =>
    if off = 0x490 then Word.setF v Fld.TRAVERSE_IMAGE_STORE_FREE_KIB m.freeKiB
    else if off = 0x714 then m.timebase.ticks.extractLsb' 0 32
    else v
  | some (.swite, _, off) => if off = 0xC then BitVec.ofNat 32 (m.withoutReply % 65536) else v
  | some (.treeline, _, off) => if 0x100 ≤ off ∧ off < 0x19C then m.zoneWord ((off - 0x100) / 4) else v
  | some (.cirque, _, off) =>
    if off = 0x64 then BitVec.ofNat 32 (m.trimMin.1 * 65536 + m.trimMin.2) else v
  | _ => v

/-- The fields of the register at an address. -/
def fieldsAt (a : Nat) : List FieldSpec := (regAt a).elim [] (fun r => r.fields)

/-- What a read returns of a value: write-only fields read 0 (R8). -/
def shown (a : Nat) (v : Word) : Word := (fieldsAt a).foldl (fun w f => if f.acc = .wo then Word.setF w f.fld 0 else w) v

/-- What a read leaves: rc fields at their reset values (R8), and the halves of `TIMEBASE_NOW` and `STEP_DEADLINE` that their other
half latches (R429, R459). -/
def Mach.afterRead (m : Mach) (a : Nat) : Mach :=
  if a = Reg.TRAVERSE_TIMEBASE_NOW_LO then m.wr Reg.TRAVERSE_TIMEBASE_NOW_HI (m.timebase.ticks.extractLsb' 32 32)
  else if a = Reg.TRAVERSE_STEP_DEADLINE_LO then m.wr Reg.TRAVERSE_STEP_DEADLINE_HI m.timebase.tdHi
  else m.wr a ((fieldsAt a).foldl (fun w f => if f.acc = .rc then Word.setF w f.fld f.reset else w) (m.rd a))

/-- Reading one register. -/
def Mach.csrGet (m : Mach) (a : Nat) : Word × Mach := (shown a (m.view a), m.afterRead a)

/-- Reading `n` registers in address order (R9, R652). -/
def Mach.csrGets (m : Mach) (a : Nat) : Nat → List Byte × Mach
  | 0 => ([], m)
  | n + 1 =>
    let r := m.csrGet a
    let rest := r.2.csrGets (a + 4) n
    (leBytes r.1.toNat 4 ++ rest.1, rest.2)

/-- What the sideband's process call reads of control space (R668): the registers that it names, from the stage at which R650 opens
them; none, a NACK of the read phase, for any other address. It changes nothing, so it is a function of the state and no command: the
table has no row for it (log entry 64). (DESIGN CHOICE, log entry 64.) -/
def Mach.sideband (m : Mach) (a : Nat) : Option Word :=
  let named := (decide (Reg.MODULE_SERIAL_LO ≤ a) && decide (a ≤ Reg.MODULE_SCRATCH) && decide (a % 4 = 0)) ||
    decide (a ∈ [Reg.CAIRN_STATE, Reg.CAIRN_START_STATUS, Reg.TREELINE_STATUS, Reg.TREELINE_INPUT, Reg.TREELINE_COOLANT, Reg.SWITE_STATUS])
  match csrWindow a 1 with
  | some (b, _) => if named && (m.island cairnIsland).powered && decide (b.stage < m.stageShown) then some (shown a (m.view a)) else none
  | none => none

/-! ### Who may reach a register -/

/-- The registers of Spur, Col and Scree in a range's window, which only the owner of the range reaches (R204, R252). -/
def ownedReg (off : Nat) : Bool := decide (0x700 ≤ off)

/-- Whether a read of a register is refused. -/
def Mach.readRefused (m : Mach) (c a : Nat) : Bool :=
  match windowOf a with
  | some (.range, n, off) => ownedReg off && (regAt a).isSome && !m.owns c n
  | _ => false

/-- The Tarn slot that a register of a stack's window belongs to (R342 to R344). -/
def tarnSlot (off : Nat) : Option Nat :=
  if 0x1200 ≤ off ∧ off < 0x1240 then some ((off - 0x1200) / 4)
  else if 0x1300 ≤ off ∧ off < 0x1500 then some ((off - 0x1300) / 32)
  else if 0x1800 ≤ off ∧ off < 0x2000 then some ((off - 0x1800) / 128)
  else none

def Mach.progCtx (m : Mach) (s p : Nat) : Nat := m.rdF (Reg.FOOTHILL_TARN_PROG s p) Fld.FOOTHILL_TARN_PROG_CONTEXT
def Mach.progHeld (m : Mach) (s p : Nat) : Bool := decide (m.rdF (Reg.FOOTHILL_TARN_PROG s p) Fld.FOOTHILL_TARN_PROG_VALID = 1)

/-- Whether a write of a register is refused with NOT_PERMITTED (R204, R252, R335, R498). -/
def Mach.writeForeign (m : Mach) (c a : Nat) (new : Word) : Bool :=
  match windowOf a with
  | some (.range, n, off) => ownedReg off && (regAt a).isSome && !m.owns c n
  | some (.traverse, _, off) =>
    (decide (0x500 ≤ off) && decide (off < 0x680) && decide (c ≠ (off - 0x500) % 0x80 / 8)) ||
    (decide (0x900 ≤ off) && decide (off < 0xA00) && decide (off % 16 ≠ 12) && decide (c ≠ (off - 0x900) / 16))
  | some (.foothill, s, off) =>
    (decide (0x1100 ≤ off) && decide (off < 0x1200) && decide (c ≠ (off - 0x1100) / 16)) ||
    (tarnSlot off).elim false (fun p => m.progHeld s p && decide (m.progCtx s p ≠ c)) ||
    (decide (0x1200 ≤ off) && decide (off < 0x1240) && decide (16 ≤ c) && decide (Word.getF new Fld.FOOTHILL_TARN_PROG_VALID = 1))
  | _ => false

/-- Whether a context runs a pass or a lockstep stream (R498). -/
def Mach.servingNow (m : Mach) (c : Nat) : Bool :=
  (m.ctx c).elim false (fun x => x.pass.isSome) || m.streams.any (fun s => decide (s.ctx = c) && s.lockstep)

/-- Whether a write of a register is refused with BUSY (R174, R204, R252, R341, R381, R498). -/
def Mach.writeBusy (m : Mach) (a : Nat) (w : Word) : Bool :=
  match windowOf a with
  | some (.range, n, off) =>
    (decide (off = 0x600) && (m.streaming n || decide (m.rangeState n = 5))) ||
    (((decide (0x700 ≤ off) && decide (off < 0xE00)) || decide (0x10000 ≤ off)) && (regAt a).isSome && m.rangeBusy n) ||
    (decide (off = 0xE00) && m.rangeBusy n)
  | some (.traverse, _, off) =>
    decide (0x900 ≤ off) && decide (off < 0xA00) && decide (off % 16 ≠ 12) && m.servingNow ((off - 0x900) / 16)
  | some (.foothill, _, off) =>
    decide (0x1100 ≤ off) && decide (off < 0x1200) && decide (m.stepState ((off - 0x1100) / 16) ≠ 0)
  | some (.cirque, _, off) => decide (off = 4) && decide (Word.getF w Fld.CIRQUE_LSU_CTL_SWITCH = 1) && !m.standbyReady
  | _ => false

/-! ### The values that a write would leave (R654) -/

/-- The value that a register would hold: each field by its code (R8). -/
def foldWrite (a : Nat) (old w : Word) : Word :=
  (fieldsAt a).foldl (fun v f => match f.acc with
    | .rw | .lk | .wl => Word.setF v f.fld (Word.getF w f.fld)
    | .w1c => Word.setF v f.fld (Word.getF (old &&& ~~~w) f.fld)
    | _ => v) old

/-- The values of control space after a write, on the registers that it covers. -/
def Mach.newReg (m : Mach) (base : Nat) (values : List Word) (a : Nat) : Word :=
  match (if base ≤ a then values[(a - base) / 4]? else none) with
  | some w => foldWrite a (m.rd a) w
  | none => m.rd a

def within (lo x hi : Nat) : Bool := decide (lo ≤ x) && decide (x ≤ hi)

/-- A negative value, a NaN or an infinity (R337). -/
def badClip (v : Word) : Bool := decide (0x7F800000 ≤ v.toNat)

/-- SERVE_* of a context, judged on the values that the write would leave (R498). -/
def serveBad (new : Nat → Word) (c : Nat) : Bool :=
  let cfg := new (Reg.TRAVERSE_SERVE_CFG c)
  let f := Word.getF cfg Fld.TRAVERSE_SERVE_CFG_LOCK_MHZ
  let period := (new (Reg.TRAVERSE_SERVE_PERIOD c)).toNat
  !within 500 f 1600 || decide (f % 25 ≠ 0) ||
    (decide (Word.getF cfg Fld.TRAVERSE_SERVE_CFG_PERIODIC = 1) &&
      (!within 100000 period 1000000000 || decide (period ≤ (new (Reg.TRAVERSE_SERVE_INTAKE c)).toNat)))

/-- Whether some weight is 0 (R290). -/
def zeroWeight (l : List Nat) : Bool := l.any (fun w => decide (w = 0))

/-- A value outside the range that a register's chapter gives (BAD_PARAM). -/
def Mach.writeBad (m : Mach) (new : Nat → Word) (a : Nat) : Bool :=
  let v := new a
  match windowOf a with
  | some (.range, _, off) =>
    (decide (off = 0x700) && !(within 1 (Word.getF v Fld.RANGE_SPUR_CFG_VLEN0) 128 && within 1 (Word.getF v Fld.RANGE_SPUR_CFG_VLEN1) 128)) ||
    (decide (off = 0xE00) && decide (64 < Word.getF v Fld.RANGE_COL_PREFETCH_CFG_PF_COUNT))
  | some (.traverse, _, off) =>
    if off = 0x480 then !within 1000 v.toNat 10000000
    else if 0x580 ≤ off ∧ off < 0x600 then badClip v
    else if off = 0x800 then !within 1000 v.toNat 600000000
    else if 0x900 ≤ off ∧ off < 0xA00 then serveBad new ((off - 0x900) / 16)
    else false
  | some (.treeline, _, off) =>
    (decide (off = 0x14) && !(within 70 (Word.getF v Fld.TREELINE_THERMAL_CFG_BOOST_TJ) 104 &&
      within 85 (Word.getF v Fld.TREELINE_THERMAL_CFG_THROTTLE_TJ) 105 && within 5 (Word.getF v Fld.TREELINE_THERMAL_CFG_FAST_DELTA) 20)) ||
    (decide (off = 0x1C) && !(decide (Word.getF v Fld.TREELINE_ADMIT_CFG_MARGIN_W ≤ 1000) &&
      decide (100 ≤ Word.getF v Fld.TREELINE_ADMIT_CFG_STARVE_US)))
  | some (.foothill, _, off) =>
    if off = 0x18 then !within 1 (Word.getF v Fld.FOOTHILL_PATROL_CFG_PERIOD_H) 168
    else if off = 0x20 then
      (let ws := [Word.getF v Fld.FOOTHILL_BW_SHARE_RANGE, Word.getF v Fld.FOOTHILL_BW_SHARE_FABRIC, Word.getF v Fld.FOOTHILL_BW_SHARE_TARN,
                  Word.getF v Fld.FOOTHILL_BW_SHARE_BELAY, Word.getF v Fld.FOOTHILL_BW_SHARE_SCRUB]
       zeroWeight ws || decide (64 < ws.sum))
    else false
  | some (.ledge, _, off) =>
    if off = 0x30 ∨ off = 0x34 then zeroWeight ((List.range 8).map (fun k => bitsOf v.toNat (4 * k) 4))
    else if off = 0x38 then zeroWeight [Word.getF v Fld.LEDGE_D2D_WEIGHT_MASSIF_A, Word.getF v Fld.LEDGE_D2D_WEIGHT_MASSIF_B]
    else false
  | some (.port, _, off) => decide (off = 0x10) && !within 1 (Word.getF v Fld.PORT_CFG_DOWN_MS) 10000
  | some (.belay, _, off) =>
    decide (off = 4) && !(within 1 (Word.getF v Fld.BELAY_CFG_TIMEOUT_S) 3600 && within 1 (Word.getF v Fld.BELAY_CFG_AUTO_PCT) 100)
  | some (.swite, _, off) =>
    if off = 4 then !within 10 v.toNat 100000
    else if 0x10 ≤ off ∧ off < 0x30 then
      decide (200 < Word.getF v Fld.SWITE_CLASS_RESERVE_GBPS) ||
        decide (200 < ((List.range 8).map (fun k => Word.getF (new (Reg.SWITE_CLASS_RESERVE k)) Fld.SWITE_CLASS_RESERVE_GBPS)).sum)
    else false
  | some (.cairn, _, off) =>
    decide (off = 4) && decide (Word.getF v Fld.CAIRN_SVN_VALUE ≠ m.svn) &&
      (decide (Word.getF v Fld.CAIRN_SVN_VALUE < m.svn) || decide (m.cairn.runSvn < Word.getF v Fld.CAIRN_SVN_VALUE))
  | _ => false

/-- A write that would change an lk field outside OPEN (R8, R540). -/
def Mach.writeLocked (m : Mach) (new : Nat → Word) (a : Nat) : Bool :=
  decide (m.trust ≠ 0) && (fieldsAt a).any (fun f => decide (f.acc = .lk) && decide (Word.getF (new a) f.fld ≠ Word.getF (m.rd a) f.fld))

/-- A write-limited setting that would change with no count left (R8, R558). -/
def Mach.writeSpent (m : Mach) (new : Nat → Word) (a : Nat) : Bool :=
  (decide (a = Reg.CAIRN_SVN) && decide (new a ≠ m.rd a) && decide (m.rdF Reg.CAIRN_SVN Fld.CAIRN_SVN_REMAIN = 0)) ||
  (decide (a = Reg.CAIRN_FUSES) && decide (new a ≠ m.rd a) && decide (m.rdF Reg.CAIRN_FUSES Fld.CAIRN_FUSES_REMAIN = 0))

/-- The first refusal of one register of a write. (DESIGN CHOICE, log entry 15.) -/
def Mach.writeCheck (m : Mach) (c : Nat) (new : Nat → Word) (a : Nat) (w : Word) : Option Nat :=
  if m.writeForeign c a (new a) then some St.notPermitted
  else if m.writeBusy a w then some St.busy
  else if m.writeBad new a then some St.badParam
  else if m.writeLocked new a then some St.locked
  else if m.writeSpent new a then some St.limitReached
  else none

/-! ### Applying a write -/

/-- A security-version write or a production-debug disable uses a count and is logged (R558, R560). -/
def Mach.useSvn (m : Mach) (new : Word) : Mach :=
  let left := m.rdF Reg.CAIRN_SVN Fld.CAIRN_SVN_REMAIN - 1
  let v := Word.getF new Fld.CAIRN_SVN_VALUE
  ((m.wrF Reg.CAIRN_SVN Fld.CAIRN_SVN_VALUE v).wrF Reg.CAIRN_SVN Fld.CAIRN_SVN_REMAIN left).log 0x0001 St.done v left

def Mach.useFuse (m : Mach) : Mach :=
  ((m.configChange.wrF Reg.CAIRN_FUSES Fld.CAIRN_FUSES_PROD_DEBUG_OFF 1).wrF Reg.CAIRN_FUSES Fld.CAIRN_FUSES_REMAIN 0).log 0x0003 St.done 0 0

/-- The islands of a context's ranges move to the voltage floor that serving sets (R493). -/
def Mach.refloor (m : Mach) (c : Nat) : Mach :=
  m.each (((List.range 16).filter (fun n => m.owns c n)).flatMap rangeIslands) (fun m i =>
    m.setFreq i ((m.island i).waiting.elim (m.island i).kHz (fun w => w.1)))

/-- `SERVE_CFG` takes a new value: a context whose intake becomes periodic waits for the next epoch boundary (R493, R495). -/
def Mach.setServe (m : Mach) (c : Nat) (v : Word) : Mach :=
  let was := m.rdF (Reg.TRAVERSE_SERVE_CFG c) Fld.TRAVERSE_SERVE_CFG_PERIODIC
  let m := m.wr (Reg.TRAVERSE_SERVE_CFG c) v
  let m := if Word.getF v Fld.TRAVERSE_SERVE_CFG_PERIODIC = 1 ∧ was = 1 then m else m.updCtx c (fun x => { x with p0 := none })
  m.refloor c

/-- `TARN_PROG` takes a new value; a claim of a free slot names the writing context (R342). -/
def Mach.setProg (m : Mach) (c s p : Nat) (v : Word) : Mach :=
  let a := Reg.FOOTHILL_TARN_PROG s p
  if m.progHeld s p then m.wr a v
  else if Word.getF v Fld.FOOTHILL_TARN_PROG_VALID = 1 then m.wr a (Word.setF v Fld.FOOTHILL_TARN_PROG_CONTEXT c)
  else m.wr a v

/-- Whether a sync counter belongs to a context (R65). -/
def Mach.syncOwned (m : Mach) (i : Nat) : Bool :=
  m.ctxs.any (fun x => x.elim false (fun x => decide (x.syncBase ≤ i) && decide (i < x.syncBase + x.syncLen)))

/-- One register of an accepted write: `new` is the value that its fields give it, `w` the word written. -/
def Mach.csrPut (m : Mach) (c a : Nat) (new w : Word) : Mach :=
  match windowOf a with
  | some (.cairn, _, off) =>
    if off = 4 then (if new = m.rd a then m else m.useSvn new)
    else if off = 0xC then (if new = m.rd a then m else m.useFuse)
    else m.wr a new
  | some (.traverse, _, off) =>
    if 0x8000 ≤ off ∧ off < 0xC000 then (if m.syncOwned ((off - 0x8000) / 4) then m.wr a new else m)
    else if 0x900 ≤ off ∧ off < 0xA00 ∧ off % 16 = 0 then m.setServe ((off - 0x900) / 16) new
    else m.wr a new
  | some (.foothill, s, off) => if 0x1200 ≤ off ∧ off < 0x1240 then m.setProg c s ((off - 0x1200) / 4) new else m.wr a new
  | some (.cirque, _, off) =>
    let m := m.wr a new
    if off = 4 ∧ Word.getF w Fld.CIRQUE_LSU_CTL_SWITCH = 1 then m.failover else m
  | _ => m.wr a new

/-- The registers of a write, with the words. -/
def csrPairs (base : Nat) (values : List Word) : List (Nat × Word) := (List.range values.length).map (fun k => 4 * k + base) |>.zip values

/-- The first refusal of a write, in address order (R9). -/
def Mach.csrRefusal (m : Mach) (c base : Nat) (values : List Word) : Option Nat :=
  (csrPairs base values).findSome? (fun p => m.writeCheck c (m.newReg base values) p.1 p.2)

/-- An accepted write takes effect in all its fields (R654). -/
def Mach.csrApply (m : Mach) (c base : Nat) (values : List Word) : Mach :=
  (csrPairs base values).foldl (fun q p => q.csrPut c p.1 (m.newReg base values p.1) p.2) m

/-! ### Commands -/

def csrReadBody (h : Hdr) (op address count : Nat) (m : Mach) : Mach :=
  match csrWindow address count with
  | none => m.answer h op St.badParam
  | some (b, _) =>
    if m.stageShown ≤ b.stage then m.answer h op St.busy
    else if (List.range count).any (fun k => m.readRefused h.ctx (address + 4 * k)) then m.answer h op St.notPermitted
    else
      let r := m.csrGets address count
      r.2.answer h op St.done 0 r.1

def csrWriteBody (h : Hdr) (address : Nat) (values : List Word) (m : Mach) : Mach :=
  match csrWindow address values.length with
  | none => m.answer h Op.csrWrite St.badParam
  | some (b, i) =>
    if m.stageShown ≤ b.stage ∨ !m.writable b i then m.answer h Op.csrWrite St.busy
    else match m.csrRefusal h.ctx address values with
      | some st => m.answer h Op.csrWrite st
      | none => (m.csrApply h.ctx address values).answer h Op.csrWrite St.done

/-- A CSR_WRITE of one or more registers. -/
def Mach.csrWriteCmd (m : Mach) (h : Hdr) (address count : Nat) (values : List Word) : Mach :=
  m.command Op.csrWrite h (leBytes address 4 ++ leBytes count 2) (csrWriteBody h address values)

/-- A CSR_READ of one register. -/
def Mach.csrReadCmd (m : Mach) (h : Hdr) (address : Nat) : Mach :=
  m.command Op.csrRead h (leBytes address 4) (csrReadBody h Op.csrRead address 1)

/-- HELLO's reply data (R591). -/
def Mach.helloData (m : Mach) : List Byte :=
  leBytes Config.switeVersion.toNat 4 ++ leBytes m.stageShown 1 ++ leBytes m.trust 1 ++ [0, 0] ++ leBytes m.serial 8

/-- IDENTIFY's reply data: the identity registers in address order. -/
def Mach.identifyData (m : Mach) : List Byte := (List.range 5).flatMap (fun k => leBytes (m.rd (0x800 + 4 * k)).toNat 4)

def execHello (h : Hdr) (s : State) : Host.Outcome State Fault Refusal :=
  s.run (fun m => m.command Op.hello h [] (fun m => m.answer h Op.hello St.done 0 m.helloData))
def execIdentify (h : Hdr) (s : State) : Host.Outcome State Fault Refusal :=
  s.run (fun m => m.command Op.identify h [] (fun m => m.answer h Op.identify St.done 0 m.identifyData))
def execCsrRead (h : Hdr) (address : Nat) (s : State) : Host.Outcome State Fault Refusal := s.run (fun m => m.csrReadCmd h address)
def execCsrWrite (h : Hdr) (address count : Nat) (values : List Word) (s : State) : Host.Outcome State Fault Refusal :=
  s.run (fun m => m.csrWriteCmd h address count values)
def execCsrReadBlock (h : Hdr) (address count : Nat) (s : State) : Host.Outcome State Fault Refusal :=
  s.run (fun m => m.command Op.csrReadBlock h (leBytes address 4 ++ leBytes count 2) (csrReadBody h Op.csrReadBlock address count))

/-! Writes and reads of one register that have a row of their own. -/

def execSwitch (h : Hdr) (value : Word) (s : State) : Host.Outcome State Fault Refusal :=
  s.run (fun m => m.csrWriteCmd h Reg.CIRQUE_LSU_CTL 1 [value])
def execSecurityVersionWrite (h : Hdr) (value : Word) (s : State) : Host.Outcome State Fault Refusal :=
  s.run (fun m => m.csrWriteCmd h Reg.CAIRN_SVN 1 [value])
def execProdDebugOffWrite (h : Hdr) (value : Word) (s : State) : Host.Outcome State Fault Refusal :=
  s.run (fun m => m.csrWriteCmd h Reg.CAIRN_FUSES 1 [value])
def execSyncCounterWrite (h : Hdr) (counter : Nat) (value : Word) (s : State) : Host.Outcome State Fault Refusal :=
  s.run (fun m => m.csrWriteCmd h (Reg.TRAVERSE_SYNC_COUNTER counter) 1 [value])
def execTarnProgClaim (h : Hdr) (stack : Fin 12) (slot : Fin 16) (value : Word) (s : State) : Host.Outcome State Fault Refusal :=
  s.run (fun m => m.csrWriteCmd h (Reg.FOOTHILL_TARN_PROG stack slot) 1 [value])
def execServeCfgWrite (h : Hdr) (address : Nat) (values : List Word) (s : State) : Host.Outcome State Fault Refusal :=
  s.run (fun m => m.csrWriteCmd h address values.length values)
def execTimebaseMasterWrite (h : Hdr) (value : Word) (s : State) : Host.Outcome State Fault Refusal :=
  s.run (fun m => m.csrWriteCmd h Reg.TRAVERSE_TIMEBASE_CFG 1 [value])
def execTimebaseNowRead (h : Hdr) (s : State) : Host.Outcome State Fault Refusal :=
  s.run (fun m => m.csrReadCmd h Reg.TRAVERSE_TIMEBASE_NOW_LO)
def execStepDeadlineRead (h : Hdr) (s : State) : Host.Outcome State Fault Refusal :=
  s.run (fun m => m.csrReadCmd h Reg.TRAVERSE_STEP_DEADLINE_LO)

end Sys2Proof.Machine
end

