-- ==== Sys2Proof/Machine/Ridge.lean ====
section
/-!
DEFINITION. Ridge commands and events (11_ridge_fabric, R552 to R554): fabric plans, discovery, ports going up and down, lanes,
port keys, timestamps and the timebase.
-/

namespace Sys2Proof.Machine

/-! ### Fabric plans (R416, R417) -/

/-- The channels of a plan that a port carries. -/
def Plan.channelsOn (pl : Plan) (p : Nat) : List Channel :=
  pl.channels.filter (fun c => decide (c.port = p) || (decide (c.peer < 4095) && decide (pl.route c.peer = p)) ||
    (decide (c.kind = 3) && (decide (c.reduce.mport = p) || (decide (c.reduce.up < 4095) && decide (pl.route c.reduce.up = p)))))

/-- The circuit entries of a plan that name a port's transmitter or its output. -/
def Plan.circuitsOn (pl : Plan) (p : Nat) : List Circuit := pl.circuits.filter (fun c => decide (c.inp = p) || decide (c.out = p))

/-- Whether a new plan changes a port (R417). -/
def portChanged (old : Option Plan) (pl : Plan) (p : Nat) : Bool :=
  match old with
  | none => true
  | some a => decide (a.port p ≠ pl.port p) || decide (a.circuitsOn p ≠ pl.circuitsOn p) || decide (a.channelsOn p ≠ pl.channelsOn p)

/-- Whether a new plan removes or changes a channel. -/
def channelChanged (old : Option Plan) (pl : Plan) (k : Nat) : Bool :=
  match old.bind (fun a => a.channel k) with
  | none => false
  | some c => decide (pl.channel k ≠ some c)

/-- Whether a stream has placed a LINK instruction, or Saddle works on a posting, on a channel that a plan removes or changes. -/
def Mach.linkHeld (m : Mach) (pl : Plan) : Bool :=
  m.ranges.any (fun r => r.link.any (fun q => !q.isWait && channelChanged m.plan pl (q.ins.m 32 8))) ||
    m.saddle.posted.any (fun q => channelChanged m.plan pl q.key.channel)

/-- FABRIC_PLAN: its checks in order, and the plan in force (R413 to R417). (DEDUCED, log entry 46.) -/
def fabricPlanBody (h : Hdr) (payload : List Byte) (m : Mach) : Mach :=
  if m.meshBusy then m.answer h Op.fabricPlan St.busy
  else match planCheck payload (m.rdF Reg.MODULE_COMPAT Fld.MODULE_COMPAT_LEVEL_MIN) (m.rdF Reg.MODULE_COMPAT Fld.MODULE_COMPAT_LEVEL_MAX) with
    | .error cause => m.answer h Op.fabricPlan St.badParam cause
    | .ok pl =>
      if m.linkHeld pl then m.answer h Op.fabricPlan St.busy
      else if m.mem.sealed ≠ [] ∧ pl.clearPort then m.answer h Op.fabricPlan St.notPermitted
      else
        let a : Applying := { circuits := pl.circuits, rxMap := [], service := true, balance := pl.balance, plan := some pl,
                              lane := h.lane, tag := h.tag, ctx := h.ctx, opcode := Op.fabricPlan }
        let m := m.each ((List.range 32).filter (portChanged m.plan pl)) (fun m p => m.updPort p (fun x => { x with changed := true }))
        let q : Mach := { m with optics := { m.optics with applying := some a } }
        (q.wrF Reg.CIRQUE_STATUS Fld.CIRQUE_STATUS_APPLYING 1).begin h Op.fabricPlan

/-- The receiver that a port's controller takes (R347). -/
def rxField (p : Nat) : Fld := ⟨2 * (p % 4), 2⟩
def Mach.receiver (m : Mach) (p : Nat) : Nat := p / 4 * 4 + m.rdF (Reg.CIRQUE_RX_MAP (p / 4)) (rxField p)

/-- The pairs of crossed cords that a plan had corrected, of ports that a new plan does not change. -/
def Mach.crossedCords (m : Mach) (pl : Plan) : List (Nat × Nat) :=
  (List.range 32).filterMap (fun p =>
    let q := m.receiver p
    if p < q ∧ m.receiver q = p ∧ !portChanged m.plan pl p ∧ !portChanged m.plan pl q then some (p, q) else none)

/-- Two outputs exchanged in every circuit entry. -/
def exchangeOutputs (p q : Nat) (l : List Circuit) : List Circuit :=
  l.map (fun c => if c.out = p then { c with out := q } else if c.out = q then { c with out := p } else c)

/-- A pair's outputs and receivers exchanged (R410). -/
def Mach.exchangeCords (m : Mach) (p q : Nat) : Mach :=
  let a := m.rdF (Reg.CIRQUE_RX_MAP (p / 4)) (rxField p)
  let b := m.rdF (Reg.CIRQUE_RX_MAP (q / 4)) (rxField q)
  let m : Mach := { m with optics := { m.optics with circuits := exchangeOutputs p q m.optics.circuits } }
  (m.wrF (Reg.CIRQUE_RX_MAP (p / 4)) (rxField p) b).wrF (Reg.CIRQUE_RX_MAP (q / 4)) (rxField q) a

/-- A port that a plan changes: its key goes, and it trains, lies dark, or is unused. -/
def Mach.changePort (m : Mach) (p : Nat) : Mach :=
  let m := (m.flushPort p).updPort p (fun x => { x with changed := false, keyed := false, peer := none, reduceIn := [] })
  let m := ((m.wr (Reg.CAIRN_PORT_KEY p) 0).wr (Reg.PORT_SADDLE_FMT p) 0).wr (Reg.PORT_STATUS p)
    (Word.setF 0 Fld.PORT_STATUS_DOWN_EVENT (m.rdF (Reg.PORT_STATUS p) Fld.PORT_STATUS_DOWN_EVENT))
  if (m.portEntry p).role = 0 then m.showLanes p
  else if (m.port p).light then m.trainPort p
  else
    let m := m.portDown p
    m.updPort p (fun x => { x with cut := false })

/-- A plan's registers (R428, R429, R655). -/
def Mach.showPlan (m : Mach) (pl : Plan) : Mach :=
  let m := (m.wrF Reg.TRAVERSE_FABRIC_STATUS Fld.TRAVERSE_FABRIC_STATUS_PLAN_VALID 1).wrF
    Reg.TRAVERSE_FABRIC_STATUS Fld.TRAVERSE_FABRIC_STATUS_FADDR pl.faddr
  let m := (m.wrF Reg.TRAVERSE_FABRIC_STATUS Fld.TRAVERSE_FABRIC_STATUS_GROUP_RANK pl.rank).wr Reg.TRAVERSE_PLAN_ID (BitVec.ofNat 32 pl.id)
  let m := m.wrF Reg.MODULE_COMPAT Fld.MODULE_COMPAT_LEVEL_PLAN pl.compat
  let m := if pl.rank = 0 then m.wr Reg.TRAVERSE_GROUP_OFFSET 0 else m
  m.each (List.range 32) (fun m p => m.wr (Reg.PORT_LINK_TAG p) (BitVec.ofNat 32 (pl.port p).linkTag))

/-- A plan comes into force at one instant. -/
def Mach.putPlan (m : Mach) (pl : Plan) : Mach :=
  let old := m.plan
  let cords := m.crossedCords pl
  let m := (m.setCircuits pl.circuits true).setRxMap []
  let m := cords.foldl (fun m c => m.exchangeCords c.1 c.2) m
  let keep (k : Nat) : Bool := !channelChanged old pl k && (pl.channel k).isSome
  let m : Mach := { m with plan := some pl, channels := m.channels.filter (fun c => keep c.number),
                           messages := m.messages.filter (fun x => keep x.channel),
                           ports := m.ports.map (fun x => { x with cut := false }) }
  let m := (m.showPlan pl).each ((List.range 32).filter (portChanged old pl)) Mach.changePort
  (m.belayNewPlan old).newPlanSteps old

/-- CIRCUIT_SET_APPLIED (R366, R417): the set is in force and the command replies DONE. -/
def circuitSetApplied (m : Mach) : Mach :=
  match m.optics.applying with
  | none => m
  | some a =>
    let m : Mach := { m with optics := { m.optics with applying := none } }
    let m := m.wrF Reg.CIRQUE_STATUS Fld.CIRQUE_STATUS_APPLYING 0
    let m := match a.plan with
      | some pl => m.putPlan pl
      | none => (m.setCircuits a.circuits a.service).setRxMap a.rxMap
    m.finish a.lane a.ctx a.tag a.opcode St.done

/-! ### Discovery (R409 to R412) -/

/-- FABRIC_DISCOVER: discovery runs on every lit port, and the records follow. -/
def fabricDiscoverBody (h : Hdr) (m : Mach) : Mach :=
  let m := if m.fabricOk then m.each ((List.range 32).filter (fun p => (m.port p).light && decide (m.portState p ≠ 0 ∨ m.plan.isNone))) Mach.trainPort else m
  let m : Mach := { m with ports := m.ports.map (fun x => if x.light then x else { x with discovered := false }) }
  let m := m.begin h Op.fabricDiscover
  ({ m with cairn := { m.cairn with waits := m.cairn.waits ++ [{ lane := h.lane, ctx := h.ctx, tag := h.tag, what := .discovery }] } } : Mach).settleResets

/-- LINK_STATUS: 16 bytes for each port of the mask. (DESIGN CHOICE, log entry 62.) -/
def linkStatusBody (h : Hdr) (mask : Nat) (m : Mach) : Mach :=
  m.answer h Op.linkStatus St.done 0 ((maskBits mask 32).flatMap (fun p =>
    leBytes (m.rd (Reg.PORT_STATUS p)).toNat 4 ++ leBytes (m.rd (Reg.PORT_PEER_INFO p)).toNat 4 ++
      leBytes (m.port p).reported.1 1 ++ [0, 0, 0] ++ leBytes (m.port p).reported.2 4))

/-- The identity frame of a port (R409). (DESIGN CHOICE, log entry 47.) -/
def Mach.identityOf (m : Mach) (p : Nat) : List Byte :=
  let c := (m.rd Reg.MODULE_COMPAT).toNat
  leBytes m.serial 8 ++ leBytes p 1 ++ [BitVec.ofNat 8 (c / 2 ^ 24), BitVec.ofNat 8 (c % 256)] ++
    (match m.plan with
     | some pl => leBytes 1 1 ++ leBytes pl.faddr 2 ++ leBytes (pl.port p).linkTag 4 ++ leBytes (b2n (pl.port p).encrypt) 1
     | none => leBytes 0 8)

/-- The revision of a link (R411): the highest that both ends implement and the plan's level allows. -/
def Mach.commonRev (m : Mach) (i : Identity) : Option Nat :=
  let lo := max (m.rdF Reg.MODULE_COMPAT Fld.MODULE_COMPAT_REV_MIN) i.revMin
  let hi := min (m.rdF Reg.MODULE_COMPAT Fld.MODULE_COMPAT_REV_MAX) i.revMax
  let top := match m.plan with | none => hi | some pl => min hi (4 + pl.compat)
  if lo ≤ top then some top else none

/-- A port that is held or quarantined, and why. -/
def Mach.holdPort (m : Mach) (p state cause status detail : Nat) : Mach :=
  let m := (m.setPortState p state).wrF (Reg.PORT_STATUS p) Fld.PORT_STATUS_HELD_CAUSE cause
  let m := (m.wrF (Reg.PORT_STATUS p) Fld.PORT_STATUS_REVISION 0).wr (Reg.PORT_SADDLE_FMT p) 0
  ((m.showLanes p).report p status (p + 256 * detail) Ev.port p).trouble 2

/-- Whether a port observes the identity that the plan gives a port. -/
def Plan.expects (pl : Plan) (p : Nat) (i : Identity) : Bool := decide (i.serial = (pl.port p).peerSerial) && decide (i.port = (pl.port p).peerPort)

/-- A port whose identity matches its plan entry waits for its peer's plan. -/
def Mach.matchPort (m : Mach) (p rev : Nat) : Mach :=
  let m := (m.updPort p (fun x => { x with matched := true })).wrF (Reg.PORT_STATUS p) Fld.PORT_STATUS_REVISION rev
  let m := (m.wrF (Reg.PORT_STATUS p) Fld.PORT_STATUS_HELD_CAUSE 0).setPortState p 3
  (m.showLanes p).sendOn p (m.newFrame 3 0 0xFFF 0 0 false (m.identityOf p))

/-- The port of the same face that is crossed with a port: it expects what this one observes. -/
def Plan.crossedWith (pl : Plan) (p : Nat) (i : Identity) : Option Nat :=
  ((List.range 4).map (fun k => p / 4 * 4 + k)).find? (fun q => decide (q ≠ p) && decide ((pl.port q).role ≠ 0) && pl.expects q i)

/-- What a port's observed identity means under R399, R410 and R412. (DEDUCED, log entry 46.) -/
def Mach.judgePort (m : Mach) (p : Nat) : Mach :=
  let s := m.portState p
  match (m.port p).peer with
  | none => m
  | some i =>
    if (m.port p).matched ∨ !(m.port p).discovered ∨ !(decide (s = 2) || decide (s = 3) || decide (s = 7) || decide (s = 8)) then m
    else match m.plan, m.commonRev i with
      | none, none => (m.holdPort p 7 0 St.linkVersion (i.revMin % 16 + 16 * (i.revMax % 16))).tally 302 2
      | none, some rev => (m.setPortState p 2).wrF (Reg.PORT_STATUS p) Fld.PORT_STATUS_REVISION rev
      | some pl, rev =>
        let e := pl.port p
        if e.role = 0 then m
        else match rev with
          | none => (m.holdPort p 7 0 St.linkVersion (i.revMin % 16 + 16 * (i.revMax % 16))).tally 302 2
          | some r =>
            let mismatch := m.holdPort p 8 1 St.cablingMismatch (e.peerPort + 256 * (i.port % 256))
            if i.linkTag.isSome ∧ i.encrypt ≠ e.encrypt then m.holdPort p 8 2 St.linkDown 2
            else if i.serial = e.peerSerial ∧ i.port / 4 = e.peerPort / 4 then m.matchPort p r
            else match pl.crossedWith p i with
              | none => mismatch
              | some q =>
                match (m.port q).peer with
                | some j =>
                  if pl.expects p j then
                    let m := (((m.exchangeCords p q).addF Reg.TRAVERSE_CABLING_SWAP Fld.TRAVERSE_CABLING_SWAP_COUNT 1).tally 302 1).matchPort p r
                    (match m.commonRev j with | some r' => m.matchPort q r' | none => m)
                  else mismatch
                | none => if (m.port q).discovered ∨ !(m.port q).light then mismatch else m

/-- Every port of a face is judged again once one of them knows more. -/
def Mach.judgeFace (m : Mach) (p : Nat) : Mach := m.each ((List.range 4).map (fun k => p / 4 * 4 + k)) Mach.judgePort

/-- IDENTITY_FRAME. -/
def identityFrame (p : Nat) (i : Identity) (m : Mach) : Mach :=
  let s := m.portState p
  if !(decide (s = 2) || decide (s = 3) || decide (s = 4) || decide (s = 7) || decide (s = 8)) then m
  else
    let m := (m.wr (Reg.PORT_PEER_SERIAL_LO p) (BitVec.ofNat 32 i.serial)).wr (Reg.PORT_PEER_SERIAL_HI p) (BitVec.ofNat 32 (i.serial / 2 ^ 32))
    let m := m.wr (Reg.PORT_PEER_INFO p) (BitVec.ofNat 32 (i.port % 32 * 2 ^ 27 + 2 ^ 26 + i.compat % 256 * 65536 + i.revMax % 16 * 4096 + i.revMin % 16 * 256))
    let m := m.updPort p (fun x => { x with peer := some i, discovered := true, lastInOrder := m.clk })
    (m.judgeFace p).settleResets

/-- IDENTITY_TIMEOUT: no identity within 100 ms of light. -/
def identityTimeout (p : Nat) (m : Mach) : Mach :=
  if !(decide (m.portState p = 1) || decide (m.portState p = 2)) ∨ (m.port p).discovered ∨ m.clk < (m.port p).lightAt + ms 100 then m
  else
    let m := m.updPort p (fun x => { x with discovered := true, peer := none })
    let m := if (m.portEntry p).role = 0 then m else (m.portDown p).belayPathDown
    (m.judgeFace p).settleResets

/-- LIGHT_APPEARS: a port without light, or one that is down, trains by itself. -/
def lightAppears (p : Nat) (m : Mach) : Mach :=
  if (m.port p).light ∧ m.portState p ≠ 6 then m
  else
    let m := m.updPort p (fun x => { x with light := true, noLight5s := false, lightAt := m.clk })
    if m.stage < 4 ∨ !m.fabricOk ∨ (m.plan.isSome ∧ (m.portEntry p).role = 0) then m else m.trainPort p

/-- PORT_TRAINED: identity frames go out. -/
def portTrained (p : Nat) (m : Mach) : Mach :=
  if m.portState p ≠ 1 then m
  else
    let m := (m.updPort p (fun x => { x with trained := true })).setPortState p 2
    (m.showLanes p).sendOn p (m.newFrame 3 0 0xFFF 0 0 false (m.identityOf p))

/-- `SADDLE_FMT` of a revision (R411, R457). -/
def saddleFmt (rev : Nat) : Word := if 7 ≤ rev then 0x3F else if rev = 6 then 0x1F else 0x03

/-- PORT_UP: the peer holds the same `LINK_TAG`, and an encrypted port has its key. -/
def portUp (p : Nat) (m : Mach) : Mach :=
  let e := m.portEntry p
  let x := m.port p
  if m.portState p ≠ 3 ∨ m.plan = none ∨ e.role = 0 ∨ !x.matched ∨ x.peer.bind (fun i => i.linkTag) ≠ some e.linkTag ∨ (e.encrypt ∧ !x.keyed) then m
  else
    let m := (m.setPortState p 4).wr (Reg.PORT_SADDLE_FMT p) (saddleFmt (m.revision p))
    let m := (m.wrF (Reg.PORT_STATUS p) Fld.PORT_STATUS_ENCRYPTED (b2n e.encrypt)).updPort p (fun x => { x with lastInOrder := m.clk })
    ((m.showLanes p).pump p).settleResets

/-! ### Port keys (R552 to R554) -/

/-- PORT_KEY_EXCHANGE. -/
def portKeyExchange (p : Nat) (k : KeyEx) (m : Mach) : Mach :=
  let e := m.portEntry p
  if m.portState p ≠ 3 ∨ !e.encrypt ∨ (m.port p).keyed then m
  else if !k.chainOk ∨ !k.sigOk ∨ k.serial ≠ e.peerSerial ∨ (m.trust = 2 ∧ (!k.trusted ∨ k.owner ≠ m.ownerDigest)) then
    let m := m.wr (Reg.CAIRN_PORT_KEY p) (Word.setF 0 Fld.CAIRN_PORT_KEY_STATE 3)
    (m.report p St.attestFail p Ev.port p).settleResets
  else
    let m := m.wr (Reg.CAIRN_PORT_KEY p) (Word.setF (Word.setF 0 Fld.CAIRN_PORT_KEY_STATE 2) Fld.CAIRN_PORT_KEY_EPOCH 1)
    let m := m.updPort p (fun x => { x with keyed := true, keyEpoch := 1, framesUnderKey := 0, keyedAt := m.clk, peerTrusted := k.trusted })
    m.settleResets

/-- KEY_EPOCH_ROLL: after 2^36 frames or 24 hours. -/
def keyEpochRoll (p : Nat) (m : Mach) : Mach :=
  let x := m.port p
  if !x.keyed ∨ (x.framesUnderKey < 2 ^ 36 ∧ m.clk < x.keyedAt + secs 86400) then m
  else if m.revision p = 7 then
    let m := m.wrF (Reg.CAIRN_PORT_KEY p) Fld.CAIRN_PORT_KEY_EPOCH (x.keyEpoch + 1)
    let m := m.updPort p (fun x => { x with keyEpoch := x.keyEpoch + 1, framesUnderKey := 0, keyedAt := m.clk })
    m.sendOn p (m.newFrame 2 0 0xFFF 0 0 false (leBytes (m.port p).txSeq 3))
  else
    let m := (m.addF (Reg.PORT_RETRAINS p) Fld.PORT_RETRAINS_COUNT 1).tally (188 + p) 2
    let m := (m.updPort p (fun x => { x with keyed := false, keyEpoch := 0, framesUnderKey := 0 })).wr
      (Reg.CAIRN_PORT_KEY p) (Word.setF 0 Fld.CAIRN_PORT_KEY_STATE 1)
    (m.wrF (Reg.PORT_STATUS p) Fld.PORT_STATUS_ENCRYPTED 0).setPortState p 3

/-! ### Lanes and ports going down (R389, R418, R419) -/

/-- A frame arrives; a port that its tag failures take down may end a mirror. -/
def frameArrives (p : Nat) (f : Frame) (rx : FrameRx) (m : Mach) : Mach :=
  let q := frameReceive p f rx m
  if m.portState p ≠ 6 ∧ q.portState p = 6 then q.belayPathDown else q

/-- LANE_LOSS: delivery stops, and a retrain request goes out on class 0. -/
def laneLoss (p : Fin 32) (lane : Fin 8) (ringLost : Bool) (m : Mach) : Mach :=
  let s := m.portState p
  if !(decide (2 ≤ s) && decide (s ≤ 5)) ∨ (m.port p).lanesDown.any (fun x => decide (x.1 = lane.val)) ∨ (m.port p).lanesOut.contains lane.val then m
  else
    let r : Ring := { rx := true, port := p, line := lane }
    let m := if ringLost then ringLoss r (m.ring r).heater m else m
    let m := m.updPort p (fun x => { x with lanesDown := x.lanesDown ++ [(lane.val, m.clk)] })
    if s ≠ 4 then m.showLanes p
    else
      let m := ((m.setPortState p 5).addF (Reg.PORT_RETRAINS p) Fld.PORT_RETRAINS_COUNT 1).tally (188 + p) 2
      (m.showLanes p).sendOn p (m.newFrame 2 0 0xFFF 0 0 false [])

/-- A retrain ends once no lane is being retrained: lanes left out earlier whose rings are locked rejoin, and kept frames are sent
again. -/
def Mach.retrained (m : Mach) (p : Fin 32) : Mach :=
  if (m.port p).lanesDown ≠ [] then m.showLanes p
  else
    let ok (n : Nat) : Bool := if h : n < 8 then
      decide (m.ringCode { rx := true, port := p, line := ⟨n, h⟩ } = 1) && decide (m.ringCode { rx := false, port := p, line := ⟨n, h⟩ } = 1) else false
    let m := m.updPort p (fun x => { x with lanesOut := x.lanesOut.filter (fun n => !ok n) })
    if m.portState p = 5 then (((m.setPortState p 4).showLanes p).replayFrom p (((m.port p).replay.head?.map (fun f => f.seq)).getD (m.port p).txSeq)).pump p
    else m.showLanes p

/-- LANE_REALIGN. -/
def laneRealign (p : Fin 32) (lane : Fin 8) (m : Mach) : Mach :=
  if !(m.port p).lanesDown.any (fun x => decide (x.1 = lane.val)) ∨ m.ringCode { rx := true, port := p, line := lane } ≠ 1 then m
  else (m.updPort p (fun x => { x with lanesDown := x.lanesDown.filter (fun y => decide (y.1 ≠ lane.val)) })).retrained p

/-- LANE_DROP: a lane still down after 1 ms is left out where the set still reaches `LANE_MIN`. -/
def laneDrop (p : Fin 32) (lane : Fin 8) (m : Mach) : Mach :=
  match (m.port p).lanesDown.find? (fun x => decide (x.1 = lane.val)) with
  | none => m
  | some (_, t) =>
    if m.clk < t + ms 1 ∨ (maskBits (m.laneSet true p) 8).length < (m.portEntry p).laneMin then m
    else (m.updPort p (fun x => { x with lanesDown := x.lanesDown.filter (fun y => decide (y.1 ≠ lane.val)), lanesOut := lane.val :: x.lanesOut })).retrained p

/-- PORT_DOWN_TIMEOUT. -/
def portDownTimeout (p : Nat) (m : Mach) : Mach :=
  let x := m.port p
  if !(decide (m.portState p = 4) || decide (m.portState p = 5)) then m
  else if x.lastInOrder + ms (m.rdF (Reg.PORT_CFG p) Fld.PORT_CFG_DOWN_MS) ≤ m.clk ∨ x.lowSince.elim false (fun t => decide (t + ms 1 ≤ m.clk)) then
    (m.portDown p).belayPathDown
  else m

/-! ### Timestamps and the timebase (R421 to R424) -/

/-- TIMESTAMP_EXCHANGE, in nanoseconds: the port's offset, and the module's from its timing parent. -/
def timestampExchange (p : Nat) (t1 t2 t3 t4 parent : Int) (m : Mach) : Mach :=
  if m.revision p < 6 ∨ !(decide (m.portState p = 3) || decide (m.portState p = 4)) then m
  else
    let off := ((t2 - t1) - (t4 - t3)).tdiv 2
    let m := (m.updPort p (fun x => { x with offset := off })).wr (Reg.PORT_TIME_OFFSET p) (BitVec.ofInt 32 off)
    match m.plan with
    | none => m
    | some pl => if pl.rank ≠ 0 ∧ (pl.port p).timingParent then m.wr Reg.TRAVERSE_GROUP_OFFSET (BitVec.ofInt 32 (off + parent)) else m

def Mach.rackMaster (m : Mach) : Bool := decide (m.rdF Reg.TRAVERSE_TIMEBASE_CFG Fld.TRAVERSE_TIMEBASE_CFG_MASTER = 1)

/-- The ticks of an epoch, and of its marker frame. -/
def epochTicks : Nat := 156250
def markerTicks : Nat := 1280

/-- The module goes into holdover (R423). -/
def Mach.holdOver (m : Mach) : Mach :=
  if m.timebase.holdover then m
  else
    let m : Mach := { m with timebase := { m.timebase with holdover := true, lastEpoch := none, slewing := 0 } }
    ((m.wrF Reg.TRAVERSE_TIMEBASE_STATUS Fld.TRAVERSE_TIMEBASE_STATUS_TB_LOST 1).trouble 10).tally 313 0

/-- EPOCH_MARKER: a frame that arrived 1,280 ticks into its epoch. (DEDUCED, log entry 51.) -/
def epochMarker (epoch : Nat) (crcOk : Bool) (m : Mach) : Mach :=
  let t := m.timebase
  if m.rackMaster ∨ t.holdover then m
  else if !crcOk then
    let q : Mach := { m with timebase := { t with badFrames := t.badFrames + 1, lastEpoch := none } }
    if 2 ≤ t.badFrames + 1 then q.holdOver else q
  else
    let follows := decide (t.lastEpoch.map (fun e => e + 1) = some epoch)
    let locked := decide (m.rdF Reg.TRAVERSE_TIMEBASE_STATUS Fld.TRAVERSE_TIMEBASE_STATUS_LOCKED = 1)
    let u : TimebaseSt := { t with badFrames := 0, lastEpoch := some epoch }
    if follows ∧ !locked then
      ({ m with timebase := { u with ticks := BitVec.ofNat 64 (epochTicks * epoch + markerTicks) } } : Mach).wrF
        Reg.TRAVERSE_TIMEBASE_STATUS Fld.TRAVERSE_TIMEBASE_STATUS_LOCKED 1
    else { m with timebase := u }

/-- EPOCH_BOUNDARY: the master sends the marker with the epoch's number, and periodic contexts without a first period start at this
boundary (R422, R495). (DEDUCED, log entry 51.) -/
def epochBoundary (m : Mach) : Mach :=
  let e := m.timebase.ticks.toNat / epochTicks
  if e ≤ m.timebase.epochSent then m
  else
    let m : Mach := { m with timebase := { m.timebase with epochSent := e } }
    m.each (List.range 16) (fun m c =>
      if m.rdF (Reg.TRAVERSE_SERVE_CFG c) Fld.TRAVERSE_SERVE_CFG_PERIODIC = 1 then
        m.updCtx c (fun x => { x with p0 := some (x.p0.getD (64 * epochTicks * e)) })
      else m)

/-- TB_CLK_LOSS. -/
def tbClkLoss (m : Mach) : Mach := if m.rackMaster then m else m.holdOver

/-- TB_REFERENCE_RETURN: the module slews toward the reference; it steps forward to one more than an epoch ahead (R423). -/
def tbReferenceReturn (reference : Nat) (m : Mach) : Mach :=
  if !m.timebase.holdover then m
  else
    let d : Int := (reference : Int) - (m.timebase.ticks.toNat : Int)
    let t : TimebaseSt := { m.timebase with holdover := false, badFrames := 0, lastEpoch := none }
    if (epochTicks : Int) < d then { m with timebase := { t with ticks := BitVec.ofNat 64 reference, slewing := 0 } }
    else { m with timebase := { t with slewing := d } }

/-! ### Rows -/

def execFabricPlan (h : Hdr) (payload : List Byte) (s : State) : Host.Outcome State Fault Refusal :=
  s.run (fun m => m.command Op.fabricPlan h [] (fabricPlanBody h payload))
def execCircuitSetApplied (s : State) : Host.Outcome State Fault Refusal := s.run circuitSetApplied
def execFabricDiscover (h : Hdr) (s : State) : Host.Outcome State Fault Refusal :=
  s.run (fun m => m.command Op.fabricDiscover h [] (fabricDiscoverBody h))
def execLinkStatus (h : Hdr) (portMask : Nat) (s : State) : Host.Outcome State Fault Refusal :=
  s.run (fun m => m.command Op.linkStatus h (leBytes portMask 4) (linkStatusBody h portMask))
def execFrameReceive (p : Fin 32) (frame : Frame) (rx : FrameRx) (s : State) : Host.Outcome State Fault Refusal := s.run (frameArrives p frame rx)
def execIdentityFrame (p : Fin 32) (peer : Identity) (s : State) : Host.Outcome State Fault Refusal := s.run (identityFrame p peer)
def execIdentityTimeout (p : Fin 32) (s : State) : Host.Outcome State Fault Refusal := s.run (identityTimeout p)
def execLightAppears (p : Fin 32) (s : State) : Host.Outcome State Fault Refusal := s.run (lightAppears p)
def execPortTrained (p : Fin 32) (s : State) : Host.Outcome State Fault Refusal := s.run (portTrained p)
def execPortUp (p : Fin 32) (s : State) : Host.Outcome State Fault Refusal := s.run (portUp p)
def execPortKeyExchange (p : Fin 32) (peer : KeyEx) (s : State) : Host.Outcome State Fault Refusal := s.run (portKeyExchange p peer)
def execKeyEpochRoll (p : Fin 32) (s : State) : Host.Outcome State Fault Refusal := s.run (keyEpochRoll p)
def execTimestampExchange (p : Fin 32) (t1 t2 t3 t4 parent : Int) (s : State) : Host.Outcome State Fault Refusal :=
  s.run (timestampExchange p t1 t2 t3 t4 parent)
def execLaneLoss (p : Fin 32) (lane : Fin 8) (ringLost : Bool) (s : State) : Host.Outcome State Fault Refusal := s.run (laneLoss p lane ringLost)
def execLaneRealign (p : Fin 32) (lane : Fin 8) (s : State) : Host.Outcome State Fault Refusal := s.run (laneRealign p lane)
def execLaneDrop (p : Fin 32) (lane : Fin 8) (s : State) : Host.Outcome State Fault Refusal := s.run (laneDrop p lane)
def execPortDownTimeout (p : Fin 32) (s : State) : Host.Outcome State Fault Refusal := s.run (portDownTimeout p)
def execEpochMarker (epoch : Nat) (crcOk : Bool) (s : State) : Host.Outcome State Fault Refusal := s.run (epochMarker epoch crcOk)
def execEpochBoundary (s : State) : Host.Outcome State Fault Refusal := s.run epochBoundary
def execTbClkLoss (s : State) : Host.Outcome State Fault Refusal := s.run tbClkLoss
def execTbReferenceReturn (reference : Nat) (s : State) : Host.Outcome State Fault Refusal := s.run (tbReferenceReturn reference)

end Sys2Proof.Machine
end

