-- ==== Sys2Proof/Machine/Spur.lean ====
section
/-!
DEFINITION. Spur (06_spur_vector): placing SPUR.KERNEL, SPUR.REDUCE and SPUR.PERM, and beginning a repeat. A repeat's result
is computed when it begins and arrives at TILE_FULL.
-/

namespace Sys2Proof.Machine

/-! ### Placement -/

/-- A Spur instruction is placed (R26); SPUR.REDUCE names one of the five formats (R199). -/
def kernelPlace (n : Nat) (m : Mach) : Mach :=
  match m.nextIs n .kernel with
  | none => m
  | some (s, e) => m.place n s e .kernel none

/-- The five formats that Spur produces (R135). -/
def spurFmt (code : Nat) : Option Fmt :=
  (Fmt.ofCode code).filter (fun f => decide (f = .fp64) || decide (f = .fp32) || decide (f = .bf16) || decide (f = .fp16) || decide (f = .int32))

def reducePlace (n : Nat) (m : Mach) : Mach :=
  match m.nextIs n .reduce with
  | none => m
  | some (s, e) => m.place n s e .reduce (if (spurFmt (e.m 8 4)).isNone then some 0x91 else none)

def permPlace (n : Nat) (m : Mach) : Mach :=
  match m.nextIs n .perm with
  | none => m
  | some (s, e) => m.place n s e .perm none

/-! ### Sources and destinations (R103, R104, R106) -/

/-- Where a Spur instruction takes its first tile from and puts its result: source code, source register, destination code,
destination register. -/
def Ewx.spurSrc (e : Ewx) : Nat × Nat :=
  match e.sop with
  | some .kernel => (e.m 30 2, e.m 21 9)
  | some .reduce => (e.m 33 2, e.m 24 9)
  | _ => (e.m 38 2, e.m 29 9)

def Ewx.spurDest (e : Ewx) : Nat × Nat :=
  match e.sop with
  | some .kernel => (e.m 9 2, e.m 0 9)
  | some .reduce => (e.m 21 2, e.m 12 9)
  | _ => (e.m 18 2, e.m 9 9)

def Ewx.spurQueue (e : Ewx) : Option QId := match e.spurSrc.1 with | 0 => some .drain | 1 => some .screeSpur | _ => none
def Ewx.spurOutQueue (e : Ewx) : Option QId := if e.spurDest.1 = 0 then some .store else none
def Ewx.spurOutTreg (e : Ewx) : Option Nat := if e.spurDest.1 = 1 then some e.spurDest.2 else none

/-- The source tile of a repeat; none where SRC0 names none. -/
def RangeSt.spurTile (r : RangeSt) (e : Ewx) : Option Tile :=
  match e.spurSrc.1 with
  | 0 => r.front .drain
  | 1 => r.front .screeSpur
  | 2 => some (r.tregNow e.spurSrc.2)
  | _ => none

/-! ### Kernels (R182 to R195) -/

/-- The words of a kernel entry (R182, R211). -/
def Mach.kwords (m : Mach) (n : Nat) (k : KEntry) : List KWord :=
  (List.range k.length).map (fun i =>
    let w := (k.start + i) % 4096
    KWord.ofWord ((m.rd (Reg.RANGE_SPUR_KSTORE_LO n w)).toNat + 2 ^ 32 * (m.rd (Reg.RANGE_SPUR_KSTORE_HI n w)).toNat))

/-- K0 to K31 (R209). -/
def Mach.kconsts (m : Mach) (n : Nat) : List Nat :=
  (List.range 32).map (fun k => (m.rd (Reg.RANGE_SPUR_CONST_LO n k)).toNat + 2 ^ 32 * (m.rd (Reg.RANGE_SPUR_CONST_HI n k)).toNat)

/-- Cause 0x41: an entry that is not legal (R203). -/
def KEntry.bad (k : KEntry) : Bool :=
  decide (k.length = 0) || decide (4096 < k.start + k.length) || (k.normEn && k.normClr) ||
  (match KClass.ofCode k.cls, Fmt.ofCode k.fmtOut with
   | some c, some f => !c.outOk f
   | _, _ => true)

/-- Input 1 of a kernel (R103). -/
def RangeSt.kernelIn1 (r : RangeSt) (e : Ewx) : Option Tile := if e.m 20 1 = 1 then some (r.tregNow (e.m 11 9)) else none

def tileIs (p : Tile → Bool) : Option Tile → Bool
  | some t => p t
  | none => false

/-- The causes that a kernel repeat meets (R192, R203, R230). -/
def Mach.kernelCauses (m : Mach) (n : Nat) (e : Ewx) (rep : Nat) : List (Nat × Bool) :=
  let r := m.range n
  let k := m.kentry n e
  let c := (KClass.ofCode k.cls).getD .fp32
  let t0 := r.spurTile e
  let t1 := r.kernelIn1 e
  [(0x40, tileIs (fun t => !spurAccepts t) t0 || tileIs (fun t => !spurAccepts t) t1),
   (0x41, decide (rep = 0) && k.bad),
   (0x42, decide (rep = 0) && !(m.kwords n k).all (fun w => w.ok c (decide (e.m 30 2 ≠ 3)) (decide (e.m 20 1 = 1)))),
   (0x43, tileIs (fun t => !c.accepts t.fmt) t0 || tileIs (fun t => !c.accepts t.fmt) t1),
   (0x64, decide (rep = 0) && m.stagingNamed n e)]

/-- What a Spur repeat yields: its tile, the conversion flags, NAN_MADE, and PERM_RANGE. -/
structure SpurOut where
  tile : Tile
  flags : Nat
  nanMade : Bool
  range : Bool

/-- The norm accumulator as a kernel's class reads it (R194). -/
def naccCode (c : KClass) (x : Nat) : Nat := match c with | .fp64 => x | c => c.fmt.round (Fmt.fp64.decode x)

/-- The result of a kernel repeat (R183, R189). -/
def Mach.kernelOut (m : Mach) (n : Nat) (e : Ewx) (nacc : Nat) : SpurOut :=
  let r := m.range n
  let k := m.kentry n e
  let c := (KClass.ofCode k.cls).getD .fp32
  let o := kernelTile k c ((Fmt.ofCode k.fmtOut).getD .fp32) (m.kwords n k) (m.kconsts n) (naccCode c nacc) (r.spurTile e) (r.kernelIn1 e)
  { tile := o.tile, flags := o.flags, nanMade := o.nanMade, range := false }

/-- The norm accumulator takes a repeat's outputs where NORM_EN is 1 (R193). -/
def Mach.normRep (m : Mach) (n : Nat) (e : Ewx) (t : Tile) : Mach :=
  if (m.kentry n e).normEn then
    let v := normAdd (m.normAcc n) t
    (m.setNormAcc n v).normNan n (!(Fmt.fp64.decode v).isFinite)
  else m

/-! ### Reductions and permutations (R196 to R201) -/

def Mach.vlen0 (m : Mach) (n : Nat) : Nat := m.rdF (Reg.RANGE_SPUR_CFG n) Fld.RANGE_SPUR_CFG_VLEN0
def Mach.vlen1 (m : Mach) (n : Nat) : Nat := m.rdF (Reg.RANGE_SPUR_CFG n) Fld.RANGE_SPUR_CFG_VLEN1
def Mach.permAxis (m : Mach) (n : Nat) : Nat := m.rdF (Reg.RANGE_SPUR_CFG n) Fld.RANGE_SPUR_CFG_PERM_AXIS

/-- The destination whose contents a reduction combines with: ACC is 1 (R105, R196). -/
def RangeSt.reduceOld (r : RangeSt) (e : Ewx) : Option Tile := if e.m 23 1 = 1 then some (r.tregNow (e.m 12 9)) else none

def Mach.reduceCauses (m : Mach) (n : Nat) (e : Ewx) (rep : Nat) (t : Tile) (out : Fmt) : List (Nat × Bool) :=
  [(0x40, !spurAccepts t),
   (0x44, decide (rep = 0) && (!redOutOk (redAcc t.fmt) out || tileIs (fun d => decide (d.fmt ≠ out)) ((m.range n).reduceOld e))),
   (0x64, decide (rep = 0) && m.stagingNamed n e)]

def Mach.permCauses (m : Mach) (n : Nat) (e : Ewx) (rep : Nat) (t : Tile) : List (Nat × Bool) :=
  [(0x40, !spurAccepts t), (0x45, decide (rep = 0) && decide (((m.range n).tregNow (e.m 20 9)).fmt ≠ .int32)),
   (0x64, decide (rep = 0) && m.stagingNamed n e)]

/-! ### A repeat -/

/-- The causes and the result of a repeat of any Spur instruction. -/
def Mach.spurCauses (m : Mach) (n : Nat) (e : Ewx) (rep : Nat) : List (Nat × Bool) :=
  match e.sop, (m.range n).spurTile e with
  | some .kernel, _ => m.kernelCauses n e rep
  | some .reduce, some t => m.reduceCauses n e rep t ((spurFmt (e.m 8 4)).getD .fp32)
  | some .perm, some t => m.permCauses n e rep t
  | _, _ => []

def Mach.spurOut (m : Mach) (n : Nat) (e : Ewx) (nacc : Nat) : SpurOut :=
  let r := m.range n
  match e.sop, r.spurTile e with
  | some .reduce, some t =>
    let o := reduceTile t (e.m 38 2) (e.m 35 3) (m.vlen0 n) (m.vlen1 n) ((spurFmt (e.m 8 4)).getD .fp32) (r.reduceOld e)
    { tile := o.1, flags := o.2, nanMade := false, range := false }
  | some .perm, some t =>
    let o := permTile t (r.tregNow (e.m 20 9)) (m.permAxis n) (if m.permAxis n = 0 then m.vlen0 n else m.vlen1 n)
    { tile := o.1, flags := 0, nanMade := false, range := o.2 }
  | _, _ => m.kernelOut n e nacc

/-- The format of the tile that a repeat puts in the store queue. -/
def Mach.spurOutFmt (m : Mach) (n : Nat) (e : Ewx) : Fmt :=
  match e.sop with
  | some .reduce => (spurFmt (e.m 8 4)).getD .fp32
  | some .perm => ((m.range n).spurTile e).elim .fp32 (fun t => t.fmt)
  | _ => (Fmt.ofCode (m.kentry n e).fmtOut).getD .fp32

/-- SPUR_REPEAT_BEGIN (R179, R190 to R203). -/
def spurBegin (n : Nat) (ecc : Ecc) (m : Mach) (s : Stream) : Begin :=
  match m.frontOf n 3 with
  | .error c => .held c
  | .ok p =>
    let r := m.range n
    let e := p.ins
    if e.sop = some .idle ∨ m.repHeld n p p.begun then .held 3
    else
      match holdCode [(1, r.absent e.spurQueue), (2, r.full e.spurOutQueue (m.spurOutFmt n e)), (3, p.prevBusy s.lockstep),
          (4, m.tregBlocked n s.ctx p)] with
      | some c => .held c
      | none =>
        match p.causes n 3 p.begun (m.spurCauses n e p.begun) with
        | some at_ => .stop m at_
        | none =>
          let c := if e.tregReads = [] then (m, false) else m.checkTile n ecc
          if c.2 then .stop c.1 (p.stopAt n 3 St.internal 0 p.begun)
          else
            let nacc := if p.begun = 0 then m.normAcc n else r.norms.headD 0
            let o := m.spurOut n e nacc
            let isKernel := decide (e.sop = some .kernel)
            let r := match e.spurQueue with | some q => r.take q false | none => r
            let r := (r.deliver 3 p.seq e.spurOutQueue e.spurOutTreg o.tile).begin 3 p.seq
            let r := { r with norms := [nacc], kernNorm := b2n (isKernel && (m.kentry n e).normEn) }
            let m := (c.1.setRange n r).convFlags n o.flags
            let m := if isKernel then (m.nanMade n o.nanMade).normRep n e o.tile else m
            .ok (if o.range then m.wrF (Reg.RANGE_STREAM_STATUS n) Fld.RANGE_STREAM_STATUS_PERM_RANGE 1 else m)

/-- A Spur result arrives, or a discarded one is done (R180). -/
def Mach.spurFull (m : Mach) (n : Nat) : Mach :=
  match (m.range n).spur.find? (fun p => decide (p.done < p.begun)) with
  | some p =>
    if p.ins.sop = some .idle then m
    else (m.updRange n (fun r => r.arrive 3 p.seq p.ins.spurOutQueue p.ins.spurOutTreg none)).didRep n 3 p.seq
  | none => m

/-! ### Rows -/

def execSpurKernel (n : Fin 16) (s : State) : Host.Outcome State Fault Refusal := s.run (kernelPlace n)
def execSpurReduce (n : Fin 16) (s : State) : Host.Outcome State Fault Refusal := s.run (reducePlace n)
def execSpurPerm (n : Fin 16) (s : State) : Host.Outcome State Fault Refusal := s.run (permPlace n)
def execSpurRepeatBegin (n : Fin 16) (ecc : Ecc) (s : State) : Host.Outcome State Fault Refusal :=
  s.run (fun m => m.flowBegin n (spurBegin n ecc))

end Sys2Proof.Machine
end

