-- ==== Sys2Proof/Machine/Slots.lean ====
section
/-!
DEFINITION. Lockstep slots (R72 to R76, R681) and the arrival of a tile at a queue or tile register (R35, R73, R248).
-/

namespace Sys2Proof.Machine

/-! ### What still lies ahead of a dispatcher -/

/-- Whether the dispatcher, going on from a place with the open loops and loop counts it holds, will place an instruction for a
station: each loop is followed for at most two more iterations, which meets every instruction of its body. -/
def aheadFor (code : List Ewx) (st : Nat) : Nat → Nat → List LoopFrame → List Nat → Bool
  | 0, _, _, _ => false
  | f + 1, pc, loops, lc =>
    match code[pc]? with
    | none => false
    | some e =>
      match e.sop with
      | some .loop =>
        let n := lc.getD (e.m 0 2) 0
        if n = 0 then aheadFor code st f (afterEnd (code.drop (pc + 1)) (pc + 1) 1) loops lc
        else aheadFor code st f (pc + 1) ({ body := pc + 1, count := min n 2 } :: loops) lc
      | some .endloop =>
        (match loops with
         | [] => aheadFor code st f (pc + 1) [] lc
         | l :: t => if 1 < l.count then aheadFor code st f l.body ({ l with count := l.count - 1 } :: t) lc
            else aheadFor code st f (pc + 1) t lc)
      | some .setlc => aheadFor code st f (pc + 1) loops (lc.set (e.m 32 2) (e.m 0 32))
      | _ => if e.station = st then true else aheadFor code st f (pc + 1) loops lc

/-- Whether a station of a range still has an instruction to be placed. -/
def Mach.upcoming (m : Mach) (s : Stream) (n st : Nat) : Bool :=
  let r := m.range n
  aheadFor s.image.code st (17 * s.image.code.length + 17) r.pc
    (r.loops.map (fun l => { l with count := min l.count 2 }))
    ((List.range 4).map (fun k => (m.rd (Reg.RANGE_LC n k)).toNat))

/-! ### One station at the start of a slot -/

/-- The head of a station's sequence gives way while it is a satisfied wait or has completed; `k` bounds how often. -/
def Mach.settleHead : Nat → Mach → Nat → Nat → Nat → Mach
  | 0, m, _, _, _ => m
  | k + 1, m, c, n, st =>
    match ((m.range n).seqOf st).head? with
    | none => m
    | some p =>
      if m.waitMet c p then (waitSatisfied n st m).settleHead k c n st
      else if !p.isWait ∧ p.ins.rep ≤ p.done then (instrComplete n st m).settleHead k c n st
      else m

/-- A station's begin in its slot. -/
def slotBegin (n st : Nat) (ecc : Ecc) (m : Mach) (s : Stream) : Begin :=
  match m.frontOf n st with
  | .error c => .held c
  | .ok p =>
    if p.ins.sop = some .idle then .ok ((m.beginRep n st p.seq).didRep n st p.seq)
    else match st with
      | 1 => colBegin n ecc m s
      | 2 => if p.ins.sop = some .drain then drainBegin n ecc m s else crestBegin n ecc m s
      | 3 => spurBegin n ecc m s
      | 4 => talusBegin n ecc m s
      | 5 => screeBegin n ecc m s
      | _ => linkBegin n ecc m s

/-- Whether a station is due to begin a repeat that its front holds back: the front's own repeats, one behind it in the sequence,
or one still to be placed. -/
def Mach.due (m : Mach) (s : Stream) (n st : Nat) : Bool :=
  (((m.range n).seqOf st).any (fun p => !p.isWait && decide (p.begun < p.ins.rep))) || m.upcoming s n st

/-- The position that a SLOT_MISS names: the repeat that was due (R76). -/
def Mach.missAt (m : Mach) (n st cond : Nat) : StopAt :=
  match ((m.range n).seqOf st).find? (fun p => !p.isWait && decide (p.begun < p.ins.rep)) with
  | some p => { range := n, status := St.slotMiss, cause := 0, instr := p.idx, rep := p.begun, station := st, cond := cond }
  | none => { range := n, status := St.slotMiss, cause := 0, instr := (m.range n).pc, rep := 0, station := st, cond := cond }

/-- One station: what it leaves, and where it stops. -/
def stationSlot (s : Stream) (n : Nat) (ecc : Ecc) (a : Mach × List StopAt) (st : Nat) : Mach × List StopAt :=
  let m := a.1.settleHead (((a.1.range n).seqOf st).length) s.ctx n st
  match slotBegin n st ecc m s with
  | .ok m => (m, a.2)
  | .stop m at_ => (m, a.2 ++ [at_])
  | .held c => if m.due s n st then (m, a.2 ++ [m.missAt n st c]) else (m, a.2)

/-- One range: the stations in ascending order of code; it records the first that stops (R681). -/
def rangeSlot (s : Stream) (ecc : Ecc) (a : Mach × List StopAt) (n : Nat) : Mach × List StopAt :=
  let r := [1, 2, 3, 4, 5, 7].foldl (stationSlot s n ecc) (a.1, [])
  (r.1, a.2 ++ r.2.take 1)

/-- SLOT_START (R72, R74, R76): the next slot of the range's lockstep stream begins on every station of every range. (DESIGN CHOICE, log entry 42.) -/
def slotStart (n : Nat) (ecc : Ecc) (m : Mach) : Mach :=
  match m.streamOn n with
  | none => m
  | some s =>
    match s.startAt with
    | none => m
    | some t =>
      if !s.lockstep ∨ !s.admitted ∨ m.clk < t + cyclesAt (s.slot * (s.image.cSlot + s.image.cGuard)) s.fL then m
      else
        let m := m.updStream s.id (fun s => { s with slot := s.slot + 1 })
        let r := (maskBits s.mask 16).foldl (rangeSlot s ecc) (m, [])
        match r.2 with
        | [] => r.1
        | o :: t => r.1.stopStream s.id o.status (o :: t)

/-! ### TILE_FULL (R35, R73, R248) -/

/-- A tile on its way from a station arrives whole. -/
def tileFull (n st : Nat) (m : Mach) : Mach :=
  match st with
  | 1 => m.colFull n
  | 2 => drainFull n m
  | 3 => m.spurFull n
  | 5 => m.screeFull n
  | _ => m

def execSlotStart (n : Fin 16) (ecc : Ecc) (s : State) : Host.Outcome State Fault Refusal := s.run (slotStart n ecc)
def execTileFull (n : Fin 16) (station : Fin 8) (s : State) : Host.Outcome State Fault Refusal := s.run (tileFull n station)

end Sys2Proof.Machine
end

