-- ==== Sys2Proof/Machine/Swite.lean ====
section
/-!
DEFINITION. The Swite link (17_swite_commands): flits and their replay, the assembly of packets and the check of their headers, the
management lane, the classes of the transmitter, packet time-outs, and events.
-/

namespace Sys2Proof.Machine

/-! ### Headers (R576, R577) -/

/-- How many bytes of PARAM an opcode uses (R591, R628, R632, R637, R641, R643). -/
def paramUsed (op : Nat) (p : List Byte) : Nat :=
  match op with
  | 0x0003 => 4 | 0x0004 => 6 | 0x0005 => 6 | 0x0101 => 16 | 0x0102 => 12 | 0x0104 => 16 | 0x0203 => 4 | 0x0204 => 1 | 0x0205 => 4
  | 0x0206 => 2 | 0x0207 => 2 | 0x0208 => 8 | 0x0301 => 1 | 0x0302 => 4 | 0x0303 => 4 | 0x0304 => 1 | 0x0403 => 2 | 0x0404 => 1
  | 0x0405 => 4 | 0x0502 => if leAt p 0 1 = 2 then 2 else 1
  | 0x0503 => 1 | 0x0506 => 12 | 0x0603 => 4 | 0x0701 => 9 | 0x0702 => 5 | 0x0703 => 9 | 0x0704 => 4 | 0x0705 => 1 | 0x0901 => 4
  | _ => 0

/-- A packet's header, from its first 32 bytes. -/
def Hdr.ofBytes (lane : Lane) (auth : Bool) (l : List Byte) : Hdr :=
  let op := leAt l 0 2
  let param := (l.drop 16).take 16
  { lane := lane, tag := leAt l 8 2, ctx := leAt l 10 1, prio := leAt l 11 1, flags := leAt l 2 2, len := leAt l 4 4,
    rsv := !zeroAt l 12 4 || !zeroAt param (paramUsed op param) (16 - paramUsed op param) || (decide (op = Op.reset) && !zeroAt param 1 1),
    auth := auth }

/-- A header that has come whole is checked as soon as it arrives (R577); a FRAME_PUSH while a push waits is BUSY then (R495, R497). -/
def Mach.headerVerdict (m : Mach) (op : Nat) (h : Hdr) (param : List Byte) : Option (Nat × Bool) :=
  match m.headerCheck op h param with
  | some r => some r
  | none =>
    if op = Op.framePush ∧ ((m.ctx h.ctx).elim false (fun x => x.pushWait.isSome) ∨
        m.inFlight.any (fun p => decide (p.opcode = Op.framePush) && decide (p.ctx = h.ctx))) then some (St.busy, false)
    else none

/-- A packet refused at its header: the reply, and the data bytes beyond the header that have come are discarded (R577, R601). -/
def Mach.refuseHeader (m : Mach) (op : Nat) (h : Hdr) (r : Nat × Bool) (rest : Nat) : Mach :=
  (m.addF Reg.SWITE_DISCARD_BYTES Fld.SWITE_DISCARD_BYTES_COUNT rest).send { replyOf h.prio h.lane h.ctx h.tag op r.1 0 [] true with dup := r.2 }

/-- Whether a packet's own selector of an operation has a value that no command has (R522, R546, R610, R637, R641). (DEDUCED, log entry 33.) -/
def noCommand (op : Nat) (l : List Byte) : Bool :=
  match op with
  | 0x0502 => decide (2 < leAt l 16 1)
  | 0x0703 => decide (2 < leAt l 24 1)
  | 0x0705 => decide (1 < leAt l 16 1)
  | 0x0801 => decide (1 < leAt l 32 1)
  | 0x0901 => decide (leAt l 16 1 = 0) || decide (5 < leAt l 16 1)
  | _ => false

/-- A packet that has come whole waits for its command to begin; one that names no command is refused (R577, R680). (DESIGN CHOICE, log entry 11.) -/
def Mach.arrive (m : Mach) (op : Nat) (h : Hdr) (p : Packet) : Mach :=
  if noCommand op p.bytes then (m.countPacket h.lane false).refuseHeader op h ((m.restricted op h).getD St.badParam, false) 0
  else { m with swite := { m.swite with arrived := m.swite.arrived ++ [p] } }

/-! ### Assembly (R569, R588, R589) -/

def Mach.setArriving (m : Mach) (l : List Packet) : Mach := { m with swite := { m.swite with arriving := l } }

/-- The packet under way in a class of the data lanes. -/
def Mach.packetOf (m : Mach) (cls : Nat) : Option Packet := m.swite.arriving.find? (fun p => decide (p.lane = .data) && decide (p.cls = cls))
def Mach.withoutPacket (m : Mach) (cls : Nat) : List Packet := m.swite.arriving.filter (fun p => !(decide (p.lane = .data) && decide (p.cls = cls)))

/-- The rest of a class's packet is discarded as it arrives. -/
def Mach.discardRest (m : Mach) (cls : Nat) : Mach :=
  { m with swite := { m.swite with arriving := m.withoutPacket cls, discarding := insertNat cls m.swite.discarding } }

/-- The bytes of a packet of its kind, once its header says: a command's header and payload, and the tag of a session; a transaction's
header and data. -/
def Mach.packetTotal (m : Mach) (kind : Nat) (l : List Byte) : Nat :=
  if kind = 1 then 16 + (if leAt l 0 1 = 3 then leAt l 4 2 else 0)
  else 32 + leAt l 4 4 + (if m.sessionUp then 16 else 0)

/-- A command packet that has grown: its header is checked once, and once it is whole it waits for its command to begin. -/
def Mach.growPacket (m : Mach) (p : Packet) : Mach :=
  let others := m.withoutPacket p.cls
  if p.bytes.length < 32 then m.setArriving (p :: others)
  else
    let op := p.opcode
    let h := Hdr.ofBytes .data m.sessionUp p.bytes
    let q : Mach := m.setArriving others
    match (if p.accepted then none else q.headerVerdict op h ((p.bytes.drop 16).take 16)) with
    | some r =>
      let total := m.packetTotal 0 p.bytes
      if p.bytes.length < total then (q.discardRest p.cls).refuseHeader op h r (p.bytes.length - 32) else q.refuseHeader op h r (total - 32)
    | none =>
      let p : Packet := { p with total := m.packetTotal 0 p.bytes, accepted := true, since := if p.accepted then p.since else m.baseTime }
      if p.bytes.length < p.total then m.setArriving (p :: others)
      else q.arrive op h { p with bytes := p.bytes.take p.total }

/-- The data of a flit that was received in order. -/
def Mach.takeFlit (m : Mach) (f : Flit) : Mach :=
  let fresh : Packet := { lane := .data, cls := f.cls, bytes := f.data, total := 0, accepted := false, since := m.clk, last := m.clk }
  if f.rsv ∨ 2 ≤ f.kind then m
  else if f.sop then
    let m : Mach := { m with swite := { m.swite with discarding := m.swite.discarding.filter (fun c => decide (c ≠ f.cls)) } }
    if f.kind = 0 then m.growPacket fresh
    else if f.data.length < m.packetTotal 1 f.data then m.setArriving ({ fresh with total := m.packetTotal 1 f.data } :: m.withoutPacket f.cls)
    else m.setArriving (m.withoutPacket f.cls)
  else match m.packetOf f.cls with
    | none => m.addF Reg.SWITE_DISCARD_BYTES Fld.SWITE_DISCARD_BYTES_COUNT f.data.length
    | some p =>
      let p : Packet := { p with bytes := p.bytes ++ f.data, last := m.clk }
      if f.kind = 0 then m.growPacket p
      else if p.bytes.length < p.total then m.setArriving (p :: m.withoutPacket f.cls)
      else m.setArriving (m.withoutPacket f.cls)

/-! ### Flits (R567 to R571) -/

def flitLe (a b : Nat) : Bool := decide ((b + 4096 - a) % 4096 < 2048)

/-- Flits that an `ACK` covers are kept no longer. -/
def Mach.flitAck (m : Mach) (ack : Nat) : Mach :=
  { m with swite := { m.swite with kept := m.swite.kept.filter (fun f => !flitLe f.seq ack) } }

/-- The kept flits from a `SEQ` on are sent again, in order. -/
def Mach.resendFlits (m : Mach) (seq : Nat) : Mach :=
  { m with swite := { m.swite with linkOut := m.swite.linkOut ++ m.swite.kept.filter (fun f => flitLe seq f.seq) } }

/-- FLIT_RECEIVE. (DEDUCED, log entry 12.) -/
def flitReceive (f : Flit) (crcOk codewordOk : Bool) (corrected : Nat) (m : Mach) : Mach :=
  if !m.dataUp then m
  else
    let m := m.addF Reg.SWITE_FEC_CORRECTED Fld.SWITE_FEC_CORRECTED_COUNT corrected
    let m := if codewordOk then m else (m.addF Reg.SWITE_FEC_DROPPED Fld.SWITE_FEC_DROPPED_COUNT 1).tally 303 1
    if !crcOk ∨ !codewordOk ∨ f.seq ≠ m.swite.rxExpect then
      if m.swite.waitReplay ∨ (crcOk ∧ codewordOk ∧ flitLe f.seq ((m.swite.rxExpect + 4095) % 4096)) then m
      else
        let m : Mach := { m with swite := { m.swite with waitReplay := true, control := m.swite.control ++ [.replay m.swite.rxExpect] } }
        m.addF Reg.SWITE_FLIT_REPLAYS Fld.SWITE_FLIT_REPLAYS_COUNT 1
    else
      let m : Mach := { m with swite := { m.swite with rxExpect := (f.seq + 1) % 4096, waitReplay := false, control := m.swite.control ++ [.credit f.cls 1] } }
      (m.flitAck f.ack).takeFlit f

/-- LINK_CONTROL_FLIT: credits of a class, or a replay from a `SEQ`. -/
def linkControlFlit (c : LinkControl) (ack : Nat) (m : Mach) : Mach :=
  if !m.dataUp then m
  else
    let m := m.flitAck ack
    match c with
    | .replay seq => m.resendFlits seq
    | .credit cls n => { m with swite := { m.swite with credits := m.swite.credits.set cls (m.swite.credits.getD cls 0 + n) } }

/-! ### The transmitter's classes (R580, R581) -/

/-- The flits of one 10 µs window: flit data of 205.03 GB/s, or half of it on eight lanes. (DEDUCED, log entry 12.) -/
def Mach.windowFlits (m : Mach) : Nat := if m.rdF Reg.SWITE_STATUS Fld.SWITE_STATUS_STATE = 3 then 1025150 / 248 else 2050300 / 248

/-- The next flit of a class, against a credit and within 2,048 kept flits. -/
def Mach.sendFlit (m : Mach) (cls : Nat) : Option Mach :=
  match m.swite.outq.find? (fun p => decide (p.cls = cls)) with
  | none => none
  | some p =>
    if m.swite.credits.getD cls 0 = 0 ∨ 2048 ≤ m.swite.kept.length then none
    else
      let d := p.rest.take 248
      let f : Flit := { sop := !p.begun, cls := cls, kind := p.kind, rsv := false, seq := m.swite.txSeq, ack := (m.swite.rxExpect + 4095) % 4096,
                        data := d ++ List.replicate (248 - d.length) 0 }
      let q : TxPacket := { p with begun := true, rest := p.rest.drop 248 }
      let outq := if q.rest = [] then m.swite.outq.erase p else m.swite.outq.replace p q
      some { m with swite := { m.swite with outq := outq, txSeq := (m.swite.txSeq + 1) % 4096, kept := m.swite.kept ++ [f],
                                            linkOut := m.swite.linkOut ++ [f], credits := m.swite.credits.set cls (m.swite.credits.getD cls 0 - 1) } }

/-- At most `n` flits of a class; how many of the `n` are left. -/
def Mach.sendFlits : Nat → Nat → Mach → Nat × Mach
  | 0, _, m => (0, m)
  | n + 1, cls, m => match m.sendFlit cls with | some q => Mach.sendFlits n cls q | none => (n + 1, m)

/-- A class's reserved flits of a window. -/
def Mach.reservedFlits (m : Mach) (cls : Nat) : Nat := 10000 * m.rdF (Reg.SWITE_CLASS_RESERVE cls) Fld.SWITE_CLASS_RESERVE_GBPS / 248

/-- CLASS_WINDOW: each class first has its reservation, then the classes follow in strict order, class 7 first. -/
def classWindow (m : Mach) : Mach :=
  if !m.dataUp then m
  else
    let order := (List.range 8).reverse
    let first := order.foldl (fun (s : Nat × Mach) k =>
      let n := min s.1 (m.reservedFlits k)
      let r := Mach.sendFlits n k s.2
      (s.1 - (n - r.1), r.2)) (m.windowFlits, m)
    (order.foldl (fun (s : Nat × Mach) k => Mach.sendFlits s.1 k s.2) first).2

/-! ### Retraining (R572) -/

/-- SWITE_ALIGNMENT_LOSS: the whole link retrains. -/
def alignmentLoss (lane : Nat) (m : Mach) : Mach :=
  if !m.dataUp ∨ !bitOf (m.rdF Reg.SWITE_STATUS Fld.SWITE_STATUS_LANES_UP) lane then m
  else
    let m := (m.wrF Reg.SWITE_STATUS Fld.SWITE_STATUS_STATE 1).wrF Reg.SWITE_STATUS Fld.SWITE_STATUS_LANES_UP
      (m.rdF Reg.SWITE_STATUS Fld.SWITE_STATUS_LANES_UP - 2 ^ lane)
    ((m.addF Reg.SWITE_RETRAINS Fld.SWITE_RETRAINS_COUNT 1).trouble 7).tally 303 3

/-- SWITE_LINK_RETRAINED: all lanes, or the whole half, or none; then kept flits and waiting replies go out. -/
def linkRetrained (lanes : Nat) (m : Mach) : Mach :=
  if m.dataUp ∨ m.stage < 2 then m
  else
    let l := lanes % 65536
    let (state, up) := if l = 0xFFFF then (2, l) else if l % 256 = 255 then (3, 0x00FF) else if l / 256 = 255 then (3, 0xFF00) else (0, l)
    let m := (m.wrF Reg.SWITE_STATUS Fld.SWITE_STATUS_STATE state).wrF Reg.SWITE_STATUS Fld.SWITE_STATUS_LANES_UP up
    if state = 0 then m
    else (m.resendFlits ((m.swite.kept.head?.map (fun f => f.seq)).getD m.swite.txSeq)).releaseHeld

/-! ### The management lane (R573) -/

/-- MGMT_PACKET: its header is checked, and it waits for its command to begin. (DEDUCED, log entry 12.) -/
def mgmtPacket (l : List Byte) (crcOk : Bool) (m : Mach) : Mach :=
  if !(m.island cairnIsland).powered then m
  else if !crcOk then m.addF Reg.SWITE_MGMT_CRC Fld.SWITE_MGMT_CRC_COUNT 1
  else
    let h := Hdr.ofBytes .mgmt false l
    let op := leAt l 0 2
    match m.headerVerdict op h ((l.drop 16).take 16) with
    | some r => m.refuseHeader op h r (l.length - 32)
    | none =>
      if l.length ≠ 32 + h.len then m.refuseHeader op h (St.badParam, false) (l.length - 32)
      else m.arrive op h
        { lane := .mgmt, cls := h.prio, bytes := l, total := l.length, accepted := true, since := m.baseTime, last := m.clk }

/-! ### Time-outs and events (R587 to R589) -/

/-- PACKET_TIMEOUT. -/
def packetTimeout (cls : Nat) (m : Mach) : Mach :=
  match m.packetOf cls with
  | none => m
  | some p =>
    if m.clk < p.last + us (m.rd Reg.SWITE_PACKET_TIMEOUT).toNat ∨ (p.accepted ∧ p.opcode = Op.framePush ∧ m.periodic p.ctx) then m
    else
      let m := ((m.discardRest cls).addF Reg.SWITE_PARTIAL_DISCARD Fld.SWITE_PARTIAL_DISCARD_COUNT 1).trouble 7
      let m := m.tally 303 0
      if p.accepted then m.send (replyOf p.cls .data p.ctx p.tag p.opcode St.partialDiscard 0 [] true) else m

/-- The opcode of an event's kind. -/
def eventOpcode (kind : Nat) : Nat :=
  if kind ≤ 1 then Op.linkStatus else if kind ≤ 3 then Op.thermalStatus else if kind = 4 then Op.stepAbort else Op.csrRead

/-- EVENT_SEND: at most one event of a kind in 1 ms. -/
def eventSend (kind : Nat) (m : Mach) : Mach :=
  match m.swite.events.find? (fun e => decide (e.1 = kind)) with
  | none => m
  | some e =>
    if m.swite.eventAt.any (fun t => decide (t.1 = kind) && decide (m.clk < t.2 + ms 1)) ∨ !(m.island cairnIsland).powered then m
    else
      let m : Mach := { m with swite := { m.swite with events := m.swite.events.filter (fun x => decide (x.1 ≠ kind)),
                                                       eventAt := (kind, m.clk) :: m.swite.eventAt.filter (fun t => decide (t.1 ≠ kind)) } }
      m.send { lane := if m.dataUp then .data else .mgmt, opcode := eventOpcode kind, tag := 0xFFFF, status := e.2.1, ctx := 0xFF, final := true,
               event := true, dup := false, cls := 7, detail := e.2.2, data := [] }

/-! ### Rows -/

def execFlitReceive (f : Flit) (crcOk codewordOk : Bool) (corrected : Nat) (s : State) : Host.Outcome State Fault Refusal :=
  s.run (flitReceive f crcOk codewordOk corrected)
def execLinkControlFlit (c : LinkControl) (ack : Nat) (s : State) : Host.Outcome State Fault Refusal := s.run (linkControlFlit c ack)
def execSwiteAlignmentLoss (lane : Fin 16) (s : State) : Host.Outcome State Fault Refusal := s.run (alignmentLoss lane)
def execSwiteLinkRetrained (lanes : Nat) (s : State) : Host.Outcome State Fault Refusal := s.run (linkRetrained lanes)
def execMgmtPacket (bytes : List Byte) (crcOk : Bool) (s : State) : Host.Outcome State Fault Refusal := s.run (mgmtPacket bytes crcOk)
def execPacketTimeout (cls : Fin 8) (s : State) : Host.Outcome State Fault Refusal := s.run (packetTimeout cls)
def execClassWindow (s : State) : Host.Outcome State Fault Refusal := s.run classWindow
def execEventSend (kind : Fin 6) (s : State) : Host.Outcome State Fault Refusal := s.run (eventSend kind)

end Sys2Proof.Machine
end

