-- ==== Sys2Proof/Machine/Survey.lean ====
section
/-!
DEFINITION. Survey's counters and snapshots (R623 to R635), Waymark halts (R636 to R640) and the dumps of debug mode (R173, R643).
-/

namespace Sys2Proof.Machine

/-! ### Units (R623) -/

/-- What R623 says of a unit: how many counters and how many trouble counters it has, and the island whose counters Survey saves. -/
structure UnitInfo where
  count : Nat
  troubles : Nat
  island : Nat
  deriving DecidableEq, Repr

/-- The unit table. (DESIGN CHOICE, log entry 44.) -/
def unitInfo (u : Nat) : UnitInfo :=
  if u < 112 then ⟨72, (match u % 7 with | 0 => 3 | 1 => 2 | 5 => 3 | _ => 0), 4 * (u / 7)⟩
  else if u < 124 then ⟨128, 3, 70 + (u - 112)⟩
  else if u < 172 then ⟨64, 0, 70 + (u - 124) / 4⟩
  else if u < 184 then ⟨32, 1, 70 + (u - 172)⟩
  else if u < 188 then ⟨64, 2, 64 + 3 * ((u - 184) / 2) + 1 + (u - 184) % 2⟩
  else if u < 220 then ⟨96, 6, 92 + 2 * ((u - 188) / 4)⟩
  else if u < 252 then ⟨32, 2, 92 + 2 * ((u - 220) / 4)⟩
  else if u = 252 then ⟨128, 0, 87⟩
  else if u < 261 then ⟨160, 3, 93 + 2 * (u - 253)⟩
  else if u = 261 then ⟨256, 2, 91⟩
  else if u < 301 then ⟨16, 2, 84⟩
  else match u with
    | 301 => ⟨64, 3, 84⟩ | 302 => ⟨256, 3, 82⟩ | 303 => ⟨128, 4, 86⟩ | 304 => ⟨32, 1, 83⟩ | 305 => ⟨64, 1, 82⟩ | 306 => ⟨32, 1, 88⟩
    | 307 => ⟨64, 0, 89⟩ | 308 => ⟨64, 0, 90⟩ | 309 => ⟨128, 0, 64⟩ | 310 => ⟨128, 0, 67⟩ | 311 => ⟨64, 0, 85⟩ | 312 => ⟨64, 0, 91⟩
    | 313 => ⟨64, 1, 82⟩ | 314 => ⟨64, 1, 82⟩ | _ => ⟨64, 1, 82⟩

/-- How many units there are. -/
def unitCount : Nat := 316

/-! ### Snapshots (R628 to R631) -/

def Mach.surveyState (m : Mach) : Nat := m.rdF Reg.SURVEY_STATUS Fld.SURVEY_STATUS_STATE
def Mach.setSurveyState (m : Mach) (v : Nat) : Mach := m.wrF Reg.SURVEY_STATUS Fld.SURVEY_STATUS_STATE v
def Mach.snapId (m : Mach) : Nat := m.rdF Reg.SURVEY_STATUS Fld.SURVEY_STATUS_SNAP_ID

/-- Whether a snapshot's tick lies too near or too far: less than 10 µs or more than 1 s ahead. -/
def Mach.badTick (m : Mach) (tick : Nat) : Bool :=
  decide (tick < m.timebase.ticks.toNat + 1563) || decide (m.timebase.ticks.toNat + 156250000 < tick)

/-- SURVEY_SNAP: the snapshot is pending. -/
def surveySnapBody (h : Hdr) (tick opt : Nat) (m : Mach) : Mach :=
  if 2 ≤ opt ∨ m.badTick tick then m.answer h Op.surveySnap St.badParam
  else if m.surveyState = 1 ∨ (m.surveyState = 2 ∧ !bitOf h.flags 6) then m.answer h Op.surveySnap St.busy
  else
    let m : Mach := { m with survey := { m.survey with tick := tick, clear := bitOf opt 0, cmd := some (h.lane, h.ctx, h.tag) } }
    let m := (m.wr Reg.SURVEY_SNAP_AT_LO (BitVec.ofNat 32 tick)).wr Reg.SURVEY_SNAP_AT_HI (BitVec.ofNat 32 (tick / 2 ^ 32))
    (m.setSurveyState 1).begin h Op.surveySnap

/-- The units whose island has no power (R627). -/
def Mach.unitsOff (m : Mach) : List Nat := (List.range unitCount).filter (fun u => !(m.island (unitInfo u).island).powered)

/-- SNAPSHOT_CAPTURE: at the end of the tick every counter goes to its shadow, and the command replies. -/
def snapshotCapture (m : Mach) : Mach :=
  if m.surveyState ≠ 1 ∨ m.timebase.ticks.toNat ≤ m.survey.tick then m
  else
    let v := m.survey
    let q : Mach := { m with survey := { v with shadow := v.trouble, shadowOff := m.unitsOff, trouble := if v.clear then [] else v.trouble,
                                                capture := m.draws, read := [], cmd := none } }
    let q := ((q.drawn.setSurveyState 2).wrF Reg.SURVEY_STATUS Fld.SURVEY_STATUS_UNITS_READ 0).wrF Reg.SURVEY_STATUS
      Fld.SURVEY_STATUS_SNAP_ID (m.snapId + 1)
    match v.cmd with
    | some (lane, ctx, tag) => q.finish lane ctx tag Op.surveySnap St.done q.snapId
    | none => q

/-! ### SURVEY_READ (R632 to R635) -/

/-- One counter of the shadows: a trouble counter, or an event counter's free value. (DESIGN CHOICE, log entry 44.) -/
def SurveySt.value (v : SurveySt) (u i : Nat) : Nat :=
  if i < (unitInfo u).troubles then Sparse.get (fun _ => 0) v.shadow (troubleKey u i) else (Config.eventCount v.capture u i).toNat

/-- The name of a counter: 24 characters. -/
def nameBytes (u i : Nat) : List Byte := (List.range 24).map (fun k => (Config.counterName u i k).zeroExtend 8)

/-- One unit's record. -/
def SurveySt.record (v : SurveySt) (names : Bool) (u : Nat) : List Byte :=
  let x := unitInfo u
  leBytes u 2 ++ leBytes x.count 2 ++ leBytes (b2n (v.shadowOff.contains u)) 1 ++ leBytes x.troubles 1 ++ [0, 0] ++
    (List.range x.count).flatMap (fun i => if names then nameBytes u i else leBytes (v.value u i) 8)

/-- How many bytes the records of some units take. -/
def recordBytes (names : Bool) (units : List Nat) : Nat :=
  (units.map (fun u => 8 + (if names then 24 else 8) * (unitInfo u).count)).sum

/-- The reading of the shadows ends (R630). -/
def Mach.readout (m : Mach) (names release : Bool) (units : List Nat) : Mach :=
  let all := if names then m.survey.read else (m.survey.read ++ units).eraseDups
  let q : Mach := { m with survey := { m.survey with read := all } }
  if m.surveyState ≠ 2 then m
  else
    let q := q.wrF Reg.SURVEY_STATUS Fld.SURVEY_STATUS_UNITS_READ all.length
    if release ∨ all.length = unitCount then q.setSurveyState 0 else q

/-- SURVEY_READ. -/
def surveyReadBody (h : Hdr) (first count opt : Nat) (m : Mach) : Mach :=
  let names := bitOf opt 0
  let units := List.range' first count
  if 4 ≤ opt ∨ count = 0 ∨ unitCount < first + count ∨ (h.lane = .mgmt ∧ 4160 < 16 + recordBytes names units) then
    m.answer h Op.surveyRead St.badParam
  else if !names ∧ m.surveyState ≠ 2 then m.answer h Op.surveyRead St.busy
  else (m.readout names (bitOf opt 1) units).answer h Op.surveyRead St.done (if names then 0 else m.snapId)
    (units.flatMap (m.survey.record names))

/-! ### Waymark (R636 to R640) -/

/-- The ranges that an arm of some ranges applies to: those, and the others of the streams that run on them. -/
def Mach.armRanges (m : Mach) (mask : Nat) : Nat :=
  (m.streams.filter (fun s => s.admitted && decide (s.mask &&& mask ≠ 0))).foldl (fun a s => a ||| s.mask) mask

/-- Writing a position's registers on some ranges. -/
def Mach.setMark (m : Mach) (mask instr pass rep : Nat) : Mach :=
  m.each (maskBits mask 16) (fun m n =>
    let m := (m.wrF (Reg.WAYMARK_POSITION n) Fld.WAYMARK_POSITION_INSTR_INDEX instr).wrF (Reg.WAYMARK_POSITION n) Fld.WAYMARK_POSITION_REPEAT_INDEX rep
    (m.wrF (Reg.WAYMARK_POSITION_HI n) Fld.WAYMARK_POSITION_HI_PASS pass).wrF (Reg.WAYMARK_POSITION_HI n) Fld.WAYMARK_POSITION_HI_ARMED 1)

/-- An arm or a resume that waits for its halt. -/
def Mach.armFor (m : Mach) (h : Hdr) (mask instr pass rep : Nat) : Mach :=
  let ranges := m.armRanges mask
  let q : Mach := { m with arms := m.arms ++ [{ lane := h.lane, ctx := h.ctx, tag := h.tag, mask := mask, ranges := ranges }] }
  (q.setMark ranges instr pass rep).begin h Op.waymarkSet

/-- The refusal that every WAYMARK_SET meets (R637, R684). -/
def Mach.waymarkRefusal (m : Mach) (c mask : Nat) : Option Nat :=
  if mask = 0 then some St.badParam else if !m.ownsAll c mask then some St.notPermitted else none

def Mach.halted (m : Mach) (n : Nat) : Bool := decide (m.rangeState n = 5)

/-- WAYMARK_SET with `OP` 0. -/
def armBody (h : Hdr) (mask instr pass rep : Nat) (m : Mach) : Mach :=
  match m.waymarkRefusal h.ctx mask with
  | some st => m.answer h Op.waymarkSet st
  | none =>
    if (maskBits mask 16).any (fun n => (m.streamOn n).elim false (fun s => s.lockstep)) then m.answer h Op.waymarkSet St.badParam
    else if (maskBits mask 16).any m.halted then m.answer h Op.waymarkSet St.busy
    else m.armFor h mask instr pass rep

/-- A halted range goes on. -/
def Mach.goOn (m : Mach) (n : Nat) : Mach :=
  if m.halted n then
    let m := ((m.setRangeState n 2).wrF (Reg.WAYMARK_POSITION_HI n) Fld.WAYMARK_POSITION_HI_HALTED 0).updRange n (fun r => { r with halted := false })
    (m.progress n).settle n
  else m.settle n

/-- WAYMARK_SET with `OP` 1. -/
def resumeBody (h : Hdr) (mask instr pass rep : Nat) (m : Mach) : Mach :=
  match m.waymarkRefusal h.ctx mask with
  | some st => m.answer h Op.waymarkSet st
  | none =>
    if !(maskBits mask 16).all m.halted then m.answer h Op.waymarkSet St.busy
    else
      let ranges := m.armRanges mask
      let q := m.disarmRanges ranges
      let q := if instr = 0xFFFF then q.answer h Op.waymarkSet St.done else q.armFor h mask instr pass rep
      q.each (maskBits ranges 16) Mach.goOn

/-- WAYMARK_SET with `OP` 2: every arm of the ranges ends, with bit 30 of `DETAIL` set, and then the disarm itself (R638). -/
def disarmBody (h : Hdr) (mask : Nat) (m : Mach) : Mach :=
  match m.waymarkRefusal h.ctx mask with
  | some st => m.answer h Op.waymarkSet st
  | none =>
    let ranges := m.armRanges mask
    let q := (m.dropArms (fun a => decide (a.ranges &&& mask ≠ 0)) St.done (2 ^ 30)).disarmRanges ranges
    (q.each (maskBits ranges 16) Mach.settle).answer h Op.waymarkSet St.done

/-- Whether a range is at the boundary point of its position (R636): everything before it has completed, and nothing at or after it has begun. -/
def Mach.atBoundary (m : Mach) (n : Nat) (code : List Ewx) : Bool :=
  match m.mark n with
  | none => false
  | some (i, pass, k) =>
    let r := m.range n
    match r.placedAt i pass with
    | some p => !r.inFlight.any (fun x => decide (x.2.seq < p.seq)) && decide (p.begun = k) && decide (p.done = k)
    | none => decide (r.pc = i) && decide (r.passOf i = pass) && r.inFlight.isEmpty && r.fence.isNone && r.ctrlWait.isNone &&
        (code[i]?).elim false (fun e => decide (e.station = 0) || decide (e.station = 6))

/-- The halted ranges among those of a mask, as a mask. -/
def Mach.haltedMask (m : Mach) (mask : Nat) : Nat := maskOf ((maskBits mask 16).filter m.halted)

/-- The arms whose every range has halted reply. -/
def Mach.answerArms (m : Mach) : Mach :=
  let allHalted (a : ArmSt) : Bool := (maskBits a.ranges 16).all m.halted
  let mine := m.arms.filter allHalted
  let q : Mach := { m with arms := m.arms.filter (fun a => !allHalted a) }
  mine.foldl (fun q a => q.finish a.lane a.ctx a.tag Op.waymarkSet St.done (m.haltedMask a.ranges)) q

/-- WAYMARK_HALT: a range halts at its position (R164, R202, R636). (DESIGN CHOICE, log entry 43.) -/
def waymarkHalt (n : Nat) (m : Mach) : Mach :=
  match m.streamOn n with
  | none => m
  | some s =>
    if s.lockstep || (m.range n).halted || !m.atBoundary n s.image.code then m
    else
      let m := (m.wr (Reg.RANGE_QUEUE_FILL n) (queueFill (m.range n))).setRangeState n 5
      let m := (m.wrF (Reg.WAYMARK_POSITION_HI n) Fld.WAYMARK_POSITION_HI_HALTED 1).wrF (Reg.WAYMARK_POSITION_HI n) Fld.WAYMARK_POSITION_HI_ARMED 0
      (m.updRange n (fun r => { r with halted := true })).answerArms

/-! ### DEBUG_DUMP (R173, R178, R643) -/

/-- The codes of a run of elements, packed in groups: four 6-bit elements in three bytes, two 4-bit elements in one. -/
def packCodes (w : Nat) : List Nat → List Byte
  | [] => []
  | a :: l =>
    if w = 6 then
      match l with
      | b :: c :: d :: t => leBytes (a + b * 2 ^ 6 + c * 2 ^ 12 + d * 2 ^ 18) 3 ++ packCodes w t
      | _ => leBytes a 3
    else if w = 4 then
      match l with
      | b :: t => leBytes (a + b * 16) 1 ++ packCodes w t
      | [] => leBytes a 1
    else leBytes a (w / 8) ++ packCodes w l

/-- The scale bytes of a tile, line by line in block order. -/
def Tile.scaleBytes (t : Tile) : List Byte :=
  if t.block = 0 then []
  else (positions 128 (128 / t.block)).flatMap (fun p => leBytes (Sparse.get (fun _ => 127) t.scales (128 * p.1 + p.2)) 1)

/-- The 65,536 bytes of a tile register: elements, scales, and free bytes where the tile does not fill it. (DESIGN CHOICE, log entry 45.) -/
def Tile.dump (t : Tile) (draw : Nat) : List Byte :=
  let l := packCodes t.fmt.width ((positions (if t.fmt = .fp64 then 64 else 128) 128).map (fun p => t.code p.1 p.2)) ++ t.scaleBytes
  l ++ (List.range (65536 - l.length)).map (Config.unreadByte draw)

/-- The tag of a tile: format, scale block, block axis. -/
def Tile.tag (t : Tile) : Nat :=
  t.fmt.code + 16 * (match t.block with | 32 => 1 | 16 => 2 | _ => 0) + 64 * (if t.block = 0 then 0 else t.axis)

/-- The 65,536 bytes of a bank. -/
def Bank.dump (b : Bank) : List Byte := (List.range 16384).flatMap (fun k => leBytes (Sparse.get (fun _ => 0) b.acc k) 4)

def debugDumpBody (h : Hdr) (range what treg : Nat) (m : Mach) : Mach :=
  if 16 ≤ range ∨ 3 ≤ what ∨ 512 ≤ treg then m.answer h Op.debugDump St.badParam
  else if !m.debug ∨ !m.owns h.ctx range then m.answer h Op.debugDump St.notPermitted
  else if !m.halted range then m.answer h Op.debugDump St.busy
  else
    let r := m.range range
    match what with
    | 0 => m.answer h Op.debugDump St.done 0 r.bank0.dump
    | 1 => m.answer h Op.debugDump St.done 0 r.bank1.dump
    | _ =>
      let t := Sparse.get (fun _ => Tile.zeroed) r.tiles treg
      m.drawn.answer h Op.debugDump St.done t.tag (t.dump m.draws)

/-! ### Rows -/

def waymarkParam (mask instr pass rep op : Nat) : List Byte :=
  leBytes mask 2 ++ leBytes instr 2 ++ leBytes pass 2 ++ leBytes rep 2 ++ leBytes op 1

def execSurveySnap (h : Hdr) (tick opt : Nat) (s : State) : Host.Outcome State Fault Refusal :=
  s.run (fun m => m.command Op.surveySnap h (leBytes tick 8 ++ leBytes opt 1) (surveySnapBody h tick opt))
def execSurveyRead (h : Hdr) (firstUnit unitCount opt : Nat) (s : State) : Host.Outcome State Fault Refusal :=
  s.run (fun m => m.command Op.surveyRead h (leBytes firstUnit 2 ++ leBytes unitCount 2 ++ leBytes opt 1) (surveyReadBody h firstUnit unitCount opt))
def execArm (h : Hdr) (rangeMask instrIndex pass repeatIndex : Nat) (s : State) : Host.Outcome State Fault Refusal :=
  s.run (fun m => m.command Op.waymarkSet h (waymarkParam rangeMask instrIndex pass repeatIndex 0) (armBody h rangeMask instrIndex pass repeatIndex))
def execResume (h : Hdr) (rangeMask instrIndex pass repeatIndex : Nat) (s : State) : Host.Outcome State Fault Refusal :=
  s.run (fun m => m.command Op.waymarkSet h (waymarkParam rangeMask instrIndex pass repeatIndex 1) (resumeBody h rangeMask instrIndex pass repeatIndex))
def execDisarm (h : Hdr) (rangeMask : Nat) (s : State) : Host.Outcome State Fault Refusal :=
  s.run (fun m => m.command Op.waymarkSet h (waymarkParam rangeMask 0 0 0 2) (disarmBody h rangeMask))
def execDebugDump (h : Hdr) (range what treg : Nat) (s : State) : Host.Outcome State Fault Refusal :=
  s.run (fun m => m.command Op.debugDump h (leBytes range 1 ++ leBytes what 1 ++ leBytes treg 2) (debugDumpBody h range what treg))
def execSnapshotCapture (s : State) : Host.Outcome State Fault Refusal := s.run snapshotCapture
def execWaymarkHalt (n : Fin 16) (s : State) : Host.Outcome State Fault Refusal := s.run (waymarkHalt n)

end Sys2Proof.Machine
end

