-- ==== Sys2Proof/Machine/Dispatch.lean ====
section
/-!
DEFINITION. Dispatch: one arm for each command, each a direct call of its meaning.
-/

namespace Sys2Proof.Machine

def exec (i : Instr) (s : State) : Host.Outcome State Fault Refusal :=
  match i with
  | .hello h => Sys2Proof.Machine.execHello h s
  | .identify h => Sys2Proof.Machine.execIdentify h s
  | .csrRead h address => Sys2Proof.Machine.execCsrRead h address s
  | .csrWrite h address count values => Sys2Proof.Machine.execCsrWrite h address count values s
  | .csrReadBlock h address count => Sys2Proof.Machine.execCsrReadBlock h address count s
  | .memCopy h src dst length slot => Sys2Proof.Machine.execMemCopy h src dst length slot s
  | .memFill h dst pattern length => Sys2Proof.Machine.execMemFill h dst pattern length s
  | .memMap h va size pa page write pdom => Sys2Proof.Machine.execMemMap h va size pa page write pdom s
  | .memUnmap h va size => Sys2Proof.Machine.execMemUnmap h va size s
  | .contextCreate h rangeCount place rangeMask syncCount seed pdomGrant => Sys2Proof.Machine.execContextCreate h rangeCount place rangeMask syncCount seed pdomGrant s
  | .contextDestroy h => Sys2Proof.Machine.execContextDestroy h s
  | .descLoad h first count payload => Sys2Proof.Machine.execDescLoad h first count payload s
  | .streamLoad h image payload => Sys2Proof.Machine.execStreamLoad h image payload s
  | .streamStart h image mode rangeMask => Sys2Proof.Machine.execStreamStart h image mode rangeMask s
  | .streamStop h rangeMask => Sys2Proof.Machine.execStreamStop h rangeMask s
  | .streamStatus h rangeMask => Sys2Proof.Machine.execStreamStatus h rangeMask s
  | .framePush h inHandle outHandle outBytes payload => Sys2Proof.Machine.execFramePush h inHandle outHandle outBytes payload s
  | .stepBegin h table => Sys2Proof.Machine.execStepBegin h table s
  | .stepCommit h step => Sys2Proof.Machine.execStepCommit h step s
  | .stepAbort h step => Sys2Proof.Machine.execStepAbort h step s
  | .scheduleLoad h table payload => Sys2Proof.Machine.execScheduleLoad h table payload s
  | .fabricDiscover h => Sys2Proof.Machine.execFabricDiscover h s
  | .fabricPlan h payload => Sys2Proof.Machine.execFabricPlan h payload s
  | .meshSet h mode count rxMap entries => Sys2Proof.Machine.execMeshSet h mode count rxMap entries s
  | .darkMapWrite h count entries => Sys2Proof.Machine.execDarkMapWrite h count entries s
  | .linkStatus h portMask => Sys2Proof.Machine.execLinkStatus h portMask s
  | .spdmMsg h kind inSession ok => Sys2Proof.Machine.execSpdmMsg h kind inSession ok s
  | .getEphemeral h nonce => Sys2Proof.Machine.execGetEphemeral h nonce s
  | .load h payload => Sys2Proof.Machine.execLoad h payload s
  | .clear h slot => Sys2Proof.Machine.execClear h slot s
  | .lockConfig h level => Sys2Proof.Machine.execLockConfig h level s
  | .tenantEnd h => Sys2Proof.Machine.execTenantEnd h s
  | .clearingEnd => Sys2Proof.Machine.execClearingEnd s
  | .ownerTransfer h digest signature => Sys2Proof.Machine.execOwnerTransfer h digest signature s
  | .fwUpdate h offset total payload => Sys2Proof.Machine.execFwUpdate h offset total payload s
  | .activation => Sys2Proof.Machine.execActivation s
  | .belayPlan h payload => Sys2Proof.Machine.execBelayPlan h payload s
  | .belaySnapshot h => Sys2Proof.Machine.execBelaySnapshot h s
  | .belayRestore h step record => Sys2Proof.Machine.execBelayRestore h step record s
  | .surveySnap h tick opt => Sys2Proof.Machine.execSurveySnap h tick opt s
  | .surveyRead h firstUnit unitCount opt => Sys2Proof.Machine.execSurveyRead h firstUnit unitCount opt s
  | .arm h rangeMask instrIndex pass repeatIndex => Sys2Proof.Machine.execArm h rangeMask instrIndex pass repeatIndex s
  | .resume h rangeMask instrIndex pass repeatIndex => Sys2Proof.Machine.execResume h rangeMask instrIndex pass repeatIndex s
  | .disarm h rangeMask => Sys2Proof.Machine.execDisarm h rangeMask s
  | .debugDump h range what treg => Sys2Proof.Machine.execDebugDump h range what treg s
  | .debugModeEnable h signature => Sys2Proof.Machine.execDebugModeEnable h signature s
  | .debugModeDisable h => Sys2Proof.Machine.execDebugModeDisable h s
  | .powerBudgetCap h context watts => Sys2Proof.Machine.execPowerBudgetCap h context watts s
  | .powerBudgetReservation h context watts => Sys2Proof.Machine.execPowerBudgetReservation h context watts s
  | .thermalStatus h => Sys2Proof.Machine.execThermalStatus h s
  | .moduleReset h target => Sys2Proof.Machine.execModuleReset h target s
  | .contextReset h target => Sys2Proof.Machine.execContextReset h target s
  | .rangeReset h target => Sys2Proof.Machine.execRangeReset h target s
  | .portReset h target => Sys2Proof.Machine.execPortReset h target s
  | .tenantReset h target => Sys2Proof.Machine.execTenantReset h target s
  | .coldReset => Sys2Proof.Machine.execColdReset s
  | .powerGood => Sys2Proof.Machine.execPowerGood s
  | .stageEnd r => Sys2Proof.Machine.execStageEnd r s
  | .stageDeadlineOverrun cause => Sys2Proof.Machine.execStageDeadlineOverrun cause s
  | .discoveryLightTimeout p => Sys2Proof.Machine.execDiscoveryLightTimeout p s
  | .modResetNAssert => Sys2Proof.Machine.execModResetNAssert s
  | .modResetNDeassert => Sys2Proof.Machine.execModResetNDeassert s
  | .switch h value => Sys2Proof.Machine.execSwitch h value s
  | .securityVersionWrite h value => Sys2Proof.Machine.execSecurityVersionWrite h value s
  | .prodDebugOffWrite h value => Sys2Proof.Machine.execProdDebugOffWrite h value s
  | .syncCounterWrite h counter value => Sys2Proof.Machine.execSyncCounterWrite h counter value s
  | .tarnProgClaim h stack slot value => Sys2Proof.Machine.execTarnProgClaim h stack slot value s
  | .serveCfgWrite h address values => Sys2Proof.Machine.execServeCfgWrite h address values s
  | .timebaseMasterWrite h value => Sys2Proof.Machine.execTimebaseMasterWrite h value s
  | .timebaseNowRead h => Sys2Proof.Machine.execTimebaseNowRead h s
  | .stepDeadlineRead h => Sys2Proof.Machine.execStepDeadlineRead h s
  | .ctrlFence n => Sys2Proof.Machine.execCtrlFence n s
  | .ctrlLoop n => Sys2Proof.Machine.execCtrlLoop n s
  | .ctrlEndloop n => Sys2Proof.Machine.execCtrlEndloop n s
  | .ctrlSetlc n => Sys2Proof.Machine.execCtrlSetlc n s
  | .ctrlSetax n => Sys2Proof.Machine.execCtrlSetax n s
  | .ctrlAddax n => Sys2Proof.Machine.execCtrlAddax n s
  | .ctrlSetinc n => Sys2Proof.Machine.execCtrlSetinc n s
  | .idle n station phase => Sys2Proof.Machine.execIdle n station phase s
  | .colLoad n => Sys2Proof.Machine.execColLoad n s
  | .colLoadt n => Sys2Proof.Machine.execColLoadt n s
  | .colRepeatBegin n ecc => Sys2Proof.Machine.execColRepeatBegin n ecc s
  | .stagedTileMove n => Sys2Proof.Machine.execStagedTileMove n s
  | .crestMma n => Sys2Proof.Machine.execCrestMma n s
  | .crestRepeatBegin n ecc => Sys2Proof.Machine.execCrestRepeatBegin n ecc s
  | .crestDrain n phase ecc => Sys2Proof.Machine.execCrestDrain n phase ecc s
  | .drainReadoutEnd n => Sys2Proof.Machine.execDrainReadoutEnd n s
  | .drainTileFull n => Sys2Proof.Machine.execDrainTileFull n s
  | .spurKernel n => Sys2Proof.Machine.execSpurKernel n s
  | .spurReduce n => Sys2Proof.Machine.execSpurReduce n s
  | .spurPerm n => Sys2Proof.Machine.execSpurPerm n s
  | .spurRepeatBegin n ecc => Sys2Proof.Machine.execSpurRepeatBegin n ecc s
  | .talusStore n => Sys2Proof.Machine.execTalusStore n s
  | .talusRepeatBegin n ecc => Sys2Proof.Machine.execTalusRepeatBegin n ecc s
  | .talusMark n phase => Sys2Proof.Machine.execTalusMark n phase s
  | .markAccepted n => Sys2Proof.Machine.execMarkAccepted n s
  | .screeGather n => Sys2Proof.Machine.execScreeGather n s
  | .screeScatter n => Sys2Proof.Machine.execScreeScatter n s
  | .screeScatterAdd n => Sys2Proof.Machine.execScreeScatterAdd n s
  | .screeRepeatBegin n ecc => Sys2Proof.Machine.execScreeRepeatBegin n ecc s
  | .syncSignal n => Sys2Proof.Machine.execSyncSignal n s
  | .syncSignalFire n index => Sys2Proof.Machine.execSyncSignalFire n index s
  | .syncWait n => Sys2Proof.Machine.execSyncWait n s
  | .syncWaitSatisfied n station => Sys2Proof.Machine.execSyncWaitSatisfied n station s
  | .linkSend n phase ecc => Sys2Proof.Machine.execLinkSend n phase ecc s
  | .linkReduce n => Sys2Proof.Machine.execLinkReduce n s
  | .postingStart n index ecc => Sys2Proof.Machine.execPostingStart n index ecc s
  | .linkRecv n phase => Sys2Proof.Machine.execLinkRecv n phase s
  | .instructionComplete n station => Sys2Proof.Machine.execInstructionComplete n station s
  | .streamEnd n => Sys2Proof.Machine.execStreamEnd n s
  | .noProgress n => Sys2Proof.Machine.execNoProgress n s
  | .lockstepStartInstant n => Sys2Proof.Machine.execLockstepStartInstant n s
  | .slotStart n ecc => Sys2Proof.Machine.execSlotStart n ecc s
  | .pageWalkDone n station => Sys2Proof.Machine.execPageWalkDone n station s
  | .hostTxnCompletion tag result => Sys2Proof.Machine.execHostTxnCompletion tag result s
  | .hostTxnTimeout tag => Sys2Proof.Machine.execHostTxnTimeout tag s
  | .grantWindow k demand => Sys2Proof.Machine.execGrantWindow k demand s
  | .patrolRead unit ecc => Sys2Proof.Machine.execPatrolRead unit ecc s
  | .wholeMemoryScrubDone k => Sys2Proof.Machine.execWholeMemoryScrubDone k s
  | .frameScrubDone => Sys2Proof.Machine.execFrameScrubDone s
  | .scheduleEntryStart c entry => Sys2Proof.Machine.execScheduleEntryStart c entry s
  | .scheduleEntryEnd c entry => Sys2Proof.Machine.execScheduleEntryEnd c entry s
  | .attemptStart c => Sys2Proof.Machine.execAttemptStart c s
  | .join port group rank step state planId => Sys2Proof.Machine.execJoin port group rank step state planId s
  | .start port group step attempt t0 td limit => Sys2Proof.Machine.execStart port group step attempt t0 td limit s
  | .ready port group rank step attempt => Sys2Proof.Machine.execReady port group rank step attempt s
  | .fail port group rank step attempt status => Sys2Proof.Machine.execFail port group rank step attempt status s
  | .commit port group step attempt norm => Sys2Proof.Machine.execCommit port group step attempt norm s
  | .abort port group step attempt reason => Sys2Proof.Machine.execAbort port group step attempt reason s
  | .updated port group rank step => Sys2Proof.Machine.execUpdated port group rank step s
  | .close port group step => Sys2Proof.Machine.execClose port group step s
  | .stepDeadlineExpiry c => Sys2Proof.Machine.execStepDeadlineExpiry c s
  | .updateDeadlineExpiry c => Sys2Proof.Machine.execUpdateDeadlineExpiry c s
  | .localAbort c => Sys2Proof.Machine.execLocalAbort c s
  | .tarnRecordFlip k => Sys2Proof.Machine.execTarnRecordFlip k s
  | .tarnUpdateComplete c => Sys2Proof.Machine.execTarnUpdateComplete c s
  | .tarnFault k cause address => Sys2Proof.Machine.execTarnFault k cause address s
  | .rollback c => Sys2Proof.Machine.execRollback c s
  | .mirror port group round step l ecc => Sys2Proof.Machine.execMirror port group round step l ecc s
  | .mirrorOpen src round step size serial units => Sys2Proof.Machine.execMirrorOpen src round step size serial units s
  | .mirrorData src round unit poison data => Sys2Proof.Machine.execMirrorData src round unit poison data s
  | .catchUpDone slot => Sys2Proof.Machine.execCatchUpDone slot s
  | .slotCommit => Sys2Proof.Machine.execSlotCommit s
  | .belayCommitFrame src round result => Sys2Proof.Machine.execBelayCommitFrame src round result s
  | .mirrorTimeout => Sys2Proof.Machine.execMirrorTimeout s
  | .mirrored port group rank round result => Sys2Proof.Machine.execMirrored port group rank round result s
  | .roundEnd port group round complete l => Sys2Proof.Machine.execRoundEnd port group round complete l s
  | .frameReceive p frame rx => Sys2Proof.Machine.execFrameReceive p frame rx s
  | .replayRequest p seq => Sys2Proof.Machine.execReplayRequest p seq s
  | .messageLand channel ecc => Sys2Proof.Machine.execMessageLand channel ecc s
  | .reductionFrame p ecc => Sys2Proof.Machine.execReductionFrame p ecc s
  | .identityFrame p peer => Sys2Proof.Machine.execIdentityFrame p peer s
  | .identityTimeout p => Sys2Proof.Machine.execIdentityTimeout p s
  | .portUp p => Sys2Proof.Machine.execPortUp p s
  | .portKeyExchange p peer => Sys2Proof.Machine.execPortKeyExchange p peer s
  | .keyEpochRoll p => Sys2Proof.Machine.execKeyEpochRoll p s
  | .timestampExchange p t1 t2 t3 t4 parent => Sys2Proof.Machine.execTimestampExchange p t1 t2 t3 t4 parent s
  | .laneLoss p lane ringLost => Sys2Proof.Machine.execLaneLoss p lane ringLost s
  | .laneRealign p lane => Sys2Proof.Machine.execLaneRealign p lane s
  | .laneDrop p lane => Sys2Proof.Machine.execLaneDrop p lane s
  | .portDownTimeout p => Sys2Proof.Machine.execPortDownTimeout p s
  | .epochMarker epoch crcOk => Sys2Proof.Machine.execEpochMarker epoch crcOk s
  | .epochBoundary => Sys2Proof.Machine.execEpochBoundary s
  | .tbClkLoss => Sys2Proof.Machine.execTbClkLoss s
  | .tbReferenceReturn reference => Sys2Proof.Machine.execTbReferenceReturn reference s
  | .lsuStable bay => Sys2Proof.Machine.execLsuStable bay s
  | .standbyAligned => Sys2Proof.Machine.execStandbyAligned s
  | .lineLoss line power => Sys2Proof.Machine.execLineLoss line power s
  | .lsuFault bay => Sys2Proof.Machine.execLsuFault bay s
  | .lsuRemoved bay => Sys2Proof.Machine.execLsuRemoved bay s
  | .lsuInserted bay hours lineLow toneBad => Sys2Proof.Machine.execLsuInserted bay hours lineLow toneBad s
  | .failoverComplete => Sys2Proof.Machine.execFailoverComplete s
  | .fullSweepDone r resonances kLine => Sys2Proof.Machine.execFullSweepDone r resonances kLine s
  | .toneCheckDone r found heater => Sys2Proof.Machine.execToneCheckDone r found heater s
  | .ringLockLoss r heater => Sys2Proof.Machine.execRingLockLoss r heater s
  | .circuitSetApplied => Sys2Proof.Machine.execCircuitSetApplied s
  | .trimAttemptDone index verified => Sys2Proof.Machine.execTrimAttemptDone index verified s
  | .sensorRead readings => Sys2Proof.Machine.execSensorRead readings s
  | .fastHoldEnd z => Sys2Proof.Machine.execFastHoldEnd z s
  | .slowThrottleStep z => Sys2Proof.Machine.execSlowThrottleStep z s
  | .computeStopEnd => Sys2Proof.Machine.execComputeStopEnd s
  | .budgetEvaluation baseW => Sys2Proof.Machine.execBudgetEvaluation baseW s
  | .powerSample n milliwatts => Sys2Proof.Machine.execPowerSample n milliwatts s
  | .capEnforcementStep powerW => Sys2Proof.Machine.execCapEnforcementStep powerW s
  | .capRestoreStep powerW => Sys2Proof.Machine.execCapRestoreStep powerW s
  | .boostCheck => Sys2Proof.Machine.execBoostCheck s
  | .starveExpiry c => Sys2Proof.Machine.execStarveExpiry c s
  | .voltageChangeDone island => Sys2Proof.Machine.execVoltageChangeDone island s
  | .rangePowerOff n => Sys2Proof.Machine.execRangePowerOff n s
  | .inputDip voltage => Sys2Proof.Machine.execInputDip voltage s
  | .brownOut voltage => Sys2Proof.Machine.execBrownOut voltage s
  | .brownoutEnd voltage => Sys2Proof.Machine.execBrownoutEnd voltage s
  | .inputPowerOff voltage => Sys2Proof.Machine.execInputPowerOff voltage s
  | .coolantChange inlet flow => Sys2Proof.Machine.execCoolantChange inlet flow s
  | .coolantStop => Sys2Proof.Machine.execCoolantStop s
  | .flitReceive f crcOk codewordOk corrected => Sys2Proof.Machine.execFlitReceive f crcOk codewordOk corrected s
  | .linkControlFlit c ack => Sys2Proof.Machine.execLinkControlFlit c ack s
  | .switeAlignmentLoss lane => Sys2Proof.Machine.execSwiteAlignmentLoss lane s
  | .mgmtPacket bytes crcOk => Sys2Proof.Machine.execMgmtPacket bytes crcOk s
  | .packetTimeout cls => Sys2Proof.Machine.execPacketTimeout cls s
  | .classWindow => Sys2Proof.Machine.execClassWindow s
  | .eventSend kind => Sys2Proof.Machine.execEventSend kind s
  | .heartbeatExpiry => Sys2Proof.Machine.execHeartbeatExpiry s
  | .ephemeralKeyExpiry id => Sys2Proof.Machine.execEphemeralKeyExpiry id s
  | .snapshotCapture => Sys2Proof.Machine.execSnapshotCapture s
  | .waymarkHalt n => Sys2Proof.Machine.execWaymarkHalt n s
  | .pinStart c => Sys2Proof.Machine.execPinStart c s
  | .intakeDeadline c => Sys2Proof.Machine.execIntakeDeadline c s
  | .tileFull n station => Sys2Proof.Machine.execTileFull n station s
  | .rangeCleared n => Sys2Proof.Machine.execRangeCleared n s
  | .copyComplete index ecc => Sys2Proof.Machine.execCopyComplete index ecc s
  | .cairnInputLoss => Sys2Proof.Machine.execCairnInputLoss s
  | .switeLinkRetrained lanes => Sys2Proof.Machine.execSwiteLinkRetrained lanes s
  | .lightAppears p => Sys2Proof.Machine.execLightAppears p s
  | .portTrained p => Sys2Proof.Machine.execPortTrained p s
  | .s3Timeout => Sys2Proof.Machine.execS3Timeout s
  | .lsuWorn bay => Sys2Proof.Machine.execLsuWorn bay s
  | .restoreFrame unit poison data last lost => Sys2Proof.Machine.execRestoreFrame unit poison data last lost s

end Sys2Proof.Machine
end

