-- ==== Sys2Proof/Safety.lean ====
section
/-!
DEFINITION. What counts as a safe run, and the words that the statements use: a step that answers a next state, the packet of a
host command, and a host command that begins now.
-/

namespace Sys2Proof.Machine

/-- A step completes: it answers a next state. -/
def Completes (s : State) : Prop := ∃ t, step s = .next t

/-- The same queue of commands with another module. -/
def State.on (s : State) (m : Mach) : State := { s with toMach := m }

/-- The packet of a host command: its opcode, its header and its parameter bytes (R591). None for the rows that the host does not send. -/
def hostPacket : Instr → Option (Nat × Hdr × List Byte)
  | .hello h => some (Op.hello, h, [])
  | .identify h => some (Op.identify, h, [])
  | .csrRead h a => some (Op.csrRead, h, leBytes a 4)
  | .csrWrite h a n _ => some (Op.csrWrite, h, leBytes a 4 ++ leBytes n 2)
  | .csrReadBlock h a n => some (Op.csrReadBlock, h, leBytes a 4 ++ leBytes n 2)
  | .memCopy h a b _ _ => some (Op.memCopy, h, leBytes a 8 ++ leBytes b 8)
  | .memFill h a p _ => some (Op.memFill, h, leBytes a 8 ++ leBytes p 4)
  | .memMap h _ _ _ _ _ _ => some (Op.memMap, h, [])
  | .memUnmap h va n => some (Op.memUnmap, h, leBytes va 8 ++ leBytes n 8)
  | .contextCreate h _ _ _ _ _ _ => some (Op.contextCreate, h, [])
  | .contextDestroy h => some (Op.contextDestroy, h, [])
  | .descLoad h f n _ => some (Op.descLoad, h, leBytes f 2 ++ leBytes n 2)
  | .streamLoad h i _ => some (Op.streamLoad, h, leBytes i 1)
  | .streamStart h i md r => some (Op.streamStart, h, leBytes i 1 ++ leBytes md 1 ++ leBytes r 2)
  | .streamStop h r => some (Op.streamStop, h, leBytes r 2)
  | .streamStatus h r => some (Op.streamStatus, h, leBytes r 2)
  | .framePush h a b n _ => some (Op.framePush, h, leBytes a 2 ++ leBytes b 2 ++ leBytes n 4)
  | .stepBegin h t => some (Op.stepBegin, h, leBytes t 1)
  | .stepCommit h k => some (Op.stepCommit, h, leBytes k 4)
  | .stepAbort h k => some (Op.stepAbort, h, leBytes k 4)
  | .scheduleLoad h t _ => some (Op.scheduleLoad, h, leBytes t 1)
  | .fabricDiscover h => some (Op.fabricDiscover, h, [])
  | .fabricPlan h _ => some (Op.fabricPlan, h, [])
  | .meshSet h md n _ _ => some (Op.meshSet, h, leBytes md 1 ++ leBytes n 1)
  | .darkMapWrite h n _ => some (Op.darkMapWrite, h, leBytes n 1)
  | .linkStatus h k => some (Op.linkStatus, h, leBytes k 4)
  | .spdmMsg h _ _ _ => some (Op.spdmMsg, h, [])
  | .getEphemeral h _ => some (Op.keyRelease, h, leBytes 0 2)
  | .load h _ => some (Op.keyRelease, h, leBytes 1 2)
  | .clear h k => some (Op.keyRelease, h, leBytes 2 1 ++ leBytes k 1)
  | .lockConfig h k => some (Op.lockConfig, h, leBytes k 1)
  | .tenantEnd h => some (Op.tenantEnd, h, [])
  | .ownerTransfer h _ _ => some (Op.ownerTransfer, h, [])
  | .fwUpdate h o t _ => some (Op.fwUpdate, h, leBytes o 8 ++ leBytes t 4)
  | .belayPlan h _ => some (Op.belayPlan, h, [])
  | .belaySnapshot h => some (Op.belaySnapshot, h, [])
  | .belayRestore h k _ => some (Op.belayRestore, h, leBytes k 4)
  | .surveySnap h t o => some (Op.surveySnap, h, leBytes t 8 ++ leBytes o 1)
  | .surveyRead h f n o => some (Op.surveyRead, h, leBytes f 2 ++ leBytes n 2 ++ leBytes o 1)
  | .arm h r i p k => some (Op.waymarkSet, h, waymarkParam r i p k 0)
  | .resume h r i p k => some (Op.waymarkSet, h, waymarkParam r i p k 1)
  | .disarm h r => some (Op.waymarkSet, h, waymarkParam r 0 0 0 2)
  | .debugDump h r w t => some (Op.debugDump, h, leBytes r 1 ++ leBytes w 1 ++ leBytes t 2)
  | .debugModeEnable h _ => some (Op.debugMode, h, leBytes 1 1)
  | .debugModeDisable h => some (Op.debugMode, h, leBytes 0 1)
  | .powerBudgetCap h _ _ | .powerBudgetReservation h _ _ => some (Op.powerBudgetSet, h, [])
  | .thermalStatus h => some (Op.thermalStatus, h, [])
  | .moduleReset h t => some (Op.reset, h, resetParam 1 t)
  | .contextReset h t => some (Op.reset, h, resetParam 2 t)
  | .rangeReset h t => some (Op.reset, h, resetParam 3 t)
  | .portReset h t => some (Op.reset, h, resetParam 4 t)
  | .tenantReset h t => some (Op.reset, h, resetParam 5 t)
  | .switch h _ => some (Op.csrWrite, h, leBytes Reg.CIRQUE_LSU_CTL 4 ++ leBytes 1 2)
  | .securityVersionWrite h _ => some (Op.csrWrite, h, leBytes Reg.CAIRN_SVN 4 ++ leBytes 1 2)
  | .prodDebugOffWrite h _ => some (Op.csrWrite, h, leBytes Reg.CAIRN_FUSES 4 ++ leBytes 1 2)
  | .syncCounterWrite h k _ => some (Op.csrWrite, h, leBytes (Reg.TRAVERSE_SYNC_COUNTER k) 4 ++ leBytes 1 2)
  | .tarnProgClaim h k p _ => some (Op.csrWrite, h, leBytes (Reg.FOOTHILL_TARN_PROG k p) 4 ++ leBytes 1 2)
  | .serveCfgWrite h a vs => some (Op.csrWrite, h, leBytes a 4 ++ leBytes vs.length 2)
  | .timebaseMasterWrite h _ => some (Op.csrWrite, h, leBytes Reg.TRAVERSE_TIMEBASE_CFG 4 ++ leBytes 1 2)
  | .timebaseNowRead h => some (Op.csrRead, h, leBytes Reg.TRAVERSE_TIMEBASE_NOW_LO 4)
  | .stepDeadlineRead h => some (Op.csrRead, h, leBytes Reg.TRAVERSE_STEP_DEADLINE_LO 4)
  | _ => none

/-- A host command's packet is accepted, its turn has come, and it begins now (R577, R580 to R583, R604). -/
def Mach.begins (m : Mach) (op : Nat) (h : Hdr) (param : List Byte) : Prop := m.verdict op h param = .go

/-- The module with the packet of a command that begins taken up. -/
def Mach.took (m : Mach) (op : Nat) (h : Hdr) : Mach := (m.countPacket h.lane false).takeArrived op h

/-- The lists that stand for a fixed number of like things have that many: 16 contexts and ranges, 12 stacks and Tarn engines, 32 ports,
108 islands, 39 zones, 8 classes. -/
def Mach.shaped (m : Mach) : Bool :=
  decide (m.ctxs.length = 16) && decide (m.ranges.length = 16) && decide (m.tarn.length = 12) && decide (m.mem.dram.length = 12) &&
  decide (m.ports.length = 32) && decide (m.treeline.islands.length = 108) && decide (m.treeline.zones.length = 39) &&
  decide (m.swite.credits.length = 8)

/-- The canonical form of memory: addresses strictly rising, and no entry equal to what an unlisted address reads as, 0. -/
def Memory.wf (l : List Host.Cell) : Bool := Sparse.wf (fun _ => (0 : Byte)) l

/-- The sparse stores are in their canonical form: control space, memory and Survey's counters list rising keys and nothing that an
unlisted key reads as, so that equal contents are equal data. -/
def Mach.canonical (m : Mach) : Bool :=
  Sparse.wf regReset m.csr && Memory.wf m.mem.bytes && Sparse.wf (fun _ => 0) m.survey.trouble

/-- A repeat of the front instruction of a station is ready to begin in flow mode: the stream runs on the range, is admitted, not
frozen, halted or in lockstep, the instruction is no wait and has a repeat left, and neither an armed position nor an earlier
instruction's tile register holds it (R25, R31, R471, R636). -/
def Mach.ready (m : Mach) (n st : Nat) (x : Stream) (p : Placed) : Prop :=
  m.streamOn n = some x ∧ x.lockstep = false ∧ x.admitted = true ∧ m.frozen x.ctx = false ∧ (m.range n).halted = false ∧
    ((m.range n).seqOf st).head? = some p ∧ p.isWait = false ∧ p.begun < p.ins.rep ∧ m.repHeld n p p.begun = false ∧
    m.tregBlocked n x.ctx p = false

/-- A stream has stopped: it is gone, and each range of its mask is stopped (R45). -/
def Mach.stopped (m : Mach) (x : Stream) : Prop :=
  m.stream x.id = none ∧ ∀ k ∈ maskBits x.mask 16, m.rangeState k = 4 ∧ (m.range k).stream = none

/-- The cause that a range records for STREAM_FAULT. -/
def Mach.faulted (m : Mach) (n cause : Nat) : Prop :=
  m.rdF (Reg.RANGE_STREAM_STATUS n) Fld.RANGE_STREAM_STATUS_STOP_STATUS = St.streamFault ∧
    m.rdF (Reg.RANGE_STREAM_STATUS n) Fld.RANGE_STREAM_STATUS_STOP_CAUSE = cause

/-- The port, the group and the body of a group message (R451, R470). None for the other rows. -/
def groupMsg : Instr → Option (Option (Fin 32) × Nat × GBody)
  | .join p g r k v i => some (p, g, .join r k v i)
  | .start p g k a t0 td l => some (p, g, .start k a t0 td l)
  | .ready p g r k a => some (p, g, .ready r k a)
  | .fail p g r k a v => some (p, g, .fail r k a v)
  | .commit p g k a n => some (p, g, .commit k a n)
  | .abort p g k a v => some (p, g, .abort k a v)
  | .updated p g r k => some (p, g, .updated r k)
  | .close p g k => some (p, g, .close k)
  | .mirror p g r k l _ => some (p, g, .mirror r k l)
  | .mirrored p g r k v => some (p, g, .mirrored r k v)
  | .roundEnd p g r v l => some (p, g, .roundEnd r v l)
  | _ => none

/-- The messages that wait at this module once the first copy of one has been taken. -/
def Mach.loopWithout (m : Mach) (g : Nat) (b : GBody) : List GMsg := m.group.loop.erase { group := g, body := b }

/-- The reply to a command is sent, or kept while the data link is down (R572). -/
def Mach.replied (m : Mach) (op ctx tag status : Nat) : Prop :=
  ∃ r ∈ m.swite.replies ++ m.swite.held, r.opcode = op ∧ r.ctx = ctx ∧ r.tag = tag ∧ r.status = status ∧ r.final = true

/-- A read that finds no correctable and no uncorrectable word. -/
def Ecc.clean : Ecc := { corrected := [], bad := [] }

end Sys2Proof.Machine
end

