-- ==== Sys2Proof/WellFormed.lean ====
section
/-!
DEFINITION. Well-formed commands: every operand fits the packet field, the frame field or the reading that it stands for, and a
command's payload is as long as its header announces (R392, R409, R517, R568, R576, R591).
-/

namespace Sys2Proof

/-- Whether a number fits a field of so many bits. -/
def fits (w x : Nat) : Bool := decide (x < 2 ^ w)

/-- A header's fields fit their widths (R576). -/
def Hdr.wf (h : Hdr) : Bool := fits 16 h.tag && fits 8 h.ctx && fits 8 h.prio && fits 16 h.flags && fits 32 h.len

/-- A payload as long as the header announces. -/
def Hdr.carries (h : Hdr) (payload : List Byte) : Bool := h.wf && decide (payload.length = h.len)

/-- A frame's fields fit their widths (R392). -/
def Frame.wf (f : Frame) : Bool :=
  fits 4 f.typ && fits 2 f.cls && fits 4 f.hops && fits 12 f.dest && fits 12 f.src && fits 8 f.channel && fits 24 f.seq && fits 16 f.msg &&
    fits 24 f.ackSeq && fits 2 f.credCls && fits 6 f.credit && decide (f.payload.length ≤ 1024)

/-- A flit's fields fit their widths, and it carries 248 data bytes (R567, R568). -/
def Flit.wf (f : Flit) : Bool := fits 3 f.cls && fits 2 f.kind && fits 12 f.seq && fits 12 f.ack && decide (f.data.length = 248)

/-- An identity frame's fields fit their widths (R409). -/
def Identity.wf (i : Identity) : Bool :=
  fits 64 i.serial && fits 5 i.port && fits 8 i.compat && fits 4 i.revMin && fits 4 i.revMax && i.faddr.elim true (fits 12) && i.linkTag.elim true (fits 16)

/-- What arrives for a host-memory transaction: a completion carries one 64-byte sector (R575). -/
def TxnResult.wf : TxnResult → Bool
  | .completion d => decide (d.length = 64)
  | _ => true

/-- Words that an access could have read. -/
def Ecc.wf (e : Ecc) : Bool := e.corrected.all (fits 56) && e.bad.all (fits 56)

/-- Well-formed commands. -/
def Instr.wf : Instr → Bool
  | .hello h | .identify h | .contextDestroy h | .fabricDiscover h | .tenantEnd h | .belaySnapshot h | .debugModeDisable h | .thermalStatus h |
    .timebaseNowRead h | .stepDeadlineRead h | .spdmMsg h _ _ _ => h.wf
  | .csrRead h a => h.wf && fits 32 a
  | .csrWrite h a n vs => h.wf && fits 32 a && fits 16 n && decide (4 * vs.length = h.len)
  | .csrReadBlock h a n => h.wf && fits 32 a && fits 16 n
  | .memCopy h a b n k => h.wf && fits 64 a && fits 64 b && fits 64 n && fits 8 k
  | .memFill h a p n => h.wf && fits 64 a && fits 32 p && fits 64 n
  | .memMap h va n pa pg w pd => h.wf && fits 64 va && fits 64 n && fits 64 pa && fits 8 pg && fits 8 w && fits 8 pd
  | .memUnmap h va n => h.wf && fits 64 va && fits 64 n
  | .contextCreate h n p r k sd g => h.wf && fits 8 n && fits 8 p && fits 16 r && fits 16 k && fits 64 sd && fits 32 g
  | .descLoad h f n pl => h.carries pl && fits 16 f && fits 16 n
  | .streamLoad h i pl => h.carries pl && fits 8 i
  | .streamStart h i md r => h.wf && fits 8 i && fits 8 md && fits 16 r
  | .streamStop h r | .streamStatus h r | .disarm h r => h.wf && fits 16 r
  | .framePush h a b n pl => h.carries pl && fits 16 a && fits 16 b && fits 32 n
  | .stepBegin h t => h.wf && fits 8 t
  | .stepCommit h k | .stepAbort h k | .linkStatus h k => h.wf && fits 32 k
  | .belayRestore h k r => h.wf && fits 32 k && decide (r.length < 2 ^ 32)
  | .scheduleLoad h t pl => h.carries pl && fits 8 t
  | .fabricPlan h pl | .belayPlan h pl | .load h pl => h.carries pl
  | .meshSet h md n rx es => h.wf && fits 8 md && fits 8 n && rx.all (fits 8) && decide (rx.length = 8) && decide (8 + 4 * es.length = h.len)
  | .darkMapWrite h n es => h.wf && fits 8 n && decide (4 * es.length = h.len)
  | .getEphemeral h nonce => h.carries nonce
  | .clear h k | .lockConfig h k => h.wf && fits 8 k
  | .ownerTransfer h d sg => h.carries (d ++ sg)
  | .fwUpdate h o t pl => h.carries pl && fits 64 o && fits 32 t
  | .surveySnap h t o => h.wf && fits 64 t && fits 8 o
  | .surveyRead h f n o => h.wf && fits 16 f && fits 16 n && fits 8 o
  | .arm h r i p k | .resume h r i p k => h.wf && fits 16 r && fits 16 i && fits 16 p && fits 16 k
  | .debugDump h r w t => h.wf && fits 8 r && fits 8 w && fits 16 t
  | .debugModeEnable h sg => h.carries sg
  | .powerBudgetCap h c w | .powerBudgetReservation h c w => h.wf && fits 8 c && fits 32 w
  | .moduleReset h t | .contextReset h t | .rangeReset h t | .portReset h t | .tenantReset h t => h.wf && fits 16 t
  | .switch h _ | .securityVersionWrite h _ | .prodDebugOffWrite h _ | .timebaseMasterWrite h _ => h.wf && decide (h.len = 4)
  | .syncCounterWrite h k _ => h.wf && fits 12 k && decide (h.len = 4)
  | .tarnProgClaim h _ _ _ => h.wf && decide (h.len = 4)
  | .serveCfgWrite h a vs => h.wf && fits 32 a && decide (4 * vs.length = h.len)
  | .stageEnd r => fits 12 r.stacksFailed
  | .colRepeatBegin _ e | .crestRepeatBegin _ e | .crestDrain _ _ e | .spurRepeatBegin _ e | .talusRepeatBegin _ e | .screeRepeatBegin _ e |
    .linkSend _ _ e | .postingStart _ _ e | .slotStart _ e | .patrolRead _ e | .messageLand _ e | .reductionFrame _ e | .mirror _ _ _ _ _ e |
    .copyComplete _ e => e.wf
  | .hostTxnCompletion t r => fits 12 t && r.wf
  | .hostTxnTimeout t => fits 12 t
  | .frameReceive _ f _ => f.wf
  | .replayRequest _ k => fits 24 k
  | .identityFrame _ i => i.wf
  | .mirrorData _ _ _ p d | .restoreFrame _ p d _ _ => p.all (fits 14) && decide (d.length ≤ 65536)
  | .fullSweepDone _ l _ => decide (l.length ≤ 256)
  | .sensorRead l => decide (l.length = 512)
  | .flitReceive f _ _ _ => f.wf
  | .mgmtPacket l _ => decide (l.length ≤ 4160)
  | .clearingEnd | .activation | .coldReset | .powerGood | .stageDeadlineOverrun _ | .discoveryLightTimeout _ | .modResetNAssert | .modResetNDeassert |
    .ctrlFence _ | .ctrlLoop _ | .ctrlEndloop _ | .ctrlSetlc _ | .ctrlSetax _ | .ctrlAddax _ | .ctrlSetinc _ | .idle _ _ _ | .colLoad _ | .colLoadt _ |
    .stagedTileMove _ | .crestMma _ | .drainReadoutEnd _ | .drainTileFull _ | .spurKernel _ | .spurReduce _ | .spurPerm _ | .talusStore _ |
    .talusMark _ _ | .markAccepted _ | .screeGather _ | .screeScatter _ | .screeScatterAdd _ | .syncSignal _ | .syncSignalFire _ _ | .syncWait _ |
    .syncWaitSatisfied _ _ | .linkReduce _ | .linkRecv _ _ | .instructionComplete _ _ | .streamEnd _ | .noProgress _ | .lockstepStartInstant _ |
    .pageWalkDone _ _ | .grantWindow _ _ | .wholeMemoryScrubDone _ | .frameScrubDone | .scheduleEntryStart _ _ | .scheduleEntryEnd _ _ |
    .attemptStart _ | .join _ _ _ _ _ _ | .start _ _ _ _ _ _ _ | .ready _ _ _ _ _ | .fail _ _ _ _ _ _ | .commit _ _ _ _ _ | .abort _ _ _ _ _ |
    .updated _ _ _ _ | .close _ _ _ | .stepDeadlineExpiry _ | .updateDeadlineExpiry _ | .localAbort _ | .tarnRecordFlip _ | .tarnUpdateComplete _ |
    .tarnFault _ _ _ | .rollback _ | .mirrorOpen _ _ _ _ _ _ | .catchUpDone _ | .slotCommit | .belayCommitFrame _ _ _ | .mirrorTimeout |
    .mirrored _ _ _ _ _ | .roundEnd _ _ _ _ _ | .identityTimeout _ | .portUp _ | .portKeyExchange _ _ | .keyEpochRoll _ | .timestampExchange _ _ _ _ _ _ |
    .laneLoss _ _ _ | .laneRealign _ _ | .laneDrop _ _ | .portDownTimeout _ | .epochMarker _ _ | .epochBoundary | .tbClkLoss | .tbReferenceReturn _ |
    .lsuStable _ | .standbyAligned | .lineLoss _ _ | .lsuFault _ | .lsuRemoved _ | .lsuInserted _ _ _ _ | .failoverComplete | .toneCheckDone _ _ _ |
    .ringLockLoss _ _ | .circuitSetApplied | .trimAttemptDone _ _ | .fastHoldEnd _ | .slowThrottleStep _ | .computeStopEnd | .budgetEvaluation _ |
    .powerSample _ _ | .capEnforcementStep _ | .capRestoreStep _ | .boostCheck | .starveExpiry _ | .voltageChangeDone _ | .rangePowerOff _ |
    .inputDip _ | .brownOut _ | .brownoutEnd _ | .inputPowerOff _ | .coolantChange _ _ | .coolantStop | .linkControlFlit _ _ |
    .switeAlignmentLoss _ | .packetTimeout _ | .classWindow | .eventSend _ | .heartbeatExpiry | .ephemeralKeyExpiry _ | .snapshotCapture |
    .waymarkHalt _ | .pinStart _ | .intakeDeadline _ | .tileFull _ _ | .rangeCleared _ | .cairnInputLoss | .switeLinkRetrained _ | .lightAppears _ |
    .portTrained _ | .s3Timeout | .lsuWorn _ => true

end Sys2Proof
end

