-- ==== Sys2Proof/Certificates/Slice0/Obligations.lean ====
section
/-!
DEFINITION. The statements for the provers. A host command's statement takes as its premise that its packet is accepted and that
it begins now (`Mach.begins`, whose own statement is `CommandBegins`); an event's statement takes as its premise the condition under
which the spec says the event happens. Each then says the next state.
-/

open Sys2Proof Sys2Proof.Machine

/-- A step runs the command at the front of the queue on the module with the queue's rest. -/
def Obligations.StepRunsFront : Prop :=
  ∀ (c : Instr) (s : State) (rest : List Instr), s.pending = c :: rest → step s = exec c { s with pending := rest }

/-- An empty queue: one tick of 6.4 ns passes (the choice of log entry 1), and nothing else changes. -/
def Obligations.EmptyQueueTicks : Prop :=
  ∀ s : State, s.pending = [] → s.timebase.slewing = 0 →
    step s = .next (s.on { s.toMach with clk := s.clk + 64, timebase := { s.timebase with ticks := s.timebase.ticks + 1 } })

/-- Every command completes and leaves the queue of waiting commands as it is. -/
def Obligations.EveryCommandCompletes : Prop :=
  ∀ (c : Instr) (s : State), ∃ t, exec c s = .next t ∧ t.pending = s.pending

/-- What a cold reset leaves in each kind of state. -/
def Obligations.ResetState : Prop :=
  let m := State.reset.toMach
  State.reset.pending = [] ∧ m.stage = 0 ∧ m.trust = 0 ∧ m.recovery = false ∧ m.clearing = false ∧ m.rd Reg.MODULE_TROUBLE = 0 ∧
  (∀ c, m.ctx c = none) ∧ (∀ n, (m.range n).stream = none) ∧ m.streams = [] ∧ m.copies = [] ∧ m.cairn.session = none ∧
  m.swite.outstanding = [] ∧ m.swite.replies = [] ∧ m.plan = none ∧ m.messages = [] ∧ m.arms = [] ∧ m.mem.bytes = [] ∧
  m.rdF Reg.MODULE_PART Fld.MODULE_PART_PART = 0x4610 ∧
  (∀ i < 108, (m.island i).powered = decide (i = 83)) ∧ (∀ s < 12, (m.stack s).current.full = true)

/-- The header checks, in the order of R577's table. -/
def Obligations.HeaderChecksInOrder : Prop :=
  ∀ (m : Mach) (op : Nat) (h : Hdr) (p : List Byte),
    (opSpec op = none → m.headerCheck op h p = some (St.badOpcode, false)) ∧
    (∀ o, opSpec op = some o →
      let bad2 : Prop := h.rsv = true ∨ 8 ≤ h.prio ∨ h.tag = 0xFFFF ∨ (∃ i, 1 ≤ i ∧ h.flags.testBit i = true ∧ o.flags.testBit i = false) ∨
        o.len p h.len = false ∨ (h.lane = .mgmt ∧ 4128 < h.len)
      let ctxOk : Prop := match o.rule with
        | .required => h.ctx < 16 ∧ (m.ctx h.ctx).isSome = true
        | .none => h.ctx = 0xFF
        | .either => h.ctx = 0xFF ∨ (h.ctx < 16 ∧ ((m.ctx h.ctx).isSome = true ∨ op = Op.contextCreate))
      (bad2 → m.headerCheck op h p = some (St.badParam, false)) ∧
      (¬ bad2 → ¬ ctxOk → m.headerCheck op h p = some (St.badParam, false)) ∧
      (¬ bad2 → ctxOk → m.tagHeld h.ctx h.tag = true → m.headerCheck op h p = some (St.badParam, true)) ∧
      (¬ bad2 → ctxOk → m.tagHeld h.ctx h.tag = false → 256 ≤ m.countOf h.ctx → m.headerCheck op h p = some (St.busy, false)) ∧
      (¬ bad2 → ctxOk → m.tagHeld h.ctx h.tag = false → m.countOf h.ctx < 256 → m.headerCheck op h p = none))

/-- Waiting, refusal and beginning of every host command, by the packet that carries it. -/
def Obligations.CommandBegins : Prop :=
  ∀ (c : Instr) (s : State) (op : Nat) (h : Hdr) (p : List Byte), hostPacket c = some (op, h, p) →
    (∀ i md r, c = .streamStart h i md r → s.frozen h.ctx = false) →
    ((s.island 83).powered = false → exec c s = .next s) ∧
    (h.lane = .data → s.dataUp = false → exec c s = .next s) ∧
    ((s.island 83).powered = true → (h.lane = .data → s.dataUp = true ∧ (s.sessionUp = true → h.auth = true)) → s.hasArrived op h = false →
      (∀ st dup, s.headerCheck op h p = some (st, dup) → exec c s = .next (s.on
        (((s.took op h).addF Reg.SWITE_DISCARD_BYTES Fld.SWITE_DISCARD_BYTES_COUNT h.len).send
          { lane := h.lane, opcode := op, tag := h.tag, status := st, ctx := h.ctx, final := true, event := false, dup := dup, cls := h.prio,
            detail := 0, data := [] }))) ∧
      (s.headerCheck op h p = none → (∀ st, s.restricted op h = some st → exec c s = .next (s.on
        (((s.took op h).addF Reg.SWITE_DISCARD_BYTES Fld.SWITE_DISCARD_BYTES_COUNT 0).send
          { lane := h.lane, opcode := op, tag := h.tag, status := st, ctx := h.ctx, final := true, event := false, dup := false, cls := h.prio,
            detail := 0, data := [] }))) ∧
        (s.restricted op h = none → (s.fenced op h = true ∨ s.outOfTurn op h = true → exec c s = .next s) ∧
          (s.fenced op h = false → s.outOfTurn op h = false → s.begins op h p))))

/-- Replies, and the frame of sending one and of taking up a packet. HELLO and IDENTIFY. -/
def Obligations.RepliesHelloAndIdentify : Prop :=
  ((∀ (m : Mach) (r : Reply), r.lane = .mgmt → m.send r = { m with swite := { m.swite with replies := m.swite.replies ++ [r] } }) ∧
  (∀ (m : Mach) (r : Reply), r.lane = .data → m.dataUp = false → m.send r = { m with swite := { m.swite with held := m.swite.held ++ [r] } }) ∧
  (∀ (m : Mach) (r : Reply), r.lane = .data → m.dataUp = true →
    (m.send r).swite = { m.swite with
      replies := m.swite.replies ++ [r],
      outq := m.swite.outq ++ [{ cls := r.cls, kind := 0, begun := false, rest := sealed m.cairn.session r.bytes }] } ∧
    { m.send r with swite := m.swite, cairn := m.cairn } = m ∧
    { (m.send r).cairn with session := m.cairn.session } = m.cairn) ∧
  (∀ (r : Reply), (sealed none r.bytes).length = 16 + r.data.length ∧ leAt r.bytes 2 2 = r.tag % 65536 ∧ leAt r.bytes 4 1 = r.status % 256 ∧
    leAt r.bytes 5 1 = r.ctx % 256 ∧ leAt r.bytes 8 4 = r.detail % 2 ^ 32 ∧ leAt r.bytes 12 4 = r.data.length % 2 ^ 32) ∧
  (∀ (m : Mach) (op : Nat) (h : Hdr), { m.took op h with swite := m.swite, cairn := m.cairn } = m ∧
    { (m.took op h).swite with arrived := m.swite.arrived } = m.swite ∧ { (m.took op h).cairn with session := m.cairn.session } = m.cairn)) ∧
  (∀ (s : State) (h : Hdr),
    (s.begins Op.hello h [] → exec (.hello h) s = .next (s.on ((s.took Op.hello h).answer h Op.hello St.done 0
      (leBytes Config.switeVersion.toNat 4 ++ leBytes s.stageShown 1 ++ leBytes s.trust 1 ++ [0, 0] ++
        leBytes ((s.rd 0x800).toNat + 2 ^ 32 * (s.rd 0x804).toNat) 8)))) ∧
    (s.begins Op.identify h [] → exec (.identify h) s = .next (s.on ((s.took Op.identify h).answer h Op.identify St.done 0
      (leBytes (s.rd 0x800).toNat 4 ++ leBytes (s.rd 0x804).toNat 4 ++ leBytes (s.rd 0x808).toNat 4 ++ leBytes (s.rd 0x80C).toNat 4 ++
        leBytes (s.rd 0x810).toNat 4)))))

/-- The check of a CSR command as a whole (R648). -/
def Obligations.CsrWholeCheck : Prop :=
  ∀ (s : State) (h : Hdr) (a n : Nat) (vs : List Word), 0 < n →
    (¬ (a % 4 = 0 ∧ ∃ b i, ∀ k < n, ∃ off, windowOf (a + 4 * k) = some (b, i, off))) →
    (n = 1 → s.begins Op.csrRead h (leBytes a 4) →
      exec (.csrRead h a) s = .next (s.on ((s.took Op.csrRead h).answer h Op.csrRead St.badParam))) ∧
    (s.begins Op.csrReadBlock h (leBytes a 4 ++ leBytes n 2) →
      exec (.csrReadBlock h a n) s = .next (s.on ((s.took Op.csrReadBlock h).answer h Op.csrReadBlock St.badParam))) ∧
    (vs.length = n → s.begins Op.csrWrite h (leBytes a 4 ++ leBytes n 2) →
      exec (.csrWrite h a n vs) s = .next (s.on ((s.took Op.csrWrite h).answer h Op.csrWrite St.badParam)))

/-- Register reads complete; the access codes as they read. -/
def Obligations.CsrReads : Prop :=
  (∀ (s : State) (h : Hdr) (a n : Nat) (b : Block) (i : Nat),
    csrWindow a n = some (b, i) → b.stage < s.stageShown → (∀ k < n, s.readRefused h.ctx (a + 4 * k) = false) →
    (s.begins Op.csrReadBlock h (leBytes a 4 ++ leBytes n 2) → exec (.csrReadBlock h a n) s =
      .next (s.on (((s.took Op.csrReadBlock h).csrGets a n).2.answer h Op.csrReadBlock St.done 0 ((s.took Op.csrReadBlock h).csrGets a n).1))) ∧
    (n = 1 → s.begins Op.csrRead h (leBytes a 4) →
      let r := (s.took Op.csrRead h).csrGet a
      exec (.csrRead h a) s = .next (s.on (r.2.answer h Op.csrRead St.done 0 (leBytes r.1.toNat 4))) ∧
      (a = Reg.TRAVERSE_TIMEBASE_NOW_LO → exec (.timebaseNowRead h) s = .next (s.on (r.2.answer h Op.csrRead St.done 0 (leBytes r.1.toNat 4)))) ∧
      (a = Reg.TRAVERSE_STEP_DEADLINE_LO → exec (.stepDeadlineRead h) s = .next (s.on (r.2.answer h Op.csrRead St.done 0 (leBytes r.1.toNat 4)))))) ∧
  (∀ (m : Mach) (a n : Nat), (m.csrGets a 0).2 = m ∧
    m.csrGets a (n + 1) = (leBytes (m.csrGet a).1.toNat 4 ++ ((m.csrGet a).2.csrGets (a + 4) n).1, ((m.csrGet a).2.csrGets (a + 4) n).2)) ∧
  (∀ (m : Mach) (a : Nat) (f : FieldSpec), f ∈ fieldsAt a →
    Word.getF (m.csrGet a).1 f.fld = (if f.acc = .wo then 0 else Word.getF (m.view a) f.fld) ∧
    (a ≠ Reg.TRAVERSE_TIMEBASE_NOW_LO → a ≠ Reg.TRAVERSE_STEP_DEADLINE_LO →
      (m.csrGet a).2.rdF a f.fld = if f.acc = .rc then f.reset else m.rdF a f.fld)) ∧
  (∀ (m : Mach) (a b : Nat), (m.csrGet a).2 = { m with csr := (m.csrGet a).2.csr } ∧
    (a ≠ Reg.TRAVERSE_TIMEBASE_NOW_LO → a ≠ Reg.TRAVERSE_STEP_DEADLINE_LO → b ≠ a → (m.csrGet a).2.rd b = m.rd b)) ∧
  (∀ m : Mach, (m.csrGet Reg.TRAVERSE_TIMEBASE_NOW_LO).1 = m.timebase.ticks.extractLsb' 0 32 ∧
    (m.csrGet Reg.TRAVERSE_TIMEBASE_NOW_LO).2.rd Reg.TRAVERSE_TIMEBASE_NOW_HI = m.timebase.ticks.extractLsb' 32 32 ∧
    (m.csrGet Reg.TRAVERSE_STEP_DEADLINE_LO).2.rd Reg.TRAVERSE_STEP_DEADLINE_HI = m.timebase.tdHi)

/-- Register writes: all or nothing, and each field by its access code. -/
def Obligations.CsrWrites : Prop :=
  (∀ (s : State) (h : Hdr) (a : Nat) (vs : List Word) (b : Block) (i : Nat),
    csrWindow a vs.length = some (b, i) → b.stage < s.stageShown → s.writable b i = true →
    s.begins Op.csrWrite h (leBytes a 4 ++ leBytes vs.length 2) →
    let q := s.took Op.csrWrite h
    (∀ st, q.csrRefusal h.ctx a vs = some st → exec (.csrWrite h a vs.length vs) s = .next (s.on (q.answer h Op.csrWrite st))) ∧
    (q.csrRefusal h.ctx a vs = none →
      exec (.csrWrite h a vs.length vs) s = .next (s.on ((q.csrApply h.ctx a vs).answer h Op.csrWrite St.done)))) ∧
  (∀ (a : Nat) (f : FieldSpec) (old w : Word), f ∈ fieldsAt a →
    Word.getF (foldWrite a old w) f.fld =
      match f.acc with
      | .rw | .lk | .wl => Word.getF w f.fld
      | .w1c => Word.getF (old &&& ~~~w) f.fld
      | _ => Word.getF old f.fld) ∧
  (∀ (m : Mach) (c a : Nat) (w : Word) (b : Block) (i off : Nat), windowOf a = some (b, i, off) →
    b ∈ [Block.range, .treeline, .survey, .ledge, .port, .belay, .swite] →
    m.csrApply c a [w] = m.wr a (foldWrite a (m.rd a) w))

/-- Unassigned addresses of a window (R649). -/
def Obligations.UnassignedAddresses : Prop :=
  ∀ (s : State) (h : Hdr) (a : Nat) (b : Block) (i off : Nat), a % 4 = 0 → windowOf a = some (b, i, off) → regAt a = none → s.rd a = 0 →
    (s.begins Op.csrRead h (leBytes a 4) → b.stage < s.stageShown →
      ∃ m : Mach, (∀ x, m.rd x = s.rd x) ∧ exec (.csrRead h a) s = .next (s.on (m.answer h Op.csrRead St.done 0 [0, 0, 0, 0]))) ∧
    (∀ w, s.begins Op.csrWrite h (leBytes a 4 ++ leBytes 1 2) → ∃ t, exec (.csrWrite h a 1 [w]) s = .next t ∧ ∀ x, t.rd x = s.rd x)

/-- SWITCH, the write-limited settings, a sync counter and the timebase master. The registers of Tarn's slots and of serving. -/
def Obligations.RegisterWritesOfTheirOwn : Prop :=
  ((∀ (s : State) (h : Hdr) (v : Word), s.begins Op.csrWrite h (leBytes Reg.CIRQUE_LSU_CTL 4 ++ leBytes 1 2) → 2 < s.stageShown →
    s.poweredOff = false → s.standbyReady = true → s.optics.failing = none → Word.getF v Fld.CIRQUE_LSU_CTL_SWITCH = 1 →
    ∃ t, exec (.switch h v) s = .next t ∧ t.optics = { s.optics with failing := some s.clk } ∧
      t.rdF Reg.CIRQUE_LSU_CTL Fld.CIRQUE_LSU_CTL_AUTO = Word.getF v Fld.CIRQUE_LSU_CTL_AUTO ∧
      t.rdF Reg.CIRQUE_LSU_CTL Fld.CIRQUE_LSU_CTL_PREFER = Word.getF v Fld.CIRQUE_LSU_CTL_PREFER ∧
      (∀ a, a ≠ Reg.CIRQUE_LSU_CTL → t.rd a = s.rd a) ∧
      { t.toMach with csr := s.csr, swite := s.swite, cairn := s.cairn, optics := s.optics } = s.toMach) ∧
  (∀ (s : State) (h : Hdr) (v : Word), s.begins Op.csrWrite h (leBytes Reg.CAIRN_SVN 4 ++ leBytes 1 2) → 1 < s.stageShown →
    s.svn < Word.getF v Fld.CAIRN_SVN_VALUE → Word.getF v Fld.CAIRN_SVN_VALUE ≤ s.cairn.runSvn → s.rdF Reg.CAIRN_SVN Fld.CAIRN_SVN_REMAIN ≠ 0 →
    ∃ t, exec (.securityVersionWrite h v) s = .next t ∧
      t.rdF Reg.CAIRN_SVN Fld.CAIRN_SVN_VALUE = Word.getF v Fld.CAIRN_SVN_VALUE ∧
      t.rdF Reg.CAIRN_SVN Fld.CAIRN_SVN_REMAIN = s.rdF Reg.CAIRN_SVN Fld.CAIRN_SVN_REMAIN - 1 ∧ t.cairn.logSeq = s.cairn.logSeq + 1 ∧
      (∀ a, a ≠ Reg.CAIRN_SVN → a ≠ Reg.CAIRN_LOG_STATUS → t.rd a = s.rd a) ∧
      { t.toMach with csr := s.csr, swite := s.swite, cairn := s.cairn } = s.toMach) ∧
  (∀ (s : State) (h : Hdr) (v : Word), s.begins Op.csrWrite h (leBytes Reg.CAIRN_FUSES 4 ++ leBytes 1 2) → 1 < s.stageShown → s.trust = 0 →
    s.rdF Reg.CAIRN_FUSES Fld.CAIRN_FUSES_PROD_DEBUG_OFF = 0 → Word.getF v Fld.CAIRN_FUSES_PROD_DEBUG_OFF = 1 →
    s.rdF Reg.CAIRN_FUSES Fld.CAIRN_FUSES_REMAIN = 1 →
    ∃ t, exec (.prodDebugOffWrite h v) s = .next t ∧ t.rdF Reg.CAIRN_FUSES Fld.CAIRN_FUSES_PROD_DEBUG_OFF = 1 ∧
      t.rdF Reg.CAIRN_FUSES Fld.CAIRN_FUSES_REMAIN = 0 ∧ t.cairn.logSeq = s.cairn.logSeq + 1 ∧
      (∀ a, a ≠ Reg.CAIRN_FUSES → a ≠ Reg.CAIRN_LOG_STATUS → t.rd a = s.rd a) ∧
      { t.toMach with csr := s.csr, swite := s.swite, cairn := s.cairn } = s.toMach) ∧
  (∀ (s : State) (h : Hdr) (k : Nat) (v : Word), s.begins Op.csrWrite h (leBytes (Reg.TRAVERSE_SYNC_COUNTER k) 4 ++ leBytes 1 2) → k < 4096 →
    2 < s.stageShown → s.poweredOff = false → s.syncOwned k = true →
    exec (.syncCounterWrite h k v) s =
      .next (s.on (((s.took Op.csrWrite h).wr (Reg.TRAVERSE_SYNC_COUNTER k) v).answer h Op.csrWrite St.done))) ∧
  (∀ (s : State) (h : Hdr) (v : Word), s.begins Op.csrWrite h (leBytes Reg.TRAVERSE_TIMEBASE_CFG 4 ++ leBytes 1 2) →
    2 < s.stageShown → s.poweredOff = false →
    ∃ t, exec (.timebaseMasterWrite h v) s = .next t ∧
      t.rdF Reg.TRAVERSE_TIMEBASE_CFG Fld.TRAVERSE_TIMEBASE_CFG_MASTER = Word.getF v Fld.TRAVERSE_TIMEBASE_CFG_MASTER ∧
      (∀ a, a ≠ Reg.TRAVERSE_TIMEBASE_CFG → t.rd a = s.rd a) ∧ { t.toMach with csr := s.csr, swite := s.swite, cairn := s.cairn } = s.toMach)) ∧
  ((∀ (s : State) (h : Hdr) (k : Fin 12) (p : Fin 16) (v : Word), s.begins Op.csrWrite h (leBytes (Reg.FOOTHILL_TARN_PROG k p) 4 ++ leBytes 1 2) →
    2 < s.stageShown → s.poweredOff = false →
    (h.ctx < 16 → s.progHeld k p = false → Word.getF v Fld.FOOTHILL_TARN_PROG_VALID = 1 →
      ∃ t, exec (.tarnProgClaim h k p v) s = .next t ∧ t.progHeld k p = true ∧ t.progCtx k p = h.ctx ∧
        t.rdF (Reg.FOOTHILL_TARN_PROG k p) Fld.FOOTHILL_TARN_PROG_ALGO = Word.getF v Fld.FOOTHILL_TARN_PROG_ALGO ∧
        (∀ a, a ≠ Reg.FOOTHILL_TARN_PROG k p → t.rd a = s.rd a) ∧
        { t.toMach with csr := s.csr, swite := s.swite, cairn := s.cairn } = s.toMach) ∧
    (s.progHeld k p = true → s.progCtx k p ≠ h.ctx →
      exec (.tarnProgClaim h k p v) s = .next (s.on ((s.took Op.csrWrite h).answer h Op.csrWrite St.notPermitted)))) ∧
  (∀ (s : State) (h : Hdr) (c : Fin 16) (v : Word), s.begins Op.csrWrite h (leBytes (Reg.TRAVERSE_SERVE_CFG c) 4 ++ leBytes 1 2) →
    2 < s.stageShown → s.poweredOff = false →
    let f := Word.getF v Fld.TRAVERSE_SERVE_CFG_LOCK_MHZ
    (h.ctx ≠ c.val → exec (.serveCfgWrite h (Reg.TRAVERSE_SERVE_CFG c) [v]) s =
      .next (s.on ((s.took Op.csrWrite h).answer h Op.csrWrite St.notPermitted))) ∧
    (h.ctx = c.val → s.servingNow c = true → exec (.serveCfgWrite h (Reg.TRAVERSE_SERVE_CFG c) [v]) s =
      .next (s.on ((s.took Op.csrWrite h).answer h Op.csrWrite St.busy))) ∧
    (h.ctx = c.val → s.servingNow c = false → (f < 500 ∨ 1600 < f ∨ f % 25 ≠ 0) → exec (.serveCfgWrite h (Reg.TRAVERSE_SERVE_CFG c) [v]) s =
      .next (s.on ((s.took Op.csrWrite h).answer h Op.csrWrite St.badParam))) ∧
    (h.ctx = c.val → s.servingNow c = false → 500 ≤ f → f ≤ 1600 → f % 25 = 0 → Word.getF v Fld.TRAVERSE_SERVE_CFG_PERIODIC = 0 →
      ∃ t, exec (.serveCfgWrite h (Reg.TRAVERSE_SERVE_CFG c) [v]) s = .next t ∧
        t.rdF (Reg.TRAVERSE_SERVE_CFG c) Fld.TRAVERSE_SERVE_CFG_LOCK_MHZ = f ∧
        t.rdF (Reg.TRAVERSE_SERVE_CFG c) Fld.TRAVERSE_SERVE_CFG_PERIODIC = 0 ∧
        (∀ a, a ≠ Reg.TRAVERSE_SERVE_CFG c → t.rd a = s.rd a) ∧ t.mem = s.mem ∧ t.ranges = s.ranges)))

/-- FLIT_RECEIVE. LINK_CONTROL_FLIT, SWITE_ALIGNMENT_LOSS and SWITE_LINK_RETRAINED. -/
def Obligations.DataLink : Prop :=
  (∀ (s : State) (f : Flit) (crcOk codewordOk : Bool) (n : Nat),
    (s.dataUp = false → exec (.flitReceive f crcOk codewordOk n) s = .next s) ∧
    (s.dataUp = true → ∃ t, exec (.flitReceive f crcOk codewordOk n) s = .next t ∧
      t.rdF Reg.SWITE_FEC_CORRECTED Fld.SWITE_FEC_CORRECTED_COUNT = min (s.rdF Reg.SWITE_FEC_CORRECTED Fld.SWITE_FEC_CORRECTED_COUNT + n) 0xFFFFFFFF ∧
      t.rdF Reg.SWITE_FEC_DROPPED Fld.SWITE_FEC_DROPPED_COUNT =
        min (s.rdF Reg.SWITE_FEC_DROPPED Fld.SWITE_FEC_DROPPED_COUNT + (if codewordOk then 0 else 1)) 0xFFFFFFFF ∧
      t.mem = s.mem ∧ t.ctxs = s.ctxs ∧ t.ranges = s.ranges ∧ t.ports = s.ports ∧
      (crcOk = true → codewordOk = true → f.seq = s.swite.rxExpect →
        t.swite.rxExpect = (f.seq + 1) % 4096 ∧ t.swite.waitReplay = false ∧ t.swite.control = s.swite.control ++ [.credit f.cls 1] ∧
        t.swite.kept = s.swite.kept.filter (fun g => !flitLe g.seq f.ack)) ∧
      (¬ (crcOk = true ∧ codewordOk = true ∧ f.seq = s.swite.rxExpect) →
        t.swite.rxExpect = s.swite.rxExpect ∧ t.swite.arriving = s.swite.arriving ∧ t.swite.arrived = s.swite.arrived ∧
        t.swite.replies = s.swite.replies ∧ t.swite.kept = s.swite.kept) ∧
      ((crcOk = false ∨ codewordOk = false) → s.swite.waitReplay = false →
        t.swite = { s.swite with waitReplay := true, control := s.swite.control ++ [.replay s.swite.rxExpect] } ∧
        t.rdF Reg.SWITE_FLIT_REPLAYS Fld.SWITE_FLIT_REPLAYS_COUNT =
          min (s.rdF Reg.SWITE_FLIT_REPLAYS Fld.SWITE_FLIT_REPLAYS_COUNT + 1) 0xFFFFFFFF) ∧
      ((crcOk = false ∨ codewordOk = false) → s.swite.waitReplay = true → t.swite = s.swite))) ∧
  ((∀ (s : State) (seq ack : Nat), s.dataUp = true →
    let kept := s.swite.kept.filter (fun g => !flitLe g.seq ack)
    exec (.linkControlFlit (.replay seq) ack) s = .next (s.on { s.toMach with
      swite := { s.swite with kept := kept, linkOut := s.swite.linkOut ++ kept.filter (fun g => flitLe seq g.seq) } })) ∧
  (∀ (s : State) (cls n ack : Nat), s.dataUp = true →
    exec (.linkControlFlit (.credit cls n) ack) s = .next (s.on { s.toMach with
      swite := { s.swite with kept := s.swite.kept.filter (fun g => !flitLe g.seq ack),
                              credits := s.swite.credits.set cls (s.swite.credits.getD cls 0 + n) } })) ∧
  (∀ (s : State) (lane : Fin 16), s.dataUp = true → (s.rdF Reg.SWITE_STATUS Fld.SWITE_STATUS_LANES_UP).testBit lane = true →
    ∃ t, exec (.switeAlignmentLoss lane) s = .next t ∧ t.rdF Reg.SWITE_STATUS Fld.SWITE_STATUS_STATE = 1 ∧ t.dataUp = false ∧
      t.rdF Reg.SWITE_STATUS Fld.SWITE_STATUS_LANES_UP = s.rdF Reg.SWITE_STATUS Fld.SWITE_STATUS_LANES_UP - 2 ^ lane.val ∧
      t.rdF Reg.SWITE_RETRAINS Fld.SWITE_RETRAINS_COUNT = min (s.rdF Reg.SWITE_RETRAINS Fld.SWITE_RETRAINS_COUNT + 1) 0xFFFFFFFF ∧
      (t.rd Reg.MODULE_TROUBLE).getLsbD 7 = true ∧
      (∀ a, a ≠ Reg.SWITE_STATUS → a ≠ Reg.SWITE_RETRAINS → a ≠ Reg.MODULE_TROUBLE → t.rd a = s.rd a) ∧
      { t.toMach with csr := s.csr, survey := s.survey } = s.toMach) ∧
  (∀ (s : State) (lanes : Nat), s.dataUp = false → 2 ≤ s.stage → s.swite.held = [] →
    ∃ t, exec (.switeLinkRetrained lanes) s = .next t ∧
      t.rdF Reg.SWITE_STATUS Fld.SWITE_STATUS_STATE =
        (if lanes % 65536 = 0xFFFF then 2 else if lanes % 256 = 0xFF ∨ lanes % 65536 / 256 = 0xFF then 3 else 0) ∧
      (lanes % 65536 = 0xFFFF → t.rdF Reg.SWITE_STATUS Fld.SWITE_STATUS_LANES_UP = 0xFFFF) ∧
      (lanes % 256 = 0xFF → lanes % 65536 ≠ 0xFFFF → t.rdF Reg.SWITE_STATUS Fld.SWITE_STATUS_LANES_UP = 0x00FF) ∧
      (∀ a, a ≠ Reg.SWITE_STATUS → t.rd a = s.rd a) ∧ { t.toMach with csr := s.csr, swite := s.swite } = s.toMach))

/-- MGMT_PACKET. CLASS_WINDOW and EVENT_SEND. -/
def Obligations.ManagementAndSending : Prop :=
  (∀ (s : State) (l : List Byte), (s.island 83).powered = true →
    let h := Hdr.ofBytes .mgmt false l
    let op := leAt l 0 2
    let p := (l.drop 16).take 16
    (∃ t, exec (.mgmtPacket l false) s = .next t ∧
      t.rdF Reg.SWITE_MGMT_CRC Fld.SWITE_MGMT_CRC_COUNT = min (s.rdF Reg.SWITE_MGMT_CRC Fld.SWITE_MGMT_CRC_COUNT + 1) 0xFFFFFFFF ∧
      (∀ a, a ≠ Reg.SWITE_MGMT_CRC → t.rd a = s.rd a) ∧ { t.toMach with csr := s.csr } = s.toMach) ∧
    (∀ st dup, s.headerCheck op h p = some (st, dup) → ∃ t, exec (.mgmtPacket l true) s = .next t ∧
      t.swite = { s.swite with replies := s.swite.replies ++ [{ replyOf h.prio .mgmt h.ctx h.tag op st 0 [] true with dup := dup }] } ∧
      { t.toMach with csr := s.csr, swite := s.swite } = s.toMach ∧ (∀ a, a ≠ Reg.SWITE_DISCARD_BYTES → t.rd a = s.rd a)) ∧
    (s.headerCheck op h p = none → op ≠ Op.framePush → l.length = 32 + h.len → noCommand op l = false →
      ∃ q : Packet, q.bytes = l ∧ q.lane = .mgmt ∧ q.accepted = true ∧
        exec (.mgmtPacket l true) s = .next (s.on { s.toMach with swite := { s.swite with arrived := s.swite.arrived ++ [q] } }))) ∧
  ((∀ (s : State) (p : TxPacket), s.dataUp = true → s.swite.outq = [p] → p.begun = false → p.cls < 8 → 0 < p.rest.length → p.rest.length ≤ 248 →
    0 < s.swite.credits.getD p.cls 0 → s.swite.kept.length < 2048 →
    let f : Flit := { sop := true, cls := p.cls, kind := p.kind, rsv := false, seq := s.swite.txSeq, ack := (s.swite.rxExpect + 4095) % 4096,
                      data := p.rest ++ List.replicate (248 - p.rest.length) 0 }
    exec .classWindow s = .next (s.on { s.toMach with swite := { s.swite with
      outq := [], txSeq := (s.swite.txSeq + 1) % 4096, kept := s.swite.kept ++ [f], linkOut := s.swite.linkOut ++ [f],
      credits := s.swite.credits.set p.cls (s.swite.credits.getD p.cls 0 - 1) } })) ∧
  (∀ (s : State) (kind : Fin 6) (st d : Nat), s.swite.events.find? (fun e => decide (e.1 = kind.val)) = some (kind.val, st, d) →
    (s.island 83).powered = true →
    ((∃ t, (kind.val, t) ∈ s.swite.eventAt ∧ s.clk < t + 10000000) → exec (.eventSend kind) s = .next s) ∧
    ((∀ t, (kind.val, t) ∈ s.swite.eventAt → t + 10000000 ≤ s.clk) → ∃ t r, exec (.eventSend kind) s = .next t ∧
      t.swite.replies = s.swite.replies ++ [r] ∧ r.tag = 0xFFFF ∧ r.event = true ∧ r.final = true ∧ r.cls = 7 ∧ r.status = st ∧ r.detail = d ∧
      r.lane = (if s.dataUp then .data else .mgmt) ∧
      r.opcode = (if kind.val ≤ 1 then Op.linkStatus else if kind.val ≤ 3 then Op.thermalStatus else if kind.val = 4 then Op.stepAbort else Op.csrRead) ∧
      (∀ e ∈ t.swite.events, e.1 ≠ kind.val) ∧ t.csr = s.csr ∧ t.mem = s.mem)))

/-- PACKET_TIMEOUT and the flits of a discarded packet (R588). -/
def Obligations.PartialPackets : Prop :=
  (∀ (s : State) (cls : Fin 8) (p : Packet), s.packetOf cls = some p →
    ¬ (p.accepted = true ∧ p.opcode = Op.framePush ∧ s.periodic p.ctx = true) →
    (s.clk < p.last + 10000 * (s.rd Reg.SWITE_PACKET_TIMEOUT).toNat → exec (.packetTimeout cls) s = .next s) ∧
    (p.last + 10000 * (s.rd Reg.SWITE_PACKET_TIMEOUT).toNat ≤ s.clk →
      ∃ t, exec (.packetTimeout cls) s = .next t ∧ t.packetOf cls = none ∧
        t.rdF Reg.SWITE_PARTIAL_DISCARD Fld.SWITE_PARTIAL_DISCARD_COUNT =
          min (s.rdF Reg.SWITE_PARTIAL_DISCARD Fld.SWITE_PARTIAL_DISCARD_COUNT + 1) 0xFFFFFFFF ∧
        (p.accepted = false → t.swite.replies = s.swite.replies ∧ t.swite.held = s.swite.held) ∧
        (p.accepted = true → s.dataUp = true → t.swite.replies = s.swite.replies ++
          [replyOf p.cls .data p.ctx p.tag p.opcode St.partialDiscard 0 [] true]) ∧
        t.mem = s.mem ∧ t.ctxs = s.ctxs ∧ t.ranges = s.ranges)) ∧
  (∀ (s : State) (f : Flit), s.dataUp = true → f.seq = s.swite.rxExpect → f.sop = false → f.rsv = false → f.kind < 2 → s.packetOf f.cls = none →
    ∃ t, exec (.flitReceive f true true 0) s = .next t ∧ t.swite.arriving = s.swite.arriving ∧ t.swite.arrived = s.swite.arrived ∧
      t.rdF Reg.SWITE_DISCARD_BYTES Fld.SWITE_DISCARD_BYTES_COUNT =
        min (s.rdF Reg.SWITE_DISCARD_BYTES Fld.SWITE_DISCARD_BYTES_COUNT + f.data.length) 0xFFFFFFFF)

/-- The answers to LOCK_CONFIG (R539). -/
def Obligations.LockConfigAnswers : Prop :=
  ∀ (s : State) (h : Hdr) (level : Nat),
    (s.clearing = true → s.recovery = false → h.lane = .data → s.restricted Op.lockConfig h = some St.busy) ∧
    (s.begins Op.lockConfig h (leBytes level 1) →
      let q := s.took Op.lockConfig h
      (2 < level → exec (.lockConfig h level) s = .next (s.on (q.answer h Op.lockConfig St.badParam))) ∧
      (level ≤ 2 → level = s.trust → exec (.lockConfig h level) s = .next (s.on (q.answer h Op.lockConfig St.done))) ∧
      ((level = 2 ∧ s.trust = 0) ∨ (level = 1 ∧ s.trust = 2) → exec (.lockConfig h level) s = .next (s.on (q.answer h Op.lockConfig St.badParam))) ∧
      (level = 1 → s.trust = 0 → s.debug = true → exec (.lockConfig h level) s = .next (s.on (q.answer h Op.lockConfig St.notPermitted))) ∧
      (level = 2 → s.trust = 1 →
        ((h.auth = true ∧ h.lane = .data ∧ ∃ x, s.cairn.session = some x ∧ x.finished = true ∧ x.measured = true ∧ x.exchangedIn = 1) →
          ∃ t, exec (.lockConfig h level) s = .next t ∧ t.trust = 2) ∧
        (¬ (h.auth = true ∧ h.lane = .data ∧ ∃ x, s.cairn.session = some x ∧ x.finished = true ∧ x.measured = true ∧ x.exchangedIn = 1) →
          exec (.lockConfig h level) s = .next (s.on (q.answer h Op.lockConfig St.attestFail)))))

/-- LOCK_CONFIG upward and back without a clearing. TENANT_END, RESET kind 5, LOCK_CONFIG from TRUSTED, and CLEARING_END. -/
def Obligations.TrustAndClearing : Prop :=
  ((∀ (s : State) (h : Hdr), s.begins Op.lockConfig h (leBytes 1 1) → s.trust = 0 → s.debug = false →
    ∃ t, exec (.lockConfig h 1) s = .next t ∧ t.trust = 1 ∧ t.cairn.lkFrozen = some s.lkWords ∧ t.cairn.logSeq = s.cairn.logSeq + 1 ∧
      t.cairn.slotKeys = s.cairn.slotKeys ∧ (∀ a, a ≠ Reg.CAIRN_STATE → a ≠ Reg.CAIRN_LOG_STATUS → t.rd a = s.rd a) ∧
      { t.toMach with csr := s.csr, swite := s.swite, cairn := s.cairn } = s.toMach) ∧
  (∀ (s : State) (h : Hdr), s.begins Op.lockConfig h (leBytes 0 1) → s.trust = 1 →
    ∃ t, exec (.lockConfig h 0) s = .next t ∧ t.trust = 0 ∧ t.cairn.lkFrozen = none ∧ t.cairn.logSeq = s.cairn.logSeq + 1 ∧
      (∀ a, a ≠ Reg.CAIRN_STATE → a ≠ Reg.CAIRN_LOG_STATUS → t.rd a = s.rd a) ∧
      { t.toMach with csr := s.csr, swite := s.swite, cairn := s.cairn } = s.toMach)) ∧
  ((∀ (s : State) (h : Hdr), s.cairn.clearing = none → s.cairn.waits = [] → s.shaped = true →
    let cleared (t : State) : Prop := t.trust = 0 ∧ t.clearing = true ∧ t.cairn.clearing.isSome = true ∧ (∀ c < 16, t.ctx c = none) ∧
      t.cairn.session = none ∧ t.cairn.ephKeys = [] ∧ (∀ e ∈ t.cairn.slotKeys, 16 ≤ e.1)
    (s.begins Op.tenantEnd h [] → h.ctx = 0xFF →
      ∃ t, exec (.tenantEnd h) s = .next t ∧ cleared t ∧ (∃ o ∈ t.swite.outstanding, o.isFor h.lane h.ctx h.tag Op.tenantEnd = true)) ∧
    (s.begins Op.lockConfig h (leBytes 0 1) → h.ctx = 0xFF → s.trust = 2 →
      ∃ t, exec (.lockConfig h 0) s = .next t ∧ cleared t ∧ (∃ o ∈ t.swite.outstanding, o.isFor h.lane h.ctx h.tag Op.lockConfig = true)) ∧
    (s.begins Op.reset h (resetParam 5 0) → h.ctx = 0xFF → s.cairn.resetting = none →
      ∃ t, exec (.tenantReset h 0) s = .next t ∧ cleared t ∧ t.debug = false ∧ t.rdF Reg.CAIRN_RESET_CAUSE Fld.CAIRN_RESET_CAUSE_KIND = 5 ∧
        (∃ o ∈ t.swite.outstanding, o.isFor h.lane h.ctx h.tag Op.reset = true))) ∧
  (∀ (s : State) (t0 tag op : Nat), s.cairn.clearing = some (t0, [(.mgmt, tag, op)]) →
    (s.clk < t0 + 210000000 ∨ s.stage < 3 ∨ s.rdF Reg.LEDGE_MEM_SUMMARY Fld.LEDGE_MEM_SUMMARY_SCRUB_COMPLETE = 0 → exec .clearingEnd s = .next s) ∧
    (t0 + 210000000 ≤ s.clk → 3 ≤ s.stage → s.rdF Reg.LEDGE_MEM_SUMMARY Fld.LEDGE_MEM_SUMMARY_SCRUB_COMPLETE = 1 →
      ∃ t, exec .clearingEnd s = .next t ∧ t.cairn.clearing = none ∧ t.clearing = false ∧ t.cairn.logSeq = s.cairn.logSeq + 1 ∧
        (∃ r, t.swite.replies = s.swite.replies ++ [r] ∧ r.lane = .mgmt ∧ r.tag = tag ∧ r.opcode = op ∧ r.status = St.done ∧ r.final = true) ∧
        t.mem = s.mem ∧ t.ctxs = s.ctxs)))

/-- SPDM_MSG and HEARTBEAT_EXPIRY. -/
def Obligations.SpdmSession : Prop :=
  (∀ (s : State) (h : Hdr), s.begins Op.spdmMsg h [] → s.cairn.session = none →
    ∃ t x, exec (.spdmMsg h .keyExchange false true) s = .next t ∧ t.cairn.session = some x ∧ x.exchangedIn = s.trust ∧ x.finished = false ∧
      x.measured = false ∧ x.hbS = s.rdF Reg.CAIRN_POLICY Fld.CAIRN_POLICY_HB_S ∧ x.lastMsg = s.clk ∧
      t.rdF Reg.CAIRN_STATE Fld.CAIRN_STATE_SESSION = 1 ∧ t.mem = s.mem ∧ t.ctxs = s.ctxs) ∧
  (∀ (s : State) (h : Hdr) (x : Session), s.begins Op.spdmMsg h [] → s.cairn.session = some x → h.lane = .mgmt → s.trust ≠ 2 →
    (∃ t, exec (.spdmMsg h .keyExchange false true) s = .next t ∧ t.cairn.session = some x) ∧
    (∃ t, exec (.spdmMsg h .finish true true) s = .next t ∧ t.cairn.session = some { x with finished := true, lastMsg := s.clk } ∧
      t.rdF Reg.SWITE_STATUS Fld.SWITE_STATUS_ENCRYPTED = 1) ∧
    (∃ t, exec (.spdmMsg h .getMeasurements true true) s = .next t ∧ t.cairn.session = some { x with measured := true, lastMsg := s.clk }) ∧
    (∃ t, exec (.spdmMsg h .keyUpdate true true) s = .next t ∧
      t.cairn.session = some { x with generation := x.generation + 1, countH2m := 0, countM2h := 0, lastMsg := s.clk }) ∧
    (∃ t, exec (.spdmMsg h .endSession true true) s = .next t ∧ t.cairn.session = none ∧
      t.rdF Reg.CAIRN_STATE Fld.CAIRN_STATE_SESSION = 0 ∧ t.rdF Reg.SWITE_STATUS Fld.SWITE_STATUS_ENCRYPTED = 0)) ∧
  (∀ (s : State) (x : Session), s.cairn.session = some x →
    (x.hbS = 0 ∨ s.clk < x.lastMsg + 20000000000 * x.hbS → exec .heartbeatExpiry s = .next s) ∧
    (x.hbS ≠ 0 → x.lastMsg + 20000000000 * x.hbS ≤ s.clk → ∃ t, exec .heartbeatExpiry s = .next t ∧ t.cairn.session = none ∧
      t.rdF Reg.CAIRN_STATE Fld.CAIRN_STATE_SESSION = 0 ∧ (s.trust = 2 → s.cairn.clearing = none → t.trust = 0) ∧ (s.trust ≠ 2 → t.mem = s.mem ∧ t.ctxs = s.ctxs)))

/-- KEY_RELEASE LOAD (R547). -/
def Obligations.LoadRefusals : Prop :=
  ∀ (s : State) (h : Hdr) (payload : List Byte), s.begins Op.keyRelease h (leBytes 1 2) → s.trust = 2 → h.ctx < 16 →
    let k := KeyLoad.ofBytes payload
    let live : Prop := ∃ e ∈ s.cairn.ephKeys, e.1 = k.eph
    let key := Config.gcmOpen (Config.releaseKey k.eph k.point) k.nonce k.aad k.wrapped k.tag
    let slot := Reg.CAIRN_KEY_SLOT k.slot
    let exports : Prop := (∃ x, s.ctx h.ctx = some x ∧ ∃ r ∈ x.maps, isHost r.pa = true) ∨
      (∃ p, s.plan = some p ∧ ∃ e ∈ p.ports, (e.role = 1 ∨ e.role = 2) ∧ e.encrypt = false)
    let refused (st : Nat) : Prop := ∃ m : Mach, exec (.load h payload) s = .next (s.on (m.answer h Op.keyRelease st)) ∧ m.csr = s.csr ∧
      m.cairn.slotKeys = s.cairn.slotKeys
    ((k.rsv = true ∨ 15 < k.slot) → refused St.badParam) ∧
    (k.rsv = false → k.slot ≤ 15 → (¬ live ∨ key = none) → refused St.attestFail) ∧
    (k.rsv = false → k.slot ≤ 15 → live → key.isSome = true → s.rdF slot Fld.CAIRN_KEY_SLOT_VALID = 1 → refused St.busy) ∧
    (k.rsv = false → k.slot ≤ 15 → live → key.isSome = true → s.rdF slot Fld.CAIRN_KEY_SLOT_VALID = 0 → k.noExport = true → exports →
      refused St.notPermitted) ∧
    (k.rsv = false → k.slot ≤ 15 → live → s.rdF slot Fld.CAIRN_KEY_SLOT_VALID = 0 → ¬ (k.noExport = true ∧ exports) → ∀ v, key = some v →
      ∃ t, exec (.load h payload) s = .next t ∧ t.cairn.slotKeys = s.cairn.slotKeys ++ [(k.slot, v)] ∧
        t.rdF slot Fld.CAIRN_KEY_SLOT_VALID = 1 ∧ t.rdF slot Fld.CAIRN_KEY_SLOT_CONTEXT = h.ctx ∧
        t.rdF slot Fld.CAIRN_KEY_SLOT_KEY_ID = k.keyId ∧ t.rdF slot Fld.CAIRN_KEY_SLOT_NO_EXPORT = b2n k.noExport ∧
        (∀ j < 16, j ≠ k.slot → t.rd (Reg.CAIRN_KEY_SLOT j) = s.rd (Reg.CAIRN_KEY_SLOT j)))

/-- GET_EPHEMERAL, CLEAR, EPHEMERAL_KEY_EXPIRY and the ephemeral key of a LOAD. OWNER_TRANSFER, FW_UPDATE and DEBUG_MODE. -/
def Obligations.KeysPackagesAndDebug : Prop :=
  ((∀ (s : State) (h : Hdr) (nonce : List Byte), s.begins Op.keyRelease h (leBytes 0 2) → nonce.length = 32 →
    (s.trust ≠ 2 → exec (.getEphemeral h nonce) s = .next (s.on ((s.took Op.keyRelease h).answer h Op.keyRelease St.notPermitted))) ∧
    (s.trust = 2 → 4 ≤ s.cairn.ephKeys.length →
      exec (.getEphemeral h nonce) s = .next (s.on ((s.took Op.keyRelease h).answer h Op.keyRelease St.busy))) ∧
    (s.trust = 2 → s.cairn.ephKeys.length < 4 → ∃ (m : Mach) (id : Nat) (data : List Byte),
      exec (.getEphemeral h nonce) s = .next (s.on (m.answer h Op.keyRelease St.done 0 data)) ∧ data.length = 269 ∧ leAt data 0 4 = id ∧
      m.cairn.ephKeys = s.cairn.ephKeys ++ [(id, s.clk)] ∧ m.csr = s.csr)) ∧
  (∀ (s : State) (id : Nat), exec (.ephemeralKeyExpiry id) s = .next (s.on { s.toMach with cairn := { s.cairn with
    ephKeys := s.cairn.ephKeys.filter (fun k => !(decide (k.1 = id) && decide (k.2 + 600000000000 ≤ s.clk))) } })) ∧
  (∀ (s : State) (h : Hdr) (k : Nat), s.begins Op.keyRelease h (leBytes 2 1 ++ leBytes k 1) → s.trust = 2 → k < 16 → s.slotOf k h.ctx = true →
    s.copies = [] → ∃ m : Mach, exec (.clear h k) s = .next (s.on (m.answer h Op.keyRelease St.done)) ∧ m.rd (Reg.CAIRN_KEY_SLOT k) = 0 ∧
      m.cairn.slotKeys = s.cairn.slotKeys.filter (fun e => decide (e.1 ≠ k)) ∧
      (∀ j < 16, j ≠ k → m.rd (Reg.CAIRN_KEY_SLOT j) = s.rd (Reg.CAIRN_KEY_SLOT j))) ∧
  (∀ (s : State) (h : Hdr) (payload : List Byte), s.begins Op.keyRelease h (leBytes 1 2) → s.trust = 2 →
    ∃ t, exec (.load h payload) s = .next t ∧ ∀ e ∈ t.cairn.ephKeys, e.1 ≠ leAt payload 4 4)) ∧
  ((∀ (s : State) (h : Hdr) (digest sig : List Byte), s.begins Op.ownerTransfer h [] → s.ownerIndex < 63 → s.trust = 0 →
    let good : Prop := s.ownerIndex = 0 ∨ Config.ecdsaOk s.ownerDigest (digest ++ leBytes s.serial 8 ++ leBytes s.ownerIndex 1) sig = true
    (¬ good → exec (.ownerTransfer h digest sig) s = .next (s.on ((s.took Op.ownerTransfer h).answer h Op.ownerTransfer St.attestFail))) ∧
    (good → s.rdF Reg.CAIRN_OWNER Fld.CAIRN_OWNER_REMAIN = 0 →
      exec (.ownerTransfer h digest sig) s = .next (s.on ((s.took Op.ownerTransfer h).answer h Op.ownerTransfer St.limitReached))) ∧
    (good → s.rdF Reg.CAIRN_OWNER Fld.CAIRN_OWNER_REMAIN ≠ 0 → ∃ t, exec (.ownerTransfer h digest sig) s = .next t ∧
      t.ownerIndex = s.ownerIndex + 1 ∧ t.rdF Reg.CAIRN_OWNER Fld.CAIRN_OWNER_REMAIN = s.rdF Reg.CAIRN_OWNER Fld.CAIRN_OWNER_REMAIN - 1 ∧
      (∀ k < 16, (t.rd (Reg.CAIRN_OWNER_HASH k)).toNat = leAt digest (4 * k) 4) ∧ t.cairn.logSeq = s.cairn.logSeq + 1 ∧
      (h.lane, h.tag) ∈ t.cairn.ownerScrub)) ∧
  (∀ (s : State) (h : Hdr) (off total : Nat) (pl : List Byte), s.begins Op.fwUpdate h (leBytes off 8 ++ leBytes total 4) →
    h.flags.testBit 3 = false → let q := s.took Op.fwUpdate h
    ((total = 0 ∨ 67108864 < total ∨ total < off + pl.length ∨ ∃ t, s.cairn.fwTotal = some t ∧ t ≠ total) →
      exec (.fwUpdate h off total pl) s = .next (s.on (q.answer h Op.fwUpdate St.badParam))) ∧
    (0 < total → total ≤ 67108864 → off + pl.length ≤ total → (∀ t, s.cairn.fwTotal = some t → t = total) →
      let chunks := s.cairn.fwChunks ++ [(off, pl)]
      let package := ((gather total chunks).bind Config.package).filter (fun p => decide (s.svn ≤ p.1))
      (h.flags.testBit 2 = false → exec (.fwUpdate h off total pl) s =
        .next (s.on (({ q with cairn := { q.cairn with fwTotal := some total, fwChunks := chunks } }).answer h Op.fwUpdate St.done))) ∧
      (h.flags.testBit 2 = true → package = none → ∃ m : Mach, exec (.fwUpdate h off total pl) s = .next (s.on (m.answer h Op.fwUpdate St.badParam)) ∧
        (m.bank s.idleBank).empty = true ∧ m.cairn.fwChunks = [] ∧ m.csr = s.csr) ∧
      (h.flags.testBit 2 = true → s.cairn.banks.length = 2 → ∀ v minor patch, package = some (v, minor, patch) →
        ∃ m : Mach, exec (.fwUpdate h off total pl) s = .next (s.on (m.answer h Op.fwUpdate St.done)) ∧
        m.bank s.idleBank = { empty := false, svn := v, minor := minor, patch := patch } ∧
        m.rdF Reg.CAIRN_STATE Fld.CAIRN_STATE_PREFER_BANK = s.idleBank ∧ m.cairn.fwTotal = none))) ∧
  (∀ (s : State) (h : Hdr) (sig : List Byte), s.trust = 0 → s.begins Op.debugMode h (leBytes 1 1) →
    let signed := leBytes s.serial 8 ++ leBytes s.ownerIndex 1 ++ leBytes (s.rd Reg.SURVEY_DEBUG_NONCE).toNat 4
    ((s.ownerIndex = 0 ∧ h.len = 0) ∨ (s.ownerIndex ≠ 0 ∧ h.len = 132 ∧ Config.ecdsaOk s.ownerDigest signed sig = true) →
      ∃ m : Mach, exec (.debugModeEnable h sig) s = .next (s.on (m.answer h Op.debugMode St.done)) ∧ m.debug = true ∧ m.trust = 0 ∧ m.mem = s.mem) ∧
    (s.ownerIndex ≠ 0 → h.len = 132 → Config.ecdsaOk s.ownerDigest signed sig = false →
      ∃ m : Mach, exec (.debugModeEnable h sig) s = .next (s.on (m.answer h Op.debugMode St.attestFail)) ∧ m.debug = s.debug ∧ m.trust = 0)) ∧
  (∀ (s : State) (h : Hdr), s.begins Op.debugMode h (leBytes 0 1) →
    ∃ m : Mach, exec (.debugModeDisable h) s = .next (s.on (m.answer h Op.debugMode St.done)) ∧ m.debug = false ∧ m.trust = s.trust ∧ m.mem = s.mem))

/-- The rules of CONTEXT and TARGET (R610). A CONTEXT below 16 that names no context does not pass the header check of HeaderChecksInOrder. -/
def Obligations.ResetTargets : Prop :=
  ∀ (s : State) (h : Hdr) (k : Nat),
    let q := s.took Op.reset h
    let bad := q.answer h Op.reset St.badParam
    (s.begins Op.reset h (resetParam 1 k) → (h.ctx ≠ 0xFF ∨ 1 < k) → exec (.moduleReset h k) s = .next (s.on bad)) ∧
    (s.begins Op.reset h (resetParam 2 k) → (16 ≤ h.ctx ∨ k ≠ 0) → exec (.contextReset h k) s = .next (s.on bad)) ∧
    (s.begins Op.reset h (resetParam 3 k) → (16 ≤ h.ctx ∨ 15 < k) → exec (.rangeReset h k) s = .next (s.on bad)) ∧
    (s.begins Op.reset h (resetParam 4 k) → (h.ctx ≠ 0xFF ∨ 31 < k) → exec (.portReset h k) s = .next (s.on bad)) ∧
    (s.begins Op.reset h (resetParam 5 k) → (h.ctx ≠ 0xFF ∨ k ≠ 0) → exec (.tenantReset h k) s = .next (s.on bad)) ∧
    (s.begins Op.reset h (resetParam 3 k) → h.ctx < 16 → k < 16 → s.owns h.ctx k = false →
      exec (.rangeReset h k) s = .next (s.on (q.answer h Op.reset St.notPermitted)))

/-- RESET kind 1, MOD_RESET_N and ACTIVATION. COLD_RESET, CAIRN_INPUT_LOSS and POWER_GOOD. -/
def Obligations.ModuleAndColdReset : Prop :=
  (∀ (s : State), s.cairn.resetting = none → s.recovery = false →
    let afresh (t : State) (source : Nat) : Prop := t.trust = 0 ∧ t.debug = false ∧ t.rd Reg.MODULE_TROUBLE = 0 ∧ t.swite.outstanding = [] ∧
      t.streams = [] ∧ t.copies = [] ∧ t.messages = [] ∧ t.rdF Reg.CAIRN_RESET_CAUSE Fld.CAIRN_RESET_CAUSE_KIND = 1 ∧
      t.rdF Reg.CAIRN_RESET_CAUSE Fld.CAIRN_RESET_CAUSE_SOURCE = source ∧ t.rdF Reg.CAIRN_SVN Fld.CAIRN_SVN_VALUE = s.svn ∧
      t.ownerIndex = s.ownerIndex ∧ t.cairn.powerGood = some t.clk ∧ t.clk = s.clk ∧ t.faultN = false
    let empty (t : State) : Prop := (∀ c, t.ctx c = none) ∧ t.mem.bytes = [] ∧ ∀ n, (t.range n).stream = none
    (∀ h : Hdr, s.begins Op.reset h (resetParam 1 0) → h.ctx = 0xFF → h.lane = .mgmt →
      ∃ t r, exec (.moduleReset h 0) s = .next t ∧ afresh t 3 ∧ empty t ∧ t.stage = 1 ∧ t.cairn.resetHeld = false ∧
        t.swite.replies = s.swite.replies ++ [r] ∧ r.status = St.done ∧ r.tag = h.tag ∧ r.final = true) ∧
    (s.modResetLow = false → (s.island 83).powered = true →
      ∃ t, exec .modResetNAssert s = .next t ∧ afresh t 1 ∧ empty t ∧ t.stage = 1 ∧ t.cairn.resetHeld = true ∧ t.modResetLow = true) ∧
    (∀ b, s.cairn.activating = some b → s.optics.dark = none →
      ∃ t, exec .activation s = .next t ∧ afresh t 4 ∧ empty t ∧ t.stage = 0 ∧ t.cairn.session = none ∧ t.cairn.ephKeys = [] ∧ t.cairn.slotKeys = [] ∧
        t.cairn.logSeq = s.cairn.logSeq + 1 + (if s.debug = true then 1 else 0) + (if s.trust = 0 then 0 else 1)) ∧
    (s.modResetLow = true → ∃ t, exec .modResetNDeassert s = .next t ∧ t.modResetLow = false ∧ t.cairn.resetHeld = false ∧ t.csr = s.csr ∧
      t.mem = s.mem ∧ t.ctxs = s.ctxs)) ∧
  ((∀ s : State,
    let afresh (t : State) : Prop := t.stageShown = 0 ∧ t.trust = 0 ∧ t.recovery = false ∧ t.clearing = false ∧
      t.rd Reg.CAIRN_RESET_CAUSE = 0 ∧ (∀ c, t.ctx c = none) ∧ t.cairn.session = none ∧ t.mem.bytes = [] ∧ t.swite.outstanding = [] ∧ t.plan = none ∧
      t.cairn.banks = s.cairn.banks ∧ t.rdF Reg.CAIRN_SVN Fld.CAIRN_SVN_VALUE = s.svn ∧ t.ownerIndex = s.ownerIndex ∧
      s.cairn.logSeq ≤ t.cairn.logSeq ∧ (s.trust = 0 → t.cairn.log = s.cairn.log)
    (∃ t, exec .coldReset s = .next t ∧ afresh t ∧ ∀ i < 108, (t.island i).powered = decide (i = 83)) ∧
    (∃ t, exec .cairnInputLoss s = .next t ∧ afresh t ∧ ∀ i < 108, (t.island i).powered = false)) ∧
  (∀ s : State, (s.island 83).powered = true →
    (s.cairn.powerGood = none → exec .powerGood s = .next (s.on { s.toMach with
      cairn := { s.cairn with powerGood := some s.clk, stageAt := s.clk }, timebase := { s.timebase with combined := Config.tbCombined } })) ∧
    (s.cairn.powerGood.isSome = true → exec .powerGood s = .next s)))

/-- STAGE_END. STAGE_DEADLINE_OVERRUN, S3_TIMEOUT and DISCOVERY_LIGHT_TIMEOUT. -/
def Obligations.StartStages : Prop :=
  (∀ (s : State) (r : StageResult), s.failed = false → s.cairn.powerGood.isSome = true → s.cairn.resetHeld = false → s.poweredOff = false →
    (s.island 83).powered = true →
    let prefer := s.rdF Reg.CAIRN_STATE Fld.CAIRN_STATE_PREFER_BANK
    (s.stage = 0 → s.bankPasses r prefer = true → ∃ t, exec (.stageEnd r) s = .next t ∧ t.stage = 1 ∧
      t.rdF Reg.CAIRN_STATE Fld.CAIRN_STATE_RUN_BANK = prefer ∧ t.rdF Reg.CAIRN_STATE Fld.CAIRN_STATE_FALLBACK = 0 ∧
      t.cairn.runSvn = (s.bank prefer).svn ∧ t.mem = s.mem) ∧
    (s.stage = 0 → s.bankPasses r 0 = false → s.bankPasses r 1 = false → ∃ t, exec (.stageEnd r) s = .next t ∧ t.stage = 0 ∧ t.recovery = true ∧
      t.failed = true ∧ t.rdF Reg.CAIRN_START_STATUS Fld.CAIRN_START_STATUS_FAIL_CAUSE = 1) ∧
    (s.stage = 1 → r.stacksFailed.testBit 0 = false → r.stacksFailed.testBit 6 = false → ∃ t, exec (.stageEnd r) s = .next t ∧ t.stage = 2 ∧
      t.failed = false ∧ t.dataUp = true ∧ t.rdF Reg.SWITE_STATUS Fld.SWITE_STATUS_LANES_UP = 0xFFFF ∧ t.swite.held = []) ∧
    (s.stage = 1 → r.stacksFailed.testBit 0 = true → ∃ t, exec (.stageEnd r) s = .next t ∧ t.failed = true ∧
      t.rdF Reg.CAIRN_START_STATUS Fld.CAIRN_START_STATUS_FAIL_CAUSE = 3 ∧ t.rdF Reg.CAIRN_START_STATUS Fld.CAIRN_START_STATUS_FAIL_STAGE = 2) ∧
    (s.stage = 2 → s.rdF Reg.LEDGE_MEM_SUMMARY Fld.LEDGE_MEM_SUMMARY_SCRUB_COMPLETE = 0 → exec (.stageEnd r) s = .next s) ∧
    (s.stage = 2 → s.rdF Reg.LEDGE_MEM_SUMMARY Fld.LEDGE_MEM_SUMMARY_SCRUB_COMPLETE = 1 → s.cairn.clearing = none →
      ∃ t, exec (.stageEnd r) s = .next t ∧ t.stage = 3 ∧
      t.rdF Reg.LEDGE_MEM_SUMMARY Fld.LEDGE_MEM_SUMMARY_LEDGE_A_READY = 1 ∧ t.rdF Reg.LEDGE_MEM_SUMMARY Fld.LEDGE_MEM_SUMMARY_LEDGE_B_READY = 1) ∧
    (s.stage = 3 → s.opticsStage ≠ 3 → exec (.stageEnd r) s = .next s) ∧
    (s.stage = 3 → s.opticsStage = 3 → ∃ t, exec (.stageEnd r) s = .next t ∧ t.stage = 4 ∧ t.fabricOk = true) ∧
    (s.stage = 4 → s.discoveryOver = false → exec (.stageEnd r) s = .next s) ∧
    (s.stage = 4 → s.discoveryOver = true → ∃ t, exec (.stageEnd r) s = .next t ∧ t.stage = 5 ∧ t.cairn.resetting = none ∧ t.mem = s.mem) ∧
    (5 ≤ s.stage → exec (.stageEnd r) s = .next s)) ∧
  ((∀ (s : State) (t0 : Nat), s.cairn.powerGood = some t0 → s.stage ≤ 2 → s.failed = false → s.poweredOff = false →
    let limit := if s.stage = 0 then 1000000000 else if s.stage = 1 then 20000000000 else 60000000000
    let fails (cause : Nat) : Prop := ∃ t, exec (.stageDeadlineOverrun cause) s = .next t ∧ t.failed = true ∧ t.stage = s.stage ∧
      t.rdF Reg.CAIRN_START_STATUS Fld.CAIRN_START_STATUS_FAIL_STAGE = s.stage ∧
      t.rdF Reg.CAIRN_START_STATUS Fld.CAIRN_START_STATUS_FAIL_CAUSE = cause ∧ t.alert = true ∧ t.mem = s.mem ∧ t.ctxs = s.ctxs
    fails 2 ∧ (t0 + limit ≤ s.clk → fails 4) ∧ (s.clk < t0 + limit → exec (.stageDeadlineOverrun 4) s = .next s)) ∧
  (∀ s : State, s.stage = 3 →
    ((s.opticsStage = 1 ∧ s.cairn.stageAt + 300000000000 ≤ s.clk) ∨ s.cairn.stageAt + 450000000000 ≤ s.clk →
      ∃ t, exec .s3Timeout s = .next t ∧ t.stage = 4 ∧ t.fabricOk = false ∧ t.opticsStage = 5 ∧ t.mem = s.mem) ∧
    (s.clk < s.cairn.stageAt + 300000000000 → exec .s3Timeout s = .next s)) ∧
  (∀ (s : State) (p : Fin 32), s.stage = 4 → s.ports.length = 32 → (s.port p).light = false → s.cairn.stageAt + 50000000000 ≤ s.clk →
    exec (.discoveryLightTimeout p) s = .next (s.on (s.updPort p (fun x => { x with noLight5s := true })))))

/-- RESET kinds 2, 3 and 4, and RANGE_CLEARED. -/
def Obligations.NarrowResets : Prop :=
  (∀ (s : State) (h : Hdr), s.begins Op.reset h (resetParam 2 0) → h.ctx < 16 → s.cairn.waits = [] → s.ctxMask h.ctx ≠ 0 → s.shaped = true →
    (s.ctx h.ctx).isSome = true →
    ∃ t, exec (.contextReset h 0) s = .next t ∧ t.rdF Reg.CAIRN_RESET_CAUSE Fld.CAIRN_RESET_CAUSE_KIND = 2 ∧
      t.rdF Reg.CAIRN_RESET_CAUSE Fld.CAIRN_RESET_CAUSE_TARGET = h.ctx ∧ (∀ n < 16, (s.ctxMask h.ctx).testBit n = true → t.rangeState n = 6) ∧
      (∀ x, t.ctx h.ctx = some x → x.step = none ∧ x.next = none ∧ x.pass = none ∧ x.pushWait = none) ∧ (t.ctx h.ctx).isSome = true ∧
      t.stepState h.ctx = 0 ∧ (∃ w ∈ t.cairn.waits, w.lane = h.lane ∧ w.ctx = h.ctx ∧ w.tag = h.tag)) ∧
  (∀ (s : State) (h : Hdr) (n : Nat), s.begins Op.reset h (resetParam 3 n) → h.ctx < 16 → n < 16 → s.owns h.ctx n = true → s.cairn.waits = [] →
    s.shaped = true → ∃ t, exec (.rangeReset h n) s = .next t ∧ t.rdF Reg.CAIRN_RESET_CAUSE Fld.CAIRN_RESET_CAUSE_KIND = 3 ∧
      t.rdF Reg.CAIRN_RESET_CAUSE Fld.CAIRN_RESET_CAUSE_TARGET = n ∧ t.rangeState n = 6 ∧ t.streamOn n = none ∧
      (∃ w ∈ t.cairn.waits, w.lane = h.lane ∧ w.ctx = h.ctx ∧ w.tag = h.tag)) ∧
  (∀ (s : State) (h : Hdr) (p : Nat), p < 32 → s.begins Op.reset h (resetParam 4 p) → h.ctx = 0xFF → s.cairn.resetting = none → s.shaped = true →
    (s.fabricOk = false → ∃ m : Mach, exec (.portReset h p) s = .next (s.on (m.answer h Op.reset St.done)) ∧ m.ports = s.ports) ∧
    (s.fabricOk = true → ∃ t, exec (.portReset h p) s = .next t ∧ (t.port p).peer = none ∧ (t.port p).keyed = false ∧ (t.port p).reduceIn = [] ∧
      (∀ x ∈ t.messages, x.port ≠ p) ∧ t.rdF Reg.CAIRN_RESET_CAUSE Fld.CAIRN_RESET_CAUSE_KIND = 4 ∧
      t.rdF Reg.CAIRN_RESET_CAUSE Fld.CAIRN_RESET_CAUSE_TARGET = p ∧ (∃ w ∈ t.cairn.waits, w.lane = h.lane ∧ w.tag = h.tag ∧ w.what = .port p))) ∧
  (∀ (s : State) (n : Fin 16), (s.rangeState n ≠ 6 → exec (.rangeCleared n) s = .next s) ∧
    (s.rangeState n = 6 → ∃ t, exec (.rangeCleared n) s = .next t ∧ t.rangeState n = 1 ∧ t.mem = s.mem ∧ t.ctxs = s.ctxs ∧
      (∀ lane tag c, s.cairn.waits = [{ lane := lane, ctx := c, tag := tag, what := .ranges (2 ^ n.val) }] → lane = .mgmt →
        t.cairn.waits = [] ∧ ∃ r, t.swite.replies = s.swite.replies ++ [r] ∧ r.tag = tag ∧ r.status = St.done ∧ r.opcode = Op.reset)))

/-- MEM_MAP (R267). -/
def Obligations.MapRefusalsAndPages : Prop :=
  ∀ (s : State) (h : Hdr) (va size pa pg w pd : Nat) (x : Ctx) (p : Nat), s.begins Op.memMap h [] → s.ctx h.ctx = some x →
    pageBytes pg = some p → w ≤ 1 → (∀ e ∈ s.mem.owned, e.1 = h.ctx → ∀ q ∈ s.mem.sealed, e.2.meets q.first q.count = false) →
    let r : MapRun := { va := va, size := size, page := p, pa := pa, write := decide (w = 1), pdom := pd }
    let shape : Prop := size ≠ 0 ∧ va % p = 0 ∧ size % p = 0 ∧ pa % p = 0 ∧ va + size ≤ 2 ^ 52 ∧ s.targetOk pa size = true
    let clear : Prop := ∀ q ∈ x.maps, runsMeet q.va q.size va size = false
    let granted : Prop := s.granted h.ctx x pd = true
    let mine : Prop := isHost pa = true ∨ ∀ e ∈ s.mem.owned, e.1 ≠ h.ctx → e.2.meets (pa / 65536) (size / 65536) = false
    let clean : Prop := (∀ q ∈ s.mem.scrubQueue, ∀ f ∈ q.2, f.meets (pa / 65536) (size / 65536) = false) ∧ (s.scrubbing = false ∨ 12 * 2 ^ 37 ≤ pa)
    let room : Prop := s.tablesWith h.ctx (insertRun r x.maps) ≤ 512 * 2 ^ 20
    let refused (st : Nat) : Prop :=
      exec (.memMap h va size pa pg w pd) s = .next (s.on ((s.took Op.memMap h).answer h Op.memMap st))
    (¬ shape → refused St.badParam) ∧ (shape → ¬ clear → refused St.badParam) ∧
    (shape → clear → ¬ granted → refused St.notPermitted) ∧ (shape → clear → granted → ¬ mine → refused St.notPermitted) ∧
    (shape → clear → granted → mine → ¬ clean → refused St.busy) ∧ (shape → clear → granted → mine → clean → ¬ room → refused St.busy) ∧
    (shape → clear → granted → mine → clean → room → ∃ (m : Mach) (y : Ctx),
      exec (.memMap h va size pa pg w pd) s = .next (s.on (m.answer h Op.memMap St.done)) ∧ m.ctx h.ctx = some y ∧
      (∀ k < size, y.phys (va + k) = some (pa + k)) ∧ (∀ v, v < va ∨ va + size ≤ v → y.phys v = x.phys v) ∧
      m.mem.bytes = s.mem.bytes ∧ m.csr = s.csr ∧ m.ranges = s.ranges)

/-- MEM_UNMAP. HOST_TXN_COMPLETION and HOST_TXN_TIMEOUT, for the transactions of copies. -/
def Obligations.UnmapAndHostTransactions : Prop :=
  (∀ (s : State) (h : Hdr) (va size : Nat) (x : Ctx), s.begins Op.memUnmap h (leBytes va 8 ++ leBytes size 8) → s.ctx h.ctx = some x →
    let q := s.took Op.memUnmap h
    (size = 0 ∨ coversPages x.maps va size = false → exec (.memUnmap h va size) s = .next (s.on (q.answer h Op.memUnmap St.badParam))) ∧
    (size ≠ 0 → coversPages x.maps va size = true → s.lockedIn h.ctx va size = true →
      exec (.memUnmap h va size) s = .next (s.on (q.answer h Op.memUnmap St.busy))) ∧
    (size ≠ 0 → coversPages x.maps va size = true → s.lockedIn h.ctx va size = false → s.swite.txns = [] → s.swite.txnWait = [] →
      s.shaped = true → ∃ (m : Mach) (y : Ctx),
      exec (.memUnmap h va size) s = .next (s.on (m.answer h Op.memUnmap St.done)) ∧ m.ctx h.ctx = some y ∧
      (∀ v, va ≤ v → v < va + size → y.phys v = none) ∧ (∀ v, v < va ∨ va + size ≤ v → y.phys v = x.phys v) ∧
      (∀ n < 16, ∀ e ∈ (m.range n).tlbCol ++ (m.range n).tlbTalus ++ (m.range n).tlbScree, e.ctx = h.ctx → runsMeet e.va e.size va size = false) ∧
      m.mem = s.mem ∧ m.csr = s.csr)) ∧
  (∀ (s : State) (x : HostTxn) (tag : Nat) (c i : Nat), s.swite.txns.find? (fun t => decide (t.tag = tag)) = some x → x.merge = [] →
    x.owner = .entry c i → s.swite.txnWait = [] → s.mem.unmapping = [] →
    (∀ data : List Byte, x.write = false → data.length = x.data.length → ∃ t, exec (.hostTxnCompletion tag (.completion data)) s = .next t ∧
      t.swite.txns = s.swite.txns.erase x ∧ t.mem = s.mem ∧ t.csr = s.csr ∧
      (∀ j ∈ t.copies, j.txnOwner = x.owner → ∀ k < data.length, byteAt j.arrived (x.addr + 2 ^ 47 + k) = data.getD k 0) ∧
      (∀ j ∈ s.copies, j.txnOwner ≠ x.owner → j ∈ t.copies)) ∧
    (x.write = true → ∃ t, exec (.hostTxnCompletion tag .ack) s = .next t ∧ t.swite.txns = s.swite.txns.erase x ∧ t.copies = s.copies ∧
      t.mem = s.mem ∧ t.csr = s.csr) ∧
    (let fails (c : Instr) : Prop := ∃ t, exec c s = .next t ∧ t.swite.txns = s.swite.txns.erase x ∧
        t.rdF Reg.SWITE_HOST_ERRORS Fld.SWITE_HOST_ERRORS_COUNT = min (s.rdF Reg.SWITE_HOST_ERRORS Fld.SWITE_HOST_ERRORS_COUNT + 1) 0xFFFFFFFF ∧
        (t.rd Reg.MODULE_TROUBLE).getLsbD 7 = true ∧ (∀ j ∈ t.copies, j.txnOwner = x.owner → j.failed = St.internal) ∧ t.mem = s.mem
     fails (.hostTxnCompletion tag .error) ∧ (x.since + 10000000 ≤ s.clk → fails (.hostTxnTimeout tag)) ∧
     (s.clk < x.since + 10000000 → exec (.hostTxnTimeout tag) s = .next s)) ∧
    (∀ u r, s.swite.txns.find? (fun t => decide (t.tag = u)) = none → exec (.hostTxnCompletion u r) s = .next s ∧ exec (.hostTxnTimeout u) s = .next s))

/-- MEM_COPY, MEM_FILL and COPY_COMPLETE. -/
def Obligations.CopiesMoveBytes : Prop :=
  (∀ (s : State) (h : Hdr) (x : Ctx) (src dst pattern n : Nat), s.ctx h.ctx = some x → 0 < n →
    (s.begins Op.memFill h (leBytes dst 8 ++ leBytes pattern 4) → n % 4 = 0 → dst % 4 = 0 → ∃ t j, exec (.memFill h dst pattern n) s = .next t ∧
      t.copies = s.copies ++ [j] ∧ j.owner = .cmd h.lane h.tag Op.memFill ∧ j.src = none ∧ j.dst = dst ∧ j.pattern = pattern ∧ j.length = n ∧
      (∃ o ∈ t.swite.outstanding, o.isFor h.lane h.ctx h.tag Op.memFill = true) ∧ t.swite.replies = s.swite.replies ∧ t.mem = s.mem ∧ t.csr = s.csr) ∧
    (s.begins Op.memCopy h (leBytes src 8 ++ leBytes dst 8) → n ≤ 2 ^ 48 → h.flags.testBit 4 = false → s.mem.sealed = [] →
      ∃ t j, exec (.memCopy h src dst n 0) s = .next t ∧
      t.copies = s.copies ++ [j] ∧ j.owner = .cmd h.lane h.tag Op.memCopy ∧ j.src = some src ∧ j.dst = dst ∧ j.length = n ∧ j.slot = none ∧
      (∃ o ∈ t.swite.outstanding, o.isFor h.lane h.ctx h.tag Op.memCopy = true) ∧ t.swite.replies = s.swite.replies ∧ t.mem = s.mem ∧ t.csr = s.csr)) ∧
  (∀ (s : State) (k : Nat) (j : CopyJob) (x : Ctx) (tag op : Nat), s.copies[k]? = some j → s.ctx j.ctx = some x → j.owner = .cmd .mgmt tag op →
    j.handles = none → j.slot = none → j.sent = false → j.failed = 0 → s.txnsOf j.txnOwner = 0 → s.mem.poison = [] →
    (∀ mv ∈ x.moves j, x.moveFault j mv = none) →
    (∀ i < j.length, ∃ pa, x.phys (j.dst + i) = some pa ∧ isHost pa = false) →
    (∀ i < j.length, ∀ l < j.length, x.phys (j.dst + i) = x.phys (j.dst + l) → i = l) →
    (∀ a, j.src = some a → ∀ i < j.length, ∃ pa, x.phys (a + i) = some pa ∧ isHost pa = false) →
    ∃ t r, exec (.copyComplete k { corrected := [], bad := [] }) s = .next t ∧ t.swite.replies = s.swite.replies ++ [r] ∧ r.status = St.done ∧
      r.tag = tag ∧ r.opcode = op ∧ r.data = leBytes j.length 8 ∧ t.copies = s.copies.erase j ∧
      (∀ i < j.length, t.readVa x (j.dst + i) = match j.src with
        | none => BitVec.ofNat 8 (bitsOf j.pattern (8 * ((j.dst + i) % 4)) 8)
        | some a => s.readVa x (a + i)) ∧
      (∀ pa, (∀ i < j.length, x.phys (j.dst + i) ≠ some pa) → t.readByte pa = s.readByte pa))

/-- GRANT_WINDOW. PATROL_READ, WHOLE_MEMORY_SCRUB_DONE and FRAME_SCRUB_DONE. -/
def Obligations.BandwidthAndScrubs : Prop :=
  (∀ (s : State) (k : Fin 12) (demand : List Nat), s.shaped = true → (∀ w ∈ s.bwWeights k, w ≠ 0) → (s.bwWeights k).sum ≤ 64 →
    ∃ t, exec (.grantWindow k demand) s = .next t ∧
      (let g := (t.stack k).grants
       g.length = 5 ∧ (∀ i < 5, 0 ≤ g.getD i 0 ∧ g.getD i 0 ≤ (demand.getD i 0 : Nat)) ∧
       (∀ i, 2 ≤ i → i < 5 → min ((demand.getD i 0 : Nat) : Rat) (4800000 * ((s.bwWeights k).getD i 0 : Nat) / 64) ≤ g.getD i 0) ∧
       g.getD 1 0 ≤ 3200000 ∧ g.getD 0 0 + g.getD 1 0 ≤ 3200000 ∧
       (t.stack k).rangeGrants.length = 16 ∧
       (∀ n < 16, demand.getD (5 + n) 0 = 0 → (t.stack k).rangeGrants.getD n 0 = 0) ∧
       (∀ i < 16, ∀ j < 16, demand.getD (5 + i) 0 ≠ 0 → demand.getD (5 + j) 0 ≠ 0 →
         (t.stack k).rangeGrants.getD i 0 * (s.rangeWeight j : Rat) = (t.stack k).rangeGrants.getD j 0 * (s.rangeWeight i : Rat))) ∧
      (∀ j < 12, j ≠ k.val → t.stack j = s.stack j) ∧ { t.toMach with mem := s.mem } = s.toMach ∧ t.mem.bytes = s.mem.bytes) ∧
  ((∀ (s : State) (u : Nat), u < 12 → s.shaped = true → s.rdF (Reg.FOOTHILL_STATUS u) Fld.FOOTHILL_STATUS_STATE = 3 →
    let pa := u * 2 ^ 37 + 64 * (s.stack u).patrolAt
    ((∀ w ∈ sectorWords pa, s.poisoned w = false) → exec (.patrolRead u { corrected := [], bad := [] }) s =
      .next (s.on (s.updStack u (fun x => { x with patrolAt := (x.patrolAt + 1) % 2 ^ 31 })))) ∧
    (∀ e : Ecc, ∃ t, exec (.patrolRead u e) s = .next t ∧ t.mem.bytes = s.mem.bytes ∧ (t.stack u).patrolAt = ((s.stack u).patrolAt + 1) % 2 ^ 31 ∧
      (∀ w ∈ sectorWords pa, e.bad.contains w = true → t.poisoned w = true) ∧ (∀ w, s.poisoned w = true → t.poisoned w = true))) ∧
  (∀ (s : State) (k : Fin 12), s.shaped = true →
    ((s.stack k).scrubbing = false → exec (.wholeMemoryScrubDone k) s = .next s) ∧
    ((s.stack k).scrubbing = true → ∃ t, exec (.wholeMemoryScrubDone k) s = .next t ∧
      (∀ pa, k.val * 2 ^ 37 ≤ pa → pa < (k.val + 1) * 2 ^ 37 → t.readByte pa = 0 ∧ t.poisoned pa = false) ∧
      (∀ pa, pa < k.val * 2 ^ 37 ∨ (k.val + 1) * 2 ^ 37 ≤ pa → t.readByte pa = s.readByte pa) ∧
      t.rdF (Reg.FOOTHILL_STATUS k) Fld.FOOTHILL_STATUS_STATE = 3 ∧ t.rdF (Reg.FOOTHILL_STATUS k) Fld.FOOTHILL_STATUS_SCRUB_DONE = 1 ∧
      (t.stack k).scrubbing = false ∧ (t.stack k).current.full = true ∧
      ((∀ j < 12, j ≠ k.val → s.stackFailed j = true ∨ s.rdF (Reg.FOOTHILL_STATUS j) Fld.FOOTHILL_STATUS_SCRUB_DONE = 1) →
        t.rdF Reg.LEDGE_MEM_SUMMARY Fld.LEDGE_MEM_SUMMARY_SCRUB_COMPLETE = 1))) ∧
  (∀ (s : State), (s.mem.scrubQueue = [] → exec .frameScrubDone s = .next s) ∧
    (∀ k r rest, s.mem.scrubQueue = (k, [r]) :: rest → (s.stack k).scrubbing = false → ∃ t, exec .frameScrubDone s = .next t ∧
      t.mem.scrubQueue = rest ∧ (∀ pa, r.first * 65536 ≤ pa → pa < (r.first + r.count) * 65536 → t.readByte pa = 0 ∧ t.poisoned pa = false) ∧
      (∀ pa, pa < r.first * 65536 ∨ (r.first + r.count) * 65536 ≤ pa → t.readByte pa = s.readByte pa))))

/-- CONTEXT_CREATE (R39, R595). The seed is taken as given where it is not 0; a seed of 0 draws a free value. CONTEXT_DESTROY (R595). -/
def Obligations.ContextsComeAndGo : Prop :=
  (∀ (s : State) (h : Hdr) (count place mask syncs seed pdoms : Nat), s.shaped = true → s.begins Op.contextCreate h [] →
    let q := s.took Op.contextCreate h
    let run := exec (.contextCreate h count place mask syncs seed pdoms) s
    let valid : Prop := (place < 3 ∧ mask = 0 ∧ 1 ≤ count ∧ count ≤ 16) ∨ (place = 3 ∧ mask ≠ 0 ∧ mask < 65536 ∧ count = (maskBits mask 16).length)
    let side (n : Nat) : Prop := place = 0 ∨ (place = 1 ∧ n < 8) ∨ (place = 2 ∧ 8 ≤ n)
    let free : List Nat := s.freeRanges.filter (fun n => decide (place = 0 ∨ (place = 1 ∧ n < 8) ∨ (place = 2 ∧ 8 ≤ n)))
    (¬ valid ∨ 4096 < syncs → run = .next (s.on (q.answer h Op.contextCreate St.badParam))) ∧
    (valid → syncs ≤ 4096 → (place = 3 ∧ ∃ n ∈ maskBits mask 16, s.rangeState n ≠ 0) ∨ (place < 3 ∧ free.length < count) →
      run = .next (s.on (q.answer h Op.contextCreate St.busy))) ∧
    (∀ n ∈ free, n < 16 ∧ s.rangeState n = 0 ∧ side n) ∧
    (∀ (l : List Nat) (c base : Nat), valid → syncs ≤ 4096 → seed ≠ 0 → s.newNumber h.ctx = some c → s.syncRun syncs = some base →
      (place = 3 ∧ l = maskBits mask 16 ∧ ∀ n ∈ l, s.rangeState n = 0) ∨ (place < 3 ∧ l = free.take count ∧ count ≤ free.length) →
      ∃ t r, run = .next t ∧ t.ctx c = some (Ctx.fresh base syncs seed pdoms) ∧
        (∀ n ∈ l, t.owns c n = true ∧ t.rangeState n = 6 ∧ (t.range n).tiles = [] ∧ (t.range n).stream = none ∧
          (∀ k < 128, t.rd (Reg.RANGE_AX_COORD n k) = 0 ∧ t.rd (Reg.RANGE_INC_COORD n k) = 0) ∧ ∀ k < 4, t.rd (Reg.RANGE_LC n k) = 0) ∧
        (∀ k < syncs, t.rd (Reg.TRAVERSE_SYNC_COUNTER (base + k)) = 0) ∧
        t.swite.replies = s.swite.replies ++ [r] ∧ r.status = St.done ∧ r.tag = h.tag ∧ r.final = true ∧
        r.detail = maskOf l * 65536 + base * 16 + c ∧ t.mem = s.mem ∧ t.cairn.slotKeys = s.cairn.slotKeys)) ∧
  (∀ (s : State) (h : Hdr), s.shaped = true → s.begins Op.contextDestroy h [] →
    ∃ t, exec (.contextDestroy h) s = .next t ∧ t.ctx h.ctx = none ∧ (∀ n < 16, s.owns h.ctx n = true → t.rangeState n = 0) ∧
      (∀ x ∈ t.streams, x.ctx ≠ h.ctx) ∧ (∀ e ∈ t.mem.owned, e.1 ≠ h.ctx) ∧
      (∀ k < 16, s.slotOf k h.ctx = true → ∀ e ∈ t.cairn.slotKeys, e.1 ≠ k) ∧
      (∃ r ∈ t.swite.replies, r.tag = h.tag ∧ r.opcode = Op.contextDestroy ∧ r.status = St.done ∧ r.final = true))

/-- DESC_LOAD (R53, R55). The loaded table is the one that the run's descriptors give by handle. -/
def Obligations.DescLoadWhole : Prop :=
  ∀ (s : State) (h : Hdr) (x : Ctx) (first count : Nat) (payload : List Byte), s.shaped = true → 1 ≤ count → s.ctx h.ctx = some x →
    s.begins Op.descLoad h (leBytes first 2 ++ leBytes count 2) →
    let q := s.took Op.descLoad h
    let run := exec (.descLoad h first count payload) s
    let inUse : Prop := ∃ k, first ≤ k ∧ k < first + count ∧ k ∈ s.handlesInUse h.ctx
    let new (k : Nat) : Desc := Desc.ofBytes ((payload.drop (64 * (k - first))).take 64)
    let bad (k : Nat) : Option Nat := if (new k).valid then (new k).cause (s.granted h.ctx x) else none
    let table := ((List.range' first count).map (fun k => (k, new k))).foldl (fun l e => insertDesc e.1 e.2 l) x.descs
    let pair := aliasPair (table.filter (fun e => e.2.trained))
    (0xFFFE < first + count - 1 → run = .next (s.on (q.answer h Op.descLoad St.badParam))) ∧
    (first + count - 1 ≤ 0xFFFE → inUse → run = .next (s.on (q.answer h Op.descLoad St.busy))) ∧
    (first + count - 1 ≤ 0xFFFE → ¬ inUse → ∀ k c, first ≤ k → k < first + count → bad k = some c → (∀ j, first ≤ j → j < k → bad j = none) →
      run = .next (s.on (q.answer h Op.descLoad St.descInvalid (k * 65536 + c)))) ∧
    (first + count - 1 ≤ 0xFFFE → ¬ inUse → (∀ k, first ≤ k → k < first + count → bad k = none) →
      (∀ a b, pair = some (a, b) → run = .next (s.on (q.answer h Op.descLoad St.descAlias (a * 65536 + b)))) ∧
      (pair = none → ∃ t r, run = .next t ∧ (∀ k, first ≤ k → k < first + count → t.descOf h.ctx k = some (new k)) ∧
        (∀ k, ¬ (first ≤ k ∧ k < first + count) → t.descOf h.ctx k = s.descOf h.ctx k) ∧ (∀ c, c ≠ h.ctx → t.ctx c = s.ctx c) ∧
        t.csr = s.csr ∧ t.mem = s.mem ∧ t.ranges = s.ranges ∧ t.swite.replies = s.swite.replies ++ [r] ∧ r.status = St.done ∧ r.tag = h.tag)) ∧
    (∃ t r, run = .next t ∧ t.swite.replies = s.swite.replies ++ [r] ∧ (r.status = St.done ∨ t.ctxs = s.ctxs))

/-- STREAM_LOAD (R115). -/
def Obligations.StreamImageLoaded : Prop :=
  ∀ (s : State) (h : Hdr) (x : Ctx) (k : Nat) (payload : List Byte), s.shaped = true → s.ctx h.ctx = some x →
    s.begins Op.streamLoad h (leBytes k 1) →
    let q := s.took Op.streamLoad h
    let run := exec (.streamLoad h k payload) s
    let used : Prop := ∃ y ∈ s.streams, y.ctx = h.ctx ∧ y.admitted = true ∧ y.imageNo = k
    (used → run = .next (s.on (q.answer h Op.streamLoad St.busy))) ∧
    (¬ used → ∀ i c, imageCheck payload = .error (i, c) → c < 256 → ∃ t r, run = .next t ∧ t.ctxs = s.ctxs ∧
      t.rdF Reg.TRAVERSE_IMAGE_STORE Fld.TRAVERSE_IMAGE_STORE_LAST_CAUSE = c ∧
      t.swite.replies = s.swite.replies ++ [r] ∧ r.status = St.badParam ∧ r.detail = i * 65536 + c) ∧
    (¬ used → ∀ i, imageCheck payload = .ok i →
      (64 * 2 ^ 20 < s.imagesWithout h.ctx k + i.bytes → run = .next (s.on (q.answer h Op.streamLoad St.busy))) ∧
      (s.imagesWithout h.ctx k + i.bytes ≤ 64 * 2 ^ 20 → ∃ t y r, run = .next t ∧ t.ctx h.ctx = some y ∧ y.image k = some i ∧
        (∀ j, j ≠ k → y.image j = x.image j) ∧ (∀ c, c ≠ h.ctx → t.ctx c = s.ctx c) ∧ t.csr = s.csr ∧ t.mem = s.mem ∧ t.ranges = s.ranges ∧
        t.swite.replies = s.swite.replies ++ [r] ∧ r.status = St.done))

/-- STREAM_START (R41 to R43). The frozen case is the model's reading of R471's hold on the start of streams. -/
def Obligations.StreamStartBegins : Prop :=
  ∀ (s : State) (h : Hdr) (image mode mask : Nat), s.shaped = true →
    let run := exec (.streamStart h image mode mask) s
    let q := s.took Op.streamStart h
    (s.frozen h.ctx = true → run = .next s) ∧
    (s.frozen h.ctx = false → s.begins Op.streamStart h (leBytes image 1 ++ leBytes mode 1 ++ leBytes mask 2) →
      (mask = 0 → run = .next (s.on (q.answer h Op.streamStart St.badParam))) ∧
      (mask ≠ 0 → s.ownsAll h.ctx mask = false → run = .next (s.on (q.answer h Op.streamStart St.notPermitted))) ∧
      (mask ≠ 0 → s.ownsAll h.ctx mask = true → s.startBusy mask = true → run = .next (s.on (q.answer h Op.streamStart St.busy))) ∧
      (mask ≠ 0 → s.ownsAll h.ctx mask = true → s.startBusy mask = false → ∀ st, s.startStatus h.ctx image mode mask = some st →
        run = .next (s.on (q.answer h Op.streamStart st))) ∧
      (∀ (x : Ctx) (i : Image), mask ≠ 0 → s.ownsAll h.ctx mask = true → s.startBusy mask = false → s.startStatus h.ctx image mode mask = none →
        s.ctx h.ctx = some x → x.image image = some i →
        let u := s.newStream h.ctx image i mask (decide (mode = 1)) (.command h.lane h.tag) h.prio
        let o : Outst := { lane := h.lane, ctx := h.ctx, tag := h.tag, opcode := Op.streamStart, prio := h.prio }
        (∀ g, s.treeline.starving = none → s.grantOf u = some g → ∃ t r, run = .next t ∧
          (∀ n ∈ maskBits mask 16, t.rangeState n = (if mode = 1 then 3 else 2) ∧ (t.range n).stream = some u.id ∧ (t.range n).pc = 0 ∧
            (t.range n).tiles = (s.range n).tiles ∧ (∀ k < 128, t.rd (Reg.RANGE_AX_COORD n k) = 0 ∧ t.rd (Reg.RANGE_INC_COORD n k) = 0) ∧
            ∀ k < 4, t.rd (Reg.RANGE_LC n k) = 0) ∧
          t.swite.replies = s.swite.replies ++ [r] ∧ r.status = St.accepted ∧ r.tag = h.tag ∧ r.final = false ∧
          t.swite.outstanding = s.swite.outstanding ++ [o] ∧ t.mem = s.mem) ∧
        (s.treeline.starving.isSome = true ∨ s.grantOf u = none → ∃ t, run = .next t ∧ t.streams = s.streams ++ [u] ∧ t.csr = s.csr ∧
          t.ranges = s.ranges ∧ t.mem = s.mem ∧ t.swite.replies = s.swite.replies ∧ t.swite.outstanding = s.swite.outstanding ++ [o])))

/-- STREAM_STOP and STREAM_STATUS. -/
def Obligations.StreamStopAndStatus : Prop :=
  ∀ (s : State) (h : Hdr) (mask : Nat),
    let regs (n : Nat) : List Byte := leBytes (s.rd (Reg.RANGE_STREAM_STATUS n)).toNat 4 ++ leBytes (s.rd (Reg.RANGE_STOP_POSITION n)).toNat 4 ++
      leBytes (s.rd (Reg.RANGE_STOP_DETAIL n)).toNat 4 ++ leBytes (s.rd (Reg.RANGE_STOP_SLOT n)).toNat 4
    (s.begins Op.streamStop h (leBytes mask 2) → s.shaped = true →
      let q := s.took Op.streamStop h
      (mask = 0 → exec (.streamStop h mask) s = .next (s.on (q.answer h Op.streamStop St.badParam))) ∧
      (mask ≠ 0 → s.ownsAll h.ctx mask = false → exec (.streamStop h mask) s = .next (s.on (q.answer h Op.streamStop St.notPermitted))) ∧
      (mask ≠ 0 → s.ownsAll h.ctx mask = true → ∃ t, exec (.streamStop h mask) s = .next t ∧ (∀ x ∈ t.streams, x.mask &&& mask = 0) ∧
        (∀ x, s.stream x.id = some x → x.admitted = true → x.mask &&& mask ≠ 0 → ∀ n ∈ maskBits x.mask 16, t.rangeState n = 4 ∧
          (t.range n).stream = none ∧ t.rdF (Reg.RANGE_STREAM_STATUS n) Fld.RANGE_STREAM_STATUS_STOP_STATUS = St.streamFault ∧
          t.rdF (Reg.RANGE_STREAM_STATUS n) Fld.RANGE_STREAM_STATUS_STOP_CAUSE = 8) ∧ t.mem = s.mem ∧
        (∃ r ∈ t.swite.replies, r.tag = h.tag ∧ r.opcode = Op.streamStop ∧ r.status = St.done ∧ r.final = true))) ∧
    (s.begins Op.streamStatus h (leBytes mask 2) →
      let q := s.took Op.streamStatus h
      (mask = 0 → exec (.streamStatus h mask) s = .next (s.on (q.answer h Op.streamStatus St.badParam))) ∧
      (mask ≠ 0 → s.ownsAll h.ctx mask = false → exec (.streamStatus h mask) s = .next (s.on (q.answer h Op.streamStatus St.notPermitted))) ∧
      (mask ≠ 0 → s.ownsAll h.ctx mask = true →
        exec (.streamStatus h mask) s = .next (s.on (q.answer h Op.streamStatus St.done 0 ((maskBits mask 16).flatMap regs)))))

/-- CTRL.FENCE, LOOP, ENDLOOP, SETLC, SETAX, ADDAX and SETINC. SYNC.SIGNAL, its firing, SYNC.WAIT, its satisfaction, and IDLE. -/
def Obligations.DispatcherSyncAndIdle : Prop :=
  (∀ (s : State) (n : Fin 16) (x : Stream) (e : Ewx), s.shaped = true →
    let r := s.range n
    let kept (t : State) : Prop := (∀ k, k ≠ n.val → t.range k = s.range k) ∧ t.mem = s.mem ∧ t.ctxs = s.ctxs ∧ t.swite = s.swite
    let wrote (t : State) (a : Nat) (v : Word) : Prop := kept t ∧ t.range n = r.step ∧ t.rd a = v ∧ ∀ b, b ≠ a → t.rd b = s.rd b
    let stops (t : State) (cause : Nat) : Prop := t.stopped x ∧ (bitOf x.mask n = true → t.faulted n cause) ∧ t.mem = s.mem
    (s.nextIs n .fence = some (x, e) → ∃ t, exec (.ctrlFence n) s = .next t ∧ kept t ∧ t.csr = s.csr ∧
      (s.doneBefore n (e.m 0 8) r.nextSeq = false → t.range n = { r.step with fence := some (e.m 0 8, r.nextSeq) }) ∧
      (s.doneBefore n (e.m 0 8) r.nextSeq = true → s.armed n = none → (t.range n).fence = none ∧ (t.range n).pc = r.pc + 1)) ∧
    (s.nextIs n .loop = some (x, e) →
      let count := (s.rd (Reg.RANGE_LC n (e.m 0 2))).toNat
      (r.loops.length < 4 → ∃ t, exec (.ctrlLoop n) s = .next t ∧ kept t ∧ t.csr = s.csr ∧
        (count ≠ 0 → t.range n = { r.step with loops := { body := r.pc + 1, count := count } :: r.loops }) ∧
        (count = 0 → t.range n = { r.step with pc := afterEnd (x.image.code.drop (r.pc + 1)) (r.pc + 1) 1 })) ∧
      (4 ≤ r.loops.length → ∃ t, exec (.ctrlLoop n) s = .next t ∧ stops t 0x04)) ∧
    (s.nextIs n .endloop = some (x, e) → ∃ t, exec (.ctrlEndloop n) s = .next t ∧ kept t ∧ t.csr = s.csr ∧
      (∀ f l, r.loops = f :: l → 1 < f.count → t.range n = { r.step with pc := f.body, loops := { f with count := f.count - 1 } :: l }) ∧
      (∀ f l, r.loops = f :: l → f.count ≤ 1 → t.range n = { r.step with loops := l })) ∧
    (s.nextIs n .setlc = some (x, e) → ∃ t, exec (.ctrlSetlc n) s = .next t ∧
      wrote t (Reg.RANGE_LC n (e.m 32 2)) (BitVec.ofNat 32 (e.m 0 32))) ∧
    (s.nextIs n .setax = some (x, e) →
      let v : Int := if e.m 36 1 = 1 then e.imm * (rangeRank x.mask n : Int) else e.imm
      (-2147483648 ≤ v ∧ v ≤ 2147483647 → ∃ t, exec (.ctrlSetax n) s = .next t ∧ wrote t (Reg.RANGE_AX_COORD n e.axIndex) (BitVec.ofInt 32 v)) ∧
      (¬ (-2147483648 ≤ v ∧ v ≤ 2147483647) → ∃ t, exec (.ctrlSetax n) s = .next t ∧ stops t 0x03)) ∧
    (s.nextIs n .addax = some (x, e) →
      let v : Int := (s.rd (Reg.RANGE_AX_COORD n e.axIndex)).toInt + e.imm
      (-2147483648 ≤ v ∧ v ≤ 2147483647 → ∃ t, exec (.ctrlAddax n) s = .next t ∧ wrote t (Reg.RANGE_AX_COORD n e.axIndex) (BitVec.ofInt 32 v)) ∧
      (¬ (-2147483648 ≤ v ∧ v ≤ 2147483647) → ∃ t, exec (.ctrlAddax n) s = .next t ∧ stops t 0x03)) ∧
    (s.nextIs n .setinc = some (x, e) → ∃ t, exec (.ctrlSetinc n) s = .next t ∧
      wrote t (Reg.RANGE_INC_COORD n e.axIndex) (BitVec.ofInt 32 e.imm))) ∧
  (∀ (s : State) (n : Fin 16) (x : Stream), s.shaped = true →
    let r := s.range n
    let kept (t : State) : Prop := (∀ k, k ≠ n.val → t.range k = s.range k) ∧ t.mem = s.mem ∧ t.ctxs = s.ctxs ∧ t.swite = s.swite
    let stops (t : State) (cause : Nat) : Prop := t.stopped x ∧ (bitOf x.mask n = true → t.faulted n cause) ∧ t.mem = s.mem
    let counter (k : Nat) : Nat := Reg.TRAVERSE_SYNC_COUNTER (s.syncBase x.ctx + k)
    let added (t : State) (k v : Nat) : Prop := kept t ∧ (t.rd (counter k)).toNat = v ∧ ∀ a, a ≠ counter k → t.rd a = s.rd a
    (∀ e, s.nextIs n .signal = some (x, e) →
      let v := s.syncVal x.ctx e.counter + e.m 0 16
      (s.syncLen x.ctx ≤ e.counter → ∃ t, exec (.syncSignal n) s = .next t ∧ stops t 0x05) ∧
      (e.counter < s.syncLen x.ctx → e.mask ≠ 0 → ∃ t, exec (.syncSignal n) s = .next t ∧ kept t ∧ t.csr = s.csr ∧
        t.range n = { r.step with signals := r.signals ++ [{ seq := r.nextSeq, idx := r.pc, counter := e.counter, inc := e.m 0 16, mask := e.mask }] }) ∧
      (e.counter < s.syncLen x.ctx → e.mask = 0 → v < 2 ^ 32 → ∃ t, exec (.syncSignal n) s = .next t ∧ added t e.counter v ∧ t.range n = r.step) ∧
      (e.counter < s.syncLen x.ctx → e.mask = 0 → 2 ^ 32 ≤ v → ∃ t, exec (.syncSignal n) s = .next t ∧ stops t 0x06)) ∧
    (∀ i g, s.streamOn n = some x → r.signals[i]? = some g →
      let v := s.syncVal x.ctx g.counter + g.inc
      (s.doneBefore n g.mask g.seq = false ∨ s.seqHeld n g.seq = true → exec (.syncSignalFire n i) s = .next s) ∧
      (s.doneBefore n g.mask g.seq = true → s.seqHeld n g.seq = false → v < 2 ^ 32 →
        ∃ t, exec (.syncSignalFire n i) s = .next t ∧ added t g.counter v ∧ t.range n = { r with signals := r.signals.erase g }) ∧
      (s.doneBefore n g.mask g.seq = true → s.seqHeld n g.seq = false → x.admitted = true → 2 ^ 32 ≤ v →
        ∃ t, exec (.syncSignalFire n i) s = .next t ∧ stops t 0x06)) ∧
    (∀ e, s.nextIs n .wait = some (x, e) →
      (s.syncLen x.ctx ≤ e.counter → ∃ t, exec (.syncWait n) s = .next t ∧ stops t 0x05) ∧
      (e.counter < s.syncLen x.ctx → ∃ t p, exec (.syncWait n) s = .next t ∧ kept t ∧ t.csr = s.csr ∧ p.ins = e ∧ p.seq = r.nextSeq ∧
        (t.range n).pc = r.pc + 1 ∧ (t.range n).tiles = r.tiles ∧
        (∀ st ∈ [1, 2, 3, 4, 5, 7], (t.range n).seqOf st = r.seqOf st ++ (if bitOf e.mask st then [p] else [])) ∧
        (t.range n).ctrlWait = if bitOf e.mask 0 then some (e.counter, e.m 0 32, r.nextSeq) else none)) ∧
    (s.streamOn n = some x →
      (∀ (st : Fin 8) p, st ≠ 0 → (r.seqOf st).head? = some p →
        (s.waitMet x.ctx p = false ∨ s.seqHeld n p.seq = true → exec (.syncWaitSatisfied n st) s = .next s) ∧
        (s.waitMet x.ctx p = true → s.seqHeld n p.seq = false → ∃ t, exec (.syncWaitSatisfied n st) s = .next t ∧ kept t ∧ t.csr = s.csr ∧
          (t.range n).seqOf st = (r.seqOf st).drop 1 ∧ (t.range n).rowCache = if bitOf p.ins.mask 5 then [] else r.rowCache)) ∧
      (∀ c target q, r.ctrlWait = some (c, target, q) →
        (s.syncVal x.ctx c < target ∨ s.seqHeld n q = true → exec (.syncWaitSatisfied n 0) s = .next s) ∧
        (target ≤ s.syncVal x.ctx c → s.seqHeld n q = false → ∃ t, exec (.syncWaitSatisfied n 0) s = .next t ∧ kept t ∧ t.csr = s.csr ∧
          t.range n = { r with ctrlWait := none }))) ∧
    (∀ e (st : Fin 8), s.nextIs n .idle = some (x, e) → e.station = st.val → st = 0 ∨ st = 6 →
      ∃ t, exec (.idle n st .place) s = .next t ∧ kept t ∧ t.csr = s.csr ∧ t.range n = r.step) ∧
    (∀ p (st : Fin 8), s.streamOn n = some x → (r.seqOf st).head? = some p → p.ins.sop = some .idle → x.lockstep = false →
      r.halted = false → s.repHeld n p 0 = false → r.fence = none →
      ∃ t, exec (.idle n st .run) s = .next t ∧ kept t ∧ t.csr = s.csr ∧ t.range n = r.setSeq st ((r.seqOf st).drop 1)))

/-- The placing rows: COL.LOAD, LOADT, CREST.MMA, DRAIN, SPUR.KERNEL, REDUCE, PERM, TALUS.STORE, MARK, SCREE.GATHER, SCATTER,
SCATTER_ADD, LINK.SEND, REDUCE, RECV and IDLE. -/
def Obligations.WorkIsPlaced : Prop :=
  ∀ (s : State) (n : Fin 16) (x : Stream) (e : Ewx), s.shaped = true →
    let r := s.range n
    let stops (t : State) (cause : Nat) : Prop := t.stopped x ∧ (bitOf x.mask n = true → t.faulted n cause) ∧ t.mem = s.mem
    let fits (o : SOp) : Prop := (e.usesAxa o = true → (s.snap n e.axa (e.incsA o)).overflows e.rep = false) ∧
      (o.usesB = true → (s.snap n e.axb (e.incsB o)).overflows e.rep = false)
    let placed (o : SOp) (i : Instr) : Prop := ∃ t p, exec i s = .next t ∧ (t.range n).seqOf e.station = r.seqOf e.station ++ [p] ∧
      p.ins = e ∧ p.seq = r.nextSeq ∧ p.idx = r.pc ∧ p.begun = 0 ∧ p.done = 0 ∧
      p.a = s.snap n e.axa (e.incsA o) ∧ p.b = s.snap n e.axb (e.incsB o) ∧
      (∀ st, st ≠ e.station → (t.range n).seqOf st = r.seqOf st) ∧
      (t.range n).pc = r.pc + 1 ∧ (t.range n).nextSeq = r.nextSeq + 1 ∧ (t.range n).tiles = r.tiles ∧ (∀ k, k ≠ n.val → t.range k = s.range k) ∧
      (∀ d < 6, e.incsA o = true → t.rd (Reg.RANGE_AX_COORD n (8 * e.axa + d)) = BitVec.ofInt 32 ((p.a.at e.rep).getD d 0)) ∧
      (∀ d < 6, e.incsB o = true → e.axSame o = false → e.axb ≠ e.axa →
        t.rd (Reg.RANGE_AX_COORD n (8 * e.axb + d)) = BitVec.ofInt 32 ((p.b.at e.rep).getD d 0)) ∧
      (∀ a, (∀ d < 6, a ≠ Reg.RANGE_AX_COORD n (8 * e.axa + d) ∧ a ≠ Reg.RANGE_AX_COORD n (8 * e.axb + d)) → t.rd a = s.rd a) ∧
      t.mem = s.mem ∧ t.ctxs = s.ctxs ∧ t.swite = s.swite
    let rows : List (SOp × Instr) := [(.load, .colLoad n), (.loadt, .colLoadt n), (.mma, .crestMma n), (.drain, .crestDrain n .place Ecc.clean),
      (.kernel, .spurKernel n), (.reduce, .spurReduce n), (.perm, .spurPerm n), (.store, .talusStore n), (.mark, .talusMark n .place),
      (.gather, .screeGather n), (.scatter, .screeScatter n), (.scatterAdd, .screeScatterAdd n), (.send, .linkSend n .place Ecc.clean),
      (.lreduce, .linkReduce n), (.recv, .linkRecv n .place)]
    let free (o : SOp) : Prop := match o with
      | .load | .loadt => ∀ d, s.descOf x.ctx e.hA = some d → e.cvtBad d = false
      | .drain => (drainFmt (e.m 35 4)).isSome = true
      | .reduce => (spurFmt (e.m 8 4)).isSome = true
      | .mark => ∃ d, s.descOf x.ctx e.hD = some d ∧ d.gradient = true
      | .gather | .scatter | .scatterAdd => s.screeCause x.ctx e = none
      | .send | .lreduce | .recv => s.linkCause x.ctx e o = none
      | _ => True
    (∀ q ∈ rows, s.nextIs n q.1 = some (x, e) → e.station ∈ [1, 2, 3, 4, 5, 7] → fits q.1 → free q.1 → placed q.1 q.2) ∧
    (∀ q ∈ rows, s.nextIs n q.1 = some (x, e) → ¬ fits q.1 → ∃ t, exec q.2 s = .next t ∧ stops t 0x03) ∧
    (∀ st : Fin 8, st.val ∈ [1, 2, 3, 4, 5, 7] → s.nextIs n .idle = some (x, e) → e.station = st.val → fits .idle → placed .idle (.idle n st .place)) ∧
    (s.nextIs n .drain = some (x, e) → fits .drain → drainFmt (e.m 35 4) = none → ∃ t, exec (.crestDrain n .place Ecc.clean) s = .next t ∧ stops t 0x91) ∧
    (s.nextIs n .reduce = some (x, e) → fits .reduce → spurFmt (e.m 8 4) = none → ∃ t, exec (.spurReduce n) s = .next t ∧ stops t 0x91) ∧
    (∀ d, s.nextIs n .load = some (x, e) → fits .load → s.descOf x.ctx e.hA = some d → e.cvtBad d = true →
      ∃ t, exec (.colLoad n) s = .next t ∧ stops t 0x91) ∧
    (∀ d, s.nextIs n .mark = some (x, e) → fits .mark → s.descOf x.ctx e.hD = some d → d.gradient = false →
      ∃ t, exec (.talusMark n .place) s = .next t ∧ stops t 0x90)

/-- COL_REPEAT_BEGIN, CREST_REPEAT_BEGIN, CREST.DRAIN's claim and SPUR_REPEAT_BEGIN. -/
def Obligations.RepeatsBegin : Prop :=
  ∀ (s : State) (n : Fin 16) (x : Stream) (p : Placed), s.shaped = true →
    let r := s.range n
    let e := p.ins
    let kept (t : State) : Prop := (∀ k, k ≠ n.val → t.range k = s.range k) ∧ t.mem = s.mem ∧ t.ctxs = s.ctxs
    let began (t : State) (st : Nat) : Prop := kept t ∧ ∃ q l, (t.range n).seqOf st = q :: l ∧ q.ins = e ∧ q.seq = p.seq ∧ q.begun = p.begun + 1
    let sent (t : State) (st : Nat) (q : Option QId) (treg : Option Nat) (tile : Tile) : Prop :=
      (∀ k, q = some k → ((t.range n).queue k).entries = (r.queue k).entries ++ [{ tile := tile, full := false, station := st }]) ∧
      (∀ k, treg = some k → (t.range n).regWrites = r.regWrites ++ [{ station := st, seq := p.seq, treg := k, tile := tile }])
    (∀ c d, s.ready n 1 x p → e.sop = some .load ∨ e.sop = some .loadt → s.ctx x.ctx = some c → c.desc e.hA = some d →
      s.rdF (Reg.RANGE_COL_PREFETCH_CFG n) Fld.RANGE_COL_PREFETCH_CFG_PF_COUNT = 0 → r.staged = [] → r.full e.loadQueue (d.loadFmt e) = false →
      p.causes n 1 p.begun (s.colCauses n d p p.begun) = none →
      let sectors := d.loadSectors (p.a.at p.begun) p.transposed
      s.xlate n 1 false [{ handle := e.hA, pdom := d.pdom, write := false, sectors := sectors }] = .ok →
      (∀ a ∈ sectors.filterMap c.phys, isHost a = false ∧ ∀ w ∈ sectorWords a, s.poisoned w = false) →
      ∃ t, exec (.colRepeatBegin n Ecc.clean) s = .next t ∧ began t 1 ∧ sent t 1 e.loadQueue e.loadTreg (s.colTile n c d p p.begun)) ∧
    (∀ a b, s.ready n 2 x p → e.sop = some .mma → r.operand (e.keptA p.begun) r.statA e.queueA (e.m 25 9) = some a →
      r.operand (e.keptB p.begun) r.statB e.queueB (e.m 16 9) = some b → (r.drainUnit.busy = false ∨ r.drainUnit.bank ≠ e.m 39 1) →
      p.causes n 2 p.begun (s.mmaCauses n e p.begun a b) = none →
      ∃ t, exec (.crestRepeatBegin n Ecc.clean) s = .next t ∧ began t 2 ∧ (∃ q, ((t.range n).crest).head? = some q ∧ q.done = p.done + 1) ∧
        (t.range n).bank (e.m 39 1) = (mmaRepeat a b (e.m 4 4) (mmaBank e p.begun a b (r.bank (e.m 39 1)))).1 ∧
        (t.range n).bank (1 - e.m 39 1) = r.bank (1 - e.m 39 1) ∧ (t.range n).tiles = r.tiles) ∧
    (s.ready n 2 x p → e.sop = some .mma → (e.keptA p.begun = false ∧ r.absent e.queueA = true) ∨ (e.keptB p.begun = false ∧ r.absent e.queueB = true) →
      ∀ ecc, exec (.crestRepeatBegin n ecc) s = .next s) ∧
    (∀ out, s.ready n 2 x p → e.sop = some .drain → p.begun = 0 → drainFmt (e.m 35 4) = some out → r.full e.drainQueue out = false →
      r.drainUnit.busy = false → p.causes n 2 0 (s.drainCauses n e out) = none →
      ∃ t, exec (.crestDrain n .run Ecc.clean) s = .next t ∧ began t 2 ∧ (t.range n).bank0 = r.bank0 ∧ (t.range n).bank1 = r.bank1 ∧
        (t.range n).drainUnit = DrainSt.mk true (e.m 39 1) (decide (e.m 26 2 = 0)) ∧
        sent t 2 e.drainQueue e.drainTreg (drainTile (r.bank (e.m 39 1)) (e.m 32 3) (e.m 28 4)
          (s.rdF (Reg.RANGE_CREST_CTL n) Fld.RANGE_CREST_CTL_LEAK_SLOPE) (r.treg (e.m 8 9)) out (s.rounding n x.ctx p 0)).1) ∧
    (s.ready n 3 x p → e.sop = some .kernel ∨ e.sop = some .reduce ∨ e.sop = some .perm → r.absent e.spurQueue = false →
      r.full e.spurOutQueue (s.spurOutFmt n e) = false → p.causes n 3 p.begun (s.spurCauses n e p.begun) = none →
      ∃ t, exec (.spurRepeatBegin n Ecc.clean) s = .next t ∧ began t 3 ∧
        sent t 3 e.spurOutQueue e.spurOutTreg (s.spurOut n e (if p.begun = 0 then s.normAcc n else r.norms.headD 0)).tile ∧
        (∀ q, e.spurQueue = some q → ((t.range n).queue q).entries = (r.queue q).entries.drop 1)) ∧
    (s.ready n 3 x p → e.sop ≠ some .idle → r.absent e.spurQueue = true → ∀ ecc, exec (.spurRepeatBegin n ecc) s = .next s)

/-- TALUS_REPEAT_BEGIN, TALUS.MARK at its station, and SCREE_REPEAT_BEGIN of a gather. -/
def Obligations.StoresMarksAndGathers : Prop :=
  ∀ (s : State) (n : Fin 16) (x : Stream) (p : Placed) (c : Ctx) (d : Desc), s.shaped = true → s.ctx x.ctx = some c →
    let r := s.range n
    let e := p.ins
    let began (t : State) (st : Nat) : Prop := (∃ q l, (t.range n).seqOf st = q :: l ∧ q.seq = p.seq ∧ q.begun = p.begun + 1) ∧
      (∀ k, k ≠ n.val → t.range k = s.range k) ∧ t.ctxs = s.ctxs
    (∀ tile, s.ready n 4 x p → e.sop = some .store → c.desc e.hD = some d →
      (match e.storeQueue with | some q => r.front q | none => some (r.treg (e.m 29 9))) = some tile →
      p.causes n 4 p.begun (s.storeCauses n d p p.begun tile) = none →
      let out := d.store tile (p.a.at p.begun) (s.rounding n x.ctx p p.begun)
      let sectors := storeSectors out.writes
      s.storeHeld n 5 c p sectors = false →
      s.xlate n 4 false [{ handle := e.hD, pdom := d.pdom, write := true, sectors := sectors }] = .ok →
      (∀ y ∈ byteMap out.writes, ∃ pa, c.phys y.1 = some pa ∧ isHost pa = false) → s.mem.poison = [] →
      ∃ t, exec (.talusRepeatBegin n Ecc.clean) s = .next t ∧ began t 4 ∧
        (∀ pa, (∀ y ∈ byteMap out.writes, c.phys y.1 ≠ some pa) → t.readByte pa = s.readByte pa) ∧
        (∀ y ∈ byteMap out.writes, ∀ pa, c.phys y.1 = some pa → (∀ z ∈ byteMap out.writes, c.phys z.1 = some pa → z = y) →
          t.readByte pa = mergeByte (s.readByte pa) y.2.1 y.2.2)) ∧
    (∀ tile ecc, s.ready n 4 x p → e.sop = some .store → c.desc e.hD = some d → s.stream x.id = some x →
      (match e.storeQueue with | some q => r.front q | none => some (r.treg (e.m 29 9))) = some tile → d.coordOut (p.a.at p.begun) = true →
      ∃ t, exec (.talusRepeatBegin n ecc) s = .next t ∧ t.stopped x ∧ (bitOf x.mask n = true → t.faulted n 0x07) ∧ t.mem = s.mem) ∧
    (s.ready n 4 x p → e.sop = some .mark →
      (∀ q ∈ r.scree, q.seq < p.seq → q.ins.sop ≠ some .scatter ∧ q.ins.sop ≠ some .scatterAdd) →
      ∃ t, exec (.talusMark n .run) s = .next t ∧ began t 4 ∧ t.mem = s.mem ∧ t.csr = s.csr ∧
        (t.range n).marks = r.marks ++ [{ seq := p.seq, layer := e.m 24 16, handle := e.hD, accepted := false }]) ∧
    (∀ i, s.ready n 5 x p → e.sop = some .gather → c.desc e.hA = some d → c.desc e.hB = some i → r.full e.gatherQueue d.format = false →
      p.causes n 5 p.begun (s.screeCauses n d i p p.begun) = none → s.mem.poison = [] → i.oor ≠ 2 →
      let isec := idxSectors i p p.begun
      let rows := rowsOf i.oor (d.extent 1) (s.indices c i p p.begun)
      let s1 : Mach := s.updRange n (fun r => r.setTlb 5 (tlbUse (r.tlb 5) isec))
      s.xlate n 5 false [{ handle := e.hB, pdom := i.pdom, write := false, sectors := isec }] = .ok →
      let tsec := (rows.flatMap (fun y => d.rowSectors (p.a.at p.begun) y.2)).eraseDups
      s1.xlate n 5 false [{ handle := e.hA, pdom := d.pdom, write := false, sectors := tsec }] = .ok →
      let cache := (s.cacheRows c d (p.a.at p.begun) rows r.rowCache).1
      let tile := d.gather (cachedByte cache) (p.a.at p.begun) rows
      ∃ t, exec (.screeRepeatBegin n Ecc.clean) s = .next t ∧ began t 5 ∧ t.mem = s.mem ∧
        (∀ k, e.gatherQueue = some k → ((t.range n).queue k).entries = (r.queue k).entries ++ [{ tile := tile, full := false, station := 5 }]) ∧
        (∀ k, e.gatherTreg = some k → (t.range n).regWrites = r.regWrites ++ [{ station := 5, seq := p.seq, treg := k, tile := tile }]))

/-- TILE_FULL, DRAIN_READOUT_END, DRAIN_TILE_FULL, STAGED_TILE_MOVE, MARK_ACCEPTED, PAGE_WALK_DONE and INSTRUCTION_COMPLETE. -/
def Obligations.RepeatsEnd : Prop :=
  ∀ (s : State) (n : Fin 16) (x : Stream) (p : Placed), s.shaped = true →
    let r := s.range n
    let did (l : List Placed) (seq : Nat) : List Placed := l.map (fun q => if q.seq = seq then { q with done := q.done + 1 } else q)
    let kept (t : State) : Prop := (∀ k, k ≠ n.val → t.range k = s.range k) ∧ t.mem = s.mem ∧ t.ctxs = s.ctxs ∧ t.swite = s.swite
    let came (t : State) (st : Fin 8) (q : Option QId) (treg : Option Nat) : Prop := kept t ∧ t.csr = s.csr ∧
      (t.range n).seqOf st = did (r.seqOf st) p.seq ∧
      (∀ k, q = some k → ((t.range n).queue k).entries = fillWith st none (r.queue k).entries) ∧
      (∀ k w, treg = some k → r.regWrites.find? (fun w => decide (w.station = st.val) && decide (w.seq = p.seq)) = some w → w.tile.fmt ≠ .fp64 →
        (t.range n).treg w.treg = w.tile ∧ (t.range n).regWrites = r.regWrites.erase w)
    (s.streamOn n = some x → r.col.find? (fun q => decide (q.done < q.begun)) = some p → s.txnsOf (.col n p.seq p.done) = 0 →
      (∀ g ∈ r.staged, g.seq ≠ p.seq) → r.hostReps = [] → ∃ t, exec (.tileFull n 1) s = .next t ∧ came t 1 p.ins.loadQueue p.ins.loadTreg) ∧
    (r.spur.find? (fun q => decide (q.done < q.begun)) = some p → p.ins.sop ≠ some .idle →
      ∃ t, exec (.tileFull n 3) s = .next t ∧ came t 3 p.ins.spurOutQueue p.ins.spurOutTreg) ∧
    (r.scree.find? (fun q => decide (q.done < q.begun)) = some p → p.ins.sop = some .gather →
      ∃ t, exec (.tileFull n 5) s = .next t ∧ came t 5 p.ins.gatherQueue p.ins.gatherTreg) ∧
    (r.drainsOut ≤ b2n r.drainUnit.busy → exec (.tileFull n 2) s = .next s ∧ exec (.drainTileFull n) s = .next s) ∧
    (b2n r.drainUnit.busy < r.drainsOut → (∀ w ∈ r.regWrites, w.station ≠ 2) → ∃ t, exec (.drainTileFull n) s = .next t ∧ kept t ∧
      t.csr = s.csr ∧ (t.range n).drain.entries = fillWith 2 none r.drain.entries ∧ (t.range n).crest = r.crest) ∧
    (r.drainUnit.busy = false → exec (.drainReadoutEnd n) s = .next s) ∧
    (r.drainUnit.busy = true → ∃ t, exec (.drainReadoutEnd n) s = .next t ∧ kept t ∧ t.csr = s.csr ∧
      t.range n = { r with drainUnit := { r.drainUnit with busy := false } }) ∧
    (∀ g rest q, s.streamOn n = some x → r.col.head? = some p → r.staged = g :: rest → r.halted = false → p.seq = g.seq → p.done = g.rep →
      s.txnsOf (.col n p.seq g.rep) = 0 → s.repHeld n p g.rep = false → p.ins.loadQueue = some q → r.full (some q) g.tile.fmt = false →
      s.tregBlocked n x.ctx p = false → r.hostReps = [] → (∀ y ∈ (r.queue q).entries, y.full = true) →
      ∃ t, exec (.stagedTileMove n) s = .next t ∧ kept t ∧ t.csr = s.csr ∧ (t.range n).staged = rest ∧ (t.range n).col = did r.col p.seq ∧
        ((t.range n).queue q).entries = (r.queue q).entries ++ [{ tile := g.tile, full := true, station := 1 }]) ∧
    (∀ a, r.marks.find? (fun a => !a.accepted) = some a → ∃ t, exec (.markAccepted n) s = .next t ∧ kept t ∧ t.csr = s.csr ∧
      (t.range n).marks = acceptMark r.marks ∧ (t.range n).talus = did r.talus a.seq) ∧
    (∀ (st : Fin 8) w, st = 1 ∨ st = 4 ∨ st = 5 → s.streamOn n = some x → r.walks.find? (fun w => decide (w.station = st.val)) = some w →
      (∀ c f, s.ctx x.ctx = some c → c.leaf w.va = some f → ∃ t, exec (.pageWalkDone n st) s = .next t ∧ kept t ∧ t.csr = s.csr ∧
        (t.range n).walks = r.walks.erase w ∧ (t.range n).tlb st = tlbInsert (r.tlb st) x.ctx f false) ∧
      (∀ c, s.ctx x.ctx = some c → c.leaf w.va = none → (r.seqOf st).head? = some p → p.seq = w.seq → p.begun = w.rep → x.admitted = true →
        ∃ t, exec (.pageWalkDone n st) s = .next t ∧ t.stopped x ∧ t.mem = s.mem ∧ (bitOf x.mask n = true →
          t.rdF (Reg.RANGE_STREAM_STATUS n) Fld.RANGE_STREAM_STATUS_STOP_STATUS = St.translationFault))) ∧
    (∀ st : Fin 8, (r.seqOf st).head? = some p → p.isWait = false → r.fence = none →
      (p.done < p.ins.rep → exec (.instructionComplete n st) s = .next s) ∧
      (p.ins.rep ≤ p.done → ∃ t, exec (.instructionComplete n st) s = .next t ∧ kept t ∧ (t.range n).seqOf st = (r.seqOf st).drop 1 ∧
        (∀ k, k ≠ st.val → (t.range n).seqOf k = r.seqOf k) ∧ (t.range n).tiles = r.tiles ∧ (t.range n).bank0 = r.bank0 ∧
        (t.range n).bank1 = r.bank1 ∧ (p.ins.sop = some .mma → (t.range n).statA = none ∧ (t.range n).statB = none)))

/-- STREAM_END, NO_PROGRESS, LOCKSTEP_START_INSTANT and SLOT_START. -/
def Obligations.StreamsEndAndSlots : Prop :=
  ∀ (s : State) (n : Fin 16) (x : Stream), s.shaped = true → s.streamOn n = some x → x.admitted = true →
    let finished : Prop := ∀ k ∈ maskBits x.mask 16, (s.range k).finished x.image.code = true
    let due (i : Nat) : Nat := i + cyclesAt (x.slot * (x.image.cSlot + x.image.cGuard)) x.fL
    (¬ finished → exec (.streamEnd n) s = .next s) ∧
    (finished → (∀ k ∈ maskBits x.mask 16, (s.range k).heldQueue = none) → ∃ t, exec (.streamEnd n) s = .next t ∧ t.stream x.id = none ∧
      (∀ k ∈ maskBits x.mask 16, t.rangeState k = 1 ∧ (t.range k).stream = none ∧ (t.range k).tiles = (s.range k).tiles ∧
        (t.range k).bank0 = (s.range k).bank0 ∧ (t.range k).bank1 = (s.range k).bank1) ∧ t.mem = s.mem ∧
      (∀ lane tag, x.starter = .command lane tag → lane = .mgmt ∨ s.dataUp = true →
        ∃ r ∈ t.swite.replies, r.tag = tag ∧ r.ctx = x.ctx ∧ r.opcode = Op.streamStart ∧ r.status = St.done ∧ r.final = true)) ∧
    (finished → (∃ k ∈ maskBits x.mask 16, (s.range k).heldQueue.isSome = true) → ∃ t, exec (.streamEnd n) s = .next t ∧ t.stopped x ∧
      t.mem = s.mem ∧ ∀ k ∈ maskBits x.mask 16, ((s.range k).heldQueue.isSome = true → t.faulted k 0x02) ∧
        ((s.range k).heldQueue = none → t.faulted k 0x09)) ∧
    (let late : Prop := s.clk < x.progress + us (s.rdF Reg.TRAVERSE_PROGRESS_TIMEOUT Fld.TRAVERSE_PROGRESS_TIMEOUT_TIMEOUT_US)
     (x.lockstep = true ∨ late → exec (.noProgress n) s = .next s) ∧
     (x.lockstep = false → ¬ late → (∀ k ∈ maskBits x.mask 16, (s.range k).halted = false) → ∃ t, exec (.noProgress n) s = .next t ∧ t.stopped x ∧
       t.mem = s.mem ∧ ∀ k ∈ maskBits x.mask 16, t.faulted k 0x01)) ∧
    (let ripe : Prop := x.lockstep = true ∧ x.startAt = none ∧ x.progress + cyclesAt x.image.cFill x.fL ≤ s.clk ∧
       ∀ k ∈ maskBits x.mask 16, ∀ i ∈ rangeIslands k, (s.island i).kHz = x.fL
     (¬ ripe → exec (.lockstepStartInstant n) s = .next s) ∧
     (ripe → ∃ t, exec (.lockstepStartInstant n) s = .next t ∧ t.stream x.id = some { x with startAt := some s.clk } ∧ t.csr = s.csr ∧
       t.ranges = s.ranges ∧ t.mem = s.mem)) ∧
    (∀ i ecc, x.startAt = some i →
      (x.lockstep = false ∨ s.clk < due i → exec (.slotStart n ecc) s = .next s) ∧
      (x.lockstep = true → due i ≤ s.clk →
        ((∀ k ∈ maskBits x.mask 16, (s.range k).inFlight = [] ∧ x.image.code.length ≤ (s.range k).pc) → ∃ t, exec (.slotStart n ecc) s = .next t ∧
          t.stream x.id = some { x with slot := x.slot + 1 } ∧ t.csr = s.csr ∧ t.ranges = s.ranges ∧ t.mem = s.mem) ∧
        (∀ p q, maskBits x.mask 16 = [n.val] → x.image.code.length ≤ (s.range n).pc → (s.range n).inFlight = [(2, p)] → p.ins.sop = some .mma →
          p.isWait = false → p.begun < p.ins.rep → p.done < p.ins.rep → s.armed n = none → p.ins.queueA = some q → p.ins.keptA p.begun = false →
          (s.range n).front q = none → ∃ t, exec (.slotStart n ecc) s = .next t ∧ t.stopped x ∧ t.mem = s.mem ∧
            t.rdF (Reg.RANGE_STREAM_STATUS n) Fld.RANGE_STREAM_STATUS_STOP_STATUS = St.slotMiss ∧
            t.rdF (Reg.RANGE_STOP_DETAIL n) Fld.RANGE_STOP_DETAIL_STATION = 2 ∧ t.rdF (Reg.RANGE_STOP_DETAIL n) Fld.RANGE_STOP_DETAIL_CONDITION = 1)))

/-- LINK.SEND and LINK.RECV at the link interface, POSTING_START, MESSAGE_LAND and REDUCTION_FRAME. After the last two, READY is asked
again of every context (`checkAll`). -/
def Obligations.LinksAndReductions : Prop :=
  (∀ (s : State) (n : Fin 16) (x : Stream) (p : Placed) (c : Ctx) (ch : Channel), s.shaped = true → s.ctx x.ctx = some c → s.ready n 7 x p →
    s.channel (p.ins.m 32 8) = some ch →
    let r := s.range n
    let head (t : State) (b d : Nat) : Prop := ∃ q l, (t.range n).link = q :: l ∧ q.ins = p.ins ∧ q.begun = b ∧ q.done = d
    (∀ d q, p.ins.sop = some .send → c.desc p.ins.hA = some d → d.coordOut (p.a.at p.begun) = false → s.mem.poison = [] → ch.kind ≠ 2 →
      s.routeTo ch.peer = some q → ∃ t f, exec (.linkSend n .run Ecc.clean) s = .next t ∧ head t (p.begun + 1) (p.done + 1) ∧ t.mem = s.mem ∧
        (t.chan ch.number).sent = (s.chan ch.number).sent + 1 ∧ (f ∈ (t.port q).txq ∨ ∃ w ∈ t.sent, w.port = q ∧ w.frame = f) ∧
        f.typ = 1 ∧ f.cls = ch.cls ∧ f.channel = ch.number ∧ f.dest = ch.peer ∧ f.msg = (s.chan ch.number).sent % 65536) ∧
    (p.ins.sop = some .recv → p.done = p.begun →
      (∀ k, (s.chan (p.ins.m 32 8)).nextClaim = some k → ∃ t, exec (.linkRecv n .run) s = .next t ∧ head t (p.begun + 1) (p.done + 1) ∧
        t.chan (p.ins.m 32 8) = (s.chan (p.ins.m 32 8)).claim k ∧ t.mem = s.mem) ∧
      ((s.chan (p.ins.m 32 8)).nextClaim = none → ∃ t, exec (.linkRecv n .run) s = .next t ∧ head t (p.begun + 1) p.done ∧
        t.channels = s.channels ∧ t.mem = s.mem)) ∧
    (p.ins.sop = some .lreduce → s.saddle.posted = [] →
      (∀ ecc, p.ins.m 16 16 ≠ 0xFFFF → (∀ a ∈ r.marks, a.accepted = false) → exec (.postingStart n 0 ecc) s = .next (s.on s.checkAll)) ∧
      (∀ d, p.ins.m 16 16 = 0xFFFF → p.ins.m 11 1 = 0 → c.desc p.ins.hA = some d → ch.reduce.algo = 0 → s.saddle.partials = [] → s.mem.poison = [] → 1 ≤ p.ins.rep →
        (∀ k < p.ins.rep, d.coordOut (p.a.at k) = false ∧ d.inside (p.a.at k) ≠ []) →
        ∃ t po, exec (.postingStart n 0 Ecc.clean) s = .next t ∧ po ∈ t.saddle.posted ∧ po.range = n ∧ po.ctx = x.ctx ∧ po.seq = p.seq ∧
          po.hA = p.ins.hA ∧ po.hD = p.ins.hD ∧ po.rep = p.ins.rep ∧ 0 < po.read ∧ t.mem = s.mem))) ∧
  (∀ (s : State) (k : Fin 256) (ch : Channel) (x : Message) (ecc : Ecc), s.channel k = some ch → ch.kind = 1 →
    s.messages.find? (fun y => decide (y.channel = k.val) && y.complete) = some x →
    let stale : Prop := older (x.step, x.attempt) (s.currentAttempt ch.ctx) = true
    let waits : Prop := ch.slots ≤ x.number ∧ (s.chan k).slotFreed (x.number - ch.slots) = false
    (stale → ∃ t, exec (.messageLand k ecc) s = .next t ∧ t.messages = s.messages.erase x ∧ t.mem = s.mem ∧ t.channels = s.channels) ∧
    (¬ stale → waits → exec (.messageLand k ecc) s = .next s) ∧
    (¬ stale → ¬ waits → s.messageBad ch x = true → ∃ t, exec (.messageLand k ecc) s = .next t ∧ t.messages = s.messages.erase x ∧ t.mem = s.mem) ∧
    (∀ c d, ¬ waits → s.messageBad ch x = false → s.ctx ch.ctx = some c → s.descOf ch.ctx ch.land = some d →
      ∃ t, exec (.messageLand k ecc) s = .next t ∧ t.messages = s.messages.erase x ∧ t.mem = (s.landMessage c d (x.number % ch.slots) x ecc).mem ∧
        ((∀ n < 16, (s.range n).link = []) → (t.chan k).landed = (s.chan k).landed ++ [x.number]))) ∧
  (∀ (s : State) (p : Fin 32) (ecc : Ecc), s.shaped = true →
    ((s.port p).reduceIn.find? s.takesFrame = none → exec (.reductionFrame p ecc) s = .next (s.on s.checkAll)) ∧
    (∀ f, (s.port p).reduceIn.find? s.takesFrame = some f →
      let u := SubHdr.ofBytes f.payload
      let stale : Prop := older (u.step, u.attempt) (s.currentAttempt (s.reduceCtx (frameKey f))) = true
      (stale → ∃ t g, exec (.reductionFrame p ecc) s = .next t ∧ (t.port p).reduceIn = (s.port p).reduceIn.erase f ∧ t.sent = s.sent ++ [g] ∧
        g.port = p.val ∧ g.frame.credCls = 1 ∧ g.frame.credit = 1 ∧ t.mem = s.mem ∧ t.saddle = s.saddle) ∧
      (∀ ch po d, ¬ stale → s.channel f.channel = some ch → s.postingOf (frameKey f) = some po → (s.ctx po.ctx).bind (fun x => x.desc po.hA) = some d →
        u.result = false → ch.reduce.algo = 0 → po.buf = [] → po.rep ≤ po.read → (s.range po.range).link = [] → po.stored = [] → 1 ≤ po.rep →
        ∃ t, exec (.reductionFrame p ecc) s = .next t ∧ (t.port p).reduceIn = (s.port p).reduceIn.erase f ∧ t.mem = s.mem ∧
          t.partialOf (frameKey f) u.rep false =
            addCells po.norm (s.partialOf (frameKey f) u.rep false) (frameCells f ((po.places d u.rep).map (fun q => 128 * q.1 + q.2))))))

/-- FABRIC_PLAN, CIRCUIT_SET_APPLIED, LINK_STATUS, FABRIC_DISCOVER, LIGHT_APPEARS, PORT_TRAINED, IDENTITY_FRAME, IDENTITY_TIMEOUT,
PORT_UP, PORT_KEY_EXCHANGE, KEY_EPOCH_ROLL and TIMESTAMP_EXCHANGE. -/
def Obligations.PlansAndPorts : Prop :=
  (∀ (s : State) (h : Hdr) (payload : List Byte), s.shaped = true → s.begins Op.fabricPlan h [] →
    let q := s.took Op.fabricPlan h
    let run := exec (.fabricPlan h payload) s
    let check := planCheck payload (s.rdF Reg.MODULE_COMPAT Fld.MODULE_COMPAT_LEVEL_MIN) (s.rdF Reg.MODULE_COMPAT Fld.MODULE_COMPAT_LEVEL_MAX)
    (s.meshBusy = true → run = .next (s.on (q.answer h Op.fabricPlan St.busy))) ∧
    (∀ c, s.meshBusy = false → check = .error c → run = .next (s.on (q.answer h Op.fabricPlan St.badParam c))) ∧
    (∀ pl, s.meshBusy = false → check = .ok pl →
      (s.linkHeld pl = true → run = .next (s.on (q.answer h Op.fabricPlan St.busy))) ∧
      (s.linkHeld pl = false → s.mem.sealed ≠ [] → pl.clearPort = true → run = .next (s.on (q.answer h Op.fabricPlan St.notPermitted))) ∧
      (s.linkHeld pl = false → s.mem.sealed = [] ∨ pl.clearPort = false → ∃ t a, run = .next t ∧ t.optics.applying = some a ∧ a.plan = some pl ∧
        a.circuits = pl.circuits ∧ a.tag = h.tag ∧ t.rdF Reg.CIRQUE_STATUS Fld.CIRQUE_STATUS_APPLYING = 1 ∧ t.plan = s.plan ∧ t.mem = s.mem ∧
        t.swite.replies = s.swite.replies ∧ ∀ p < 32, t.port p = if portChanged s.plan pl p then { s.port p with changed := true } else s.port p))) ∧
  (∀ (s : State), (s.optics.applying = none → exec .circuitSetApplied s = .next s) ∧
    (∀ a, s.optics.applying = some a → a.lane = .mgmt ∨ s.dataUp = true → ∃ t r, exec .circuitSetApplied s = .next t ∧ t.optics.applying = none ∧
      t.rdF Reg.CIRQUE_STATUS Fld.CIRQUE_STATUS_APPLYING = 0 ∧ (∀ pl, a.plan = some pl → t.plan = some pl) ∧
      (a.plan = none → t.plan = s.plan ∧ t.optics.circuits = a.circuits) ∧
      r ∈ t.swite.replies ∧ r.tag = a.tag ∧ r.opcode = a.opcode ∧ r.status = St.done ∧ r.final = true)) ∧
  (∀ (s : State) (h : Hdr) (mask : Nat), s.begins Op.linkStatus h (leBytes mask 4) →
    exec (.linkStatus h mask) s = .next (s.on ((s.took Op.linkStatus h).answer h Op.linkStatus St.done 0 ((maskBits mask 32).flatMap (fun p =>
      leBytes (s.rd (Reg.PORT_STATUS p)).toNat 4 ++ leBytes (s.rd (Reg.PORT_PEER_INFO p)).toNat 4 ++
        leBytes (s.port p).reported.1 1 ++ [0, 0, 0] ++ leBytes (s.port p).reported.2 4))))) ∧
  (∀ (s : State) (h : Hdr), s.shaped = true → s.begins Op.fabricDiscover h [] → s.fabricOk = true → s.cairn.waits = [] →
    let trains (p : Nat) : Prop := p < 32 ∧ (s.port p).light = true ∧ (s.portState p ≠ 0 ∨ s.plan = none)
    ((∃ p, trains p) → ∃ t w, exec (.fabricDiscover h) s = .next t ∧ (∀ p, trains p → t.portState p = 1 ∧ (t.port p).discovered = false) ∧
      t.cairn.waits = [w] ∧ w.tag = h.tag ∧ w.what = .discovery ∧ t.swite.replies = s.swite.replies) ∧
    ((∀ p < 32, (s.port p).light = false) → ∃ t r, exec (.fabricDiscover h) s = .next t ∧ t.cairn.waits = [] ∧
      t.swite.replies = s.swite.replies ++ [r] ∧ r.tag = h.tag ∧ r.status = St.done ∧ r.final = true ∧ r.data.length = 512)) ∧
  (∀ (s : State) (p : Fin 32), s.shaped = true →
    let e := s.portEntry p
    let x := s.port p
    let identity (t : State) : Prop := ∃ f, (f ∈ (t.port p).txq ∨ ∃ w ∈ t.sent, w.port = p.val ∧ w.frame = f) ∧ f.typ = 3 ∧ f.cls = 0 ∧ f.payload = s.identityOf p
    (x.light = true → s.portState p ≠ 6 → exec (.lightAppears p) s = .next s) ∧
    (x.light = false ∨ s.portState p = 6 → 4 ≤ s.stage → s.fabricOk = true → s.plan = none ∨ e.role ≠ 0 → ∃ t, exec (.lightAppears p) s = .next t ∧
      t.portState p = 1 ∧ (t.port p).light = true ∧ (t.port p).discovered = false ∧ (t.port p).lightAt = s.clk) ∧
    (s.portState p ≠ 1 → exec (.portTrained p) s = .next s) ∧
    (s.portState p = 1 → ∃ t, exec (.portTrained p) s = .next t ∧ t.portState p = 2 ∧ (t.port p).trained = true ∧ identity t) ∧
    (∀ i, s.portState p = 0 ∨ s.portState p = 1 ∨ s.portState p = 6 → exec (.identityFrame p i) s = .next s) ∧
    (∀ i : Identity, s.portState p = 2 → x.matched = false → (∀ k < 4, p.val / 4 * 4 + k ≠ p.val → (s.port (p.val / 4 * 4 + k)).peer = none) →
      ∃ t, exec (.identityFrame p i) s = .next t ∧ (t.port p).peer = some i ∧ (t.port p).discovered = true ∧
        t.rd (Reg.PORT_PEER_SERIAL_LO p) = BitVec.ofNat 32 i.serial ∧
        (s.plan = none → s.commonRev i ≠ none → t.portState p = 2) ∧
        (s.plan = none → s.commonRev i = none → t.portState p = 7 ∧ (t.port p).reported.1 = St.linkVersion) ∧
        (∀ pl, s.plan = some pl → e.role ≠ 0 →
          (s.commonRev i = none → t.portState p = 7 ∧ (t.port p).reported.1 = St.linkVersion) ∧
          (s.commonRev i ≠ none → (i.linkTag = none ∨ i.encrypt = e.encrypt) →
            (i.serial = e.peerSerial → i.port / 4 = e.peerPort / 4 → t.portState p = 3 ∧ (t.port p).matched = true) ∧
            (¬ (i.serial = e.peerSerial ∧ i.port / 4 = e.peerPort / 4) → pl.crossedWith p i = none →
              t.portState p = 8 ∧ (t.port p).reported.1 = St.cablingMismatch)))) ∧
    (x.discovered = true ∨ s.clk < x.lightAt + ms 100 → exec (.identityTimeout p) s = .next s) ∧
    (s.portState p = 1 ∨ s.portState p = 2 → x.discovered = false → x.lightAt + ms 100 ≤ s.clk → ∃ t, exec (.identityTimeout p) s = .next t ∧
      (t.port p).discovered = true ∧ (t.port p).peer = none ∧ (e.role ≠ 0 → t.portState p = 6 ∧ (t.port p).reported = (St.linkDown, p.val))) ∧
    (let up : Prop := s.portState p = 3 ∧ s.plan ≠ none ∧ e.role ≠ 0 ∧ x.matched = true ∧ x.peer.bind (fun i => i.linkTag) = some e.linkTag ∧
       (e.encrypt = true → x.keyed = true)
     (¬ up → exec (.portUp p) s = .next s) ∧
     (up → ∃ t, exec (.portUp p) s = .next t ∧ t.portState p = 4 ∧ t.rd (Reg.PORT_SADDLE_FMT p) = saddleFmt (s.revision p) ∧
       t.encrypted p = e.encrypt ∧ t.mem = s.mem)) ∧
    (∀ k : KeyEx, s.portState p = 3 → e.encrypt = true → x.keyed = false →
      let bad : Prop := k.chainOk = false ∨ k.sigOk = false ∨ k.serial ≠ e.peerSerial ∨ (s.trust = 2 ∧ (k.trusted = false ∨ k.owner ≠ s.ownerDigest))
      (bad → ∃ t, exec (.portKeyExchange p k) s = .next t ∧ (t.port p).keyed = false ∧ t.rdF (Reg.CAIRN_PORT_KEY p) Fld.CAIRN_PORT_KEY_STATE = 3 ∧
        (t.port p).reported = (St.attestFail, p.val) ∧ t.portState p = 3) ∧
      (¬ bad → ∃ t, exec (.portKeyExchange p k) s = .next t ∧ (t.port p).keyed = true ∧ (t.port p).keyEpoch = 1 ∧
        t.rdF (Reg.CAIRN_PORT_KEY p) Fld.CAIRN_PORT_KEY_STATE = 2 ∧ t.portState p = 3)) ∧
    (x.keyed = false ∨ (x.framesUnderKey < 2 ^ 36 ∧ s.clk < x.keyedAt + secs 86400) → exec (.keyEpochRoll p) s = .next s) ∧
    (x.keyed = true → ¬ (x.framesUnderKey < 2 ^ 36 ∧ s.clk < x.keyedAt + secs 86400) → ∃ t, exec (.keyEpochRoll p) s = .next t ∧
      (s.revision p = 7 → (t.port p).keyed = true ∧ (t.port p).keyEpoch = x.keyEpoch + 1 ∧ t.portState p = s.portState p) ∧
      (s.revision p ≠ 7 → (t.port p).keyed = false ∧ t.portState p = 3)) ∧
    (∀ t1 t2 t3 t4 parent : Int, (s.revision p < 6 → exec (.timestampExchange p t1 t2 t3 t4 parent) s = .next s) ∧
      (6 ≤ s.revision p → s.portState p = 3 ∨ s.portState p = 4 → ∃ t, exec (.timestampExchange p t1 t2 t3 t4 parent) s = .next t ∧
        t.rd (Reg.PORT_TIME_OFFSET p) = BitVec.ofInt 32 (((t2 - t1) - (t4 - t3)).tdiv 2) ∧ t.portState p = s.portState p ∧
        (∀ pl, s.plan = some pl → pl.rank ≠ 0 → (pl.port p).timingParent = true →
          t.rd Reg.TRAVERSE_GROUP_OFFSET = BitVec.ofInt 32 (((t2 - t1) - (t4 - t3)).tdiv 2 + parent)))))

/-- FRAME_RECEIVE, REPLAY_REQUEST, LANE_LOSS, LANE_REALIGN, LANE_DROP and PORT_DOWN_TIMEOUT. EPOCH_MARKER, EPOCH_BOUNDARY, TB_CLK_LOSS and TB_REFERENCE_RETURN. -/
def Obligations.LinkLevelAndTimebase : Prop :=
  (∀ (s : State) (p : Fin 32), s.shaped = true →
    let x := s.port p
    let good : FrameRx := { corrected := 0, dropped := false, hcrcOk := true, fcrcOk := true, tagOk := true }
    let askedAgain (t : State) : Prop := (t.port p).waitReplay = true ∧ (t.port p).rxExpect = x.rxExpect ∧
      ∃ f, (f ∈ (t.port p).txq ∨ ∃ w ∈ t.sent, w.port = p.val ∧ w.frame = f) ∧ f.typ = 2 ∧ f.cls = 0 ∧ f.payload = leBytes x.rxExpect 3
    (∀ f rx, s.portState p = 4 → x.waitReplay = false → rx.dropped = true ∨ rx.hcrcOk = false →
      ∃ t, exec (.frameReceive p f rx) s = .next t ∧ askedAgain t ∧ t.mem = s.mem ∧ t.messages = s.messages) ∧
    (∀ f, s.portState p = 4 → x.waitReplay = false → s.isLocal f.dest = true → s.encrypted p = false →
      ∃ t, exec (.frameReceive p f { good with fcrcOk := false }) s = .next t ∧ askedAgain t ∧ t.messages = s.messages) ∧
    (∀ f, s.portState p = 4 → s.encrypted p = false → f.typ ≠ 0 → f.seq ≠ x.rxExpect →
      (x.waitReplay = true ∨ seqLe f.seq x.rxLast = true → exec (.frameReceive p f good) s = .next (s.on (s.addF (Reg.PORT_FEC_CORRECTED p) Fld.PORT_FEC_CORRECTED_COUNT 0))) ∧
      (x.waitReplay = false → seqLe f.seq x.rxLast = false → ∃ t, exec (.frameReceive p f good) s = .next t ∧ askedAgain t ∧ t.messages = s.messages)) ∧
    (∀ f, s.portState p = 4 → s.encrypted p = false → f.typ = 3 → f.cls = 0 → f.seq = x.rxExpect → f.stomp = false → s.plan = none →
      ∃ t, exec (.frameReceive p f good) s = .next t ∧ (t.port p).rxExpect = (f.seq + 1) % 16777216 ∧ (t.port p).rxLast = f.seq ∧
        (t.port p).waitReplay = false ∧ (t.port p).lastInOrder = s.clk ∧ t.messages = s.messages ∧ t.mem = s.mem) ∧
    (∀ f q, s.portState p = 4 → s.encrypted p = false → f.typ = 1 → f.seq = x.rxExpect → f.stomp = false → s.isLocal f.dest = false →
      s.routeTo f.dest = some q → 1 ≤ f.hops → ∃ t g, exec (.frameReceive p f good) s = .next t ∧ (t.port p).rxExpect = (f.seq + 1) % 16777216 ∧
        (g ∈ (t.port q).txq ∨ ∃ w ∈ t.sent, w.port = q ∧ w.frame = g) ∧ g.typ = 1 ∧ g.dest = f.dest ∧ g.src = f.src ∧ g.hops = f.hops - 1 ∧
        g.payload = f.payload ∧ t.messages = s.messages ∧ t.mem = s.mem) ∧
    (∀ f, s.portState p = 4 → s.encrypted p = false → f.typ = 1 → f.seq = x.rxExpect → f.stomp = false → s.isLocal f.dest = false →
      s.routeTo f.dest = none ∨ f.hops = 0 → ∃ t, exec (.frameReceive p f good) s = .next t ∧ (t.port p).rxExpect = (f.seq + 1) % 16777216 ∧
        t.messages = s.messages ∧ t.mem = s.mem) ∧
    (∀ seq, (s.portState p = 4 ∨ s.portState p = 5 → ∃ t, exec (.replayRequest p seq) s = .next t ∧
        t.sent = s.sent ++ ((x.replay.filter (fun f => seqLe seq f.seq)).map (fun f => SentFrame.mk p f)) ∧ t.ports = s.ports ∧ t.csr = s.csr) ∧
      (s.portState p ≠ 4 → s.portState p ≠ 5 → exec (.replayRequest p seq) s = .next s)) ∧
    (∀ lane : Fin 8, (x.lanesDown.any (fun y => decide (y.1 = lane.val)) = true ∨ lane.val ∈ x.lanesOut ∨ s.portState p < 2 ∨ 5 < s.portState p →
        ∀ ring, exec (.laneLoss p lane ring) s = .next s) ∧
      (s.portState p = 4 → x.lanesDown.any (fun y => decide (y.1 = lane.val)) = false → lane.val ∉ x.lanesOut →
        ∃ t, exec (.laneLoss p lane false) s = .next t ∧ t.portState p = 5 ∧ (t.port p).lanesDown = x.lanesDown ++ [(lane.val, s.clk)] ∧ t.mem = s.mem) ∧
      (x.lanesDown.any (fun y => decide (y.1 = lane.val)) = false ∨ s.ringCode { rx := true, port := p, line := lane } ≠ 1 →
        exec (.laneRealign p lane) s = .next s) ∧
      (∀ t0, x.lanesDown = [(lane.val, t0)] → s.ringCode { rx := true, port := p, line := lane } = 1 → s.portState p = 5 →
        ∃ t, exec (.laneRealign p lane) s = .next t ∧ t.portState p = 4 ∧ (t.port p).lanesDown = [] ∧ t.mem = s.mem) ∧
      (∀ t0, x.lanesDown = [(lane.val, t0)] → s.portState p = 5 →
        (s.clk < t0 + ms 1 ∨ (maskBits (s.laneSet true p) 8).length < (s.portEntry p).laneMin → exec (.laneDrop p lane) s = .next s) ∧
        (t0 + ms 1 ≤ s.clk → (s.portEntry p).laneMin ≤ (maskBits (s.laneSet true p) 8).length → ∃ t, exec (.laneDrop p lane) s = .next t ∧
          t.portState p = 4 ∧ (t.port p).lanesDown = [] ∧ t.mem = s.mem))) ∧
    (let dead : Prop := x.lastInOrder + ms (s.rdF (Reg.PORT_CFG p) Fld.PORT_CFG_DOWN_MS) ≤ s.clk ∨ ∃ t0, x.lowSince = some t0 ∧ t0 + ms 1 ≤ s.clk
     (¬ dead ∨ (s.portState p ≠ 4 ∧ s.portState p ≠ 5) → exec (.portDownTimeout p) s = .next s) ∧
     (dead → s.portState p = 4 ∨ s.portState p = 5 → ∃ t, exec (.portDownTimeout p) s = .next t ∧ t.portState p = 6 ∧
       (t.port p).reported = (St.linkDown, p.val) ∧ t.rdF (Reg.PORT_STATUS p) Fld.PORT_STATUS_DOWN_EVENT = 1 ∧ (t.port p).replay = []))) ∧
  (∀ s : State,
    let b := s.timebase
    let locked := s.rdF Reg.TRAVERSE_TIMEBASE_STATUS Fld.TRAVERSE_TIMEBASE_STATUS_LOCKED
    let held (t : State) : Prop := t.timebase.holdover = true ∧ t.timebase.ticks = b.ticks ∧ t.mem = s.mem ∧ t.ctxs = s.ctxs ∧
      t.rdF Reg.TRAVERSE_TIMEBASE_STATUS Fld.TRAVERSE_TIMEBASE_STATUS_TB_LOST = 1
    (∀ e ok, s.rackMaster = true ∨ b.holdover = true → exec (.epochMarker e ok) s = .next s) ∧
    (∀ e, s.rackMaster = false → b.holdover = false →
      (∀ l, b.lastEpoch = some l → e = l + 1 → locked ≠ 1 → ∃ t, exec (.epochMarker e true) s = .next t ∧
        t.timebase.ticks = BitVec.ofNat 64 (156250 * e + 1280) ∧ t.rdF Reg.TRAVERSE_TIMEBASE_STATUS Fld.TRAVERSE_TIMEBASE_STATUS_LOCKED = 1) ∧
      (b.lastEpoch.map (fun l => l + 1) ≠ some e ∨ locked = 1 → ∃ t, exec (.epochMarker e true) s = .next t ∧ t.csr = s.csr ∧
        t.timebase = { b with badFrames := 0, lastEpoch := some e }) ∧
      (b.badFrames = 0 → ∃ t, exec (.epochMarker e false) s = .next t ∧ t.csr = s.csr ∧ t.timebase = { b with badFrames := 1, lastEpoch := none }) ∧
      (1 ≤ b.badFrames → ∃ t, exec (.epochMarker e false) s = .next t ∧ held t)) ∧
    (let e := b.ticks.toNat / 156250
     (e ≤ b.epochSent → exec .epochBoundary s = .next s) ∧
     (b.epochSent < e → s.ctxs.length = 16 → ∃ t, exec .epochBoundary s = .next t ∧ t.timebase = { b with epochSent := e } ∧ t.csr = s.csr ∧
       ∀ c < 16, ∀ x, s.ctx c = some x → t.ctx c = some (if s.rdF (Reg.TRAVERSE_SERVE_CFG c) Fld.TRAVERSE_SERVE_CFG_PERIODIC = 1 then
         { x with p0 := some (x.p0.getD (64 * 156250 * e)) } else x))) ∧
    (s.rackMaster = true ∨ b.holdover = true → exec .tbClkLoss s = .next s) ∧
    (s.rackMaster = false → b.holdover = false → ∃ t, exec .tbClkLoss s = .next t ∧ held t) ∧
    (∀ r, (b.holdover = false → exec (.tbReferenceReturn r) s = .next s) ∧
      (b.holdover = true → ∃ t, exec (.tbReferenceReturn r) s = .next t ∧ t.timebase.holdover = false ∧ t.csr = s.csr ∧
        (b.ticks.toNat + 156250 < r → t.timebase.ticks = BitVec.ofNat 64 r ∧ t.timebase.slewing = 0) ∧
        (r ≤ b.ticks.toNat + 156250 → t.timebase.ticks = b.ticks ∧ t.timebase.slewing = (r : Int) - (b.ticks.toNat : Int)))))

/-- The laser-source events, MESH_SET, DARK_MAP_WRITE and TRIM_ATTEMPT_DONE. FULL_SWEEP_DONE, TONE_CHECK_DONE and RING_LOCK_LOSS. -/
def Obligations.OpticsAndRings : Prop :=
  ((∀ (s : State) (b : Fin 2),
    let here := s.lsu b Fld.CIRQUE_LSU_STATUS_PRESENT
    let lost (t : State) : Prop := if s.rdF Reg.CIRQUE_LSU_CTL Fld.CIRQUE_LSU_CTL_AUTO = 1 ∧ s.standbyReady = true ∧ s.optics.failing = none
      then t.optics.failing = some s.clk ∧ t.optics.outputsLit = s.optics.outputsLit
      else if s.rdF Reg.CIRQUE_LSU_CTL Fld.CIRQUE_LSU_CTL_AUTO = 1 ∧ s.standbyReady = true then t.optics = s.optics
      else t.optics.outputsLit = false ∧ t.optics.failing = s.optics.failing
    (here = true → ∀ a c d, exec (.lsuInserted b a c d) s = .next s) ∧
    (here = false → ∀ hours low bad, ∃ t, exec (.lsuInserted b hours low bad) s = .next t ∧ t.lsu b Fld.CIRQUE_LSU_STATUS_PRESENT = true ∧
      t.lsu b Fld.CIRQUE_LSU_STATUS_WORN = (decide (43800 < hours) || decide (low % 256 ≠ 0)) ∧ t.rd (Reg.CIRQUE_LSU_HOURS b) = BitVec.ofNat 32 hours) ∧
    (here = false → exec (.lsuStable b) s = .next s ∧ exec (.lsuFault b) s = .next s ∧ exec (.lsuRemoved b) s = .next s ∧ exec (.lsuWorn b) s = .next s) ∧
    (here = true → s.lsu b Fld.CIRQUE_LSU_STATUS_ENABLED = true → ∃ t, exec (.lsuStable b) s = .next t ∧ t.lsu b Fld.CIRQUE_LSU_STATUS_STABLE = true ∧
      (s.opticsStage ≠ 1 → t.opticsStage = s.opticsStage ∧ t.activeBay = s.activeBay) ∧
      (s.opticsStage = 1 → t.opticsStage = 2 ∧ t.optics.outputsLit = true ∧ ∀ r : Ring, t.ringCode r = 0 ∧ (t.ring r).swept = false)) ∧
    (here = true → ∃ t, exec (.lsuFault b) s = .next t ∧ t.lsu b Fld.CIRQUE_LSU_STATUS_FAULT = true ∧ (s.activeBay = b.val → lost t) ∧
      (s.activeBay ≠ b.val → t.standbyReady = false ∧ t.optics = s.optics)) ∧
    (here = true → ∃ t, exec (.lsuRemoved b) s = .next t ∧ t.rd (Reg.CIRQUE_LSU_STATUS b) = 0 ∧ (s.activeBay = b.val → lost t) ∧
      (s.activeBay ≠ b.val → t.standbyReady = false ∧ t.optics = s.optics)) ∧
    (here = true → ∃ t, exec (.lsuWorn b) s = .next t ∧ t.lsu b Fld.CIRQUE_LSU_STATUS_WORN = true ∧ 43800 < (t.rd (Reg.CIRQUE_LSU_HOURS b)).toNat ∧
      t.optics = s.optics) ∧
    (∀ line power, 2200 ≤ power → exec (.lineLoss line power) s = .next s) ∧
    (∀ line power, s.activeBay = b.val → here = true → 2 ≤ s.opticsStage → power < 2200 → ∃ t, exec (.lineLoss line power) s = .next t ∧
      t.lsu b Fld.CIRQUE_LSU_STATUS_WORN = true ∧ lost t) ∧
    (let o := 1 - s.activeBay
     let able : Bool := s.lsu o Fld.CIRQUE_LSU_STATUS_PRESENT && s.lsu o Fld.CIRQUE_LSU_STATUS_STABLE && !s.lsu o Fld.CIRQUE_LSU_STATUS_FAULT &&
       decide (2 ≤ s.opticsStage) && decide (s.opticsStage ≤ 4)
     (able = false → exec .standbyAligned s = .next s) ∧
     (able = true → ∃ t, exec .standbyAligned s = .next t ∧ t.standbyReady = true ∧ t.optics = s.optics ∧ t.activeBay = s.activeBay) ∧
     (s.optics.failing = none → exec .failoverComplete s = .next s) ∧
     (s.optics.failing.isSome = true → ∃ t, exec .failoverComplete s = .next t ∧ t.activeBay = o ∧ t.optics.failing = none ∧
       t.optics.outputsLit = true ∧ t.standbyReady = false ∧ t.rdF Reg.CIRQUE_STATUS Fld.CIRQUE_STATUS_FAILOVER = 1))) ∧
  (∀ (s : State) (h : Hdr) (mode n : Nat) (rx : List Nat) (l : List Word), s.begins Op.meshSet h (leBytes mode 1 ++ leBytes n 1) →
    let q := s.took Op.meshSet h
    let run := exec (.meshSet h mode n rx l) s
    let bad (i : Nat) : Prop := run = .next (s.on (q.answer h Op.meshSet St.badParam i))
    (s.plan.isSome = true ∨ s.meshBusy = true → run = .next (s.on (q.answer h Op.meshSet St.busy))) ∧
    (s.plan = none → s.meshBusy = false → (1 < mode → bad 0) ∧
      (mode ≤ 1 → (∀ i, circuitsOf 0 (l.map (fun w => w.toNat)) = .error i → bad i) ∧
        (∀ cs, circuitsOf 0 (l.map (fun w => w.toNat)) = .ok cs →
          (∀ i, circuitFault (decide (mode = 1)) cs = some i → bad i) ∧
          (circuitFault (decide (mode = 1)) cs = none → ∃ t a, run = .next t ∧ t.optics.applying = some a ∧ a.circuits = cs ∧ a.rxMap = rx ∧
            a.plan = none ∧ a.tag = h.tag ∧ t.optics.circuits = s.optics.circuits ∧ t.swite.replies = s.swite.replies))))) ∧
  (∀ (s : State) (h : Hdr) (n : Nat) (l : List Word), s.begins Op.darkMapWrite h (leBytes n 1) →
    let q := s.took Op.darkMapWrite h
    let run := exec (.darkMapWrite h n l) s
    let version := (s.rd Reg.CIRQUE_DARK_MAP_VERSION).toNat
    (s.meshBusy = true ∨ s.meshMode = 0 → run = .next (s.on (q.answer h Op.darkMapWrite St.busy))) ∧
    (∀ cs, s.meshBusy = false → s.meshMode ≠ 0 → circuitsOf 0 (l.map (fun w => w.toNat)) = .ok cs →
      (darkOk cs = false → run = .next (s.on (q.answer h Op.darkMapWrite St.badParam))) ∧
      (darkOk cs = true → (∃ x ∈ s.darkTodo cs, s.trimLeft x.1 = 0) → run = .next (s.on (q.answer h Op.darkMapWrite St.limitReached))) ∧
      (darkOk cs = true → s.darkTodo cs = [] → ∃ t r, run = .next t ∧ t.optics.dark = none ∧ t.optics.cross = s.optics.cross ∧
        t.rd Reg.CIRQUE_DARK_MAP_VERSION = BitVec.ofNat 32 (version + 1) ∧
        r ∈ t.swite.replies ∧ r.tag = h.tag ∧ r.status = St.done ∧ r.detail = (version + 1) % 2 ^ 32) ∧
      (darkOk cs = true → s.darkTodo cs ≠ [] → (∀ x ∈ s.darkTodo cs, s.trimLeft x.1 ≠ 0) → ∃ t d, run = .next t ∧ t.optics.dark = some d ∧
        d.tag = h.tag ∧ d.ending = St.done ∧ d.group.length = min 32 (s.darkTodo cs).length ∧ d.todo = (s.darkTodo cs).drop 32 ∧
        t.rdF Reg.CIRQUE_STATUS Fld.CIRQUE_STATUS_DARK_WRITE = 1 ∧ t.swite.replies = s.swite.replies))) ∧
  (∀ (s : State) (k : Nat), (s.optics.dark = none → ∀ v, exec (.trimAttemptDone k v) s = .next s) ∧
    (∀ d x, s.optics.dark = some d → d.group.find? (fun x => decide (x.1 = k)) = some x →
      (∃ t, exec (.trimAttemptDone k true) s = .next t ∧ t.crossed k = x.2.1 ∧ ∀ j, j ≠ k → t.crossed j = s.crossed j) ∧
      (x.2.2 = 3 → d.ending = St.done → d.lane = .mgmt → d.group.filter (fun x => decide (x.1 ≠ k)) = [] →
        ∃ t r, exec (.trimAttemptDone k false) s = .next t ∧ t.optics.dark = none ∧ t.rdF Reg.CIRQUE_DARK_MAP Fld.CIRQUE_DARK_MAP_STATE = 1 ∧
          r ∈ t.swite.replies ∧ r.tag = d.tag ∧ r.opcode = Op.darkMapWrite ∧ r.status = St.internal ∧ r.final = true)))) ∧
  (∀ (s : State) (r : Ring), s.shaped = true →
    let x := s.ring r
    let others (t : State) : Prop := ∀ k, k ≠ r → t.ringCode k = s.ringCode k ∧ t.ring k = s.ring k
    (s.ringCode r ≠ 0 ∨ x.swept = true → ∀ l k, exec (.fullSweepDone r l k) s = .next s) ∧
    (s.ringCode r = 0 → x.swept = false → ∀ (l : List Nat) (k : Nat), l.length = 8 → ∃ t, exec (.fullSweepDone r l k) s = .next t ∧
      (t.ring r).swept = true ∧ (t.ring r).heater = l.getD (7 - r.line.val) 0 ∧ (t.ring r).attempts = 0 ∧ t.csr = s.csr ∧ others t) ∧
    (s.ringCode r ≠ 0 ∨ x.swept = false → ∀ f h, exec (.toneCheckDone r f h) s = .next s) ∧
    (s.ringCode r = 0 → x.swept = true → s.opticsStage ≠ 2 →
      (∀ h, ∃ t, exec (.toneCheckDone r (some r.line) h) s = .next t ∧ t.ringCode r = 1 ∧ (t.ring r).heater = h ∧ (t.ring r).attempts = 0 ∧ others t) ∧
      (∀ h, x.attempts < 2 → ∃ t, exec (.toneCheckDone r none h) s = .next t ∧ t.ringCode r = 0 ∧ (t.ring r).heater = h + x.kLine / 2 ∧
        (t.ring r).attempts = x.attempts + 1 ∧ others t) ∧
      (∀ (f : Fin 8) h, f ≠ r.line → x.attempts < 2 → ∃ t, exec (.toneCheckDone r (some f) h) s = .next t ∧ t.ringCode r = 0 ∧
        (t.ring r).heater = h + ((f.val : Int) - (r.line.val : Int)) * x.kLine ∧ (t.ring r).attempts = x.attempts + 1 ∧ others t) ∧
      (∀ f h, f ≠ some r.line → x.attempts = 2 → ∃ t, exec (.toneCheckDone r f h) s = .next t ∧ t.ringCode r = 2 ∧
        (t.port r.port).reported.1 = St.ringLockFail ∧ others t)) ∧
    (s.ringCode r ≠ 1 → ∀ h, exec (.ringLockLoss r h) s = .next s) ∧
    (s.ringCode r = 1 → ∀ h, ∃ t, exec (.ringLockLoss r h) s = .next t ∧ t.ringCode r = 0 ∧ (t.ring r).heater = h ∧ (t.ring r).attempts = 0 ∧ others t))

/-- SCHEDULE_LOAD, SCHEDULE_ENTRY_START and SCHEDULE_ENTRY_END (R306 to R311). Entry `k` mod 4096 of the table with base `k` / 4096 × 4096:
0 the step, 4096 the serving pass, 8192 the step begun after the current one. -/
def Obligations.ScheduleTables : Prop :=
  (∀ (s : State) (h : Hdr) (x : Ctx) (k : Nat) (payload : List Byte), s.shaped = true → s.ctx h.ctx = some x →
    s.begins Op.scheduleLoad h (leBytes k 1) →
    let q := s.took Op.scheduleLoad h
    let run := exec (.scheduleLoad h k payload) s
    let used : Prop := (∃ w, x.step = some w ∧ w.table = k) ∨ (∃ w, x.next = some w ∧ w.table = k) ∨ (∃ w, x.pass = some w ∧ w.table = k)
    (16 ≤ k → run = .next (s.on (q.answer h Op.scheduleLoad St.badParam 0xFFFF))) ∧
    (k < 16 → ∀ i, tableCheck payload x.syncLen = .error i → run = .next (s.on (q.answer h Op.scheduleLoad St.badParam i))) ∧
    (k < 16 → ∀ tb, tableCheck payload x.syncLen = .ok tb →
      (used → run = .next (s.on (q.answer h Op.scheduleLoad St.busy))) ∧
      (¬ used → ∃ t r y, run = .next t ∧ t.ctx h.ctx = some y ∧ y.table k = some tb ∧ (∀ j, j ≠ k → y.table j = x.table j) ∧
        (∀ c, c ≠ h.ctx → t.ctx c = s.ctx c) ∧ t.csr = q.csr ∧ t.mem = s.mem ∧ t.ranges = s.ranges ∧
        t.swite.replies = s.swite.replies ++ [r] ∧ r.status = St.done ∧ r.tag = h.tag ∧ r.final = true))) ∧
  (∀ (s : State) (c : Fin 16) (x : Ctx) (k : Nat), s.shaped = true → s.ctx c = some x →
    let base := k / 4096 * 4096
    let run := exec (.scheduleEntryStart c k) s
    (x.running base = none → run = .next s) ∧
    (∀ tb es e, x.running base = some (tb, es) → tb.entries[k - base]? = some e →
      (s.entryReady base tb es (k - base) = false ∨ s.clearing = true ∨ s.freezeHolds c base = true → run = .next s) ∧
      (s.entryReady base tb es (k - base) = true → s.clearing = false → s.freezeHolds c base = false → s.firstReady base tb es = some (k - base) →
        s.starvedBy c k = false →
        (∀ st, e.copy = false → s.startStatus c e.image (b2n e.lockstep) e.mask = some st → ∃ t, run = .next t ∧ t.entryAt c k = some (.over st) ∧
          t.ranges = s.ranges ∧ t.mem = s.mem ∧ t.csr = s.csr) ∧
        (∀ img, e.copy = false → s.startStatus c e.image (b2n e.lockstep) e.mask = none → x.image e.image = some img →
          let u := s.newStream c e.image img e.mask e.lockstep (.entry k) (x.prioAt k)
          (∀ g, s.grantOf u = some g → ∃ t, run = .next t ∧ t.entryAt c k = some .running ∧ t.mem = s.mem ∧
            ∀ n ∈ maskBits e.mask 16, t.rangeState n = (if e.lockstep then 3 else 2) ∧ (t.range n).stream = some u.id ∧ (t.range n).pc = 0 ∧
              (t.range n).tiles = (s.range n).tiles) ∧
          (s.grantOf u = none → ∃ t, run = .next t ∧ t.ctxs = s.ctxs ∧ t.ranges = s.ranges ∧ t.csr = s.csr ∧ t.mem = s.mem ∧
            ∃ w ∈ t.treeline.waiting, w.stream = none ∧ w.ctx = c.val ∧ w.entry = k)) ∧
        (∀ a b, e.copy = true → x.desc e.src = some a → x.desc e.dst = some b →
          (a.valid = true → b.valid = true → copyAgrees a b = true → s.mem.sealed = [] → ∃ t j, run = .next t ∧ t.entryAt c k = some .running ∧
            t.copies = s.copies ++ [j] ∧ j.ctx = c.val ∧ j.owner = .entry k ∧ j.src = some a.base ∧ j.dst = b.base ∧ t.mem = s.mem) ∧
          (a.valid = false ∨ b.valid = false ∨ copyAgrees a b = false → ∃ t, run = .next t ∧ t.entryAt c k = some (.over St.descInvalid) ∧
            t.copies = s.copies ∧ t.mem = s.mem))))) ∧
  (∀ (s : State) (c : Fin 16) (k : Nat), s.shaped = true →
    ((∀ st, s.entryAt c k ≠ some (.over st)) → exec (.scheduleEntryEnd c k) s = .next s) ∧
    (∀ st, k < 4096 → s.entryAt c k = some (.over st) → ∃ t y w v, exec (.scheduleEntryEnd c k) s = .next t ∧ t.entryAt c k = some (.ended st) ∧
      t.ctx c = some y ∧ y.step = some w ∧ (s.ctx c).bind (fun x => x.step) = some v ∧ t.mem = s.mem ∧
      w.failed = (if st ≠ St.done ∧ v.t0.isSome = true ∧ v.failed = none then some st else v.failed)))

/-- STEP_BEGIN, STEP_COMMIT and STEP_ABORT. `soloGroup` numbers the group of one of a context. -/
def Obligations.StepCommands : Prop :=
  (∀ (s : State) (h : Hdr) (x : Ctx) (table : Nat), s.shaped = true → s.ctx h.ctx = some x → s.begins Op.stepBegin h (leBytes table 1) →
    let c := h.ctx
    let q := s.took Op.stepBegin h
    let run := exec (.stepBegin h table) s
    let other : Prop := s.groupPlan.isSome = true ∧ s.rdF Reg.TRAVERSE_STEP_GROUP Fld.TRAVERSE_STEP_GROUP_BOUND = 1 ∧ s.bound c = false
    let open' : Prop := s.stepState c = 1 ∨ s.stepState c = 4 ∨ x.next.isSome = true
    ((x.table table = none ∨ ∃ tb, x.table table = some tb ∧ tb.serving = true) → run = .next (s.on (q.answer h Op.stepBegin St.badParam))) ∧
    (∀ tb, x.table table = some tb → tb.serving = false →
      (other → run = .next (s.on (q.answer h Op.stepBegin St.notPermitted))) ∧
      (¬ other → open' → run = .next (s.on (q.answer h Op.stepBegin St.busy))) ∧
      (s.groupPlan = none → ¬ open' → s.stepState c = 0 → ∀ e i k, s.tarnCheck x c = some (e, i, k) →
        run = .next (s.on (q.answer h Op.stepBegin St.badParam (i + 65536 * k + 16777216 * e)))) ∧
      (s.groupPlan = none → ¬ open' → s.stepState c = 0 → s.tarnCheck x c = none → ∃ t y w r, run = .next t ∧ t.ctx c = some y ∧ y.step = some w ∧
        w.step = s.closedStep c + 1 ∧ w.table = table ∧ w.t0 = none ∧ w.started = false ∧ t.stepState c = 1 ∧ t.closedStep c = s.closedStep c ∧
        y.descs = ((s.allRecords x c).foldl (fun z e => z.rebase e.2.2 e.2.2.half) x).descs ∧ t.mem = s.mem ∧ t.ranges = s.ranges ∧
        t.swite.replies = s.swite.replies ++ [r] ∧ r.status = St.accepted ∧ r.tag = h.tag ∧ r.final = false ∧
        (s.frozen c = false → t.group.loop = s.group.loop ++ [{ group := soloGroup c, body := .join 0 (s.closedStep c + 1) 1 s.planId }])) ∧
      (s.groupPlan = none → ¬ open' → s.stepState c = 2 ∨ s.stepState c = 3 → ∃ t y w r, run = .next t ∧ t.ctx c = some y ∧ y.step = x.step ∧
        y.next = some w ∧ w.step = s.closedStep c + 2 ∧ w.table = table ∧ t.stepState c = s.stepState c ∧ y.descs = x.descs ∧ t.mem = s.mem ∧
        t.swite.replies = s.swite.replies ++ [r] ∧ r.status = St.accepted ∧ r.final = false))) ∧
  (∀ (s : State) (h : Hdr) (k : Nat), s.shaped = true →
    let g := s.groupOf h.ctx
    let rec0 := (s.master g k).getD (s.newMaster g k)
    let why := if rec0.running = true ∧ rec0.planAtStart = s.planId ∧ rec0.limit ≤ rec0.attempt then 4 else 1
    (s.begins Op.stepCommit h (leBytes k 4) →
      let q := s.took Op.stepCommit h
      let run := exec (.stepCommit h k) s
      (s.isMaster g = false → run = .next (s.on (q.answer h Op.stepCommit St.notPermitted))) ∧
      (s.isMaster g = true → s.stepAt h.ctx k = none → run = .next (s.on (q.answer h Op.stepCommit St.badParam))) ∧
      (s.isMaster g = true → (s.stepAt h.ctx k).isSome = true → ∃ t r m, run = .next t ∧ t.master g k = some m ∧ m.allowed = true ∧ t.ctxs = s.ctxs ∧
        t.mem = s.mem ∧ t.ranges = s.ranges ∧ t.swite.replies = s.swite.replies ++ [r] ∧ r.status = St.done ∧ r.final = true)) ∧
    (s.begins Op.stepAbort h (leBytes k 4) →
      let q := s.took Op.stepAbort h
      let run := exec (.stepAbort h k) s
      (s.isMaster g = false → run = .next (s.on (q.answer h Op.stepAbort St.notPermitted))) ∧
      (s.isMaster g = true → s.stepAt h.ctx k = none → run = .next (s.on (q.answer h Op.stepAbort St.badParam))) ∧
      (s.isMaster g = true → (s.stepAt h.ctx k).isSome = true → ∃ t r, run = .next t ∧
        t.group.loop = s.group.loop ++ [{ group := g, body := .abort k rec0.attempt why }] ∧
        t.rdF Reg.TRAVERSE_STEP_ABORT Fld.TRAVERSE_STEP_ABORT_REASON = why ∧
        t.rdF Reg.TRAVERSE_STEP_ABORT Fld.TRAVERSE_STEP_ABORT_STATUS = St.stepAborted ∧ t.ctxs = s.ctxs ∧ t.mem = s.mem ∧
        t.swite.replies = s.swite.replies ++ [r] ∧ r.status = St.done ∧ r.final = true)))

/-- Relaying of group messages: JOIN, START, READY, FAIL, COMMIT, ABORT, UPDATED, CLOSE, MIRROR, MIRRORED and ROUND_END (R451, R470). -/
def Obligations.GroupMessagesTravel : Prop :=
  ∀ (i : Instr) (s : State) (port : Option (Fin 32)) (g : Nat) (b : GBody), groupMsg i = some (port, g, b) →
    let x : GMsg := { group := g, body := b }
    let carries (q : Nat) : Prop := s.portState q = 3 ∨ s.portState q = 4
    (port = none → x ∉ s.group.loop → exec i s = .next s) ∧
    (∀ p : Fin 32, port = some p →
      (¬ carries p ∨ s.plan = none ∨ (∃ a, s.plan = some a ∧ a.group ≠ g) → exec i s = .next s) ∧
      (∀ a, carries p → s.plan = some a → a.group = g →
        (b.flooded = true → (g, b.key) ∈ s.group.seen → exec i s = .next s) ∧
        (b.flooded = true → (g, b.key) ∉ s.group.seen → ∃ t, exec i s = .next t ∧ (g, b.key) ∈ t.group.seen ∧
          ∀ q < 32, q ≠ p.val → carries q → (s.portEntry q).role = 1 ∨ (s.portEntry q).role = 2 → { port := q, msg := x } ∈ t.group.sent) ∧
        (b.flooded = false → s.isMaster g = false → ∀ q, s.parentPort = some q → carries q →
          ∃ t, exec i s = .next t ∧ t = s.on { s.toMach with group := { s.group with sent := s.group.sent ++ [{ port := q, msg := x }] } })))

/-- JOIN, READY, FAIL and UPDATED at the master of a group of one, STEP_DEADLINE_EXPIRY and UPDATE_DEADLINE_EXPIRY. -/
def Obligations.GroupMaster : Prop :=
  ∀ (s : State) (c : Fin 16) (x : Ctx), s.shaped = true → s.groupPlan = none → s.ctx c = some x →
    let g := soloGroup c
    let why (r : MasterSt) (v : Nat) : Nat := if r.running = true ∧ r.planAtStart = s.planId ∧ r.limit ≤ r.attempt then 4 else v
    let inLoop (b : GBody) : Prop := ({ group := g, body := b } : GMsg) ∈ s.group.loop
    let ticks := s.timebase.ticks.toNat
    (∀ k w, inLoop (.join 0 k 1 s.planId) → x.stepAt k = some (0, w) → w.t0 = none → 1 ≤ k → s.master g (k - 1) = none →
      let r := (s.master g k).getD (s.newMaster g k)
      r.running = false → r.resolving = false → r.joins = [] →
      let a := if r.again then r.attempt + 1 else r.attempt
      let td := ticks + 15625 + (s.rd Reg.TRAVERSE_STEP_CFG_DEADLINE).toNat * 625 / 4
      ∃ t, exec (.join none g 0 k 1 s.planId) s = .next t ∧ t.group.loop = s.loopWithout g (.join 0 k 1 s.planId) ++
          [{ group := g, body := .start k a (ticks + 15625) td (s.rdF Reg.TRAVERSE_STEP_CFG_LIMIT Fld.TRAVERSE_STEP_CFG_LIMIT_REPEAT_LIMIT) }] ∧
        t.ctxs = s.ctxs ∧ t.mem = s.mem ∧ ∃ u, t.master g k = some u ∧ u.running = true ∧ u.attempt = a ∧ u.deadline = td) ∧
    (∀ k w r a, s.master g k = some r → x.stepAt k = some w → r.running = true → r.attempt = a → inLoop (.ready 0 k a) → r.readies = [] →
      let run := exec (.ready none g 0 k a) s
      let kept := s.on { s.toMach with group := { s.group with loop := s.loopWithout g (.ready 0 k a) } }
      (r.deadline < ticks → run = .next kept) ∧
      (ticks ≤ r.deadline → 1 ≤ k → s.master g (k - 1) = none → r.committedAt = none → w.2.hostCommit = false ∨ r.allowed = true →
        ∃ t u, run = .next t ∧ t.group.loop = s.loopWithout g (.ready 0 k a) ++ [{ group := g, body := .commit k a w.2.norm }] ∧
          t.master g k = some u ∧ u.committedAt = some s.clk ∧ t.ctxs = s.ctxs ∧ t.mem = s.mem) ∧
      (ticks ≤ r.deadline → w.2.hostCommit = true → r.allowed = false →
        ∃ t, run = .next t ∧ t.group.loop = s.loopWithout g (.ready 0 k a) ∧ t.ctxs = s.ctxs ∧ t.mem = s.mem)) ∧
    (∀ k r v, s.master g k = some r → r.running = true → inLoop (.fail 0 k r.attempt v) → v < 256 →
      ∃ t, exec (.fail none g 0 k r.attempt v) s = .next t ∧
        t.group.loop = s.loopWithout g (.fail 0 k r.attempt v) ++ [{ group := g, body := .abort k r.attempt (why r 1) }] ∧
        t.rdF Reg.TRAVERSE_STEP_ABORT Fld.TRAVERSE_STEP_ABORT_REASON = why r 1 ∧
        t.rdF Reg.TRAVERSE_STEP_ABORT Fld.TRAVERSE_STEP_ABORT_STATUS = v ∧ t.ctxs = s.ctxs ∧ t.mem = s.mem) ∧
    (∀ k r, s.master g k = some r → r.committedAt.isSome = true → r.updated = [] → s.master g (k + 1) = none → inLoop (.updated 0 k) →
      ∃ t, exec (.updated none g 0 k) s = .next t ∧ t.group.loop = s.loopWithout g (.updated 0 k) ++ [{ group := g, body := .close k }] ∧
        t.master g k = none ∧ t.ctxs = s.ctxs ∧ t.mem = s.mem) ∧
    (let due (e : Nat × MasterSt) : Bool := e.2.running && e.2.committedAt.isNone && decide (e.2.deadline ≤ ticks)
     ((s.openSteps c).find? due = none → exec (.stepDeadlineExpiry c) s = .next s) ∧
     (∀ e r, (s.openSteps c).find? due = some e → s.master g e.1 = some r → ∃ t, exec (.stepDeadlineExpiry c) s = .next t ∧
        t.group.loop = s.group.loop ++ [{ group := g, body := .abort e.1 r.attempt (why r 2) }] ∧
        t.rdF Reg.TRAVERSE_STEP_ABORT Fld.TRAVERSE_STEP_ABORT_REASON = why r 2 ∧ t.ctxs = s.ctxs ∧ t.mem = s.mem)) ∧
    (let due (e : Nat × MasterSt) : Bool := e.2.running && e.2.committedAt.elim false (fun t => decide (t + us e.2.deadlineUs ≤ s.clk))
     ((s.openSteps c).find? due = none → exec (.updateDeadlineExpiry c) s = .next s) ∧
     (∀ e r, (s.openSteps c).find? due = some e → s.master g e.1 = some r → ∃ t, exec (.updateDeadlineExpiry c) s = .next t ∧
        t.group.loop = s.group.loop ++ [{ group := g, body := .abort e.1 r.attempt (why r 3) }] ∧
        t.rdF Reg.TRAVERSE_STEP_ABORT Fld.TRAVERSE_STEP_ABORT_REASON = why r 3 ∧ t.ctxs = s.ctxs ∧ t.mem = s.mem))

/-- START, ATTEMPT_START, COMMIT, ABORT, LOCAL_ABORT, ROLLBACK and CLOSE at a member of a group of one (R312 to R322, R452 to R455). -/
def Obligations.MemberSteps : Prop :=
  ∀ (s : State) (c : Fin 16) (x : Ctx) (w : StepSt), s.shaped = true → s.groupPlan = none → s.ctx c = some x → x.step = some w →
    let g := soloGroup c
    let k := w.step
    let inLoop (b : GBody) : Prop := ({ group := g, body := b } : GMsg) ∈ s.group.loop
    let now (t : State) (f : StepSt → Prop) : Prop := ∃ y v, t.ctx c = some y ∧ y.step = some v ∧ v.step = k ∧ f v
    let join : GMsg := { group := g, body := .join 0 k 1 s.planId }
    (∀ a t0 td lim, inLoop (.start k a t0 td lim) → s.stepState c = 1 → w.t0 = none → ∃ t, exec (.start none g k a t0 td lim) s = .next t ∧
      now t (fun v => v.attempt = a ∧ v.t0 = some t0 ∧ v.td = td ∧ v.limit = lim ∧ v.started = false) ∧ t.mem = s.mem ∧ t.ranges = s.ranges ∧
      t.rd Reg.TRAVERSE_STEP_DEADLINE_LO = BitVec.ofNat 32 td ∧ t.timebase.tdHi = BitVec.ofNat 32 (td / 2 ^ 32)) ∧
    (s.startsNow x.step = none → s.startsNow x.next = none → exec (.attemptStart c) s = .next s) ∧
    (∀ tb, s.stepState c = 1 → s.startsNow x.step = some w → x.table w.table = some tb → ∃ t, exec (.attemptStart c) s = .next t ∧
      now t (fun v => v.started = true ∧ v.entries = List.replicate tb.entries.length .waiting) ∧ t.mem = s.mem ∧ t.ranges = s.ranges ∧
      ∀ j < tb.syncCount, x.syncBase + tb.syncFirst + j < 4096 → t.rd (Reg.TRAVERSE_SYNC_COUNTER (x.syncBase + tb.syncFirst + j)) = 0) ∧
    (∀ norm, inLoop (.commit k w.attempt norm) → s.stepState c = 1 → ∃ t y, exec (.commit none g k w.attempt norm) s = .next t ∧ t.stepState c = 2 ∧
      t.rd (Reg.TRAVERSE_NORM_RESULT_LO c) = BitVec.ofNat 32 norm ∧ t.rd (Reg.TRAVERSE_NORM_RESULT_HI c) = BitVec.ofNat 32 (norm / 2 ^ 32) ∧
      t.mem = s.mem ∧ t.ctx c = some y ∧
      ((v64 norm).isFinite = false → y.holds = x.holds ∧ t.tarn = s.tarn ∧ now t (fun v => v.skipped = true)) ∧
      ((v64 norm).isFinite = true → y.holds = (s.allRecords x c).flatMap (fun e => e.2.2.handles) ∧
        ∀ e < 12, ∀ i, s.nextRecord x e c 0 = some i → ∃ q, t.tarnOf e = some q ∧ q.ctx = c.val ∧ q.record = i ∧
          q.f = gradMultiplier norm (s.rd (Reg.TRAVERSE_CLIP_CFG_MAX c)).toNat (s.rd (Reg.TRAVERSE_CLIP_CFG_SCALE c)).toNat)) ∧
    (∀ a v, inLoop (.abort k a v) → (k ≤ s.closedStep c → exec (.abort none g k a v) s =
        .next (s.on { s.toMach with group := { s.group with loop := s.loopWithout g (.abort k a v) } })) ∧
      (s.closedStep c < k → ∃ t, exec (.abort none g k a v) s = .next t ∧ t.mem = s.mem ∧ t.closedStep c = s.closedStep c ∧
        (∀ y ∈ t.streams, ∀ i, y.ctx = c.val → y.starter = .entry i → ¬ i < 4096) ∧
        (s.stepState c = 1 → v ≠ 4 → t.stepState c = 1 ∧ now t (fun u => u.t0 = none ∧ u.started = false ∧ u.entries = []) ∧
          (s.frozen c = false → t.group.loop = s.loopWithout g (.abort k a v) ++ [join])) ∧
        (s.stepState c = 1 → v = 4 → t.stepState c = 0 ∧ (∃ y, t.ctx c = some y ∧ y.step = none ∧ y.next = none) ∧
          t.replied Op.stepBegin c w.tag St.stepLimit) ∧
        (s.stepState c = 2 ∨ s.stepState c = 3 → t.stepState c = 4 ∧ now t (fun u => u.ending = decide (v = 4))))) ∧
    (let unheard : Prop := s.stepState c = 1 ∧ s.unheard w = true
     (¬ unheard → x.next = none → exec (.localAbort c) s = .next s) ∧
     (unheard → s.closedStep c < k → ∃ t, exec (.localAbort c) s = .next t ∧ t.mem = s.mem ∧
        t.rdF Reg.TRAVERSE_STEP_ABORT Fld.TRAVERSE_STEP_ABORT_REASON = 5 ∧
        (w.attempt < w.limit → now t (fun u => u.t0 = none ∧ u.started = false) ∧ (s.frozen c = false → t.group.loop = s.group.loop ++ [join])) ∧
        (w.limit ≤ w.attempt → t.stepState c = 0 ∧ t.replied Op.stepBegin c w.tag St.stepLimit))) ∧
    ((s.stepState c ≠ 4 → exec (.rollback c) s = .next s) ∧
     (s.stepState c = 4 → ∃ t, exec (.rollback c) s = .next t ∧
        ((∀ e ∈ s.allRecords x c, e.2.2.step ≤ s.closedStep c) → t.mem = s.mem) ∧
        (∀ e, s.allRecords x c = [e] → s.closedStep c < e.2.2.step →
          t.mem = (s.writeVa x ((s.tarnTable e.1 c).1 + 64 * e.2.1 + 8) (flipWord e.2.2 (e.2.2.step - 1))).mem) ∧
        (w.ending = false → t.stepState c = 1 ∧ now t (fun u => u.t0 = none ∧ u.skipped = false) ∧ (∃ y, t.ctx c = some y ∧ y.holds = []) ∧
          (s.frozen c = false → x.next = none → t.group.loop = s.group.loop ++ [join])) ∧
        (w.ending = true → t.stepState c = 0 ∧ t.replied Op.stepBegin c w.tag St.stepLimit))) ∧
    (inLoop (.close k) → s.stepState c = 2 ∨ s.stepState c = 3 → ∃ t y, exec (.close none g k) s = .next t ∧ t.mem = s.mem ∧
      t.rd (Reg.TRAVERSE_CLOSED_STEP c) = BitVec.ofNat 32 k ∧ t.replied Op.stepBegin c w.tag St.done ∧ t.ctx c = some y ∧ y.holds = [] ∧ y.next = none ∧
      y.step = x.next ∧ t.stepState c = (if x.next.isSome then 1 else 0) ∧
      t.rdF (Reg.TRAVERSE_STEP_STATUS c) Fld.TRAVERSE_STEP_STATUS_SKIPPED = b2n w.skipped)

/-- TARN_RECORD_FLIP, TARN_UPDATE_COMPLETE and TARN_FAULT (R316 to R320, R332, R340). `updateRecordAt` writes the new state, the compute
copies and the flipped word. -/
def Obligations.TarnUpdates : Prop :=
  (∀ (s : State) (e : Fin 12), s.tarnOf e = none → exec (.tarnRecordFlip e) s = .next s ∧ ∀ v a, exec (.tarnFault e v a) s = .next s) ∧
  (∀ (s : State) (e : Fin 12) (c : Fin 16) (q : TarnSt) (x : Ctx) (i : Nat) (p : Prog), s.shaped = true → s.tarnOf e = some q → q.ctx = c.val →
    s.ctx c = some x → s.nextRecord x e c q.record = some i →
    let r := s.tarnRecord x e c i
    q.progs[r.prog]? = some p →
    let sound : Prop := p.valid = true ∧ p.ctx = c.val ∧ p.ok = true ∧ s.tarnClear x e (x.tarnRuns r p) = true
    (∀ w g, x.desc r.hW = some w → x.desc r.hG = some g →
      (¬ sound → exec (.tarnRecordFlip e) s = .next s) ∧
      (sound → ∃ t y, exec (.tarnRecordFlip e) s = .next t ∧ t.mem = (s.updateRecordAt x e c i r p q.f w g).mem ∧ t.ctx c = some y ∧
        y.descs = (x.rebase r (1 - r.half)).descs ∧ y.holds = x.holds.filter (fun h => !r.handles.contains h) ∧ y.step = x.step ∧
        t.tarnOf e = some { q with record := i + 1 } ∧ t.ranges = s.ranges ∧ t.streams = s.streams)) ∧
    (∀ v a, v = 0 ∨ 6 < v ∨ x.tarnMeets e r p c v a = false → exec (.tarnFault e v a) s = .next s) ∧
    (∀ v a w, 1 ≤ v → v ≤ 6 → x.tarnMeets e r p c v a = true → x.step = some w → ∃ t y u, exec (.tarnFault e v a) s = .next t ∧
      t.mem.bytes = s.mem.bytes ∧ t.tarnOf e = none ∧ t.rdF (Reg.FOOTHILL_TARN_FAULT e) Fld.FOOTHILL_TARN_FAULT_VALID = 1 ∧
      t.rdF (Reg.FOOTHILL_TARN_FAULT e) Fld.FOOTHILL_TARN_FAULT_KIND = v ∧ t.rdF (Reg.FOOTHILL_TARN_FAULT e) Fld.FOOTHILL_TARN_FAULT_CONTEXT = c ∧
      t.rdF (Reg.FOOTHILL_TARN_FAULT e) Fld.FOOTHILL_TARN_FAULT_RECORD = i % 65536 ∧ t.ctx c = some y ∧ y.step = some u ∧
      (w.t0.isSome = true → w.failed = none → u.failed.isSome = true))) ∧
  (∀ (s : State) (c : Fin 16) (x : Ctx) (w : StepSt), s.shaped = true → s.ctx c = some x → x.step = some w →
    let flipped : Prop := s.stepState c = 2 ∧ (∀ e < 12, s.tarnBusy e c = false) ∧ w.failed = none
    (¬ flipped → exec (.tarnUpdateComplete c) s = .next s) ∧
    (flipped → ∃ t, exec (.tarnUpdateComplete c) s = .next t ∧ t.stepState c = 3 ∧ t.mem = s.mem ∧ t.ctxs = s.ctxs ∧
      (s.groupPlan = none → t.group.loop = s.group.loop ++ [{ group := soloGroup c, body := .updated 0 w.step }])))

/-- FRAME_PUSH, PIN_START and INTAKE_DEADLINE (R493 to R497, R596). -/
def Obligations.ServingPasses : Prop :=
  let begun (s t : State) (c k : Nat) (p : Push) : Prop := ∃ y v tb, t.ctx c = some y ∧ y.pushWait = none ∧ y.pass = some v ∧
    (s.ctx c).bind (fun x => x.table k) = some tb ∧ v.table = k ∧ v.entries = List.replicate tb.entries.length .waiting ∧
    v.outHandle = p.outHandle ∧ v.outBytes = p.outBytes ∧ v.tag = p.tag ∧ v.failed = none
  (∀ (s : State) (h : Hdr) (x : Ctx) (inH outH n : Nat) (payload : List Byte), s.shaped = true → s.ctx h.ctx = some x →
    s.begins Op.framePush h (leBytes inH 2 ++ leBytes outH 2 ++ leBytes n 4) →
    let c := h.ctx
    let q := s.took Op.framePush h
    let run := exec (.framePush h inH outH n payload) s
    let no (st : Nat) : Prop := run = .next (s.on (q.answer h Op.framePush st))
    let k := s.rdF (Reg.TRAVERSE_SERVE_CFG c) Fld.TRAVERSE_SERVE_CFG_TABLE
    let bytes (a : Desc) := byteMap (((List.range payload.length).zip payload).map (fun e => ({ bit := 8 * (a.base + e.1), width := 8, code := e.2.toNat } : BitWrite)))
    let held : Prop := s.periodic c = true ∨ x.pass.isSome = true
    (s.serving c = false → no St.notPermitted) ∧
    (s.serving c = true → (∀ a, x.desc inH = some a → a.valid = false) ∨ (∀ b, x.desc outH = some b → b.valid = false) → no St.badParam) ∧
    (∀ a b, s.serving c = true → x.desc inH = some a → a.valid = true → x.desc outH = some b → b.valid = true →
      ((∀ tb, x.table k = some tb → tb.serving = false) ∨ a.spanBytes < payload.length ∨ b.spanBytes < n → no St.badParam) ∧
      (∀ tb, x.table k = some tb → tb.serving = true → payload.length ≤ a.spanBytes → n ≤ b.spanBytes →
        (x.pushWait.isSome = true → no St.busy) ∧
        (x.pushWait = none → ∀ st, s.stopStatus = some st → no st) ∧
        (x.pushWait = none → s.stopStatus = none → ∀ f, x.runFault a.base payload.length a.pdom true = some f → no (faultStatus f)) ∧
        (x.pushWait = none → s.stopStatus = none → x.runFault a.base payload.length a.pdom true = none →
          ∃ t r, run = .next t ∧ r ∈ t.swite.replies ∧ r.status = St.accepted ∧ r.tag = h.tag ∧ r.final = false ∧
            t.mem = (q.perform 0 x (bytes a) Ecc.clean (.cmd h.lane c h.tag)).mem ∧
            (held → ∃ y p, t.ctx c = some y ∧ y.pushWait = some p ∧ p.outHandle = outH ∧ p.outBytes = n ∧ y.pass = x.pass) ∧
            (¬ held → s.txnsOf (.cmd h.lane c h.tag) = 0 → (∀ i < payload.length, ∀ pa, x.phys (a.base + i) = some pa → isHost pa = false) →
              begun s t c k { lane := h.lane, tag := h.tag, prio := h.prio, outHandle := outH, outBytes := n, deadline := 0 }))))) ∧
  (∀ (s : State) (c : Fin 16) (x : Ctx), s.shaped = true → s.ctx c = some x →
    let k := s.rdF (Reg.TRAVERSE_SERVE_CFG c) Fld.TRAVERSE_SERVE_CFG_TABLE
    (s.serving c = false ∨ s.pinDue c = false ∨ x.pinned = true → exec (.pinStart c) s = .next s) ∧
    (s.serving c = true → s.pinDue c = true → x.pinned = false → ∃ t y, exec (.pinStart c) s = .next t ∧ t.ctx c = some y ∧ y.pinned = true ∧
      t.mem = s.mem ∧ t.streams = s.streams ∧ ∀ n ∈ s.pinRanges c, t.rdF (Reg.RANGE_STREAM_STATUS n) Fld.RANGE_STREAM_STATUS_LOCKSTEP_PIN = 1 ∧
        ∀ i ∈ rangeIslands n, (t.island i).pinned = true) ∧
    (s.serving c = false ∨ s.periodic c = false → exec (.intakeDeadline c) s = .next s) ∧
    (∀ p, s.serving c = true → s.periodic c = true → x.pushWait = some p →
      let due : Prop := s.deadlineCome c p.deadline = true ∧ s.pushPerformed c p = true
      (¬ due → exec (.intakeDeadline c) s = .next s) ∧
      (due → x.pass = none → ∀ tb, x.table k = some tb → tb.serving = true → ∃ t, exec (.intakeDeadline c) s = .next t ∧ begun s t c k p ∧ t.mem = s.mem) ∧
      (due → x.pass.isSome = true → ∃ t y, exec (.intakeDeadline c) s = .next t ∧ t.ctx c = some y ∧ y.pushWait = none ∧ y.pass = x.pass ∧
        t.replied Op.framePush c p.tag St.frameLate ∧ t.mem = s.mem)))

/-- BELAY_PLAN, BELAY_SNAPSHOT, BELAY_RESTORE and RESTORE_FRAME (R480 to R483). The slot's record comes with the command: what a buddy answers
is outside this module. -/
def Obligations.BelayCommands : Prop :=
  (∀ (s : State) (h : Hdr) (x : Ctx), s.shaped = true → s.ctx h.ctx = some x →
    (∀ payload, s.begins Op.belayPlan h [] →
      let q := s.took Op.belayPlan h
      let run := exec (.belayPlan h payload) s
      let taken : Prop := s.stepState h.ctx ≠ 0 ∨ s.belay.roundOpen = true ∨ s.belay.mirror.isSome = true ∨ s.belay.restoring.isSome = true
      let dirtyLedge (p : BelayPlan) : Prop := ∃ r ∈ p.regions, r.method = 2 ∧ x.touchesLedge r = true
      (s.belayAllowed h.ctx = false → run = .next (s.on (q.answer h Op.belayPlan St.notPermitted))) ∧
      (s.belayAllowed h.ctx = true → taken → run = .next (s.on (q.answer h Op.belayPlan St.busy))) ∧
      (s.belayAllowed h.ctx = true → ¬ taken → belayPlanCheck payload h.ctx = none ∨ (∃ p, belayPlanCheck payload h.ctx = some p ∧ dirtyLedge p) →
        run = .next (s.on (q.answer h Op.belayPlan St.badParam))) ∧
      (∀ p, s.belayAllowed h.ctx = true → ¬ taken → belayPlanCheck payload h.ctx = some p → ¬ dirtyLedge p → ∃ t r, run = .next t ∧
        t.belay.plan = some p ∧ t.rdF Reg.BELAY_STATUS Fld.BELAY_STATUS_STATE = 1 ∧ t.mem = s.mem ∧ t.ctxs = s.ctxs ∧
        (s.belay.lastBuddy ≠ some p.buddy → t.belay.buddyHasSlot = false) ∧
        t.swite.replies = s.swite.replies ++ [r] ∧ r.status = St.done ∧ r.tag = h.tag)) ∧
    (s.begins Op.belaySnapshot h [] →
      let q := s.took Op.belaySnapshot h
      let mine : Prop := s.belayAllowed h.ctx = true ∧ s.isMaster (s.groupOf h.ctx) = true
      (¬ mine → exec (.belaySnapshot h) s = .next (s.on (q.answer h Op.belaySnapshot St.notPermitted))) ∧
      (mine → ∃ t, exec (.belaySnapshot h) s = .next t ∧ t.belay.snapshots = s.belay.snapshots ++ [(h.lane, h.ctx, h.tag)] ∧ t.csr = s.csr ∧
        t.mem = s.mem ∧ t.swite.replies = s.swite.replies)) ∧
    (∀ k record, s.begins Op.belayRestore h (leBytes k 4) →
      let q := s.took Op.belayRestore h
      let run := exec (.belayRestore h k record) s
      let no (st : Nat) : Prop := run = .next (s.on (q.answer h Op.belayRestore st))
      let r := CtxRecord.ofBytes record
      let taken : Prop := s.stepState h.ctx ≠ 0 ∨ (∃ y ∈ s.streams, y.ctx = h.ctx) ∨ s.belay.restoring.isSome = true ∨ s.belay.mirror.isSome = true
      (s.belayAllowed h.ctx = false → no St.notPermitted) ∧
      (s.belayAllowed h.ctx = true → taken → no St.busy) ∧
      (s.belayAllowed h.ctx = true → ¬ taken → record = [] ∨ r.step ≠ k ∨ s.belay.plan = none → no St.badParam) ∧
      (∀ p, s.belayAllowed h.ctx = true → ¬ taken → record ≠ [] → r.step = k → s.belay.plan = some p →
        let same : Prop := ∃ o, r.plan = some o ∧ sameRegions o.regions p.regions = true
        let unmapped : Prop := ∃ y ∈ p.regions, x.unmapped y = true
        let foreign : Prop := ∃ u ∈ r.regs, u.kind = 1 ∧
          s.rdF (Reg.FOOTHILL_TARN_PROG u.stack u.slot) Fld.FOOTHILL_TARN_PROG_VALID = 1 ∧ s.ownsProg u.stack u.slot h.ctx = false
        (¬ same → no St.badParam) ∧ (same → unmapped → no St.translationFault) ∧ (same → ¬ unmapped → foreign → no St.notPermitted) ∧
        (same → ¬ unmapped → ¬ foreign → ∃ t, run = .next t ∧ t.mem = s.mem ∧ t.ctxs = s.ctxs ∧ t.swite.replies = s.swite.replies ∧
          t.rdF Reg.BELAY_STATUS Fld.BELAY_STATUS_STATE = 3 ∧
          t.belay.restoring = some { step := k, record := record, got := [], lane := h.lane, tag := h.tag, ctx := h.ctx })))) ∧
  (∀ (s : State) (u : Nat) (poison : List Nat) (data : List Byte) (last lost : Bool), s.shaped = true →
    let run := exec (.restoreFrame u poison data last lost) s
    (s.belay.restoring = none ∨ s.belay.plan = none → run = .next s) ∧
    (∀ q p x, s.belay.restoring = some q → s.belay.plan = some p → s.ctx q.ctx = some x → q.ctx < 16 →
      let got := q.got ++ [(u, data, poison)]
      let r := CtxRecord.ofBytes q.record
      (lost = true → ∃ t, run = .next t ∧ t.belay.restoring = none ∧ t.replied Op.belayRestore q.ctx q.tag St.linkDown ∧ t.ctxs = s.ctxs ∧
        t.rdF Reg.BELAY_STATUS Fld.BELAY_STATUS_STATE = 1) ∧
      (lost = false → last = false → run = .next (s.on { s.toMach with belay := { s.belay with restoring := some { q with got := got } } })) ∧
      (lost = false → last = true → ∃ t y, run = .next t ∧ t.belay.restoring = none ∧ t.replied Op.belayRestore q.ctx q.tag St.done ∧
        t.rd (Reg.TRAVERSE_CLOSED_STEP q.ctx) = BitVec.ofNat 32 r.step ∧ t.stepState q.ctx = 0 ∧ t.ctx q.ctx = some y ∧ y.descs = r.descs ∧
        y.maps = x.maps ∧ (p.regions = [] → t.mem = s.mem) ∧
        (∀ g, p.regions = [g] → g.tarn = false → t.mem = (s.landRegion x q.ctx 129 g got).mem))))

/-- MIRROR, BELAY_COMMIT_FRAME, MIRROR_TIMEOUT, MIRROR_OPEN, MIRROR_DATA, CATCH_UP_DONE, SLOT_COMMIT, MIRRORED and ROUND_END. A member whose
plan sends no mirror answers at once: the model's reading (DEDUCED). -/
def Obligations.MirrorRounds : Prop :=
  let status (s : State) (f : Fld) : Nat := s.rdF Reg.BELAY_STATUS f
  let held (t s : State) : Prop := ∀ e < 12, (t.stack e).captured = (s.stack e).captured
  (∀ (s : State) (g round k l : Nat) (ecc : Ecc) (c : Nat) (x : Ctx), s.shaped = true → c < 16 → s.ctxOf g = some c → s.ctx c = some x →
    { group := g, body := .mirror round k l } ∈ s.group.loop → s.isMaster g = true →
    let run := exec (.mirror none g round k l ecc) s
    let rest := s.loopWithout g (.mirror round k l)
    let tells (v : Nat) : GMsg := { group := s.groupOf c, body := .mirrored (s.groupRank (s.groupOf c)) round v }
    (s.belay.mirror.isSome = true → run = .next (s.on { s.toMach with group := { s.group with loop := rest } })) ∧
    (s.belay.mirror = none → (∀ p, s.belay.plan = some p → p.ctx ≠ c ∨ p.buddy = 0xFFF) → ∃ t m, run = .next t ∧ t.mem = s.mem ∧
      t.group.loop = rest ++ [m] ∧ m.group = s.groupOf c ∧ m.body = .mirrored (s.groupRank g) round 0 ∧ t.rd Reg.BELAY_ROUND = BitVec.ofNat 32 l) ∧
    (∀ p, s.belay.mirror = none → s.belay.plan = some p → p.ctx = c → p.buddy ≠ 0xFFF →
      (s.belayPorts p = [] → ∃ t, run = .next t ∧ t.belay.mirror = none ∧ tells 2 ∈ t.group.loop ∧ status t Fld.BELAY_STATUS_LAST_RESULT = 2 ∧
        t.mem.bytes = s.mem.bytes) ∧
      (s.belayPorts p ≠ [] → ∃ t size units, run = .next t ∧ t.belay.mirror = some { round := round, step := k, began := s.clk } ∧
        status t Fld.BELAY_STATUS_STATE = 2 ∧ .opening p.buddy round k size units ∈ t.belay.sent ∧ t.mem.bytes = s.mem.bytes ∧
        ∀ e < 12, (t.stack e).captured = (s.stack e).captured.union (s.stack e).current ∧ (t.stack e).current = ⟨false, []⟩))) ∧
  (∀ (s : State), s.shaped = true →
    (s.belay.mirror = none → exec .mirrorTimeout s = .next s ∧ ∀ a b v, exec (.belayCommitFrame a b v) s = .next s) ∧
    (∀ r p, s.belay.mirror = some r → s.belay.plan = some p →
      let due : Prop := r.began + secs (s.rdF Reg.BELAY_CFG Fld.BELAY_CFG_TIMEOUT_S) ≤ s.clk
      (¬ due → exec .mirrorTimeout s = .next s) ∧
      (due → ∃ t, exec .mirrorTimeout s = .next t ∧ t.belay.mirror = none ∧ status t Fld.BELAY_STATUS_LAST_RESULT = 1 ∧
        status t Fld.BELAY_STATUS_STATE = 1 ∧ held t s ∧ t.mem.bytes = s.mem.bytes) ∧
      (∀ src round v, r.round ≠ round ∨ p.buddy ≠ src → exec (.belayCommitFrame src round v) s = .next s) ∧
      (∀ v, v < 256 → ∃ t, exec (.belayCommitFrame p.buddy r.round v) s = .next t ∧ t.belay.mirror = none ∧
        status t Fld.BELAY_STATUS_LAST_RESULT = v ∧ status t Fld.BELAY_STATUS_STATE = 1 ∧ t.mem.bytes = s.mem.bytes ∧ (v ≠ 0 → held t s) ∧
        (v = 0 → t.belay.buddyHasSlot = true ∧ ∀ e < 12, (t.stack e).captured = ⟨false, []⟩)))) ∧
  (∀ (s : State) (src round k size serial : Nat) (units : List Nat),
    let run := exec (.mirrorOpen src round k size serial units) s
    let refuse (v : Nat) : Prop := run = .next (s.on { s.toMach with belay := { s.belay with sent := s.belay.sent ++ [.commit src round v] } })
    (src = 0xFFF ∨ (∀ p, s.belay.plan = some p → p.ward ≠ src) → refuse 4) ∧
    (∀ p, src ≠ 0xFFF → s.belay.plan = some p → p.ward = src → (p.slotUnits < size → refuse 3) ∧
      (∀ x, size ≤ p.slotUnits → s.ctx p.ctx = some x → ∃ t e, run = .next t ∧ e < 2 ∧ s.slotWith (s.rd Reg.BELAY_ROUND).toNat ≠ some e ∧
        (t.slotSt e).valid = false ∧ t.slotSt (1 - e) = s.slotSt (1 - e) ∧ t.mem = (s.landBytes x (p.unitVa e 0) (slotHeader 0 0 serial) []).mem ∧
        t.belay.landing = some { slot := e, round := round, step := k, serial := serial, units := units, got := [] }))) ∧
  (∀ (s : State), (s.belay.plan = none ∨ s.belay.landing = none →
      exec .slotCommit s = .next s ∧ ∀ a b u po da, exec (.mirrorData a b u po da) s = .next s) ∧
    (∀ p l x, s.belay.plan = some p → s.belay.landing = some l → s.ctx p.ctx = some x → l.slot < 2 →
      (∀ src round u po da, p.ward ≠ src ∨ l.round ≠ round ∨ u ∉ l.units ∨ u ∈ l.got → exec (.mirrorData src round u po da) s = .next s) ∧
      (∀ u po da, u ∈ l.units → u ∉ l.got → ∃ t, exec (.mirrorData p.ward l.round u po da) s = .next t ∧
        t.mem = (s.landBytes x (p.unitVa l.slot u) da po).mem ∧ t.belay.landing = some { l with got := l.got ++ [u] }) ∧
      (let whole : Prop := (∀ u ∈ l.units, u ∈ l.got) ∧ (∀ y, s.belay.catchUp = some y → y.1 ≠ l.slot)
       (¬ whole → exec .slotCommit s = .next s) ∧
       (whole → ∃ t, exec .slotCommit s = .next t ∧ t.belay.landing = none ∧ (t.slotSt l.slot).valid = true ∧ (t.slotSt l.slot).step = l.step ∧
        t.slotSt (1 - l.slot) = s.slotSt (1 - l.slot) ∧ t.belay.sent = s.belay.sent ++ [.commit p.ward l.round 0] ∧
        t.mem = (s.landBytes x (p.unitVa l.slot 0) (slotHeader 1 l.step l.serial) []).mem)))) ∧
  (∀ (s : State) (e : Fin 2), (∀ y, s.belay.catchUp = some y → y.1 ≠ e.val) → exec (.catchUpDone e) s = .next s) ∧
  (∀ (s : State) (e : Fin 2) (p : BelayPlan) (x : Ctx) (u : Nat), s.belay.plan = some p → s.ctx p.ctx = some x → s.belay.landing = none →
    s.belay.catchUp = some (e.val, [u]) → ∃ t, exec (.catchUpDone e) s = .next t ∧ t.belay.catchUp = none ∧
      t.mem = (s.landBytes x (p.unitVa e u) ((List.range' (p.unitVa (1 - e) u) 65536).map (s.linkByte x))
        (s.badOffsets x Ecc.clean (List.range' (p.unitVa (1 - e) u) 65536))).mem) ∧
  (∀ (s : State) (g rank round v : Nat), { group := g, body := .mirrored rank round v } ∈ s.group.loop → s.isMaster g = true →
    let run := exec (.mirrored none g rank round v) s
    let rest := s.loopWithout g (.mirrored rank round v)
    let counts : Prop := s.belay.roundOpen = true ∧ round = s.belay.round ∧ ∀ r ∈ s.belay.results, r.1 ≠ rank
    let all : Prop := v = 0 ∧ ∀ r ∈ s.belay.results, r.2 = 0
    let l := if v = 0 ∧ s.belay.results.all (fun r => decide (r.2 = 0)) = true then s.belay.roundStep else (s.rd Reg.BELAY_ROUND).toNat
    (¬ counts → run = .next (s.on { s.toMach with group := { s.group with loop := rest } })) ∧
    (counts → s.belay.results.length + 1 < s.groupSize g → ∃ t, run = .next t ∧ t.belay.results = s.belay.results ++ [(rank, v)] ∧
      t.group.loop = rest ∧ t.csr = s.csr ∧ t.mem = s.mem) ∧
    (counts → s.groupSize g ≤ s.belay.results.length + 1 → ∃ t b, run = .next t ∧ t.belay.roundOpen = false ∧ (b = true ↔ all) ∧
      t.group.loop = rest ++ [{ group := g, body := .roundEnd round b l }] ∧ t.mem = s.mem)) ∧
  (∀ (s : State) (g round l : Nat) (b : Bool), { group := g, body := .roundEnd round b l } ∈ s.group.loop →
    ∃ t, exec (.roundEnd none g round b l) s = .next t ∧ t.rd Reg.BELAY_ROUND = BitVec.ofNat 32 l ∧ t.mem = s.mem ∧
      (s.isMaster g = true → round = s.belay.round → t.belay.snapshots = [] ∧
        ∀ q ∈ s.belay.snapshots, t.replied Op.belaySnapshot q.2.1 q.2.2 St.done))

/-- POWER_BUDGET_SET (both kinds), THERMAL_STATUS, BUDGET_EVALUATION, POWER_SAMPLE, CAP_ENFORCEMENT_STEP, CAP_RESTORE_STEP, BOOST_CHECK and
STARVE_EXPIRY. `pool` is exact; the registers show whole watts (DESIGN CHOICE). -/
def Obligations.PowerBudget : Prop :=
  (∀ (s : State) (h : Hdr) (context watts : Nat), s.shaped = true → s.begins Op.powerBudgetSet h [] →
    let q := s.took Op.powerBudgetSet h
    let eff := Nat.min watts (s.treeline.coolantCap.getD 3200)
    let pool : Rat := (eff : Rat) - (s.baseW : Rat) - (s.marginW : Rat)
    let cap := exec (.powerBudgetCap h context watts) s
    let res := exec (.powerBudgetReservation h context watts) s
    let left : Rat := s.treeline.pool - ((s.reservedSum : Rat) - (s.reservation context : Rat)) - s.flowSum
    (context ≠ 0 ∨ watts < 600 ∨ 3200 < watts → cap = .next (s.on (q.answer h Op.powerBudgetSet St.badParam))) ∧
    (context = 0 → 600 ≤ watts → watts ≤ 3200 →
      (pool < (s.reservedSum : Rat) → cap = .next (s.on (q.answer h Op.powerBudgetSet St.powerLimit))) ∧
      ((s.reservedSum : Rat) ≤ pool → ∃ t, cap = .next t ∧ t.rdF Reg.TREELINE_CAP Fld.TREELINE_CAP_CAP_W = watts ∧
        t.rdF Reg.TREELINE_CAP Fld.TREELINE_CAP_EFFECTIVE_W = eff ∧ t.rdF Reg.TREELINE_STATUS Fld.TREELINE_STATUS_DERATED = b2n (decide (eff < watts)) ∧
        t.treeline.pool = pool ∧ t.replied Op.powerBudgetSet h.ctx h.tag St.done ∧ (s.treeline.waiting = [] → t.streams = s.streams ∧ t.mem = s.mem))) ∧
    (16 ≤ context ∨ 3200 < watts → res = .next (s.on (q.answer h Op.powerBudgetSet St.badParam))) ∧
    (context < 16 → watts ≤ 3200 →
      (h.ctx ≠ context → res = .next (s.on (q.answer h Op.powerBudgetSet St.notPermitted))) ∧
      (h.ctx = context → left < (watts : Rat) → res = .next (s.on (q.answer h Op.powerBudgetSet St.powerLimit))) ∧
      (h.ctx = context → (watts : Rat) ≤ left → ∃ t, res = .next t ∧ t.reservation context = watts ∧
        (∀ c < 16, c ≠ context → t.reservation c = s.reservation c) ∧ t.streams = s.streams ∧ t.mem = s.mem ∧
        t.replied Op.powerBudgetSet h.ctx h.tag St.done))) ∧
  (∀ (s : State) (h : Hdr), s.begins Op.thermalStatus h [] →
    exec (.thermalStatus h) s = .next (s.on ((s.took Op.thermalStatus h).answer h Op.thermalStatus St.done 0
      ((List.range 39).flatMap (fun z => leBytes (s.zoneWord z).toNat 4) ++ leBytes (s.rd Reg.TREELINE_INPUT).toNat 4 ++
        leBytes (s.rd Reg.TREELINE_COOLANT).toNat 4 ++ leBytes (s.rd Reg.TREELINE_STATUS).toNat 4)))) ∧
  (∀ (s : State), (s.poweredOff = true → ∀ b, exec (.budgetEvaluation b) s = .next s) ∧
    (∀ b < 65536, s.poweredOff = false → ∃ t, exec (.budgetEvaluation b) s = .next t ∧ t.baseW = b ∧
      t.treeline.pool = (s.effCap : Rat) - (b : Rat) - (s.marginW : Rat) ∧ (s.treeline.waiting = [] → t.streams = s.streams ∧ t.ranges = s.ranges ∧ t.mem = s.mem))) ∧
  (∀ (s : State) (n : Fin 16) (w : Nat), ((s.range n).stream.bind (fun i => s.stream i) = none → exec (.powerSample n w) s = .next s) ∧
    (∀ x l, (s.range n).stream.bind (fun i => s.stream i) = some x → s.treeline.samples[x.image.cls]? = some l → x.image.cls < 8 →
      let new := (if 4096 ≤ l.length then l.drop 1 else l) ++ [(w : Rat) / 1000 / powerFactor (s.island (4 * n + 1)).kHz]
      ∃ t, exec (.powerSample n w) s = .next t ∧ t.treeline.samples[x.image.cls]? = some new ∧ t.streams = s.streams ∧ t.mem = s.mem ∧
        (∀ c, c ≠ x.image.cls → t.treeline.samples[c]? = s.treeline.samples[c]?) ∧
        (new.length = 4096 → bitOf (t.rdF Reg.TREELINE_STATUS Fld.TREELINE_STATUS_PRED_READY) x.image.cls = true))) ∧
  (∀ (s : State) (p : Nat), s.shaped = true → p < 65536 →
    let over' : Prop := s.effCap < p ∧ s.treeline.capAt + us 100 ≤ s.clk
    let under : Prop := p ≤ s.effCap ∧ s.treeline.lowered = true ∧ s.treeline.restoreAt + ms 1 ≤ s.clk
    (¬ over' → exec (.capEnforcementStep p) s = .next (s.on (s.setPower p))) ∧
    (over' → ∃ t, exec (.capEnforcementStep p) s = .next t ∧ t.treeline.lowered = true ∧ t.treeline.capAt = s.clk ∧ t.streams = s.streams ∧ t.mem = s.mem ∧
      (∀ i, i ∉ s.unitIslands true → t.island i = s.island i) ∧
      (∀ x, s.flowUnits = [x] → ∀ i ∈ s.unitIslands true, t.island i = (s.lower i).island i)) ∧
    (¬ under → exec (.capRestoreStep p) s = .next (s.on (s.setPower p))) ∧
    (under → ∃ t, exec (.capRestoreStep p) s = .next t ∧ t.treeline.restoreAt = s.clk ∧ t.streams = s.streams ∧ t.mem = s.mem ∧
      (∀ i, i ∉ s.unitIslands false ∨ s.slowed (i / 4) = true → t.island i = s.island i) ∧
      (∀ x, s.flowUnits = [x] → ∀ i ∈ s.unitIslands false, s.slowed (i / 4) = false → t.island i = (s.raise i).island i))) ∧
  (∀ (s : State), s.shaped = true → ((∀ x ∈ s.streams, x.admitted = true → x.lockstep = true) → exec .boostCheck s = .next s) ∧
    (∀ x, s.streams = [x] → s.flowUnits = [x] → x.boost = 0 → x.mask ≠ 0 →
      let fits : Prop := s.boostOk x.mask = true ∧ s.grantWith x x.mask - s.grantWith x 0 ≤ s.freeW
      (¬ fits → exec .boostCheck s = .next s) ∧
      (fits → ∃ t, exec .boostCheck s = .next t ∧ t.streams = [{ x with boost := x.mask, grant := s.grantWith x x.mask }] ∧ t.mem = s.mem)) ∧
    (∀ x, s.streams = [x] → s.flowUnits = [x] → x.boost ≠ 0 → maskBits x.boost 16 ≠ [] → (∀ n ∈ maskBits x.boost 16, n ∈ maskBits x.mask 16 ∧
      s.thermal Fld.TREELINE_THERMAL_CFG_BOOST_TJ ≤ s.zoneTemp n) →
      ∃ t, exec .boostCheck s = .next t ∧ t.streams = [{ x with boost := 0, grant := s.grantWith x 0 }] ∧ t.mem = s.mem)) ∧
  (∀ (s : State) (c : Fin 16),
    let first := s.treeline.waiting.find? (fun w => decide (w.stream = none) && decide (w.ctx = c.val))
    (first = none → exec (.starveExpiry c) s = .next s) ∧
    (∀ w, first = some w →
      let due : Prop := s.treeline.starving = none ∧ w.since + us (s.rdF Reg.TREELINE_ADMIT_CFG Fld.TREELINE_ADMIT_CFG_STARVE_US) ≤ s.clk
      (¬ due → exec (.starveExpiry c) s = .next s) ∧
      (due → exec (.starveExpiry c) s = .next (s.on { s.toMach with treeline := { s.treeline with starving := some (w.ctx, w.entry) } }))))

/-- SENSOR_READ, FAST_HOLD_END, SLOW_THROTTLE_STEP, COMPUTE_STOP_END, VOLTAGE_CHANGE_DONE, RANGE_POWER_OFF, INPUT_DIP, BROWN_OUT, BROWNOUT_END,
INPUT_POWER_OFF, COOLANT_CHANGE and COOLANT_STOP. Quarters of a degree, kHz, 10 mV, 0.01 L/min; zones 0 to 38. -/
def Obligations.ThermalAndInput : Prop :=
  let stopped (s t : State) (status : Nat) : Prop := t.streams = [] ∧ (∀ i < 64, (t.island i).clocked = false) ∧ t.mem = s.mem ∧
    ∀ x, s.stream x.id = some x → x.admitted = true → ∀ n ∈ maskBits x.mask 16, t.rangeState n = 4 ∧
      t.rdF (Reg.RANGE_STREAM_STATUS n) Fld.RANGE_STREAM_STATUS_STOP_STATUS = status
  let off (t : State) : Prop := t.faultN = true ∧ t.poweredOff = true ∧ t.streams = [] ∧ ∀ i < 108, i ≠ cairnIsland → (t.island i).powered = false
  let flag (s : State) (f : Fld) : Nat := s.rdF Reg.TREELINE_STATUS f
  let rows (s : State) (v : Nat) : Prop := exec (.inputDip v) s = .next s ∧ exec (.brownOut v) s = .next s
  (∀ (s : State) (l : List Int), s.shaped = true → (∀ z < 39, -32768 ≤ zoneReading l z ∧ zoneReading l z < 32768) →
    let run := exec (.sensorRead l) s
    let below (v : Int) : Prop := ∀ z < 39, zoneReading l z < v
    (s.poweredOff = true → run = .next s) ∧
    (s.poweredOff = false →
      (¬ below 500 → ∃ t, run = .next t ∧ off t) ∧
      (below 500 → ∃ t, run = .next t ∧ (∀ z < 39, t.zoneTemp z = zoneReading l z) ∧ t.mem = s.mem ∧
        (¬ below 460 → flag t Fld.TREELINE_STATUS_COMPUTE_STOPPED = 1 ∧ (flag s Fld.TREELINE_STATUS_COMPUTE_STOPPED = 0 → t.streams = [])) ∧
        (below 460 → ∀ z < 39, s.thermal Fld.TREELINE_THERMAL_CFG_THROTTLE_TJ ≤ zoneReading l z → (t.zone z).throttled = true) ∧
        (below 460 → (∀ x ∈ s.streams, x.lockstep = false ∧ x.boost = 0) → ∀ z < 39, 440 ≤ zoneReading l z → (s.zone z).holdSince = none →
          (t.zone z).holdSince = some s.clk ∧ ∀ i ∈ islandsOf z, 312500 ≤ (s.island i).kHz → (t.island i).kHz = Nat.max 312500 ((s.island i).kHz / 2)) ∧
        (below 400 → t.treeline.coolSince = some (s.treeline.coolSince.getD s.clk))))) ∧
  (∀ (s : State) (z : Fin 39), s.shaped = true →
    let due : Prop := ∃ t0, (s.zone z).holdSince = some t0 ∧ t0 + ms 1 ≤ s.clk
    let hot : Prop := s.thermal Fld.TREELINE_THERMAL_CFG_THROTTLE_TJ - 8 ≤ s.zoneTemp z
    let steps : Prop := (s.zone z).throttled = true ∧ (s.zone z).holdSince = none ∧ ((hot ∧ (s.zone z).stepAt + us 50 ≤ s.clk) ∨ (¬ hot ∧ (s.zone z).stepAt + ms 1 ≤ s.clk))
    (¬ due → exec (.fastHoldEnd z) s = .next s) ∧
    (due → ∃ t, exec (.fastHoldEnd z) s = .next t ∧ (t.zone z).holdSince = none ∧ (t.zone z).throttled = true ∧ t.streams = s.streams ∧ t.mem = s.mem ∧
      ∀ i ∈ islandsOf z, (t.island i).halved = false ∧ ((s.island i).pinned = false → 312500 ≤ (s.island i).kHz → (t.island i).kHz = roundStep (s.island i).kHz)) ∧
    (¬ steps → exec (.slowThrottleStep z) s = .next s) ∧
    (steps → ∃ t, exec (.slowThrottleStep z) s = .next t ∧ (t.zone z).stepAt = s.clk ∧ t.streams = s.streams ∧ t.mem = s.mem ∧
      ∀ i ∈ islandsOf z, ((s.island i).pinned = true → t.island i = s.island i) ∧
        ((s.island i).pinned = false → t.island i = if hot then (s.lower i).island i else (s.raise i).island i))) ∧
  (∀ (s : State),
    let past (o : Option Nat) : Prop := ∃ t0, o = some t0 ∧ t0 + ms 100 ≤ s.clk
    let due : Prop := flag s Fld.TREELINE_STATUS_COMPUTE_STOPPED = 1 ∧ past s.treeline.coolSince ∧ (s.treeline.coolantStopped = false ∨ past s.treeline.coolantGood)
    (¬ due → exec .computeStopEnd s = .next s) ∧
    (due → ∃ t, exec .computeStopEnd s = .next t ∧ flag t Fld.TREELINE_STATUS_COMPUTE_STOPPED = 0 ∧ t.streams = s.streams ∧ t.mem = s.mem)) ∧
  (∀ (s : State) (i : Fin 108), s.shaped = true → ((s.island i).waiting = none → exec (.voltageChangeDone i) s = .next s) ∧
    (∀ f v, (s.island i).waiting = some (f, v) → ∃ t, exec (.voltageChangeDone i) s = .next t ∧
      t.island i = { s.island i with kHz := f, mV := v, waiting := none } ∧ (∀ j, j ≠ i.val → t.island j = s.island j) ∧ t.csr = s.csr)) ∧
  (∀ (s : State) (n : Fin 16), s.shaped = true →
    let e := s.treeline.offSince.find? (fun e => decide (e.1 = n.val))
    let due : Prop := ∃ y, e = some y ∧ s.rangeState n = 0 ∧ y.2 + ms 10 ≤ s.clk
    (¬ due → exec (.rangePowerOff n) s = .next s) ∧
    (due → ∃ t, exec (.rangePowerOff n) s = .next t ∧ t.mem = s.mem ∧ t.streams = s.streams ∧ (∀ a, inWindow .range n a = true → t.rd a = regReset a) ∧
      ∀ i ∈ rangeIslands n, (t.island i).powered = false ∧ (t.island i).clocked = false)) ∧
  (∀ (s : State) (v : Nat), s.shaped = true → v < 65536 →
    let volt (t : State) : Prop := t.rdF Reg.TREELINE_INPUT Fld.TREELINE_INPUT_VOLTAGE = v
    (s.poweredOff = true → rows s v) ∧
    (s.poweredOff = false →
      (∃ t, exec (.inputDip v) s = .next t ∧ volt t ∧ t.treeline.dipping = decide (v < 5800) ∧ t.streams = s.streams ∧ t.mem = s.mem ∧
        (v < 5800 → s.treeline.dipping = false → flag t Fld.TREELINE_STATUS_DIP = 1)) ∧
      (5800 ≤ v → exec (.brownOut v) s = .next s) ∧
      (v < 5800 → flag s Fld.TREELINE_STATUS_BROWNOUT = 0 → ∃ t, exec (.brownOut v) s = .next t ∧ volt t ∧ flag t Fld.TREELINE_STATUS_BROWNOUT = 1 ∧
        stopped s t St.powerLimit)) ∧
    (flag s Fld.TREELINE_STATUS_BROWNOUT = 0 ∨ v < 5800 → exec (.brownoutEnd v) s = .next s) ∧
    (flag s Fld.TREELINE_STATUS_BROWNOUT = 1 → 5800 ≤ v → ∃ t, exec (.brownoutEnd v) s = .next t ∧ volt t ∧ flag t Fld.TREELINE_STATUS_BROWNOUT = 0 ∧
      t.treeline.dipping = false ∧ t.streams = s.streams ∧ t.mem = s.mem) ∧
    (4800 ≤ v → v ≤ 7000 → exec (.inputPowerOff v) s = .next s) ∧ (v < 4800 ∨ 7000 < v → ∃ t, exec (.inputPowerOff v) s = .next t ∧ off t)) ∧
  (∀ (s : State) (inlet : Int) (flow : Nat), s.shaped = true →
    let cap := s.rdF Reg.TREELINE_CAP Fld.TREELINE_CAP_CAP_W
    let byFlow := if flow < 500 then 3200 * flow / 500 else 3200
    let byTemp := if 160 < inlet then (3200 - 50 * (inlet - 160)).toNat else 3200
    let eff := Nat.min cap (Nat.min byFlow byTemp)
    (s.poweredOff = true → exec (.coolantChange inlet flow) s = .next s) ∧
    (s.poweredOff = false → ∃ t, exec (.coolantChange inlet flow) s = .next t ∧ t.effCap = eff ∧ t.streams = s.streams ∧ t.mem = s.mem ∧
      flag t Fld.TREELINE_STATUS_DERATED = b2n (decide (eff < cap)) ∧ flag t Fld.TREELINE_STATUS_COLD_INLET = b2n (decide (inlet < 60)) ∧
      t.treeline.pool = (eff : Rat) - (s.baseW : Rat) - (s.marginW : Rat)) ∧
    (let due : Prop := ∃ t0, s.treeline.coolantBad = some t0 ∧ t0 + secs 1 ≤ s.clk
     (¬ due → exec .coolantStop s = .next s) ∧
     (due → flag s Fld.TREELINE_STATUS_COMPUTE_STOPPED = 0 → ∃ t, exec .coolantStop s = .next t ∧ flag t Fld.TREELINE_STATUS_COMPUTE_STOPPED = 1 ∧
       t.treeline.coolantStopped = true ∧ stopped s t St.thermalLimit)))

/-- SURVEY_SNAP, SNAPSHOT_CAPTURE and SURVEY_READ. Event counts and counter names are free values. -/
def Obligations.SurveySnapshots : Prop :=
  ∀ (s : State),
    (∀ (h : Hdr) (tick opt : Nat), s.begins Op.surveySnap h (leBytes tick 8 ++ leBytes opt 1) →
      let q := s.took Op.surveySnap h
      let run := exec (.surveySnap h tick opt) s
      let bad : Prop := 2 ≤ opt ∨ tick < s.timebase.ticks.toNat + 1563 ∨ s.timebase.ticks.toNat + 156250000 < tick
      let taken : Prop := s.surveyState = 1 ∨ (s.surveyState = 2 ∧ bitOf h.flags 6 = false)
      (bad → run = .next (s.on (q.answer h Op.surveySnap St.badParam))) ∧
      (¬ bad → taken → run = .next (s.on (q.answer h Op.surveySnap St.busy))) ∧
      (¬ bad → ¬ taken → ∃ t, run = .next t ∧ t.surveyState = 1 ∧ t.survey.tick = tick ∧ t.survey.clear = bitOf opt 0 ∧
        t.survey.cmd = some (h.lane, h.ctx, h.tag) ∧ t.survey.trouble = s.survey.trouble ∧ t.survey.shadow = s.survey.shadow ∧
        t.swite.replies = s.swite.replies ∧ t.mem = s.mem ∧ t.ranges = s.ranges)) ∧
    (let due : Prop := s.surveyState = 1 ∧ s.survey.tick < s.timebase.ticks.toNat
     (¬ due → exec .snapshotCapture s = .next s) ∧
     (due → ∃ t, exec .snapshotCapture s = .next t ∧ t.surveyState = 2 ∧ t.survey.shadow = s.survey.trouble ∧
       t.survey.trouble = (if s.survey.clear then [] else s.survey.trouble) ∧ t.survey.read = [] ∧ t.snapId = (s.snapId + 1) % 65536 ∧
       t.survey.shadowOff = (List.range unitCount).filter (fun u => !(s.island (unitInfo u).island).powered) ∧
       (∀ y, s.survey.cmd = some y → t.replied Op.surveySnap y.2.1 y.2.2 St.done) ∧ t.mem = s.mem ∧ t.ranges = s.ranges)) ∧
    (∀ (h : Hdr) (first count opt : Nat), s.begins Op.surveyRead h (leBytes first 2 ++ leBytes count 2 ++ leBytes opt 1) →
      let q := s.took Op.surveyRead h
      let run := exec (.surveyRead h first count opt) s
      let names := bitOf opt 0
      let units := List.range' first count
      let bad : Prop := 4 ≤ opt ∨ count = 0 ∨ unitCount < first + count ∨ (h.lane = .mgmt ∧ 4160 < 16 + recordBytes names units)
      let all := if names then s.survey.read else (s.survey.read ++ units).eraseDups
      (bad → run = .next (s.on (q.answer h Op.surveyRead St.badParam))) ∧
      (¬ bad → names = false → s.surveyState ≠ 2 → run = .next (s.on (q.answer h Op.surveyRead St.busy))) ∧
      (¬ bad → names = true ∨ s.surveyState = 2 → ∃ t r, run = .next t ∧ t.swite.replies = s.swite.replies ++ [r] ∧ r.status = St.done ∧ r.tag = h.tag ∧
        r.detail = (if names then 0 else s.snapId) ∧ r.data = units.flatMap (s.survey.record names) ∧ t.mem = s.mem ∧
        t.survey.trouble = s.survey.trouble ∧ t.survey.read = all ∧
        (s.surveyState = 2 → t.surveyState = if bitOf opt 1 = true ∨ all.length = unitCount then 0 else 2)))

/-- WAYMARK_SET (arm, resume, disarm), WAYMARK_HALT and DEBUG_DUMP. -/
def Obligations.WaymarkAndDumps : Prop :=
  (∀ (s : State) (h : Hdr) (mask instr pass rep : Nat), s.shaped = true → instr < 65536 → pass < 65536 → rep < 65536 →
    let q := s.took Op.waymarkSet h
    let no (st : Nat) : Host.Outcome State Fault Refusal := .next (s.on (q.answer h Op.waymarkSet st))
    let arm := exec (.arm h mask instr pass rep) s
    let res := exec (.resume h mask instr pass rep) s
    let dis := exec (.disarm h mask) s
    let all := maskBits (s.armRanges mask) 16
    let mine : Prop := mask ≠ 0 ∧ s.ownsAll h.ctx mask = true
    let lock : Prop := ∃ n ∈ maskBits mask 16, ∃ x, s.streamOn n = some x ∧ x.lockstep = true
    let armedAt (t : State) : Prop := ∀ n ∈ all, t.rdF (Reg.WAYMARK_POSITION n) Fld.WAYMARK_POSITION_INSTR_INDEX = instr ∧
      t.rdF (Reg.WAYMARK_POSITION n) Fld.WAYMARK_POSITION_REPEAT_INDEX = rep ∧ t.rdF (Reg.WAYMARK_POSITION_HI n) Fld.WAYMARK_POSITION_HI_PASS = pass ∧
      t.rdF (Reg.WAYMARK_POSITION_HI n) Fld.WAYMARK_POSITION_HI_ARMED = 1
    let goes (t : State) : Prop := ∀ n ∈ all, s.halted n = true → t.rangeState n = 2 ∧ (t.range n).halted = false ∧
      t.rdF (Reg.WAYMARK_POSITION_HI n) Fld.WAYMARK_POSITION_HI_HALTED = 0
    let entry : ArmSt := { lane := h.lane, ctx := h.ctx, tag := h.tag, mask := mask, ranges := s.armRanges mask }
    (s.begins Op.waymarkSet h (waymarkParam mask instr pass rep 0) →
      (mask = 0 → arm = no St.badParam) ∧ (mask ≠ 0 → s.ownsAll h.ctx mask = false → arm = no St.notPermitted) ∧ (mine → lock → arm = no St.badParam) ∧
      (mine → ¬ lock → (∃ n ∈ maskBits mask 16, s.halted n = true) → arm = no St.busy) ∧
      (mine → ¬ lock → (∀ n ∈ maskBits mask 16, s.halted n = false) → ∃ t, arm = .next t ∧ t.arms = s.arms ++ [entry] ∧ armedAt t ∧
        t.swite.replies = s.swite.replies ∧ t.mem = s.mem ∧ t.ranges = s.ranges)) ∧
    (s.begins Op.waymarkSet h (waymarkParam mask instr pass rep 1) →
      (mask = 0 → res = no St.badParam) ∧ (mask ≠ 0 → s.ownsAll h.ctx mask = false → res = no St.notPermitted) ∧
      (mine → (∃ n ∈ maskBits mask 16, s.halted n = false) → res = no St.busy) ∧
      (mine → (∀ n ∈ maskBits mask 16, s.halted n = true) → ∃ t, res = .next t ∧ goes t ∧ t.mem = s.mem ∧
        (instr = 0xFFFF → t.arms = s.arms ∧ t.replied Op.waymarkSet h.ctx h.tag St.done) ∧
        (instr ≠ 0xFFFF → t.arms = s.arms ++ [entry] ∧ armedAt t ∧ t.swite.replies = s.swite.replies))) ∧
    (s.begins Op.waymarkSet h (waymarkParam mask 0 0 0 2) →
      (mask = 0 → dis = no St.badParam) ∧ (mask ≠ 0 → s.ownsAll h.ctx mask = false → dis = no St.notPermitted) ∧
      (mine → ∃ t, dis = .next t ∧ t.arms = s.arms.filter (fun a => decide (a.ranges &&& mask = 0)) ∧ t.mem = s.mem ∧
        t.replied Op.waymarkSet h.ctx h.tag St.done ∧ (∀ n ∈ all, t.rdF (Reg.WAYMARK_POSITION_HI n) Fld.WAYMARK_POSITION_HI_ARMED = 0) ∧
        ∀ a ∈ s.arms, a.ranges &&& mask ≠ 0 → ∃ r ∈ t.swite.replies ++ t.swite.held, r.opcode = Op.waymarkSet ∧ r.ctx = a.ctx ∧ r.tag = a.tag ∧
          r.status = St.done ∧ r.detail = 2 ^ 30))) ∧
  (∀ (s : State) (n : Fin 16), s.shaped = true →
    (s.streamOn n = none → exec (.waymarkHalt n) s = .next s) ∧
    (∀ x, s.streamOn n = some x →
      let here : Prop := x.lockstep = false ∧ (s.range n).halted = false ∧ s.atBoundary n x.image.code = true
      (¬ here → exec (.waymarkHalt n) s = .next s) ∧
      (here → ∃ t, exec (.waymarkHalt n) s = .next t ∧ t.rangeState n = 5 ∧ (t.range n).halted = true ∧
        t.rdF (Reg.WAYMARK_POSITION_HI n) Fld.WAYMARK_POSITION_HI_HALTED = 1 ∧ t.rdF (Reg.WAYMARK_POSITION_HI n) Fld.WAYMARK_POSITION_HI_ARMED = 0 ∧
        t.mem = s.mem ∧ t.streams = s.streams ∧ ∀ a ∈ t.arms, a ∈ s.arms ∧ ∃ k ∈ maskBits a.ranges 16, t.halted k = false))) ∧
  (∀ (s : State) (h : Hdr) (range what treg : Nat), s.begins Op.debugDump h (leBytes range 1 ++ leBytes what 1 ++ leBytes treg 2) →
    let q := s.took Op.debugDump h
    let run := exec (.debugDump h range what treg) s
    let bad : Prop := 16 ≤ range ∨ 3 ≤ what ∨ 512 ≤ treg
    let allowed : Prop := s.debug = true ∧ s.owns h.ctx range = true
    let tile := Sparse.get (fun _ => Tile.zeroed) (s.range range).tiles treg
    (bad → run = .next (s.on (q.answer h Op.debugDump St.badParam))) ∧
    (¬ bad → ¬ allowed → run = .next (s.on (q.answer h Op.debugDump St.notPermitted))) ∧
    (¬ bad → allowed → s.halted range = false → run = .next (s.on (q.answer h Op.debugDump St.busy))) ∧
    (¬ bad → allowed → s.halted range = true → ∃ t r, run = .next t ∧ t.swite.replies = s.swite.replies ++ [r] ∧ r.status = St.done ∧
      t.ranges = s.ranges ∧ t.mem = s.mem ∧ t.csr = s.csr ∧ (what = 0 → r.data = (s.range range).bank0.dump) ∧
      (what = 1 → r.data = (s.range range).bank1.dump) ∧ (what = 2 → r.detail = tile.tag ∧ r.data = tile.dump s.draws)))

/-- Reading and writing instruction words and images agree (R84, R117). The one encoding that a command of this table carries in bits is the
payload of STREAM_LOAD. -/
def Obligations.ImagesRoundTrip : Prop :=
  (∀ e : Ewx, e.fits = true → Ewx.ofWord e.toWord = e ∧ e.toWord < 2 ^ 128) ∧ (∀ w : Nat, w < 2 ^ 128 → (Ewx.ofWord w).toWord = w) ∧
    ∀ i : Image, i.sound = true → imageCheck i.toBytes = .ok i

/-- The invariants hold at reset. -/
def Obligations.InvariantsAtReset : Prop := State.reset.shaped = true ∧ State.reset.canonical = true

/-- `shaped`, which the other statements take as a premise, is kept by every step. -/
def Obligations.StepKeepsShape : Prop := ∀ s t : State, s.shaped = true → step s = .next t → t.shaped = true

/-- The sparse stores stay canonical. That unlisted memory reads 0 is the model's choice. -/
def Obligations.StepKeepsCanonical : Prop := ∀ s t : State, s.canonical = true → step s = .next t → t.canonical = true
end

