-- ==== Sys2Proof/Laws/Sparse.lean ====
section
/-!
SUPPORT. What the operations of a sparse store do: a read after a write, and that each of them keeps the canonical form.
-/

namespace Sys2Proof.Laws

open Sys2Proof.Machine

variable {α : Type}

theorem Sparse.get_erase_same (dflt : Nat → α) (l : List (Nat × α)) (k : Nat) : Sparse.get dflt (Sparse.erase l k) k = dflt k := by
  induction l with
  | nil => rfl
  | cons p t ih =>
    by_cases h : p.1 = k
    · simpa [Sparse.erase, h] using ih
    · simpa [Sparse.erase, Sparse.get, h] using ih

theorem Sparse.get_erase_other (dflt : Nat → α) (l : List (Nat × α)) (k j : Nat) (hj : j ≠ k) :
    Sparse.get dflt (Sparse.erase l k) j = Sparse.get dflt l j := by
  induction l with
  | nil => rfl
  | cons p t ih =>
    by_cases h : p.1 = k
    · have : p.1 ≠ j := fun e => hj (e ▸ h)
      simpa [Sparse.erase, Sparse.get, h, Ne.symm hj] using ih
    · by_cases e : p.1 = j
      · simp [Sparse.erase, Sparse.get, e, hj]
      · simpa [Sparse.erase, Sparse.get, h, e] using ih

theorem Sparse.get_insert_same (dflt : Nat → α) (k : Nat) (v : α) (l : List (Nat × α)) (h : ∀ p ∈ l, p.1 ≠ k) :
    Sparse.get dflt (Sparse.insert k v l) k = v := by
  induction l with
  | nil => simp [Sparse.insert, Sparse.get]
  | cons p t ih =>
    unfold Sparse.insert
    split
    · simp [Sparse.get]
    · have hp : p.1 ≠ k := h p (by simp)
      simpa [Sparse.get, hp] using ih (fun q hq => h q (by simp [hq]))

theorem Sparse.get_insert_other (dflt : Nat → α) (k : Nat) (v : α) (l : List (Nat × α)) (j : Nat) (hj : j ≠ k) :
    Sparse.get dflt (Sparse.insert k v l) j = Sparse.get dflt l j := by
  induction l with
  | nil => simp [Sparse.insert, Sparse.get, Ne.symm hj]
  | cons p t ih =>
    unfold Sparse.insert
    split
    · simp [Sparse.get, Ne.symm hj]
    · by_cases e : p.1 = j
      · simp [Sparse.get, e]
      · simpa [Sparse.get, e] using ih

theorem Sparse.erase_keys (l : List (Nat × α)) (k : Nat) : ∀ p ∈ Sparse.erase l k, p.1 ≠ k := by
  intro p hp
  simpa [Sparse.erase] using (List.mem_filter.mp hp).2

/-- A read after a write to the same key gives the value written. -/
theorem Sparse.get_put_same [DecidableEq α] (dflt : Nat → α) (l : List (Nat × α)) (k : Nat) (v : α) :
    Sparse.get dflt (Sparse.put dflt l k v) k = v := by
  unfold Sparse.put
  split
  · rename_i h; rw [Sparse.get_erase_same, h]
  · exact Sparse.get_insert_same dflt k v _ (Sparse.erase_keys l k)

/-- A write leaves every other key alone. -/
theorem Sparse.get_put_other [DecidableEq α] (dflt : Nat → α) (l : List (Nat × α)) (k j : Nat) (v : α) (hj : j ≠ k) :
    Sparse.get dflt (Sparse.put dflt l k v) j = Sparse.get dflt l j := by
  unfold Sparse.put
  split
  · exact Sparse.get_erase_other dflt l k j hj
  · rw [Sparse.get_insert_other dflt k v _ j hj, Sparse.get_erase_other dflt l k j hj]

/-- A cleared key reads as an unlisted one. -/
theorem Sparse.get_clear (dflt : Nat → α) (l : List (Nat × α)) (p : Nat → Bool) (k : Nat) :
    Sparse.get dflt (Sparse.clear l p) k = if p k then dflt k else Sparse.get dflt l k := by
  induction l with
  | nil => simp [Sparse.clear, Sparse.get]
  | cons q t ih =>
    by_cases hq : p q.1 <;> by_cases e : q.1 = k
    · subst e; simpa [Sparse.clear, Sparse.get, hq] using ih
    · simpa [Sparse.clear, Sparse.get, hq, e] using ih
    · subst e; simp [Sparse.clear, Sparse.get, hq]
    · simpa [Sparse.clear, Sparse.get, hq, e] using ih

/-- A run of reads inside a run of writes gives the values written, and outside it nothing changes. -/
theorem Sparse.get_putRun [DecidableEq α] (dflt : Nat → α) (vs : List α) : ∀ (l : List (Nat × α)) (k j : Nat),
    Sparse.get dflt (Sparse.putRun dflt l k vs) j =
      if k ≤ j ∧ j < k + vs.length then vs.getD (j - k) (dflt j) else Sparse.get dflt l j := by
  induction vs with
  | nil => intro l k j; simp only [Sparse.putRun, List.length_nil]; split <;> [omega; rfl]
  | cons v t ih =>
    intro l k j
    simp only [Sparse.putRun, ih, List.length_cons]
    by_cases e : j = k
    · subst e
      simp [Sparse.get_put_same]
    · by_cases h : k + 1 ≤ j ∧ j < k + 1 + t.length
      · have h2 : k ≤ j ∧ j < k + (t.length + 1) := by omega
        have h3 : j - k = (j - (k + 1)) + 1 := by omega
        rw [if_pos h, if_pos h2, h3, List.getD_cons_succ]
      · have h2 : ¬ (k ≤ j ∧ j < k + (t.length + 1)) := by omega
        rw [if_neg h, if_neg h2, Sparse.get_put_other dflt l k j v e]

/-! ### The canonical form -/

theorem Sparse.rising_iff (l : List (Nat × α)) : Sparse.rising l = true ↔ l.Pairwise (fun p q => p.1 < q.1) := by
  induction l with
  | nil => simp [Sparse.rising]
  | cons p t ih =>
    cases t with
    | nil => simp [Sparse.rising]
    | cons q t =>
      rw [Sparse.rising, Bool.and_eq_true, ih, List.pairwise_cons (a := p)]
      constructor
      · rintro ⟨h, hp⟩
        refine ⟨fun r hr => ?_, hp⟩
        have h1 : p.1 < q.1 := by simpa using h
        rcases List.mem_cons.mp hr with rfl | hr
        · exact h1
        · exact lt_trans h1 ((List.pairwise_cons.mp hp).1 r hr)
      · rintro ⟨h, hp⟩
        exact ⟨by simpa using h q (by simp), hp⟩

theorem Sparse.insert_mem (k : Nat) (v : α) (l : List (Nat × α)) (q : Nat × α) (hq : q ∈ Sparse.insert k v l) : q = (k, v) ∨ q ∈ l := by
  induction l with
  | nil => simpa [Sparse.insert] using hq
  | cons r u ihu =>
    unfold Sparse.insert at hq
    split at hq
    · simpa using hq
    · rcases List.mem_cons.mp hq with rfl | hq
      · simp
      · rcases ihu hq with h | h
        · exact Or.inl h
        · exact Or.inr (by simp [h])

theorem Sparse.insert_pairwise (k : Nat) (v : α) (l : List (Nat × α)) (h : l.Pairwise (fun p q => p.1 < q.1))
    (hk : ∀ p ∈ l, p.1 ≠ k) : (Sparse.insert k v l).Pairwise (fun p q => p.1 < q.1) := by
  induction l with
  | nil => simp [Sparse.insert]
  | cons p t ih =>
    unfold Sparse.insert
    have hp := List.pairwise_cons.mp h
    split
    · rename_i hlt
      refine List.pairwise_cons.mpr ⟨fun q hq => ?_, h⟩
      rcases List.mem_cons.mp hq with rfl | hq
      · exact hlt
      · exact lt_trans hlt (hp.1 q hq)
    · rename_i hge
      have hne := hk p (by simp)
      refine List.pairwise_cons.mpr ⟨fun q hq => ?_, ih hp.2 (fun q hq => hk q (by simp [hq]))⟩
      have hm := Sparse.insert_mem k v t q hq
      rcases hm with rfl | hm
      · show p.1 < k; omega
      · exact hp.1 q hm

theorem Sparse.wf_iff [DecidableEq α] (dflt : Nat → α) (l : List (Nat × α)) :
    Sparse.wf dflt l = true ↔ l.Pairwise (fun p q => p.1 < q.1) ∧ ∀ p ∈ l, p.2 ≠ dflt p.1 := by
  simp [Sparse.wf, Sparse.rising_iff]

theorem Sparse.wf_filter [DecidableEq α] (dflt : Nat → α) (l : List (Nat × α)) (p : Nat × α → Bool)
    (h : Sparse.wf dflt l = true) : Sparse.wf dflt (l.filter p) = true := by
  rw [Sparse.wf_iff] at *
  exact ⟨h.1.sublist List.filter_sublist, fun q hq => h.2 q (List.mem_filter.mp hq).1⟩

/-- A write keeps the canonical form. -/
theorem Sparse.wf_put [DecidableEq α] (dflt : Nat → α) (l : List (Nat × α)) (k : Nat) (v : α)
    (h : Sparse.wf dflt l = true) : Sparse.wf dflt (Sparse.put dflt l k v) = true := by
  have he : Sparse.wf dflt (Sparse.erase l k) = true := Sparse.wf_filter dflt l _ h
  unfold Sparse.put
  split
  · exact he
  · rename_i hv
    rw [Sparse.wf_iff] at *
    refine ⟨Sparse.insert_pairwise k v _ he.1 (Sparse.erase_keys l k), fun q hq => ?_⟩
    rcases Sparse.insert_mem k v _ q hq with rfl | hq
    · exact hv
    · exact he.2 q hq

theorem Sparse.wf_putRun [DecidableEq α] (dflt : Nat → α) (vs : List α) : ∀ (l : List (Nat × α)) (k : Nat),
    Sparse.wf dflt l = true → Sparse.wf dflt (Sparse.putRun dflt l k vs) = true := by
  induction vs with
  | nil => intro l k h; exact h
  | cons v t ih => intro l k h; exact ih _ _ (Sparse.wf_put dflt l k v h)

theorem Sparse.wf_clear [DecidableEq α] (dflt : Nat → α) (l : List (Nat × α)) (p : Nat → Bool)
    (h : Sparse.wf dflt l = true) : Sparse.wf dflt (Sparse.clear l p) = true := Sparse.wf_filter dflt l _ h

/-- Two stores in canonical form that read alike are one list: equal memories are equal data. -/
theorem Sparse.ext_get [DecidableEq α] (dflt : Nat → α) : ∀ (l r : List (Nat × α)), Sparse.wf dflt l = true → Sparse.wf dflt r = true →
    (∀ k, Sparse.get dflt l k = Sparse.get dflt r k) → l = r := by
  have absent : ∀ (l : List (Nat × α)) (k : Nat), (∀ p ∈ l, k < p.1) → Sparse.get dflt l k = dflt k := by
    intro l k h
    induction l with
    | nil => rfl
    | cons p t ih =>
      have := h p (by simp)
      rw [Sparse.get, if_neg (by omega), ih (fun q hq => h q (by simp [hq]))]
  intro l
  induction l with
  | nil =>
    intro r _ hr h
    cases r with
    | nil => rfl
    | cons q u =>
      exfalso
      have := h q.1
      simp only [Sparse.get, if_true] at this
      exact ((Sparse.wf_iff dflt _).mp hr).2 q (by simp) this.symm
  | cons p t ih =>
    intro r hl hr h
    have wl := (Sparse.wf_iff dflt _).mp hl
    have pl := List.pairwise_cons.mp wl.1
    cases r with
    | nil =>
      exfalso
      have := h p.1
      simp only [Sparse.get, if_true] at this
      exact wl.2 p (by simp) this
    | cons q u =>
      have wr := (Sparse.wf_iff dflt _).mp hr
      have pr := List.pairwise_cons.mp wr.1
      have hk : p.1 = q.1 := by
        rcases lt_trichotomy p.1 q.1 with hlt | heq | hgt
        · exfalso
          have e := h p.1
          rw [absent (q :: u) p.1 (by intro x hx; rcases List.mem_cons.mp hx with rfl | hx; exacts [hlt, lt_trans hlt (pr.1 x hx)])] at e
          simp only [Sparse.get, if_true] at e
          exact wl.2 p (by simp) e
        · exact heq
        · exfalso
          have e := h q.1
          rw [absent (p :: t) q.1 (by intro x hx; rcases List.mem_cons.mp hx with rfl | hx; exacts [hgt, lt_trans hgt (pl.1 x hx)])] at e
          simp only [Sparse.get, if_true] at e
          exact wr.2 q (by simp) e.symm
      have hv : p.2 = q.2 := by
        have e := h p.1
        simpa [Sparse.get, hk] using e
      have htail : t = u := by
        refine ih u ((Sparse.wf_iff dflt _).mpr ⟨pl.2, fun x hx => wl.2 x (by simp [hx])⟩)
          ((Sparse.wf_iff dflt _).mpr ⟨pr.2, fun x hx => wr.2 x (by simp [hx])⟩) (fun k => ?_)
        by_cases e : k ≤ p.1
        · rw [absent t k (fun x hx => by have := pl.1 x hx; omega), absent u k (fun x hx => by have := pr.1 x hx; omega)]
        · have e2 := h k
          simpa [Sparse.get, show ¬ p.1 = k by omega, show ¬ q.1 = k by omega] using e2
      rw [htail, Prod.ext hk hv]

end Sys2Proof.Laws
end

