-- ==== Sys2Proof/Laws/State.lean ====
section
/-!
SUPPORT. What each small update of the module leaves alone: one lemma per field per update; and control space as a store of registers:
what a read gives after a write, and that every register operation keeps the canonical form.
-/

namespace Sys2Proof.Laws

open Sys2Proof.Machine

/-! ### `Mach.wr` -/

@[simp] theorem Mach.wr_clk (m : Mach) (a : Nat) (v : Word) : (m.wr a v).clk = m.clk := rfl
@[simp] theorem Mach.wr_draws (m : Mach) (a : Nat) (v : Word) : (m.wr a v).draws = m.draws := rfl
@[simp] theorem Mach.wr_faultN (m : Mach) (a : Nat) (v : Word) : (m.wr a v).faultN = m.faultN := rfl
@[simp] theorem Mach.wr_modResetLow (m : Mach) (a : Nat) (v : Word) : (m.wr a v).modResetLow = m.modResetLow := rfl
@[simp] theorem Mach.wr_swite (m : Mach) (a : Nat) (v : Word) : (m.wr a v).swite = m.swite := rfl
@[simp] theorem Mach.wr_mem (m : Mach) (a : Nat) (v : Word) : (m.wr a v).mem = m.mem := rfl
@[simp] theorem Mach.wr_ctxs (m : Mach) (a : Nat) (v : Word) : (m.wr a v).ctxs = m.ctxs := rfl
@[simp] theorem Mach.wr_ranges (m : Mach) (a : Nat) (v : Word) : (m.wr a v).ranges = m.ranges := rfl
@[simp] theorem Mach.wr_streams (m : Mach) (a : Nat) (v : Word) : (m.wr a v).streams = m.streams := rfl
@[simp] theorem Mach.wr_nextStream (m : Mach) (a : Nat) (v : Word) : (m.wr a v).nextStream = m.nextStream := rfl
@[simp] theorem Mach.wr_copies (m : Mach) (a : Nat) (v : Word) : (m.wr a v).copies = m.copies := rfl
@[simp] theorem Mach.wr_tarn (m : Mach) (a : Nat) (v : Word) : (m.wr a v).tarn = m.tarn := rfl
@[simp] theorem Mach.wr_treeline (m : Mach) (a : Nat) (v : Word) : (m.wr a v).treeline = m.treeline := rfl
@[simp] theorem Mach.wr_cairn (m : Mach) (a : Nat) (v : Word) : (m.wr a v).cairn = m.cairn := rfl
@[simp] theorem Mach.wr_optics (m : Mach) (a : Nat) (v : Word) : (m.wr a v).optics = m.optics := rfl
@[simp] theorem Mach.wr_plan (m : Mach) (a : Nat) (v : Word) : (m.wr a v).plan = m.plan := rfl
@[simp] theorem Mach.wr_ports (m : Mach) (a : Nat) (v : Word) : (m.wr a v).ports = m.ports := rfl
@[simp] theorem Mach.wr_channels (m : Mach) (a : Nat) (v : Word) : (m.wr a v).channels = m.channels := rfl
@[simp] theorem Mach.wr_messages (m : Mach) (a : Nat) (v : Word) : (m.wr a v).messages = m.messages := rfl
@[simp] theorem Mach.wr_sent (m : Mach) (a : Nat) (v : Word) : (m.wr a v).sent = m.sent := rfl
@[simp] theorem Mach.wr_timebase (m : Mach) (a : Nat) (v : Word) : (m.wr a v).timebase = m.timebase := rfl
@[simp] theorem Mach.wr_saddle (m : Mach) (a : Nat) (v : Word) : (m.wr a v).saddle = m.saddle := rfl
@[simp] theorem Mach.wr_group (m : Mach) (a : Nat) (v : Word) : (m.wr a v).group = m.group := rfl
@[simp] theorem Mach.wr_belay (m : Mach) (a : Nat) (v : Word) : (m.wr a v).belay = m.belay := rfl
@[simp] theorem Mach.wr_survey (m : Mach) (a : Nat) (v : Word) : (m.wr a v).survey = m.survey := rfl
@[simp] theorem Mach.wr_arms (m : Mach) (a : Nat) (v : Word) : (m.wr a v).arms = m.arms := rfl

/-! ### `Mach.wrF` -/

@[simp] theorem Mach.wrF_clk (m : Mach) (a : Nat) (f : Fld) (v : Nat) : (m.wrF a f v).clk = m.clk := rfl
@[simp] theorem Mach.wrF_draws (m : Mach) (a : Nat) (f : Fld) (v : Nat) : (m.wrF a f v).draws = m.draws := rfl
@[simp] theorem Mach.wrF_faultN (m : Mach) (a : Nat) (f : Fld) (v : Nat) : (m.wrF a f v).faultN = m.faultN := rfl
@[simp] theorem Mach.wrF_modResetLow (m : Mach) (a : Nat) (f : Fld) (v : Nat) : (m.wrF a f v).modResetLow = m.modResetLow := rfl
@[simp] theorem Mach.wrF_swite (m : Mach) (a : Nat) (f : Fld) (v : Nat) : (m.wrF a f v).swite = m.swite := rfl
@[simp] theorem Mach.wrF_mem (m : Mach) (a : Nat) (f : Fld) (v : Nat) : (m.wrF a f v).mem = m.mem := rfl
@[simp] theorem Mach.wrF_ctxs (m : Mach) (a : Nat) (f : Fld) (v : Nat) : (m.wrF a f v).ctxs = m.ctxs := rfl
@[simp] theorem Mach.wrF_ranges (m : Mach) (a : Nat) (f : Fld) (v : Nat) : (m.wrF a f v).ranges = m.ranges := rfl
@[simp] theorem Mach.wrF_streams (m : Mach) (a : Nat) (f : Fld) (v : Nat) : (m.wrF a f v).streams = m.streams := rfl
@[simp] theorem Mach.wrF_nextStream (m : Mach) (a : Nat) (f : Fld) (v : Nat) : (m.wrF a f v).nextStream = m.nextStream := rfl
@[simp] theorem Mach.wrF_copies (m : Mach) (a : Nat) (f : Fld) (v : Nat) : (m.wrF a f v).copies = m.copies := rfl
@[simp] theorem Mach.wrF_tarn (m : Mach) (a : Nat) (f : Fld) (v : Nat) : (m.wrF a f v).tarn = m.tarn := rfl
@[simp] theorem Mach.wrF_treeline (m : Mach) (a : Nat) (f : Fld) (v : Nat) : (m.wrF a f v).treeline = m.treeline := rfl
@[simp] theorem Mach.wrF_cairn (m : Mach) (a : Nat) (f : Fld) (v : Nat) : (m.wrF a f v).cairn = m.cairn := rfl
@[simp] theorem Mach.wrF_optics (m : Mach) (a : Nat) (f : Fld) (v : Nat) : (m.wrF a f v).optics = m.optics := rfl
@[simp] theorem Mach.wrF_plan (m : Mach) (a : Nat) (f : Fld) (v : Nat) : (m.wrF a f v).plan = m.plan := rfl
@[simp] theorem Mach.wrF_ports (m : Mach) (a : Nat) (f : Fld) (v : Nat) : (m.wrF a f v).ports = m.ports := rfl
@[simp] theorem Mach.wrF_channels (m : Mach) (a : Nat) (f : Fld) (v : Nat) : (m.wrF a f v).channels = m.channels := rfl
@[simp] theorem Mach.wrF_messages (m : Mach) (a : Nat) (f : Fld) (v : Nat) : (m.wrF a f v).messages = m.messages := rfl
@[simp] theorem Mach.wrF_sent (m : Mach) (a : Nat) (f : Fld) (v : Nat) : (m.wrF a f v).sent = m.sent := rfl
@[simp] theorem Mach.wrF_timebase (m : Mach) (a : Nat) (f : Fld) (v : Nat) : (m.wrF a f v).timebase = m.timebase := rfl
@[simp] theorem Mach.wrF_saddle (m : Mach) (a : Nat) (f : Fld) (v : Nat) : (m.wrF a f v).saddle = m.saddle := rfl
@[simp] theorem Mach.wrF_group (m : Mach) (a : Nat) (f : Fld) (v : Nat) : (m.wrF a f v).group = m.group := rfl
@[simp] theorem Mach.wrF_belay (m : Mach) (a : Nat) (f : Fld) (v : Nat) : (m.wrF a f v).belay = m.belay := rfl
@[simp] theorem Mach.wrF_survey (m : Mach) (a : Nat) (f : Fld) (v : Nat) : (m.wrF a f v).survey = m.survey := rfl
@[simp] theorem Mach.wrF_arms (m : Mach) (a : Nat) (f : Fld) (v : Nat) : (m.wrF a f v).arms = m.arms := rfl

/-! ### `Mach.addF` -/

@[simp] theorem Mach.addF_clk (m : Mach) (a : Nat) (f : Fld) (d : Nat) : (m.addF a f d).clk = m.clk := rfl
@[simp] theorem Mach.addF_draws (m : Mach) (a : Nat) (f : Fld) (d : Nat) : (m.addF a f d).draws = m.draws := rfl
@[simp] theorem Mach.addF_faultN (m : Mach) (a : Nat) (f : Fld) (d : Nat) : (m.addF a f d).faultN = m.faultN := rfl
@[simp] theorem Mach.addF_modResetLow (m : Mach) (a : Nat) (f : Fld) (d : Nat) : (m.addF a f d).modResetLow = m.modResetLow := rfl
@[simp] theorem Mach.addF_swite (m : Mach) (a : Nat) (f : Fld) (d : Nat) : (m.addF a f d).swite = m.swite := rfl
@[simp] theorem Mach.addF_mem (m : Mach) (a : Nat) (f : Fld) (d : Nat) : (m.addF a f d).mem = m.mem := rfl
@[simp] theorem Mach.addF_ctxs (m : Mach) (a : Nat) (f : Fld) (d : Nat) : (m.addF a f d).ctxs = m.ctxs := rfl
@[simp] theorem Mach.addF_ranges (m : Mach) (a : Nat) (f : Fld) (d : Nat) : (m.addF a f d).ranges = m.ranges := rfl
@[simp] theorem Mach.addF_streams (m : Mach) (a : Nat) (f : Fld) (d : Nat) : (m.addF a f d).streams = m.streams := rfl
@[simp] theorem Mach.addF_nextStream (m : Mach) (a : Nat) (f : Fld) (d : Nat) : (m.addF a f d).nextStream = m.nextStream := rfl
@[simp] theorem Mach.addF_copies (m : Mach) (a : Nat) (f : Fld) (d : Nat) : (m.addF a f d).copies = m.copies := rfl
@[simp] theorem Mach.addF_tarn (m : Mach) (a : Nat) (f : Fld) (d : Nat) : (m.addF a f d).tarn = m.tarn := rfl
@[simp] theorem Mach.addF_treeline (m : Mach) (a : Nat) (f : Fld) (d : Nat) : (m.addF a f d).treeline = m.treeline := rfl
@[simp] theorem Mach.addF_cairn (m : Mach) (a : Nat) (f : Fld) (d : Nat) : (m.addF a f d).cairn = m.cairn := rfl
@[simp] theorem Mach.addF_optics (m : Mach) (a : Nat) (f : Fld) (d : Nat) : (m.addF a f d).optics = m.optics := rfl
@[simp] theorem Mach.addF_plan (m : Mach) (a : Nat) (f : Fld) (d : Nat) : (m.addF a f d).plan = m.plan := rfl
@[simp] theorem Mach.addF_ports (m : Mach) (a : Nat) (f : Fld) (d : Nat) : (m.addF a f d).ports = m.ports := rfl
@[simp] theorem Mach.addF_channels (m : Mach) (a : Nat) (f : Fld) (d : Nat) : (m.addF a f d).channels = m.channels := rfl
@[simp] theorem Mach.addF_messages (m : Mach) (a : Nat) (f : Fld) (d : Nat) : (m.addF a f d).messages = m.messages := rfl
@[simp] theorem Mach.addF_sent (m : Mach) (a : Nat) (f : Fld) (d : Nat) : (m.addF a f d).sent = m.sent := rfl
@[simp] theorem Mach.addF_timebase (m : Mach) (a : Nat) (f : Fld) (d : Nat) : (m.addF a f d).timebase = m.timebase := rfl
@[simp] theorem Mach.addF_saddle (m : Mach) (a : Nat) (f : Fld) (d : Nat) : (m.addF a f d).saddle = m.saddle := rfl
@[simp] theorem Mach.addF_group (m : Mach) (a : Nat) (f : Fld) (d : Nat) : (m.addF a f d).group = m.group := rfl
@[simp] theorem Mach.addF_belay (m : Mach) (a : Nat) (f : Fld) (d : Nat) : (m.addF a f d).belay = m.belay := rfl
@[simp] theorem Mach.addF_survey (m : Mach) (a : Nat) (f : Fld) (d : Nat) : (m.addF a f d).survey = m.survey := rfl
@[simp] theorem Mach.addF_arms (m : Mach) (a : Nat) (f : Fld) (d : Nat) : (m.addF a f d).arms = m.arms := rfl

/-! ### `Mach.orR` -/

@[simp] theorem Mach.orR_clk (m : Mach) (a bits : Nat) : (m.orR a bits).clk = m.clk := rfl
@[simp] theorem Mach.orR_draws (m : Mach) (a bits : Nat) : (m.orR a bits).draws = m.draws := rfl
@[simp] theorem Mach.orR_faultN (m : Mach) (a bits : Nat) : (m.orR a bits).faultN = m.faultN := rfl
@[simp] theorem Mach.orR_modResetLow (m : Mach) (a bits : Nat) : (m.orR a bits).modResetLow = m.modResetLow := rfl
@[simp] theorem Mach.orR_swite (m : Mach) (a bits : Nat) : (m.orR a bits).swite = m.swite := rfl
@[simp] theorem Mach.orR_mem (m : Mach) (a bits : Nat) : (m.orR a bits).mem = m.mem := rfl
@[simp] theorem Mach.orR_ctxs (m : Mach) (a bits : Nat) : (m.orR a bits).ctxs = m.ctxs := rfl
@[simp] theorem Mach.orR_ranges (m : Mach) (a bits : Nat) : (m.orR a bits).ranges = m.ranges := rfl
@[simp] theorem Mach.orR_streams (m : Mach) (a bits : Nat) : (m.orR a bits).streams = m.streams := rfl
@[simp] theorem Mach.orR_nextStream (m : Mach) (a bits : Nat) : (m.orR a bits).nextStream = m.nextStream := rfl
@[simp] theorem Mach.orR_copies (m : Mach) (a bits : Nat) : (m.orR a bits).copies = m.copies := rfl
@[simp] theorem Mach.orR_tarn (m : Mach) (a bits : Nat) : (m.orR a bits).tarn = m.tarn := rfl
@[simp] theorem Mach.orR_treeline (m : Mach) (a bits : Nat) : (m.orR a bits).treeline = m.treeline := rfl
@[simp] theorem Mach.orR_cairn (m : Mach) (a bits : Nat) : (m.orR a bits).cairn = m.cairn := rfl
@[simp] theorem Mach.orR_optics (m : Mach) (a bits : Nat) : (m.orR a bits).optics = m.optics := rfl
@[simp] theorem Mach.orR_plan (m : Mach) (a bits : Nat) : (m.orR a bits).plan = m.plan := rfl
@[simp] theorem Mach.orR_ports (m : Mach) (a bits : Nat) : (m.orR a bits).ports = m.ports := rfl
@[simp] theorem Mach.orR_channels (m : Mach) (a bits : Nat) : (m.orR a bits).channels = m.channels := rfl
@[simp] theorem Mach.orR_messages (m : Mach) (a bits : Nat) : (m.orR a bits).messages = m.messages := rfl
@[simp] theorem Mach.orR_sent (m : Mach) (a bits : Nat) : (m.orR a bits).sent = m.sent := rfl
@[simp] theorem Mach.orR_timebase (m : Mach) (a bits : Nat) : (m.orR a bits).timebase = m.timebase := rfl
@[simp] theorem Mach.orR_saddle (m : Mach) (a bits : Nat) : (m.orR a bits).saddle = m.saddle := rfl
@[simp] theorem Mach.orR_group (m : Mach) (a bits : Nat) : (m.orR a bits).group = m.group := rfl
@[simp] theorem Mach.orR_belay (m : Mach) (a bits : Nat) : (m.orR a bits).belay = m.belay := rfl
@[simp] theorem Mach.orR_survey (m : Mach) (a bits : Nat) : (m.orR a bits).survey = m.survey := rfl
@[simp] theorem Mach.orR_arms (m : Mach) (a bits : Nat) : (m.orR a bits).arms = m.arms := rfl

/-! ### `Mach.resetRegs` -/

@[simp] theorem Mach.resetRegs_clk (m : Mach) (p : Nat → Bool) : (m.resetRegs p).clk = m.clk := rfl
@[simp] theorem Mach.resetRegs_draws (m : Mach) (p : Nat → Bool) : (m.resetRegs p).draws = m.draws := rfl
@[simp] theorem Mach.resetRegs_faultN (m : Mach) (p : Nat → Bool) : (m.resetRegs p).faultN = m.faultN := rfl
@[simp] theorem Mach.resetRegs_modResetLow (m : Mach) (p : Nat → Bool) : (m.resetRegs p).modResetLow = m.modResetLow := rfl
@[simp] theorem Mach.resetRegs_swite (m : Mach) (p : Nat → Bool) : (m.resetRegs p).swite = m.swite := rfl
@[simp] theorem Mach.resetRegs_mem (m : Mach) (p : Nat → Bool) : (m.resetRegs p).mem = m.mem := rfl
@[simp] theorem Mach.resetRegs_ctxs (m : Mach) (p : Nat → Bool) : (m.resetRegs p).ctxs = m.ctxs := rfl
@[simp] theorem Mach.resetRegs_ranges (m : Mach) (p : Nat → Bool) : (m.resetRegs p).ranges = m.ranges := rfl
@[simp] theorem Mach.resetRegs_streams (m : Mach) (p : Nat → Bool) : (m.resetRegs p).streams = m.streams := rfl
@[simp] theorem Mach.resetRegs_nextStream (m : Mach) (p : Nat → Bool) : (m.resetRegs p).nextStream = m.nextStream := rfl
@[simp] theorem Mach.resetRegs_copies (m : Mach) (p : Nat → Bool) : (m.resetRegs p).copies = m.copies := rfl
@[simp] theorem Mach.resetRegs_tarn (m : Mach) (p : Nat → Bool) : (m.resetRegs p).tarn = m.tarn := rfl
@[simp] theorem Mach.resetRegs_treeline (m : Mach) (p : Nat → Bool) : (m.resetRegs p).treeline = m.treeline := rfl
@[simp] theorem Mach.resetRegs_cairn (m : Mach) (p : Nat → Bool) : (m.resetRegs p).cairn = m.cairn := rfl
@[simp] theorem Mach.resetRegs_optics (m : Mach) (p : Nat → Bool) : (m.resetRegs p).optics = m.optics := rfl
@[simp] theorem Mach.resetRegs_plan (m : Mach) (p : Nat → Bool) : (m.resetRegs p).plan = m.plan := rfl
@[simp] theorem Mach.resetRegs_ports (m : Mach) (p : Nat → Bool) : (m.resetRegs p).ports = m.ports := rfl
@[simp] theorem Mach.resetRegs_channels (m : Mach) (p : Nat → Bool) : (m.resetRegs p).channels = m.channels := rfl
@[simp] theorem Mach.resetRegs_messages (m : Mach) (p : Nat → Bool) : (m.resetRegs p).messages = m.messages := rfl
@[simp] theorem Mach.resetRegs_sent (m : Mach) (p : Nat → Bool) : (m.resetRegs p).sent = m.sent := rfl
@[simp] theorem Mach.resetRegs_timebase (m : Mach) (p : Nat → Bool) : (m.resetRegs p).timebase = m.timebase := rfl
@[simp] theorem Mach.resetRegs_saddle (m : Mach) (p : Nat → Bool) : (m.resetRegs p).saddle = m.saddle := rfl
@[simp] theorem Mach.resetRegs_group (m : Mach) (p : Nat → Bool) : (m.resetRegs p).group = m.group := rfl
@[simp] theorem Mach.resetRegs_belay (m : Mach) (p : Nat → Bool) : (m.resetRegs p).belay = m.belay := rfl
@[simp] theorem Mach.resetRegs_survey (m : Mach) (p : Nat → Bool) : (m.resetRegs p).survey = m.survey := rfl
@[simp] theorem Mach.resetRegs_arms (m : Mach) (p : Nat → Bool) : (m.resetRegs p).arms = m.arms := rfl

/-! ### `Mach.trouble` -/

@[simp] theorem Mach.trouble_clk (m : Mach) (b : Nat) : (m.trouble b).clk = m.clk := rfl
@[simp] theorem Mach.trouble_draws (m : Mach) (b : Nat) : (m.trouble b).draws = m.draws := rfl
@[simp] theorem Mach.trouble_faultN (m : Mach) (b : Nat) : (m.trouble b).faultN = m.faultN := rfl
@[simp] theorem Mach.trouble_modResetLow (m : Mach) (b : Nat) : (m.trouble b).modResetLow = m.modResetLow := rfl
@[simp] theorem Mach.trouble_swite (m : Mach) (b : Nat) : (m.trouble b).swite = m.swite := rfl
@[simp] theorem Mach.trouble_mem (m : Mach) (b : Nat) : (m.trouble b).mem = m.mem := rfl
@[simp] theorem Mach.trouble_ctxs (m : Mach) (b : Nat) : (m.trouble b).ctxs = m.ctxs := rfl
@[simp] theorem Mach.trouble_ranges (m : Mach) (b : Nat) : (m.trouble b).ranges = m.ranges := rfl
@[simp] theorem Mach.trouble_streams (m : Mach) (b : Nat) : (m.trouble b).streams = m.streams := rfl
@[simp] theorem Mach.trouble_nextStream (m : Mach) (b : Nat) : (m.trouble b).nextStream = m.nextStream := rfl
@[simp] theorem Mach.trouble_copies (m : Mach) (b : Nat) : (m.trouble b).copies = m.copies := rfl
@[simp] theorem Mach.trouble_tarn (m : Mach) (b : Nat) : (m.trouble b).tarn = m.tarn := rfl
@[simp] theorem Mach.trouble_treeline (m : Mach) (b : Nat) : (m.trouble b).treeline = m.treeline := rfl
@[simp] theorem Mach.trouble_cairn (m : Mach) (b : Nat) : (m.trouble b).cairn = m.cairn := rfl
@[simp] theorem Mach.trouble_optics (m : Mach) (b : Nat) : (m.trouble b).optics = m.optics := rfl
@[simp] theorem Mach.trouble_plan (m : Mach) (b : Nat) : (m.trouble b).plan = m.plan := rfl
@[simp] theorem Mach.trouble_ports (m : Mach) (b : Nat) : (m.trouble b).ports = m.ports := rfl
@[simp] theorem Mach.trouble_channels (m : Mach) (b : Nat) : (m.trouble b).channels = m.channels := rfl
@[simp] theorem Mach.trouble_messages (m : Mach) (b : Nat) : (m.trouble b).messages = m.messages := rfl
@[simp] theorem Mach.trouble_sent (m : Mach) (b : Nat) : (m.trouble b).sent = m.sent := rfl
@[simp] theorem Mach.trouble_timebase (m : Mach) (b : Nat) : (m.trouble b).timebase = m.timebase := rfl
@[simp] theorem Mach.trouble_saddle (m : Mach) (b : Nat) : (m.trouble b).saddle = m.saddle := rfl
@[simp] theorem Mach.trouble_group (m : Mach) (b : Nat) : (m.trouble b).group = m.group := rfl
@[simp] theorem Mach.trouble_belay (m : Mach) (b : Nat) : (m.trouble b).belay = m.belay := rfl
@[simp] theorem Mach.trouble_survey (m : Mach) (b : Nat) : (m.trouble b).survey = m.survey := rfl
@[simp] theorem Mach.trouble_arms (m : Mach) (b : Nat) : (m.trouble b).arms = m.arms := rfl

/-! ### `Mach.tally` -/

@[simp] theorem Mach.tally_clk (m : Mach) (u i : Nat) : (m.tally u i).clk = m.clk := rfl
@[simp] theorem Mach.tally_draws (m : Mach) (u i : Nat) : (m.tally u i).draws = m.draws := rfl
@[simp] theorem Mach.tally_csr (m : Mach) (u i : Nat) : (m.tally u i).csr = m.csr := rfl
@[simp] theorem Mach.tally_faultN (m : Mach) (u i : Nat) : (m.tally u i).faultN = m.faultN := rfl
@[simp] theorem Mach.tally_modResetLow (m : Mach) (u i : Nat) : (m.tally u i).modResetLow = m.modResetLow := rfl
@[simp] theorem Mach.tally_swite (m : Mach) (u i : Nat) : (m.tally u i).swite = m.swite := rfl
@[simp] theorem Mach.tally_mem (m : Mach) (u i : Nat) : (m.tally u i).mem = m.mem := rfl
@[simp] theorem Mach.tally_ctxs (m : Mach) (u i : Nat) : (m.tally u i).ctxs = m.ctxs := rfl
@[simp] theorem Mach.tally_ranges (m : Mach) (u i : Nat) : (m.tally u i).ranges = m.ranges := rfl
@[simp] theorem Mach.tally_streams (m : Mach) (u i : Nat) : (m.tally u i).streams = m.streams := rfl
@[simp] theorem Mach.tally_nextStream (m : Mach) (u i : Nat) : (m.tally u i).nextStream = m.nextStream := rfl
@[simp] theorem Mach.tally_copies (m : Mach) (u i : Nat) : (m.tally u i).copies = m.copies := rfl
@[simp] theorem Mach.tally_tarn (m : Mach) (u i : Nat) : (m.tally u i).tarn = m.tarn := rfl
@[simp] theorem Mach.tally_treeline (m : Mach) (u i : Nat) : (m.tally u i).treeline = m.treeline := rfl
@[simp] theorem Mach.tally_cairn (m : Mach) (u i : Nat) : (m.tally u i).cairn = m.cairn := rfl
@[simp] theorem Mach.tally_optics (m : Mach) (u i : Nat) : (m.tally u i).optics = m.optics := rfl
@[simp] theorem Mach.tally_plan (m : Mach) (u i : Nat) : (m.tally u i).plan = m.plan := rfl
@[simp] theorem Mach.tally_ports (m : Mach) (u i : Nat) : (m.tally u i).ports = m.ports := rfl
@[simp] theorem Mach.tally_channels (m : Mach) (u i : Nat) : (m.tally u i).channels = m.channels := rfl
@[simp] theorem Mach.tally_messages (m : Mach) (u i : Nat) : (m.tally u i).messages = m.messages := rfl
@[simp] theorem Mach.tally_sent (m : Mach) (u i : Nat) : (m.tally u i).sent = m.sent := rfl
@[simp] theorem Mach.tally_timebase (m : Mach) (u i : Nat) : (m.tally u i).timebase = m.timebase := rfl
@[simp] theorem Mach.tally_saddle (m : Mach) (u i : Nat) : (m.tally u i).saddle = m.saddle := rfl
@[simp] theorem Mach.tally_group (m : Mach) (u i : Nat) : (m.tally u i).group = m.group := rfl
@[simp] theorem Mach.tally_belay (m : Mach) (u i : Nat) : (m.tally u i).belay = m.belay := rfl
@[simp] theorem Mach.tally_arms (m : Mach) (u i : Nat) : (m.tally u i).arms = m.arms := rfl

/-! ### `Mach.drawn` -/

@[simp] theorem Mach.drawn_clk (m : Mach) : (m.drawn ).clk = m.clk := rfl
@[simp] theorem Mach.drawn_csr (m : Mach) : (m.drawn ).csr = m.csr := rfl
@[simp] theorem Mach.drawn_faultN (m : Mach) : (m.drawn ).faultN = m.faultN := rfl
@[simp] theorem Mach.drawn_modResetLow (m : Mach) : (m.drawn ).modResetLow = m.modResetLow := rfl
@[simp] theorem Mach.drawn_swite (m : Mach) : (m.drawn ).swite = m.swite := rfl
@[simp] theorem Mach.drawn_mem (m : Mach) : (m.drawn ).mem = m.mem := rfl
@[simp] theorem Mach.drawn_ctxs (m : Mach) : (m.drawn ).ctxs = m.ctxs := rfl
@[simp] theorem Mach.drawn_ranges (m : Mach) : (m.drawn ).ranges = m.ranges := rfl
@[simp] theorem Mach.drawn_streams (m : Mach) : (m.drawn ).streams = m.streams := rfl
@[simp] theorem Mach.drawn_nextStream (m : Mach) : (m.drawn ).nextStream = m.nextStream := rfl
@[simp] theorem Mach.drawn_copies (m : Mach) : (m.drawn ).copies = m.copies := rfl
@[simp] theorem Mach.drawn_tarn (m : Mach) : (m.drawn ).tarn = m.tarn := rfl
@[simp] theorem Mach.drawn_treeline (m : Mach) : (m.drawn ).treeline = m.treeline := rfl
@[simp] theorem Mach.drawn_cairn (m : Mach) : (m.drawn ).cairn = m.cairn := rfl
@[simp] theorem Mach.drawn_optics (m : Mach) : (m.drawn ).optics = m.optics := rfl
@[simp] theorem Mach.drawn_plan (m : Mach) : (m.drawn ).plan = m.plan := rfl
@[simp] theorem Mach.drawn_ports (m : Mach) : (m.drawn ).ports = m.ports := rfl
@[simp] theorem Mach.drawn_channels (m : Mach) : (m.drawn ).channels = m.channels := rfl
@[simp] theorem Mach.drawn_messages (m : Mach) : (m.drawn ).messages = m.messages := rfl
@[simp] theorem Mach.drawn_sent (m : Mach) : (m.drawn ).sent = m.sent := rfl
@[simp] theorem Mach.drawn_timebase (m : Mach) : (m.drawn ).timebase = m.timebase := rfl
@[simp] theorem Mach.drawn_saddle (m : Mach) : (m.drawn ).saddle = m.saddle := rfl
@[simp] theorem Mach.drawn_group (m : Mach) : (m.drawn ).group = m.group := rfl
@[simp] theorem Mach.drawn_belay (m : Mach) : (m.drawn ).belay = m.belay := rfl
@[simp] theorem Mach.drawn_survey (m : Mach) : (m.drawn ).survey = m.survey := rfl
@[simp] theorem Mach.drawn_arms (m : Mach) : (m.drawn ).arms = m.arms := rfl

/-! ### `Mach.tick` -/

@[simp] theorem Mach.tick_draws (m : Mach) : (m.tick ).draws = m.draws := rfl
@[simp] theorem Mach.tick_csr (m : Mach) : (m.tick ).csr = m.csr := rfl
@[simp] theorem Mach.tick_faultN (m : Mach) : (m.tick ).faultN = m.faultN := rfl
@[simp] theorem Mach.tick_modResetLow (m : Mach) : (m.tick ).modResetLow = m.modResetLow := rfl
@[simp] theorem Mach.tick_swite (m : Mach) : (m.tick ).swite = m.swite := rfl
@[simp] theorem Mach.tick_mem (m : Mach) : (m.tick ).mem = m.mem := rfl
@[simp] theorem Mach.tick_ctxs (m : Mach) : (m.tick ).ctxs = m.ctxs := rfl
@[simp] theorem Mach.tick_ranges (m : Mach) : (m.tick ).ranges = m.ranges := rfl
@[simp] theorem Mach.tick_streams (m : Mach) : (m.tick ).streams = m.streams := rfl
@[simp] theorem Mach.tick_nextStream (m : Mach) : (m.tick ).nextStream = m.nextStream := rfl
@[simp] theorem Mach.tick_copies (m : Mach) : (m.tick ).copies = m.copies := rfl
@[simp] theorem Mach.tick_tarn (m : Mach) : (m.tick ).tarn = m.tarn := rfl
@[simp] theorem Mach.tick_treeline (m : Mach) : (m.tick ).treeline = m.treeline := rfl
@[simp] theorem Mach.tick_cairn (m : Mach) : (m.tick ).cairn = m.cairn := rfl
@[simp] theorem Mach.tick_optics (m : Mach) : (m.tick ).optics = m.optics := rfl
@[simp] theorem Mach.tick_plan (m : Mach) : (m.tick ).plan = m.plan := rfl
@[simp] theorem Mach.tick_ports (m : Mach) : (m.tick ).ports = m.ports := rfl
@[simp] theorem Mach.tick_channels (m : Mach) : (m.tick ).channels = m.channels := rfl
@[simp] theorem Mach.tick_messages (m : Mach) : (m.tick ).messages = m.messages := rfl
@[simp] theorem Mach.tick_sent (m : Mach) : (m.tick ).sent = m.sent := rfl
@[simp] theorem Mach.tick_saddle (m : Mach) : (m.tick ).saddle = m.saddle := rfl
@[simp] theorem Mach.tick_group (m : Mach) : (m.tick ).group = m.group := rfl
@[simp] theorem Mach.tick_belay (m : Mach) : (m.tick ).belay = m.belay := rfl
@[simp] theorem Mach.tick_survey (m : Mach) : (m.tick ).survey = m.survey := rfl
@[simp] theorem Mach.tick_arms (m : Mach) : (m.tick ).arms = m.arms := rfl

/-! ### `Mach.setCtx` -/

@[simp] theorem Mach.setCtx_clk (m : Mach) (c : Nat) (x : Option Ctx) : (m.setCtx c x).clk = m.clk := rfl
@[simp] theorem Mach.setCtx_draws (m : Mach) (c : Nat) (x : Option Ctx) : (m.setCtx c x).draws = m.draws := rfl
@[simp] theorem Mach.setCtx_csr (m : Mach) (c : Nat) (x : Option Ctx) : (m.setCtx c x).csr = m.csr := rfl
@[simp] theorem Mach.setCtx_faultN (m : Mach) (c : Nat) (x : Option Ctx) : (m.setCtx c x).faultN = m.faultN := rfl
@[simp] theorem Mach.setCtx_modResetLow (m : Mach) (c : Nat) (x : Option Ctx) : (m.setCtx c x).modResetLow = m.modResetLow := rfl
@[simp] theorem Mach.setCtx_swite (m : Mach) (c : Nat) (x : Option Ctx) : (m.setCtx c x).swite = m.swite := rfl
@[simp] theorem Mach.setCtx_mem (m : Mach) (c : Nat) (x : Option Ctx) : (m.setCtx c x).mem = m.mem := rfl
@[simp] theorem Mach.setCtx_ranges (m : Mach) (c : Nat) (x : Option Ctx) : (m.setCtx c x).ranges = m.ranges := rfl
@[simp] theorem Mach.setCtx_streams (m : Mach) (c : Nat) (x : Option Ctx) : (m.setCtx c x).streams = m.streams := rfl
@[simp] theorem Mach.setCtx_nextStream (m : Mach) (c : Nat) (x : Option Ctx) : (m.setCtx c x).nextStream = m.nextStream := rfl
@[simp] theorem Mach.setCtx_copies (m : Mach) (c : Nat) (x : Option Ctx) : (m.setCtx c x).copies = m.copies := rfl
@[simp] theorem Mach.setCtx_tarn (m : Mach) (c : Nat) (x : Option Ctx) : (m.setCtx c x).tarn = m.tarn := rfl
@[simp] theorem Mach.setCtx_treeline (m : Mach) (c : Nat) (x : Option Ctx) : (m.setCtx c x).treeline = m.treeline := rfl
@[simp] theorem Mach.setCtx_cairn (m : Mach) (c : Nat) (x : Option Ctx) : (m.setCtx c x).cairn = m.cairn := rfl
@[simp] theorem Mach.setCtx_optics (m : Mach) (c : Nat) (x : Option Ctx) : (m.setCtx c x).optics = m.optics := rfl
@[simp] theorem Mach.setCtx_plan (m : Mach) (c : Nat) (x : Option Ctx) : (m.setCtx c x).plan = m.plan := rfl
@[simp] theorem Mach.setCtx_ports (m : Mach) (c : Nat) (x : Option Ctx) : (m.setCtx c x).ports = m.ports := rfl
@[simp] theorem Mach.setCtx_channels (m : Mach) (c : Nat) (x : Option Ctx) : (m.setCtx c x).channels = m.channels := rfl
@[simp] theorem Mach.setCtx_messages (m : Mach) (c : Nat) (x : Option Ctx) : (m.setCtx c x).messages = m.messages := rfl
@[simp] theorem Mach.setCtx_sent (m : Mach) (c : Nat) (x : Option Ctx) : (m.setCtx c x).sent = m.sent := rfl
@[simp] theorem Mach.setCtx_timebase (m : Mach) (c : Nat) (x : Option Ctx) : (m.setCtx c x).timebase = m.timebase := rfl
@[simp] theorem Mach.setCtx_saddle (m : Mach) (c : Nat) (x : Option Ctx) : (m.setCtx c x).saddle = m.saddle := rfl
@[simp] theorem Mach.setCtx_group (m : Mach) (c : Nat) (x : Option Ctx) : (m.setCtx c x).group = m.group := rfl
@[simp] theorem Mach.setCtx_belay (m : Mach) (c : Nat) (x : Option Ctx) : (m.setCtx c x).belay = m.belay := rfl
@[simp] theorem Mach.setCtx_survey (m : Mach) (c : Nat) (x : Option Ctx) : (m.setCtx c x).survey = m.survey := rfl
@[simp] theorem Mach.setCtx_arms (m : Mach) (c : Nat) (x : Option Ctx) : (m.setCtx c x).arms = m.arms := rfl

/-! ### `Mach.setRange` -/

@[simp] theorem Mach.setRange_clk (m : Mach) (n : Nat) (r : RangeSt) : (m.setRange n r).clk = m.clk := rfl
@[simp] theorem Mach.setRange_draws (m : Mach) (n : Nat) (r : RangeSt) : (m.setRange n r).draws = m.draws := rfl
@[simp] theorem Mach.setRange_csr (m : Mach) (n : Nat) (r : RangeSt) : (m.setRange n r).csr = m.csr := rfl
@[simp] theorem Mach.setRange_faultN (m : Mach) (n : Nat) (r : RangeSt) : (m.setRange n r).faultN = m.faultN := rfl
@[simp] theorem Mach.setRange_modResetLow (m : Mach) (n : Nat) (r : RangeSt) : (m.setRange n r).modResetLow = m.modResetLow := rfl
@[simp] theorem Mach.setRange_swite (m : Mach) (n : Nat) (r : RangeSt) : (m.setRange n r).swite = m.swite := rfl
@[simp] theorem Mach.setRange_mem (m : Mach) (n : Nat) (r : RangeSt) : (m.setRange n r).mem = m.mem := rfl
@[simp] theorem Mach.setRange_ctxs (m : Mach) (n : Nat) (r : RangeSt) : (m.setRange n r).ctxs = m.ctxs := rfl
@[simp] theorem Mach.setRange_streams (m : Mach) (n : Nat) (r : RangeSt) : (m.setRange n r).streams = m.streams := rfl
@[simp] theorem Mach.setRange_nextStream (m : Mach) (n : Nat) (r : RangeSt) : (m.setRange n r).nextStream = m.nextStream := rfl
@[simp] theorem Mach.setRange_copies (m : Mach) (n : Nat) (r : RangeSt) : (m.setRange n r).copies = m.copies := rfl
@[simp] theorem Mach.setRange_tarn (m : Mach) (n : Nat) (r : RangeSt) : (m.setRange n r).tarn = m.tarn := rfl
@[simp] theorem Mach.setRange_treeline (m : Mach) (n : Nat) (r : RangeSt) : (m.setRange n r).treeline = m.treeline := rfl
@[simp] theorem Mach.setRange_cairn (m : Mach) (n : Nat) (r : RangeSt) : (m.setRange n r).cairn = m.cairn := rfl
@[simp] theorem Mach.setRange_optics (m : Mach) (n : Nat) (r : RangeSt) : (m.setRange n r).optics = m.optics := rfl
@[simp] theorem Mach.setRange_plan (m : Mach) (n : Nat) (r : RangeSt) : (m.setRange n r).plan = m.plan := rfl
@[simp] theorem Mach.setRange_ports (m : Mach) (n : Nat) (r : RangeSt) : (m.setRange n r).ports = m.ports := rfl
@[simp] theorem Mach.setRange_channels (m : Mach) (n : Nat) (r : RangeSt) : (m.setRange n r).channels = m.channels := rfl
@[simp] theorem Mach.setRange_messages (m : Mach) (n : Nat) (r : RangeSt) : (m.setRange n r).messages = m.messages := rfl
@[simp] theorem Mach.setRange_sent (m : Mach) (n : Nat) (r : RangeSt) : (m.setRange n r).sent = m.sent := rfl
@[simp] theorem Mach.setRange_timebase (m : Mach) (n : Nat) (r : RangeSt) : (m.setRange n r).timebase = m.timebase := rfl
@[simp] theorem Mach.setRange_saddle (m : Mach) (n : Nat) (r : RangeSt) : (m.setRange n r).saddle = m.saddle := rfl
@[simp] theorem Mach.setRange_group (m : Mach) (n : Nat) (r : RangeSt) : (m.setRange n r).group = m.group := rfl
@[simp] theorem Mach.setRange_belay (m : Mach) (n : Nat) (r : RangeSt) : (m.setRange n r).belay = m.belay := rfl
@[simp] theorem Mach.setRange_survey (m : Mach) (n : Nat) (r : RangeSt) : (m.setRange n r).survey = m.survey := rfl
@[simp] theorem Mach.setRange_arms (m : Mach) (n : Nat) (r : RangeSt) : (m.setRange n r).arms = m.arms := rfl

/-! ### `Mach.updRange` -/

@[simp] theorem Mach.updRange_clk (m : Mach) (n : Nat) (f : RangeSt → RangeSt) : (m.updRange n f).clk = m.clk := rfl
@[simp] theorem Mach.updRange_draws (m : Mach) (n : Nat) (f : RangeSt → RangeSt) : (m.updRange n f).draws = m.draws := rfl
@[simp] theorem Mach.updRange_csr (m : Mach) (n : Nat) (f : RangeSt → RangeSt) : (m.updRange n f).csr = m.csr := rfl
@[simp] theorem Mach.updRange_faultN (m : Mach) (n : Nat) (f : RangeSt → RangeSt) : (m.updRange n f).faultN = m.faultN := rfl
@[simp] theorem Mach.updRange_modResetLow (m : Mach) (n : Nat) (f : RangeSt → RangeSt) : (m.updRange n f).modResetLow = m.modResetLow := rfl
@[simp] theorem Mach.updRange_swite (m : Mach) (n : Nat) (f : RangeSt → RangeSt) : (m.updRange n f).swite = m.swite := rfl
@[simp] theorem Mach.updRange_mem (m : Mach) (n : Nat) (f : RangeSt → RangeSt) : (m.updRange n f).mem = m.mem := rfl
@[simp] theorem Mach.updRange_ctxs (m : Mach) (n : Nat) (f : RangeSt → RangeSt) : (m.updRange n f).ctxs = m.ctxs := rfl
@[simp] theorem Mach.updRange_streams (m : Mach) (n : Nat) (f : RangeSt → RangeSt) : (m.updRange n f).streams = m.streams := rfl
@[simp] theorem Mach.updRange_nextStream (m : Mach) (n : Nat) (f : RangeSt → RangeSt) : (m.updRange n f).nextStream = m.nextStream := rfl
@[simp] theorem Mach.updRange_copies (m : Mach) (n : Nat) (f : RangeSt → RangeSt) : (m.updRange n f).copies = m.copies := rfl
@[simp] theorem Mach.updRange_tarn (m : Mach) (n : Nat) (f : RangeSt → RangeSt) : (m.updRange n f).tarn = m.tarn := rfl
@[simp] theorem Mach.updRange_treeline (m : Mach) (n : Nat) (f : RangeSt → RangeSt) : (m.updRange n f).treeline = m.treeline := rfl
@[simp] theorem Mach.updRange_cairn (m : Mach) (n : Nat) (f : RangeSt → RangeSt) : (m.updRange n f).cairn = m.cairn := rfl
@[simp] theorem Mach.updRange_optics (m : Mach) (n : Nat) (f : RangeSt → RangeSt) : (m.updRange n f).optics = m.optics := rfl
@[simp] theorem Mach.updRange_plan (m : Mach) (n : Nat) (f : RangeSt → RangeSt) : (m.updRange n f).plan = m.plan := rfl
@[simp] theorem Mach.updRange_ports (m : Mach) (n : Nat) (f : RangeSt → RangeSt) : (m.updRange n f).ports = m.ports := rfl
@[simp] theorem Mach.updRange_channels (m : Mach) (n : Nat) (f : RangeSt → RangeSt) : (m.updRange n f).channels = m.channels := rfl
@[simp] theorem Mach.updRange_messages (m : Mach) (n : Nat) (f : RangeSt → RangeSt) : (m.updRange n f).messages = m.messages := rfl
@[simp] theorem Mach.updRange_sent (m : Mach) (n : Nat) (f : RangeSt → RangeSt) : (m.updRange n f).sent = m.sent := rfl
@[simp] theorem Mach.updRange_timebase (m : Mach) (n : Nat) (f : RangeSt → RangeSt) : (m.updRange n f).timebase = m.timebase := rfl
@[simp] theorem Mach.updRange_saddle (m : Mach) (n : Nat) (f : RangeSt → RangeSt) : (m.updRange n f).saddle = m.saddle := rfl
@[simp] theorem Mach.updRange_group (m : Mach) (n : Nat) (f : RangeSt → RangeSt) : (m.updRange n f).group = m.group := rfl
@[simp] theorem Mach.updRange_belay (m : Mach) (n : Nat) (f : RangeSt → RangeSt) : (m.updRange n f).belay = m.belay := rfl
@[simp] theorem Mach.updRange_survey (m : Mach) (n : Nat) (f : RangeSt → RangeSt) : (m.updRange n f).survey = m.survey := rfl
@[simp] theorem Mach.updRange_arms (m : Mach) (n : Nat) (f : RangeSt → RangeSt) : (m.updRange n f).arms = m.arms := rfl

/-! ### `Mach.updPort` -/

@[simp] theorem Mach.updPort_clk (m : Mach) (p : Nat) (f : PortSt → PortSt) : (m.updPort p f).clk = m.clk := rfl
@[simp] theorem Mach.updPort_draws (m : Mach) (p : Nat) (f : PortSt → PortSt) : (m.updPort p f).draws = m.draws := rfl
@[simp] theorem Mach.updPort_csr (m : Mach) (p : Nat) (f : PortSt → PortSt) : (m.updPort p f).csr = m.csr := rfl
@[simp] theorem Mach.updPort_faultN (m : Mach) (p : Nat) (f : PortSt → PortSt) : (m.updPort p f).faultN = m.faultN := rfl
@[simp] theorem Mach.updPort_modResetLow (m : Mach) (p : Nat) (f : PortSt → PortSt) : (m.updPort p f).modResetLow = m.modResetLow := rfl
@[simp] theorem Mach.updPort_swite (m : Mach) (p : Nat) (f : PortSt → PortSt) : (m.updPort p f).swite = m.swite := rfl
@[simp] theorem Mach.updPort_mem (m : Mach) (p : Nat) (f : PortSt → PortSt) : (m.updPort p f).mem = m.mem := rfl
@[simp] theorem Mach.updPort_ctxs (m : Mach) (p : Nat) (f : PortSt → PortSt) : (m.updPort p f).ctxs = m.ctxs := rfl
@[simp] theorem Mach.updPort_ranges (m : Mach) (p : Nat) (f : PortSt → PortSt) : (m.updPort p f).ranges = m.ranges := rfl
@[simp] theorem Mach.updPort_streams (m : Mach) (p : Nat) (f : PortSt → PortSt) : (m.updPort p f).streams = m.streams := rfl
@[simp] theorem Mach.updPort_nextStream (m : Mach) (p : Nat) (f : PortSt → PortSt) : (m.updPort p f).nextStream = m.nextStream := rfl
@[simp] theorem Mach.updPort_copies (m : Mach) (p : Nat) (f : PortSt → PortSt) : (m.updPort p f).copies = m.copies := rfl
@[simp] theorem Mach.updPort_tarn (m : Mach) (p : Nat) (f : PortSt → PortSt) : (m.updPort p f).tarn = m.tarn := rfl
@[simp] theorem Mach.updPort_treeline (m : Mach) (p : Nat) (f : PortSt → PortSt) : (m.updPort p f).treeline = m.treeline := rfl
@[simp] theorem Mach.updPort_cairn (m : Mach) (p : Nat) (f : PortSt → PortSt) : (m.updPort p f).cairn = m.cairn := rfl
@[simp] theorem Mach.updPort_optics (m : Mach) (p : Nat) (f : PortSt → PortSt) : (m.updPort p f).optics = m.optics := rfl
@[simp] theorem Mach.updPort_plan (m : Mach) (p : Nat) (f : PortSt → PortSt) : (m.updPort p f).plan = m.plan := rfl
@[simp] theorem Mach.updPort_channels (m : Mach) (p : Nat) (f : PortSt → PortSt) : (m.updPort p f).channels = m.channels := rfl
@[simp] theorem Mach.updPort_messages (m : Mach) (p : Nat) (f : PortSt → PortSt) : (m.updPort p f).messages = m.messages := rfl
@[simp] theorem Mach.updPort_sent (m : Mach) (p : Nat) (f : PortSt → PortSt) : (m.updPort p f).sent = m.sent := rfl
@[simp] theorem Mach.updPort_timebase (m : Mach) (p : Nat) (f : PortSt → PortSt) : (m.updPort p f).timebase = m.timebase := rfl
@[simp] theorem Mach.updPort_saddle (m : Mach) (p : Nat) (f : PortSt → PortSt) : (m.updPort p f).saddle = m.saddle := rfl
@[simp] theorem Mach.updPort_group (m : Mach) (p : Nat) (f : PortSt → PortSt) : (m.updPort p f).group = m.group := rfl
@[simp] theorem Mach.updPort_belay (m : Mach) (p : Nat) (f : PortSt → PortSt) : (m.updPort p f).belay = m.belay := rfl
@[simp] theorem Mach.updPort_survey (m : Mach) (p : Nat) (f : PortSt → PortSt) : (m.updPort p f).survey = m.survey := rfl
@[simp] theorem Mach.updPort_arms (m : Mach) (p : Nat) (f : PortSt → PortSt) : (m.updPort p f).arms = m.arms := rfl

/-! ### `Mach.updIsland` -/

@[simp] theorem Mach.updIsland_clk (m : Mach) (i : Nat) (f : Island → Island) : (m.updIsland i f).clk = m.clk := rfl
@[simp] theorem Mach.updIsland_draws (m : Mach) (i : Nat) (f : Island → Island) : (m.updIsland i f).draws = m.draws := rfl
@[simp] theorem Mach.updIsland_csr (m : Mach) (i : Nat) (f : Island → Island) : (m.updIsland i f).csr = m.csr := rfl
@[simp] theorem Mach.updIsland_faultN (m : Mach) (i : Nat) (f : Island → Island) : (m.updIsland i f).faultN = m.faultN := rfl
@[simp] theorem Mach.updIsland_modResetLow (m : Mach) (i : Nat) (f : Island → Island) : (m.updIsland i f).modResetLow = m.modResetLow := rfl
@[simp] theorem Mach.updIsland_swite (m : Mach) (i : Nat) (f : Island → Island) : (m.updIsland i f).swite = m.swite := rfl
@[simp] theorem Mach.updIsland_mem (m : Mach) (i : Nat) (f : Island → Island) : (m.updIsland i f).mem = m.mem := rfl
@[simp] theorem Mach.updIsland_ctxs (m : Mach) (i : Nat) (f : Island → Island) : (m.updIsland i f).ctxs = m.ctxs := rfl
@[simp] theorem Mach.updIsland_ranges (m : Mach) (i : Nat) (f : Island → Island) : (m.updIsland i f).ranges = m.ranges := rfl
@[simp] theorem Mach.updIsland_streams (m : Mach) (i : Nat) (f : Island → Island) : (m.updIsland i f).streams = m.streams := rfl
@[simp] theorem Mach.updIsland_nextStream (m : Mach) (i : Nat) (f : Island → Island) : (m.updIsland i f).nextStream = m.nextStream := rfl
@[simp] theorem Mach.updIsland_copies (m : Mach) (i : Nat) (f : Island → Island) : (m.updIsland i f).copies = m.copies := rfl
@[simp] theorem Mach.updIsland_tarn (m : Mach) (i : Nat) (f : Island → Island) : (m.updIsland i f).tarn = m.tarn := rfl
@[simp] theorem Mach.updIsland_cairn (m : Mach) (i : Nat) (f : Island → Island) : (m.updIsland i f).cairn = m.cairn := rfl
@[simp] theorem Mach.updIsland_optics (m : Mach) (i : Nat) (f : Island → Island) : (m.updIsland i f).optics = m.optics := rfl
@[simp] theorem Mach.updIsland_plan (m : Mach) (i : Nat) (f : Island → Island) : (m.updIsland i f).plan = m.plan := rfl
@[simp] theorem Mach.updIsland_ports (m : Mach) (i : Nat) (f : Island → Island) : (m.updIsland i f).ports = m.ports := rfl
@[simp] theorem Mach.updIsland_channels (m : Mach) (i : Nat) (f : Island → Island) : (m.updIsland i f).channels = m.channels := rfl
@[simp] theorem Mach.updIsland_messages (m : Mach) (i : Nat) (f : Island → Island) : (m.updIsland i f).messages = m.messages := rfl
@[simp] theorem Mach.updIsland_sent (m : Mach) (i : Nat) (f : Island → Island) : (m.updIsland i f).sent = m.sent := rfl
@[simp] theorem Mach.updIsland_timebase (m : Mach) (i : Nat) (f : Island → Island) : (m.updIsland i f).timebase = m.timebase := rfl
@[simp] theorem Mach.updIsland_saddle (m : Mach) (i : Nat) (f : Island → Island) : (m.updIsland i f).saddle = m.saddle := rfl
@[simp] theorem Mach.updIsland_group (m : Mach) (i : Nat) (f : Island → Island) : (m.updIsland i f).group = m.group := rfl
@[simp] theorem Mach.updIsland_belay (m : Mach) (i : Nat) (f : Island → Island) : (m.updIsland i f).belay = m.belay := rfl
@[simp] theorem Mach.updIsland_survey (m : Mach) (i : Nat) (f : Island → Island) : (m.updIsland i f).survey = m.survey := rfl
@[simp] theorem Mach.updIsland_arms (m : Mach) (i : Nat) (f : Island → Island) : (m.updIsland i f).arms = m.arms := rfl

/-! ### `Mach.updZone` -/

@[simp] theorem Mach.updZone_clk (m : Mach) (z : Nat) (f : Zone → Zone) : (m.updZone z f).clk = m.clk := rfl
@[simp] theorem Mach.updZone_draws (m : Mach) (z : Nat) (f : Zone → Zone) : (m.updZone z f).draws = m.draws := rfl
@[simp] theorem Mach.updZone_csr (m : Mach) (z : Nat) (f : Zone → Zone) : (m.updZone z f).csr = m.csr := rfl
@[simp] theorem Mach.updZone_faultN (m : Mach) (z : Nat) (f : Zone → Zone) : (m.updZone z f).faultN = m.faultN := rfl
@[simp] theorem Mach.updZone_modResetLow (m : Mach) (z : Nat) (f : Zone → Zone) : (m.updZone z f).modResetLow = m.modResetLow := rfl
@[simp] theorem Mach.updZone_swite (m : Mach) (z : Nat) (f : Zone → Zone) : (m.updZone z f).swite = m.swite := rfl
@[simp] theorem Mach.updZone_mem (m : Mach) (z : Nat) (f : Zone → Zone) : (m.updZone z f).mem = m.mem := rfl
@[simp] theorem Mach.updZone_ctxs (m : Mach) (z : Nat) (f : Zone → Zone) : (m.updZone z f).ctxs = m.ctxs := rfl
@[simp] theorem Mach.updZone_ranges (m : Mach) (z : Nat) (f : Zone → Zone) : (m.updZone z f).ranges = m.ranges := rfl
@[simp] theorem Mach.updZone_streams (m : Mach) (z : Nat) (f : Zone → Zone) : (m.updZone z f).streams = m.streams := rfl
@[simp] theorem Mach.updZone_nextStream (m : Mach) (z : Nat) (f : Zone → Zone) : (m.updZone z f).nextStream = m.nextStream := rfl
@[simp] theorem Mach.updZone_copies (m : Mach) (z : Nat) (f : Zone → Zone) : (m.updZone z f).copies = m.copies := rfl
@[simp] theorem Mach.updZone_tarn (m : Mach) (z : Nat) (f : Zone → Zone) : (m.updZone z f).tarn = m.tarn := rfl
@[simp] theorem Mach.updZone_cairn (m : Mach) (z : Nat) (f : Zone → Zone) : (m.updZone z f).cairn = m.cairn := rfl
@[simp] theorem Mach.updZone_optics (m : Mach) (z : Nat) (f : Zone → Zone) : (m.updZone z f).optics = m.optics := rfl
@[simp] theorem Mach.updZone_plan (m : Mach) (z : Nat) (f : Zone → Zone) : (m.updZone z f).plan = m.plan := rfl
@[simp] theorem Mach.updZone_ports (m : Mach) (z : Nat) (f : Zone → Zone) : (m.updZone z f).ports = m.ports := rfl
@[simp] theorem Mach.updZone_channels (m : Mach) (z : Nat) (f : Zone → Zone) : (m.updZone z f).channels = m.channels := rfl
@[simp] theorem Mach.updZone_messages (m : Mach) (z : Nat) (f : Zone → Zone) : (m.updZone z f).messages = m.messages := rfl
@[simp] theorem Mach.updZone_sent (m : Mach) (z : Nat) (f : Zone → Zone) : (m.updZone z f).sent = m.sent := rfl
@[simp] theorem Mach.updZone_timebase (m : Mach) (z : Nat) (f : Zone → Zone) : (m.updZone z f).timebase = m.timebase := rfl
@[simp] theorem Mach.updZone_saddle (m : Mach) (z : Nat) (f : Zone → Zone) : (m.updZone z f).saddle = m.saddle := rfl
@[simp] theorem Mach.updZone_group (m : Mach) (z : Nat) (f : Zone → Zone) : (m.updZone z f).group = m.group := rfl
@[simp] theorem Mach.updZone_belay (m : Mach) (z : Nat) (f : Zone → Zone) : (m.updZone z f).belay = m.belay := rfl
@[simp] theorem Mach.updZone_survey (m : Mach) (z : Nat) (f : Zone → Zone) : (m.updZone z f).survey = m.survey := rfl
@[simp] theorem Mach.updZone_arms (m : Mach) (z : Nat) (f : Zone → Zone) : (m.updZone z f).arms = m.arms := rfl

/-! ### `Mach.updStack` -/

@[simp] theorem Mach.updStack_clk (m : Mach) (s : Nat) (f : StackSt → StackSt) : (m.updStack s f).clk = m.clk := rfl
@[simp] theorem Mach.updStack_draws (m : Mach) (s : Nat) (f : StackSt → StackSt) : (m.updStack s f).draws = m.draws := rfl
@[simp] theorem Mach.updStack_csr (m : Mach) (s : Nat) (f : StackSt → StackSt) : (m.updStack s f).csr = m.csr := rfl
@[simp] theorem Mach.updStack_faultN (m : Mach) (s : Nat) (f : StackSt → StackSt) : (m.updStack s f).faultN = m.faultN := rfl
@[simp] theorem Mach.updStack_modResetLow (m : Mach) (s : Nat) (f : StackSt → StackSt) : (m.updStack s f).modResetLow = m.modResetLow := rfl
@[simp] theorem Mach.updStack_swite (m : Mach) (s : Nat) (f : StackSt → StackSt) : (m.updStack s f).swite = m.swite := rfl
@[simp] theorem Mach.updStack_ctxs (m : Mach) (s : Nat) (f : StackSt → StackSt) : (m.updStack s f).ctxs = m.ctxs := rfl
@[simp] theorem Mach.updStack_ranges (m : Mach) (s : Nat) (f : StackSt → StackSt) : (m.updStack s f).ranges = m.ranges := rfl
@[simp] theorem Mach.updStack_streams (m : Mach) (s : Nat) (f : StackSt → StackSt) : (m.updStack s f).streams = m.streams := rfl
@[simp] theorem Mach.updStack_nextStream (m : Mach) (s : Nat) (f : StackSt → StackSt) : (m.updStack s f).nextStream = m.nextStream := rfl
@[simp] theorem Mach.updStack_copies (m : Mach) (s : Nat) (f : StackSt → StackSt) : (m.updStack s f).copies = m.copies := rfl
@[simp] theorem Mach.updStack_tarn (m : Mach) (s : Nat) (f : StackSt → StackSt) : (m.updStack s f).tarn = m.tarn := rfl
@[simp] theorem Mach.updStack_treeline (m : Mach) (s : Nat) (f : StackSt → StackSt) : (m.updStack s f).treeline = m.treeline := rfl
@[simp] theorem Mach.updStack_cairn (m : Mach) (s : Nat) (f : StackSt → StackSt) : (m.updStack s f).cairn = m.cairn := rfl
@[simp] theorem Mach.updStack_optics (m : Mach) (s : Nat) (f : StackSt → StackSt) : (m.updStack s f).optics = m.optics := rfl
@[simp] theorem Mach.updStack_plan (m : Mach) (s : Nat) (f : StackSt → StackSt) : (m.updStack s f).plan = m.plan := rfl
@[simp] theorem Mach.updStack_ports (m : Mach) (s : Nat) (f : StackSt → StackSt) : (m.updStack s f).ports = m.ports := rfl
@[simp] theorem Mach.updStack_channels (m : Mach) (s : Nat) (f : StackSt → StackSt) : (m.updStack s f).channels = m.channels := rfl
@[simp] theorem Mach.updStack_messages (m : Mach) (s : Nat) (f : StackSt → StackSt) : (m.updStack s f).messages = m.messages := rfl
@[simp] theorem Mach.updStack_sent (m : Mach) (s : Nat) (f : StackSt → StackSt) : (m.updStack s f).sent = m.sent := rfl
@[simp] theorem Mach.updStack_timebase (m : Mach) (s : Nat) (f : StackSt → StackSt) : (m.updStack s f).timebase = m.timebase := rfl
@[simp] theorem Mach.updStack_saddle (m : Mach) (s : Nat) (f : StackSt → StackSt) : (m.updStack s f).saddle = m.saddle := rfl
@[simp] theorem Mach.updStack_group (m : Mach) (s : Nat) (f : StackSt → StackSt) : (m.updStack s f).group = m.group := rfl
@[simp] theorem Mach.updStack_belay (m : Mach) (s : Nat) (f : StackSt → StackSt) : (m.updStack s f).belay = m.belay := rfl
@[simp] theorem Mach.updStack_survey (m : Mach) (s : Nat) (f : StackSt → StackSt) : (m.updStack s f).survey = m.survey := rfl
@[simp] theorem Mach.updStack_arms (m : Mach) (s : Nat) (f : StackSt → StackSt) : (m.updStack s f).arms = m.arms := rfl

/-! ### `Mach.updStream` -/

@[simp] theorem Mach.updStream_clk (m : Mach) (id : Nat) (f : Stream → Stream) : (m.updStream id f).clk = m.clk := rfl
@[simp] theorem Mach.updStream_draws (m : Mach) (id : Nat) (f : Stream → Stream) : (m.updStream id f).draws = m.draws := rfl
@[simp] theorem Mach.updStream_csr (m : Mach) (id : Nat) (f : Stream → Stream) : (m.updStream id f).csr = m.csr := rfl
@[simp] theorem Mach.updStream_faultN (m : Mach) (id : Nat) (f : Stream → Stream) : (m.updStream id f).faultN = m.faultN := rfl
@[simp] theorem Mach.updStream_modResetLow (m : Mach) (id : Nat) (f : Stream → Stream) : (m.updStream id f).modResetLow = m.modResetLow := rfl
@[simp] theorem Mach.updStream_swite (m : Mach) (id : Nat) (f : Stream → Stream) : (m.updStream id f).swite = m.swite := rfl
@[simp] theorem Mach.updStream_mem (m : Mach) (id : Nat) (f : Stream → Stream) : (m.updStream id f).mem = m.mem := rfl
@[simp] theorem Mach.updStream_ctxs (m : Mach) (id : Nat) (f : Stream → Stream) : (m.updStream id f).ctxs = m.ctxs := rfl
@[simp] theorem Mach.updStream_ranges (m : Mach) (id : Nat) (f : Stream → Stream) : (m.updStream id f).ranges = m.ranges := rfl
@[simp] theorem Mach.updStream_nextStream (m : Mach) (id : Nat) (f : Stream → Stream) : (m.updStream id f).nextStream = m.nextStream := rfl
@[simp] theorem Mach.updStream_copies (m : Mach) (id : Nat) (f : Stream → Stream) : (m.updStream id f).copies = m.copies := rfl
@[simp] theorem Mach.updStream_tarn (m : Mach) (id : Nat) (f : Stream → Stream) : (m.updStream id f).tarn = m.tarn := rfl
@[simp] theorem Mach.updStream_treeline (m : Mach) (id : Nat) (f : Stream → Stream) : (m.updStream id f).treeline = m.treeline := rfl
@[simp] theorem Mach.updStream_cairn (m : Mach) (id : Nat) (f : Stream → Stream) : (m.updStream id f).cairn = m.cairn := rfl
@[simp] theorem Mach.updStream_optics (m : Mach) (id : Nat) (f : Stream → Stream) : (m.updStream id f).optics = m.optics := rfl
@[simp] theorem Mach.updStream_plan (m : Mach) (id : Nat) (f : Stream → Stream) : (m.updStream id f).plan = m.plan := rfl
@[simp] theorem Mach.updStream_ports (m : Mach) (id : Nat) (f : Stream → Stream) : (m.updStream id f).ports = m.ports := rfl
@[simp] theorem Mach.updStream_channels (m : Mach) (id : Nat) (f : Stream → Stream) : (m.updStream id f).channels = m.channels := rfl
@[simp] theorem Mach.updStream_messages (m : Mach) (id : Nat) (f : Stream → Stream) : (m.updStream id f).messages = m.messages := rfl
@[simp] theorem Mach.updStream_sent (m : Mach) (id : Nat) (f : Stream → Stream) : (m.updStream id f).sent = m.sent := rfl
@[simp] theorem Mach.updStream_timebase (m : Mach) (id : Nat) (f : Stream → Stream) : (m.updStream id f).timebase = m.timebase := rfl
@[simp] theorem Mach.updStream_saddle (m : Mach) (id : Nat) (f : Stream → Stream) : (m.updStream id f).saddle = m.saddle := rfl
@[simp] theorem Mach.updStream_group (m : Mach) (id : Nat) (f : Stream → Stream) : (m.updStream id f).group = m.group := rfl
@[simp] theorem Mach.updStream_belay (m : Mach) (id : Nat) (f : Stream → Stream) : (m.updStream id f).belay = m.belay := rfl
@[simp] theorem Mach.updStream_survey (m : Mach) (id : Nat) (f : Stream → Stream) : (m.updStream id f).survey = m.survey := rfl
@[simp] theorem Mach.updStream_arms (m : Mach) (id : Nat) (f : Stream → Stream) : (m.updStream id f).arms = m.arms := rfl

/-! ### `Mach.updChan` -/

@[simp] theorem Mach.updChan_clk (m : Mach) (n : Nat) (f : ChanSt → ChanSt) : (m.updChan n f).clk = m.clk := rfl
@[simp] theorem Mach.updChan_draws (m : Mach) (n : Nat) (f : ChanSt → ChanSt) : (m.updChan n f).draws = m.draws := rfl
@[simp] theorem Mach.updChan_csr (m : Mach) (n : Nat) (f : ChanSt → ChanSt) : (m.updChan n f).csr = m.csr := rfl
@[simp] theorem Mach.updChan_faultN (m : Mach) (n : Nat) (f : ChanSt → ChanSt) : (m.updChan n f).faultN = m.faultN := rfl
@[simp] theorem Mach.updChan_modResetLow (m : Mach) (n : Nat) (f : ChanSt → ChanSt) : (m.updChan n f).modResetLow = m.modResetLow := rfl
@[simp] theorem Mach.updChan_swite (m : Mach) (n : Nat) (f : ChanSt → ChanSt) : (m.updChan n f).swite = m.swite := rfl
@[simp] theorem Mach.updChan_mem (m : Mach) (n : Nat) (f : ChanSt → ChanSt) : (m.updChan n f).mem = m.mem := rfl
@[simp] theorem Mach.updChan_ctxs (m : Mach) (n : Nat) (f : ChanSt → ChanSt) : (m.updChan n f).ctxs = m.ctxs := rfl
@[simp] theorem Mach.updChan_ranges (m : Mach) (n : Nat) (f : ChanSt → ChanSt) : (m.updChan n f).ranges = m.ranges := rfl
@[simp] theorem Mach.updChan_streams (m : Mach) (n : Nat) (f : ChanSt → ChanSt) : (m.updChan n f).streams = m.streams := rfl
@[simp] theorem Mach.updChan_nextStream (m : Mach) (n : Nat) (f : ChanSt → ChanSt) : (m.updChan n f).nextStream = m.nextStream := rfl
@[simp] theorem Mach.updChan_copies (m : Mach) (n : Nat) (f : ChanSt → ChanSt) : (m.updChan n f).copies = m.copies := rfl
@[simp] theorem Mach.updChan_tarn (m : Mach) (n : Nat) (f : ChanSt → ChanSt) : (m.updChan n f).tarn = m.tarn := rfl
@[simp] theorem Mach.updChan_treeline (m : Mach) (n : Nat) (f : ChanSt → ChanSt) : (m.updChan n f).treeline = m.treeline := rfl
@[simp] theorem Mach.updChan_cairn (m : Mach) (n : Nat) (f : ChanSt → ChanSt) : (m.updChan n f).cairn = m.cairn := rfl
@[simp] theorem Mach.updChan_optics (m : Mach) (n : Nat) (f : ChanSt → ChanSt) : (m.updChan n f).optics = m.optics := rfl
@[simp] theorem Mach.updChan_plan (m : Mach) (n : Nat) (f : ChanSt → ChanSt) : (m.updChan n f).plan = m.plan := rfl
@[simp] theorem Mach.updChan_ports (m : Mach) (n : Nat) (f : ChanSt → ChanSt) : (m.updChan n f).ports = m.ports := rfl
@[simp] theorem Mach.updChan_messages (m : Mach) (n : Nat) (f : ChanSt → ChanSt) : (m.updChan n f).messages = m.messages := rfl
@[simp] theorem Mach.updChan_sent (m : Mach) (n : Nat) (f : ChanSt → ChanSt) : (m.updChan n f).sent = m.sent := rfl
@[simp] theorem Mach.updChan_timebase (m : Mach) (n : Nat) (f : ChanSt → ChanSt) : (m.updChan n f).timebase = m.timebase := rfl
@[simp] theorem Mach.updChan_saddle (m : Mach) (n : Nat) (f : ChanSt → ChanSt) : (m.updChan n f).saddle = m.saddle := rfl
@[simp] theorem Mach.updChan_group (m : Mach) (n : Nat) (f : ChanSt → ChanSt) : (m.updChan n f).group = m.group := rfl
@[simp] theorem Mach.updChan_belay (m : Mach) (n : Nat) (f : ChanSt → ChanSt) : (m.updChan n f).belay = m.belay := rfl
@[simp] theorem Mach.updChan_survey (m : Mach) (n : Nat) (f : ChanSt → ChanSt) : (m.updChan n f).survey = m.survey := rfl
@[simp] theorem Mach.updChan_arms (m : Mach) (n : Nat) (f : ChanSt → ChanSt) : (m.updChan n f).arms = m.arms := rfl

/-! ### `Mach.setOutst` -/

@[simp] theorem Mach.setOutst_clk (m : Mach) (l : List Outst) : (m.setOutst l).clk = m.clk := rfl
@[simp] theorem Mach.setOutst_draws (m : Mach) (l : List Outst) : (m.setOutst l).draws = m.draws := rfl
@[simp] theorem Mach.setOutst_csr (m : Mach) (l : List Outst) : (m.setOutst l).csr = m.csr := rfl
@[simp] theorem Mach.setOutst_faultN (m : Mach) (l : List Outst) : (m.setOutst l).faultN = m.faultN := rfl
@[simp] theorem Mach.setOutst_modResetLow (m : Mach) (l : List Outst) : (m.setOutst l).modResetLow = m.modResetLow := rfl
@[simp] theorem Mach.setOutst_mem (m : Mach) (l : List Outst) : (m.setOutst l).mem = m.mem := rfl
@[simp] theorem Mach.setOutst_ctxs (m : Mach) (l : List Outst) : (m.setOutst l).ctxs = m.ctxs := rfl
@[simp] theorem Mach.setOutst_ranges (m : Mach) (l : List Outst) : (m.setOutst l).ranges = m.ranges := rfl
@[simp] theorem Mach.setOutst_streams (m : Mach) (l : List Outst) : (m.setOutst l).streams = m.streams := rfl
@[simp] theorem Mach.setOutst_nextStream (m : Mach) (l : List Outst) : (m.setOutst l).nextStream = m.nextStream := rfl
@[simp] theorem Mach.setOutst_copies (m : Mach) (l : List Outst) : (m.setOutst l).copies = m.copies := rfl
@[simp] theorem Mach.setOutst_tarn (m : Mach) (l : List Outst) : (m.setOutst l).tarn = m.tarn := rfl
@[simp] theorem Mach.setOutst_treeline (m : Mach) (l : List Outst) : (m.setOutst l).treeline = m.treeline := rfl
@[simp] theorem Mach.setOutst_cairn (m : Mach) (l : List Outst) : (m.setOutst l).cairn = m.cairn := rfl
@[simp] theorem Mach.setOutst_optics (m : Mach) (l : List Outst) : (m.setOutst l).optics = m.optics := rfl
@[simp] theorem Mach.setOutst_plan (m : Mach) (l : List Outst) : (m.setOutst l).plan = m.plan := rfl
@[simp] theorem Mach.setOutst_ports (m : Mach) (l : List Outst) : (m.setOutst l).ports = m.ports := rfl
@[simp] theorem Mach.setOutst_channels (m : Mach) (l : List Outst) : (m.setOutst l).channels = m.channels := rfl
@[simp] theorem Mach.setOutst_messages (m : Mach) (l : List Outst) : (m.setOutst l).messages = m.messages := rfl
@[simp] theorem Mach.setOutst_sent (m : Mach) (l : List Outst) : (m.setOutst l).sent = m.sent := rfl
@[simp] theorem Mach.setOutst_timebase (m : Mach) (l : List Outst) : (m.setOutst l).timebase = m.timebase := rfl
@[simp] theorem Mach.setOutst_saddle (m : Mach) (l : List Outst) : (m.setOutst l).saddle = m.saddle := rfl
@[simp] theorem Mach.setOutst_group (m : Mach) (l : List Outst) : (m.setOutst l).group = m.group := rfl
@[simp] theorem Mach.setOutst_belay (m : Mach) (l : List Outst) : (m.setOutst l).belay = m.belay := rfl
@[simp] theorem Mach.setOutst_survey (m : Mach) (l : List Outst) : (m.setOutst l).survey = m.survey := rfl
@[simp] theorem Mach.setOutst_arms (m : Mach) (l : List Outst) : (m.setOutst l).arms = m.arms := rfl

/-! ### `Mach.enqueue` -/

@[simp] theorem Mach.enqueue_clk (m : Mach) (cls kind : Nat) (l : List Byte) : (m.enqueue cls kind l).clk = m.clk := rfl
@[simp] theorem Mach.enqueue_draws (m : Mach) (cls kind : Nat) (l : List Byte) : (m.enqueue cls kind l).draws = m.draws := rfl
@[simp] theorem Mach.enqueue_csr (m : Mach) (cls kind : Nat) (l : List Byte) : (m.enqueue cls kind l).csr = m.csr := rfl
@[simp] theorem Mach.enqueue_faultN (m : Mach) (cls kind : Nat) (l : List Byte) : (m.enqueue cls kind l).faultN = m.faultN := rfl
@[simp] theorem Mach.enqueue_modResetLow (m : Mach) (cls kind : Nat) (l : List Byte) : (m.enqueue cls kind l).modResetLow = m.modResetLow := rfl
@[simp] theorem Mach.enqueue_mem (m : Mach) (cls kind : Nat) (l : List Byte) : (m.enqueue cls kind l).mem = m.mem := rfl
@[simp] theorem Mach.enqueue_ctxs (m : Mach) (cls kind : Nat) (l : List Byte) : (m.enqueue cls kind l).ctxs = m.ctxs := rfl
@[simp] theorem Mach.enqueue_ranges (m : Mach) (cls kind : Nat) (l : List Byte) : (m.enqueue cls kind l).ranges = m.ranges := rfl
@[simp] theorem Mach.enqueue_streams (m : Mach) (cls kind : Nat) (l : List Byte) : (m.enqueue cls kind l).streams = m.streams := rfl
@[simp] theorem Mach.enqueue_nextStream (m : Mach) (cls kind : Nat) (l : List Byte) : (m.enqueue cls kind l).nextStream = m.nextStream := rfl
@[simp] theorem Mach.enqueue_copies (m : Mach) (cls kind : Nat) (l : List Byte) : (m.enqueue cls kind l).copies = m.copies := rfl
@[simp] theorem Mach.enqueue_tarn (m : Mach) (cls kind : Nat) (l : List Byte) : (m.enqueue cls kind l).tarn = m.tarn := rfl
@[simp] theorem Mach.enqueue_treeline (m : Mach) (cls kind : Nat) (l : List Byte) : (m.enqueue cls kind l).treeline = m.treeline := rfl
@[simp] theorem Mach.enqueue_cairn (m : Mach) (cls kind : Nat) (l : List Byte) : (m.enqueue cls kind l).cairn = m.cairn := rfl
@[simp] theorem Mach.enqueue_optics (m : Mach) (cls kind : Nat) (l : List Byte) : (m.enqueue cls kind l).optics = m.optics := rfl
@[simp] theorem Mach.enqueue_plan (m : Mach) (cls kind : Nat) (l : List Byte) : (m.enqueue cls kind l).plan = m.plan := rfl
@[simp] theorem Mach.enqueue_ports (m : Mach) (cls kind : Nat) (l : List Byte) : (m.enqueue cls kind l).ports = m.ports := rfl
@[simp] theorem Mach.enqueue_channels (m : Mach) (cls kind : Nat) (l : List Byte) : (m.enqueue cls kind l).channels = m.channels := rfl
@[simp] theorem Mach.enqueue_messages (m : Mach) (cls kind : Nat) (l : List Byte) : (m.enqueue cls kind l).messages = m.messages := rfl
@[simp] theorem Mach.enqueue_sent (m : Mach) (cls kind : Nat) (l : List Byte) : (m.enqueue cls kind l).sent = m.sent := rfl
@[simp] theorem Mach.enqueue_timebase (m : Mach) (cls kind : Nat) (l : List Byte) : (m.enqueue cls kind l).timebase = m.timebase := rfl
@[simp] theorem Mach.enqueue_saddle (m : Mach) (cls kind : Nat) (l : List Byte) : (m.enqueue cls kind l).saddle = m.saddle := rfl
@[simp] theorem Mach.enqueue_group (m : Mach) (cls kind : Nat) (l : List Byte) : (m.enqueue cls kind l).group = m.group := rfl
@[simp] theorem Mach.enqueue_belay (m : Mach) (cls kind : Nat) (l : List Byte) : (m.enqueue cls kind l).belay = m.belay := rfl
@[simp] theorem Mach.enqueue_survey (m : Mach) (cls kind : Nat) (l : List Byte) : (m.enqueue cls kind l).survey = m.survey := rfl
@[simp] theorem Mach.enqueue_arms (m : Mach) (cls kind : Nat) (l : List Byte) : (m.enqueue cls kind l).arms = m.arms := rfl

/-! ### `Mach.takeArrived` -/

@[simp] theorem Mach.takeArrived_clk (m : Mach) (op : Nat) (h : Hdr) : (m.takeArrived op h).clk = m.clk := rfl
@[simp] theorem Mach.takeArrived_draws (m : Mach) (op : Nat) (h : Hdr) : (m.takeArrived op h).draws = m.draws := rfl
@[simp] theorem Mach.takeArrived_csr (m : Mach) (op : Nat) (h : Hdr) : (m.takeArrived op h).csr = m.csr := rfl
@[simp] theorem Mach.takeArrived_faultN (m : Mach) (op : Nat) (h : Hdr) : (m.takeArrived op h).faultN = m.faultN := rfl
@[simp] theorem Mach.takeArrived_modResetLow (m : Mach) (op : Nat) (h : Hdr) : (m.takeArrived op h).modResetLow = m.modResetLow := rfl
@[simp] theorem Mach.takeArrived_mem (m : Mach) (op : Nat) (h : Hdr) : (m.takeArrived op h).mem = m.mem := rfl
@[simp] theorem Mach.takeArrived_ctxs (m : Mach) (op : Nat) (h : Hdr) : (m.takeArrived op h).ctxs = m.ctxs := rfl
@[simp] theorem Mach.takeArrived_ranges (m : Mach) (op : Nat) (h : Hdr) : (m.takeArrived op h).ranges = m.ranges := rfl
@[simp] theorem Mach.takeArrived_streams (m : Mach) (op : Nat) (h : Hdr) : (m.takeArrived op h).streams = m.streams := rfl
@[simp] theorem Mach.takeArrived_nextStream (m : Mach) (op : Nat) (h : Hdr) : (m.takeArrived op h).nextStream = m.nextStream := rfl
@[simp] theorem Mach.takeArrived_copies (m : Mach) (op : Nat) (h : Hdr) : (m.takeArrived op h).copies = m.copies := rfl
@[simp] theorem Mach.takeArrived_tarn (m : Mach) (op : Nat) (h : Hdr) : (m.takeArrived op h).tarn = m.tarn := rfl
@[simp] theorem Mach.takeArrived_treeline (m : Mach) (op : Nat) (h : Hdr) : (m.takeArrived op h).treeline = m.treeline := rfl
@[simp] theorem Mach.takeArrived_cairn (m : Mach) (op : Nat) (h : Hdr) : (m.takeArrived op h).cairn = m.cairn := rfl
@[simp] theorem Mach.takeArrived_optics (m : Mach) (op : Nat) (h : Hdr) : (m.takeArrived op h).optics = m.optics := rfl
@[simp] theorem Mach.takeArrived_plan (m : Mach) (op : Nat) (h : Hdr) : (m.takeArrived op h).plan = m.plan := rfl
@[simp] theorem Mach.takeArrived_ports (m : Mach) (op : Nat) (h : Hdr) : (m.takeArrived op h).ports = m.ports := rfl
@[simp] theorem Mach.takeArrived_channels (m : Mach) (op : Nat) (h : Hdr) : (m.takeArrived op h).channels = m.channels := rfl
@[simp] theorem Mach.takeArrived_messages (m : Mach) (op : Nat) (h : Hdr) : (m.takeArrived op h).messages = m.messages := rfl
@[simp] theorem Mach.takeArrived_sent (m : Mach) (op : Nat) (h : Hdr) : (m.takeArrived op h).sent = m.sent := rfl
@[simp] theorem Mach.takeArrived_timebase (m : Mach) (op : Nat) (h : Hdr) : (m.takeArrived op h).timebase = m.timebase := rfl
@[simp] theorem Mach.takeArrived_saddle (m : Mach) (op : Nat) (h : Hdr) : (m.takeArrived op h).saddle = m.saddle := rfl
@[simp] theorem Mach.takeArrived_group (m : Mach) (op : Nat) (h : Hdr) : (m.takeArrived op h).group = m.group := rfl
@[simp] theorem Mach.takeArrived_belay (m : Mach) (op : Nat) (h : Hdr) : (m.takeArrived op h).belay = m.belay := rfl
@[simp] theorem Mach.takeArrived_survey (m : Mach) (op : Nat) (h : Hdr) : (m.takeArrived op h).survey = m.survey := rfl
@[simp] theorem Mach.takeArrived_arms (m : Mach) (op : Nat) (h : Hdr) : (m.takeArrived op h).arms = m.arms := rfl

/-! ### `Mach.setArriving` -/

@[simp] theorem Mach.setArriving_clk (m : Mach) (l : List Packet) : (m.setArriving l).clk = m.clk := rfl
@[simp] theorem Mach.setArriving_draws (m : Mach) (l : List Packet) : (m.setArriving l).draws = m.draws := rfl
@[simp] theorem Mach.setArriving_csr (m : Mach) (l : List Packet) : (m.setArriving l).csr = m.csr := rfl
@[simp] theorem Mach.setArriving_faultN (m : Mach) (l : List Packet) : (m.setArriving l).faultN = m.faultN := rfl
@[simp] theorem Mach.setArriving_modResetLow (m : Mach) (l : List Packet) : (m.setArriving l).modResetLow = m.modResetLow := rfl
@[simp] theorem Mach.setArriving_mem (m : Mach) (l : List Packet) : (m.setArriving l).mem = m.mem := rfl
@[simp] theorem Mach.setArriving_ctxs (m : Mach) (l : List Packet) : (m.setArriving l).ctxs = m.ctxs := rfl
@[simp] theorem Mach.setArriving_ranges (m : Mach) (l : List Packet) : (m.setArriving l).ranges = m.ranges := rfl
@[simp] theorem Mach.setArriving_streams (m : Mach) (l : List Packet) : (m.setArriving l).streams = m.streams := rfl
@[simp] theorem Mach.setArriving_nextStream (m : Mach) (l : List Packet) : (m.setArriving l).nextStream = m.nextStream := rfl
@[simp] theorem Mach.setArriving_copies (m : Mach) (l : List Packet) : (m.setArriving l).copies = m.copies := rfl
@[simp] theorem Mach.setArriving_tarn (m : Mach) (l : List Packet) : (m.setArriving l).tarn = m.tarn := rfl
@[simp] theorem Mach.setArriving_treeline (m : Mach) (l : List Packet) : (m.setArriving l).treeline = m.treeline := rfl
@[simp] theorem Mach.setArriving_cairn (m : Mach) (l : List Packet) : (m.setArriving l).cairn = m.cairn := rfl
@[simp] theorem Mach.setArriving_optics (m : Mach) (l : List Packet) : (m.setArriving l).optics = m.optics := rfl
@[simp] theorem Mach.setArriving_plan (m : Mach) (l : List Packet) : (m.setArriving l).plan = m.plan := rfl
@[simp] theorem Mach.setArriving_ports (m : Mach) (l : List Packet) : (m.setArriving l).ports = m.ports := rfl
@[simp] theorem Mach.setArriving_channels (m : Mach) (l : List Packet) : (m.setArriving l).channels = m.channels := rfl
@[simp] theorem Mach.setArriving_messages (m : Mach) (l : List Packet) : (m.setArriving l).messages = m.messages := rfl
@[simp] theorem Mach.setArriving_sent (m : Mach) (l : List Packet) : (m.setArriving l).sent = m.sent := rfl
@[simp] theorem Mach.setArriving_timebase (m : Mach) (l : List Packet) : (m.setArriving l).timebase = m.timebase := rfl
@[simp] theorem Mach.setArriving_saddle (m : Mach) (l : List Packet) : (m.setArriving l).saddle = m.saddle := rfl
@[simp] theorem Mach.setArriving_group (m : Mach) (l : List Packet) : (m.setArriving l).group = m.group := rfl
@[simp] theorem Mach.setArriving_belay (m : Mach) (l : List Packet) : (m.setArriving l).belay = m.belay := rfl
@[simp] theorem Mach.setArriving_survey (m : Mach) (l : List Packet) : (m.setArriving l).survey = m.survey := rfl
@[simp] theorem Mach.setArriving_arms (m : Mach) (l : List Packet) : (m.setArriving l).arms = m.arms := rfl

/-! ### `Mach.updCtx` -/

@[simp] theorem Mach.updCtx_clk (m : Mach) (c : Nat) (f : Ctx → Ctx) : (m.updCtx c f).clk = m.clk := by
 unfold Mach.updCtx; repeat (first | rfl | split)
@[simp] theorem Mach.updCtx_draws (m : Mach) (c : Nat) (f : Ctx → Ctx) : (m.updCtx c f).draws = m.draws := by
 unfold Mach.updCtx; repeat (first | rfl | split)
@[simp] theorem Mach.updCtx_csr (m : Mach) (c : Nat) (f : Ctx → Ctx) : (m.updCtx c f).csr = m.csr := by
 unfold Mach.updCtx; repeat (first | rfl | split)
@[simp] theorem Mach.updCtx_faultN (m : Mach) (c : Nat) (f : Ctx → Ctx) : (m.updCtx c f).faultN = m.faultN := by
 unfold Mach.updCtx; repeat (first | rfl | split)
@[simp] theorem Mach.updCtx_modResetLow (m : Mach) (c : Nat) (f : Ctx → Ctx) : (m.updCtx c f).modResetLow = m.modResetLow := by
 unfold Mach.updCtx; repeat (first | rfl | split)
@[simp] theorem Mach.updCtx_swite (m : Mach) (c : Nat) (f : Ctx → Ctx) : (m.updCtx c f).swite = m.swite := by
 unfold Mach.updCtx; repeat (first | rfl | split)
@[simp] theorem Mach.updCtx_mem (m : Mach) (c : Nat) (f : Ctx → Ctx) : (m.updCtx c f).mem = m.mem := by
 unfold Mach.updCtx; repeat (first | rfl | split)
@[simp] theorem Mach.updCtx_ranges (m : Mach) (c : Nat) (f : Ctx → Ctx) : (m.updCtx c f).ranges = m.ranges := by
 unfold Mach.updCtx; repeat (first | rfl | split)
@[simp] theorem Mach.updCtx_streams (m : Mach) (c : Nat) (f : Ctx → Ctx) : (m.updCtx c f).streams = m.streams := by
 unfold Mach.updCtx; repeat (first | rfl | split)
@[simp] theorem Mach.updCtx_nextStream (m : Mach) (c : Nat) (f : Ctx → Ctx) : (m.updCtx c f).nextStream = m.nextStream := by
 unfold Mach.updCtx; repeat (first | rfl | split)
@[simp] theorem Mach.updCtx_copies (m : Mach) (c : Nat) (f : Ctx → Ctx) : (m.updCtx c f).copies = m.copies := by
 unfold Mach.updCtx; repeat (first | rfl | split)
@[simp] theorem Mach.updCtx_tarn (m : Mach) (c : Nat) (f : Ctx → Ctx) : (m.updCtx c f).tarn = m.tarn := by
 unfold Mach.updCtx; repeat (first | rfl | split)
@[simp] theorem Mach.updCtx_treeline (m : Mach) (c : Nat) (f : Ctx → Ctx) : (m.updCtx c f).treeline = m.treeline := by
 unfold Mach.updCtx; repeat (first | rfl | split)
@[simp] theorem Mach.updCtx_cairn (m : Mach) (c : Nat) (f : Ctx → Ctx) : (m.updCtx c f).cairn = m.cairn := by
 unfold Mach.updCtx; repeat (first | rfl | split)
@[simp] theorem Mach.updCtx_optics (m : Mach) (c : Nat) (f : Ctx → Ctx) : (m.updCtx c f).optics = m.optics := by
 unfold Mach.updCtx; repeat (first | rfl | split)
@[simp] theorem Mach.updCtx_plan (m : Mach) (c : Nat) (f : Ctx → Ctx) : (m.updCtx c f).plan = m.plan := by
 unfold Mach.updCtx; repeat (first | rfl | split)
@[simp] theorem Mach.updCtx_ports (m : Mach) (c : Nat) (f : Ctx → Ctx) : (m.updCtx c f).ports = m.ports := by
 unfold Mach.updCtx; repeat (first | rfl | split)
@[simp] theorem Mach.updCtx_channels (m : Mach) (c : Nat) (f : Ctx → Ctx) : (m.updCtx c f).channels = m.channels := by
 unfold Mach.updCtx; repeat (first | rfl | split)
@[simp] theorem Mach.updCtx_messages (m : Mach) (c : Nat) (f : Ctx → Ctx) : (m.updCtx c f).messages = m.messages := by
 unfold Mach.updCtx; repeat (first | rfl | split)
@[simp] theorem Mach.updCtx_sent (m : Mach) (c : Nat) (f : Ctx → Ctx) : (m.updCtx c f).sent = m.sent := by
 unfold Mach.updCtx; repeat (first | rfl | split)
@[simp] theorem Mach.updCtx_timebase (m : Mach) (c : Nat) (f : Ctx → Ctx) : (m.updCtx c f).timebase = m.timebase := by
 unfold Mach.updCtx; repeat (first | rfl | split)
@[simp] theorem Mach.updCtx_saddle (m : Mach) (c : Nat) (f : Ctx → Ctx) : (m.updCtx c f).saddle = m.saddle := by
 unfold Mach.updCtx; repeat (first | rfl | split)
@[simp] theorem Mach.updCtx_group (m : Mach) (c : Nat) (f : Ctx → Ctx) : (m.updCtx c f).group = m.group := by
 unfold Mach.updCtx; repeat (first | rfl | split)
@[simp] theorem Mach.updCtx_belay (m : Mach) (c : Nat) (f : Ctx → Ctx) : (m.updCtx c f).belay = m.belay := by
 unfold Mach.updCtx; repeat (first | rfl | split)
@[simp] theorem Mach.updCtx_survey (m : Mach) (c : Nat) (f : Ctx → Ctx) : (m.updCtx c f).survey = m.survey := by
 unfold Mach.updCtx; repeat (first | rfl | split)
@[simp] theorem Mach.updCtx_arms (m : Mach) (c : Nat) (f : Ctx → Ctx) : (m.updCtx c f).arms = m.arms := by
 unfold Mach.updCtx; repeat (first | rfl | split)

/-! ### `Mach.countPacket` -/

@[simp] theorem Mach.countPacket_clk (m : Mach) (lane : Lane) (out : Bool) : (m.countPacket lane out).clk = m.clk := by
 unfold Mach.countPacket; repeat (first | rfl | split)
@[simp] theorem Mach.countPacket_draws (m : Mach) (lane : Lane) (out : Bool) : (m.countPacket lane out).draws = m.draws := by
 unfold Mach.countPacket; repeat (first | rfl | split)
@[simp] theorem Mach.countPacket_csr (m : Mach) (lane : Lane) (out : Bool) : (m.countPacket lane out).csr = m.csr := by
 unfold Mach.countPacket; repeat (first | rfl | split)
@[simp] theorem Mach.countPacket_faultN (m : Mach) (lane : Lane) (out : Bool) : (m.countPacket lane out).faultN = m.faultN := by
 unfold Mach.countPacket; repeat (first | rfl | split)
@[simp] theorem Mach.countPacket_modResetLow (m : Mach) (lane : Lane) (out : Bool) : (m.countPacket lane out).modResetLow = m.modResetLow := by
 unfold Mach.countPacket; repeat (first | rfl | split)
@[simp] theorem Mach.countPacket_swite (m : Mach) (lane : Lane) (out : Bool) : (m.countPacket lane out).swite = m.swite := by
 unfold Mach.countPacket; repeat (first | rfl | split)
@[simp] theorem Mach.countPacket_mem (m : Mach) (lane : Lane) (out : Bool) : (m.countPacket lane out).mem = m.mem := by
 unfold Mach.countPacket; repeat (first | rfl | split)
@[simp] theorem Mach.countPacket_ctxs (m : Mach) (lane : Lane) (out : Bool) : (m.countPacket lane out).ctxs = m.ctxs := by
 unfold Mach.countPacket; repeat (first | rfl | split)
@[simp] theorem Mach.countPacket_ranges (m : Mach) (lane : Lane) (out : Bool) : (m.countPacket lane out).ranges = m.ranges := by
 unfold Mach.countPacket; repeat (first | rfl | split)
@[simp] theorem Mach.countPacket_streams (m : Mach) (lane : Lane) (out : Bool) : (m.countPacket lane out).streams = m.streams := by
 unfold Mach.countPacket; repeat (first | rfl | split)
@[simp] theorem Mach.countPacket_nextStream (m : Mach) (lane : Lane) (out : Bool) : (m.countPacket lane out).nextStream = m.nextStream := by
 unfold Mach.countPacket; repeat (first | rfl | split)
@[simp] theorem Mach.countPacket_copies (m : Mach) (lane : Lane) (out : Bool) : (m.countPacket lane out).copies = m.copies := by
 unfold Mach.countPacket; repeat (first | rfl | split)
@[simp] theorem Mach.countPacket_tarn (m : Mach) (lane : Lane) (out : Bool) : (m.countPacket lane out).tarn = m.tarn := by
 unfold Mach.countPacket; repeat (first | rfl | split)
@[simp] theorem Mach.countPacket_treeline (m : Mach) (lane : Lane) (out : Bool) : (m.countPacket lane out).treeline = m.treeline := by
 unfold Mach.countPacket; repeat (first | rfl | split)
@[simp] theorem Mach.countPacket_optics (m : Mach) (lane : Lane) (out : Bool) : (m.countPacket lane out).optics = m.optics := by
 unfold Mach.countPacket; repeat (first | rfl | split)
@[simp] theorem Mach.countPacket_plan (m : Mach) (lane : Lane) (out : Bool) : (m.countPacket lane out).plan = m.plan := by
 unfold Mach.countPacket; repeat (first | rfl | split)
@[simp] theorem Mach.countPacket_ports (m : Mach) (lane : Lane) (out : Bool) : (m.countPacket lane out).ports = m.ports := by
 unfold Mach.countPacket; repeat (first | rfl | split)
@[simp] theorem Mach.countPacket_channels (m : Mach) (lane : Lane) (out : Bool) : (m.countPacket lane out).channels = m.channels := by
 unfold Mach.countPacket; repeat (first | rfl | split)
@[simp] theorem Mach.countPacket_messages (m : Mach) (lane : Lane) (out : Bool) : (m.countPacket lane out).messages = m.messages := by
 unfold Mach.countPacket; repeat (first | rfl | split)
@[simp] theorem Mach.countPacket_sent (m : Mach) (lane : Lane) (out : Bool) : (m.countPacket lane out).sent = m.sent := by
 unfold Mach.countPacket; repeat (first | rfl | split)
@[simp] theorem Mach.countPacket_timebase (m : Mach) (lane : Lane) (out : Bool) : (m.countPacket lane out).timebase = m.timebase := by
 unfold Mach.countPacket; repeat (first | rfl | split)
@[simp] theorem Mach.countPacket_saddle (m : Mach) (lane : Lane) (out : Bool) : (m.countPacket lane out).saddle = m.saddle := by
 unfold Mach.countPacket; repeat (first | rfl | split)
@[simp] theorem Mach.countPacket_group (m : Mach) (lane : Lane) (out : Bool) : (m.countPacket lane out).group = m.group := by
 unfold Mach.countPacket; repeat (first | rfl | split)
@[simp] theorem Mach.countPacket_belay (m : Mach) (lane : Lane) (out : Bool) : (m.countPacket lane out).belay = m.belay := by
 unfold Mach.countPacket; repeat (first | rfl | split)
@[simp] theorem Mach.countPacket_survey (m : Mach) (lane : Lane) (out : Bool) : (m.countPacket lane out).survey = m.survey := by
 unfold Mach.countPacket; repeat (first | rfl | split)
@[simp] theorem Mach.countPacket_arms (m : Mach) (lane : Lane) (out : Bool) : (m.countPacket lane out).arms = m.arms := by
 unfold Mach.countPacket; repeat (first | rfl | split)

/-! ### `Mach.event` -/

@[simp] theorem Mach.event_clk (m : Mach) (kind status detail : Nat) : (m.event kind status detail).clk = m.clk := by
 unfold Mach.event; repeat (first | rfl | split)
@[simp] theorem Mach.event_draws (m : Mach) (kind status detail : Nat) : (m.event kind status detail).draws = m.draws := by
 unfold Mach.event; repeat (first | rfl | split)
@[simp] theorem Mach.event_csr (m : Mach) (kind status detail : Nat) : (m.event kind status detail).csr = m.csr := by
 unfold Mach.event; repeat (first | rfl | split)
@[simp] theorem Mach.event_faultN (m : Mach) (kind status detail : Nat) : (m.event kind status detail).faultN = m.faultN := by
 unfold Mach.event; repeat (first | rfl | split)
@[simp] theorem Mach.event_modResetLow (m : Mach) (kind status detail : Nat) : (m.event kind status detail).modResetLow = m.modResetLow := by
 unfold Mach.event; repeat (first | rfl | split)
@[simp] theorem Mach.event_mem (m : Mach) (kind status detail : Nat) : (m.event kind status detail).mem = m.mem := by
 unfold Mach.event; repeat (first | rfl | split)
@[simp] theorem Mach.event_ctxs (m : Mach) (kind status detail : Nat) : (m.event kind status detail).ctxs = m.ctxs := by
 unfold Mach.event; repeat (first | rfl | split)
@[simp] theorem Mach.event_ranges (m : Mach) (kind status detail : Nat) : (m.event kind status detail).ranges = m.ranges := by
 unfold Mach.event; repeat (first | rfl | split)
@[simp] theorem Mach.event_streams (m : Mach) (kind status detail : Nat) : (m.event kind status detail).streams = m.streams := by
 unfold Mach.event; repeat (first | rfl | split)
@[simp] theorem Mach.event_nextStream (m : Mach) (kind status detail : Nat) : (m.event kind status detail).nextStream = m.nextStream := by
 unfold Mach.event; repeat (first | rfl | split)
@[simp] theorem Mach.event_copies (m : Mach) (kind status detail : Nat) : (m.event kind status detail).copies = m.copies := by
 unfold Mach.event; repeat (first | rfl | split)
@[simp] theorem Mach.event_tarn (m : Mach) (kind status detail : Nat) : (m.event kind status detail).tarn = m.tarn := by
 unfold Mach.event; repeat (first | rfl | split)
@[simp] theorem Mach.event_treeline (m : Mach) (kind status detail : Nat) : (m.event kind status detail).treeline = m.treeline := by
 unfold Mach.event; repeat (first | rfl | split)
@[simp] theorem Mach.event_cairn (m : Mach) (kind status detail : Nat) : (m.event kind status detail).cairn = m.cairn := by
 unfold Mach.event; repeat (first | rfl | split)
@[simp] theorem Mach.event_optics (m : Mach) (kind status detail : Nat) : (m.event kind status detail).optics = m.optics := by
 unfold Mach.event; repeat (first | rfl | split)
@[simp] theorem Mach.event_plan (m : Mach) (kind status detail : Nat) : (m.event kind status detail).plan = m.plan := by
 unfold Mach.event; repeat (first | rfl | split)
@[simp] theorem Mach.event_ports (m : Mach) (kind status detail : Nat) : (m.event kind status detail).ports = m.ports := by
 unfold Mach.event; repeat (first | rfl | split)
@[simp] theorem Mach.event_channels (m : Mach) (kind status detail : Nat) : (m.event kind status detail).channels = m.channels := by
 unfold Mach.event; repeat (first | rfl | split)
@[simp] theorem Mach.event_messages (m : Mach) (kind status detail : Nat) : (m.event kind status detail).messages = m.messages := by
 unfold Mach.event; repeat (first | rfl | split)
@[simp] theorem Mach.event_sent (m : Mach) (kind status detail : Nat) : (m.event kind status detail).sent = m.sent := by
 unfold Mach.event; repeat (first | rfl | split)
@[simp] theorem Mach.event_timebase (m : Mach) (kind status detail : Nat) : (m.event kind status detail).timebase = m.timebase := by
 unfold Mach.event; repeat (first | rfl | split)
@[simp] theorem Mach.event_saddle (m : Mach) (kind status detail : Nat) : (m.event kind status detail).saddle = m.saddle := by
 unfold Mach.event; repeat (first | rfl | split)
@[simp] theorem Mach.event_group (m : Mach) (kind status detail : Nat) : (m.event kind status detail).group = m.group := by
 unfold Mach.event; repeat (first | rfl | split)
@[simp] theorem Mach.event_belay (m : Mach) (kind status detail : Nat) : (m.event kind status detail).belay = m.belay := by
 unfold Mach.event; repeat (first | rfl | split)
@[simp] theorem Mach.event_survey (m : Mach) (kind status detail : Nat) : (m.event kind status detail).survey = m.survey := by
 unfold Mach.event; repeat (first | rfl | split)
@[simp] theorem Mach.event_arms (m : Mach) (kind status detail : Nat) : (m.event kind status detail).arms = m.arms := by
 unfold Mach.event; repeat (first | rfl | split)

/-! ### `Mach.send` -/

@[simp] theorem Mach.send_clk (m : Mach) (r : Reply) : (m.send r).clk = m.clk := by
  unfold Mach.send; split
  · rfl
  · split <;> simp
@[simp] theorem Mach.send_draws (m : Mach) (r : Reply) : (m.send r).draws = m.draws := by
  unfold Mach.send; split
  · rfl
  · split <;> simp
@[simp] theorem Mach.send_csr (m : Mach) (r : Reply) : (m.send r).csr = m.csr := by
  unfold Mach.send; split
  · rfl
  · split <;> simp
@[simp] theorem Mach.send_faultN (m : Mach) (r : Reply) : (m.send r).faultN = m.faultN := by
  unfold Mach.send; split
  · rfl
  · split <;> simp
@[simp] theorem Mach.send_modResetLow (m : Mach) (r : Reply) : (m.send r).modResetLow = m.modResetLow := by
  unfold Mach.send; split
  · rfl
  · split <;> simp
@[simp] theorem Mach.send_mem (m : Mach) (r : Reply) : (m.send r).mem = m.mem := by
  unfold Mach.send; split
  · rfl
  · split <;> simp
@[simp] theorem Mach.send_ctxs (m : Mach) (r : Reply) : (m.send r).ctxs = m.ctxs := by
  unfold Mach.send; split
  · rfl
  · split <;> simp
@[simp] theorem Mach.send_ranges (m : Mach) (r : Reply) : (m.send r).ranges = m.ranges := by
  unfold Mach.send; split
  · rfl
  · split <;> simp
@[simp] theorem Mach.send_streams (m : Mach) (r : Reply) : (m.send r).streams = m.streams := by
  unfold Mach.send; split
  · rfl
  · split <;> simp
@[simp] theorem Mach.send_nextStream (m : Mach) (r : Reply) : (m.send r).nextStream = m.nextStream := by
  unfold Mach.send; split
  · rfl
  · split <;> simp
@[simp] theorem Mach.send_copies (m : Mach) (r : Reply) : (m.send r).copies = m.copies := by
  unfold Mach.send; split
  · rfl
  · split <;> simp
@[simp] theorem Mach.send_tarn (m : Mach) (r : Reply) : (m.send r).tarn = m.tarn := by
  unfold Mach.send; split
  · rfl
  · split <;> simp
@[simp] theorem Mach.send_treeline (m : Mach) (r : Reply) : (m.send r).treeline = m.treeline := by
  unfold Mach.send; split
  · rfl
  · split <;> simp
@[simp] theorem Mach.send_optics (m : Mach) (r : Reply) : (m.send r).optics = m.optics := by
  unfold Mach.send; split
  · rfl
  · split <;> simp
@[simp] theorem Mach.send_plan (m : Mach) (r : Reply) : (m.send r).plan = m.plan := by
  unfold Mach.send; split
  · rfl
  · split <;> simp
@[simp] theorem Mach.send_ports (m : Mach) (r : Reply) : (m.send r).ports = m.ports := by
  unfold Mach.send; split
  · rfl
  · split <;> simp
@[simp] theorem Mach.send_channels (m : Mach) (r : Reply) : (m.send r).channels = m.channels := by
  unfold Mach.send; split
  · rfl
  · split <;> simp
@[simp] theorem Mach.send_messages (m : Mach) (r : Reply) : (m.send r).messages = m.messages := by
  unfold Mach.send; split
  · rfl
  · split <;> simp
@[simp] theorem Mach.send_sent (m : Mach) (r : Reply) : (m.send r).sent = m.sent := by
  unfold Mach.send; split
  · rfl
  · split <;> simp
@[simp] theorem Mach.send_timebase (m : Mach) (r : Reply) : (m.send r).timebase = m.timebase := by
  unfold Mach.send; split
  · rfl
  · split <;> simp
@[simp] theorem Mach.send_saddle (m : Mach) (r : Reply) : (m.send r).saddle = m.saddle := by
  unfold Mach.send; split
  · rfl
  · split <;> simp
@[simp] theorem Mach.send_group (m : Mach) (r : Reply) : (m.send r).group = m.group := by
  unfold Mach.send; split
  · rfl
  · split <;> simp
@[simp] theorem Mach.send_belay (m : Mach) (r : Reply) : (m.send r).belay = m.belay := by
  unfold Mach.send; split
  · rfl
  · split <;> simp
@[simp] theorem Mach.send_survey (m : Mach) (r : Reply) : (m.send r).survey = m.survey := by
  unfold Mach.send; split
  · rfl
  · split <;> simp
@[simp] theorem Mach.send_arms (m : Mach) (r : Reply) : (m.send r).arms = m.arms := by
  unfold Mach.send; split
  · rfl
  · split <;> simp
/-! ### Bit fields -/

theorem bitsOf_testBit (x lo w i : Nat) : (bitsOf x lo w).testBit i = (decide (i < w) && x.testBit (lo + i)) := by
  simp [bitsOf, Nat.testBit_mod_two_pow, Nat.testBit_shiftRight]

theorem Word.setF_testBit (x : Word) (f : Fld) (v i : Nat) (hf : f.lo + f.width ≤ 32) (hi : i < 32) :
    (Word.setF x f v).toNat.testBit i =
      if f.lo ≤ i ∧ i < f.lo + f.width then v.testBit (i - f.lo) else x.toNat.testBit i := by
  have hm : (2 ^ f.width - 1) <<< f.lo < 2 ^ 32 := by
    rw [Nat.shiftLeft_eq]
    calc (2 ^ f.width - 1) * 2 ^ f.lo < 2 ^ f.width * 2 ^ f.lo := by
          apply Nat.mul_lt_mul_of_pos_right _ (by positivity)
          have : 0 < 2 ^ f.width := by positivity
          omega
      _ = 2 ^ (f.lo + f.width) := by rw [← pow_add, add_comm]
      _ ≤ 2 ^ 32 := Nat.pow_le_pow_right (by norm_num) hf
  have e : 2 ^ 32 - 1 - (2 ^ f.width - 1) <<< f.lo = 2 ^ 32 - ((2 ^ f.width - 1) <<< f.lo + 1) := by omega
  unfold Word.setF
  rw [BitVec.toNat_ofNat, Nat.testBit_mod_two_pow, e]
  simp only [hi, decide_true, Bool.true_and, Nat.testBit_or, Nat.testBit_and, Nat.testBit_two_pow_sub_succ hm,
    Nat.testBit_shiftLeft, Nat.testBit_two_pow_sub_one, Nat.testBit_mod_two_pow]
  by_cases h1 : f.lo ≤ i <;> by_cases h2 : i < f.lo + f.width
  · have : i - f.lo < f.width := by omega
    simp [h1, h2, this]
  · have : ¬ i - f.lo < f.width := by omega
    simp [h1, h2, this]
  · simp [h1]
  · simp [h1]

/-- A field reads back what was written, cut to its width. -/
theorem Word.getF_setF_same (x : Word) (f : Fld) (v : Nat) (hf : f.lo + f.width ≤ 32) :
    Word.getF (Word.setF x f v) f = v % 2 ^ f.width := by
  apply Nat.eq_of_testBit_eq
  intro i
  rw [Word.getF, bitsOf_testBit, Nat.testBit_mod_two_pow]
  by_cases h : i < f.width
  · rw [Word.setF_testBit x f v (f.lo + i) hf (by omega), if_pos (by omega), Nat.add_sub_cancel_left]
  · simp [h]

/-- A field keeps its value when a field apart from it is written. -/
theorem Word.getF_setF_other (x : Word) (f g : Fld) (v : Nat) (hf : f.lo + f.width ≤ 32) (hg : g.lo + g.width ≤ 32)
    (h : f.lo + f.width ≤ g.lo ∨ g.lo + g.width ≤ f.lo) : Word.getF (Word.setF x f v) g = Word.getF x g := by
  apply Nat.eq_of_testBit_eq
  intro i
  rw [Word.getF, Word.getF, bitsOf_testBit, bitsOf_testBit]
  by_cases hi : i < g.width
  · rw [Word.setF_testBit x f v (g.lo + i) hf (by omega), if_neg (by omega)]
  · simp [hi]

/-! ### Control space -/

theorem Mach.rd_wr_same (m : Mach) (a : Nat) (v : Word) : (m.wr a v).rd a = v := Sparse.get_put_same _ _ _ _

theorem Mach.rd_wr_other (m : Mach) (a b : Nat) (v : Word) (h : b ≠ a) : (m.wr a v).rd b = m.rd b :=
  Sparse.get_put_other _ _ _ _ _ h

/-- What a read gives after a write. -/
theorem Mach.rd_wr (m : Mach) (a b : Nat) (v : Word) : (m.wr a v).rd b = if b = a then v else m.rd b := by
  split
  · rename_i h; rw [h, Mach.rd_wr_same]
  · rename_i h; exact Mach.rd_wr_other m a b v h

theorem Mach.rd_wrF_other (m : Mach) (a b : Nat) (f : Fld) (v : Nat) (h : b ≠ a) : (m.wrF a f v).rd b = m.rd b :=
  Mach.rd_wr_other m a b _ h

theorem Mach.rdF_wrF_same (m : Mach) (a : Nat) (f : Fld) (v : Nat) (hf : f.lo + f.width ≤ 32) :
    (m.wrF a f v).rdF a f = v % 2 ^ f.width := by
  rw [Mach.rdF, Mach.wrF, Mach.rd_wr_same, Word.getF_setF_same _ _ _ hf]

/-- A field keeps its value when another field, of this register or of any other, is written. -/
theorem Mach.rdF_wrF_other (m : Mach) (a b : Nat) (f g : Fld) (v : Nat) (hf : f.lo + f.width ≤ 32) (hg : g.lo + g.width ≤ 32)
    (h : b ≠ a ∨ f.lo + f.width ≤ g.lo ∨ g.lo + g.width ≤ f.lo) : (m.wrF a f v).rdF b g = m.rdF b g := by
  by_cases e : b = a
  · subst e
    rw [Mach.rdF, Mach.wrF, Mach.rd_wr_same, Word.getF_setF_other _ _ _ _ hf hg (by tauto), Mach.rdF]
  · rw [Mach.rdF, Mach.rd_wrF_other m a b f v e, Mach.rdF]

theorem Mach.rd_addF_other (m : Mach) (a b : Nat) (f : Fld) (d : Nat) (h : b ≠ a) : (m.addF a f d).rd b = m.rd b :=
  Mach.rd_wrF_other m a b f _ h

theorem Mach.rd_orR (m : Mach) (a bits b : Nat) :
    (m.orR a bits).rd b = if b = a then m.rd a ||| BitVec.ofNat 32 bits else m.rd b := Mach.rd_wr m a b _

theorem Mach.rd_trouble (m : Mach) (k b : Nat) :
    (m.trouble k).rd b = if b = Reg.MODULE_TROUBLE then m.rd Reg.MODULE_TROUBLE ||| BitVec.ofNat 32 (2 ^ k) else m.rd b :=
  Mach.rd_orR m _ _ b

/-- A read sees only the registers. -/
theorem Mach.rd_congr (m q : Mach) (a : Nat) (h : m.csr = q.csr) : m.rd a = q.rd a := by rw [Mach.rd, Mach.rd, h]
theorem Mach.rdF_congr (m q : Mach) (a : Nat) (f : Fld) (h : m.csr = q.csr) : m.rdF a f = q.rdF a f := by
  rw [Mach.rdF, Mach.rdF, Mach.rd_congr m q a h]

@[simp] theorem Mach.rd_send (m : Mach) (r : Reply) (a : Nat) : (m.send r).rd a = m.rd a := Mach.rd_congr _ _ _ (Mach.send_csr m r)
@[simp] theorem Mach.rd_event (m : Mach) (k s d a : Nat) : (m.event k s d).rd a = m.rd a := Mach.rd_congr _ _ _ (Mach.event_csr m k s d)
@[simp] theorem Mach.rd_tally (m : Mach) (u i a : Nat) : (m.tally u i).rd a = m.rd a := rfl

/-- The registers are in canonical form (the same registers are the same data). -/
theorem Mach.csr_wf_wr (m : Mach) (a : Nat) (v : Word) (h : Sparse.wf regReset m.csr = true) :
    Sparse.wf regReset (m.wr a v).csr = true := Sparse.wf_put _ _ _ _ h

theorem Mach.csr_wf_resetRegs (m : Mach) (p : Nat → Bool) (h : Sparse.wf regReset m.csr = true) :
    Sparse.wf regReset (m.resetRegs p).csr = true := by
  rw [Sparse.wf_iff] at *
  obtain ⟨h1, h2⟩ := h
  unfold Mach.resetRegs
  constructor
  · refine List.Pairwise.filterMap _ ?_ h1
    intro x y hxy b hb c hc
    have key : ∀ (x b : Nat × Word), (if p x.1 = true then (if keepNv x.1 x.2 = regReset x.1 then none else some (x.1, keepNv x.1 x.2)) else some x) = some b →
        b.1 = x.1 := by
      intro x b hb
      split at hb
      · split at hb
        · cases hb
        · cases hb; rfl
      · cases hb; rfl
    have e1 := key x b hb
    have e2 := key y c hc
    omega
  · intro q hq
    obtain ⟨e, he, hq⟩ := List.mem_filterMap.mp hq
    dsimp only at hq
    split at hq
    · split at hq
      · cases hq
      · rename_i hv; cases hq; exact hv
    · cases hq; exact h2 _ he

/-! ### Replies -/

/-- A reply that is sent goes to the end of the replies sent, or, while the data link is down, to the end of those held (R572). -/
theorem Mach.send_where (m : Mach) (r : Reply) :
    ((m.send r).swite.replies = m.swite.replies ++ [r] ∧ (m.send r).swite.held = m.swite.held) ∨
    ((m.send r).swite.replies = m.swite.replies ∧ (m.send r).swite.held = m.swite.held ++ [r]) := by
  unfold Mach.send
  split
  · exact .inl ⟨rfl, rfl⟩
  · split
    · left
      have h : ∀ q : Mach, (q.countPacket r.lane true).swite = q.swite := by
        intro q; unfold Mach.countPacket; repeat (first | rfl | split)
      rw [h]; exact ⟨rfl, rfl⟩
    · exact .inr ⟨rfl, rfl⟩

/-- A command that is accepted runs its own rule, its packet taken up. -/
theorem Mach.command_go (m : Mach) (op : Nat) (h : Hdr) (p : List Byte) (body : Mach → Mach) (hv : m.verdict op h p = .go) :
    m.command op h p body = body ((m.countPacket h.lane false).takeArrived op h) := by
  unfold Mach.command; rw [hv]

/-- A command that must wait changes nothing. -/
theorem Mach.command_wait (m : Mach) (op : Nat) (h : Hdr) (p : List Byte) (body : Mach → Mach) (hv : m.verdict op h p = .wait) :
    m.command op h p body = m := by
  unfold Mach.command; rw [hv]

/-- A step with a command in front is that command on the rest of the queue. -/
theorem step_cons (s : State) (i : Instr) (t : List Instr) (h : s.pending = i :: t) :
    Machine.step s = exec i { s with pending := t } := by
  unfold Machine.step; rw [h]

end Sys2Proof.Laws
end

