-- ==== Sys2Proof/Laws/Memory.lean ====
section
/-!
SUPPORT. Memory: what a write, a zeroing and a poisoning do to its bytes, that they keep the canonical form, and that they change nothing
but memory and the registers that report on it.
-/

namespace Sys2Proof.Laws

open Sys2Proof.Machine

/-- A fold over a list keeps what each of its steps keeps. -/
theorem foldl_keeps {α β : Type} (P : β → Prop) (f : β → α → β) (h : ∀ b a, P b → P (f b a)) : ∀ (l : List α) (b : β), P b → P (l.foldl f b) := by
  intro l
  induction l with
  | nil => intro b hb; exact hb
  | cons a t ih => intro b hb; exact ih _ (h b a hb)

/-! ### The trackers and registers that a write touches -/

@[simp] theorem Mach.showDirty_bytes (m : Mach) (s : Nat) : (m.showDirty s).mem = m.mem := rfl

theorem Mach.markDirty_bytes (m : Mach) (pa : Nat) : (m.markDirty pa).mem.bytes = m.mem.bytes := by
  unfold Mach.markDirty
  split
  · dsimp only
    split <;> rfl
  · rfl

theorem Mach.markDirty_poison (m : Mach) (pa : Nat) : (m.markDirty pa).mem.poison = m.mem.poison := by
  unfold Mach.markDirty
  split
  · dsimp only
    split <;> rfl
  · rfl

/-! ### A write at a physical address -/

/-- The bytes of memory after a write. -/
theorem Mach.writePa_bytes (m : Mach) (pa : Nat) (l : List Byte) :
    (m.writePa pa l).mem.bytes = Sparse.putRun (fun _ => 0) m.mem.bytes pa l := by
  unfold Mach.writePa
  split
  · rename_i h; rw [h]; rfl
  · unfold Mach.each
    exact foldl_keeps (fun q : Mach => q.mem.bytes = Sparse.putRun (fun _ => 0) m.mem.bytes pa l) _
      (fun q f hq => (Mach.markDirty_bytes q _).trans hq) _ _ rfl

/-- One byte read after a write: the byte written inside the run, and what was there outside it. -/
theorem Mach.readByte_writePa (m : Mach) (pa a : Nat) (l : List Byte) :
    (m.writePa pa l).readByte a = if pa ≤ a ∧ a < pa + l.length then l.getD (a - pa) 0 else m.readByte a := by
  show Sparse.get (fun _ => 0) (m.writePa pa l).mem.bytes a = _
  rw [Mach.writePa_bytes, Sparse.get_putRun]; rfl

/-- A write keeps memory in its canonical form. -/
theorem Mach.writePa_wf (m : Mach) (pa : Nat) (l : List Byte) (h : Memory.wf m.mem.bytes = true) : Memory.wf (m.writePa pa l).mem.bytes = true := by
  rw [Mach.writePa_bytes]; exact Sparse.wf_putRun _ _ _ _ h

/-! ### The other operations of memory -/

theorem Mach.writeVa_wf (x : Ctx) (l : List Byte) : ∀ (m : Mach) (va : Nat), Memory.wf m.mem.bytes = true →
    Memory.wf (m.writeVa x va l).mem.bytes = true := by
  induction l with
  | nil => intro m va h; exact h
  | cons b t ih =>
    intro m va h
    unfold Mach.writeVa
    split
    · refine ih _ _ ?_
      split
      · exact h
      · exact Mach.writePa_wf _ _ _ h
    · exact ih _ _ h

theorem Mach.writeRuns_wf (m : Mach) (l : List (Nat × Byte)) (h : Memory.wf m.mem.bytes = true) : Memory.wf (m.writeRuns l).mem.bytes = true :=
  foldl_keeps (fun q : Mach => Memory.wf q.mem.bytes = true) _ (fun q r hq => Mach.writePa_wf q r.1 r.2 hq) _ _ h

theorem Mach.zeroMem_wf (m : Mach) (p : Nat → Bool) (h : Memory.wf m.mem.bytes = true) : Memory.wf (m.zeroMem p).mem.bytes = true :=
  Sparse.wf_clear _ _ p h

/-- A byte after a zeroing: 0 where the region takes it in, else what it was. -/
theorem Mach.readByte_zeroMem (m : Mach) (p : Nat → Bool) (a : Nat) : (m.zeroMem p).readByte a = if p a then 0 else m.readByte a :=
  Sparse.get_clear (fun _ => (0 : Byte)) m.mem.bytes p a

/-- Poison is no byte of memory. -/
theorem Mach.setPoison_bytes (m : Mach) (w : Nat) : (m.setPoison w).mem.bytes = m.mem.bytes := by
  unfold Mach.setPoison
  split <;> rfl

theorem Mach.setPoison_wf (m : Mach) (w : Nat) (h : Memory.wf m.mem.bytes = true) : Memory.wf (m.setPoison w).mem.bytes = true := by
  rw [Mach.setPoison_bytes]; exact h

/-- Bytes that land from another module, their marked words poisoned. -/
theorem Mach.landBytes_wf (m : Mach) (x : Ctx) (va : Nat) (data : List Byte) (poison : List Nat) (h : Memory.wf m.mem.bytes = true) :
    Memory.wf (m.landBytes x va data poison).mem.bytes = true :=
  foldl_keeps (fun q : Mach => Memory.wf q.mem.bytes = true) _ (fun q w hq => Mach.setPoison_wf q w hq) _ _ (Mach.writeVa_wf x data m va h)

/-! ### What a write leaves alone -/

/-- Everything but memory and control space is as it was. -/
def Mach.besideMemory (q m : Mach) : Prop :=
  q = { m with mem := q.mem, csr := q.csr }

theorem Mach.markDirty_frame (m : Mach) (pa : Nat) : Mach.besideMemory (m.markDirty pa) m := by
  unfold Mach.markDirty
  split
  · dsimp only
    split <;> rfl
  · rfl

/-- A write changes nothing but memory and the registers of the dirty trackers. -/
theorem Mach.writePa_frame (m : Mach) (pa : Nat) (l : List Byte) : Mach.besideMemory (m.writePa pa l) m := by
  unfold Mach.writePa
  split
  · rfl
  · unfold Mach.each
    refine foldl_keeps (fun q : Mach => Mach.besideMemory q m) _ (fun q f hq => ?_) _ _ rfl
    have h := Mach.markDirty_frame q (f * 65536)
    unfold Mach.besideMemory at *
    rw [h, hq]

theorem Mach.writeVa_frame (x : Ctx) (l : List Byte) : ∀ (m : Mach) (va : Nat), Mach.besideMemory (m.writeVa x va l) m := by
  induction l with
  | nil => intro m va; rfl
  | cons b t ih =>
    intro m va
    unfold Mach.writeVa
    split
    · rename_i pa _
      have h := ih (if isHost pa then m else m.writePa pa [b]) (va + 1)
      unfold Mach.besideMemory at *
      rw [h]
      split
      · rfl
      · have g := Mach.writePa_frame m pa [b]
        unfold Mach.besideMemory at g
        rw [g]
    · exact ih _ _

theorem Mach.zeroMem_frame (m : Mach) (p : Nat → Bool) : Mach.besideMemory (m.zeroMem p) m := rfl

end Sys2Proof.Laws
end

