-- ==== Sys2Proof/Laws/Exec.lean ====
section
/-!
SUPPORT. A command and the module: every command of the host goes through one check of its packet, a command that begins runs its own rule
on the module with its packet taken up, and the small updates keep the sizes of the module's tables.
-/

namespace Sys2Proof.Laws

open Sys2Proof.Machine

/-! ### Commands -/

/-- A meaning that changes the module answers the next state and leaves the queue to `step`. -/
theorem State.run_eq (s : State) (f : Mach → Mach) : s.run f = .next (s.on (f s.toMach)) := rfl

@[simp] theorem State.on_toMach (s : State) (m : Mach) : (s.on m).toMach = m := rfl
@[simp] theorem State.on_pending (s : State) (m : Mach) : (s.on m).pending = s.pending := rfl
@[simp] theorem State.on_on (s : State) (m q : Mach) : (s.on m).on q = s.on q := rfl
@[simp] theorem State.on_self (s : State) : s.on s.toMach = s := rfl

/-- Every row that the host sends is a check of its packet (`Mach.command`) and a rule of its own; STREAM_START waits while a Belay freeze
holds its context. -/
theorem exec_host (c : Instr) (op : Nat) (h : Hdr) (p : List Byte) (hp : hostPacket c = some (op, h, p)) :
    ∃ body, ∀ s : State, (∀ i md r, c = .streamStart h i md r → s.frozen h.ctx = false) → exec c s = s.run (fun m => m.command op h p body) := by
  cases c <;> simp only [hostPacket, Option.some.injEq, Prod.mk.injEq, reduceCtorEq] at hp <;>
    (obtain ⟨rfl, rfl, rfl⟩ := hp; first | exact ⟨_, fun s _ => rfl⟩ | skip)
  rename_i h i md r
  refine ⟨streamStartBody h i md r, fun s hf => ?_⟩
  show execStreamStart h i md r s = _
  rw [execStreamStart, State.run_eq, State.run_eq, if_neg (by simp [hf _ _ _ rfl])]

/-- A command that begins runs its rule on the module with its packet taken up. -/
theorem command_begins (s : State) (op : Nat) (h : Hdr) (p : List Byte) (body : Mach → Mach) (hb : s.begins op h p) :
    s.run (fun m => m.command op h p body) = .next (s.on (body (s.took op h))) := by
  rw [State.run_eq, Mach.command_go _ _ _ _ _ hb]; rfl

/-! ### Taking a packet up -/

theorem took_csr (m : Mach) (op : Nat) (h : Hdr) : (m.took op h).csr = m.csr := by
  simp [Mach.took]

theorem took_rd (m : Mach) (op : Nat) (h : Hdr) (a : Nat) : (m.took op h).rd a = m.rd a := Mach.rd_congr _ _ _ (took_csr m op h)
theorem took_rdF (m : Mach) (op : Nat) (h : Hdr) (a : Nat) (f : Fld) : (m.took op h).rdF a f = m.rdF a f := Mach.rdF_congr _ _ _ _ (took_csr m op h)

@[simp] theorem took_mem (m : Mach) (op : Nat) (h : Hdr) : (m.took op h).mem = m.mem := by simp [Mach.took]
@[simp] theorem took_ctxs (m : Mach) (op : Nat) (h : Hdr) : (m.took op h).ctxs = m.ctxs := by simp [Mach.took]
@[simp] theorem took_ranges (m : Mach) (op : Nat) (h : Hdr) : (m.took op h).ranges = m.ranges := by simp [Mach.took]
@[simp] theorem took_streams (m : Mach) (op : Nat) (h : Hdr) : (m.took op h).streams = m.streams := by simp [Mach.took]
@[simp] theorem took_treeline (m : Mach) (op : Nat) (h : Hdr) : (m.took op h).treeline = m.treeline := by simp [Mach.took]
@[simp] theorem took_ports (m : Mach) (op : Nat) (h : Hdr) : (m.took op h).ports = m.ports := by simp [Mach.took]

/-! ### The sizes of the tables -/

/-- The sizes that `shaped` asks for, one by one. -/
theorem shaped_iff (m : Mach) : m.shaped = true ↔ m.ctxs.length = 16 ∧ m.ranges.length = 16 ∧ m.tarn.length = 12 ∧ m.mem.dram.length = 12 ∧
    m.ports.length = 32 ∧ m.treeline.islands.length = 108 ∧ m.treeline.zones.length = 39 ∧ m.swite.credits.length = 8 := by
  simp [Mach.shaped, and_assoc]

@[simp] theorem shaped_wr (m : Mach) (a : Nat) (v : Word) : (m.wr a v).shaped = m.shaped := rfl
@[simp] theorem shaped_wrF (m : Mach) (a : Nat) (f : Fld) (v : Nat) : (m.wrF a f v).shaped = m.shaped := rfl
@[simp] theorem shaped_addF (m : Mach) (a : Nat) (f : Fld) (d : Nat) : (m.addF a f d).shaped = m.shaped := rfl
@[simp] theorem shaped_orR (m : Mach) (a b : Nat) : (m.orR a b).shaped = m.shaped := rfl
@[simp] theorem shaped_trouble (m : Mach) (k : Nat) : (m.trouble k).shaped = m.shaped := rfl
@[simp] theorem shaped_tally (m : Mach) (u i : Nat) : (m.tally u i).shaped = m.shaped := rfl
@[simp] theorem shaped_drawn (m : Mach) : m.drawn.shaped = m.shaped := rfl
@[simp] theorem shaped_setCtx (m : Mach) (c : Nat) (x : Option Ctx) : (m.setCtx c x).shaped = m.shaped := by
  rw [Bool.eq_iff_iff, shaped_iff, shaped_iff]; simp [Mach.setCtx]
@[simp] theorem shaped_setRange (m : Mach) (n : Nat) (r : RangeSt) : (m.setRange n r).shaped = m.shaped := by
  rw [Bool.eq_iff_iff, shaped_iff, shaped_iff]; simp [Mach.setRange]
@[simp] theorem shaped_updRange (m : Mach) (n : Nat) (f : RangeSt → RangeSt) : (m.updRange n f).shaped = m.shaped := shaped_setRange m n _
@[simp] theorem shaped_updPort (m : Mach) (p : Nat) (f : PortSt → PortSt) : (m.updPort p f).shaped = m.shaped := by
  rw [Bool.eq_iff_iff, shaped_iff, shaped_iff]; simp [Mach.updPort]
@[simp] theorem shaped_updIsland (m : Mach) (i : Nat) (f : Island → Island) : (m.updIsland i f).shaped = m.shaped := by
  rw [Bool.eq_iff_iff, shaped_iff, shaped_iff]; simp [Mach.updIsland]
@[simp] theorem shaped_updZone (m : Mach) (z : Nat) (f : Zone → Zone) : (m.updZone z f).shaped = m.shaped := by
  rw [Bool.eq_iff_iff, shaped_iff, shaped_iff]; simp [Mach.updZone]
@[simp] theorem shaped_updStack (m : Mach) (k : Nat) (f : StackSt → StackSt) : (m.updStack k f).shaped = m.shaped := by
  rw [Bool.eq_iff_iff, shaped_iff, shaped_iff]; simp [Mach.updStack]
@[simp] theorem shaped_setTarn (m : Mach) (k : Nat) (t : Option TarnSt) : (m.setTarn k t).shaped = m.shaped := by
  rw [Bool.eq_iff_iff, shaped_iff, shaped_iff]; simp [Mach.setTarn]
@[simp] theorem shaped_updStream (m : Mach) (id : Nat) (f : Stream → Stream) : (m.updStream id f).shaped = m.shaped := rfl

theorem shaped_updCtx (m : Mach) (c : Nat) (f : Ctx → Ctx) : (m.updCtx c f).shaped = m.shaped := by
  unfold Mach.updCtx; split
  · rfl
  · exact shaped_setCtx m c _

/-- A loop over units keeps the sizes if each turn does. -/
theorem shaped_each (f : Mach → Nat → Mach) (h : ∀ m k, m.shaped = true → (f m k).shaped = true) (m : Mach) (l : List Nat) (hm : m.shaped = true) :
    (m.each l f).shaped = true := by
  unfold Mach.each; exact foldl_keeps (fun q : Mach => q.shaped = true) f h l m hm

end Sys2Proof.Laws
end

