-- ==== Sys2Proof/Tests/Slice0.lean ====
section
/-!
SUPPORT. Small tests, each of one step on a small module: for every statement a concrete module and operands that meet its
hypotheses, and what the spec says comes of it; an ill-formed command for each check of `Instr.wf`.
-/

open Sys2Proof Sys2Proof.Machine

namespace Sys2Proof.Tests

-- One theorem after another: each takes a thread with a large stack.
set_option Elab.async false

/-- A management-lane command header of a context. -/
def hdr (ctx len : Nat) : Hdr := { lane := .mgmt, tag := 7, ctx := ctx, prio := 0, flags := 0, len := len, rsv := false, auth := false }

/-- The module alone, as a state with nothing waiting. -/
def st (m : Mach) : State := { m with pending := [] }

/-- A test of the module after one command. -/
def after (c : Instr) (m : Mach) (p : Mach → Bool) : Bool := match exec c (st m) with | .next t => p t.toMach | _ => false

/-- A command that leaves the module exactly as it is. -/
def still (c : Instr) (m : Mach) : Bool := match exec c (st m) with | .next t => decide (t = st m) | _ => false

/-- Two outcomes that are the same next state. -/
def same (a b : Host.Outcome State Fault Refusal) : Bool := match a, b with | .next s, .next t => decide (s = t) | _, _ => false

/-- The status and the data of the last reply sent. -/
def status (m : Mach) : Nat := (m.swite.replies.getLast?).elim 0xFF (·.status)
def reply (m : Mach) : List Byte := (m.swite.replies.getLast?).elim [] (·.data)
def detail (m : Mach) : Nat := (m.swite.replies.getLast?).elim 0 (·.detail)

/-- The module with the stage current (R600). -/
def atStage (k : Nat) : Mach := Mach.reset.wrF Reg.CAIRN_START_STATUS Fld.CAIRN_START_STATUS_STAGE k

/-- A started module whose context 0 holds ranges 0 and 1, and owns their islands' registers. -/
def up : Mach := (((atStage 5).makeCtx 0 [0, 1] (Ctx.fresh 0 16 5 1)).setRangeState 0 1).setRangeState 1 1

/-- The same module with the data link up (R571). -/
def linked : Mach := up.wrF Reg.SWITE_STATUS Fld.SWITE_STATUS_STATE 2
def dhdr (ctx len : Nat) : Hdr := { hdr ctx len with lane := .data }

/-- The command of a header, begun and without its final reply. -/
def begun (op : Nat) (h : Hdr) (m : Mach) : Mach :=
  { m with swite := { m.swite with outstanding := [{ lane := h.lane, ctx := h.ctx, tag := h.tag, opcode := op, prio := h.prio }] } }

/-- The module at a trust level (R533). -/
def trusted (n : Nat) (m : Mach) : Mach := m.wrF Reg.CAIRN_STATE Fld.CAIRN_STATE_TRUST n

/-- A register value with one field set. -/
def word (f : Fld) (v : Nat) : Word := Word.setF 0 f v

/-- A CSR_WRITE header of one register. -/
def one (ctx : Nat) : Hdr := hdr ctx 4

/-- Parameters of a CSR_WRITE of one register. -/
def wparam (a : Nat) : List Byte := leBytes a 4 ++ leBytes 1 2

/-! ### Steps, headers, registers -/

theorem witness_StepRunsFront :
    same (step { st up with pending := [.thermalStatus (hdr 0xFF 0), .tbClkLoss] })
      (exec (.thermalStatus (hdr 0xFF 0)) { st up with pending := [.tbClkLoss] }) = true := by
  decide +kernel

theorem witness_EmptyQueueTicks : (st up).pending = [] ∧ up.timebase.slewing = 0 ∧
    same (step (st up)) (.next (st { up with clk := up.clk + 64, timebase := { up.timebase with ticks := up.timebase.ticks + 1 } })) = true := by decide +kernel

theorem test_reset_part : Mach.reset.rdF Reg.MODULE_PART Fld.MODULE_PART_PART = 0x4610 ∧ (Mach.reset.island 83).powered = true := by decide +kernel

/-- R577's table, one header for each row. -/
theorem witness_HeaderChecksInOrder :
    up.headerCheck 0xFFFE (hdr 0xFF 0) [] = some (St.badOpcode, false) ∧
    up.headerCheck Op.hello { hdr 0xFF 0 with rsv := true } [] = some (St.badParam, false) ∧
    up.headerCheck Op.hello { hdr 0xFF 0 with prio := 8 } [] = some (St.badParam, false) ∧
    up.headerCheck Op.hello { hdr 0xFF 0 with tag := 0xFFFF } [] = some (St.badParam, false) ∧
    up.headerCheck Op.hello { hdr 0xFF 0 with flags := 2 } [] = some (St.badParam, false) ∧
    up.headerCheck Op.hello (hdr 0xFF 4) [] = some (St.badParam, false) ∧
    up.headerCheck Op.streamStop (hdr 0xFF 0) (leBytes 3 2) = some (St.badParam, false) ∧
    up.headerCheck Op.streamStop (hdr 1 0) (leBytes 3 2) = some (St.badParam, false) ∧
    up.headerCheck Op.fabricDiscover (hdr 0 0) [] = some (St.badParam, false) ∧
    (begun Op.hello (hdr 0xFF 0) up).headerCheck Op.hello (hdr 0xFF 0) [] = some (St.badParam, true) ∧
    up.headerCheck Op.hello { hdr 0xFF 0 with prio := 7, tag := 0xFFFE, flags := 1 } [] = none := by decide +kernel

theorem witness_CommandBegins :
    hostPacket (.hello (hdr 0xFF 0)) = some (Op.hello, hdr 0xFF 0, []) ∧ (up.island 83).powered = true ∧ up.hasArrived Op.hello (hdr 0xFF 0) = false ∧
    up.headerCheck Op.hello (hdr 0xFF 0) [] = none ∧ up.restricted Op.hello (hdr 0xFF 0) = none ∧ up.fenced Op.hello (hdr 0xFF 0) = false ∧
    up.outOfTurn Op.hello (hdr 0xFF 0) = false ∧ up.verdict Op.hello (hdr 0xFF 0) [] = .go ∧
    still (.hello (dhdr 0xFF 0)) up = true ∧
    after (.hello { hdr 0xFF 0 with prio := 8 }) up (fun t => decide (status t = St.badParam)) = true ∧
    after (.memMap (hdr 0 32) 0 65536 0 0 1 0) (trusted 2 up) (fun t => decide (status t = St.notPermitted)) = true := by
  decide +kernel

theorem witness_RepliesHelloAndIdentify : up.verdict Op.hello (hdr 0xFF 0) [] = .go ∧ up.verdict Op.identify (hdr 0xFF 0) [] = .go ∧
    after (.hello (hdr 0xFF 0)) up (fun t => decide (status t = St.done ∧ ((reply t).drop 4).take 4 = [5, 0, 0, 0])) = true ∧
    after (.identify (hdr 0xFF 0)) up (fun t => decide (((reply t).drop 10).take 2 = [0x10, 0x46])) = true ∧
    linked.verdict Op.hello (dhdr 0xFF 0) [] = .go ∧
    after (.hello (dhdr 0xFF 0)) linked (fun t => decide (t.swite.outq.length = 1)) = true := by decide +kernel

theorem witness_CsrWholeCheck : up.verdict Op.csrRead (hdr 0xFF 0) (leBytes 0x802 4) = .go ∧
    after (.csrRead (hdr 0xFF 0) 0x802) up (fun t => decide (status t = St.badParam)) = true ∧
    up.verdict Op.csrReadBlock (hdr 0xFF 0) (leBytes 0x800 4 ++ leBytes 2000 2) = .go := by decide +kernel

/-- A write-only field reads 0, a read-to-clear field is cleared by its read, a W1C bit by a 1, and TIMEBASE_NOW latches its high word (R647). -/
theorem witness_CsrReads : csrWindow Reg.MODULE_PART 5 = some (.cairn, 0) ∧ up.readRefused 0xFF Reg.MODULE_PART = false ∧
    up.verdict Op.csrReadBlock (hdr 0xFF 0) (leBytes Reg.MODULE_PART 4 ++ leBytes 5 2) = .go ∧
    after (.csrReadBlock (hdr 0xFF 0) Reg.MODULE_PART 5) up (fun t => decide (status t = St.done ∧ (reply t).length = 20)) = true ∧
    after (.timebaseNowRead (hdr 0xFF 0)) { up with timebase := { up.timebase with ticks := 0x500000007 } }
      (fun t => decide (reply t = [7, 0, 0, 0] ∧ t.rd Reg.TRAVERSE_TIMEBASE_NOW_HI = 5)) = true := by decide +kernel


/-- PACKET_TIMEOUT is an lk register: written in OPEN, refused with LOCKED in LOCKED (R8). -/
theorem witness_CsrWrites : csrWindow Reg.SWITE_PACKET_TIMEOUT 1 = some (.swite, 0) ∧ Block.swite.stage < up.stageShown ∧ up.writable .swite 0 = true ∧
    up.verdict Op.csrWrite (one 0xFF) (wparam Reg.SWITE_PACKET_TIMEOUT) = .go ∧
    after (.csrWrite (one 0xFF) Reg.SWITE_PACKET_TIMEOUT 1 [200]) up (fun t => decide (status t = St.done ∧ t.rd Reg.SWITE_PACKET_TIMEOUT = 200)) = true ∧
    after (.csrWrite (one 0xFF) Reg.SWITE_PACKET_TIMEOUT 1 [200]) (trusted 1 up)
      (fun t => decide (status t = St.locked ∧ t.rd Reg.SWITE_PACKET_TIMEOUT = up.rd Reg.SWITE_PACKET_TIMEOUT)) = true ∧
    after (.csrWrite (one 0xFF) Reg.MODULE_TROUBLE 1 [0xFFFFFFFF]) (up.wr Reg.MODULE_TROUBLE 5) (fun t => decide (status t = St.done)) = true := by
  decide +kernel

theorem witness_UnassignedAddresses : windowOf 0x8FC = some (.cairn, 0, 0x8FC) ∧ regAt 0x8FC = none ∧ up.rd 0x8FC = 0 ∧
    up.verdict Op.csrRead (hdr 0xFF 0) (leBytes 0x8FC 4) = .go ∧ up.verdict Op.csrWrite (one 0xFF) (wparam 0x8FC) = .go ∧
    after (.csrRead (hdr 0xFF 0) 0x8FC) up (fun t => decide (status t = St.done ∧ reply t = [0, 0, 0, 0])) = true ∧
    after (.csrWrite (one 0xFF) 0x8FC 1 [7]) up (fun t => decide (t.csr = up.csr)) = true := by decide +kernel

/-- A module whose standby unit is ready. -/
def readyStandby : Mach := up.wrF Reg.CIRQUE_STATUS Fld.CIRQUE_STATUS_STANDBY_READY 1

theorem witness_switch : up.verdict Op.csrWrite (one 0xFF) (wparam Reg.CIRQUE_LSU_CTL) = .go ∧ readyStandby.standbyReady = true ∧
    readyStandby.poweredOff = false ∧ readyStandby.optics.failing = none ∧
    after (.switch (one 0xFF) (word Fld.CIRQUE_LSU_CTL_SWITCH 1)) readyStandby
      (fun t => decide (status t = St.done ∧ t.optics.failing = some 0 ∧ t.rdF Reg.CIRQUE_LSU_CTL Fld.CIRQUE_LSU_CTL_SWITCH = 0)) = true := by
  decide +kernel

theorem witness_securityVersion : (let m : Mach := { up with cairn := { up.cairn with runSvn := 2 } }
    m.verdict Op.csrWrite (one 0xFF) (wparam Reg.CAIRN_SVN) = .go ∧ m.svn < 1 ∧ m.rdF Reg.CAIRN_SVN Fld.CAIRN_SVN_REMAIN ≠ 0 ∧
    after (.securityVersionWrite (one 0xFF) (word Fld.CAIRN_SVN_VALUE 2)) m (fun t => decide (t.svn = 2 ∧ t.cairn.logSeq = m.cairn.logSeq + 1)) = true ∧
    after (.securityVersionWrite (one 0xFF) (word Fld.CAIRN_SVN_VALUE 3)) m (fun t => decide (t.svn = 0 ∧ status t ≠ St.done)) = true) := by decide +kernel

theorem witness_prodDebugOff : up.verdict Op.csrWrite (one 0xFF) (wparam Reg.CAIRN_FUSES) = .go ∧
    up.rdF Reg.CAIRN_FUSES Fld.CAIRN_FUSES_PROD_DEBUG_OFF = 0 ∧ up.rdF Reg.CAIRN_FUSES Fld.CAIRN_FUSES_REMAIN = 1 ∧
    after (.prodDebugOffWrite (one 0xFF) (word Fld.CAIRN_FUSES_PROD_DEBUG_OFF 1)) up
      (fun t => decide (t.rdF Reg.CAIRN_FUSES Fld.CAIRN_FUSES_PROD_DEBUG_OFF = 1 ∧ t.rdF Reg.CAIRN_FUSES Fld.CAIRN_FUSES_REMAIN = 0)) = true := by
  decide +kernel

theorem witness_syncCounter : up.syncOwned 15 = true ∧ up.syncOwned 16 = false ∧ up.syncOwned 4095 = false ∧
    up.verdict Op.csrWrite (one 0xFF) (wparam (Reg.TRAVERSE_SYNC_COUNTER 15)) = .go ∧
    after (.syncCounterWrite (one 0xFF) 15 9) up (fun t => decide (t.rd (Reg.TRAVERSE_SYNC_COUNTER 15) = 9)) = true ∧
    after (.syncCounterWrite (one 0xFF) 16 9) up (fun t => decide (t.rd (Reg.TRAVERSE_SYNC_COUNTER 16) = 0)) = true := by decide +kernel

theorem witness_timebaseMaster : up.verdict Op.csrWrite (one 0xFF) (wparam Reg.TRAVERSE_TIMEBASE_CFG) = .go ∧
    after (.timebaseMasterWrite (one 0xFF) (word Fld.TRAVERSE_TIMEBASE_CFG_MASTER 1)) up
      (fun t => decide (t.rdF Reg.TRAVERSE_TIMEBASE_CFG Fld.TRAVERSE_TIMEBASE_CFG_MASTER = 1)) = true := by decide +kernel

/-- A free slot goes to the first context that sets VALID; another context's write of it is refused (R335). -/
theorem witness_tarnProg : up.verdict Op.csrWrite (one 0) (wparam (Reg.FOOTHILL_TARN_PROG 11 15)) = .go ∧ up.progHeld 11 15 = false ∧
    (let v := Word.setF (word Fld.FOOTHILL_TARN_PROG_VALID 1) Fld.FOOTHILL_TARN_PROG_ALGO 1
    after (.tarnProgClaim (one 0) 11 15 v) up (fun t => decide (t.progHeld 11 15 = true ∧ t.progCtx 11 15 = 0 ∧
      t.rdF (Reg.FOOTHILL_TARN_PROG 11 15) Fld.FOOTHILL_TARN_PROG_ALGO = 1)) = true ∧
    after (.tarnProgClaim (one 0) 11 15 v)
      (up.wr (Reg.FOOTHILL_TARN_PROG 11 15) (Word.setF v Fld.FOOTHILL_TARN_PROG_CONTEXT 3)) (fun t => decide (status t = St.notPermitted)) = true) := by
  decide +kernel

/-- LOCK_MHZ at its bounds (R498). -/
theorem witness_serveCfg : up.verdict Op.csrWrite (one 0) (wparam (Reg.TRAVERSE_SERVE_CFG 0)) = .go ∧ up.servingNow 0 = false ∧
    (let w (f : Nat) : Word := word Fld.TRAVERSE_SERVE_CFG_LOCK_MHZ f
    let st (f : Nat) (k : Nat) : Bool := after (.serveCfgWrite (one 0) (Reg.TRAVERSE_SERVE_CFG 0) [w f]) up (fun t => decide (status t = k))
    st 475 St.badParam = true ∧ st 500 St.done = true ∧ st 510 St.badParam = true ∧ st 1600 St.done = true ∧ st 1625 St.badParam = true ∧
    after (.serveCfgWrite (one 0) (Reg.TRAVERSE_SERVE_CFG 1) [w 500]) up (fun t => decide (status t = St.notPermitted)) = true) := by decide +kernel

/-! ### The Swite link -/

def flit (seq : Nat) : Flit := { sop := false, cls := 3, kind := 0, rsv := false, seq := seq, ack := 4095, data := List.replicate 248 0 }

theorem witness_flitReceive : linked.dataUp = true ∧ up.dataUp = false ∧ still (.flitReceive (flit 0) true true 0) up = true ∧
    (flit 0).seq = linked.swite.rxExpect ∧ linked.packetOf 3 = none ∧
    after (.flitReceive (flit 0) true true 2) linked (fun t => decide (t.swite.rxExpect = 1 ∧ t.swite.control = [.credit 3 1] ∧
      t.rd Reg.SWITE_FEC_CORRECTED = 2 ∧ t.rd Reg.SWITE_DISCARD_BYTES = 248)) = true ∧
    after (.flitReceive (flit 0) false true 0) linked (fun t => decide (t.swite.rxExpect = 0 ∧ t.swite.control = [.replay 0] ∧ t.swite.waitReplay = true)) = true ∧
    after (.flitReceive (flit 5) true true 0) linked (fun t => decide (t.swite.rxExpect = 0 ∧ t.swite.arriving = [])) = true := by decide +kernel

theorem witness_linkControl : (let m : Mach := { linked with swite := { linked.swite with kept := [flit 4, flit 5, flit 6] } }
    after (.linkControlFlit (.replay 5) 4) m (fun t => decide (t.swite.kept.map (·.seq) = [5, 6] ∧ t.swite.linkOut.map (·.seq) = [5, 6])) = true ∧
    after (.linkControlFlit (.credit 7 3) 4) m (fun t => decide (t.swite.credits.getD 7 0 = 3)) = true) := by decide +kernel

theorem witness_alignmentLoss : (let m := linked.wrF Reg.SWITE_STATUS Fld.SWITE_STATUS_LANES_UP 0xFFFF
    (m.rdF Reg.SWITE_STATUS Fld.SWITE_STATUS_LANES_UP).testBit 15 = true ∧
    after (.switeAlignmentLoss 15) m (fun t => decide (t.dataUp = false ∧ t.rdF Reg.SWITE_STATUS Fld.SWITE_STATUS_LANES_UP = 0x7FFF)) = true) := by
  decide +kernel

/-- All lanes, one half, and neither half (R599). -/
theorem witness_retrained : up.dataUp = false ∧ 2 ≤ up.stage ∧ up.swite.held = [] ∧
    after (.switeLinkRetrained 0xFFFF) up (fun t => decide (t.rdF Reg.SWITE_STATUS Fld.SWITE_STATUS_STATE = 2)) = true ∧
    after (.switeLinkRetrained 0x7FFF) up (fun t => decide (t.rdF Reg.SWITE_STATUS Fld.SWITE_STATUS_STATE = 3)) = true ∧
    after (.switeLinkRetrained 0x7FFE) up (fun t => decide (t.rdF Reg.SWITE_STATUS Fld.SWITE_STATUS_STATE = 0)) = true := by decide +kernel

/-- The bytes of a THERMAL_STATUS packet. -/
def thermalPacket : List Byte := leBytes 0x0802 2 ++ leBytes 0 6 ++ leBytes 9 2 ++ [0xFF, 0] ++ List.replicate 20 0

theorem witness_mgmtPacket : (up.island 83).powered = true ∧ thermalPacket.length = 32 + (Hdr.ofBytes .mgmt false thermalPacket).len ∧
    up.headerCheck 0x0802 (Hdr.ofBytes .mgmt false thermalPacket) ((thermalPacket.drop 16).take 16) = none ∧
    noCommand 0x0802 thermalPacket = false ∧
    after (.mgmtPacket thermalPacket true) up (fun t => decide (t.swite.arrived.length = 1 ∧ t.swite.replies = [])) = true ∧
    after (.mgmtPacket thermalPacket false) up (fun t => decide (t.rd Reg.SWITE_MGMT_CRC = 1)) = true ∧
    after (.mgmtPacket (leBytes 0xFFFE 2 ++ thermalPacket.drop 2) true) up (fun t => decide (status t = St.badOpcode)) = true := by decide +kernel

theorem witness_classWindow : (let p : TxPacket := { cls := 3, kind := 1, begun := false, rest := [1, 2] }
    let m : Mach := { linked with swite := { linked.swite with outq := [p], credits := [0, 0, 0, 1, 0, 0, 0, 0], txSeq := 4095 } }
    m.dataUp = true ∧ m.swite.credits.getD 3 0 = 1 ∧
    after .classWindow m (fun t => decide (t.swite.txSeq = 0 ∧ t.swite.outq = [] ∧ t.swite.linkOut.map (·.seq) = [4095] ∧
      t.swite.linkOut.map (·.sop) = [true] ∧ t.swite.credits.getD 3 0 = 0)) = true) := by decide +kernel

theorem witness_eventSend : (let m : Mach := { linked with clk := 30000000, swite := { linked.swite with events := [(4, 4, 0)], eventAt := [(4, 20000000)] } }
    after (.eventSend 4) m (fun t => decide ((t.swite.replies.getLast?).elim 0 (·.tag) = 0xFFFF ∧ t.swite.events = [])) = true ∧
    still (.eventSend 4) { m with clk := 29999999 } = true) := by decide +kernel

theorem witness_packetTimeout : (let p : Packet := { lane := .data, cls := 3, bytes := thermalPacket, total := 40, accepted := true, since := 0, last := 0 }
    let m : Mach := { linked with swite := { linked.swite with arriving := [p] } }
    let late := 10000 * (m.rd Reg.SWITE_PACKET_TIMEOUT).toNat
    m.packetOf 3 = some p ∧ still (.packetTimeout 3) { m with clk := late - 1 } = true ∧
    after (.packetTimeout 3) { m with clk := late } (fun t => decide (t.packetOf 3 = none ∧ status t = St.partialDiscard)) = true) := by decide +kernel

/-! ### Cairn -/

/-- A module with a finished, measured session that was made in LOCKED. -/
def session : Session := { exchangedIn := 1, finished := true, measured := true, hbS := 10, lastMsg := 0, generation := 0, countH2m := 0, countM2h := 0 }
def inSession (m : Mach) : Mach := { m with cairn := { m.cairn with session := some session } }
def authHdr (ctx len : Nat) : Hdr := { dhdr ctx len with auth := true }

theorem witness_LockConfigAnswers :
    up.verdict Op.lockConfig (hdr 0xFF 0) (leBytes 0 1) = .go ∧ up.verdict Op.lockConfig (hdr 0xFF 0) (leBytes 3 1) = .go ∧
    (linked.wrF Reg.CAIRN_STATE Fld.CAIRN_STATE_CLEARING 1).restricted Op.lockConfig (dhdr 0xFF 0) = some St.busy ∧
    (let ans (m : Mach) (k s : Nat) : Bool := after (.lockConfig (hdr 0xFF 0) k) m (fun t => decide (status t = s ∧ t.trust = m.trust))
    ans up 3 St.badParam = true ∧ ans up 0 St.done = true ∧ ans (trusted 1 up) 1 St.done = true ∧ ans up 2 St.badParam = true ∧
    ans (up.wrF Reg.CAIRN_STATE Fld.CAIRN_STATE_DEBUG 1) 1 St.notPermitted = true ∧ ans (trusted 1 up) 2 St.attestFail = true) ∧
    after (.lockConfig (authHdr 0xFF 0) 2) (inSession (trusted 1 linked)) (fun t => decide (status t = St.done ∧ t.trust = 2)) = true ∧
    after (.lockConfig (dhdr 0xFF 0) 1) (trusted 2 linked) (fun t => decide (status t = St.badParam)) = true := by decide +kernel

theorem witness_trustMoves : up.debug = false ∧ (trusted 1 up).verdict Op.lockConfig (hdr 0xFF 0) (leBytes 0 1) = .go ∧
    after (.lockConfig (hdr 0xFF 0) 1) up (fun t => decide (t.trust = 1 ∧ t.cairn.lkFrozen = some up.lkWords)) = true ∧
    after (.lockConfig (hdr 0xFF 0) 0) (trusted 1 up) (fun t => decide (t.trust = 0 ∧ t.cairn.lkFrozen = none)) = true := by decide +kernel

theorem witness_clearing : linked.cairn.clearing = none ∧ linked.cairn.waits = [] ∧ linked.shaped = true ∧
    (inSession (trusted 2 linked)).verdict Op.tenantEnd (authHdr 0xFF 0) [] = .go ∧
    (inSession (trusted 2 linked)).verdict Op.lockConfig (authHdr 0xFF 0) (leBytes 0 1) = .go ∧
    after (.tenantEnd (authHdr 0xFF 0)) (inSession (trusted 2 linked)) (fun t => decide (t.trust = 0 ∧ t.clearing = true ∧ t.ctx 0 = none)) = true ∧
    after (.lockConfig (authHdr 0xFF 0) 0) (inSession (trusted 2 linked)) (fun t => decide (t.trust = 0 ∧ t.clearing = true ∧ t.swite.outstanding.length = 1)) = true ∧
    (let m : Mach := { up with cairn := { up.cairn with resetting := none } }
    m.verdict Op.reset (hdr 0xFF 0) (resetParam 5 0) = .go ∧
    after (.tenantReset (hdr 0xFF 0) 0) m (fun t => decide (t.clearing = true ∧ t.rdF Reg.CAIRN_RESET_CAUSE Fld.CAIRN_RESET_CAUSE_KIND = 5)) = true) := by
  decide +kernel

/-- A clearing ends 21 ms after it began and not before (R542). -/
theorem witness_clearingEnd : (let m : Mach := { up with cairn := { up.cairn with clearing := some (0, [(.mgmt, 7, Op.tenantEnd)]) } }
    let m := m.wrF Reg.LEDGE_MEM_SUMMARY Fld.LEDGE_MEM_SUMMARY_SCRUB_COMPLETE 1
    still .clearingEnd { m with clk := 209999999 } = true ∧ 3 ≤ m.stage ∧
    after .clearingEnd { m with clk := 210000000 } (fun t => decide (t.cairn.clearing = none ∧ status t = St.done)) = true) := by decide +kernel

/-- A TRUSTED module in session, with one ephemeral key. -/
def secret : Mach := let m := inSession (trusted 2 linked); { m with cairn := { m.cairn with ephKeys := [(5, 0)] } }

theorem witness_SpdmSession : up.verdict Op.spdmMsg (hdr 0xFF 0) [] = .go ∧ up.cairn.session = none ∧
    after (.spdmMsg (hdr 0xFF 0) .keyExchange false true) up (fun t => decide (t.cairn.session.isSome = true)) = true ∧
    (inSession up).verdict Op.spdmMsg (hdr 0xFF 0) [] = .go ∧
    after (.spdmMsg (hdr 0xFF 0) .finish true true) (inSession up) (fun t => decide (t.rdF Reg.SWITE_STATUS Fld.SWITE_STATUS_ENCRYPTED = 1)) = true ∧
    after (.spdmMsg (hdr 0xFF 0) .endSession true true) (inSession up) (fun t => decide (t.cairn.session = none)) = true := by decide +kernel

/-- HB_S = 10: the session ends 20 s after its last message (R543). -/
theorem witness_heartbeat : still .heartbeatExpiry { inSession up with clk := 199999999999 } = true ∧
    after .heartbeatExpiry { inSession up with clk := 200000000000 } (fun t => decide (t.cairn.session = none)) = true ∧
    after .heartbeatExpiry { secret with clk := 200000000000 } (fun t => decide (t.trust = 0)) = true := by decide +kernel

/-- The checks of LOAD before the key is opened; what opens a key is the free function `Config.gcmOpen`. -/
theorem witness_load : secret.verdict Op.keyRelease (authHdr 0 204) (leBytes 1 2) = .go ∧ secret.trust = 2 ∧
    after (.load (authHdr 0 204) (16 :: List.replicate 203 0)) secret (fun t => decide (status t = St.badParam)) = true ∧
    after (.load (authHdr 0 204) (List.replicate 204 0)) secret (fun t => decide (status t = St.attestFail ∧ t.cairn.ephKeys = [(5, 0)])) = true := by
  decide +kernel

theorem witness_ephemeral : up.verdict Op.keyRelease (hdr 0 32) (leBytes 0 2) = .go ∧ secret.verdict Op.keyRelease (authHdr 0 32) (leBytes 0 2) = .go ∧
    after (.getEphemeral (hdr 0 32) (List.replicate 32 0)) up (fun t => decide (status t = St.notPermitted)) = true ∧
    after (.getEphemeral (authHdr 0 32) (List.replicate 32 0)) secret (fun t => decide (status t = St.done ∧ t.cairn.ephKeys.length = 2)) = true ∧
    after (.getEphemeral (authHdr 0 32) (List.replicate 32 0)) { secret with cairn := { secret.cairn with ephKeys := [(1, 0), (2, 0), (3, 0), (4, 0)] } }
      (fun t => decide (status t = St.busy)) = true ∧
    after (.ephemeralKeyExpiry 5) { secret with clk := 599999999999 } (fun t => decide (t.cairn.ephKeys = [(5, 0)])) = true ∧
    after (.ephemeralKeyExpiry 5) { secret with clk := 600000000000 } (fun t => decide (t.cairn.ephKeys = [])) = true := by decide +kernel

/-- A key in slot 15 of context 0. -/
def slotHeld : Mach :=
  let m := (secret.wrF (Reg.CAIRN_KEY_SLOT 15) Fld.CAIRN_KEY_SLOT_VALID 1).wrF (Reg.CAIRN_KEY_SLOT 15) Fld.CAIRN_KEY_SLOT_CONTEXT 0
  { m with cairn := { m.cairn with slotKeys := [(15, List.replicate 32 7)] } }

theorem witness_clear : slotHeld.slotOf 15 0 = true ∧ slotHeld.copies = [] ∧
    slotHeld.verdict Op.keyRelease (authHdr 0 0) (leBytes 2 1 ++ leBytes 15 1) = .go ∧
    after (.clear (authHdr 0 0) 15) slotHeld (fun t => decide (status t = St.done ∧ t.cairn.slotKeys = [] ∧ t.rd (Reg.CAIRN_KEY_SLOT 15) = 0)) = true := by
  decide +kernel

theorem witness_ownerTransfer : up.verdict Op.ownerTransfer (hdr 0xFF 196) [] = .go ∧ up.ownerIndex = 0 ∧ up.trust = 0 ∧
    up.rdF Reg.CAIRN_OWNER Fld.CAIRN_OWNER_REMAIN ≠ 0 ∧
    after (.ownerTransfer (hdr 0xFF 196) (List.replicate 64 9) (List.replicate 132 0)) up
      (fun t => decide (t.ownerIndex = 1 ∧ t.rd (Reg.CAIRN_OWNER_HASH 15) = 0x09090909 ∧ t.cairn.ownerScrub = [(.mgmt, 7)])) = true ∧
    after (.ownerTransfer (hdr 0xFF 196) (List.replicate 64 9) (List.replicate 132 0)) (up.wrF Reg.CAIRN_OWNER Fld.CAIRN_OWNER_REMAIN 0)
      (fun t => decide (status t = St.limitReached)) = true := by decide +kernel

/-- A FW_UPDATE of four bytes begins and gets a status. -/
def fwAnswers (off total k : Nat) : Bool :=
  decide (up.verdict Op.fwUpdate (hdr 0xFF 4) (leBytes off 8 ++ leBytes total 4) = .go) &&
    after (.fwUpdate (hdr 0xFF 4) off total [1, 2, 3, 4]) up (fun t => decide (status t = k))

/-- TOTAL at 64 MiB and beyond, and a chunk past the end (R531). -/
theorem witness_fwUpdate : fwAnswers 0 67108864 St.done = true ∧ fwAnswers 0 67108865 St.badParam = true ∧
    fwAnswers 67108860 67108864 St.done = true ∧ fwAnswers 67108861 67108864 St.badParam = true := by
  decide +kernel

theorem witness_debugMode : up.verdict Op.debugMode (hdr 0xFF 0) (leBytes 1 1) = .go ∧ up.verdict Op.debugMode (hdr 0xFF 0) (leBytes 0 1) = .go ∧
    up.ownerIndex = 0 ∧ after (.debugModeEnable (hdr 0xFF 0) []) up (fun t => decide (status t = St.done)) = true ∧
    after (.debugModeDisable (hdr 0xFF 0)) (up.wrF Reg.CAIRN_STATE Fld.CAIRN_STATE_DEBUG 1) (fun t => decide (t.debug = false)) = true := by decide +kernel

/-! ### Start and reset -/

/-- A started module with no reset in progress, and no second reset held. -/
def calm : Mach := { up with cairn := { up.cairn with resetting := none, powerGood := some 0 } }

/-- A RESET begins and gets a status. -/
def bad (c : Nat → Instr) (kind k ctx s : Nat) : Bool :=
  decide (calm.verdict Op.reset (hdr ctx 0) (resetParam kind k) = .go) && after (c k) calm (fun t => decide (status t = s))

theorem witness_ResetTargets : bad (.moduleReset (hdr 0xFF 0)) 1 2 0xFF St.badParam = true ∧ bad (.moduleReset (hdr 0 0)) 1 0 0 St.badParam = true ∧
    bad (.contextReset (hdr 0 0)) 2 1 0 St.badParam = true ∧ bad (.contextReset (hdr 0xFF 0)) 2 0 0xFF St.badParam = true ∧
    bad (.rangeReset (hdr 0 0)) 3 16 0 St.badParam = true ∧ bad (.rangeReset (hdr 0 0)) 3 2 0 St.notPermitted = true ∧
    bad (.portReset (hdr 0xFF 0)) 4 32 0xFF St.badParam = true ∧ bad (.portReset (hdr 0 0)) 4 1 0 St.badParam = true ∧
    bad (.tenantReset (hdr 0xFF 0)) 5 1 0xFF St.badParam = true := by decide +kernel

theorem witness_moduleReset : calm.cairn.resetting = none ∧ calm.recovery = false ∧ calm.verdict Op.reset (hdr 0xFF 0) (resetParam 1 0) = .go ∧
    after (.moduleReset (hdr 0xFF 0) 0) calm (fun t => decide (t.ctx 0 = none ∧ status t = St.done)) = true ∧
    after .modResetNAssert calm (fun t => decide (t.cairn.resetHeld = true ∧ t.modResetLow = true)) = true ∧
    after .modResetNDeassert { calm with modResetLow := true, cairn := { calm.cairn with resetHeld := true } }
      (fun t => decide (t.cairn.resetHeld = false)) = true ∧
    after .activation { calm with cairn := { calm.cairn with activating := some 1 } } (fun t => decide (t.cairn.ephKeys = [])) = true := by decide +kernel

theorem witness_coldReset : after .coldReset up (fun t => decide ((t.island 0).powered = false ∧ (t.island 83).powered = true)) = true ∧
    after .cairnInputLoss up (fun t => decide ((t.island 83).powered = false)) = true ∧
    Mach.reset.cairn.powerGood = none ∧ after .powerGood Mach.reset (fun t => decide (t.cairn.powerGood = some 0)) = true := by decide +kernel

def stageOk : StageResult := { bankAOk := true, bankBOk := false, stacksFailed := 0 }
def good (m : Mach) : Mach := { m with cairn := { m.cairn with powerGood := some 0 } }

theorem witness_stageEnd_early : (good Mach.reset).failed = false ∧ (good Mach.reset).bankPasses stageOk 0 = true ∧
    after (.stageEnd stageOk) (good Mach.reset) (fun t => decide (t.stage = 1)) = true ∧
    after (.stageEnd { stageOk with bankAOk := false }) (good Mach.reset) (fun t => decide (t.recovery = true ∧ t.stage = 0)) = true ∧
    after (.stageEnd stageOk) (good (atStage 1)) (fun t => decide (t.stage = 2 ∧ t.dataUp = true)) = true ∧
    after (.stageEnd { stageOk with stacksFailed := 1 }) (good (atStage 1))
      (fun t => decide (t.rdF Reg.CAIRN_START_STATUS Fld.CAIRN_START_STATUS_FAIL_CAUSE = 3)) = true := by decide +kernel

theorem witness_stageEnd_late : still (.stageEnd stageOk) (good (atStage 2)) = true ∧
    after (.stageEnd stageOk) ((good (atStage 2)).wrF Reg.LEDGE_MEM_SUMMARY Fld.LEDGE_MEM_SUMMARY_SCRUB_COMPLETE 1)
      (fun t => decide (t.stage = 3 ∧ t.rdF Reg.LEDGE_MEM_SUMMARY Fld.LEDGE_MEM_SUMMARY_LEDGE_B_READY = 1)) = true ∧
    still (.stageEnd stageOk) (good (atStage 3)) = true ∧
    after (.stageEnd stageOk) ((good (atStage 3)).wrF Reg.CIRQUE_STATUS Fld.CIRQUE_STATUS_STAGE 3) (fun t => decide (t.stage = 4 ∧ t.fabricOk = true)) = true ∧
    still (.stageEnd stageOk) (good (atStage 4)) = true ∧
    after (.stageEnd stageOk) { good (atStage 4) with ports := (atStage 4).ports.map (fun x => { x with discovered := true }) }
      (fun t => decide (t.stage = 5 ∧ t.cairn.resetting = none)) = true := by decide +kernel

/-- S1's deadline is 2 s after power-good (R608); S3 ends 45 s after it began, or 30 s where no laser unit is stable (R606). -/
theorem witness_overruns : still (.stageDeadlineOverrun 4) { good (atStage 1) with clk := 19999999999 } = true ∧
    after (.stageDeadlineOverrun 4) { good (atStage 1) with clk := 20000000000 } (fun t => decide (t.failed = true ∧ t.alert = true)) = true ∧
    still .s3Timeout { good (atStage 3) with clk := 299999999999 } = true ∧
    after .s3Timeout { (good (atStage 3)).wrF Reg.CIRQUE_STATUS Fld.CIRQUE_STATUS_STAGE 1 with clk := 300000000000 } (fun t => decide (t.stage = 4)) = true ∧
    after .s3Timeout { (good (atStage 3)).wrF Reg.CIRQUE_STATUS Fld.CIRQUE_STATUS_STAGE 2 with clk := 450000000000 } (fun t => decide (t.fabricOk = false)) = true ∧
    after (.discoveryLightTimeout 31) { good (atStage 4) with clk := 50000000000 } (fun t => decide ((t.port 31).noLight5s = true)) = true ∧
    still (.discoveryLightTimeout 31) { good (atStage 4) with clk := 49999999999 } = true := by decide +kernel

theorem witness_narrowResets : calm.verdict Op.reset (hdr 0 0) (resetParam 2 0) = .go ∧ calm.cairn.waits = [] ∧ calm.ctxMask 0 = 3 ∧ calm.shaped = true ∧
    after (.contextReset (hdr 0 0) 0) calm (fun t => decide (t.rangeState 1 = 6 ∧ (t.ctx 0).isSome = true ∧ t.cairn.waits.length = 1)) = true ∧
    after (.rangeReset (hdr 0 0) 1) calm (fun t => decide (t.rangeState 1 = 6 ∧ t.rangeState 0 = 1)) = true ∧
    calm.fabricOk = false ∧ after (.portReset (hdr 0xFF 0) 31) calm (fun t => decide (status t = St.done)) = true ∧
    (let m := calm.wrF Reg.CAIRN_START_STATUS Fld.CAIRN_START_STATUS_FABRIC_OK 1
    m.verdict Op.reset (hdr 0xFF 0) (resetParam 4 31) = .go ∧
    after (.portReset (hdr 0xFF 0) 31) m (fun t => decide (t.cairn.waits.map (·.what) = [.port 31])) = true) := by decide +kernel

theorem witness_rangeCleared : still (.rangeCleared 1) calm = true ∧
    (let w : ResetWait := { lane := .mgmt, ctx := 0, tag := 7, what := .ranges 2 }
    let m : Mach := (begun Op.reset (hdr 0 0) { calm with cairn := { calm.cairn with waits := [w] } }).setRangeState 1 6
    m.rangeState 1 = 6 ∧ after (.rangeCleared 1) m (fun t => decide (t.rangeState 1 = 1 ∧ status t = St.done ∧ t.cairn.waits = [])) = true) := by
  decide +kernel

/-! ### Memory -/

/-- FP32, 4 by 4, at a virtual address, as DESC_LOAD's bytes (R47): rank 2, valid, tile 4 by 4. -/
def descBytes (base flags : Nat) : List Byte :=
  leBytes (2 * 2 ^ 57 + 2 ^ 56 + base + flags) 8 ++ leBytes 0 8 ++ leBytes 4 4 ++ leBytes 4 4 ++ leBytes 0 16 ++ leBytes 4 4 ++ leBytes 0 16 ++
    leBytes (3 * 2 ^ 25 + 3 * 2 ^ 18) 4

/-- Handle 1: an FP32 tensor. 2: a gradient. 3: an index tensor. -/
def tensors : List (Nat × Desc) :=
  [(1, Desc.ofBytes (descBytes 0x1000 0)), (2, Desc.ofBytes (descBytes 0x2000 4)), (3, Desc.ofBytes (descBytes 0x3000 (10 * 2 ^ 52 + 16)))]

/-- An instruction with nothing in it but its station, opcode, repeats and modifier. -/
def ins (station op rep mod : Nat) : Ewx :=
  { op := op, station := station, incA := false, incB := false, sr := false, rsv112 := false, rep := rep, hA := 0xFFFF, hB := 0xFFFF, hD := 0xFFFF,
    axa := 0, axb := 0, mod := mod }

/-- A stream of two CTRL.IDLEs. -/
def idles : Image := { cls := 1, cSlot := 0, cGuard := 0, code := [ins 0 1 1 0, ins 0 1 1 0] }

/-- The first MiB of the device mapped at virtual address 0, one descriptor, one image. -/
def world : Mach :=
  let x : Ctx := { Ctx.fresh 0 16 5 1 with
    maps := [{ va := 0, size := 2 ^ 20, page := 65536, pa := 0, write := true, pdom := 0 }], descs := tensors,
    images := [(2, idles)] }
  let m := up.setCtx 0 (some x)
  { m with mem := { m.mem with owned := [(0, ⟨0, 16⟩)] }, treeline := { m.treeline with pool := 1000 } }

/-- A MEM_MAP of context 0 gets a status. -/
def maps (m : Mach) (va size pa pg pd s : Nat) : Bool :=
  decide (m.verdict Op.memMap (hdr 0 32) [] = .go) && after (.memMap (hdr 0 32) va size pa pg 1 pd) m (fun t => decide (status t = s))

/-- A map that is refused for its size, its alignment, an overlap, a domain not granted, another context's frames, unscrubbed frames; one that is taken; the
last page of the virtual address space (R267). -/
theorem witness_memMap : pageBytes 0 = some 65536 ∧ maps world (2 ^ 20) 0 (2 ^ 20) 0 0 St.badParam = true ∧
    maps world (2 ^ 20 + 4096) 65536 (2 ^ 20) 0 0 St.badParam = true ∧ maps world 0 65536 (2 ^ 20) 0 0 St.badParam = true ∧
    maps world (2 ^ 20) 65536 (2 ^ 20) 0 7 St.notPermitted = true ∧
    maps { world with mem := { world.mem with owned := [(0, ⟨0, 16⟩), (1, ⟨16, 1⟩)] } } (2 ^ 20) 65536 (2 ^ 20) 0 0 St.notPermitted = true ∧
    maps { world with mem := { world.mem with scrubQueue := [(0, [⟨16, 1⟩])] } } (2 ^ 20) 65536 (2 ^ 20) 0 0 St.busy = true ∧
    maps world (2 ^ 20) 65536 (2 ^ 20) 0 0 St.done = true ∧ maps world (2 ^ 52 - 65536) 65536 (2 ^ 20) 0 0 St.done = true ∧
    maps world (2 ^ 52) 65536 (2 ^ 20) 0 0 St.badParam = true ∧
    after (.memMap (hdr 0 32) (2 ^ 20) 65536 (2 ^ 21) 0 1 0) world
      (fun t => decide ((t.ctx 0).elim none (fun x => x.phys (2 ^ 20 + 65535)) = some (2 ^ 21 + 65535))) = true := by decide +kernel

theorem witness_memUnmap : world.verdict Op.memUnmap (hdr 0 0) (leBytes 0 8 ++ leBytes (2 ^ 20) 8) = .go ∧ world.lockedIn 0 0 (2 ^ 20) = false ∧
    coversPages [{ va := 0, size := 2 ^ 20, page := 65536, pa := 0, write := true, pdom := 0 }] 0 (2 ^ 20) = true ∧
    after (.memUnmap (hdr 0 0) 0 (2 ^ 20)) world (fun t => decide (status t = St.done ∧ (t.ctx 0).elim none (fun x => x.phys 0) = none)) = true ∧
    after (.memUnmap (hdr 0 0) 0 (2 ^ 21)) world (fun t => decide (status t = St.badParam)) = true ∧
    after (.memUnmap (hdr 0 0) 0 0) world (fun t => decide (status t = St.badParam)) = true := by decide +kernel

/-- A copy or fill of context 0 under way, for a management-lane command. -/
def job (op : Nat) (src : Option Nat) (dst pattern n : Nat) : CopyJob :=
  { ctx := 0, owner := .cmd .mgmt 7 op, src := src, dst := dst, pattern := pattern, length := n, handles := none, slot := none, arrived := [],
    sent := false, failed := 0, moved := 0, prio := 0 }

def copying (j : CopyJob) : Mach :=
  begun Op.memCopy (hdr 0 0) { world with copies := [j], mem := { world.mem with bytes := [(0x100, 1), (0x101, 2)] } }

theorem witness_copies : world.verdict Op.memFill (hdr 0 8) (leBytes 0x40 8 ++ leBytes 0x04030201 4) = .go ∧
    world.verdict Op.memCopy (hdr 0 16) (leBytes 0x100 8 ++ leBytes 0x101 8) = .go ∧ world.mem.sealed = [] ∧
    after (.memFill (hdr 0 8) 0x40 0x04030201 8) world (fun t => decide (t.copies.length = 1 ∧ t.swite.outstanding.length = 1)) = true ∧
    after (.memCopy (hdr 0 16) 0x100 0x101 2 0) world (fun t => decide (t.copies.map (·.length) = [2])) = true ∧
    after (.memFill (hdr 0 8) 0x42 1 8) world (fun t => decide (status t = St.badParam)) = true := by decide +kernel

/-- A copy onto its own source's next byte moves the bytes as they were; a fill lays its pattern by address (R291). -/
theorem witness_copyComplete : (let j := job Op.memCopy (some 0x100) 0x101 0 2
    let x := (world.ctx 0).getD (Ctx.fresh 0 0 0 0)
    (copying j).copies[0]? = some j ∧ (x.moves j).all (fun mv => decide (x.moveFault j mv = none)) = true ∧ (copying j).txnsOf j.txnOwner = 0 ∧
    after (.copyComplete 0 Ecc.clean) (copying j) (fun t => decide (t.mem.bytes = [(0x100, 1), (0x101, 1), (0x102, 2)] ∧ status t = St.done ∧ t.copies = [])) = true) ∧
    after (.copyComplete 0 Ecc.clean) (copying (job Op.memFill none 0x44 0x04030201 4))
      (fun t => decide ((t.readByte 0x44, t.readByte 0x47, t.readByte 0x48) = (1, 4, 0))) = true := by decide +kernel

theorem witness_hostTxn : (let x : HostTxn := { tag := 3, write := false, addr := 0x40, data := List.replicate 64 0, merge := [], owner := .entry 0 0, since := 0 }
    let m : Mach := { world with swite := { world.swite with txns := [x] } }
    m.swite.txns.find? (fun t => decide (t.tag = 3)) = some x ∧
    after (.hostTxnCompletion 3 (.completion (List.replicate 64 9))) m (fun t => decide (t.swite.txns = [])) = true ∧
    after (.hostTxnCompletion 3 .error) m (fun t => decide (t.rd Reg.SWITE_HOST_ERRORS = 1)) = true ∧
    still (.hostTxnTimeout 3) { m with clk := 9999999 } = true ∧
    after (.hostTxnTimeout 3) { m with clk := 10000000 } (fun t => decide (t.rd Reg.SWITE_HOST_ERRORS = 1)) = true ∧
    still (.hostTxnCompletion 4 .ack) m = true ∧
    after (.hostTxnCompletion 3 .ack) { m with swite := { m.swite with txns := [{ x with write := true }] } } (fun t => decide (t.swite.txns = [])) = true) := by
  decide +kernel

theorem witness_grantWindow : up.shaped = true ∧ (up.bwWeights 11).all (fun w => decide (w ≠ 0)) = true ∧ (up.bwWeights 11).sum ≤ 64 ∧
    after (.grantWindow 11 [9000000, 9000000, 0, 0, 0, 100]) up (fun t => decide ((t.stack 11).grants.getD 1 0 ≤ 3200000)) = true := by decide +kernel

theorem witness_patrol : (let m := up.wrF (Reg.FOOTHILL_STATUS 11) Fld.FOOTHILL_STATUS_STATE 3
    after (.patrolRead 11 Ecc.clean) m (fun t => decide ((t.stack 11).patrolAt = 1)) = true ∧
    after (.patrolRead 11 { corrected := [], bad := [11 * 2 ^ 37] }) m (fun t => decide (t.poisoned (11 * 2 ^ 37) = true)) = true ∧
    still (.wholeMemoryScrubDone 11) m = true ∧
    after (.wholeMemoryScrubDone 11) { m.updStack 11 (fun x => { x with scrubbing := true }) with mem := { m.mem with
      dram := m.mem.dram.map (fun x => { x with scrubbing := true }), bytes := [(11 * 2 ^ 37 - 1, 1), (11 * 2 ^ 37, 2)] } }
      (fun t => decide (t.mem.bytes = [(11 * 2 ^ 37 - 1, 1)])) = true ∧
    still .frameScrubDone m = true ∧
    after .frameScrubDone { m with mem := { m.mem with scrubQueue := [(0, [⟨2, 1⟩])], bytes := [(131071, 1), (131072, 2), (196607, 3), (196608, 4)] } }
      (fun t => decide (t.mem.bytes = [(131071, 1), (196608, 4)] ∧ t.mem.scrubQueue = [])) = true) := by decide +kernel

/-! ### Contexts, descriptors and images -/

/-- A CONTEXT_CREATE gets a status. -/
def creates (count place mask syncs s : Nat) : Bool :=
  decide (up.verdict Op.contextCreate (hdr 0xFF 48) [] = .go) &&
    after (.contextCreate (hdr 0xFF 48) count place mask syncs 9 1) up (fun t => decide (status t = s))

/-- Ranges 0 and 1 are taken: 14 remain, 6 of them on the first Massif side (R39, R595). -/
theorem witness_contextCreate : up.shaped = true ∧ up.newNumber 0xFF = some 1 ∧ up.syncRun 4080 = some 16 ∧ up.freeRanges.length = 14 ∧
    creates 14 0 0 16 St.done = true ∧ creates 15 0 0 16 St.busy = true ∧ creates 17 0 0 16 St.badParam = true ∧ creates 0 0 0 16 St.badParam = true ∧
    creates 6 1 0 16 St.done = true ∧ creates 7 1 0 16 St.busy = true ∧ creates 8 2 0 16 St.done = true ∧ creates 1 3 0x8000 16 St.done = true ∧
    creates 1 3 2 16 St.busy = true ∧ creates 1 0 0 4097 St.badParam = true ∧
    after (.contextCreate (hdr 0xFF 48) 1 3 0x8000 16 9 1) up (fun t => decide (t.owns 1 15 = true ∧ t.rangeState 15 = 6 ∧ detail t = 0x80000000 + 16 * 16 + 1)) = true := by
  decide +kernel

theorem witness_contextDestroy : up.verdict Op.contextDestroy (hdr 0 0) [] = .go ∧
    after (.contextDestroy (hdr 0 0)) up (fun t => decide (t.ctx 0 = none ∧ t.rangeState 1 = 0 ∧ status t = St.done)) = true := by decide +kernel

/-- A DESC_LOAD of one descriptor gets a status and a detail. -/
def loads (first : Nat) (bytes : List Byte) (s d : Nat) : Bool :=
  decide (world.verdict Op.descLoad (hdr 0 64) (leBytes first 2 ++ leBytes 1 2) = .go) &&
    after (.descLoad (hdr 0 64) first 1 bytes) world (fun t => decide (status t = s ∧ detail t = d))

/-- A trained weight is flags 0x09 of R47; two of them may not meet (R54). -/
theorem witness_descLoad : loads 0xFFFE (descBytes 0x2000 0) St.done 0 = true ∧ loads 0xFFFF (descBytes 0x2000 0) St.badParam 0 = true ∧
    loads 5 (descBytes 0x2000 6) St.descInvalid (5 * 65536 + 8) = true ∧
    loads 5 (leBytes 0 7 ++ [0] ++ List.replicate 56 0xFF) St.done 0 = true ∧
    (let m := world.setCtx 0 ((world.ctx 0).map (fun x => { x with descs := [(1, Desc.ofBytes (descBytes 0x2000 9))] }))
    after (.descLoad (hdr 0 64) 2 1 (descBytes 0x2000 9)) m (fun t => decide (status t = St.descAlias ∧ detail t = 65536 + 2)) = true) := by decide +kernel

theorem witness_streamLoad : world.verdict Op.streamLoad (hdr 0 96) (leBytes 3 1) = .go ∧ imageCheck idles.toBytes = .ok idles ∧
    after (.streamLoad (hdr 0 96) 3 idles.toBytes) world (fun t => decide (status t = St.done ∧ (t.ctx 0).bind (fun x => x.image 3) = some idles)) = true ∧
    after (.streamLoad (hdr 0 96) 3 (0 :: idles.toBytes.drop 1)) world (fun t => decide (status t = St.badParam ∧ detail t = 0xFFFF008C)) = true ∧
    after (.streamLoad (hdr 0 96) 3 (idles.toBytes.take 95 ++ [0xEE])) world (fun t => decide (status t = St.badParam ∧ detail t = 0xFFFF008D)) = true := by
  decide +kernel

/-! ### Streams -/

/-- A stream of instructions on range 0, admitted, at its first instruction. -/
def running (code : List Ewx) : Mach :=
  let s : Stream := { world.newStream 0 2 { idles with code := code } 1 false (.command .mgmt 9) 0 with admitted := true }
  ({ begun Op.streamStart { hdr 0 0 with tag := 9 } world with
    streams := [s], nextStream := s.id + 1, ranges := world.ranges.modify 0 (fun r => { r with stream := some s.id }) }).setRangeState 0 2

/-- The range with other hidden state. -/
def on0 (f : RangeSt → RangeSt) (m : Mach) : Mach := { m with ranges := m.ranges.modify 0 f }

/-- A SYNC instruction: counter, station mask, modifier. -/
def sync (op counter mask mod : Nat) : Ewx := { ins 6 op 0 mod with hA := counter, hB := 256 * mask, hD := 0 }

/-- The first instruction of a running stream is the dispatcher's next, and a command takes it. -/
def next0 (o : SOp) (e : Ewx) : Bool := ((running [e]).nextIs 0 o).isSome && decide ((running [e]).shaped = true)

def ax (k d : Nat) : Nat := Reg.RANGE_AX_COORD 0 (8 * k + d)

theorem witness_ctrl : next0 .fence (ins 0 2 0 2) = true ∧ next0 .loop (ins 0 3 0 0) = true ∧ next0 .endloop (ins 0 4 0 0) = true ∧
    next0 .setlc (ins 0 5 0 (2 ^ 32 + 9)) = true ∧
    after (.ctrlFence 0) (running [ins 0 2 0 2]) (fun t => decide ((t.range 0).pc = 1 ∧ (t.range 0).fence = none)) = true ∧
    after (.ctrlLoop 0) ((running [ins 0 3 0 0]).wr (Reg.RANGE_LC 0 0) 3) (fun t => decide ((t.range 0).loops = [{ body := 1, count := 3 }])) = true ∧
    after (.ctrlLoop 0) (running [ins 0 3 0 0, ins 0 3 0 1, ins 0 4 0 0, ins 0 4 0 0]) (fun t => decide ((t.range 0).pc = 4)) = true ∧
    after (.ctrlEndloop 0) (on0 (fun r => { r with loops := [{ body := 7, count := 2 }] }) (running [ins 0 4 0 0]))
      (fun t => decide ((t.range 0).pc = 7 ∧ (t.range 0).loops = [{ body := 7, count := 1 }])) = true ∧
    after (.ctrlSetlc 0) (running [ins 0 5 0 (2 ^ 32 + 9)]) (fun t => decide (t.rd (Reg.RANGE_LC 0 1) = 9)) = true := by decide +kernel

/-- A fifth open loop stops the stream; a full address register does not pass 2^31 - 1 (R61, R62). -/
theorem witness_ctrl_stops : (let four := List.replicate 4 ({ body := 1, count := 2 } : LoopFrame)
    after (.ctrlLoop 0) (on0 (fun r => { r with loops := four }) (running [ins 0 3 0 0])) (fun t => decide (t.streams = [] ∧
      t.rdF (Reg.RANGE_STREAM_STATUS 0) Fld.RANGE_STREAM_STATUS_STOP_CAUSE = 4 ∧ t.rangeState 0 = 4)) = true) ∧
    after (.ctrlAddax 0) ((running [{ ins 0 7 0 (5 * 2 ^ 37 + 1) with axa := 15 }]).wr (ax 15 5) 0x7FFFFFFE) (fun t => decide (t.rd (ax 15 5) = 0x7FFFFFFF)) = true ∧
    after (.ctrlAddax 0) ((running [{ ins 0 7 0 (5 * 2 ^ 37 + 2) with axa := 15 }]).wr (ax 15 5) 0x7FFFFFFE)
      (fun t => decide (t.rdF (Reg.RANGE_STREAM_STATUS 0) Fld.RANGE_STREAM_STATUS_STOP_CAUSE = 3)) = true := by decide +kernel

theorem witness_ctrl_ax : next0 .setax (ins 0 6 0 0) = true ∧ next0 .addax (ins 0 7 0 0) = true ∧ next0 .setinc (ins 0 8 0 0) = true ∧
    after (.ctrlSetax 0) (running [{ ins 0 6 0 (2 ^ 37 + 0xFFFFFFFE) with axa := 3 }]) (fun t => decide (t.rd (ax 3 1) = 0xFFFFFFFE)) = true ∧
    after (.ctrlSetinc 0) (running [{ ins 0 8 0 4 with axa := 3 }]) (fun t => decide (t.rd (Reg.RANGE_INC_COORD 0 24) = 4)) = true := by decide +kernel

/-- The last counter of the context's run and the first beyond it (R65); a sum of 2^32 (R67). -/
theorem witness_signal : next0 .signal (sync 0x60 15 0 1) = true ∧
    after (.syncSignal 0) (running [sync 0x60 15 0 5]) (fun t => decide (t.rd (Reg.TRAVERSE_SYNC_COUNTER 15) = 5)) = true ∧
    after (.syncSignal 0) (running [sync 0x60 16 0 5]) (fun t => decide (t.rdF (Reg.RANGE_STREAM_STATUS 0) Fld.RANGE_STREAM_STATUS_STOP_CAUSE = 5)) = true ∧
    after (.syncSignal 0) (running [sync 0x60 15 2 5]) (fun t => decide ((t.range 0).signals.length = 1)) = true ∧
    after (.syncSignal 0) ((running [sync 0x60 0 0 1]).wr (Reg.TRAVERSE_SYNC_COUNTER 0) 0xFFFFFFFF)
      (fun t => decide (t.rdF (Reg.RANGE_STREAM_STATUS 0) Fld.RANGE_STREAM_STATUS_STOP_CAUSE = 6)) = true := by decide +kernel

/-- An instruction in a station's sequence. -/
def placed (seq : Nat) (e : Ewx) (begun done : Nat) : Placed :=
  { seq := seq, idx := 0, ins := e, a := { c := List.replicate 6 0, inc := List.replicate 6 0 }, b := { c := List.replicate 6 0, inc := List.replicate 6 0 },
    pass := 0, begun := begun, done := done }

theorem witness_signalFire : (let g : Signal := { seq := 1, idx := 0, counter := 15, inc := 5, mask := 2 }
    let m := on0 (fun r => { r with signals := [g] }) (running [])
    m.doneBefore 0 2 1 = true ∧ m.seqHeld 0 1 = false ∧
    after (.syncSignalFire 0 0) m (fun t => decide (t.rd (Reg.TRAVERSE_SYNC_COUNTER 15) = 5 ∧ (t.range 0).signals = [])) = true ∧
    still (.syncSignalFire 0 0) (on0 (fun r => { r with col := [placed 0 (ins 1 0x10 1 0) 0 0] }) m) = true) := by decide +kernel

theorem witness_wait : next0 .wait (sync 0x61 15 3 1) = true ∧
    after (.syncWait 0) (running [sync 0x61 15 3 1]) (fun t => decide ((t.range 0).ctrlWait = some (15, 1, 0) ∧ (t.range 0).col.length = 1 ∧ (t.range 0).crest = [])) = true ∧
    after (.syncWait 0) (running [sync 0x61 16 3 1]) (fun t => decide (t.streams = [])) = true ∧
    (let m := on0 (fun r => { r with ctrlWait := some (15, 1, 0), scree := [placed 0 (sync 0x61 15 32 1) 0 0] }) (running [])
    let w := m.wr (Reg.TRAVERSE_SYNC_COUNTER 15) 1
    still (.syncWaitSatisfied 0 0) m = true ∧ still (.syncWaitSatisfied 0 5) m = true ∧
    after (.syncWaitSatisfied 0 0) w (fun t => decide ((t.range 0).ctrlWait = none)) = true ∧
    after (.syncWaitSatisfied 0 5) w (fun t => decide ((t.range 0).scree = [])) = true) := by decide +kernel

theorem witness_idle : next0 .idle (ins 6 1 3 0) = true ∧
    after (.idle 0 6 .place) (running [ins 6 1 3 0]) (fun t => decide ((t.range 0).pc = 1)) = true ∧
    after (.idle 0 7 .place) (running [ins 7 1 3 0]) (fun t => decide ((t.range 0).link.length = 1)) = true ∧
    after (.idle 0 7 .run) (on0 (fun r => { r with link := [placed 0 (ins 7 1 3 0) 0 0] }) (running [])) (fun t => decide ((t.range 0).link = [])) = true := by
  decide +kernel

/-- A row that places an instruction: it is next, and the row puts it into its station's sequence. -/
def places (o : SOp) (i : Instr) (e : Ewx) : Bool :=
  next0 o e && after i (running [e]) (fun t => decide (((t.range 0).seqOf e.station).map (·.ins) = [e] ∧ (t.range 0).pc = 1))

def atA (e : Ewx) (h : Nat) : Ewx := { e with hA := h }
def atB (e : Ewx) (h : Nat) : Ewx := { e with hB := h }
def atD (e : Ewx) (h : Nat) : Ewx := { e with hD := h }

theorem witness_WorkIsPlaced :
    places .load (.colLoad 0) (atA (ins 1 0x10 1 0) 1) = true ∧ places .loadt (.colLoadt 0) (atA (ins 1 0x11 1 0) 1) = true ∧
    places .mma (.crestMma 0) (ins 2 0x20 1 0) = true ∧ places .drain (.crestDrain 0 .place Ecc.clean) (ins 2 0x21 1 0) = true ∧
    places .kernel (.spurKernel 0) (ins 3 0x30 1 0) = true ∧ places .reduce (.spurReduce 0) (ins 3 0x31 1 0) = true ∧
    places .perm (.spurPerm 0) (ins 3 0x32 1 0) = true ∧ places .store (.talusStore 0) (atD (ins 4 0x40 1 0) 1) = true ∧
    places .mark (.talusMark 0 .place) (atD (ins 4 0x41 1 0) 2) = true ∧ places .gather (.screeGather 0) (atB (atA (ins 5 0x50 1 0) 1) 3) = true ∧
    places .scatter (.screeScatter 0) (atB (atD (ins 5 0x51 1 (2 ^ 39)) 1) 3) = true ∧
    places .scatterAdd (.screeScatterAdd 0) (atB (atD (ins 5 0x52 1 (2 ^ 39)) 1) 3) = true := by decide +kernel

/-- A drain and a reduction into no format are refused at their place; a mark of a tensor that is no gradient; an increment that passes the 32-bit range. -/
theorem witness_placing_stops : (let cause (i : Instr) (e : Ewx) (k : Nat) : Bool := after i (running [e])
                                   (fun t => decide (t.rdF (Reg.RANGE_STREAM_STATUS 0) Fld.RANGE_STREAM_STATUS_STOP_CAUSE = k))
    drainFmt 12 = none ∧ spurFmt 12 = none ∧
    cause (.crestDrain 0 .place Ecc.clean) (ins 2 0x21 1 (12 * 2 ^ 35)) 0x91 = true ∧ cause (.spurReduce 0) (ins 3 0x31 1 (12 * 2 ^ 8)) 0x91 = true ∧
    cause (.talusMark 0 .place) (atD (ins 4 0x41 1 0) 1) 0x90 = true ∧ cause (.screeGather 0) (atB (atA (ins 5 0x50 1 0) 1) 1) 0x90 = true) ∧
    after (.colLoad 0) ((running [{ atA (ins 1 0x10 2 0) 1 with incA := true }]).wr (Reg.RANGE_INC_COORD 0 0) 0x7FFFFFFF)
      (fun t => decide (t.rdF (Reg.RANGE_STREAM_STATUS 0) Fld.RANGE_STREAM_STATUS_STOP_CAUSE = 3)) = true := by decide +kernel

/-- Tiles: FP32 1.0 and 2.0 at the origin. -/
def tile1 : Tile := { Tile.zeroed with elems := [(0, 0x3F800000)] }
def tile2 : Tile := { Tile.zeroed with elems := [(0, 0x40000000)] }
def full (t : Tile) (s : Nat) : TQueue := { entries := [{ tile := t, full := true, station := s }], held := 0 }

/-- A running stream whose range has an instruction at the head of a station. -/
def headed (st : Nat) (p : Placed) : Mach :=
  let page : TlbEntry := { ctx := 0, va := 0, size := 65536, pa := 0, write := true, pdom := 0, locked := false }
  on0 (fun r => { r.setSeq st [p] with tlbCol := [page], tlbTalus := [page], tlbScree := [page] }) (running [])

/-- The stream of `running`. -/
def stream0 (m : Mach) : Stream := (m.streamOn 0).getD { (world.newStream 0 2 idles 1 false (.entry 0) 0) with id := 99 }

/-- `Mach.ready`, decided. -/
def isReady (m : Mach) (st : Nat) (p : Placed) : Bool :=
  (m.streamOn 0).isSome && !(stream0 m).lockstep && (stream0 m).admitted && !m.frozen 0 && !(m.range 0).halted &&
    decide (((m.range 0).seqOf st).head? = some p) && !p.isWait && decide (p.begun < p.ins.rep) && !m.repHeld 0 p p.begun && !m.tregBlocked 0 0 p

theorem witness_colBegin : (let p := placed 0 (atA (ins 1 0x10 1 0) 1) 0 0
    let d := Desc.ofBytes (descBytes 0x1000 0)
    let m := headed 1 p
    let sectors := d.loadSectors (p.a.at 0) p.transposed
    isReady m 1 p = true ∧ m.rdF (Reg.RANGE_COL_PREFETCH_CFG 0) Fld.RANGE_COL_PREFETCH_CFG_PF_COUNT = 0 ∧
    (m.range 0).full p.ins.loadQueue (d.loadFmt p.ins) = false ∧ p.causes 0 1 0 (m.colCauses 0 d p 0) = none ∧ sectors = [0x1000] ∧
    m.xlate 0 1 false [{ handle := 1, pdom := 0, write := false, sectors := sectors }] = .ok ∧
    after (.colRepeatBegin 0 Ecc.clean) m (fun t => decide ((t.range 0).aFeed.entries.length = 1 ∧ (t.range 0).col.map (·.begun) = [1])) = true) := by
  decide +kernel

theorem witness_crestBegin : (let p := placed 0 (ins 2 0x20 1 (2 ^ 38)) 0 0
    let m := on0 (fun r => { r with aFeed := full tile1 1, bFeed := full tile2 1 }) (headed 2 p)
    isReady m 2 p = true ∧ (m.range 0).operand (p.ins.keptA 0) none p.ins.queueA 0 = some tile1 ∧
    (m.range 0).operand (p.ins.keptB 0) none p.ins.queueB 0 = some tile2 ∧ (m.range 0).drainUnit.busy = false ∧
    p.causes 0 2 0 (m.mmaCauses 0 p.ins 0 tile1 tile2) = none ∧
    still (.crestRepeatBegin 0 Ecc.clean) (headed 2 p) = true) := by decide +kernel

theorem witness_drainBegin : (let p := placed 0 (ins 2 0x21 1 0) 0 0
    let m := headed 2 p
    isReady m 2 p = true ∧ drainFmt (p.ins.m 35 4) = some .fp32 ∧ (m.range 0).full p.ins.drainQueue .fp32 = false ∧
    p.causes 0 2 0 (m.drainCauses 0 p.ins .fp32) = none) := by
  decide +kernel

theorem witness_spurBegin : (let p := placed 0 (ins 3 0x32 1 0) 0 0
    let m := on0 (fun r => { r with drain := full tile1 2, tiles := [(0, { tile1 with fmt := .int32, elems := [] })] }) (headed 3 p)
    isReady m 3 p = true ∧ (m.range 0).absent p.ins.spurQueue = false ∧ (m.range 0).full p.ins.spurOutQueue (m.spurOutFmt 0 p.ins) = false ∧
    p.causes 0 3 0 (m.spurCauses 0 p.ins 0) = none ∧
    still (.spurRepeatBegin 0 Ecc.clean) (headed 3 p) = true) := by decide +kernel

/-- A store from T0 puts 1.0 at the tensor's first element and leaves the rest of the sector (R235). -/
theorem witness_storeBegin : (let p := placed 0 (atD (ins 4 0x40 1 (2 ^ 39)) 1) 0 0
    let d := Desc.ofBytes (descBytes 0x1000 0)
    let m := on0 (fun r => { r with tiles := [(0, tile1)] }) (headed 4 p)
    let out := d.store tile1 (p.a.at 0) (m.rounding 0 0 p 0)
    isReady m 4 p = true ∧ (m.range 0).treg 0 = tile1 ∧ p.causes 0 4 0 (m.storeCauses 0 d p 0 tile1) = none ∧
    m.storeHeld 0 5 ((m.ctx 0).getD (Ctx.fresh 0 0 0 0)) p (storeSectors out.writes) = false ∧
    m.xlate 0 4 false [{ handle := 1, pdom := 0, write := true, sectors := storeSectors out.writes }] = .ok ∧
    after (.talusRepeatBegin 0 Ecc.clean) { m with mem := { m.mem with bytes := [(0xFFF, 7), (0x1000, 9), (0x1040, 8)] } }
      (fun t => decide (t.mem.bytes = [(0xFFF, 7), (0x1002, 0x80), (0x1003, 0x3F), (0x1040, 8)])) = true) := by decide +kernel

theorem witness_storeOut : (let p : Placed := { placed 0 (atD (ins 4 0x40 1 (2 ^ 39)) 5) 0 0 with a := { c := [0, 0, 1, 0, 0, 0], inc := List.replicate 6 0 } }
    let d : Desc := { Desc.ofBytes (descBytes 0x1000 0) with rank := 3, ext := [4, 4, 1, 0, 0, 0] }
    let m := headed 4 p
    let m := m.setCtx 0 ((m.ctx 0).map (fun x => { x with descs := [(5, d)] }))
    isReady m 4 p = true ∧ d.coordOut (p.a.at 0) = true ∧
    after (.talusRepeatBegin 0 Ecc.clean) m (fun t => decide (t.rdF (Reg.RANGE_STREAM_STATUS 0) Fld.RANGE_STREAM_STATUS_STOP_CAUSE = 7)) = true) := by
  decide +kernel

theorem witness_mark : (let p := placed 0 (atD (ins 4 0x41 1 (0xFFFF * 2 ^ 24)) 2) 0 0
    isReady (headed 4 p) 4 p = true ∧
    after (.talusMark 0 .run) (headed 4 p) (fun t => decide ((t.range 0).marks = [{ seq := 0, layer := 0xFFFF, handle := 2, accepted := false }])) = true) := by
  decide +kernel

theorem witness_gather : (let p := placed 0 (atB (atA (ins 5 0x50 1 0) 1) 3) 0 0
    let m := headed 5 p
    let x := (m.ctx 0).getD (Ctx.fresh 0 0 0 0)
    let d := Desc.ofBytes (descBytes 0x1000 0)
    let i := Desc.ofBytes (descBytes 0x3000 (10 * 2 ^ 52 + 16))
    isReady m 5 p = true ∧ (m.range 0).full p.ins.gatherQueue d.format = false ∧ p.causes 0 5 0 (m.screeCauses 0 d i p 0) = none ∧
    i.oor ≠ 2 ∧ m.xlate 0 5 false [{ handle := 3, pdom := i.pdom, write := false, sectors := idxSectors i p 0 }] = .ok ∧
    (rowsOf i.oor (d.extent 1) (m.indices x i p 0)).length = 4 ∧
    after (.screeRepeatBegin 0 Ecc.clean) m (fun t => decide ((t.range 0).screeSpur.entries.length = 1 ∧ t.mem = m.mem)) = true) := by decide +kernel

/-! ### Ends of repeats, instructions and streams -/

def waitingTile (s : Nat) : TQueue := { entries := [{ tile := tile1, full := false, station := s }], held := 0 }

theorem witness_tileFull : (let m := on0 (fun r => { r with aFeed := waitingTile 1 }) (headed 1 (placed 3 (atA (ins 1 0x10 2 0) 1) 1 0))
    m.txnsOf (.col 0 3 0) = 0 ∧
    after (.tileFull 0 1) m (fun t => decide ((t.range 0).aFeed = full tile1 1 ∧ (t.range 0).col.map (·.done) = [1])) = true) ∧
    after (.tileFull 0 3) (on0 (fun r => { r with store := waitingTile 3 }) (headed 3 (placed 3 (ins 3 0x32 1 0) 1 0)))
      (fun t => decide ((t.range 0).store = full tile1 3)) = true ∧
    after (.tileFull 0 5) (on0 (fun r => { r with regWrites := [{ station := 5, seq := 3, treg := 511, tile := tile1 }] })
      (headed 5 (placed 3 (atB (atA (ins 5 0x50 1 (2 ^ 39 + 511 * 2 ^ 29)) 1) 3) 1 0)))
      (fun t => decide ((t.range 0).treg 511 = tile1 ∧ (t.range 0).regWrites = [])) = true := by decide +kernel

theorem witness_drainEnd : (let m := on0 (fun r => { r with drainUnit := { busy := true, bank := 1, toQueue := true }, drain := waitingTile 2 })
                              (headed 2 (placed 3 (ins 2 0x21 1 0) 1 0))
    after (.drainReadoutEnd 0) m (fun t => decide ((t.range 0).drainUnit.busy = false)) = true ∧
    still (.drainReadoutEnd 0) (running []) = true ∧ still (.drainTileFull 0) (running []) = true ∧ still (.tileFull 0 2) (running []) = true ∧
    after (.drainTileFull 0) (on0 (fun r => { r with drainUnit := { r.drainUnit with busy := false } }) m)
      (fun t => decide ((t.range 0).drain = full tile1 2)) = true) := by decide +kernel

theorem witness_stagedMove : (let p := placed 3 (atA (ins 1 0x10 1 0) 1) 1 0
    let m := on0 (fun r => { r with staged := [{ seq := 3, rep := 0, tile := tile1 }] }) (headed 1 p)
    m.txnsOf (.col 0 3 0) = 0 ∧ m.repHeld 0 p 0 = false ∧ (m.range 0).full (some .aFeed) .fp32 = false ∧ m.tregBlocked 0 0 p = false ∧
    (m.range 0).hostReps = [] ∧ (m.range 0).aFeed.entries = [] ∧
    after (.stagedTileMove 0) m (fun t => decide ((t.range 0).aFeed = full tile1 1 ∧ (t.range 0).staged = [])) = true) := by decide +kernel

theorem witness_markAccepted : (let m := on0 (fun r => { r with marks := [{ seq := 3, layer := 1, handle := 2, accepted := false }] })
                                  (headed 4 (placed 3 (atD (ins 4 0x41 1 (2 ^ 24)) 2) 1 0))
    after (.markAccepted 0) m (fun t => decide ((t.range 0).marks.map (·.accepted) = [true] ∧ (t.range 0).talus.map (·.done) = [1])) = true) := by
  decide +kernel

theorem witness_pageWalk : (let w : Walk := { station := 1, seq := 3, rep := 0, va := 0x1000, handle := 1, write := false }
    let m := on0 (fun r => { r with walks := [w], tlbCol := [] }) (headed 1 (placed 3 (atA (ins 1 0x10 1 0) 1) 0 0))
    after (.pageWalkDone 0 1) m (fun t => decide ((t.range 0).walks = [] ∧ (t.range 0).tlbCol.length = 1)) = true ∧
    after (.pageWalkDone 0 1) (on0 (fun r => { r with walks := [{ w with va := 2 ^ 30 }] }) m)
      (fun t => decide (t.rdF (Reg.RANGE_STREAM_STATUS 0) Fld.RANGE_STREAM_STATUS_STOP_STATUS = St.translationFault)) = true) := by decide +kernel

theorem witness_complete : still (.instructionComplete 0 2) (headed 2 (placed 3 (ins 2 0x20 2 0) 2 1)) = true ∧
    after (.instructionComplete 0 2) (on0 (fun r => { r with statA := some tile1 }) (headed 2 (placed 3 (ins 2 0x20 2 0) 2 2)))
      (fun t => decide ((t.range 0).crest = [] ∧ (t.range 0).statA = none)) = true := by decide +kernel

theorem witness_streamEnd : still (.streamEnd 0) (running [ins 0 1 1 0]) = true ∧ ((running []).range 0).finished [] = true ∧
    ((running []).range 0).heldQueue = none ∧
    after (.streamEnd 0) (running []) (fun t => decide (t.streams = [] ∧ t.rangeState 0 = 1 ∧ status t = St.done)) = true ∧
    after (.streamEnd 0) (on0 (fun r => { r with store := full tile1 3 }) (running []))
      (fun t => decide (t.rangeState 0 = 4 ∧ t.rdF (Reg.RANGE_STREAM_STATUS 0) Fld.RANGE_STREAM_STATUS_STOP_CAUSE = 2)) = true := by decide +kernel

theorem witness_noProgress : (let t0 := us ((running []).rdF Reg.TRAVERSE_PROGRESS_TIMEOUT Fld.TRAVERSE_PROGRESS_TIMEOUT_TIMEOUT_US)
    still (.noProgress 0) { running [] with clk := t0 - 1 } = true ∧
    after (.noProgress 0) { running [] with clk := t0 } (fun t => decide (t.rdF (Reg.RANGE_STREAM_STATUS 0) Fld.RANGE_STREAM_STATUS_STOP_CAUSE = 1)) = true) := by
  decide +kernel

/-- The stream in lockstep, 500 MHz, with 100 cycles in a slot and 20 between. -/
def stepping (startAt : Option Nat) (m : Mach) : Mach :=
  let m := m.updIsland 0 (fun i => { i with kHz := 500000 }) |>.updIsland 1 (fun i => { i with kHz := 500000 }) |>.updIsland 2
    (fun i => { i with kHz := 500000 }) |>.updIsland 3 (fun i => { i with kHz := 500000 })
  { m with streams := m.streams.map (fun x => { x with lockstep := true, fL := 500000, startAt := startAt, image := { x.image with cSlot := 100, cGuard := 20 } }) }

theorem witness_startInstant : still (.lockstepStartInstant 0) { running [] with clk := secs 1 } = true ∧
    after (.lockstepStartInstant 0) { stepping none (running []) with clk := secs 1 } (fun t => decide (t.streams.map (·.startAt) = [some (secs 1)])) = true := by
  decide +kernel

theorem witness_slotStart : (let m := stepping (some 100) (running [])
    let p := placed 0 (ins 2 0x20 1 0) 0 0
    still (.slotStart 0 Ecc.clean) { m with clk := 99 } = true ∧
    after (.slotStart 0 Ecc.clean) { m with clk := 100 } (fun t => decide (t.streams.map (·.slot) = [1])) = true ∧
    ((on0 (fun r => { r with crest := [p] }) m).range 0).inFlight = [(2, p)] ∧ m.armed 0 = none ∧
    after (.slotStart 0 Ecc.clean) { on0 (fun r => { r with crest := [p] }) m with clk := 100 }
      (fun t => decide (t.rdF (Reg.RANGE_STREAM_STATUS 0) Fld.RANGE_STREAM_STATUS_STOP_STATUS = St.slotMiss ∧
        t.rdF (Reg.RANGE_STOP_DETAIL 0) Fld.RANGE_STOP_DETAIL_STATION = 2)) = true) := by decide +kernel

/-! ### The fabric -/

/-- Port 0 to the module with serial 77; route 7 goes there. Channel 1 sends to address 7, 2 receives into handle 6, 3 reduces. -/
def plan0 : Plan :=
  let ch : Channel := { number := 1, kind := 0, cls := 1, port := 0xFF, peer := 7, slots := 0, ctx := 0, land := 0xFFFF,
                        reduce := { algo := 0, wireBlock := false, members := 2, index := 0, up := 7, fanin := 0, mport := 0xFF } }
  { id := 3, faddr := 5, rank := 0, size := 1, compat := 3, balance := false, group := 8,
    ports := { role := 1, peerPort := 0, laneMin := 4, encrypt := false, timingParent := true, linkTag := 9, peerSerial := 77 } ::
      List.replicate 31 PortEntry.none,
    routes := [0xFF, 0xFF, 0xFF, 0xFF, 0xFF, 0xFE, 0xFF, 0], circuits := [{ inp := 0, out := 0, share := 0 }],
    channels := [ch, { ch with number := 2, kind := 1, slots := 1, land := 6 }, { ch with number := 3, kind := 3 }] }

/-- The fabric up with no plan, and with `plan0` and port 0 in a state. -/
def lit (m : Mach) : Mach :=
  let m := (m.wrF Reg.CAIRN_START_STATUS Fld.CAIRN_START_STATUS_FABRIC_OK 1).wrF Reg.CIRQUE_STATUS Fld.CIRQUE_STATUS_STAGE 4
  m.updPort 0 (fun x => { x with light := true })
def linkedTo (state : Nat) (m : Mach) : Mach := ({ lit m with plan := some plan0 }.wrF (Reg.PORT_STATUS 0) Fld.PORT_STATUS_REVISION 7).setPortState 0 state

def landing : Desc := { Desc.ofBytes (descBytes 0x4000 0) with rank := 3, ext := [4, 4, 1, 0, 0, 0], stride := [1, 4, 16, 0, 0, 0] }
def withLanding (m : Mach) : Mach := m.setCtx 0 ((m.ctx 0).map (fun x => { x with descs := x.descs ++ [(6, landing)] }))

def chan (k : Nat) (e : Ewx) : Ewx := { e with mod := e.mod + k * 2 ^ 32 }
def send1 : Ewx := chan 1 (atA (ins 7 0x70 1 0) 1)
def recv2 : Ewx := chan 2 (atD (ins 7 0x72 1 0) 6)
def reduce3 (layer : Nat) : Ewx := chan 3 (atD (atA (ins 7 0x71 1 (layer * 65536)) 1) 1)

theorem witness_linkPlaced : (let p (o : SOp) (i : Instr) (e : Ewx) : Bool := ((linkedTo 4 (withLanding (running [e]))).nextIs 0 o).isSome &&
                                after i (linkedTo 4 (withLanding (running [e]))) (fun t => decide ((t.range 0).link.map (·.ins) = [e]))
    p .send (.linkSend 0 .place Ecc.clean) send1 = true ∧ p .lreduce (.linkReduce 0) (reduce3 5) = true ∧ p .recv (.linkRecv 0 .place) recv2 = true) ∧
    after (.linkSend 0 .place Ecc.clean) (running [send1])
      (fun t => decide (t.rdF (Reg.RANGE_STREAM_STATUS 0) Fld.RANGE_STREAM_STATUS_STOP_CAUSE = 0x92)) = true := by decide +kernel

theorem witness_linkSend : (let p := placed 0 send1 0 0
    let m := linkedTo 4 (headed 7 p)
    isReady m 7 p = true ∧ (m.channel 1).map (·.kind) = some 0 ∧ m.routeTo 7 = some 0 ∧
    after (.linkSend 0 .run Ecc.clean) m (fun t => decide ((t.chan 1).sent = 1 ∧ (t.range 0).link.map (·.done) = [1])) = true) := by decide +kernel

theorem witness_linkRecv : (let p := placed 0 recv2 0 0
    let m := linkedTo 4 (withLanding (headed 7 p))
    isReady m 7 p = true ∧ (m.chan 2).nextClaim = none ∧
    after (.linkRecv 0 .run) m (fun t => decide ((t.range 0).link.map (fun q => (q.begun, q.done)) = [(1, 0)])) = true ∧
    after (.linkRecv 0 .run) (m.updChan 2 (fun c => { c with landed := [4] })) (fun t => decide ((t.chan 2).claimed = 5 ∧ (t.range 0).link.map (·.done) = [1])) = true) := by
  decide +kernel

theorem witness_postingStart : (let p := placed 0 (reduce3 0xFFFF) 0 0
    let m := linkedTo 4 (headed 7 p)
    isReady m 7 p = true ∧ m.saddle.posted = [] ∧ (Desc.ofBytes (descBytes 0x1000 0)).inside (p.a.at 0) ≠ [] ∧
    after (.postingStart 0 0 Ecc.clean) m (fun t => decide (t.saddle.posted.map (fun q => (q.hA, q.hD, q.rep)) = [(1, 1, 1)])) = true ∧
    after (.postingStart 0 0 Ecc.clean) (linkedTo 4 (headed 7 (placed 0 (reduce3 5) 0 0))) (fun t => decide (t.saddle.posted = [])) = true) := by decide +kernel

/-- A whole message of channel 2: 4 by 4 elements of 1.0. -/
def message : Message :=
  { port := 0, channel := 2, number := 0, step := 0, attempt := 0, rows := 4, cols := 4, fmtTag := 0,
    data := (List.replicate 16 [0, 0, 0x80, 0x3F]).flatten, poison := [], complete := true }

/-- The message lands at its slot; one whose format differs does not; one whose slot is taken waits (R407, R408). -/
theorem witness_messageLand : (let m : Mach := { linkedTo 4 (withLanding world) with messages := [message] }
    (m.channel 2).map (·.kind) = some 1 ∧ m.messageBad { number := 2, kind := 1, cls := 1, port := 0xFF, peer := 7, slots := 1, ctx := 0, land := 6, reduce := ReduceSpec.ofBytes [] } message = false ∧
    after (.messageLand 2 Ecc.clean) m (fun t => decide ((t.chan 2).landed = [0] ∧ t.messages = [] ∧ t.readByte 0x4003 = 0x3F ∧ t.readByte 0x403E = 0x80)) = true ∧
    after (.messageLand 2 Ecc.clean) { m with messages := [{ message with fmtTag := 1 }] } (fun t => decide (t.messages = [] ∧ t.readByte 0x4003 = 0)) = true ∧
    still (.messageLand 2 Ecc.clean) { m with messages := [{ message with number := 1 }] } = true) := by decide +kernel

/-- A posting of one tile on channel 3, read, and a frame of its first element's value. -/
def posting : Posted :=
  { range := 0, ctx := 0, key := { channel := 3, layer := 5, rank := 0, occur := 0 }, step := 0, attempt := 0, seq := 0, idx := 0, hA := 1, hD := 1,
    c := List.replicate 6 0, inc := List.replicate 6 0, rep := 1, wire := 0, norm := false, read := 1, buf := [], stored := [] }
def reduceFrame : Frame :=
  { typ := 1, cls := 1, poison := false, stomp := false, hops := 3, dest := 5, src := 7, channel := 3, seq := 0, msg := 0, ackSeq := 0, credCls := 0,
    credit := 0, payload := leBytes 0 8 ++ leBytes (5 * 65536) 4 ++ leBytes 0 4 ++ [0, 0, 0x80, 0x3F] }

theorem witness_reductionFrame : (let m : Mach := { linkedTo 4 world with saddle := { world.saddle with posted := [posting] } }
    let m := m.updPort 0 (fun x => { x with reduceIn := [reduceFrame] })
    (m.port 0).reduceIn.find? m.takesFrame = some reduceFrame ∧ m.postingOf (frameKey reduceFrame) = some posting ∧
    after (.reductionFrame 0 Ecc.clean) m
      (fun t => decide ((t.port 0).reduceIn = [] ∧ (t.partialOf posting.key 0 false).map (fun c => (c.pos, c.count, c.code)) = [(0, 1, 0x3F800000)])) = true) := by
  decide +kernel

/-! ### Plans and ports -/

/-- A FABRIC_PLAN like `plan0` with no channels: its CRC is over the bytes from 0x40 (R413). -/
def planBytes : List Byte :=
  let unused := [0, 0, 4, 0] ++ leBytes 0 12
  let body := [1, 0, 4, 2] ++ leBytes 9 4 ++ leBytes 77 8 ++ (List.replicate 31 unused).flatten ++ List.replicate 5 0xFF ++ [0xFE, 0xFF, 0] ++
    List.replicate 4088 0xFF ++ leBytes 0 256
  leBytes 0x4E4C5046 4 ++ leBytes 1 2 ++ leBytes 64 2 ++ leBytes 3 4 ++ leBytes 5 2 ++ leBytes 0 2 ++ leBytes 1 2 ++ [3, 0] ++ leBytes 1 2 ++ leBytes 0 2 ++
    leBytes 8 8 ++ leBytes (crc32 body) 4 ++ leBytes 0 28 ++ body

theorem witness_fabricPlan : (let h := dhdr 0xFF 0x1340
    let m := (lit calm).wrF Reg.SWITE_STATUS Fld.SWITE_STATUS_STATE 2
    m.verdict Op.fabricPlan h [] = .go ∧ m.meshBusy = false ∧ m.linkHeld plan0 = false ∧ m.mem.sealed = [] ∧
    after (.fabricPlan h (0 :: planBytes.drop 1)) m (fun t => decide (status t = St.badParam ∧ detail t = 1)) = true ∧
    after (.fabricPlan h planBytes) (m.wrF Reg.CIRQUE_STATUS Fld.CIRQUE_STATUS_STAGE 3) (fun t => decide (status t = St.busy)) = true) := by decide +kernel

theorem witness_setApplied : (let a : Applying := { circuits := plan0.circuits, rxMap := [], service := true, balance := false, plan := some plan0, lane := .mgmt,
                                                    tag := 7, ctx := 0xFF, opcode := Op.fabricPlan }
    let m : Mach := { lit calm with optics := { calm.optics with applying := some a } }
    still .circuitSetApplied (lit calm) = true ∧
    after .circuitSetApplied m (fun t => decide (t.plan.map (·.id) = some 3 ∧ t.optics.applying = none ∧ status t = St.done)) = true) := by decide +kernel

theorem witness_linkCommands : (lit calm).verdict Op.linkStatus (hdr 0xFF 0) (leBytes 3 4) = .go ∧ (lit calm).verdict Op.fabricDiscover (hdr 0xFF 0) [] = .go ∧
    after (.linkStatus (hdr 0xFF 0) 0x80000001) (lit calm) (fun t => decide (status t = St.done ∧ (reply t).length = 32)) = true ∧
    after (.fabricDiscover (hdr 0xFF 0)) (lit calm) (fun t => decide (t.portState 0 = 1 ∧ t.cairn.waits.map (·.what) = [.discovery])) = true ∧
    after (.fabricDiscover (hdr 0xFF 0)) ((lit calm).updPort 0 (fun x => { x with light := false })) (fun t => decide ((reply t).length = 512)) = true := by
  decide +kernel

def peer0 : Identity := { serial := 77, port := 0, compat := 3, revMin := 5, revMax := 7, faddr := none, linkTag := none, encrypt := false }

theorem witness_discovery : still (.lightAppears 0) (linkedTo 4 calm) = true ∧
    after (.lightAppears 0) ((linkedTo 4 calm).updPort 0 (fun x => { x with light := false })) (fun t => decide (t.portState 0 = 1)) = true ∧
    still (.portTrained 0) (linkedTo 4 calm) = true ∧ after (.portTrained 0) (linkedTo 1 calm) (fun t => decide (t.portState 0 = 2)) = true ∧
    after (.identityFrame 0 peer0) (linkedTo 2 calm) (fun t => decide (t.portState 0 = 3 ∧ t.rd (Reg.PORT_PEER_SERIAL_LO 0) = 77)) = true ∧
    after (.identityFrame 0 { peer0 with serial := 78 }) (linkedTo 2 calm) (fun t => decide (t.portState 0 = 8 ∧ (t.port 0).reported.1 = St.cablingMismatch)) = true ∧
    after (.identityFrame 0 { peer0 with revMin := 9, revMax := 9 }) (linkedTo 2 calm) (fun t => decide (t.portState 0 = 7)) = true ∧
    still (.identityFrame 0 peer0) (linkedTo 1 calm) = true := by decide +kernel

theorem witness_identityTimeout : still (.identityTimeout 0) { linkedTo 2 calm with clk := ms 100 - 1 } = true ∧
    after (.identityTimeout 0) { linkedTo 2 calm with clk := ms 100 } (fun t => decide (t.portState 0 = 6 ∧ (t.port 0).reported = (St.linkDown, 0))) = true := by
  decide +kernel

theorem witness_portUp : (let m := (linkedTo 3 calm).updPort 0 (fun x => { x with matched := true, peer := some { peer0 with linkTag := some 9 } })
    still (.portUp 0) (linkedTo 3 calm) = true ∧ after (.portUp 0) m (fun t => decide (t.portState 0 = 4)) = true) := by decide +kernel

theorem witness_portKey : (let e := { plan0.port 0 with encrypt := true }
    let m : Mach := { linkedTo 3 calm with plan := some { plan0 with ports := [e] } }
    let k : KeyEx := { chainOk := true, sigOk := true, serial := 77, trusted := false, owner := [] }
    (m.portEntry 0).encrypt = true ∧
    after (.portKeyExchange 0 k) m (fun t => decide ((t.port 0).keyed = true ∧ (t.port 0).keyEpoch = 1)) = true ∧
    after (.portKeyExchange 0 { k with serial := 78 }) m (fun t => decide ((t.port 0).keyed = false ∧ (t.port 0).reported = (St.attestFail, 0))) = true ∧
    (let h := (linkedTo 4 calm).updPort 0 (fun x => { x with keyed := true, keyEpoch := 1 })
    still (.keyEpochRoll 0) { h with clk := secs 86400 - 1 } = true ∧
    after (.keyEpochRoll 0) { h with clk := secs 86400 } (fun t => decide ((t.port 0).keyEpoch = 2)) = true)) := by decide +kernel

/-- ((10 - 4) - (21 - 19)) / 2 = 2 (R424). -/
theorem witness_timestamp : after (.timestampExchange 0 4 10 19 21 0) (linkedTo 4 calm) (fun t => decide (t.rd (Reg.PORT_TIME_OFFSET 0) = 2)) = true ∧
    still (.timestampExchange 0 4 10 19 21 0) ((linkedTo 4 calm).wrF (Reg.PORT_STATUS 0) Fld.PORT_STATUS_REVISION 5) = true := by decide +kernel

/-! ### The link level and the timebase -/

def goodRx : FrameRx := { corrected := 0, dropped := false, hcrcOk := true, fcrcOk := true, tagOk := true }
def frame (typ dest seq : Nat) : Frame :=
  { typ := typ, cls := if typ = 1 then 1 else 0, poison := false, stomp := false, hops := 3, dest := dest, src := 7, channel := 3, seq := seq, msg := 0, ackSeq := 0, credCls := 0,
    credit := 0, payload := [] }

theorem witness_frames : after (.frameReceive 0 (frame 1 5 0) { goodRx with hcrcOk := false }) (linkedTo 4 calm) (fun t => decide ((t.port 0).waitReplay = true)) = true ∧
    after (.frameReceive 0 (frame 1 5 0) { goodRx with fcrcOk := false }) (linkedTo 4 calm) (fun t => decide ((t.port 0).waitReplay = true)) = true ∧
    after (.frameReceive 0 (frame 1 5 1) goodRx) (linkedTo 4 calm) (fun t => decide ((t.port 0).rxExpect = 0)) = true ∧
    after (.frameReceive 0 (frame 3 0xFFF 0) goodRx) { linkedTo 4 calm with plan := none } (fun t => decide ((t.port 0).rxExpect = 1)) = true ∧
    (linkedTo 4 calm).isLocal 7 = false ∧ (linkedTo 4 calm).routeTo 7 = some 0 ∧ (linkedTo 4 calm).routeTo 6 = none ∧
    after (.frameReceive 0 (frame 1 7 0) goodRx) (linkedTo 4 calm) (fun t => decide ((t.port 0).rxExpect = 1 ∧ t.rd (Reg.PORT_FWD_DROP 0) = 0)) = true ∧
    after (.frameReceive 0 (frame 1 6 0) goodRx) (linkedTo 4 calm) (fun t => decide (t.rd (Reg.PORT_FWD_DROP 0) = 1)) = true := by decide +kernel

theorem witness_replayRequest : (let m := (linkedTo 4 calm).updPort 0 (fun x => { x with replay := [frame 1 7 0xFFFFFF, frame 1 7 0] })
    after (.replayRequest 0 0) m (fun t => decide (t.sent.map (fun w => w.frame.seq) = [0])) = true ∧ still (.replayRequest 0 0) (linkedTo 3 calm) = true) := by decide +kernel

theorem witness_lanes : (let r (m : Mach) : Mach := m.setRingCode { rx := true, port := 0, line := 7 } 1
    let down := (linkedTo 5 calm).updPort 0 (fun x => { x with lanesDown := [(7, 100)] })
    after (.laneLoss 0 7 false) (linkedTo 4 calm) (fun t => decide (t.portState 0 = 5 ∧ (t.port 0).lanesDown.length = 1)) = true ∧
    still (.laneLoss 0 7 false) down = true ∧ still (.laneRealign 0 7) (linkedTo 4 calm) = true ∧
    after (.laneRealign 0 7) (r down) (fun t => decide (t.portState 0 = 4 ∧ (t.port 0).lanesDown = [])) = true ∧
    still (.laneDrop 0 7) { down with clk := 99 + ms 1 } = true ∧ (maskBits (down.laneSet true 0) 8).length = 7 ∧
    after (.laneDrop 0 7) { down with clk := 100 + ms 1 } (fun t => decide (t.portState 0 = 4 ∧ (t.port 0).lanesOut = [7])) = true) := by decide +kernel

theorem witness_portDown : (let w := ms ((linkedTo 4 calm).rdF (Reg.PORT_CFG 0) Fld.PORT_CFG_DOWN_MS)
    still (.portDownTimeout 0) { linkedTo 4 calm with clk := w - 1 } = true ∧
    after (.portDownTimeout 0) { linkedTo 4 calm with clk := w } (fun t => decide (t.portState 0 = 6 ∧ (t.port 0).reported = (St.linkDown, 0))) = true) := by decide +kernel

theorem witness_epochs : up.rackMaster = false ∧ up.timebase.holdover = false ∧
    after (.epochMarker 2 true) { up with timebase := { up.timebase with lastEpoch := some 1 } } (fun t => decide (t.timebase.ticks = 313780)) = true ∧
    after (.epochMarker 3 true) up (fun t => decide (t.timebase.lastEpoch = some 3)) = true ∧
    after (.epochMarker 3 false) up (fun t => decide (t.timebase.badFrames = 1)) = true ∧
    after (.epochMarker 3 false) { up with timebase := { up.timebase with badFrames := 1 } } (fun t => decide (t.timebase.holdover = true)) = true ∧
    still (.epochMarker 3 true) (up.wrF Reg.TRAVERSE_TIMEBASE_CFG Fld.TRAVERSE_TIMEBASE_CFG_MASTER 1) = true := by decide +kernel

theorem witness_timebase : still .epochBoundary { up with timebase := { up.timebase with ticks := 156249 } } = true ∧
    after .epochBoundary { up with timebase := { up.timebase with ticks := 156250 } } (fun t => decide (t.timebase.epochSent = 1)) = true ∧
    after .tbClkLoss up (fun t => decide (t.timebase.holdover = true)) = true ∧
    still .tbClkLoss { up with timebase := { up.timebase with holdover := true } } = true ∧ still (.tbReferenceReturn 9) up = true ∧
    after (.tbReferenceReturn 156251) { up with timebase := { up.timebase with holdover := true } } (fun t => decide (t.timebase.ticks = 156251)) = true ∧
    after (.tbReferenceReturn 156250) { up with timebase := { up.timebase with holdover := true } }
      (fun t => decide (t.timebase.ticks = 0 ∧ t.timebase.slewing = 156250)) = true := by decide +kernel

/-! ### Lasers, rings and the mesh -/

/-- Both laser units present, enabled and stable, bay 0 active, the optics in service. -/
def lasers : Mach :=
  let set (m : Mach) (b : Nat) : Mach :=
    ((m.wrF (Reg.CIRQUE_LSU_STATUS b) Fld.CIRQUE_LSU_STATUS_PRESENT 1).wrF (Reg.CIRQUE_LSU_STATUS b) Fld.CIRQUE_LSU_STATUS_ENABLED 1).wrF
      (Reg.CIRQUE_LSU_STATUS b) Fld.CIRQUE_LSU_STATUS_STABLE 1
  let m := set (set (lit calm) 0) 1
  { m with optics := { m.optics with outputsLit := true } }.wrF Reg.CIRQUE_LSU_CTL Fld.CIRQUE_LSU_CTL_AUTO 0
def bothReady : Mach := (lasers.wrF Reg.CIRQUE_STATUS Fld.CIRQUE_STATUS_STANDBY_READY 1).wrF Reg.CIRQUE_LSU_CTL Fld.CIRQUE_LSU_CTL_AUTO 1

theorem witness_lsuPlaced : lasers.lsu 0 Fld.CIRQUE_LSU_STATUS_PRESENT = true ∧ calm.lsu 0 Fld.CIRQUE_LSU_STATUS_PRESENT = false ∧
    still (.lsuInserted 0 1 0 0) lasers = true ∧
    after (.lsuInserted 0 43800 0 0) calm (fun t => decide (t.lsu 0 Fld.CIRQUE_LSU_STATUS_WORN = false)) = true ∧
    after (.lsuInserted 0 43801 0 0) calm (fun t => decide (t.lsu 0 Fld.CIRQUE_LSU_STATUS_WORN = true ∧ t.rd (Reg.CIRQUE_LSU_HOURS 0) = 43801)) = true ∧
    still (.lsuStable 0) calm = true ∧ still (.lsuFault 0) calm = true ∧ still (.lsuRemoved 0) calm = true ∧ still (.lsuWorn 0) calm = true := by decide +kernel

theorem witness_lsuEvents : lasers.lsu 0 Fld.CIRQUE_LSU_STATUS_ENABLED = true ∧ (lasers.wrF Reg.CIRQUE_STATUS Fld.CIRQUE_STATUS_STAGE 1).opticsStage = 1 ∧
    after (.lsuStable 0) (lasers.wrF (Reg.CIRQUE_LSU_STATUS 0) Fld.CIRQUE_LSU_STATUS_STABLE 0)
      (fun t => decide (t.lsu 0 Fld.CIRQUE_LSU_STATUS_STABLE = true ∧ t.opticsStage = 4)) = true ∧
    after (.lsuFault 0) lasers (fun t => decide (t.optics.outputsLit = false)) = true ∧
    after (.lsuFault 0) { bothReady with clk := 5 } (fun t => decide (t.optics.failing = some 5 ∧ t.optics.outputsLit = true)) = true ∧
    after (.lsuRemoved 1) bothReady (fun t => decide (t.standbyReady = false ∧ t.optics = bothReady.optics ∧ t.rd (Reg.CIRQUE_LSU_STATUS 1) = 0)) = true ∧
    after (.lsuWorn 1) lasers (fun t => decide (43800 < (t.rd (Reg.CIRQUE_LSU_HOURS 1)).toNat)) = true := by decide +kernel

/-- A line at 2,200 and at 2,199 (R351). -/
theorem witness_lineLoss : still (.lineLoss 7 2200) lasers = true ∧
    after (.lineLoss 7 2199) lasers (fun t => decide (t.lsu 0 Fld.CIRQUE_LSU_STATUS_WORN = true ∧ t.optics.outputsLit = false)) = true := by decide +kernel

theorem witness_standby : still .standbyAligned calm = true ∧ after .standbyAligned lasers (fun t => decide (t.standbyReady = true)) = true ∧
    still .failoverComplete lasers = true ∧
    after .failoverComplete { lasers with optics := { lasers.optics with failing := some 0 } } (fun t => decide (t.activeBay = 1 ∧ t.optics.failing = none)) = true := by
  decide +kernel

/-- A MESH_SET gets a status and a detail. -/
def meshes (mode : Nat) (l : List Word) (s d : Nat) : Bool :=
  decide ((lit calm).verdict Op.meshSet (hdr 0xFF (8 + 4 * l.length)) (leBytes mode 1 ++ leBytes l.length 1) = .go) &&
    after (.meshSet (hdr 0xFF (8 + 4 * l.length)) mode l.length [] l) (lit calm) (fun t => decide (status t = s ∧ detail t = d))

/-- Entry words of R362: input in bits 31 to 26, output in 25 to 20, share in 19 to 18. -/
def join (inp out share : Nat) : Word := BitVec.ofNat 32 (inp * 2 ^ 26 + out * 2 ^ 20 + share * 2 ^ 18)

theorem witness_meshSet : (lit calm).meshBusy = false ∧ meshes 2 [] St.badParam 0 = true ∧ meshes 1 [join 0 0 0, join 1 0 0] St.badParam 1 = true ∧
    meshes 1 [join 0 0 0, join 1 1 3] St.badParam 1 = true ∧ meshes 0 [join 0 0 1, join 0 1 1] St.badParam 0 = true ∧
    after (.meshSet (hdr 0xFF 16) 1 2 [] [join 0 0 1, join 0 1 1]) (lit calm) (fun t => decide (t.optics.applying.map (fun a => a.circuits.length) = some 2)) = true ∧
    after (.meshSet (hdr 0xFF 8) 1 0 [] []) { lit calm with plan := some plan0 } (fun t => decide (status t = St.busy)) = true := by decide +kernel

def meshUp : Mach := (lit calm).wrF Reg.CIRQUE_STATUS Fld.CIRQUE_STATUS_MESH_MODE 1

/-- Input 32 to output 33 crosses at least one interferometer of a mesh that is all bars (R368). -/
theorem witness_darkMap : meshUp.verdict Op.darkMapWrite (hdr 0xFF 4) (leBytes 1 1) = .go ∧ meshUp.meshBusy = false ∧ meshUp.meshMode ≠ 0 ∧
    meshUp.darkTodo [] = [] ∧
    after (.darkMapWrite (hdr 0xFF 0) 0 []) meshUp (fun t => decide (status t = St.done ∧ detail t = 1 ∧ t.rd Reg.CIRQUE_DARK_MAP_VERSION = 1)) = true ∧
    after (.darkMapWrite (hdr 0xFF 4) 1 [join 0 1 0]) meshUp (fun t => decide (status t = St.badParam)) = true ∧
    after (.darkMapWrite (hdr 0xFF 4) 1 [join 32 33 0]) (lit calm) (fun t => decide (status t = St.busy)) = true ∧
    (let k := ((meshUp.darkTodo [{ inp := 32, out := 33, share := 0 }]).head?).elim 0 (fun x => x.1)
    meshUp.darkTodo [{ inp := 32, out := 33, share := 0 }] = [(k, true)] ∧ meshUp.trimLeft k ≠ 0 ∧
    after (.darkMapWrite (hdr 0xFF 4) 1 [join 32 33 0]) meshUp (fun t => decide (t.optics.dark.map (fun d => d.group) = some [(k, true, 0)] ∧ t.trimLeft k + 1 = meshUp.trimLeft k)) = true ∧
    after (.darkMapWrite (hdr 0xFF 4) 1 [join 32 33 0]) (meshUp.wrF (Reg.CIRQUE_TRIM_REMAIN (k / 2)) (trimField k) 0) (fun t => decide (status t = St.limitReached)) = true) := by
  decide +kernel

theorem witness_trimAttempt : still (.trimAttemptDone 5 true) meshUp = true ∧
    (let d : DarkWrite := { todo := [], group := [(5, true, 3)], verified := 0, ending := St.done, lane := .mgmt, tag := 7, ctx := 0xFF }
    let m : Mach := begun Op.darkMapWrite (hdr 0xFF 4) { meshUp with optics := { meshUp.optics with dark := some d } }
    after (.trimAttemptDone 5 true) m (fun t => decide (t.crossed 5 = true)) = true ∧
    after (.trimAttemptDone 5 false) m (fun t => decide (t.optics.dark = none ∧ status t = St.internal)) = true) := by decide +kernel

def ring : Ring := { rx := true, port := 31, line := 7 }
def sweptRing (k : Nat) : Mach :=
  { lit calm with optics := { (lit calm).optics with rings := [{ rx := true, port := 31, line := 7, swept := true, attempts := k, heater := 0, kLine := 10 }] } }

theorem witness_rings : (lit calm).ringCode ring = 0 ∧ ((lit calm).ring ring).swept = false ∧
    after (.fullSweepDone ring [1, 2, 3, 4, 5, 6, 7, 8] 10) (lit calm) (fun t => decide ((t.ring ring).swept = true ∧ (t.ring ring).heater = 1)) = true ∧
    still (.fullSweepDone ring [1, 2, 3, 4, 5, 6, 7, 8] 10) (sweptRing 0) = true ∧ still (.toneCheckDone ring none 0) (lit calm) = true ∧
    after (.toneCheckDone ring (some 7) 40) (sweptRing 0) (fun t => decide (t.ringCode ring = 1 ∧ (t.ring ring).heater = 40)) = true ∧
    after (.toneCheckDone ring none 40) (sweptRing 1) (fun t => decide (t.ringCode ring = 0 ∧ (t.ring ring).heater = 45)) = true ∧
    after (.toneCheckDone ring (some 5) 40) (sweptRing 1) (fun t => decide ((t.ring ring).heater = 20 ∧ (t.ring ring).attempts = 2)) = true ∧
    after (.toneCheckDone ring (some 5) 40) (sweptRing 2) (fun t => decide (t.ringCode ring = 2 ∧ (t.port 31).reported.1 = St.ringLockFail)) = true ∧
    still (.ringLockLoss ring 9) (lit calm) = true ∧
    after (.ringLockLoss ring 9) ((lit calm).setRingCode ring 1) (fun t => decide (t.ringCode ring = 0 ∧ (t.ring ring).heater = 9)) = true := by decide +kernel

/-! ### Schedule tables and steps -/

/-- A table of one stream entry (R306, R307): image 2 on range 0. -/
def entryBytes : List Byte := [0, 2, 1, 0, 0, 0, 0, 0] ++ List.replicate 12 0xFF ++ List.replicate 12 0
def tableBytes : List Byte :=
  leBytes 0x4C444353 4 ++ leBytes 1 2 ++ leBytes 0 2 ++ leBytes 1 4 ++ leBytes (crc32 entryBytes) 4 ++ leBytes 2 2 ++ leBytes 3 2 ++ List.replicate 12 0 ++ entryBytes
def entry0 : Entry :=
  { copy := false, image := 2, mask := 1, lockstep := false, stage := 0, microbatch := 0, deps := [], src := 0xFFFF, dst := 0xFFFF, waitEn := false, channel := 0 }
def table0 : Table := { serving := false, syncFirst := 2, syncCount := 3, entries := [entry0] }

theorem witness_scheduleLoad : world.verdict Op.scheduleLoad (hdr 0 64) (leBytes 15 1) = .go ∧ tableCheck tableBytes 16 = .ok table0 ∧ tableCheck tableBytes 4 = .error 0xFFFF ∧
    after (.scheduleLoad (hdr 0 64) 15 tableBytes) world (fun t => decide (status t = St.done ∧ (t.ctx 0).bind (fun x => x.table 15) = some table0)) = true ∧
    after (.scheduleLoad (hdr 0 64) 16 tableBytes) world (fun t => decide (status t = St.badParam ∧ detail t = 0xFFFF)) = true ∧
    after (.scheduleLoad (hdr 0 64) 15 (0 :: tableBytes.drop 1)) world (fun t => decide (status t = St.badParam ∧ detail t = 0xFFFF)) = true := by decide +kernel

/-- A step of context 0, open, with `table0`; its entries as given. -/
def step0 (k : Nat) (es : List EntrySt) : StepSt :=
  { step := k, table := 0, attempt := 0, t0 := none, td := 0, limit := 3, started := false, entries := es, readySent := false, failed := none, norm := 0,
    hostCommit := false, ending := false, skipped := false, lane := .mgmt, tag := 9, prio := 0 }
def inStep (w : StepSt) (state : Nat) (m : Mach) : Mach :=
  (begun Op.stepBegin { hdr 0 0 with tag := 9 } (m.setCtx 0 ((m.ctx 0).map (fun x => { x with step := some w, tables := [(0, table0)] })))).setStepState 0 state
def attempting (es : List EntrySt) : Mach := inStep { step0 1 es with t0 := some 0, started := true } 1 world

theorem witness_entryStart : (let m := attempting [.waiting]
    let x := (m.ctx 0).getD (Ctx.fresh 0 0 0 0)
    x.running 0 = some (table0, [.waiting]) ∧ m.entryReady 0 table0 [.waiting] 0 = true ∧ m.clearing = false ∧ m.freezeHolds 0 0 = false ∧
    m.firstReady 0 table0 [.waiting] = some 0 ∧ m.starvedBy 0 0 = false ∧ m.startStatus 0 2 0 1 = none ∧
    (m.grantOf (m.newStream 0 2 idles 1 false (.entry 0) (x.prioAt 0))).isSome = true ∧
    after (.scheduleEntryStart 0 0) m (fun t => decide (t.entryAt 0 0 = some .running ∧ t.rangeState 0 = 2)) = true ∧
    still (.scheduleEntryStart 0 0) (attempting [.running]) = true ∧
    after (.scheduleEntryStart 0 0) { m with treeline := { m.treeline with pool := 0 } } (fun t => decide (t.treeline.waiting.length = 1 ∧ t.entryAt 0 0 = some .waiting)) = true) := by
  decide +kernel

theorem witness_entryEnd : still (.scheduleEntryEnd 0 0) (attempting [.running]) = true ∧
    after (.scheduleEntryEnd 0 0) (attempting [.over St.done]) (fun t => decide (t.entryAt 0 0 = some (.ended St.done))) = true ∧
    after (.scheduleEntryEnd 0 0) (attempting [.over St.slotMiss]) (fun t => decide ((t.stepAt 0 1).bind (fun w => w.2.failed) = some St.slotMiss)) = true := by decide +kernel

def tabled : Mach := world.setCtx 0 ((world.ctx 0).map (fun x => { x with tables := [(0, table0)] }))

theorem witness_stepBegin : tabled.verdict Op.stepBegin (hdr 0 0) (leBytes 0 1) = .go ∧ tabled.groupPlan = none ∧ tabled.stepState 0 = 0 ∧
    tabled.tarnCheck ((tabled.ctx 0).getD (Ctx.fresh 0 0 0 0)) 0 = none ∧
    after (.stepBegin (hdr 0 0) 0) tabled (fun t => decide (t.stepState 0 = 1 ∧ status t = St.accepted ∧ t.group.loop.length = 1)) = true ∧
    after (.stepBegin (hdr 0 0) 1) tabled (fun t => decide (status t = St.badParam)) = true ∧
    after (.stepBegin (hdr 0 0) 0) (attempting [.waiting]) (fun t => decide (status t = St.busy)) = true ∧
    after (.stepBegin (hdr 0 0) 0) (inStep (step0 1 []) 2 tabled) (fun t => decide (status t = St.accepted ∧ (t.stepAt 0 2).map (·.1) = some 8192)) = true := by decide +kernel

theorem witness_stepCommit : (let m := inStep (step0 1 []) 1 world
    m.verdict Op.stepCommit (hdr 0 0) (leBytes 1 4) = .go ∧ m.verdict Op.stepAbort (hdr 0 0) (leBytes 1 4) = .go ∧ m.isMaster (m.groupOf 0) = true ∧
    after (.stepCommit (hdr 0 0) 1) m (fun t => decide (status t = St.done ∧ (t.master (t.groupOf 0) 1).map (·.allowed) = some true)) = true ∧
    after (.stepCommit (hdr 0 0) 2) m (fun t => decide (status t = St.badParam)) = true ∧
    after (.stepAbort (hdr 0 0) 1) m (fun t => decide (status t = St.done ∧ t.group.loop.map (·.body) = [.abort 1 0 1])) = true ∧
    after (.stepAbort (hdr 0 0) 2) m (fun t => decide (status t = St.badParam)) = true) := by decide +kernel

/-! ### The group protocol -/

theorem witness_messagesTravel : (let m := linkedTo 4 calm
    let flood : GMsg := { group := 8, body := .close 3 }
    groupMsg (.close (some 0) 8 3) = some (some 0, 8, .close 3) ∧ still (.close none 8 3) m = true ∧ still (.close (some 1) 8 3) m = true ∧
    still (.close (some 0) 9 3) m = true ∧
    after (.close (some 0) 8 3) m (fun t => decide (t.group.seen = [(8, 7, 3, 0)])) = true ∧
    still (.close (some 0) 8 3) { m with group := { m.group with seen := [(8, 7, 3, 0)] } } = true ∧
    (let two : Plan := { plan0 with rank := 1, size := 2, ports := [plan0.port 0, { plan0.port 0 with timingParent := false }] }
    let m2 : Mach := { m with plan := some two }.setPortState 1 4
    after (.close (some 0) 8 3) m2 (fun t => decide (t.group.sent = [{ port := 1, msg := flood }])) = true ∧
    m2.isMaster 8 = false ∧ m2.parentPort = some 0 ∧
    after (.ready (some 1) 8 2 3 0) m2 (fun t => decide (t.group.sent = [{ port := 0, msg := { group := 8, body := .ready 2 3 0 } }])) = true)) := by decide +kernel

/-- A message from context 0's own loop, at its master or its member. -/
def solo : Nat := soloGroup 0
def loops (b : GBody) (m : Mach) : Mach := { m with group := { m.group with loop := [{ group := solo, body := b }] } }
def mastered (r : MasterSt) (m : Mach) : Mach := { m with group := { m.group with masters := [(solo, 1, r)] } }
def running1 : MasterSt := { MasterSt.reset with running := true, deadline := 100, limit := 3 }

theorem witness_masterJoin : (let m := loops (.join 0 1 1 0) (inStep (step0 1 []) 1 world)
    m.groupPlan = none ∧ m.planId = 0 ∧ m.master solo 0 = none ∧
    after (.join none solo 0 1 1 0) m (fun t => decide ((t.master solo 1).map (·.running) = some true ∧ t.group.loop.length = 1)) = true) := by decide +kernel

theorem witness_masterReady : (let m := loops (.ready 0 1 0) (mastered running1 (inStep (step0 1 []) 1 world))
    after (.ready none solo 0 1 0) m (fun t => decide (t.group.loop.map (·.body) = [.commit 1 0 0])) = true ∧
    after (.ready none solo 0 1 0) { m with timebase := { m.timebase with ticks := 100 } } (fun t => decide (t.group.loop.map (·.body) = [.commit 1 0 0])) = true ∧
    after (.ready none solo 0 1 0) { m with timebase := { m.timebase with ticks := 101 } } (fun t => decide (t.group.loop = [])) = true ∧
    after (.ready none solo 0 1 0) (loops (.ready 0 1 0) (mastered running1 (inStep { step0 1 [] with hostCommit := true } 1 world))) (fun t => decide (t.group.loop = [])) = true) := by
  decide +kernel

theorem witness_masterFail : (let m := inStep (step0 1 []) 1 world
    after (.fail none solo 0 1 0 St.slotMiss) (loops (.fail 0 1 0 St.slotMiss) (mastered running1 m))
      (fun t => decide (t.group.loop.map (·.body) = [.abort 1 0 1] ∧ t.rdF Reg.TRAVERSE_STEP_ABORT Fld.TRAVERSE_STEP_ABORT_STATUS = St.slotMiss)) = true ∧
    after (.updated none solo 0 1) (loops (.updated 0 1) (mastered { running1 with committedAt := some 0 } m))
      (fun t => decide (t.group.loop.map (·.body) = [.close 1] ∧ t.master solo 1 = none)) = true) := by decide +kernel

theorem witness_deadlines : (let m := mastered running1 (inStep (step0 1 []) 1 world)
    still (.stepDeadlineExpiry 0) { m with timebase := { m.timebase with ticks := 99 } } = true ∧
    after (.stepDeadlineExpiry 0) { m with timebase := { m.timebase with ticks := 100 } } (fun t => decide (t.group.loop.map (·.body) = [.abort 1 0 2])) = true ∧
    (let u := mastered { running1 with committedAt := some 5, deadlineUs := 10 } (inStep (step0 1 []) 2 world)
    still (.updateDeadlineExpiry 0) { u with clk := us 10 + 4 } = true ∧
    after (.updateDeadlineExpiry 0) { u with clk := us 10 + 5 } (fun t => decide (t.group.loop.map (·.body) = [.abort 1 0 3])) = true)) := by decide +kernel

theorem witness_memberStart : (let m := inStep (step0 1 []) 1 world
    after (.start none solo 1 0 50 99 3) (loops (.start 1 0 50 99 3) m)
      (fun t => decide ((t.stepAt 0 1).bind (fun w => w.2.t0) = some 50 ∧ t.rd Reg.TRAVERSE_STEP_DEADLINE_LO = 99)) = true ∧
    still (.attemptStart 0) m = true ∧ still (.attemptStart 0) (inStep { step0 1 [] with t0 := some 50 } 1 { world with timebase := { world.timebase with ticks := 49 } }) = true ∧
    after (.attemptStart 0) ((inStep { step0 1 [] with t0 := some 50 } 1 { world with timebase := { world.timebase with ticks := 50 } }).wr (Reg.TRAVERSE_SYNC_COUNTER 4) 7)
      (fun t => decide ((t.stepAt 0 1).map (fun w => w.2.entries) = some [.waiting] ∧ t.rd (Reg.TRAVERSE_SYNC_COUNTER 4) = 0)) = true) := by decide +kernel

/-- A finite norm of 1.0 and an infinite one (R315). -/
theorem witness_memberCommit : (let m := inStep { step0 1 [] with t0 := some 0 } 1 world
    after (.commit none solo 1 0 0x3FF0000000000000) (loops (.commit 1 0 0x3FF0000000000000) m) (fun t => decide (t.stepState 0 = 2 ∧ t.rd (Reg.TRAVERSE_NORM_RESULT_HI 0) = 0x3FF00000)) = true ∧
    after (.commit none solo 1 0 0x7FF0000000000000) (loops (.commit 1 0 0x7FF0000000000000) m) (fun t => decide ((t.stepAt 0 1).map (fun w => w.2.skipped) = some true)) = true) := by
  decide +kernel

theorem witness_memberAbort : (let m := inStep { step0 1 [.running] with t0 := some 0, started := true } 1 world
    after (.abort none solo 1 0 1) (loops (.abort 1 0 1) m) (fun t => decide (t.stepState 0 = 1 ∧ (t.stepAt 0 1).bind (fun w => w.2.t0) = none ∧ t.group.loop.length = 1)) = true ∧
    after (.abort none solo 1 0 4) (loops (.abort 1 0 4) m) (fun t => decide (t.stepState 0 = 0 ∧ status t = St.stepLimit)) = true ∧
    after (.abort none solo 1 0 1) (loops (.abort 1 0 1) (inStep (step0 1 []) 2 world)) (fun t => decide (t.stepState 0 = 4)) = true ∧
    after (.abort none solo 0 0 1) (loops (.abort 0 0 1) m) (fun t => decide (t.group.loop = [] ∧ t.stepState 0 = 1)) = true) := by decide +kernel

/-- T_D + 10 ms of group time: 1,562,500 ticks (R455). -/
theorem witness_localAbort : (let m (ticks : Nat) (a : Nat) : Mach := inStep { step0 1 [] with t0 := some 0, td := 100, attempt := a } 1
                                { world with timebase := { world.timebase with ticks := BitVec.ofNat 64 ticks } }
    still (.localAbort 0) (m 1562599 0) = true ∧
    after (.localAbort 0) (m 1562600 0) (fun t => decide (t.stepState 0 = 1 ∧ t.rdF Reg.TRAVERSE_STEP_ABORT Fld.TRAVERSE_STEP_ABORT_REASON = 5)) = true ∧
    after (.localAbort 0) (m 1562600 3) (fun t => decide (t.stepState 0 = 0 ∧ status t = St.stepLimit)) = true) := by decide +kernel

theorem witness_rollback : still (.rollback 0) (inStep (step0 1 []) 1 world) = true ∧
    (let w := inStep (step0 1 []) 4 world
    w.allRecords ((w.ctx 0).getD (Ctx.fresh 0 0 0 0)) 0 = [] ∧
    after (.rollback 0) w (fun t => decide (t.stepState 0 = 1 ∧ t.mem = w.mem ∧ t.group.loop.length = 1)) = true ∧
    after (.rollback 0) (inStep { step0 1 [] with ending := true } 4 world) (fun t => decide (t.stepState 0 = 0 ∧ status t = St.stepLimit)) = true) := by decide +kernel

theorem witness_close : after (.close none solo 1) (loops (.close 1) (inStep (step0 1 []) 3 world))
    (fun t => decide (t.stepState 0 = 0 ∧ t.closedStep 0 = 1 ∧ status t = St.done)) = true := by decide +kernel

/-! ### Tarn, serving passes, Belay -/

/-- A tensor of one FP32 element. -/
def single (base flags : Nat) : Desc := { Desc.ofBytes (descBytes base flags) with ext := [1, 1, 0, 0, 0, 0] }

/-- An update of context 0 under way on stack 0: the record at 0x800 names the trained weight 4 and the gradient 5; its slot 0 runs momentum SGD
with a learning rate of 1; the gradient is 1.0. -/
def updating : Mach :=
  let p : Prog := { valid := true, ctx := 0, algo := 0, moments := 0, sr := false, nesterov := false, length := 0, hp := [0x3F800000, 0, 0, 0, 0, 0, 0, 0],
                    code := List.replicate 16 0 }
  let m := world.setCtx 0 ((world.ctx 0).map (fun x => { x with descs := x.descs ++ [(4, single 0x7000 9), (5, single 0x2000 4)], holds := [4, 5] }))
  let m := inStep { step0 1 [] with t0 := some 0 } 2 m
  let m := ((m.wr (Reg.FOOTHILL_TARN_TABLE_LO 0 0) 0x800).wr (Reg.FOOTHILL_TARN_TABLE_COUNT 0 0) 1).setTarn 0
    (some { ctx := 0, progs := List.replicate 16 p, f := 0x3F800000, record := 0 })
  let x := (m.ctx 0).getD (Ctx.fresh 0 0 0 0)
  (m.writeVa x 0x2000 (leBytes 0x3F800000 4)).writeVa x 0x800
    (leBytes (2 ^ 63 + 4 * 2 ^ 32 + 0xFFFF * 2 ^ 16 + 5) 8 ++ leBytes 0 8 ++ leBytes 0x6000 8 ++ leBytes (2 ^ 32 + 2) 8 ++ leBytes 0x7000 8 ++ leBytes 0 24)
def bytesAt (m : Mach) (va n : Nat) : Nat := leNat (m.readRun ((m.ctx 0).getD (Ctx.fresh 0 0 0 0)) va n)

/-- The weight goes from 0 to -1.0 in the other half of the state and of the compute copy, and the record flips (R320, R326, R328). -/
theorem witness_tarnRecordFlip : still (.tarnRecordFlip 0) world = true ∧ still (.tarnFault 0 6 0) world = true ∧
    (let x := (updating.ctx 0).getD (Ctx.fresh 0 0 0 0)
    let r := updating.tarnRecord x 0 0 0
    updating.nextRecord x 0 0 0 = some 0 ∧ r.hW = 4 ∧ r.hG = 5 ∧
    ((updating.tarnOf 0).bind (fun q => q.progs[r.prog]?)).elim false (fun p => p.ok && updating.tarnClear x 0 (x.tarnRuns r p)) = true ∧
    after (.tarnRecordFlip 0) updating (fun t => decide (bytesAt t 0x6080 4 = 0xBF800000 ∧ bytesAt t 0x7040 4 = 0xBF800000 ∧ bytesAt t 0x808 8 = 2 ^ 63 + 1 ∧
      ((t.ctx 0).bind (fun x => x.desc 4)).map (·.base) = some 0x7040 ∧ (t.ctx 0).map (·.holds) = some [] ∧ (t.tarnOf 0).map (·.record) = some 1)) = true) := by
  decide +kernel

/-- The record in progress at the last byte it reads, and past it; kinds 0, 1 and 7; a slot taken away is kind 6 (R340). -/
theorem witness_tarnFault : still (.tarnFault 0 0 0x2000) updating = true ∧ still (.tarnFault 0 7 0x2000) updating = true ∧ still (.tarnFault 0 1 0x2000) updating = true ∧
    still (.tarnFault 0 5 0x2040) updating = true ∧
    after (.tarnFault 0 5 0x2003) updating (fun t => decide (t.tarnOf 0 = none ∧ t.rdF (Reg.FOOTHILL_TARN_FAULT 0) Fld.FOOTHILL_TARN_FAULT_KIND = 5 ∧
      t.rdF (Reg.FOOTHILL_TARN_FAULT 0) Fld.FOOTHILL_TARN_FAULT_VALID = 1 ∧ (t.stepAt 0 1).bind (fun w => w.2.failed) = some St.internal)) = true ∧
    after (.tarnFault 0 1 0x2000) (updating.setCtx 0 ((updating.ctx 0).map (fun x => { x with maps := [] })))
      (fun t => decide (t.rdF (Reg.FOOTHILL_TARN_FAULT 0) Fld.FOOTHILL_TARN_FAULT_KIND = 1)) = false ∧
    (let far := updating.setCtx 0 ((updating.ctx 0).map (fun x => x.updDesc 5 (fun d => { d with base := 2 ^ 20 })))
    after (.tarnFault 0 1 (2 ^ 20)) far (fun t => decide (t.rdF (Reg.FOOTHILL_TARN_FAULT 0) Fld.FOOTHILL_TARN_FAULT_KIND = 1 ∧ t.mem.bytes = far.mem.bytes)) = true) := by
  decide +kernel

theorem witness_tarnUpdateComplete : updating.tarnBusy 0 0 = true ∧ still (.tarnUpdateComplete 0) updating = true ∧
    still (.tarnUpdateComplete 0) (inStep (step0 1 []) 1 world) = true ∧
    after (.tarnUpdateComplete 0) (inStep (step0 1 []) 2 world) (fun t => decide (t.stepState 0 = 3 ∧ t.group.loop.map (·.body) = [.updated 0 1])) = true := by
  decide +kernel

/-- A context that serves with a table of one lockstep entry. -/
def served : Mach :=
  (world.setCtx 0 ((world.ctx 0).map (fun x => { x with tables := [(0, { table0 with serving := true, entries := [{ entry0 with lockstep := true, mask := 2 }] })] }))).wrF
    (Reg.TRAVERSE_SERVE_CFG 0) Fld.TRAVERSE_SERVE_CFG_ENABLE 1
def periodical (m : Mach) : Mach :=
  let m := (m.wrF (Reg.TRAVERSE_SERVE_CFG 0) Fld.TRAVERSE_SERVE_CFG_PERIODIC 1).wr (Reg.TRAVERSE_SERVE_PERIOD 0) 1000
  m.setCtx 0 ((m.ctx 0).map (fun x => { x with p0 := some 0 }))
def aPush : Push := { lane := .mgmt, tag := 9, prio := 0, outHandle := 1, outBytes := 4, deadline := 640 }
def pushed (m : Mach) : Mach := begun Op.framePush { hdr 0 4 with tag := 9 } (m.setCtx 0 ((m.ctx 0).map (fun x => { x with pushWait := some aPush })))
def onPass (m : Mach) : Mach :=
  m.setCtx 0 ((m.ctx 0).map (fun x => { x with pass := some { table := 0, entries := [.waiting], outHandle := 1, outBytes := 4, lane := .mgmt, tag := 5, prio := 0, failed := none } }))
def pushes (m : Mach) (inH outH n : Nat) (p : List Byte) (s : Nat) : Bool :=
  decide (m.verdict Op.framePush (hdr 0 4) (leBytes inH 2 ++ leBytes outH 2 ++ leBytes n 4) = .go) &&
    after (.framePush (hdr 0 4) inH outH n p) m (fun t => decide (status t = s))

/-- A push without serving, of a handle that holds nothing, of 64 bytes and of 65, while one waits (R494, R497, R596). -/
theorem witness_framePush : pushes world 1 1 4 [1, 2, 3, 4] St.notPermitted = true ∧ pushes served 9 1 4 [1, 2, 3, 4] St.badParam = true ∧
    pushes served 1 1 64 [1, 2, 3, 4] St.accepted = true ∧ pushes served 1 1 65 [1, 2, 3, 4] St.badParam = true ∧
    pushes tabled 1 1 4 [1, 2, 3, 4] St.notPermitted = true ∧
    pushes (tabled.wrF (Reg.TRAVERSE_SERVE_CFG 0) Fld.TRAVERSE_SERVE_CFG_ENABLE 1) 1 1 4 [1, 2, 3, 4] St.badParam = true ∧
    pushes (pushed (periodical served)) 1 1 4 [1, 2, 3, 4] St.busy = true ∧
    pushes (served.wrF Reg.TREELINE_STATUS Fld.TREELINE_STATUS_BROWNOUT 1) 1 1 4 [1, 2, 3, 4] St.powerLimit = true ∧
    pushes (served.setCtx 0 ((served.ctx 0).map (fun x => { x with maps := [] }))) 1 1 4 [1, 2, 3, 4] St.translationFault = true ∧
    after (.framePush (hdr 0 4) 1 1 4 [1, 2, 3, 4]) served (fun t => decide (bytesAt t 0x1000 4 = 0x04030201 ∧
      ((t.ctx 0).bind (fun x => x.pass)).map (·.entries) = some [.waiting])) = true ∧
    after (.framePush (hdr 0 4) 1 1 4 [1, 2, 3, 4]) (onPass served) (fun t => decide (((t.ctx 0).bind (fun x => x.pushWait)).map (·.outBytes) = some 4 ∧
      ((t.ctx 0).bind (fun x => x.pass)).map (·.tag) = some 5)) = true := by decide +kernel

theorem witness_pinStart : still (.pinStart 0) served = true ∧ (pushed served).pinDue 0 = true ∧ (pushed served).pinRanges 0 = [1] ∧
    after (.pinStart 0) (pushed served) (fun t => decide (t.rdF (Reg.RANGE_STREAM_STATUS 1) Fld.RANGE_STREAM_STATUS_LOCKSTEP_PIN = 1 ∧ (t.island 4).pinned = true ∧
      (t.ctx 0).map (·.pinned) = some true)) = true := by decide +kernel

theorem witness_intakeDeadline : (let at_ (n : Nat) (m : Mach) : Mach := { m with timebase := { m.timebase with ticks := BitVec.ofNat 64 n } }
    let m := pushed (periodical served)
    still (.intakeDeadline 0) (pushed served) = true ∧ still (.intakeDeadline 0) (at_ 9 m) = true ∧ m.deadlineCome 0 640 = false ∧
    after (.intakeDeadline 0) (at_ 10 m) (fun t => decide (((t.ctx 0).bind (fun x => x.pass)).map (·.entries) = some [.waiting] ∧
      (t.ctx 0).bind (fun x => x.pushWait) = none)) = true ∧
    after (.intakeDeadline 0) (onPass (at_ 10 m)) (fun t => decide (status t = St.frameLate ∧ ((t.ctx 0).bind (fun x => x.pass)).map (·.tag) = some 5)) = true) := by
  decide +kernel

/-- A member of a group of two, rank 0, whose group context is 0. -/
def grouped (m : Mach) : Mach :=
  let m := ({ lit m with plan := some { plan0 with size := 2 } }.wrF (Reg.PORT_STATUS 0) Fld.PORT_STATUS_REVISION 7).setPortState 0 4
  m.wrF Reg.TRAVERSE_STEP_GROUP Fld.TRAVERSE_STEP_GROUP_BOUND 1
def bplan (rs : List Region) : BelayPlan :=
  { buddy := 6, ward := 4, portMask := 1, interval := 0, slotPdom := 0, slotUnits := 3, slotBase := 0x40000, regions := rs, ctx := 0 }
def unitR (va method : Nat) : Region := { va := va, units := 1, tarn := false, method := method }
def belayed (m : Mach) : Mach := let m := grouped m; { m with belay := { m.belay with plan := some (bplan []) } }
def plans (m : Mach) (p : List Byte) (s : Nat) : Bool :=
  decide (m.verdict Op.belayPlan (hdr 0 64) [] = .go) && after (.belayPlan (hdr 0 64) p) m (fun t => decide (status t = s))

/-- A plan with a region in Foothill, one in Ledge sent dirty and sent full, one whose region meets the slots (R463, R482). -/
theorem witness_belayPlan : (let one (va k : Nat) := (bplan [unitR va k]).toBytes
    let ledge := grouped (world.setCtx 0 ((world.ctx 0).map (fun x => { x with maps := x.maps ++ [{ va := 2 ^ 20, size := 65536, page := 65536, pa := 2 ^ 41, write := true, pdom := 0 }] })))
    belayPlanCheck (one 0x10000 2) 0 = some (bplan [unitR 0x10000 2]) ∧ (ledge.ctx 0).elim false (fun x => x.touchesLedge (unitR (2 ^ 20) 2)) = true ∧
    plans world (one 0x10000 0) St.notPermitted = true ∧ plans (inStep (step0 1 []) 1 (grouped world)) (one 0x10000 0) St.busy = true ∧
    plans (grouped world) (one 0x40000 0) St.badParam = true ∧ plans ledge (one (2 ^ 20) 2) St.badParam = true ∧ plans ledge (one (2 ^ 20) 1) St.done = true ∧
    plans (grouped world) (one 0x30000 2) St.done = true) := by decide +kernel

theorem witness_belaySnapshot : (belayed world).verdict Op.belaySnapshot (hdr 0 0) [] = .go ∧ (belayed world).isMaster 8 = true ∧
    after (.belaySnapshot (hdr 0 0)) (belayed world) (fun t => decide (t.belay.snapshots = [(.mgmt, 0, 7)])) = true ∧
    after (.belaySnapshot (hdr 0 0)) world (fun t => decide (status t = St.notPermitted)) = true := by decide +kernel

/-- A buddy's record of step 5: one descriptor, a plan of given regions, one Tarn register. -/
def record5 (rs : List Region) (slot : Nat) : List Byte :=
  leBytes 1 4 ++ leBytes 5 4 ++ leBytes 7 4 ++ leBytes 8 4 ++ leBytes (bplan rs).toBytes.length 4 ++ leBytes 1 4 ++ (bplan rs).toBytes ++
    leBytes 9 2 ++ descBytes 0x2000 0 ++ [0, 1, BitVec.ofNat 8 slot, 0] ++ leBytes 0 4
def withPlan (rs : List Region) (m : Mach) : Mach := { m with belay := { m.belay with plan := some (bplan rs) } }
def restores (m : Mach) (k : Nat) (r : List Byte) (s : Nat) : Bool :=
  decide (m.verdict Op.belayRestore (hdr 0 0) (leBytes k 4) = .go) && after (.belayRestore (hdr 0 0) k r) m (fun t => decide (status t = s))

theorem witness_belayRestore : (let m := belayed world
    let foreign := (m.wrF (Reg.FOOTHILL_TARN_PROG 0 15) Fld.FOOTHILL_TARN_PROG_VALID 1).wrF (Reg.FOOTHILL_TARN_PROG 0 15) Fld.FOOTHILL_TARN_PROG_CONTEXT 1
    (CtxRecord.ofBytes (record5 [] 0)).step = 5 ∧ restores world 5 (record5 [] 0) St.notPermitted = true ∧ restores (inStep (step0 1 []) 1 m) 5 (record5 [] 0) St.busy = true ∧
    restores m 5 [] St.badParam = true ∧ restores m 4 (record5 [] 0) St.badParam = true ∧ restores m 5 (record5 [unitR 0 0] 0) St.badParam = true ∧
    restores (withPlan [unitR (2 ^ 20) 0] m) 5 (record5 [unitR (2 ^ 20) 0] 0) St.translationFault = true ∧ restores foreign 5 (record5 [] 15) St.notPermitted = true ∧
    after (.belayRestore (hdr 0 0) 5 (record5 [] 15)) m (fun t => decide (t.rdF Reg.BELAY_STATUS Fld.BELAY_STATUS_STATE = 3 ∧ t.belay.restoring.map (·.step) = some 5)) = true) := by
  decide +kernel

def restoring (rs : List Region) : Mach :=
  let m := begun Op.belayRestore { hdr 0 0 with tag := 9 } (withPlan rs (grouped world))
  { m with belay := { m.belay with restoring := some { step := 5, record := record5 rs 0, got := [], lane := .mgmt, tag := 9, ctx := 0 } } }

theorem witness_restoreFrame : still (.restoreFrame 1 [] [1] true false) (belayed world) = true ∧
    after (.restoreFrame 1 [] [1, 2] false false) (restoring []) (fun t => decide (t.belay.restoring.map (·.got) = some [(1, [1, 2], [])])) = true ∧
    after (.restoreFrame 1 [] [] false true) (restoring []) (fun t => decide (t.belay.restoring = none ∧ status t = St.linkDown)) = true ∧
    after (.restoreFrame 1 [] [1, 2] true false) (restoring []) (fun t => decide (t.belay.restoring = none ∧ status t = St.done ∧ t.closedStep 0 = 5 ∧
      (t.ctx 0).map (·.descs.length) = some 1)) = true := by decide +kernel

def hears (b : GBody) (m : Mach) : Mach := { m with group := { m.group with loop := [{ group := 8, body := b }] } }
def code (m : Mach) : Nat := m.rdF Reg.BELAY_STATUS Fld.BELAY_STATUS_LAST_RESULT

theorem witness_mirror : (let m := hears (.mirror 2 5 4) (belayed world)
    let down := m.setPortState 0 6
    m.ctxOf 8 = some 0 ∧ m.isMaster 8 = true ∧ m.belayPorts (bplan []) = [0] ∧ down.belayPorts (bplan []) = [] ∧
    after (.mirror none 8 2 5 4 Ecc.clean) m (fun t => decide (t.belay.mirror = some { round := 2, step := 5, began := t.clk } ∧ t.rd Reg.BELAY_ROUND = 4)) = true ∧
    after (.mirror none 8 2 5 4 Ecc.clean) down (fun t => decide (t.belay.mirror = none ∧ code t = 2)) = true ∧
    after (.mirror none 8 2 5 4 Ecc.clean) (hears (.mirror 2 5 4) (grouped world)) (fun t => decide (t.group.loop.map (·.body) = [.mirrored 0 2 0])) = true) := by
  decide +kernel

/-- A mirror under way, its freeze begun at 0; TIMEOUT_S 1 (R474). -/
def frozen : Mach :=
  let m := (belayed world).wrF Reg.BELAY_CFG Fld.BELAY_CFG_TIMEOUT_S 1
  { m with belay := { m.belay with mirror := some { round := 2, step := 5, began := 0 } } }

theorem witness_freezeEnds : still .mirrorTimeout world = true ∧ still (.belayCommitFrame 6 2 0) world = true ∧ still .mirrorTimeout { frozen with clk := secs 1 - 1 } = true ∧
    after .mirrorTimeout { frozen with clk := secs 1 } (fun t => decide (t.belay.mirror = none ∧ code t = 1)) = true ∧
    still (.belayCommitFrame 5 2 0) frozen = true ∧ still (.belayCommitFrame 6 3 0) frozen = true ∧
    after (.belayCommitFrame 6 2 0) frozen (fun t => decide (t.belay.mirror = none ∧ code t = 0 ∧ t.belay.buddyHasSlot = true)) = true ∧
    after (.belayCommitFrame 6 2 4) frozen (fun t => decide (code t = 4 ∧ t.belay.buddyHasSlot = false)) = true := by decide +kernel

def landingAt (got : List Nat) (cu : Option (Nat × List Nat)) : Mach :=
  let m := belayed world
  { m with belay := { m.belay with landing := some { slot := 1, round := 2, step := 5, serial := 77, units := [1, 2], got := got }, catchUp := cu } }

/-- Sizes of SLOT_UNITS and one more (R467); the second slot begins SLOT_UNITS units after the first (R465). -/
theorem witness_buddy : (let sent (m : Mach) := m.belay.sent
    after (.mirrorOpen 4 2 5 3 77 [1, 2]) (belayed world) (fun t => decide (t.belay.landing.map (·.slot) = some 0 ∧ bytesAt t 0x40008 1 = 77)) = true ∧
    after (.mirrorOpen 4 2 5 4 77 [1, 2]) (belayed world) (fun t => decide (sent t = [.commit 4 2 3])) = true ∧
    after (.mirrorOpen 5 2 5 3 77 [1, 2]) (belayed world) (fun t => decide (sent t = [.commit 5 2 4])) = true ∧
    after (.mirrorOpen 4 2 5 3 77 [1, 2]) world (fun t => decide (sent t = [.commit 4 2 4])) = true ∧
    still (.mirrorData 4 2 1 [] [9]) world = true ∧ still (.mirrorData 4 2 1 [] [9]) (landingAt [1] none) = true ∧ still (.mirrorData 4 2 3 [] [9]) (landingAt [1] none) = true ∧
    after (.mirrorData 4 2 2 [] [9]) (landingAt [1] none) (fun t => decide (t.belay.landing.map (·.got) = some [1, 2] ∧ bytesAt t 0x90000 1 = 9)) = true ∧
    still .slotCommit world = true ∧ still .slotCommit (landingAt [1] none) = true ∧ still .slotCommit (landingAt [1, 2] (some (1, [129]))) = true ∧
    after .slotCommit (landingAt [1, 2] none) (fun t => decide (t.belay.slotB.valid = true ∧ t.belay.slotB.step = 5 ∧ sent t = [.commit 4 2 0] ∧ bytesAt t 0x70000 1 = 1)) = true ∧
    still (.catchUpDone 0) (landingAt [] (some (1, [129]))) = true ∧ (landingAt [] (some (1, [129]))).belay.catchUp = some ((1 : Fin 2).val, [129])) := by decide +kernel

/-- The last rank's result ends the round; L moves only if every result is 0 (R470, R475). -/
theorem witness_rounds : (let m (v : Nat) (rs : List (Nat × Nat)) : Mach := let m := hears (.mirrored 1 2 v) (belayed world)
      { m with belay := { m.belay with roundOpen := true, round := 2, roundStep := 5, results := rs, snapshots := [(.mgmt, 0, 7)] } }
    let ends (m : Mach) : Mach := begun Op.belaySnapshot (hdr 0 0) (hears (.roundEnd 2 true 5) m)
    (m 0 []).groupSize 8 = 2 ∧
    after (.mirrored none 8 1 2 0) (m 0 []) (fun t => decide (t.belay.results = [(1, 0)] ∧ t.group.loop = [])) = true ∧
    after (.mirrored none 8 1 2 0) (m 0 [(0, 0)]) (fun t => decide (t.group.loop.map (·.body) = [.roundEnd 2 true 5])) = true ∧
    after (.mirrored none 8 1 2 3) (m 3 [(0, 0)]) (fun t => decide (t.group.loop.map (·.body) = [.roundEnd 2 false 0])) = true ∧
    after (.mirrored none 8 1 2 0) (m 0 [(1, 0)]) (fun t => decide (t.group.loop = [] ∧ t.belay.roundOpen = true)) = true ∧
    after (.roundEnd none 8 2 true 5) (ends (m 0 [])) (fun t => decide (t.rd Reg.BELAY_ROUND = 5 ∧ t.belay.snapshots = [] ∧ status t = St.done)) = true) := by decide +kernel


/-! ### Treeline, Survey, Waymark, invariants -/

def caps (m : Mach) (ctx w s : Nat) : Bool :=
  decide (m.verdict Op.powerBudgetSet (hdr 0 4) [] = .go) && after (.powerBudgetCap (hdr 0 4) ctx w) m (fun t => decide (status t = s))
def reserves (m : Mach) (ctx w s : Nat) : Bool := after (.powerBudgetReservation (hdr 0 4) ctx w) m (fun t => decide (status t = s))

/-- The cap's range is 600 to 3,200 W; a reservation fits the pool of 1,000 W (R512, R514, R522). -/
theorem witness_powerBudget : caps world 1 600 St.badParam = true ∧ caps world 0 599 St.badParam = true ∧ caps world 0 3201 St.badParam = true ∧
    caps world 0 3200 St.done = true ∧ caps world 0 600 St.done = true ∧ caps (world.wrF (Reg.TREELINE_RESERVE 0) Fld.TREELINE_RESERVE_WATTS 601) 0 600 St.powerLimit = true ∧
    after (.powerBudgetCap (hdr 0 4) 0 600) world (fun t => decide (t.effCap = 600 ∧ t.rdF Reg.TREELINE_CAP Fld.TREELINE_CAP_CAP_W = 600)) = true ∧
    reserves world 16 1 St.badParam = true ∧ reserves world 0 3201 St.badParam = true ∧ reserves world 1 1 St.notPermitted = true ∧
    reserves world 0 1001 St.powerLimit = true ∧ after (.powerBudgetReservation (hdr 0 4) 0 1000) world (fun t => decide (status t = St.done ∧ t.reservation 0 = 1000)) = true := by
  decide +kernel

theorem witness_thermalStatus : world.verdict Op.thermalStatus (hdr 0 0) [] = .go ∧
    after (.thermalStatus (hdr 0 0)) world (fun t => decide (status t = St.done ∧ (reply t).length = 168)) = true ∧
    world.poweredOff = false ∧ after (.budgetEvaluation 300) world (fun t => decide (t.baseW = 300)) = true ∧
    still (.budgetEvaluation 300) (world.wrF Reg.CAIRN_START_STATUS Fld.CAIRN_START_STATUS_POWERED_OFF 1) = true ∧
    still (.powerSample 1 5000) (running []) = true ∧
    after (.powerSample 0 5000) (running []) (fun t => decide ((t.treeline.samples.getD 1 []).length = 1 ∧ t.rdF (Reg.TREELINE_PREDICT 1) Fld.TREELINE_PREDICT_SAMPLES = 1)) = true := by
  decide +kernel

/-- The islands of range 0 at 1,250 MHz, granted and supplied. -/
def fast (m : Mach) : Mach :=
  m.each [0, 1, 2, 3] (fun m i => m.updIsland i (fun x => { x with kHz := 1250000, mV := 750, grant := 1250000, waiting := none, powered := true, clocked := true }))
def late (m : Mach) : Mach := { m with clk := us 200 }

/-- At the cap and a watt over it; the 100 µs (R513). -/
theorem witness_cap : (let m := late (fast (running []))
    (m.effCap = 3200 ∧ m.flowUnits.length = 1 ∧ m.unitIslands true = [0, 1, 2, 3]) ∧
    after (.capEnforcementStep 3200) m (fun t => decide ((t.island 0).kHz = 1250000 ∧ t.rdF Reg.TREELINE_INPUT Fld.TREELINE_INPUT_POWER_W = 3200)) = true ∧
    after (.capEnforcementStep 3201) m (fun t => decide ((t.island 0).kHz = 1225000 ∧ t.treeline.lowered = true)) = true ∧
    after (.capEnforcementStep 3201) { m with treeline := { m.treeline with capAt := us 101 } } (fun t => decide ((t.island 0).kHz = 1250000)) = true) ∧
    (let m := fast (running [])
    let low := (m.updIsland 1 (fun x => { x with kHz := 1000000 }))
    let low : Mach := { low with clk := ms 1, treeline := { low.treeline with lowered := true } }
    after (.capRestoreStep 3200) low (fun t => decide ((t.island 1).kHz = 1025000)) = true ∧
    after (.capRestoreStep 3201) low (fun t => decide ((t.island 1).kHz = 1000000)) = true ∧
    after (.capRestoreStep 3200) { low with clk := ms 1 - 1 } (fun t => decide ((t.island 1).kHz = 1000000)) = true) := by decide +kernel

theorem witness_boost : (let m := (fast (running [])).wrF Reg.TREELINE_THERMAL_CFG Fld.TREELINE_THERMAL_CFG_BOOST_EN 1
    let x := stream0 m
    let hot := m.wrF (Reg.TREELINE_ZONE 0) Fld.TREELINE_ZONE_TEMP 480
    m.boostOk 1 = true ∧ m.grantWith x 1 - m.grantWith x 0 ≤ m.freeW ∧ x.boost = 0 ∧ still .boostCheck world = true ∧
    after .boostCheck m (fun t => decide (t.streams.map (·.boost) = [1])) = true ∧ still .boostCheck hot = true ∧
    after .boostCheck { hot with streams := hot.streams.map (fun y => { y with boost := 1 }) } (fun t => decide (t.streams.map (·.boost) = [0])) = true) := by decide +kernel

theorem witness_starve : (let m (at_ : Nat) : Mach := { world.wrF Reg.TREELINE_ADMIT_CFG Fld.TREELINE_ADMIT_CFG_STARVE_US 1 with
      clk := at_, treeline := { world.treeline with waiting := [{ stream := none, ctx := 0, entry := 3, since := 0 }] } }
    still (.starveExpiry 1) (m (us 1)) = true ∧ still (.starveExpiry 0) (m (us 1 - 1)) = true ∧
    after (.starveExpiry 0) (m (us 1)) (fun t => decide (t.treeline.starving = some (0, 3))) = true) := by decide +kernel

/-- All 512 sensors at one temperature, in quarters of a degree. -/
def temps (q : Int) : List Int := List.replicate 512 q

/-- 109.75, 110, 115 and 125 C (R518, R519, R527). -/
theorem witness_sensorRead : zoneReading (temps 439) 38 = 439 ∧ still (.sensorRead (temps 100)) (world.wrF Reg.CAIRN_START_STATUS Fld.CAIRN_START_STATUS_POWERED_OFF 1) = true ∧
    after (.sensorRead (temps 399)) (fast (running [])) (fun t => decide (t.treeline.coolSince = some 0 ∧ (t.island 0).kHz = 1250000 ∧ t.zoneTemp 38 = 399)) = true ∧
    after (.sensorRead (temps 440)) (fast (running [])) (fun t => decide ((t.island 0).kHz = 625000 ∧ (t.zone 0).holdSince = some 0 ∧ (t.zone 0).throttled = true)) = true ∧
    after (.sensorRead (temps 460)) (fast (running [])) (fun t => decide (t.rdF Reg.TREELINE_STATUS Fld.TREELINE_STATUS_COMPUTE_STOPPED = 1 ∧ t.streams = [])) = true ∧
    after (.sensorRead (temps 500)) world (fun t => t.faultN) = true := by decide +kernel

theorem witness_holds : (let held (at_ : Nat) : Mach := { (fast (running [])).updZone 0 (fun x => { x with holdSince := some 0 }) with clk := at_ }
    let cool := (fast (running [])).updZone 0 (fun x => { x with throttled := true })
    let cool := cool.updIsland 2 (fun x => { x with kHz := 1000000 })
    still (.fastHoldEnd 0) (running []) = true ∧ still (.fastHoldEnd 0) (held (ms 1 - 1)) = true ∧
    after (.fastHoldEnd 0) ((held (ms 1)).updIsland 3 (fun x => { x with kHz := 612345 })) (fun t => decide ((t.zone 0).holdSince = none ∧ (t.island 3).kHz = 600000)) = true ∧
    still (.slowThrottleStep 0) (running []) = true ∧
    after (.slowThrottleStep 0) { cool with clk := ms 1 } (fun t => decide ((t.island 2).kHz = 1025000)) = true ∧
    after (.slowThrottleStep 0) { cool.wrF (Reg.TREELINE_ZONE 0) Fld.TREELINE_ZONE_TEMP 480 with clk := us 50 } (fun t => decide ((t.island 2).kHz = 975000)) = true) := by decide +kernel

theorem witness_stopEnd : (let m (good : Nat) : Mach := { world.wrF Reg.TREELINE_STATUS Fld.TREELINE_STATUS_COMPUTE_STOPPED 1 with
      clk := ms 100, treeline := { world.treeline with coolSince := some good } }
    still .computeStopEnd world = true ∧ still .computeStopEnd (m 1) = true ∧
    after .computeStopEnd (m 0) (fun t => decide (t.rdF Reg.TREELINE_STATUS Fld.TREELINE_STATUS_COMPUTE_STOPPED = 0)) = true) ∧
    still (.voltageChangeDone 5) world = true ∧
    after (.voltageChangeDone 5) (world.updIsland 5 (fun x => { x with waiting := some (1000000, 700) })) (fun t => decide ((t.island 5).kHz = 1000000 ∧ (t.island 5).mV = 700)) = true ∧
    (let m (at_ : Nat) : Mach := { world with clk := at_, treeline := { world.treeline with offSince := [(9, 0)] } }
    still (.rangePowerOff 9) (m (ms 10 - 1)) = true ∧ still (.rangePowerOff 8) (m (ms 10)) = true ∧
    after (.rangePowerOff 9) (m (ms 10)) (fun t => decide ((t.island 36).powered = false)) = true) := by decide +kernel

/-- 58 V is good, less is a dip; 48 V and 70 V are still within the limits (R500, R501). -/
theorem witness_input : (let brown := world.wrF Reg.TREELINE_STATUS Fld.TREELINE_STATUS_BROWNOUT 1
    world.poweredOff = false ∧ after (.inputDip 5799) world (fun t => decide (t.treeline.dipping = true ∧ t.rdF Reg.TREELINE_STATUS Fld.TREELINE_STATUS_DIP = 1)) = true ∧
    after (.inputDip 5800) world (fun t => decide (t.treeline.dipping = false)) = true ∧ still (.brownOut 5800) world = true ∧
    after (.brownOut 5799) (fast (running [])) (fun t => decide (t.streams = [] ∧ (t.island 0).clocked = false ∧ t.rangeState 0 = 4)) = true ∧
    still (.brownoutEnd 5800) world = true ∧ still (.brownoutEnd 5799) brown = true ∧
    after (.brownoutEnd 5800) brown (fun t => decide (t.rdF Reg.TREELINE_STATUS Fld.TREELINE_STATUS_BROWNOUT = 0)) = true ∧
    still (.inputPowerOff 4800) world = true ∧ still (.inputPowerOff 7000) world = true ∧ after (.inputPowerOff 4799) world (fun t => t.faultN) = true ∧
    after (.inputPowerOff 7001) world (fun t => t.faultN) = true) := by decide +kernel

/-- 40 C and 5 L/min keep the cap; half the flow halves it, a degree more takes 200 W; a second in the stop row (R521). -/
theorem witness_coolant : after (.coolantChange 160 500) world (fun t => decide (t.effCap = 3200)) = true ∧ after (.coolantChange 160 250) world (fun t => decide (t.effCap = 1600)) = true ∧
    after (.coolantChange 164 500) world (fun t => decide (t.effCap = 3000 ∧ t.rdF Reg.TREELINE_STATUS Fld.TREELINE_STATUS_DERATED = 1)) = true ∧
    after (.coolantChange 59 500) world (fun t => decide (t.rdF Reg.TREELINE_STATUS Fld.TREELINE_STATUS_COLD_INLET = 1)) = true ∧
    (let m (at_ : Nat) : Mach := { world with clk := at_, treeline := { world.treeline with coolantBad := some 0 } }
    still .coolantStop (m (secs 1 - 1)) = true ∧
    after .coolantStop (m (secs 1)) (fun t => decide (t.rdF Reg.TREELINE_STATUS Fld.TREELINE_STATUS_COMPUTE_STOPPED = 1 ∧ t.treeline.coolantStopped = true)) = true) := by decide +kernel

def surveying (k : Nat) (m : Mach) : Mach := m.wrF Reg.SURVEY_STATUS Fld.SURVEY_STATUS_STATE k
def snaps (m : Mach) (h : Hdr) (tick opt s : Nat) : Bool :=
  decide (m.verdict Op.surveySnap h (leBytes tick 8 ++ leBytes opt 1) = .go) && after (.surveySnap h tick opt) m (fun t => decide (status t = s))

/-- 10 µs ahead is 1,562.5 ticks, 1 s is 156,250,000 (R628, R629). -/
theorem witness_surveySnap : (let pend (m : Mach) (h : Hdr) (tick : Nat) : Bool := after (.surveySnap h tick 1) m (fun t => decide (t.surveyState = 1 ∧ t.survey.tick = tick ∧ t.survey.clear = true))
    let replace : Hdr := { hdr 0 0 with flags := 64 }
    snaps world (hdr 0 0) 1562 0 St.badParam = true ∧ pend world (hdr 0 0) 1563 = true ∧ pend world (hdr 0 0) 156250000 = true ∧ snaps world (hdr 0 0) 156250001 0 St.badParam = true ∧
    snaps world (hdr 0 0) 2000 2 St.badParam = true ∧ snaps (surveying 1 world) (hdr 0 0) 2000 0 St.busy = true ∧ snaps (surveying 2 world) (hdr 0 0) 2000 0 St.busy = true ∧
    (surveying 2 world).verdict Op.surveySnap replace (leBytes 2000 8 ++ leBytes 1 1) = .go ∧ pend (surveying 2 world) replace 2000 = true) := by decide +kernel

theorem witness_capture : (let m (ticks : Nat) : Mach := begun Op.surveySnap (hdr 0 0) { surveying 1 world with
      survey := { world.survey with tick := 100, clear := true, cmd := some (.mgmt, 0, 7), trouble := [(troubleKey 0 1, 5)] },
      timebase := { world.timebase with ticks := BitVec.ofNat 64 ticks } }
    still .snapshotCapture world = true ∧ still .snapshotCapture (m 100) = true ∧
    after .snapshotCapture (m 101) (fun t => decide (t.surveyState = 2 ∧ t.survey.shadow = [(troubleKey 0 1, 5)] ∧ t.survey.trouble = [] ∧ t.snapId = 1 ∧ status t = St.done)) = true) := by
  decide +kernel

def reads (m : Mach) (first count opt s : Nat) : Bool :=
  decide (m.verdict Op.surveyRead (hdr 0 0) (leBytes first 2 ++ leBytes count 2 ++ leBytes opt 1) = .go) &&
    after (.surveyRead (hdr 0 0) first count opt) m (fun t => decide (status t = s))

/-- Unit 315 is the last; seven units of 72 counters pass the management lane's 4,160 bytes by 8 (R632, R635). -/
theorem witness_surveyRead : reads world 0 0 0 St.badParam = true ∧ reads world 315 2 0 St.badParam = true ∧ reads world 0 1 4 St.badParam = true ∧ reads world 0 1 0 St.busy = true ∧
    recordBytes false (List.range' 0 7) = 4088 ∧ reads (surveying 2 world) 112 5 0 St.badParam = true ∧ reads world 307 1 1 St.done = true ∧ reads (surveying 2 world) 315 1 0 St.done = true ∧
    after (.surveyRead (hdr 0 0) 315 1 2) (surveying 2 world) (fun t => decide (t.surveyState = 0 ∧ (reply t).length = 520)) = true := by decide +kernel

/-- A running stream with a fence as its first instruction, armed at it, the arm waiting. -/
def armed : Mach :=
  let m := (running [ins 0 2 0 2]).wrF (Reg.WAYMARK_POSITION_HI 0) Fld.WAYMARK_POSITION_HI_ARMED 1
  begun Op.waymarkSet (hdr 0 0) { m with arms := [{ lane := .mgmt, ctx := 0, tag := 7, mask := 1, ranges := 1 }] }
def haltedAt : Mach := { (running [ins 0 2 0 2]).setRangeState 0 5 with ranges := (running [ins 0 2 0 2]).ranges.modify 0 (fun r => { r with halted := true }) }
def marks (i : Hdr → Instr) (m : Mach) (p : List Byte) (s : Nat) : Bool :=
  decide (m.verdict Op.waymarkSet (hdr 0 0) p = .go) && after (i (hdr 0 0)) m (fun t => decide (status t = s))

theorem witness_arm : (let a (mask : Nat) (m : Mach) (s : Nat) : Bool := marks (.arm · mask 2 0 0) m (waymarkParam mask 2 0 0 0) s
    a 0 world St.badParam = true ∧ a 4 world St.notPermitted = true ∧ a 1 (stepping none (running [])) St.badParam = true ∧ a 1 haltedAt St.busy = true ∧
    after (.arm (hdr 0 0) 1 2 0 0) (running []) (fun t => decide (t.arms.map (·.ranges) = [1] ∧ t.rdF (Reg.WAYMARK_POSITION 0) Fld.WAYMARK_POSITION_INSTR_INDEX = 2 ∧
      t.rdF (Reg.WAYMARK_POSITION_HI 0) Fld.WAYMARK_POSITION_HI_ARMED = 1)) = true) := by decide +kernel

theorem witness_resume : marks (.resume · 0 0xFFFF 0 0) world (waymarkParam 0 0xFFFF 0 0 1) St.badParam = true ∧ marks (.resume · 4 0xFFFF 0 0) world (waymarkParam 4 0xFFFF 0 0 1) St.notPermitted = true ∧
    marks (.resume · 1 0xFFFF 0 0) (running []) (waymarkParam 1 0xFFFF 0 0 1) St.busy = true ∧
    after (.resume (hdr 0 0) 1 0xFFFF 0 0) haltedAt (fun t => decide (t.rangeState 0 = 2 ∧ (t.range 0).halted = false ∧ t.arms = [] ∧ status t = St.done)) = true ∧
    after (.resume (hdr 0 0) 1 1 0 0) haltedAt (fun t => decide (t.rangeState 0 = 2 ∧ t.arms.length = 1)) = true := by decide +kernel

theorem witness_disarm : marks (.disarm · 0) world (waymarkParam 0 0 0 0 2) St.badParam = true ∧ marks (.disarm · 4) world (waymarkParam 4 0 0 0 2) St.notPermitted = true ∧
    after (.disarm { hdr 0 0 with tag := 8 } 1) armed (fun t => decide (t.arms = [] ∧ t.swite.replies.map (·.detail) = [2 ^ 30, 0])) = true ∧
    still (.waymarkHalt 0) world = true ∧ still (.waymarkHalt 0) (running [ins 0 2 0 2]) = true ∧ armed.atBoundary 0 [ins 0 2 0 2] = true ∧
    after (.waymarkHalt 0) armed (fun t => decide (t.rangeState 0 = 5 ∧ t.arms = [] ∧ status t = St.done ∧ detail t = 1)) = true := by decide +kernel

def dumps (m : Mach) (r w t s : Nat) : Bool :=
  decide (m.verdict Op.debugDump (hdr 0 0) (leBytes r 1 ++ leBytes w 1 ++ leBytes t 2) = .go) && after (.debugDump (hdr 0 0) r w t) m (fun q => decide (status q = s))

theorem witness_debugDump : (let dbg (m : Mach) := m.wrF Reg.CAIRN_STATE Fld.CAIRN_STATE_DEBUG 1
    dumps world 16 0 0 St.badParam = true ∧ dumps world 0 3 0 St.badParam = true ∧ dumps world 0 2 512 St.badParam = true ∧ dumps haltedAt 0 0 0 St.notPermitted = true ∧
    dumps (dbg haltedAt) 2 0 0 St.notPermitted = true ∧ dumps (dbg world) 0 0 0 St.busy = true ∧ (dbg haltedAt).halted 0 = true ∧ (dbg haltedAt).debug = true ∧
    (dbg haltedAt).verdict Op.debugDump (hdr 0 0) (leBytes 0 1 ++ leBytes 2 1 ++ leBytes 511 2) = .go) := by decide +kernel

/-- An instruction word and an image that are read back as they were written. -/
theorem witness_image : (sync 1 15 6 3).fits = true ∧ Ewx.ofWord (sync 1 15 6 3).toWord = sync 1 15 6 3 ∧ idles.sound = true ∧ imageCheck idles.toBytes = .ok idles := by decide +kernel

theorem witness_reset : State.reset.shaped = true ∧ State.reset.canonical = true ∧ (st world).shaped = true ∧ (st world).canonical = true := by decide +kernel

/-! ### Ill-formed commands -/

def ill (l : List Instr) : Bool := l.all (fun c => !c.wf)

theorem illFormed_headers : ill [.hello { hdr 0 0 with tag := 65536 }, .identify (hdr 256 0), .contextDestroy { hdr 0 0 with prio := 256 }, .thermalStatus { hdr 0 0 with flags := 65536 },
    .spdmMsg (hdr 0 (2 ^ 32)) .other false true] = true ∧ (Instr.hello (hdr 255 (2 ^ 32 - 1))).wf = true := by decide +kernel

theorem illFormed_hostCommands : (let h := hdr 0 4
    let z := { h with tag := 65536 }
    let p : List Byte := [1, 2, 3, 4]
    ill [.csrRead h (2 ^ 32), .csrRead z 0, .csrWrite h (2 ^ 32) 1 [0], .csrWrite h 0 65536 [0], .csrWrite h 0 1 [], .csrReadBlock h (2 ^ 32) 0, .csrReadBlock h 0 65536] = true ∧
    ill [.memCopy h (2 ^ 64) 0 0 0, .memCopy h 0 (2 ^ 64) 0 0, .memCopy h 0 0 (2 ^ 64) 0, .memCopy h 0 0 0 256, .memFill h (2 ^ 64) 0 0, .memFill h 0 (2 ^ 32) 0, .memFill h 0 0 (2 ^ 64),
      .memMap h (2 ^ 64) 0 0 0 0 0, .memMap h 0 (2 ^ 64) 0 0 0 0, .memMap h 0 0 (2 ^ 64) 0 0 0, .memMap h 0 0 0 256 0 0, .memMap h 0 0 0 0 256 0, .memMap h 0 0 0 0 0 256,
      .memUnmap h (2 ^ 64) 0, .memUnmap h 0 (2 ^ 64)] = true ∧
    ill [.contextCreate h 256 0 0 0 0 0, .contextCreate h 0 256 0 0 0 0, .contextCreate h 0 0 65536 0 0 0, .contextCreate h 0 0 0 65536 0 0, .contextCreate h 0 0 0 0 (2 ^ 64) 0,
      .contextCreate h 0 0 0 0 0 (2 ^ 32), .descLoad h 65536 0 p, .descLoad h 0 65536 p, .descLoad h 0 0 [], .streamLoad h 256 p, .streamLoad h 0 [], .streamStart h 256 0 0,
      .streamStart h 0 256 0, .streamStart h 0 0 65536, .streamStop h 65536, .streamStatus h 65536, .disarm h 65536] = true ∧
    ill [.framePush h 65536 0 0 p, .framePush h 0 65536 0 p, .framePush h 0 0 (2 ^ 32) p, .framePush h 0 0 0 [], .stepBegin h 256, .stepCommit h (2 ^ 32), .stepAbort h (2 ^ 32),
      .linkStatus h (2 ^ 32), .belayRestore h (2 ^ 32) [], .scheduleLoad h 256 p, .scheduleLoad h 0 [], .fabricPlan h [], .belayPlan h [], .load h []] = true ∧
    ill [.meshSet h 256 0 (List.replicate 8 0) [], .meshSet h 0 256 (List.replicate 8 0) [], .meshSet (hdr 0 8) 0 0 (List.replicate 8 256) [], .meshSet (hdr 0 8) 0 0 [] [],
      .meshSet h 0 0 (List.replicate 8 0) [], .darkMapWrite h 256 [0], .darkMapWrite h 0 [], .getEphemeral h [], .clear h 256, .lockConfig h 256, .ownerTransfer h [1] [2],
      .fwUpdate h (2 ^ 64) 0 p, .fwUpdate h 0 (2 ^ 32) p, .fwUpdate h 0 0 []] = true ∧
    ill [.surveySnap h (2 ^ 64) 0, .surveySnap h 0 256, .surveyRead h 65536 0 0, .surveyRead h 0 65536 0, .surveyRead h 0 0 256, .arm h 65536 0 0 0, .arm h 0 65536 0 0,
      .resume h 0 0 65536 0, .resume h 0 0 0 65536, .debugDump h 256 0 0, .debugDump h 0 256 0, .debugDump h 0 0 65536, .debugModeEnable h [], .powerBudgetCap h 256 0,
      .powerBudgetReservation h 0 (2 ^ 32), .moduleReset h 65536, .contextReset h 65536, .rangeReset h 65536, .portReset h 65536, .tenantReset h 65536] = true ∧
    ill [.switch (hdr 0 8) 0, .securityVersionWrite (hdr 0 8) 0, .prodDebugOffWrite (hdr 0 8) 0, .timebaseMasterWrite (hdr 0 8) 0, .syncCounterWrite h 4096 0, .syncCounterWrite (hdr 0 8) 0 0,
      .tarnProgClaim (hdr 0 8) 0 0 0, .serveCfgWrite h (2 ^ 32) [0], .serveCfgWrite h 0 []] = true ∧
    (Instr.csrWrite h 0 1 [0]).wf = true ∧ (Instr.meshSet (hdr 0 8) 0 0 (List.replicate 8 0) []).wf = true) := by decide +kernel

theorem illFormed_events : (let e : Ecc := { corrected := [2 ^ 56], bad := [] }
    let b : Ecc := { corrected := [], bad := [2 ^ 56] }
    let f := frame 1 5 0
    let fl := flit 0
    ill [.stageEnd { stageOk with stacksFailed := 4096 }, .colRepeatBegin 0 e, .crestRepeatBegin 0 b, .crestDrain 0 .run e, .spurRepeatBegin 0 b, .talusRepeatBegin 0 e, .screeRepeatBegin 0 b,
      .linkSend 0 .run e, .postingStart 0 0 b, .slotStart 0 e, .patrolRead 0 b, .messageLand 0 e, .reductionFrame 0 b, .mirror none 0 0 0 0 e, .copyComplete 0 b,
      .hostTxnCompletion 4096 .ack, .hostTxnCompletion 0 (.completion []), .hostTxnTimeout 4096, .replayRequest 0 (2 ^ 24), .mirrorData 0 0 0 [16384] [],
      .restoreFrame 0 [16384] [] false false, .sensorRead (temps 0).tail, .fullSweepDone { rx := false, port := 0, line := 0 } (List.replicate 257 0) 0,
      .mgmtPacket (List.replicate 4161 0) true] = true ∧
    ill ([{ f with typ := 16 }, { f with cls := 4 }, { f with hops := 16 }, { f with dest := 4096 }, { f with src := 4096 }, { f with channel := 256 }, { f with seq := 2 ^ 24 }, { f with msg := 65536 },
      { f with ackSeq := 2 ^ 24 }, { f with credCls := 4 }, { f with credit := 64 }, { f with payload := List.replicate 1025 0 }].map (fun x => .frameReceive 0 x goodRx)) = true ∧
    ill ([{ fl with cls := 8 }, { fl with kind := 4 }, { fl with seq := 4096 }, { fl with ack := 4096 }, { fl with data := [] }].map (fun x => .flitReceive x true true 0)) = true ∧
    ill ([{ peer0 with serial := 2 ^ 64 }, { peer0 with port := 32 }, { peer0 with compat := 256 }, { peer0 with revMin := 16 }, { peer0 with revMax := 16 }, { peer0 with faddr := some 4096 },
      { peer0 with linkTag := some 65536 }].map (.identityFrame 0)) = true ∧
    (Instr.frameReceive 0 f goodRx).wf = true ∧ (Instr.flitReceive fl true true 0).wf = true ∧ (Instr.identityFrame 0 peer0).wf = true ∧ (Instr.sensorRead (temps 0)).wf = true) := by decide +kernel

/-- A unit of Belay is 65,536 bytes. -/
theorem illFormed_unit : (Instr.mirrorData 0 0 0 [] (List.replicate 65537 0)).wf = false ∧ (Instr.restoreFrame 0 [] (List.replicate 65537 0) true false).wf = false := by
  simp only [Instr.wf, List.all_nil, Bool.true_and, List.length_replicate]; decide


set_option maxRecDepth 200000 in
/-- A whole plan is taken: its circuit set starts on its way, and the port whose entry is new is marked. -/
theorem witness_fabricPlan_taken :
    after (.fabricPlan (dhdr 0xFF 0x1340) planBytes) ((lit calm).wrF Reg.SWITE_STATUS Fld.SWITE_STATUS_STATE 2)
      (fun t => decide (t.optics.applying.map (fun a => a.plan.map (·.id)) = some (some 3) ∧ t.plan = none ∧ (t.port 0).changed = true)) = true := by
  decide +kernel


end Sys2Proof.Tests
end

section
namespace Sys2Proof.Laws

-- One proof after another: started together, the threads of this many proofs ask for more memory than the check allows.
set_option Elab.async false

open Sys2Proof.Machine

/-!
# What every step keeps

`Keeps m q` says of a module `m` and a module `q` made of it that `q` has tables of the sizes of `m`'s and sparse stores in canonical form where
`m` has. It passes along a chain of operations: for each function of the model one lemma takes `Keeps m q` to the function's result on `q`, and
its proof is the chain of the operations that the function's body calls, branch by branch. `exec_keeps` then has one line per command.
-/

/-- What every meaning of the model keeps, said of the module `m` before and the module `q` after: the sizes of the tables and the
canonical form of the sparse stores, each on its own. -/
structure Keeps (m q : Mach) : Prop where
  shaped : m.shaped = true → q.shaped = true
  canonical : m.canonical = true → q.canonical = true

variable {m q : Mach}

theorem Keeps.refl (m : Mach) : Keeps m m := ⟨id, id⟩

theorem Keeps.trans {r : Mach} (h : Keeps m q) (g : Keeps q r) : Keeps m r := ⟨g.shaped ∘ h.shaped, g.canonical ∘ h.canonical⟩

/-- An update that keeps the length of every table and touches no sparse store. -/
theorem Keeps.of_sizes {r : Mach} (h : Keeps m q)
    (ctxs : r.ctxs.length = q.ctxs.length := by rfl) (ranges : r.ranges.length = q.ranges.length := by rfl)
    (tarn : r.tarn.length = q.tarn.length := by rfl) (dram : r.mem.dram.length = q.mem.dram.length := by rfl)
    (ports : r.ports.length = q.ports.length := by rfl) (islands : r.treeline.islands.length = q.treeline.islands.length := by rfl)
    (zones : r.treeline.zones.length = q.treeline.zones.length := by rfl)
    (credits : r.swite.credits.length = q.swite.credits.length := by rfl)
    (csr : r.csr = q.csr := by rfl) (bytes : r.mem.bytes = q.mem.bytes := by rfl)
    (counts : r.survey.trouble = q.survey.trouble := by rfl) : Keeps m r := by
  refine ⟨fun hm => ?_, fun hm => ?_⟩
  · have hq := h.shaped hm
    rw [shaped_iff] at hq ⊢
    rwa [ctxs, ranges, tarn, dram, ports, islands, zones, credits]
  · have hq := h.canonical hm
    unfold Mach.canonical at *
    rwa [csr, bytes, counts]

/-- An update of other parts than the tables and the sparse stores. -/
theorem Keeps.upd {clk draws faultN modResetLow swite mem streams nextStream copies treeline cairn optics plan channels messages sent
      timebase saddle group belay survey arms} (h : Keeps m q)
    (dram : mem.dram.length = q.mem.dram.length := by rfl) (bytes : mem.bytes = q.mem.bytes := by rfl)
    (islands : treeline.islands.length = q.treeline.islands.length := by rfl) (zones : treeline.zones.length = q.treeline.zones.length := by rfl)
    (credits : swite.credits.length = q.swite.credits.length := by rfl) (counts : survey.trouble = q.survey.trouble := by rfl) :
    Keeps m { csr := q.csr, ctxs := q.ctxs, ranges := q.ranges, tarn := q.tarn, ports := q.ports, clk, draws, faultN, modResetLow, swite, mem,
              streams, nextStream, copies, treeline, cairn, optics, plan, channels, messages, sent, timebase, saddle, group, belay, survey,
              arms } :=
  h.of_sizes (dram := dram) (bytes := bytes) (islands := islands) (zones := zones) (credits := credits) (counts := counts)

theorem Keeps.ite {a b : Mach} {c : Prop} [Decidable c] (ha : Keeps m a) (hb : Keeps m b) : Keeps m (if c then a else b) := by
  split
  · exact ha
  · exact hb

theorem Keeps.foldl {α : Type} {f : Mach → α → Mach} {l : List α} (h : Keeps m q) (hf : ∀ r x, Keeps m r → Keeps m (f r x)) :
    Keeps m (l.foldl f q) :=
  foldl_keeps (Keeps m) f hf l q h

theorem Keeps.foldlFst {α β : Type} {f : Mach × β → α → Mach × β} {l : List α} {a : Mach × β} (h : Keeps m a.1)
    (hf : ∀ b x, Keeps m b.1 → Keeps m (f b x).1) : Keeps m (l.foldl f a).1 :=
  foldl_keeps (fun b : Mach × β => Keeps m b.1) f hf l a h

theorem Keeps.foldlSnd {α β : Type} {f : β × Mach → α → β × Mach} {l : List α} {a : β × Mach} (h : Keeps m a.2)
    (hf : ∀ b x, Keeps m b.2 → Keeps m (f b x).2) : Keeps m (l.foldl f a).2 :=
  foldl_keeps (fun b : β × Mach => Keeps m b.2) f hf l a h

theorem Keeps.each {f : Mach → Nat → Mach} {l : List Nat} (h : Keeps m q) (hf : ∀ r k, Keeps m r → Keeps m (f r k)) : Keeps m (q.each l f) :=
  h.foldl hf

theorem Keeps.when {c : Bool} {f : Mach → Mach} (h : Keeps m q) (hf : Keeps m (f q)) : Keeps m (q.when c f) := .ite hf h

/-- How an attempt to begin a repeat ends: whatever module it leaves is kept. -/
inductive BeginKeeps (m : Mach) : Begin → Prop
  | held {c : Nat} : BeginKeeps m (.held c)
  | stop {q : Mach} {a : StopAt} (h : Keeps m q) : BeginKeeps m (.stop q a)
  | ok {q : Mach} (h : Keeps m q) : BeginKeeps m (.ok q)

theorem BeginKeeps.ite {a b : Begin} {c : Prop} [Decidable c] (ha : BeginKeeps m a) (hb : BeginKeeps m b) : BeginKeeps m (if c then a else b) := by
  split
  · exact ha
  · exact hb

theorem BeginKeeps.of_ok (h : BeginKeeps m (.ok q)) : Keeps m q := by
  cases h
  assumption

theorem BeginKeeps.of_stop {a : StopAt} (h : BeginKeeps m (.stop q a)) : Keeps m q := by
  cases h
  assumption

/-- The canonical form, store by store. -/
theorem canonical_iff (m : Mach) : m.canonical = true ↔
    Sparse.wf regReset m.csr = true ∧ Memory.wf m.mem.bytes = true ∧ Sparse.wf (fun _ => 0) m.survey.trouble = true := by
  simp [Mach.canonical, and_assoc]

theorem Keeps.withCsr {csr : List (Nat × Word)} (h : Keeps m q) (hc : Sparse.wf regReset q.csr = true → Sparse.wf regReset csr = true) :
    Keeps m { q with csr := csr } := by
  refine h.trans ⟨id, fun hq => ?_⟩
  rw [canonical_iff] at hq ⊢
  exact ⟨hc hq.1, hq.2⟩

theorem Keeps.withMem {mem : MemSt} (h : Keeps m q) (hd : mem.dram.length = q.mem.dram.length)
    (hb : Memory.wf q.mem.bytes = true → Memory.wf mem.bytes = true) : Keeps m { q with mem := mem } := by
  refine h.trans ⟨fun hq => ?_, fun hq => ?_⟩
  · rw [shaped_iff] at hq ⊢
    rwa [hd]
  · rw [canonical_iff] at hq ⊢
    exact ⟨hq.1, hb hq.2.1, hq.2.2⟩

theorem Keeps.withSurvey {survey : SurveySt} (h : Keeps m q)
    (ht : Sparse.wf (fun _ => 0) q.survey.trouble = true → Sparse.wf (fun _ => 0) survey.trouble = true) : Keeps m { q with survey := survey } := by
  refine h.trans ⟨id, fun hq => ?_⟩
  rw [canonical_iff] at hq ⊢
  exact ⟨hq.1, hq.2.1, ht hq.2.2⟩

/-- A module built anew, its tables those of the reset state and its registers those there were. -/
theorem Keeps.of_reset {r : Mach} (hs : r.shaped = true) (hc : r.csr = q.csr) (hb : r.mem.bytes = []) (ht : r.survey.trouble = []) : Keeps q r := by
  refine ⟨fun _ => hs, fun hq => ?_⟩
  rw [canonical_iff] at hq ⊢
  rw [hc, hb, ht]
  exact ⟨hq.1, rfl, rfl⟩

theorem Keeps.wr {a : Nat} {v : Word} (h : Keeps m q) : Keeps m (q.wr a v) := h.withCsr (Sparse.wf_put _ _ _ _)
theorem Keeps.wrF {a v : Nat} {f : Fld} (h : Keeps m q) : Keeps m (q.wrF a f v) := h.wr

theorem Keeps.resetRegs {p : Nat → Bool} (h : Keeps m q) : Keeps m (q.resetRegs p) :=
  h.withCsr (Mach.csr_wf_resetRegs q p)

theorem Keeps.setCtx {c : Nat} {x : Option Ctx} (h : Keeps m q) : Keeps m (q.setCtx c x) := h.of_sizes (ctxs := List.length_set)
theorem Keeps.setRange {n : Nat} {r : RangeSt} (h : Keeps m q) : Keeps m (q.setRange n r) := h.of_sizes (ranges := List.length_set)
theorem Keeps.updPort {p : Nat} {f : PortSt → PortSt} (h : Keeps m q) : Keeps m (q.updPort p f) := h.of_sizes (ports := List.length_set)
theorem Keeps.updIsland {i : Nat} {f : Island → Island} (h : Keeps m q) : Keeps m (q.updIsland i f) := h.upd (islands := List.length_set)
theorem Keeps.updZone {z : Nat} {f : Zone → Zone} (h : Keeps m q) : Keeps m (q.updZone z f) := h.upd (zones := List.length_set)
theorem Keeps.updStack {k : Nat} {f : StackSt → StackSt} (h : Keeps m q) : Keeps m (q.updStack k f) := h.upd (dram := List.length_set)
theorem Keeps.setTarn {k : Nat} {t : Option TarnSt} (h : Keeps m q) : Keeps m (q.setTarn k t) := h.of_sizes (tarn := List.length_set)

theorem Keeps.tallyBy {u i d : Nat} (h : Keeps m q) : Keeps m (q.tallyBy u i d) := h.withSurvey (Sparse.wf_put _ _ _ _)

/-! ### State operations (Sys2Proof/Machine/Ops.lean) -/

theorem Keeps.tick (h : Keeps m q) : Keeps m q.tick := h.upd

theorem Keeps.drawn (h : Keeps m q) : Keeps m q.drawn := h.upd

theorem Keeps.addF {a : Nat} {f : Fld} {d : Nat} (h : Keeps m q) : Keeps m (q.addF a f d) := h.wrF

theorem Keeps.orR {a bits : Nat} (h : Keeps m q) : Keeps m (q.orR a bits) := h.wr

theorem Keeps.updCtx {c : Nat} {f : Ctx → Ctx} (h : Keeps m q) : Keeps m (q.updCtx c f) := by
  unfold Mach.updCtx
  split
  · exact h
  · exact h.setCtx

theorem Keeps.updRange {n : Nat} {f : RangeSt → RangeSt} (h : Keeps m q) : Keeps m (q.updRange n f) := h.setRange

theorem Keeps.updStream {id : Nat} {f : Machine.Stream → Machine.Stream} (h : Keeps m q) : Keeps m (q.updStream id f) := h.upd

theorem Keeps.updChan {n : Nat} {f : ChanSt → ChanSt} (h : Keeps m q) : Keeps m (q.updChan n f) := h.upd

theorem Keeps.tally {u i : Nat} (h : Keeps m q) : Keeps m (q.tally u i) := h.tallyBy

theorem Keeps.trouble {b : Nat} (h : Keeps m q) : Keeps m (q.trouble b) := h.orR

theorem Keeps.countPacket {lane : Lane} {out : Bool} (h : Keeps m q) : Keeps m (q.countPacket lane out) := by
  unfold Mach.countPacket
  split
  · exact h
  · exact .ite h.upd h

theorem Keeps.enqueue {cls kind : Nat} {l : List Byte} (h : Keeps m q) : Keeps m (q.enqueue cls kind l) := h.upd

theorem Keeps.send {r : Reply} (h : Keeps m q) : Keeps m (q.send r) := .ite h.upd (.ite h.upd.enqueue.countPacket h.upd)

theorem Keeps.answer {hd : Hdr} {op status detail : Nat} {data : List Byte} (h : Keeps m q) : Keeps m (q.answer hd op status detail data) := h.send

theorem Keeps.setOutst {l : List Outst} (h : Keeps m q) : Keeps m (q.setOutst l) := h.upd

theorem Keeps.begin {hd : Hdr} {op : Nat} (h : Keeps m q) : Keeps m (q.begin hd op) := h.setOutst

theorem Keeps.accept {hd : Hdr} {op : Nat} (h : Keeps m q) : Keeps m (q.accept hd op) := h.begin.send

theorem Keeps.finish {lane : Lane} {ctx tag op status detail : Nat} {data : List Byte} (h : Keeps m q) :
    Keeps m (q.finish lane ctx tag op status detail data) :=
  h.setOutst.send

theorem Keeps.event {kind status detail : Nat} (h : Keeps m q) : Keeps m (q.event kind status detail) := .ite (.ite h h.upd) h

theorem Keeps.takeArrived {op : Nat} {hd : Hdr} (h : Keeps m q) : Keeps m (q.takeArrived op hd) := h.upd

theorem Keeps.command {op : Nat} {hd : Hdr} {param : List Byte} {body : Mach → Mach} (h : Keeps m q)
    (hb : ∀ r, Keeps m r → Keeps m (body r)) : Keeps m (q.command op hd param body) := by
  unfold Mach.command
  split
  · exact h.addF.trouble.tally
  · exact h.countPacket.takeArrived.addF.send
  · exact h
  · exact hb _ h.countPacket.takeArrived

/-! ### Ranges and streams that stop (Sys2Proof/Machine/StreamOps.lean) -/

theorem Keeps.showBudget (h : Keeps m q) : Keeps m q.showBudget := h.wrF.wrF.wrF.each (fun _ _ hr => hr.wrF)

theorem Keeps.setRangeState {n v : Nat} (h : Keeps m q) : Keeps m (q.setRangeState n v) := h.wrF

theorem Keeps.recordStop {n status cause instr rep station cond slot : Nat} (h : Keeps m q) :
    Keeps m (q.recordStop n status cause instr rep station cond slot) :=
  h.wrF.wrF.wrF.wrF.wrF.wrF.wr

theorem Keeps.unpin {n : Nat} (h : Keeps m q) : Keeps m (q.unpin n) := (h.each (fun _ _ hr => hr.updIsland)).wrF

theorem Keeps.releaseIslands {n : Nat} (h : Keeps m q) : Keeps m (q.releaseIslands n) := .ite h h.unpin

theorem Keeps.undefinedNorm {n : Nat} (h : Keeps m q) : Keeps m (q.undefinedNorm n) := .ite h.wr.wr.upd h

theorem Keeps.stopRange {s : Machine.Stream} {own : List StopAt} {n : Nat} (h : Keeps m q) : Keeps m (q.stopRange s own n) := by
  unfold Mach.stopRange
  extract_lets _ _ q₁ q₂ q₃ q₄ q₅ q₆
  have h₁ : Keeps m q₁ := by
    unfold q₁
    split
    · exact h.recordStop
    · split
      · exact h.recordStop
      · exact h.recordStop
  have h₂ : Keeps m q₂ := h₁.wr.setRangeState
  have h₃ : Keeps m q₃ := h₂.undefinedNorm
  have h₄ : Keeps m q₄ := h₃.upd
  have h₅ : Keeps m q₅ := h₄.setRange
  have h₆ : Keeps m q₆ := h₅.wrF
  exact h₆.wrF.releaseIslands

theorem Keeps.entryOver {c i status : Nat} (h : Keeps m q) : Keeps m (q.entryOver c i status) := h.updCtx

theorem Keeps.tellStarter {s : Machine.Stream} {status first : Nat} (h : Keeps m q) : Keeps m (q.tellStarter s status first) := by
  unfold Mach.tellStarter
  split
  · exact h.finish
  · exact h.entryOver

theorem Keeps.disarmRanges {mask : Nat} (h : Keeps m q) : Keeps m (q.disarmRanges mask) := h.each (fun _ _ hr => hr.wrF)

theorem Keeps.dropArms {p : ArmSt → Bool} {status detail : Nat} (h : Keeps m q) : Keeps m (q.dropArms p status detail) :=
  h.upd.foldl (fun _ _ hr => hr.disarmRanges.finish)

theorem Keeps.endArms {mask status : Nat} (h : Keeps m q) : Keeps m (q.endArms mask status) := h.dropArms

theorem Keeps.withdraw {mask : Nat} (h : Keeps m q) : Keeps m (q.withdraw mask) := h.upd

theorem Keeps.stopStream {id status : Nat} {own : List StopAt} (h : Keeps m q) : Keeps m (q.stopStream id status own) := by
  unfold Mach.stopStream
  split
  · exact h
  · extract_lets q₁ q₂ q₃ _ q₄ _ q₅
    have h₁ : Keeps m q₁ := .ite (h.each (fun _ _ hr => hr.stopRange)) h
    have h₂ : Keeps m q₂ := h₁.foldl (fun _ _ hr => .ite hr.tally hr)
    have h₃ : Keeps m q₃ := by
      unfold q₃
      refine .ite ?_ h₂
      split
      · exact h₂.tally
      · exact h₂
    have h₄ : Keeps m q₄ := h₃.upd
    have h₅ : Keeps m q₅ := .ite h₄.withdraw.endArms h₄
    exact h₅.tellStarter.trouble.showBudget

theorem Keeps.stopAll {id status cause : Nat} (h : Keeps m q) : Keeps m (q.stopAll id status cause) := by
  unfold Mach.stopAll
  split
  · exact h
  · exact h.stopStream

theorem Keeps.stopStreams {p : Machine.Stream → Bool} {status cause : Nat} (h : Keeps m q) : Keeps m (q.stopStreams p status cause) :=
  h.foldl (fun _ _ hr => hr.stopAll)

theorem Keeps.endRange {n : Nat} (h : Keeps m q) : Keeps m (q.endRange n) := h.recordStop.wr.setRangeState.setRange.wrF.wrF.releaseIslands

theorem Keeps.clearRange {n ctx : Nat} (h : Keeps m q) : Keeps m (q.clearRange n ctx) :=
  (h.withCsr (Sparse.wf_clear _ _ _)).setRange.wrF.setRangeState

/-! ### Cairn's log and trust state (Sys2Proof/Machine/CairnOps.lean) -/

theorem Keeps.log {event result arg remain : Nat} (h : Keeps m q) : Keeps m (q.log event result arg remain) := .ite h.upd.addF h.upd

theorem Keeps.setTrust {new : Nat} {cause : TrustCause} (h : Keeps m q) : Keeps m (q.setTrust new cause) := .ite h h.wrF.log

theorem Keeps.pulse {k attempt event : Nat} (h : Keeps m q) : Keeps m (q.pulse k attempt event) := h.wrF.log

/-! ### Optics and rings (Sys2Proof/Machine/Optics.lean) -/

theorem Keeps.setPortState {p v : Nat} (h : Keeps m q) : Keeps m (q.setPortState p v) := h.wrF

theorem Keeps.showLanes {p : Nat} (h : Keeps m q) : Keeps m (q.showLanes p) := by
  unfold Mach.showLanes
  exact h.wrF.wrF.updPort

theorem Keeps.trainPort {p : Nat} (h : Keeps m q) : Keeps m (q.trainPort p) := h.updPort.wr.setPortState.showLanes

theorem Keeps.setRingCode {r : Ring} {v : Nat} (h : Keeps m q) : Keeps m (q.setRingCode r v) := h.wrF

theorem Keeps.setRing {r : Ring} {x : RingSt} (h : Keeps m q) : Keeps m (q.setRing r x) := h.upd

theorem Keeps.countRings (h : Keeps m q) : Keeps m q.countRings := h.wrF

theorem Keeps.report {p status detail kind evDetail : Nat} (h : Keeps m q) : Keeps m (q.report p status detail kind evDetail) := h.updPort.event

theorem Keeps.ringsSettled (h : Keeps m q) : Keeps m q.ringsSettled := .ite h.wrF h

theorem Keeps.resweep {r : Ring} (h : Keeps m q) : Keeps m (q.resweep r) := h.setRing.setRingCode

theorem Keeps.fullSweep {r : Ring} {resonances : List Nat} {kLine : Nat} (h : Keeps m q) : Keeps m (fullSweep r resonances kLine q) :=
  h.when h.setRing

theorem Keeps.ringOut {r : Ring} (h : Keeps m q) : Keeps m (q.ringOut r) := h.setRingCode.countRings.trouble.tally.report.showLanes

theorem Keeps.toneCheck {r : Ring} {found : Option (Fin 8)} {heater : Int} (h : Keeps m q) : Keeps m (toneCheck r found heater q) := by
  unfold Machine.toneCheck
  refine h.when (.ite h.setRing.setRingCode.ringsSettled ?_)
  exact .ite (Keeps.ite h.addF.tally h).setRing.ringOut.ringsSettled (Keeps.ite h.addF.tally h).setRing

theorem Keeps.ringLoss {r : Ring} {heater : Int} (h : Keeps m q) : Keeps m (ringLoss r heater q) := h.when h.setRing.setRingCode.addF.tally

theorem Keeps.failover (h : Keeps m q) : Keeps m q.failover := .ite h.upd h

theorem Keeps.lightLost (h : Keeps m q) : Keeps m q.lightLost := .ite h.failover h.upd

theorem Keeps.lsuInsert {b : Fin 2} {hours lineLow toneBad : Nat} (h : Keeps m q) : Keeps m (lsuInsert b hours lineLow toneBad q) := h.when h.wr.wr

theorem Keeps.lsuStable {b : Fin 2} (h : Keeps m q) : Keeps m (lsuStable b q) :=
  h.when (.ite (h.wrF.wrF.wrF.wrF.upd.foldl (fun _ _ hr => hr.resweep)) h.wrF)

theorem Keeps.standbyAligned (h : Keeps m q) : Keeps m (standbyAligned q) := by
  unfold Machine.standbyAligned
  exact h.when h.wrF.wrF

theorem Keeps.lineLoss {line : Fin 8} {power : Int} (h : Keeps m q) : Keeps m (lineLoss line power q) := by
  unfold Machine.lineLoss
  exact h.when h.wrF.orR.wrF.lightLost

theorem Keeps.lsuFault {b : Fin 2} (h : Keeps m q) : Keeps m (lsuFault b q) := h.when (.ite h.wrF.lightLost h.wrF.wrF.wrF)

theorem Keeps.lsuRemoved {b : Fin 2} (h : Keeps m q) : Keeps m (lsuRemoved b q) :=
  h.when (.ite (h.wr.wr.each (fun _ _ hr => hr.wrF)).lightLost (h.wr.wr.each (fun _ _ hr => hr.wrF)).wrF)

theorem Keeps.failoverComplete (h : Keeps m q) : Keeps m (failoverComplete q) := h.when h.upd.wrF.wrF.wrF.wrF.wrF.trouble.tally

theorem Keeps.lsuWorn {b : Fin 2} (h : Keeps m q) : Keeps m (lsuWorn b q) := h.when h.wr.wrF

theorem Keeps.shutter {cs : List Circuit} {p : Fin 32} (h : Keeps m q) : Keeps m (q.shutter cs p) :=
  h.foldl (fun _ _ hr => .ite (.ite hr.setRingCode hr) (.ite hr hr.setRingCode))

theorem Keeps.setCircuits {cs : List Circuit} {service : Bool} (h : Keeps m q) : Keeps m (q.setCircuits cs service) :=
  h.upd.wrF.foldl (fun _ _ hr => hr.shutter)

theorem Keeps.setRxMap {l : List Nat} (h : Keeps m q) : Keeps m (q.setRxMap l) := h.each (fun _ _ hr => hr.wr)

theorem Keeps.meshSetBody {hd : Hdr} {mode : Nat} {rxMap : List Nat} {entries : List Word} (h : Keeps m q) :
    Keeps m (meshSetBody hd mode rxMap entries q) := by
  unfold Machine.meshSetBody
  refine .ite h.answer (.ite h.answer ?_)
  split
  · exact h.answer
  · split
    · exact h.answer
    · exact h.upd.wrF.begin

theorem Keeps.setCross {k : Nat} {v : Bool} (h : Keeps m q) : Keeps m (q.setCross k v) := h.upd

theorem Keeps.darkGroup {d : DarkWrite} (h : Keeps m q) : Keeps m (q.darkGroup d) := (h.foldl (fun _ _ hr => hr.pulse)).upd

theorem Keeps.retrainPorts (h : Keeps m q) : Keeps m q.retrainPorts := by
  unfold Mach.retrainPorts
  split
  · exact h
  · exact h.each (fun _ _ hr => hr.trainPort)

theorem Keeps.darkEnd {d : DarkWrite} (h : Keeps m q) : Keeps m (q.darkEnd d) :=
  .ite h.upd.wrF.retrainPorts.wrF.wr.finish h.upd.wrF.retrainPorts.wrF.trouble.event.finish

theorem Keeps.darkMapBody {hd : Hdr} {entries : List Word} (h : Keeps m q) : Keeps m (darkMapBody hd entries q) := by
  unfold Machine.darkMapBody
  refine .ite h.answer ?_
  split
  · exact h.answer
  · exact .ite h.answer (.ite h.answer (.ite h.wrF.wrF.begin.darkEnd h.wrF.wrF.begin.darkGroup))

theorem Keeps.darkNext {d : DarkWrite} (h : Keeps m q) : Keeps m (q.darkNext d) := .ite h.upd (.ite h.darkEnd h.darkGroup)

theorem Keeps.trimAttempt {k : Nat} {verified : Bool} (h : Keeps m q) : Keeps m (trimAttempt k verified q) := by
  unfold Machine.trimAttempt
  split
  · exact h
  · split
    · exact h
    · exact .ite h.setCross.darkNext (.ite (Keeps.ite h.addF.tally h).setCross.upd.darkNext h.pulse.upd)

theorem Keeps.darkReset (h : Keeps m q) : Keeps m q.darkReset := by
  unfold Mach.darkReset
  split
  · exact h
  · exact (h.foldl (fun _ _ hr => .ite hr.setCross hr.pulse)).upd.wrF.wrF

/-! ### Memory and ECC (Sys2Proof/Machine/MemOps.lean) -/

theorem Keeps.setPoison {w : Nat} (h : Keeps m q) : Keeps m (q.setPoison w) := by
  unfold Mach.setPoison
  extract_lets _ q₁
  have h₁ : Keeps m q₁ := h.upd
  split
  · exact h₁.tally
  · exact h₁

theorem Keeps.showDirty {s : Nat} (h : Keeps m q) : Keeps m (q.showDirty s) := h.wrF.wrF

theorem Keeps.markDirty {pa : Nat} (h : Keeps m q) : Keeps m (q.markDirty pa) := by
  unfold Mach.markDirty
  split
  · exact .ite h h.updStack.showDirty
  · exact h

theorem Keeps.writePa {pa : Nat} {l : List Byte} (h : Keeps m q) : Keeps m (q.writePa pa l) := by
  unfold Mach.writePa
  refine .ite h ?_
  extract_lets _ mem frames
  have h₁ : Keeps m { q with mem := mem } := h.withMem rfl (Sparse.wf_putRun _ _ _ _)
  exact h₁.each fun _ _ hr => hr.markDirty

theorem Keeps.writeVa {x : Ctx} {va : Nat} {l : List Byte} (h : Keeps m q) : Keeps m (q.writeVa x va l) := by
  induction l generalizing q va with
  | nil => exact h
  | cons b t ih =>
    unfold Mach.writeVa
    split
    · exact ih (.ite h h.writePa)
    · exact ih h

theorem Keeps.writeRuns {l : List (Nat × Byte)} (h : Keeps m q) : Keeps m (q.writeRuns l) := h.foldl (fun _ _ hr => hr.writePa)

theorem Keeps.zeroMem {p : Nat → Bool} (h : Keeps m q) : Keeps m (q.zeroMem p) := h.withMem rfl (Sparse.wf_clear _ _ p)

theorem Keeps.countCe {w : Nat} (h : Keeps m q) : Keeps m (q.countCe w) := by
  unfold Mach.countCe
  split
  · exact h.addF.tally
  · exact h.addF.tally
  · exact h

theorem Keeps.eccLog {log lo hi src range w stack : Nat} (h : Keeps m q) : Keeps m (q.eccLog log lo hi src range w stack) :=
  .ite h.wrF h.wr.wr.wr.event

theorem Keeps.countUe {src range w : Nat} (h : Keeps m q) : Keeps m (q.countUe src range w) := by
  unfold Mach.countUe
  split
  · exact h.addF.eccLog.trouble.tally
  · exact h.addF.eccLog.trouble.tally
  · exact h

theorem Keeps.checkWords {src range : Nat} {e : Ecc} {words : List Nat} (h : Keeps m q) : Keeps m (q.checkWords src range e words) :=
  (h.foldl fun _ _ hr => hr.countCe).foldl fun _ _ hr => hr.countUe

theorem Keeps.checkTile {n : Nat} {e : Ecc} (h : Keeps m q) : Keeps m (q.checkTile n e).1 := .ite h.addF.addF h.addF.addF.trouble

/-- The tile registers that an instruction reads are checked; one that reads none checks nothing. -/
theorem Keeps.tilesChecked {c : Prop} [Decidable c] {n : Nat} {e : Ecc} (h : Keeps m q) : Keeps m (if c then (q, false) else q.checkTile n e).1 := by
  split
  · exact h
  · exact h.checkTile

theorem Keeps.tileChecked {c : Prop} [Decidable c] {n : Nat} {e : Ecc} (h : Keeps m q) : Keeps m (if c then q.checkTile n e else (q, false)).1 := by
  split
  · exact h.checkTile
  · exact h

theorem Keeps.issueTxn {t : HostTxn} (h : Keeps m q) : Keeps m (q.issueTxn t) := h.upd.enqueue

theorem Keeps.hostTxn {write : Bool} {pa len : Nat} {data : List Byte} {merge : List (Nat × Nat × Nat)} {owner : TxnOwner} (h : Keeps m q) :
    Keeps m (q.hostTxn write pa len data merge owner) :=
  .ite h.issueTxn h.upd

theorem Keeps.endTxn {t : HostTxn} (h : Keeps m q) : Keeps m (q.endTxn t) := by
  unfold Mach.endTxn
  extract_lets +onlyGivenNames _ q₁
  have h₁ : Keeps m q₁ := h.upd
  split
  · exact h₁
  · exact h₁.upd.issueTxn

theorem Keeps.reown {f : TxnOwner → TxnOwner} (h : Keeps m q) : Keeps m (q.reown f) := h.upd

/-! ### Placing and walking (Sys2Proof/Machine/StreamCtl.lean) -/

theorem Keeps.progress {n : Nat} (h : Keeps m q) : Keeps m (q.progress n) := by
  unfold Mach.progress
  split
  · exact h
  · exact h.updStream

theorem Keeps.placeFault {n : Nat} {s : Machine.Stream} {e : Ewx} {cause : Nat} (h : Keeps m q) : Keeps m (q.placeFault n s e cause) := h.stopStream

theorem Keeps.advance {n k : Nat} {a : AxSnap} {rep : Nat} (h : Keeps m q) : Keeps m (q.advance n k a rep) := h.each (fun _ _ hr => hr.wr)

theorem Keeps.place {n : Nat} {s : Machine.Stream} {e : Ewx} {o : SOp} {cause : Option Nat} (h : Keeps m q) : Keeps m (q.place n s e o cause) := by
  unfold Mach.place
  extract_lets +onlyGivenNames _ _
  refine .ite h.placeFault ?_
  split
  · exact h.placeFault
  · exact .ite (Keeps.ite h.setRange.advance h.setRange).advance (.ite h.setRange.advance h.setRange)

theorem Keeps.settle {n : Nat} (h : Keeps m q) : Keeps m (q.settle n) := by
  unfold Mach.settle
  split
  · exact h
  · exact .ite h.updRange h

/-- A stream stops where its repeat met a stop. -/
theorem Keeps.flowBegin {n : Nat} {f : Mach → Machine.Stream → Begin} (h : Keeps m q) (hf : ∀ s, BeginKeeps m (f q s)) :
    Keeps m (q.flowBegin n f) := by
  unfold Mach.flowBegin
  split
  · exact h
  next s _ =>
    refine .ite h ?_
    have hs := hf s
    split
    · exact h
    next e => exact (e ▸ hs).of_ok
    next e => exact (e ▸ hs).of_stop.stopStream

theorem Keeps.startWalks {n st seq rep : Nat} {l : List (Nat × Nat × Bool)} (h : Keeps m q) : Keeps m (q.startWalks n st seq rep l) := h.updRange

theorem Keeps.recordFault {n st kind handle : Nat} {write : Bool} {pos va : Nat} (h : Keeps m q) :
    Keeps m (q.recordFault n st kind handle write pos va) :=
  (Keeps.ite h.tally h).wr.wr.wr

theorem Keeps.access {n st rep : Nat} {lockstep : Bool} {p : Placed} {l : List Access} {k : Mach → Begin} (h : Keeps m q)
    (hk : ∀ r, Keeps m r → BeginKeeps m (k r)) : BeginKeeps m (q.access n st lockstep p rep l k) := by
  unfold Mach.access
  split
  · exact .ok h.startWalks
  · exact .stop h.recordFault
  · exact hk _ h.updRange

theorem Keeps.beginRep {n st seq : Nat} (h : Keeps m q) : Keeps m (q.beginRep n st seq) := h.updRange

theorem Keeps.didRep {n st seq : Nat} (h : Keeps m q) : Keeps m (q.didRep n st seq) := h.updRange.progress

theorem Keeps.walkDone {n st : Nat} (h : Keeps m q) : Keeps m (q.walkDone n st) := by
  unfold Mach.walkDone
  split
  · extract_lets q₁
    have h₁ : Keeps m q₁ := h.updRange
    split
    · exact h₁.updRange
    · split
      · exact .ite h₁.recordFault.stopStream h₁
      · exact h₁
  · exact h

/-! ### Flags (Sys2Proof/Machine/Flags.lean) -/

theorem Keeps.convFlags {n fl : Nat} (h : Keeps m q) : Keeps m (q.convFlags n fl) := .ite h h.orR

theorem Keeps.tarnFlags {s fl : Nat} (h : Keeps m q) : Keeps m (q.tarnFlags s fl) := .ite h h.orR

theorem Keeps.nanMade {n : Nat} {b : Bool} (h : Keeps m q) : Keeps m (q.nanMade n b) := .ite h.orR h

theorem Keeps.normNan {n : Nat} {b : Bool} (h : Keeps m q) : Keeps m (q.normNan n b) := .ite h.orR h

/-! ### Stores performed (Sys2Proof/Machine/Operands.lean) -/

theorem Keeps.perform {n : Nat} {x : Ctx} {b : ByteMap} {e : Ecc} {owner : TxnOwner} (h : Keeps m q) : Keeps m (q.perform n x b e owner) := by
  unfold Mach.perform
  extract_lets _ _ _ _ _ q₁ q₂ q₃ _
  have h₁ : Keeps m q₁ := h.checkWords
  have h₂ : Keeps m q₂ := h₁.writeRuns
  have h₃ : Keeps m q₃ := h₂.foldl (fun _ _ hr => hr.setPoison)
  refine Keeps.foldl ?_ fun _ _ hr => ?_
  · exact h₃
  · split
    · exact hr
    · exact .ite hr.hostTxn hr.hostTxn

/-! ### CTRL and SYNC (Sys2Proof/Machine/Ctrl.lean) -/

theorem Keeps.ctrlFence {n : Nat} (h : Keeps m q) : Keeps m (ctrlFence n q) := by
  unfold Machine.ctrlFence
  split
  · exact h
  · exact h.updRange.settle

theorem Keeps.ctrlLoop {n : Nat} (h : Keeps m q) : Keeps m (ctrlLoop n q) := by
  unfold Machine.ctrlLoop
  split
  · exact h
  · exact .ite h.placeFault (.ite h.setRange h.setRange)

theorem Keeps.ctrlEndloop {n : Nat} (h : Keeps m q) : Keeps m (ctrlEndloop n q) := by
  unfold Machine.ctrlEndloop
  split
  · exact h
  · extract_lets +onlyGivenNames _
    split
    · exact h.setRange
    · exact .ite h.setRange h.setRange

theorem Keeps.ctrlSetlc {n : Nat} (h : Keeps m q) : Keeps m (ctrlSetlc n q) := by
  unfold Machine.ctrlSetlc
  split
  · exact h
  · exact h.wr.updRange

theorem Keeps.ctrlSetax {n : Nat} (h : Keeps m q) : Keeps m (ctrlSetax n q) := by
  unfold Machine.ctrlSetax
  split
  · exact h
  · exact .ite h.placeFault h.wr.updRange

theorem Keeps.ctrlAddax {n : Nat} (h : Keeps m q) : Keeps m (ctrlAddax n q) := by
  unfold Machine.ctrlAddax
  split
  · exact h
  · exact .ite h.placeFault h.wr.updRange

theorem Keeps.ctrlSetinc {n : Nat} (h : Keeps m q) : Keeps m (ctrlSetinc n q) := by
  unfold Machine.ctrlSetinc
  split
  · exact h
  · exact h.wr.updRange

theorem Keeps.retire {n st : Nat} (h : Keeps m q) : Keeps m (q.retire n st) := h.updRange.settle

theorem Keeps.idle {n st : Nat} {ph : Phase} (h : Keeps m q) : Keeps m (idle n st ph q) := by
  unfold Machine.idle
  split
  · split
    · exact h
    · exact .ite h (.ite h.updRange h.place)
  · split
    · exact .ite h.retire h
    · exact h

theorem Keeps.addCounter {n : Nat} {s : Machine.Stream} {idx counter inc : Nat} (h : Keeps m q) : Keeps m (q.addCounter n s idx counter inc) :=
  .ite h.tally.stopStream h.wr

theorem Keeps.syncSignal {n : Nat} (h : Keeps m q) : Keeps m (syncSignal n q) := by
  unfold Machine.syncSignal
  split
  · exact h
  · exact .ite h.placeFault (.ite h.setRange.addCounter h.setRange)

theorem Keeps.syncFire {n i : Nat} (h : Keeps m q) : Keeps m (syncFire n i q) := by
  unfold Machine.syncFire
  split
  · exact .ite h.updRange.addCounter h
  · exact h

theorem Keeps.syncWait {n : Nat} (h : Keeps m q) : Keeps m (syncWait n q) := by
  unfold Machine.syncWait
  split
  · exact h
  · exact .ite h.placeFault h.setRange

theorem Keeps.waitSatisfied {n st : Nat} (h : Keeps m q) : Keeps m (waitSatisfied n st q) := by
  unfold Machine.waitSatisfied
  split
  · exact h
  · refine .ite ?_ ?_
    · split
      · exact .ite h.updRange h
      · exact h
    · split
      · exact .ite h.updRange h
      · exact h

theorem Keeps.mmaDone {n : Nat} (h : Keeps m q) : Keeps m (q.mmaDone n) := h.setRange.wrF

theorem Keeps.setNormAcc {n v : Nat} (h : Keeps m q) : Keeps m (q.setNormAcc n v) := h.wr.wr

theorem Keeps.kernelDone {n : Nat} {e : Ewx} (h : Keeps m q) : Keeps m (q.kernelDone n e) := .ite h.wrF.setNormAcc h.wrF

theorem Keeps.gatherDone {n : Nat} (h : Keeps m q) : Keeps m (q.gatherDone n) := h.updRange.wrF

theorem Keeps.instrComplete {n st : Nat} (h : Keeps m q) : Keeps m (instrComplete n st q) := by
  unfold Machine.instrComplete
  split
  · exact h
  · refine .ite h ?_
    extract_lets q₁
    have h₁ : Keeps m q₁ := by
      unfold q₁
      split
      · exact h.mmaDone
      · exact h.kernelDone
      · exact h.gatherDone
      · exact h
    exact h₁.retire

theorem Keeps.streamEnd {n : Nat} (h : Keeps m q) : Keeps m (streamEnd n q) := by
  unfold Machine.streamEnd
  split
  · exact h
  · exact .ite h (.ite h.stopStream (h.each (fun _ _ hr => hr.endRange)).upd.endArms.tellStarter.showBudget)

theorem Keeps.noProgress {n : Nat} (h : Keeps m q) : Keeps m (noProgress n q) := by
  unfold Machine.noProgress
  split
  · exact h
  · exact .ite h h.stopAll

/-! ### Talus and Scree (Sys2Proof/Machine/Talus.lean) -/

theorem Keeps.storePlace {n : Nat} (h : Keeps m q) : Keeps m (storePlace n q) := by
  unfold Machine.storePlace
  split
  · exact h
  · exact h.place

theorem Keeps.markPlace {n : Nat} (h : Keeps m q) : Keeps m (markPlace n q) := by
  unfold Machine.markPlace
  split
  · exact h
  · exact h.place

theorem Keeps.screePlace {n : Nat} {o : SOp} (h : Keeps m q) : Keeps m (screePlace n o q) := by
  unfold Machine.screePlace
  split
  · exact h
  · exact h.place

theorem Keeps.addOne {n : Nat} {x : Ctx} {d : Desc} {e : Ecc} {c : List Int} {v : Machine.Num} (h : Keeps m q) : Keeps m (q.addOne n x d e c v) := by
  unfold Mach.addOne
  split
  · exact h
  · exact .ite h.countUe.setPoison (Keeps.ite h.countCe h).writePa.convFlags

theorem Keeps.scatterAddAll {n : Nat} {x : Ctx} {d : Desc} {t : Tile} {o : List Int} {rows : List (Nat × Nat)} {e : Ecc} (h : Keeps m q) :
    Keeps m (q.scatterAddAll n x d t o rows e) :=
  h.upd.foldl (fun _ _ hr => hr.foldl (fun _ _ hr1 => hr1.foldl (fun _ _ hr2 => .ite hr2.addOne hr2)))

theorem Keeps.storeRep {n : Nat} {s : Machine.Stream} {x : Ctx} {d : Desc} {p : Placed} {t : Tile} {e : Ecc} (h : Keeps m q) :
    BeginKeeps m (q.storeRep n s x d p t e) := by
  unfold Mach.storeRep
  extract_lets rep out sectors owner
  refine .ite .held (h.access fun r hr => ?_)
  extract_lets c q₁ q₂
  have hc : Keeps m c.1 := hr.tilesChecked
  have h₂ : Keeps m q₂ := hc.convFlags.perform.updRange
  exact .ite (.stop hc) (.ok (.ite h₂.didRep h₂))

theorem Keeps.markRep {n : Nat} {p : Placed} (h : Keeps m q) : BeginKeeps m (q.markRep n p) := .ite .held (.ok h.setRange)

theorem Keeps.talusBegin {n : Nat} {ecc : Ecc} {s : Machine.Stream} (h : Keeps m q) : BeginKeeps m (talusBegin n ecc q s) := by
  unfold Machine.talusBegin
  split
  · exact .held
  · exact .held
  · extract_lets _
    refine .ite .held ?_
    split
    · exact .ite .held h.markRep
    · split
      · exact .held
      · split
        · exact .held
        · split
          · exact .held
          · split
            · exact .stop h
            · exact h.storeRep
    · exact .held

theorem Keeps.storeBegin {n : Nat} {ecc : Ecc} {s : Machine.Stream} (h : Keeps m q) : BeginKeeps m (storeBegin n ecc q s) := by
  unfold Machine.storeBegin
  split
  · exact .ite h.talusBegin .held
  · exact .held

theorem Keeps.markBegin {n : Nat} {s : Machine.Stream} (h : Keeps m q) : BeginKeeps m (markBegin n q s) := by
  unfold Machine.markBegin
  split
  · exact .ite h.talusBegin .held
  · exact .held

theorem Keeps.talusMark {n : Nat} {ph : Phase} (h : Keeps m q) : Keeps m (talusMark n ph q) := by
  unfold Machine.talusMark
  split
  · exact h.markPlace
  · exact h.flowBegin (fun _ => h.markBegin)

theorem Keeps.markAccepted {n : Nat} (h : Keeps m q) : Keeps m (markAccepted n q) := by
  unfold Machine.markAccepted
  split
  · exact h
  · exact h.updRange.didRep

theorem Keeps.gatherRep {n : Nat} {x : Ctx} {d : Desc} {p : Placed} {rows : List (Nat × Nat)} {e : Ecc} (h : Keeps m q) :
    BeginKeeps m (q.gatherRep n x d p rows e) :=
  .ite (.stop h.checkWords.tallyBy) (.ok h.checkWords.tallyBy.updRange)

theorem Keeps.scatterRep {n : Nat} {x : Ctx} {d : Desc} {p : Placed} {rows : List (Nat × Nat)} {sectors : List Nat} {e : Ecc} (h : Keeps m q) :
    BeginKeeps m (q.scatterRep n x d p rows sectors e) :=
  .ite (.stop h.checkTile) (.ok (Keeps.ite h.checkTile.scatterAddAll h.checkTile.drawn.perform).updRange.beginRep.didRep)

theorem Keeps.screeRows {n : Nat} {s : Machine.Stream} {x : Ctx} {d i : Desc} {p : Placed} {e : Ecc} (h : Keeps m q) :
    BeginKeeps m (q.screeRows n s x d i p e) := by
  unfold Mach.screeRows
  extract_lets +onlyGivenNames _ _ _ _
  split
  · exact .stop h.recordFault
  · exact .ite .held (h.access (fun _ hr => .ite hr.addF.tallyBy.scatterRep hr.addF.tallyBy.gatherRep))

theorem Keeps.screeBegin {n : Nat} {ecc : Ecc} {s : Machine.Stream} (h : Keeps m q) : BeginKeeps m (screeBegin n ecc q s) := by
  unfold Machine.screeBegin
  split
  · exact .held
  · exact .held
  · extract_lets _
    refine .ite .held ?_
    split
    · split
      · exact .held
      · split
        · exact .stop h
        · exact h.access (fun _ hr => .ite (.stop hr.checkWords.tallyBy) hr.checkWords.tallyBy.screeRows)
    · exact .held

theorem Keeps.screeFull {n : Nat} (h : Keeps m q) : Keeps m (q.screeFull n) := by
  unfold Mach.screeFull
  split
  · exact .ite h h.updRange.didRep
  · exact h

/-! ### Copies (Sys2Proof/Machine/Copy.lean) -/

theorem Keeps.sealFrame {f : Nat} (h : Keeps m q) : Keeps m (q.sealFrame f) := .ite h h.upd

theorem Keeps.beginCopy {x : Ctx} {j : CopyJob} (h : Keeps m q) : Keeps m (q.beginCopy x j) := h.upd.foldl (fun _ _ hr => hr.hostTxn)

theorem Keeps.endCopy {j : CopyJob} {status detail moved : Nat} (h : Keeps m q) : Keeps m (q.endCopy j status detail moved) := by
  unfold Mach.endCopy
  extract_lets q₁
  have h₁ : Keeps m q₁ := h.upd
  split
  · exact h₁.finish
  · exact h₁.entryOver

theorem Keeps.storeCopy {x : Ctx} {j : CopyJob} {w : List BitWrite} {e : Ecc} {status detail moved : Nat} (h : Keeps m q) :
    Keeps m (q.storeCopy x j w e status detail moved) :=
  .ite h.perform.endCopy h.perform.upd

theorem Keeps.plainCopy {x : Ctx} {j : CopyJob} {e : Ecc} (h : Keeps m q) : Keeps m (q.plainCopy x j e) := h.checkWords.storeCopy

theorem Keeps.decryptCopy {x : Ctx} {j : CopyJob} {slot : Nat} {e : Ecc} (h : Keeps m q) : Keeps m (q.decryptCopy x j slot e) := by
  unfold Mach.decryptCopy
  extract_lets +onlyGivenNames _
  refine .ite h.endCopy ?_
  extract_lets +onlyGivenNames _ _ _ q₁
  have h₁ : Keeps m q₁ := h.checkWords
  refine .ite h₁.endCopy (.ite h₁.endCopy ?_)
  extract_lets _ _ _ _ _ _ q₂
  have h₂ : Keeps m q₂ := .ite (h₁.foldl (fun _ _ hr => hr.sealFrame)) h₁
  split
  · exact h₂.storeCopy
  · exact h₂.trouble.tally.storeCopy
  · exact h₂.storeCopy

theorem Keeps.advanceCopy {j : CopyJob} {e : Ecc} (h : Keeps m q) : Keeps m (q.advanceCopy j e) := by
  unfold Mach.advanceCopy
  refine .ite h (.ite h.endCopy ?_)
  refine .ite h.endCopy ?_
  split
  · exact h.endCopy
  · split
    · exact h.decryptCopy
    · exact h.plainCopy

/-! ### Islands (Sys2Proof/Machine/PowerOps.lean) -/

theorem Keeps.setFreq {i kHz : Nat} (h : Keeps m q) : Keeps m (q.setFreq i kHz) := by
  unfold Mach.setFreq
  exact h.updIsland

theorem Keeps.voltageDone {i : Nat} (h : Keeps m q) : Keeps m (q.voltageDone i) := h.updIsland

theorem Keeps.runRange {n kHz : Nat} {pinned : Bool} (h : Keeps m q) : Keeps m (q.runRange n kHz pinned) :=
  h.each (fun _ _ hr => hr.updIsland.setFreq)

/-! ### Frames of a port (Sys2Proof/Machine/RidgeOps.lean) -/

theorem Keeps.showReplay {p : Nat} (h : Keeps m q) : Keeps m (q.showReplay p) := h.wrF

theorem Keeps.emit {p : Nat} {f : Frame} {turn : Nat} (h : Keeps m q) : Keeps m (q.emit p f turn) := h.updPort.upd.showReplay

theorem Keeps.pumpN {n p : Nat} (h : Keeps m q) : Keeps m (Mach.pumpN n p q) := by
  induction n generalizing q with
  | zero => exact h
  | succ n ih =>
    unfold Mach.pumpN
    split
    · exact ih h.emit
    · exact h

theorem Keeps.pump {p : Nat} (h : Keeps m q) : Keeps m (q.pump p) := h.pumpN

theorem Keeps.sendOn {p : Nat} {f : Frame} (h : Keeps m q) : Keeps m (q.sendOn p f) := .ite h h.updPort.pump

theorem Keeps.idleFrame {p cls credit : Nat} (h : Keeps m q) : Keeps m (q.idleFrame p cls credit) := h.upd

theorem Keeps.sendRun {n p maxData off : Nat} {make : Bool → List Byte → Frame} {l : List Byte} {poison : List Nat} (h : Keeps m q) :
    Keeps m (q.sendRun n p make maxData off l poison) := by
  induction n generalizing q off l with
  | zero => exact h
  | succ n ih => exact .ite h (ih h.sendOn)

theorem Keeps.acked {p : Nat} {src : Option Nat} {ack cls credit : Nat} (h : Keeps m q) : Keeps m (q.acked p src ack cls credit) :=
  h.updPort.showReplay.pump

theorem Keeps.replayFrom {p seq : Nat} (h : Keeps m q) : Keeps m (q.replayFrom p seq) := h.upd

theorem Keeps.rxError {p : Nat} (h : Keeps m q) : Keeps m (q.rxError p) := .ite h h.updPort.addF.tally.sendOn

theorem Keeps.flushPort {p : Nat} (h : Keeps m q) : Keeps m (q.flushPort p) := h.updPort.showReplay

theorem Keeps.portDown {p : Nat} (h : Keeps m q) : Keeps m (q.portDown p) := h.setPortState.wrF.wr.updPort.flushPort.showLanes.event.trouble.tally

theorem Keeps.messageFrame {p : Nat} {c : Channel} {f : Frame} (h : Keeps m q) : Keeps m (q.messageFrame p c f) := by
  unfold Mach.messageFrame
  extract_lets +onlyGivenNames _ _
  split
  · exact h.upd
  · exact h.updChan.upd

theorem Keeps.forward {p : Nat} {f : Frame} (h : Keeps m q) : Keeps m (q.forward p f) := by
  unfold Mach.forward
  split
  · exact h.sendOn
  · exact h.addF.tally

theorem Keeps.deliverFrame {p : Nat} {f : Frame} (h : Keeps m q) : Keeps m (q.deliverFrame p f) := by
  unfold Mach.deliverFrame
  refine .ite h ?_
  split
  · exact h.idleFrame
  · exact .ite h.updPort (.ite h.messageFrame.idleFrame h.idleFrame)

theorem Keeps.takeAck {p : Nat} {f : Frame} (h : Keeps m q) : Keeps m (q.takeAck p f) := by
  unfold Mach.takeAck
  extract_lets q₁
  have h₁ : Keeps m q₁ := h.acked
  split
  · exact .ite h₁.acked h₁
  · exact h₁

theorem Keeps.tagFailed {p : Nat} (h : Keeps m q) : Keeps m (q.tagFailed p) :=
  .ite h.addF.tally.updPort.trouble.rxError.portDown h.addF.tally.updPort.trouble.rxError

theorem Keeps.frameReceive {p : Nat} {f : Frame} {rx : FrameRx} (h : Keeps m q) : Keeps m (frameReceive p f rx q) := by
  unfold Machine.frameReceive
  extract_lets +onlyGivenNames q₁ q₂
  have h₁ : Keeps m q₁ := h.addF
  have h₂ : Keeps m q₂ := .ite h₁.addF.tally h₁
  refine .ite h₂ (.ite h₂.rxError (.ite (Keeps.ite h₂.forward h₂).rxError (.ite h₂.tagFailed ?_)))
  refine .ite (Keeps.ite h₂ h₂.updPort).takeAck (.ite h₂ (.ite (.ite h₂ h₂.rxError) ?_))
  extract_lets q₃ q₄
  have hack : Keeps m q₄ := h₂.updPort.takeAck
  exact .ite hack.idleFrame (.ite hack.forward.idleFrame (.ite hack.deliverFrame.idleFrame hack.deliverFrame))

theorem Keeps.replayRequest {p seq : Nat} (h : Keeps m q) : Keeps m (replayRequest p seq q) := .ite h.replayFrom h

/-! ### Messages and reductions (Sys2Proof/Machine/Saddle.lean) -/

theorem Keeps.linkPlace {n : Nat} {o : SOp} (h : Keeps m q) : Keeps m (linkPlace n o q) := by
  unfold Machine.linkPlace
  split
  · exact h
  · exact h.place

theorem Keeps.sendMessage {ch : Channel} {l : List Byte} {poison : List Nat} (h : Keeps m q) : Keeps m (q.sendMessage ch l poison) := by
  unfold Mach.sendMessage
  extract_lets +onlyGivenNames _ q₁
  have h₁ : Keeps m q₁ := h.updChan
  split
  · exact h₁
  · exact h₁.sendRun

theorem Keeps.sendRep {n : Nat} {s : Machine.Stream} {x : Ctx} {d : Desc} {ch : Channel} {p : Placed} {e : Ecc} (h : Keeps m q) :
    BeginKeeps m (q.sendRep n s x d ch p e) := by
  unfold Mach.sendRep
  extract_lets +onlyGivenNames _ _
  split
  · exact .stop h
  · exact .ok h.checkWords.sendMessage.drawn.beginRep.didRep

theorem Keeps.recvClaim {n : Nat} (h : Keeps m q) : Keeps m (q.recvClaim n) := by
  unfold Mach.recvClaim
  split
  · exact h
  · refine .ite ?_ h
    split
    · exact h.updChan.didRep
    · exact h

theorem Keeps.linkBegin {n : Nat} {ecc : Ecc} {s : Machine.Stream} (h : Keeps m q) : BeginKeeps m (linkBegin n ecc q s) := by
  unfold Machine.linkBegin
  split
  · exact .held
  · exact .held
  · refine .ite .held ?_
    split
    · split
      · exact h.sendRep
      · exact .held
    · exact .ite .held (.ok h.beginRep.recvClaim)
    · exact .ok h.beginRep
    · exact .held

theorem Keeps.linkBeginOf {o : SOp} {n : Nat} {ecc : Ecc} {s : Machine.Stream} (h : Keeps m q) : BeginKeeps m (linkBeginOf o n ecc q s) := by
  unfold Machine.linkBeginOf
  split
  · exact .ite h.linkBegin .held
  · exact .held

theorem Keeps.sendItems {n p k : Nat} {sub : Nat → List Byte} {make : Bool → List Byte → Frame} {fell : Bool} {l : List WireItem}
    (h : Keeps m q) : Keeps m (q.sendItems n p sub make k fell l) := by
  induction n generalizing q l with
  | zero => exact h
  | succ n ih =>
    unfold Mach.sendItems
    split
    · exact h
    · exact ih (.ite h.sendOn.addF.tally h.sendOn)

theorem Keeps.sendTile {po : Posted} {ch : Channel} {rep : Nat} {result : Bool} {cells : List Cell} {p dest at_ : Nat} (h : Keeps m q) :
    Keeps m (q.sendTile po ch rep result cells p dest at_) :=
  (Keeps.ite h.orR h).sendItems

theorem Keeps.updPosting {k : InstKey} {f : Posted → Posted} (h : Keeps m q) : Keeps m (q.updPosting k f) := h.upd

theorem Keeps.sumFlags {p : Nat} {norm : Bool} {l : List Cell} (h : Keeps m q) : Keeps m (q.sumFlags p norm l) :=
  .ite (Keeps.ite h.orR h).orR (.ite h.orR h)

theorem Keeps.setPartial {k : InstKey} {rep : Nat} {result : Bool} {l : List Cell} (h : Keeps m q) : Keeps m (q.setPartial k rep result l) := h.upd

theorem Keeps.postingOver {k : InstKey} {r : ReduceSpec} (h : Keeps m q) : Keeps m (q.postingOver k r) := h.upd

theorem Keeps.storeFinal {po : Posted} {ch : Channel} {rep : Nat} {cells : List Cell} {e : Ecc} (h : Keeps m q) :
    Keeps m (q.storeFinal po ch rep cells e) := by
  unfold Mach.storeFinal
  extract_lets _ q₁ _ q₂
  have h₁ : Keeps m q₁ := by
    unfold q₁
    split
    · exact h
    · split
      · exact h
      · exact h.perform.foldl (fun _ _ hr => hr.foldl (fun _ _ hr1 => hr1.setPoison))
  have h₂ : Keeps m q₂ := .ite h₁.updCtx h₁
  exact h₂.updPosting.postingOver

theorem Keeps.towardPeer {po : Posted} {ch : Channel} {rep : Nat} {result : Bool} {cells : List Cell} {at_ : Option Nat} (h : Keeps m q) :
    Keeps m (q.towardPeer po ch rep result cells at_) := by
  unfold Mach.towardPeer
  split
  · exact h.sendTile
  · exact h

theorem Keeps.towardChildren {po : Posted} {ch : Channel} {rep : Nat} {cells : List Cell} {at_ : Option Nat} (h : Keeps m q) :
    Keeps m (q.towardChildren po ch rep cells at_) :=
  .ite h.sendTile h

theorem Keeps.finish_ {po : Posted} {ch : Channel} {rep : Nat} {sum : List Cell} {at_ : Option Nat} {e : Ecc} (h : Keeps m q) :
    Keeps m (q.finish_ po ch rep sum at_ e) := by
  unfold Mach.finish_
  extract_lets _ q₁
  have h₁ : Keeps m q₁ := by
    unfold q₁
    split
    · exact h.towardPeer
    · exact h
    · exact h.towardChildren
  exact h₁.storeFinal

theorem Keeps.advanceTile {po : Posted} {ch : Channel} {d : Desc} {rep : Nat} {at_ : Option Nat} {e : Ecc} (h : Keeps m q) :
    Keeps m (q.advanceTile po ch d rep at_ e) := by
  unfold Mach.advanceTile
  extract_lets +onlyGivenNames _ _ _
  refine .ite (.ite (.ite h.setPartial.finish_ h.setPartial.towardPeer) h) ?_
  split
  · exact h
  · extract_lets +onlyGivenNames _
    exact .ite h.updPosting.towardPeer (.ite (.ite h.updPosting.setPartial.sumFlags.finish_ h.updPosting.setPartial.sumFlags.towardPeer) h)

theorem Keeps.readAhead {n : Nat} {k : InstKey} {e : Ecc} (h : Keeps m q) : Keeps m (Mach.readAhead n k e q) := by
  induction n generalizing q with
  | zero => exact h
  | succ n ih =>
    unfold Mach.readAhead
    split
    · exact h
    split
    · extract_lets limit bytes cells words q₁ q₂ q₃ q₄
      refine .ite h (.ite ?_ (.ite h ?_))
      · split
        · exact h.stopStream
        · exact h
      · have h₁ : Keeps m q₁ := h.checkWords.drawn
        have h₂ : Keeps m q₂ := h₁.updPosting
        have h₃ : Keeps m q₃ := .ite h₂.setPartial h₂.updPosting
        have h₄ : Keeps m q₄ := .ite h₃.didRep h₃
        exact ih h₄.advanceTile.postingOver
    · exact h

theorem Keeps.postingStart {n i : Nat} {ecc : Ecc} (h : Keeps m q) : Keeps m (postingStart n i ecc q) := by
  unfold Machine.postingStart
  split
  · exact .ite h (.ite h h.setRange.upd.readAhead)
  · exact h

theorem Keeps.showActive {p : Nat} (h : Keeps m q) : Keeps m (q.showActive p) := h.wrF

theorem Keeps.resultTile {po : Posted} {ch : Channel} {d : Desc} {rep p : Nat} {e : Ecc} (h : Keeps m q) : Keeps m (q.resultTile po ch d rep p e) :=
  .ite h (Keeps.ite h.setPartial.towardChildren (.ite h.setPartial h.setPartial.towardPeer)).storeFinal

theorem Keeps.reductionFrame {p : Nat} {ecc : Ecc} (h : Keeps m q) : Keeps m (reductionFrame p ecc q) := by
  unfold Machine.reductionFrame
  split
  · exact h
  · extract_lets _ q₁
    have h₁ : Keeps m q₁ := h.updPort.idleFrame.showActive
    refine .ite h₁.addF.tally ?_
    split
    · split
      · exact h₁
      · exact (Keeps.ite h₁.addF.setPartial.sumFlags.resultTile h₁.addF.setPartial.sumFlags.advanceTile).readAhead
    · exact h₁

theorem Keeps.landMessage {c : Ctx} {d : Desc} {slot : Nat} {x : Machine.Message} {e : Ecc} (h : Keeps m q) : Keeps m (q.landMessage c d slot x e) :=
  h.perform.foldl (fun _ _ hr => hr.setPoison)

theorem Keeps.messageLand {k : Nat} {ecc : Ecc} (h : Keeps m q) : Keeps m (messageLand k ecc q) := by
  unfold Machine.messageLand
  split
  · refine .ite h ?_
    extract_lets _ q₁
    have h₁ : Keeps m q₁ := h.upd
    refine .ite h₁.addF (.ite h ?_)
    refine .ite h₁.updChan.addF ?_
    split
    · exact h₁.landMessage.updChan.each (fun _ _ hr => hr.recvClaim)
    · exact h
  · exact h

theorem Keeps.linkSend {n : Nat} {ph : Phase} {ecc : Ecc} (h : Keeps m q) : Keeps m (linkSend n ph ecc q) := by
  unfold Machine.linkSend
  split
  · exact h.linkPlace
  · exact h.flowBegin (fun _ => h.linkBeginOf)

theorem Keeps.linkRecv {n : Nat} {ph : Phase} (h : Keeps m q) : Keeps m (linkRecv n ph q) := by
  unfold Machine.linkRecv
  split
  · exact h.linkPlace
  · exact h.flowBegin (fun _ => h.linkBeginOf)

/-! ### Stream start (Sys2Proof/Machine/Launch.lean) -/

theorem Keeps.launchRange {s : Machine.Stream} {x : Ctx} {arm : Option (Word × Word)} {n : Nat} (h : Keeps m q) :
    Keeps m (q.launchRange s x arm n) := by
  unfold Mach.launchRange
  extract_lets q₁ q₂ q₃ q₄ q₅ lock q₆
  have h₁ : Keeps m q₁ := h.withCsr (Sparse.wf_clear _ _ _)
  have h₂ : Keeps m q₂ := h₁.wrF.wrF
  have h₃ : Keeps m q₃ := .ite h₂.wrF.wrF h₂
  have h₄ : Keeps m q₄ := h₃.setRangeState.wrF
  have h₅ : Keeps m q₅ := by
    unfold q₅
    split
    · exact h₄.wr.wr
    · exact h₄
  exact h₅.updRange.runRange

theorem Keeps.launch {s : Machine.Stream} (h : Keeps m q) : Keeps m (q.launch s) := by
  unfold Mach.launch
  split
  · exact h
  · exact (h.upd.each (fun _ _ hr => hr.launchRange)).showBudget

theorem Keeps.streamStartBody {hd : Hdr} {imageNo mode mask : Nat} (h : Keeps m q) : Keeps m (streamStartBody hd imageNo mode mask q) := by
  unfold Machine.streamStartBody
  refine .ite h.answer (.ite h.answer ?_)
  refine .ite h.answer ?_
  split
  · exact h.answer
  · exact h.answer
  · extract_lets +onlyGivenNames _ q₁
    have h₁ : Keeps m q₁ := h.upd
    split
    · exact h₁.accept.launch
    · exact h₁.upd.begin

theorem Keeps.streamStopBody {hd : Hdr} {mask : Nat} (h : Keeps m q) : Keeps m (streamStopBody hd mask q) :=
  .ite h.answer (.ite h.answer h.stopStreams.answer)

theorem Keeps.streamStatusBody {hd : Hdr} {mask : Nat} (h : Keeps m q) : Keeps m (streamStatusBody hd mask q) :=
  .ite h.answer (.ite h.answer h.answer)

theorem Keeps.startInstant {n : Nat} (h : Keeps m q) : Keeps m (startInstant n q) := by
  unfold Machine.startInstant
  split
  · exact h
  · exact .ite h.updStream h

theorem Keeps.setEntry {c i : Nat} {v : EntrySt} (h : Keeps m q) : Keeps m (q.setEntry c i v) := h.updCtx

theorem Keeps.entryClaims {e : Entry} (h : Keeps m q) : Keeps m (q.entryClaims e) := .ite h.updChan h

theorem Keeps.startCopy {c i : Nat} {e : Entry} (h : Keeps m q) : Keeps m (q.startCopy c i e) := by
  unfold Mach.startCopy
  split
  · refine .ite ?_ h.entryOver
    extract_lets _
    split
    · exact h
    · exact .ite h.entryOver h.setEntry.beginCopy
  · exact h.entryOver

theorem Keeps.entryWaits {c i : Nat} (h : Keeps m q) : Keeps m (q.entryWaits c i) := .ite h h.upd

theorem Keeps.entryStops {c i : Nat} (h : Keeps m q) : Keeps m (q.entryStops c i) := h.upd

theorem Keeps.startStreamEntry {c i : Nat} {e : Entry} (h : Keeps m q) : Keeps m (q.startStreamEntry c i e) := by
  unfold Mach.startStreamEntry
  split
  · exact h.entryStops.entryOver
  · exact h.entryStops.entryOver
  · extract_lets +onlyGivenNames _ _
    split
    · exact h.entryStops.upd.entryClaims.setEntry.launch
    · exact h.entryWaits

theorem Keeps.entryStart {c k : Nat} (h : Keeps m q) : Keeps m (entryStart c k q) := by
  unfold Machine.entryStart
  extract_lets +onlyGivenNames _
  split
  · exact h
  · extract_lets _
    refine .ite h ?_
    split
    · exact .ite h (.ite (.ite h h.entryClaims.startCopy) h.startStreamEntry)
    · exact h

theorem Keeps.admitWaiting (h : Keeps m q) : Keeps m q.admitWaiting := by
  unfold Mach.admitWaiting
  refine Keeps.foldl ?_ fun _ _ hr => ?_
  · exact h
  · split
    · exact hr.entryStart
    · split
      · exact hr
      · refine .ite hr ?_
        split
        · exact hr.send.launch
        · exact hr.launch
        · exact hr

theorem Keeps.endWaiting {status : Nat} (h : Keeps m q) : Keeps m (q.endWaiting status) := h.stopStreams.foldl (fun _ _ hr => hr.entryStops.entryOver)

theorem Keeps.zeroCounters {c : Nat} {t : Table} (h : Keeps m q) : Keeps m (q.zeroCounters c t) := h.each (fun _ _ hr => hr.wr)

/-! ### Tarns (Sys2Proof/Machine/TarnOps.lean) -/

theorem Keeps.rebaseAll {c : Nat} (h : Keeps m q) : Keeps m (q.rebaseAll c) := by
  unfold Mach.rebaseAll
  split
  · exact h
  · exact h.setCtx

theorem Keeps.showTarn {s state ctx record : Nat} (h : Keeps m q) : Keeps m (q.showTarn s state ctx record) := h.wrF.wrF.wrF

theorem Keeps.startTarn {x : Ctx} {c f s : Nat} (h : Keeps m q) : Keeps m (q.startTarn x c f s) := by
  unfold Mach.startTarn
  split
  · exact h
  · exact h.setTarn.showTarn

theorem Keeps.updateRecordAt {x : Ctx} {s c i : Nat} {r : Record} {p : Prog} {f : Nat} {w g : Desc} (h : Keeps m q) :
    Keeps m (q.updateRecordAt x s c i r p f w g) :=
  h.perform.tarnFlags.writeVa

theorem Keeps.tarnRecordFlip {s : Nat} (h : Keeps m q) : Keeps m (tarnRecordFlip s q) := by
  unfold Machine.tarnRecordFlip
  split
  · exact h
  · split
    · exact h
    · split
      · exact h
      · extract_lets _
        split
        · refine .ite h ?_
          extract_lets q₁ q₂ q₃
          have h₁ : Keeps m q₁ := h.updateRecordAt
          have h₂ : Keeps m q₂ := h₁.updCtx
          have h₃ : Keeps m q₃ := h₂.setTarn
          split
          · exact h₃.showTarn
          · exact h₃.showTarn
        · exact h

theorem Keeps.restoreRecord {c closed : Nat} {e : Nat × Nat × Record} (h : Keeps m q) : Keeps m (q.restoreRecord c closed e) := by
  unfold Mach.restoreRecord
  split
  · exact h
  · exact .ite h.writeVa.updCtx h

theorem Keeps.restoreRecords {c : Nat} (h : Keeps m q) : Keeps m (q.restoreRecords c) := by
  unfold Mach.restoreRecords
  split
  · exact h
  · exact ((h.foldl (fun _ _ hr => hr.restoreRecord)).each (fun _ _ hr => .ite hr.setTarn.showTarn hr)).updCtx

theorem Keeps.recordTarnFault {s kind c record va : Nat} (h : Keeps m q) : Keeps m (q.recordTarnFault s kind c record va) := h.wr.wr.wr.tally.trouble

/-! ### Groups and steps (Sys2Proof/Machine/Group.lean) -/

theorem Keeps.sendGroup {p : Nat} {x : GMsg} (h : Keeps m q) : Keeps m (q.sendGroup p x) := .ite h.upd h

theorem Keeps.loopBack {x : GMsg} (h : Keeps m q) : Keeps m (q.loopBack x) := h.upd

theorem Keeps.towardMaster {x : GMsg} (h : Keeps m q) : Keeps m (q.towardMaster x) := by
  unfold Mach.towardMaster
  split
  · exact h.sendGroup
  · exact h

theorem Keeps.toMaster {c : Nat} {b : GBody} (h : Keeps m q) : Keeps m (q.toMaster c b) := .ite h.loopBack h.towardMaster

theorem Keeps.relay {except : Option Nat} {x : GMsg} (h : Keeps m q) : Keeps m (q.relay except x) := h.upd.each (fun _ _ hr => hr.sendGroup)

theorem Keeps.flood {g : Nat} {b : GBody} (h : Keeps m q) : Keeps m (q.flood g b) := (Keeps.ite h h.relay).loopBack

theorem Keeps.gotMsg {port : Option (Fin 32)} {g : Nat} {b : GBody} {act : Mach → Mach} (h : Keeps m q)
    (ha : ∀ r, Keeps m r → Keeps m (act r)) : Keeps m (q.gotMsg port g b act) := by
  unfold Mach.gotMsg
  split
  · exact .ite (ha _ h.upd) h
  · exact .ite h (.ite (.ite h (ha _ h.relay)) (.ite (ha _ h) h.towardMaster))

theorem Keeps.setStepState {c v : Nat} (h : Keeps m q) : Keeps m (q.setStepState c v) := h.wrF

theorem Keeps.updStep {c base : Nat} {f : StepSt → StepSt} (h : Keeps m q) : Keeps m (q.updStep c base f) := h.updCtx

theorem Keeps.sendJoin {c base k : Nat} (h : Keeps m q) : Keeps m (q.sendJoin c base k) := .ite h h.toMaster

theorem Keeps.sendFail {c base status : Nat} (h : Keeps m q) : Keeps m (q.sendFail c base status) := by
  unfold Mach.sendFail
  split
  · exact .ite h h.updStep.toMaster
  · exact h

theorem Keeps.checkReady {c : Nat} (h : Keeps m q) : Keeps m (q.checkReady c) := by
  unfold Mach.checkReady
  refine Keeps.each ?_ fun _ _ hr => ?_
  · exact h
  · split
    · exact .ite hr.updStep.toMaster hr
    · exact hr

theorem Keeps.dropMaster {g k : Nat} (h : Keeps m q) : Keeps m (q.dropMaster g k) := h.upd

theorem Keeps.setMaster {g k : Nat} {r : MasterSt} (h : Keeps m q) : Keeps m (q.setMaster g k r) := h.dropMaster.upd.wrF.wrF

theorem Keeps.sendStart {g k : Nat} {r : MasterSt} (h : Keeps m q) : Keeps m (q.sendStart g k r) := h.setMaster.flood

theorem Keeps.noteAbort {reason status rank : Nat} (h : Keeps m q) : Keeps m (q.noteAbort reason status rank) := h.wr

theorem Keeps.masterAbort {g k reason status rank : Nat} (h : Keeps m q) : Keeps m (q.masterAbort g k reason status rank) := by
  unfold Mach.masterAbort
  split
  · exact h
  · extract_lets _ _ _ q₁ q₂
    have h₁ : Keeps m q₁ := h.noteAbort.flood
    have h₂ : Keeps m q₂ := .ite h₁.dropMaster h₁.setMaster
    split
    · exact h₂
    · exact .ite h₂.dropMaster h₂.setMaster

theorem Keeps.commitDecision {g k : Nat} (h : Keeps m q) : Keeps m (q.commitDecision g k) := by
  unfold Mach.commitDecision
  split
  · exact .ite h.setMaster.flood h
  · exact h

theorem Keeps.startRound {g k : Nat} (h : Keeps m q) : Keeps m (q.startRound g k) := by
  unfold Mach.startRound
  split
  · exact h
  · exact .ite h h.upd.flood

theorem Keeps.sendClose {g k : Nat} (h : Keeps m q) : Keeps m (q.sendClose g k) := h.dropMaster.flood.startRound.commitDecision

theorem Keeps.joinCheck {g k : Nat} (h : Keeps m q) : Keeps m (q.joinCheck g k) := by
  unfold Mach.joinCheck
  split
  · exact h
  · exact .ite h (.ite (.ite h.sendClose (.ite h.masterAbort h.sendStart)) (.ite h h.sendStart))

theorem Keeps.takeJoin {g rank k state planId : Nat} (h : Keeps m q) : Keeps m (q.takeJoin g rank k state planId) := by
  unfold Mach.takeJoin
  refine .ite h ?_
  split
  · exact h
  · exact (Keeps.ite h.setMaster.joinCheck h.setMaster).joinCheck

theorem Keeps.takeReady {g rank k attempt : Nat} (h : Keeps m q) : Keeps m (q.takeReady g rank k attempt) := by
  unfold Mach.takeReady
  split
  · exact .ite h.setMaster.commitDecision h
  · exact h

theorem Keeps.takeFail {g rank k attempt status : Nat} (h : Keeps m q) : Keeps m (q.takeFail g rank k attempt status) := by
  unfold Mach.takeFail
  split
  · exact .ite h.masterAbort h
  · exact h

theorem Keeps.takeUpdated {g rank k : Nat} (h : Keeps m q) : Keeps m (q.takeUpdated g rank k) := by
  unfold Mach.takeUpdated
  split
  · exact .ite (.ite h.sendClose h.setMaster) h
  · exact h

theorem Keeps.takeStart {g k attempt t0 td limit : Nat} (h : Keeps m q) : Keeps m (q.takeStart g k attempt t0 td limit) := by
  unfold Mach.takeStart
  split
  · exact .ite h (Keeps.ite h.updStep.wrF h.updStep).wr.upd
  · exact h

theorem Keeps.resetChannels {c : Nat} (h : Keeps m q) : Keeps m (q.resetChannels c) := by
  unfold Mach.resetChannels
  split
  · exact h
  · exact h.foldl (fun _ _ hr => .ite (.ite hr.updChan hr) hr.updChan)

theorem Keeps.attemptStart {c : Nat} (h : Keeps m q) : Keeps m (attemptStart c q) := by
  unfold Machine.attemptStart
  split
  · exact h
  extract_lets pick
  clear_value pick
  split
  · exact h
  split
  · exact h
  · exact h.zeroCounters.resetChannels.upd.updStep

theorem Keeps.takeCommit {g k attempt norm : Nat} (h : Keeps m q) : Keeps m (q.takeCommit g k attempt norm) := by
  unfold Mach.takeCommit
  split
  · exact h
  · split
    · exact h
    · exact .ite h (.ite h.setStepState.wr.wr.updStep (h.setStepState.wr.wr.updCtx.each (fun _ _ hr => hr.startTarn)))

theorem Keeps.tarnUpdateComplete {c : Nat} (h : Keeps m q) : Keeps m (tarnUpdateComplete c q) := by
  unfold Machine.tarnUpdateComplete
  split
  · exact .ite (h.each (fun _ _ hr => .ite hr.setTarn hr)).setStepState.toMaster h
  · exact h

theorem Keeps.tarnFault {s kind va : Nat} (h : Keeps m q) : Keeps m (tarnFault s kind va q) := by
  unfold Machine.tarnFault
  split
  · exact h
  · split
    · exact h
    · split
      · exact h
      · extract_lets +onlyGivenNames _
        split
        · exact h
        · refine .ite h ?_
          extract_lets q₁ q₂
          have h₁ : Keeps m q₁ := h.recordTarnFault
          have h₂ : Keeps m q₂ := by
            unfold q₂
            refine .ite ?_ h₁
            split
            · exact h₁.countUe
            · exact h₁
          exact h₂.setTarn.showTarn.sendFail

theorem Keeps.stopAttempt {c base : Nat} {s : StepSt} (h : Keeps m q) : Keeps m (q.stopAttempt c base s) :=
  h.stopStreams.reown.upd.each (fun _ _ hr => .ite hr (hr.updPort.showActive.foldl (fun _ _ hr1 => hr1.idleFrame)))

theorem Keeps.countAbort {c reason : Nat} (h : Keeps m q) : Keeps m (q.countAbort c reason) := h.addF.trouble.tally.event

theorem Keeps.endStep {c : Nat} {s : StepSt} {status : Nat} (h : Keeps m q) : Keeps m (q.endStep c s status) := h.finish

theorem Keeps.endLimit {c : Nat} (h : Keeps m q) : Keeps m (q.endLimit c) := by
  unfold Mach.endLimit
  split
  · exact h
  · extract_lets q₁ q₂
    have h₁ : Keeps m q₁ := by
      unfold q₁
      split
      · exact h.endStep
      · exact h
    have h₂ : Keeps m q₂ := by
      unfold q₂
      split
      · exact h₁.endStep
      · exact h₁
    exact h₂.updCtx.setStepState

theorem Keeps.abortStep {c k reason : Nat} (h : Keeps m q) : Keeps m (q.abortStep c k reason) := by
  unfold Mach.abortStep
  refine .ite h ?_
  split
  · extract_lets +onlyGivenNames _ q₁ q₂
    have h₁ : Keeps m q₁ := h.stopAttempt
    have h₂ : Keeps m q₂ := .ite h₁.countAbort h₁
    refine .ite ?_ (.ite h₂.updStep (.ite (.ite h₂.endLimit h₂.endStep.updCtx) h₂.updStep.sendJoin))
    extract_lets q₃ q₄ q₅
    have h₃ : Keeps m q₃ := by
      unfold q₃
      split
      · exact h₂.stopAttempt.updStep
      · exact h₂
    have h₄ : Keeps m q₄ := h₃.updStep
    have h₅ : Keeps m q₅ := h₄.each (fun _ _ hr => .ite hr.showTarn hr)
    exact h₅.setStepState
  · exact h

theorem Keeps.takeAbort {g k reason : Nat} (h : Keeps m q) : Keeps m (q.takeAbort g k reason) := by
  unfold Mach.takeAbort
  split
  · exact h
  · exact (Keeps.ite h h.noteAbort).abortStep

theorem Keeps.rollback {c : Nat} (h : Keeps m q) : Keeps m (rollback c q) := by
  unfold Machine.rollback
  split
  · exact h
  · refine .ite h ?_
    extract_lets +onlyGivenNames q₁
    have h₁ : Keeps m q₁ := h.restoreRecords
    refine .ite h₁.endLimit ?_
    extract_lets q₂
    have h₂ : Keeps m q₂ := h₁.updStep.setStepState.sendJoin
    split
    · exact h₂.sendJoin
    · exact h₂

theorem Keeps.promote {c : Nat} (h : Keeps m q) : Keeps m (q.promote c) := by
  unfold Mach.promote
  split
  · exact h.updCtx.setStepState
  · exact h.updCtx.upd.reown.setStepState.wrF.wrF

theorem Keeps.takeClose {g k : Nat} (h : Keeps m q) : Keeps m (q.takeClose g k) := by
  unfold Mach.takeClose
  split
  · exact h
  · split
    · exact h
    · exact .ite h h.wrF.wr.updCtx.endStep.promote

theorem Keeps.stepDeadline {c : Nat} (h : Keeps m q) : Keeps m (stepDeadline c q) := by
  unfold Machine.stepDeadline
  refine .ite h ?_
  split
  · exact h.masterAbort
  · exact h

theorem Keeps.updateDeadline {c : Nat} (h : Keeps m q) : Keeps m (updateDeadline c q) := by
  unfold Machine.updateDeadline
  refine .ite h ?_
  split
  · exact h.masterAbort
  · exact h

theorem Keeps.localAbort {c : Nat} (h : Keeps m q) : Keeps m (localAbort c q) := by
  unfold Machine.localAbort
  extract_lets _
  split
  · exact h
  · split
    · exact h.noteAbort.tally.abortStep
    · exact h.noteAbort.tally.abortStep
    · exact h

theorem Keeps.newPlanSteps {old : Option Plan} (h : Keeps m q) : Keeps m (q.newPlanSteps old) := by
  unfold Mach.newPlanSteps
  extract_lets _ q₁ _ q₂
  have h₁ : Keeps m q₁ := .ite h h.wrF
  have h₂ : Keeps m q₂ := h₁.upd
  refine Keeps.each ?_ fun _ _ hr => ?_
  · exact h₂
  · split
    · exact hr
    · extract_lets q₃
      have h₃ : Keeps m q₃ := by
        unfold q₃
        split
        · exact hr.sendJoin
        · exact .ite hr.toMaster hr
      split
      · exact h₃.sendJoin
      · exact h₃

theorem Keeps.stepBeginBody {hd : Hdr} {table : Nat} (h : Keeps m q) : Keeps m (stepBeginBody hd table q) := by
  unfold Machine.stepBeginBody
  split
  · exact h.answer
  · extract_lets +onlyGivenNames _ _
    refine .ite h.answer (.ite h.answer ?_)
    refine .ite h.answer ?_
    split
    · exact h.answer
    · extract_lets +onlyGivenNames q₁ q₂ _ _ q₃
      have h₁ : Keeps m q₁ := .ite h.wrF.wrF h
      have h₂ : Keeps m q₂ := .ite h₁.rebaseAll h₁
      have h₃ : Keeps m q₃ := h₂.accept
      exact .ite h₃.updCtx.setStepState.wrF.wrF.sendJoin h₃.updCtx.sendJoin

theorem Keeps.stepCommitBody {hd : Hdr} {k : Nat} (h : Keeps m q) : Keeps m (stepCommitBody hd k q) := by
  unfold Machine.stepCommitBody
  extract_lets +onlyGivenNames _
  refine .ite h.answer ?_
  split
  · exact h.answer
  · exact h.setMaster.commitDecision.answer

theorem Keeps.stepAbortBody {hd : Hdr} {k : Nat} (h : Keeps m q) : Keeps m (stepAbortBody hd k q) := by
  unfold Machine.stepAbortBody
  extract_lets +onlyGivenNames _
  refine .ite h.answer ?_
  split
  · exact h.answer
  · exact h.setMaster.masterAbort.answer

/-! ### Serving (Sys2Proof/Machine/Serve.lean) -/

theorem Keeps.release {c : Nat} {p : Push} (h : Keeps m q) : Keeps m (q.release c p) := by
  unfold Mach.release
  extract_lets _ q₁
  have h₁ : Keeps m q₁ := h.updCtx
  split
  · exact h₁.finish
  · exact h₁.addF.zeroCounters.updCtx

theorem Keeps.tryRelease {c : Nat} (h : Keeps m q) : Keeps m (q.tryRelease c) := by
  unfold Mach.tryRelease
  split
  · exact h
  · split
    · exact .ite h h.release
    · exact h

theorem Keeps.frameLate {lane : Lane} {c tag : Nat} (h : Keeps m q) : Keeps m (q.frameLate lane c tag) := h.addF.finish

theorem Keeps.intakeDeadline {c : Nat} (h : Keeps m q) : Keeps m (intakeDeadline c q) := by
  unfold Machine.intakeDeadline
  split
  · exact h
  · refine .ite h ?_
    split
    · exact .ite h (.ite h.updCtx.frameLate h.release)
    · split
      · exact h.upd.frameLate
      · exact h

theorem Keeps.framePushBody {hd : Hdr} {inH outH outBytes : Nat} {payload : List Byte} (h : Keeps m q) :
    Keeps m (framePushBody hd inH outH outBytes payload q) := by
  unfold Machine.framePushBody
  extract_lets +onlyGivenNames _
  split
  · exact h.answer
  · extract_lets +onlyGivenNames _
    split
    · refine .ite h.answer (.ite h.answer ?_)
      refine .ite h.answer (.ite h.answer ?_)
      refine .ite h.answer ?_
      split
      · exact h.answer
      · exact h.accept.perform.updCtx.tryRelease
    · exact .ite h.answer h.answer

theorem Keeps.pinStart {c : Nat} (h : Keeps m q) : Keeps m (pinStart c q) := .ite h (h.each (fun _ _ hr => hr.runRange.wrF)).updCtx

theorem Keeps.settlePass {c : Nat} (h : Keeps m q) : Keeps m (q.settlePass c) := by
  unfold Mach.settlePass
  split
  · exact h
  · split
    · exact h
    · extract_lets +onlyGivenNames _ _
      refine .ite h ?_
      extract_lets q₁ q₂ _ q₃
      have h₁ : Keeps m q₁ := h.updCtx
      have h₂ : Keeps m q₂ := h₁.each (fun _ _ hr => hr.unpin)
      have h₃ : Keeps m q₃ := by
        unfold q₃
        split
        · exact h₂.finish
        · exact h₂.finish.drawn
      exact h₃.tryRelease

theorem Keeps.scheduleLoadBody {hd : Hdr} {k : Nat} {payload : List Byte} (h : Keeps m q) : Keeps m (scheduleLoadBody hd k payload q) := by
  unfold Machine.scheduleLoadBody
  split
  · exact h.answer
  · refine .ite h.answer ?_
    split
    · exact h.answer
    · exact .ite h.answer h.updCtx.answer

theorem Keeps.entryEnd {c k : Nat} (h : Keeps m q) : Keeps m (entryEnd c k q) := by
  unfold Machine.entryEnd
  split
  · exact (Keeps.ite h.setEntry (.ite h.setEntry.updCtx h.setEntry.sendFail)).checkReady.settlePass
  · exact h

theorem Keeps.checkAll (h : Keeps m q) : Keeps m q.checkAll := h.each (fun _ _ hr => hr.checkReady)

/-! ### Blank state (Sys2Proof/Machine/Blank.lean) -/

theorem Keeps.newNonce (h : Keeps m q) : Keeps m q.newNonce := h.wr.drawn

theorem Keeps.blank (h : Keeps m q) : Keeps m q.blank := by
  unfold Mach.blank
  extract_lets _ _ _ _ q₁
  have h₁ : Keeps q q₁ := .of_reset rfl rfl rfl rfl
  exact (h.trans h₁).resetRegs.newNonce

theorem Keeps.powerOff (h : Keeps m q) : Keeps m q.powerOff := h.darkReset.blank.upd.upd.wrF

/-! ### Power and heat (Sys2Proof/Machine/Power.lean) -/

theorem Keeps.lower {i : Nat} (h : Keeps m q) : Keeps m (q.lower i) := h.setFreq

theorem Keeps.raise {i : Nat} (h : Keeps m q) : Keeps m (q.raise i) := .ite h h.setFreq

theorem Keeps.setZoneState {z v : Nat} (h : Keeps m q) : Keeps m (q.setZoneState z v) := h.wrF

theorem Keeps.showZone {z : Nat} (h : Keeps m q) : Keeps m (q.showZone z) := .ite h h.setZoneState

theorem Keeps.setBoost {s : Machine.Stream} {boost : Nat} (h : Keeps m q) : Keeps m (q.setBoost s boost) :=
  (h.updStream.each (fun _ _ hr => hr.runRange)).showBudget

theorem Keeps.dropBoost (h : Keeps m q) : Keeps m q.dropBoost := h.foldl (fun _ _ hr => .ite hr hr.setBoost)

theorem Keeps.boostCheck (h : Keeps m q) : Keeps m (boostCheck q) := h.dropBoost.foldl (fun _ _ hr => .ite hr (.ite hr.setBoost hr))

theorem Keeps.thermalStop {n : Nat} (h : Keeps m q) : Keeps m (q.thermalStop n) := by
  unfold Mach.thermalStop
  split
  · exact h
  · exact h.stopStream.tally

theorem Keeps.halve {i : Nat} (h : Keeps m q) : Keeps m (q.halve i) := h.updIsland.setFreq

theorem Keeps.fastPath {z : Nat} (h : Keeps m q) : Keeps m (q.fastPath z) := by
  unfold Mach.fastPath
  extract_lets _ q₁ q₂ q₃
  have hcut : Keeps m q₃ := (h.updZone.each fun _ _ hr => hr.halve).addF.tally.trouble.showZone.event
  exact .ite h.updZone (.ite hcut.thermalStop hcut)

theorem Keeps.slowStart {z : Nat} (h : Keeps m q) : Keeps m (q.slowStart z) := .ite h h.updZone.showZone.tally.trouble.event

theorem Keeps.fastHoldEnd {z : Nat} (h : Keeps m q) : Keeps m (fastHoldEnd z q) := by
  unfold Machine.fastHoldEnd
  split
  · exact h
  · exact .ite h (h.updZone.each (fun _ _ hr => hr.updIsland.setFreq)).showZone

theorem Keeps.slowStep {z : Nat} (h : Keeps m q) : Keeps m (slowStep z q) := by
  unfold Machine.slowStep
  extract_lets +onlyGivenNames _
  refine .ite h (.ite (.ite h (h.each fun _ _ hr => hr.lower).updZone) (.ite h ?_))
  extract_lets q₁
  have hup : Keeps m q₁ := (h.each fun _ _ hr => hr.raise).updZone
  exact .ite hup.updZone.showZone hup

theorem Keeps.stopTarns {status : Nat} (h : Keeps m q) : Keeps m (q.stopTarns status) := by
  unfold Mach.stopTarns
  refine Keeps.each ?_ fun _ _ hr => ?_
  · exact h
  · split
    · exact hr
    · exact hr.setTarn.showTarn.sendFail

theorem Keeps.stopCompute {status : Nat} (h : Keeps m q) : Keeps m (q.stopCompute status) :=
  h.endWaiting.stopStreams.each (fun _ _ hr => hr.updIsland)

theorem Keeps.computeStop {source : Nat} {coolant : Bool} (h : Keeps m q) : Keeps m (q.computeStop source coolant) := by
  unfold Mach.computeStop
  refine .ite h.upd ?_
  extract_lets q₁ q₂ q₃ _ q₄
  have h₃ : Keeps m q₃ := h.wrF.stopCompute.stopTarns.each fun _ _ hr => hr.setZoneState
  clear_value q₃
  have h₄ : Keeps m q₄ := h₃.upd
  exact h₄.trouble.event

theorem Keeps.computeStopEnd (h : Keeps m q) : Keeps m (computeStopEnd q) := .ite (h.wrF.upd.each (fun _ _ hr => hr.setZoneState)) h

theorem Keeps.readZone {l : List Int} {z : Nat} (h : Keeps m q) : Keeps m (q.readZone l z) := h.updZone.wrF

theorem Keeps.zoneActs {z : Nat} (h : Keeps m q) : Keeps m (q.zoneActs z) := .ite (Keeps.ite h.fastPath h).slowStart (.ite h.fastPath h)

theorem Keeps.sensorRead {l : List Int} (h : Keeps m q) : Keeps m (sensorRead l q) := by
  unfold Machine.sensorRead
  refine .ite h ?_
  extract_lets zones q₁ _ q₂ q₃ q₄
  have h₁ : Keeps m q₁ := h.each fun _ _ hr => hr.readZone
  clear_value q₁
  have h₂ : Keeps m q₂ := h₁.upd
  have h₃ : Keeps m q₃ := h₂.each fun _ _ hr => hr.zoneActs
  refine .ite h₂.event.powerOff ?_
  split
  · exact h₃.dropBoost.computeStop
  · exact h₃.dropBoost

theorem Keeps.setPool (h : Keeps m q) : Keeps m q.setPool := h.upd.showBudget

theorem Keeps.budgetEvaluation {base : Nat} (h : Keeps m q) : Keeps m (budgetEvaluation base q) := .ite h h.wrF.setPool.admitWaiting

theorem Keeps.powerSample {n milliwatts : Nat} (h : Keeps m q) : Keeps m (powerSample n milliwatts q) := by
  unfold Machine.powerSample
  split
  · exact h
  · exact .ite h.upd.wrF.wrF.orR h.upd.wrF.wrF

theorem Keeps.setPower {w : Nat} (h : Keeps m q) : Keeps m (q.setPower w) := h.wrF

theorem Keeps.capEnforce {power : Nat} (h : Keeps m q) : Keeps m (capEnforce power q) :=
  .ite h.setPower ((Keeps.ite h.setPower h.setPower.addF.tally.trouble.event).each (fun _ _ hr => hr.lower)).upd

theorem Keeps.capRestore {power : Nat} (h : Keeps m q) : Keeps m (capRestore power q) :=
  .ite h.setPower (h.setPower.each (fun _ _ hr => hr.raise)).upd

theorem Keeps.starveExpiry {c : Nat} (h : Keeps m q) : Keeps m (starveExpiry c q) := by
  unfold Machine.starveExpiry
  split
  · exact h
  · exact .ite h h.upd

theorem Keeps.budgetCapBody {hd : Hdr} {context watts : Nat} (h : Keeps m q) : Keeps m (budgetCapBody hd context watts q) :=
  .ite h.answer (.ite h.answer h.wrF.wrF.wrF.setPool.admitWaiting.answer)

theorem Keeps.reservationBody {hd : Hdr} {context watts : Nat} (h : Keeps m q) : Keeps m (reservationBody hd context watts q) :=
  .ite h.answer (.ite h.answer (.ite h.answer h.wrF.showBudget.answer))

theorem Keeps.thermalStatusBody {hd : Hdr} (h : Keeps m q) : Keeps m (thermalStatusBody hd q) := h.answer

theorem Keeps.rangePowerOff {n : Nat} (h : Keeps m q) : Keeps m (rangePowerOff n q) := by
  unfold Machine.rangePowerOff
  split
  · exact h
  · exact .ite h (h.each (fun _ _ hr => hr.updIsland)).resetRegs.upd

theorem Keeps.setVoltage {v : Nat} (h : Keeps m q) : Keeps m (q.setVoltage v) := h.wrF

theorem Keeps.inputDip {v : Nat} (h : Keeps m q) : Keeps m (inputDip v q) :=
  .ite h (.ite h.setVoltage.upd (Keeps.ite h.setVoltage h.setVoltage.wrF.trouble.tally).upd)

theorem Keeps.brownOut {v : Nat} (h : Keeps m q) : Keeps m (brownOut v q) :=
  .ite h (.ite h.setVoltage h.setVoltage.wrF.stopCompute.addF.tally.trouble.event)

theorem Keeps.brownoutEnd {v : Nat} (h : Keeps m q) : Keeps m (brownoutEnd v q) := .ite h.setVoltage.wrF.upd h

theorem Keeps.inputPowerOff {v : Nat} (h : Keeps m q) : Keeps m (inputPowerOff v q) := .ite h.powerOff h

theorem Keeps.coolantChange {inlet : Int} {flow : Nat} (h : Keeps m q) : Keeps m (coolantChange inlet flow q) :=
  .ite h (Keeps.ite h.wrF.wrF.upd.wrF.wrF.wrF.trouble.event h.wrF.wrF.upd.wrF.wrF.wrF).setPool

theorem Keeps.coolantStop (h : Keeps m q) : Keeps m (coolantStop q) := .ite h.computeStop h

/-! ### Mapping and host transactions (Sys2Proof/Machine/Memory.lean) -/

theorem Keeps.memMapBody {hd : Hdr} {va size pa page write pdom : Nat} (h : Keeps m q) : Keeps m (memMapBody hd va size pa page write pdom q) := by
  unfold Machine.memMapBody
  split
  · extract_lets +onlyGivenNames _
    refine .ite h.answer ?_
    split
    · exact h.answer
    · exact h.updCtx.upd.answer
  · exact h.answer

theorem Keeps.dropTlb {c va size : Nat} (h : Keeps m q) : Keeps m (q.dropTlb c va size) := h.each (fun _ _ hr => hr.updRange)

theorem Keeps.settleUnmaps (h : Keeps m q) : Keeps m q.settleUnmaps := h.upd.foldl (fun _ _ hr => hr.finish)

theorem Keeps.memUnmapBody {hd : Hdr} {va size : Nat} (h : Keeps m q) : Keeps m (memUnmapBody hd va size q) := by
  unfold Machine.memUnmapBody
  split
  · exact h.answer
  · exact .ite h.answer (.ite h.answer (.ite h.updCtx.dropTlb.upd.begin h.updCtx.dropTlb.answer))

theorem Keeps.memCopyBody {hd : Hdr} {src dst length slot : Nat} (h : Keeps m q) : Keeps m (memCopyBody hd src dst length slot q) := by
  unfold Machine.memCopyBody
  split
  · exact h.answer
  · exact .ite h.answer (.ite h.answer (.ite h.answer (.ite h.answer (.ite h.answer h.begin.beginCopy))))

theorem Keeps.memFillBody {hd : Hdr} {dst pattern length : Nat} (h : Keeps m q) : Keeps m (memFillBody hd dst pattern length q) := by
  unfold Machine.memFillBody
  split
  · exact h.answer
  · exact .ite h.answer h.begin.beginCopy

theorem Keeps.copyComplete {index : Nat} {e : Ecc} (h : Keeps m q) : Keeps m (copyComplete index e q) := by
  unfold Machine.copyComplete
  split
  · exact h
  · exact h.advanceCopy

theorem Keeps.updCopies {o : TxnOwner} {f : CopyJob → CopyJob} (h : Keeps m q) : Keeps m (q.updCopies o f) := h.upd

theorem Keeps.hostRead {t : HostTxn} {data : List Byte} (h : Keeps m q) : Keeps m (q.hostRead t data) := by
  unfold Mach.hostRead
  extract_lets _ q₁
  have h₁ : Keeps m q₁ := h.endTxn
  refine .ite h₁.hostTxn ?_
  split
  · exact .ite h₁.updRange h₁
  · exact h₁.updCopies

theorem Keeps.hostAck {t : HostTxn} (h : Keeps m q) : Keeps m (q.hostAck t) := by
  unfold Mach.hostAck
  extract_lets q₁
  have h₁ : Keeps m q₁ := h.endTxn
  split
  · exact .ite h₁.didRep h₁
  · exact h₁.tryRelease
  · exact h₁

theorem Keeps.hostStop {n st seq rep : Nat} (h : Keeps m q) : Keeps m (q.hostStop n st seq rep) := by
  unfold Mach.hostStop
  split
  · exact h.stopStream
  · exact h

theorem Keeps.failOwner {t : HostTxn} (h : Keeps m q) : Keeps m (q.failOwner t) := by
  unfold Mach.failOwner
  extract_lets _ _ _
  split
  · exact h.hostStop
  · exact h.hostStop
  · split
    · exact h.updCtx.reown.finish
    · exact h.updCopies
  · exact h.updCopies

theorem Keeps.hostFail {t : HostTxn} (h : Keeps m q) : Keeps m (q.hostFail t) := h.addF.tally.trouble.endTxn.failOwner

theorem Keeps.hostTxnCompletion {tag : Nat} {r : TxnResult} (h : Keeps m q) : Keeps m (hostTxnCompletion tag r q) := by
  unfold Machine.hostTxnCompletion
  split
  · exact h
  · refine Keeps.settleUnmaps ?_
    split
    · exact h.hostFail
    · exact .ite h.hostRead h
    · exact .ite h.hostAck h

theorem Keeps.hostTxnTimeout {tag : Nat} (h : Keeps m q) : Keeps m (hostTxnTimeout tag q) := by
  unfold Machine.hostTxnTimeout
  split
  · exact h
  · exact .ite h.hostFail.settleUnmaps h

theorem Keeps.grantWindow {s : Nat} {demand : List Nat} (h : Keeps m q) : Keeps m (grantWindow s demand q) := h.updStack.upd

theorem Keeps.patrolSector {pa : Nat} {e : Ecc} (h : Keeps m q) : Keeps m (q.patrolSector pa e) := h.checkWords.foldl (fun _ _ hr => hr.setPoison)

theorem Keeps.patrolRead {unit : Nat} {e : Ecc} (h : Keeps m q) : Keeps m (patrolRead unit e q) :=
  .ite (.ite h h.patrolSector.updStack) (.ite (.ite h h.patrolSector.upd) h)

theorem Keeps.stackState {s v : Nat} (h : Keeps m q) : Keeps m (stackState q s v) := h.wrF

theorem Keeps.showProgress {s active kind frames : Nat} (h : Keeps m q) : Keeps m (q.showProgress s active kind frames) := h.wrF.wrF.wrF

theorem Keeps.startScrub (h : Keeps m q) : Keeps m q.startScrub := (h.each (fun _ _ hr => hr.stackState.wrF.showProgress.updStack)).wrF

theorem Keeps.tellScrub (h : Keeps m q) : Keeps m q.tellScrub := h.upd.foldl (fun _ _ hr => hr.finish)

theorem Keeps.wholeMemoryScrubDone {s : Nat} (h : Keeps m q) : Keeps m (wholeMemoryScrubDone s q) := by
  unfold Machine.wholeMemoryScrubDone
  refine .ite h ?_
  extract_lets q₁ _ q₂ q₃ q₄
  have h₁ : Keeps m q₁ := h.zeroMem
  have h₄ : Keeps m q₄ := h₁.upd.updStack.showDirty.stackState.wrF.showProgress
  exact .ite h₄.wrF.tellScrub h₄

theorem Keeps.queueScrub {s : Nat} {l : List FrameRun} (h : Keeps m q) : Keeps m (q.queueScrub s l) := .ite h (.ite h.upd.showProgress h.upd)

theorem Keeps.zeroRun {r : FrameRun} (h : Keeps m q) : Keeps m (q.zeroRun r) := h.zeroMem.upd

theorem Keeps.frameScrubDone (h : Keeps m q) : Keeps m (frameScrubDone q) := by
  unfold Machine.frameScrubDone
  split
  · exact h
  · extract_lets q₁ _ q₂ _
    have h₁ : Keeps m q₁ := h.foldl (fun _ _ hr => hr.zeroRun.foldl (fun _ _ hr1 => hr1.markDirty))
    have h₂ : Keeps m q₂ := h₁.upd
    exact .ite h₂.showProgress h₂.showProgress

/-! ### Belay (Sys2Proof/Machine/Belay.lean) -/

theorem Keeps.captureAll (h : Keeps m q) : Keeps m q.captureAll := h.each (fun _ _ hr => hr.updStack.showDirty)

theorem Keeps.releaseAll (h : Keeps m q) : Keeps m q.releaseAll := h.each (fun _ _ hr => hr.updStack.showDirty)

theorem Keeps.belaySend {b : BelayMsg} (h : Keeps m q) : Keeps m (q.belaySend b) := h.upd

theorem Keeps.setBelayState {v : Nat} (h : Keeps m q) : Keeps m (q.setBelayState v) := h.wrF

theorem Keeps.sendHeldJoins {c : Nat} (h : Keeps m q) : Keeps m (q.sendHeldJoins c) := by
  unfold Mach.sendHeldJoins
  extract_lets q₁
  have h₁ : Keeps m q₁ := by
    unfold q₁
    split
    · exact .ite h.sendJoin h
    · exact h
  split
  · exact .ite h₁.sendJoin h₁
  · exact h₁

theorem Keeps.endFreeze {code : Nat} (h : Keeps m q) : Keeps m (q.endFreeze code) := by
  unfold Mach.endFreeze
  split
  · extract_lets _ q₁ q₂ q₃ q₄
    have h₁ : Keeps m q₁ := h.upd
    have h₂ : Keeps m q₂ := h₁.setBelayState.wrF
    have h₃ : Keeps m q₃ := h₂.wr
    have h₄ : Keeps m q₄ := .ite h₃.addF.releaseAll h₃.addF.trouble.tally
    exact h₄.toMaster.sendHeldJoins
  · exact h

theorem Keeps.sendMirror {x : Ctx} {p : BelayPlan} {round step : Nat} {e : Ecc} (h : Keeps m q) : Keeps m (q.sendMirror x p round step e) :=
  ((h.checkWords.foldl (fun _ _ hr => hr.wr)).upd.wr.belaySend.foldl (fun _ _ hr => hr.belaySend)).drawn

theorem Keeps.takeMirror {g round k l : Nat} {e : Ecc} (h : Keeps m q) : Keeps m (q.takeMirror g round k l e) := by
  unfold Mach.takeMirror
  split
  · exact h
  · refine .ite h ?_
    extract_lets +onlyGivenNames q₁ _ q₂
    have h₁ : Keeps m q₁ := h.wr
    have h₂ : Keeps m q₂ := h₁.upd
    split
    · exact h₂.toMaster
    · exact .ite h₂.upd.setBelayState.captureAll.endFreeze h₂.upd.setBelayState.captureAll.sendMirror

theorem Keeps.belayCommitFrame {src round result : Nat} (h : Keeps m q) : Keeps m (belayCommitFrame src round result q) := by
  unfold Machine.belayCommitFrame
  split
  · exact .ite h.endFreeze h
  · exact h

theorem Keeps.mirrorTimeout (h : Keeps m q) : Keeps m (mirrorTimeout q) := by
  unfold Machine.mirrorTimeout
  split
  · exact .ite h.endFreeze h
  · exact h

theorem Keeps.belayPathDown (h : Keeps m q) : Keeps m q.belayPathDown := by
  unfold Mach.belayPathDown
  split
  · exact .ite h.endFreeze h
  · exact h

theorem Keeps.belayNewPlan {old : Option Plan} (h : Keeps m q) : Keeps m (q.belayNewPlan old) := by
  unfold Mach.belayNewPlan
  split
  · exact .ite h.endFreeze h
  · exact h.endFreeze
  · exact h

theorem Keeps.takeMirrored {g rank round result : Nat} (h : Keeps m q) : Keeps m (q.takeMirrored g rank round result) :=
  .ite h (.ite h.upd h.upd.upd.flood)

theorem Keeps.setSlot {x : Nat} {v : SlotSt} (h : Keeps m q) : Keeps m (q.setSlot x v) := h.upd

theorem Keeps.showSlots (h : Keeps m q) : Keeps m q.showSlots := (h.each (fun _ _ hr => hr.wrF.wrF.wr)).wrF.wrF

theorem Keeps.landBytes {x : Ctx} {va : Nat} {data : List Byte} {poison : List Nat} (h : Keeps m q) : Keeps m (q.landBytes x va data poison) :=
  h.writeVa.foldl (fun _ _ hr => hr.setPoison)

theorem Keeps.mirrorOpen {src round step size serial : Nat} {units : List Nat} (h : Keeps m q) :
    Keeps m (mirrorOpen src round step size serial units q) := by
  unfold Machine.mirrorOpen
  split
  · exact h.belaySend
  · refine .ite h.belaySend ?_
    extract_lets _ _ q₁ _ q₂
    have h₁ : Keeps m q₁ := h.setSlot
    have h₂ : Keeps m q₂ := h₁.upd
    refine Keeps.showSlots ?_
    split
    · exact h₂.landBytes
    · exact h₂

theorem Keeps.mirrorData {src round unit : Nat} {poison : List Nat} {data : List Byte} (h : Keeps m q) :
    Keeps m (mirrorData src round unit poison data q) := by
  unfold Machine.mirrorData
  split
  · refine .ite h ?_
    extract_lets +onlyGivenNames q₁
    have h₁ : Keeps m q₁ := by
      unfold q₁
      split
      · exact h.landBytes
      · exact h
    exact h₁.upd
  · exact h

theorem Keeps.slotCommit (h : Keeps m q) : Keeps m (slotCommit q) := by
  unfold Machine.slotCommit
  split
  · refine .ite h ?_
    extract_lets q₁ _ _ _ q₂ _ q₃
    have h₁ : Keeps m q₁ := by
      unfold q₁
      split
      · exact h.landBytes
      · exact h
    have h₂ : Keeps m q₂ := h₁.setSlot
    have h₃ : Keeps m q₃ := h₂.upd
    exact h₃.showSlots.belaySend
  · exact h

theorem Keeps.startCatchUp {l : Nat} (h : Keeps m q) : Keeps m (q.startCatchUp l) := by
  unfold Mach.startCatchUp
  split
  · exact .ite h h.upd.setSlot.showSlots
  · exact h

theorem Keeps.catchUpDone {slot : Nat} (h : Keeps m q) : Keeps m (catchUpDone slot q) := by
  unfold Machine.catchUpDone
  split
  · refine .ite h ?_
    extract_lets +onlyGivenNames _ q₁
    have h₁ : Keeps m q₁ := by
      unfold q₁
      split
      · exact h
      · exact h.foldl (fun _ _ hr => hr.landBytes)
    exact h₁.upd.showSlots
  · exact h

theorem Keeps.takeRoundEnd {g round : Nat} {complete : Bool} {l : Nat} (h : Keeps m q) : Keeps m (q.takeRoundEnd g round complete l) :=
  .ite h.wr.startCatchUp (h.wr.startCatchUp.upd.foldl (fun _ _ hr => hr.finish))

theorem Keeps.belayPlanBody {hd : Hdr} {payload : List Byte} (h : Keeps m q) : Keeps m (belayPlanBody hd payload q) := by
  unfold Machine.belayPlanBody
  split
  · exact h.answer
  · refine .ite h.answer (.ite h.answer ?_)
    split
    · exact h.answer
    · exact .ite h.answer h.upd.setBelayState.showSlots.answer

theorem Keeps.belaySnapshotBody {hd : Hdr} (h : Keeps m q) : Keeps m (belaySnapshotBody hd q) := .ite h.answer h.upd.begin

theorem Keeps.belayRestoreBody {hd : Hdr} {step : Nat} {record : List Byte} (h : Keeps m q) : Keeps m (belayRestoreBody hd step record q) := by
  unfold Machine.belayRestoreBody
  split
  · exact h.answer
  · extract_lets +onlyGivenNames _ _
    exact .ite h.answer (.ite h.answer (.ite h.answer (.ite h.answer (.ite h.answer (.ite h.answer h.upd.setBelayState.begin)))))

theorem Keeps.landAt {x : Ctx} {vas : List Nat} {data : List Byte} {poison : List Nat} (h : Keeps m q) : Keeps m (q.landAt x vas data poison) :=
  (h.foldl (fun _ _ hr => hr.writeVa)).foldl (fun _ _ hr => hr.setPoison)

theorem Keeps.landRegion {x : Ctx} {c off : Nat} {r : Region} {got : List (Nat × List Byte × List Nat)} (h : Keeps m q) :
    Keeps m (q.landRegion x c off r got) :=
  h.foldl (fun _ _ hr => hr.landAt)

theorem Keeps.loadRecord {c : Nat} {r : CtxRecord} (h : Keeps m q) : Keeps m (q.loadRecord c r) :=
  (h.updCtx.foldl (fun _ _ hr => hr.wr)).wr.wr.wr.setStepState

theorem Keeps.endRestore {x : RestoreSt} {status : Nat} (h : Keeps m q) : Keeps m (q.endRestore x status) := h.upd.setBelayState.finish

theorem Keeps.undefinedRegions {x : Ctx} {c : Nat} {l : List Region} (h : Keeps m q) : Keeps m (q.undefinedRegions x c l) :=
  (h.foldl (fun _ _ hr => hr.foldl (fun _ _ hr1 => hr1.writeVa))).drawn

theorem Keeps.restoreFrame {unit : Nat} {poison : List Nat} {data : List Byte} {last lost : Bool} (h : Keeps m q) :
    Keeps m (restoreFrame unit poison data last lost q) := by
  unfold Machine.restoreFrame
  split
  · split
    · exact h
    · refine .ite h.undefinedRegions.endRestore ?_
      extract_lets +onlyGivenNames _
      refine .ite h.upd ?_
      extract_lets +onlyGivenNames _ q₁ q₂ q₃
      have h₁ : Keeps m q₁ := h.foldl (fun _ _ hr => hr.landRegion)
      have h₂ : Keeps m q₂ := h₁.loadRecord
      have h₃ : Keeps m q₃ := by
        unfold q₃
        split
        · exact h₂
        · exact h₂.foldl (fun _ _ hr => hr.landRegion)
      exact h₃.upd.endRestore
  · exact h

theorem Keeps.belayDrop {c : Nat} (h : Keeps m q) : Keeps m (q.belayDrop c) := by
  unfold Mach.belayDrop
  refine .ite h ?_
  extract_lets q₁ q₂ q₃ _ q₄
  have h₁ : Keeps m q₁ := h.endFreeze
  have h₂ : Keeps m q₂ := by
    unfold q₂
    split
    · exact h₁.endRestore
    · exact h₁
  have h₃ : Keeps m q₃ := h₂.foldl (fun _ _ hr => hr.finish)
  have h₄ : Keeps m q₄ := h₃.upd
  exact h₄.setBelayState.showSlots

/-! ### Contexts (Sys2Proof/Machine/Context.lean) -/

theorem Keeps.assignRange {c n : Nat} (h : Keeps m q) : Keeps m (q.assignRange c n) := (h.upd.each (fun _ _ hr => hr.updIsland)).wrF.clearRange

theorem Keeps.makeCtx {c : Nat} {ranges : List Nat} {x : Ctx} (h : Keeps m q) : Keeps m (q.makeCtx c ranges x) :=
  (h.setCtx.each (fun _ _ hr => hr.wr)).wrF.wrF.wrF.wrF.each (fun _ _ hr => hr.assignRange)

theorem Keeps.contextCreateBody {hd : Hdr} {count place mask syncs seed pdoms : Nat} (h : Keeps m q) :
    Keeps m (contextCreateBody hd count place mask syncs seed pdoms q) := by
  unfold Machine.contextCreateBody
  extract_lets +onlyGivenNames _
  refine .ite h.answer ?_
  split
  · exact (Keeps.ite h.drawn h).makeCtx.answer
  · exact h.answer

theorem Keeps.settleResets (h : Keeps m q) : Keeps m q.settleResets := h.upd.foldl (fun _ _ hr => .ite hr.finish hr.finish)

theorem Keeps.rangeCleared {n : Nat} (h : Keeps m q) : Keeps m (rangeCleared n q) := .ite h h.setRangeState.settleResets

theorem Keeps.failOpen {c status : Nat} (h : Keeps m q) : Keeps m (q.failOpen c status) := by
  unfold Mach.failOpen
  refine .ite h ?_
  extract_lets _
  split
  · exact h
  · exact h.foldl (fun _ _ hr => hr.toMaster)

theorem Keeps.dropStep {c base : Nat} {s : StepSt} (h : Keeps m q) : Keeps m (q.dropStep c base s) := h.stopAttempt.endStep

theorem Keeps.quietContext {c status : Nat} (h : Keeps m q) : Keeps m (q.quietContext c status) := by
  unfold Mach.quietContext
  extract_lets q₁ q₂
  have h₁ : Keeps m q₁ := h.failOpen
  have h₂ : Keeps m q₂ := h₁.stopStreams
  split
  · exact h₂
  · extract_lets q₃ q₄ q₅ q₆ q₇ _ _ q₈ q₉
    have h₃ : Keeps m q₃ := by
      unfold q₃
      split
      · exact h₂.dropStep
      · exact h₂
    have h₄ : Keeps m q₄ := by
      unfold q₄
      split
      · exact h₃.dropStep
      · exact h₃
    have h₅ : Keeps m q₅ := by
      unfold q₅
      split
      · exact h₄.finish
      · exact h₄
    have h₆ : Keeps m q₆ := by
      unfold q₆
      split
      · exact h₅.finish
      · exact h₅
    have h₇ : Keeps m q₇ := h₆.reown
    have h₈ : Keeps m q₈ := h₇.upd
    have h₉ : Keeps m q₉ := h₈.each (fun _ _ hr => .ite hr.setTarn.showTarn hr)
    exact h₉.updCtx.setStepState

theorem Keeps.dropCommands {c : Nat} (h : Keeps m q) : Keeps m (q.dropCommands c) := (h.foldl (fun _ _ hr => hr.endCopy.reown)).dropArms

theorem Keeps.dropFrames {c : Nat} (h : Keeps m q) : Keeps m (q.dropFrames c) :=
  (h.upd.each (fun _ _ hr => .ite hr hr.queueScrub)).foldl (fun _ _ hr => hr.zeroRun)

theorem Keeps.eraseSlot {k : Nat} (h : Keeps m q) : Keeps m (q.eraseSlot k) := (h.foldl (fun _ _ hr => hr.endCopy.reown)).upd.wr.wrF

theorem Keeps.freeRange {n : Nat} (h : Keeps m q) : Keeps m (q.freeRange n) := h.setRangeState.wr.wr.updRange.upd

theorem Keeps.endContext {c status : Nat} (h : Keeps m q) : Keeps m (q.endContext c status) := by
  unfold Mach.endContext
  extract_lets q₁ q₂ q₃ q₄ q₅ _ q₆
  have h₁ : Keeps m q₁ := h.quietContext.belayDrop.dropCommands
  have h₂ : Keeps m q₂ := (h₁.each (fun _ _ hr => hr.eraseSlot)).dropFrames
  have h₃ : Keeps m q₃ := h₂.dropTlb
  have h₄ : Keeps m q₄ := h₃.each (fun _ _ hr => hr.freeRange)
  have h₅ : Keeps m q₅ := .ite h₄.wrF h₄
  have h₆ : Keeps m q₆ := h₅.resetRegs
  exact h₆.setCtx.showBudget.settleResets

theorem Keeps.contextDestroyBody {hd : Hdr} (h : Keeps m q) : Keeps m (contextDestroyBody hd q) := h.endContext.answer

theorem Keeps.descLoadBody {hd : Hdr} {first count : Nat} {payload : List Byte} (h : Keeps m q) :
    Keeps m (descLoadBody hd first count payload q) := by
  unfold Machine.descLoadBody
  split
  · exact h.answer
  · extract_lets +onlyGivenNames _ _ _
    refine .ite h.answer (.ite h.answer ?_)
    split
    · exact h.answer
    · extract_lets _
      split
      · exact h.answer
      · exact h.updCtx.answer

theorem Keeps.streamLoadBody {hd : Hdr} {k : Nat} {payload : List Byte} (h : Keeps m q) : Keeps m (streamLoadBody hd k payload q) := by
  unfold Machine.streamLoadBody
  refine .ite h.answer ?_
  split
  · exact h.wrF.answer
  · exact .ite h.answer h.updCtx.answer

/-! ### Keys, firmware and sessions (Sys2Proof/Machine/Cairn.lean) -/

theorem Keeps.drawnBy {n : Nat} (h : Keeps m q) : Keeps m (q.drawnBy n) := h.upd

theorem Keeps.dropSession (h : Keeps m q) : Keeps m q.dropSession := h.upd.wrF.wrF

theorem Keeps.toOpen {cause : TrustCause} (h : Keeps m q) : Keeps m (q.toOpen cause) := h.setTrust.upd

theorem Keeps.dropPortKey {p : Nat} (h : Keeps m q) : Keeps m (q.dropPortKey p) := .ite h.wr.updPort.wrF.setPortState.flushPort h.wr.updPort.wrF

theorem Keeps.dropKeys (h : Keeps m q) : Keeps m q.dropKeys := by
  unfold Mach.dropKeys
  extract_lets q₁ _ q₂
  have h₁ : Keeps m q₁ := h.each fun _ _ hr => hr.eraseSlot
  have h₂ : Keeps m q₂ := h₁.upd
  exact h₂.dropSession.each fun _ _ hr => hr.dropPortKey

theorem Keeps.massifOff (h : Keeps m q) : Keeps m q.massifOff := by
  unfold Mach.massifOff
  extract_lets q₁ _ q₂ q₃ q₄ _ q₅
  have h₁ : Keeps m q₁ := h.each fun _ _ hr => hr.updIsland
  clear_value q₁
  have h₂ : Keeps m q₂ := by
    refine h₁.trans ⟨fun hq => ?_, id⟩
    rw [shaped_iff] at hq ⊢
    obtain ⟨hctxs, -, hrest⟩ := hq
    exact ⟨hctxs, List.length_replicate, hrest⟩
  have h₄ : Keeps m q₄ := h₂.resetRegs.zeroMem
  clear_value q₄
  have h₅ : Keeps m q₅ := h₄.upd
  exact h₅.wrF.wrF

theorem Keeps.massifOn (h : Keeps m q) : Keeps m q.massifOn := (h.each (fun _ _ hr => hr.updIsland)).wrF.wrF

theorem Keeps.beginClearing {waiters : List (Lane × Nat × Nat)} {cause : TrustCause} (h : Keeps m q) : Keeps m (q.beginClearing waiters cause) := by
  unfold Mach.beginClearing
  split
  · exact h.upd
  · exact (h.toOpen.wrF.upd.each (fun _ _ hr => hr.endContext)).dropKeys.massifOff.startScrub

theorem Keeps.clearingEnd (h : Keeps m q) : Keeps m (clearingEnd q) := by
  unfold Machine.clearingEnd
  split
  · exact h
  · exact .ite h (h.upd.massifOn.wrF.log.foldl (fun _ _ hr => hr.finish))

theorem Keeps.configChange (h : Keeps m q) : Keeps m q.configChange := .ite h.beginClearing (.ite h.toOpen h)

theorem Keeps.endSession (h : Keeps m q) : Keeps m q.endSession := .ite h.dropSession.beginClearing h.dropSession

theorem Keeps.tenantEndBody {hd : Hdr} (h : Keeps m q) : Keeps m (tenantEndBody hd q) := h.begin.beginClearing

theorem Keeps.lockConfigBody {hd : Hdr} {level : Nat} (h : Keeps m q) : Keeps m (lockConfigBody hd level q) := by
  unfold Machine.lockConfigBody
  extract_lets +onlyGivenNames _
  refine .ite h.answer (.ite h.answer (.ite h.answer ?_))
  refine .ite (.ite h.answer h.setTrust.upd.answer) (.ite (.ite h.setTrust.answer h.answer) ?_)
  exact .ite h.begin.beginClearing h.toOpen.answer

theorem Keeps.spdmReply {hd : Hdr} (h : Keeps m q) : Keeps m (q.spdmReply hd) := h.drawnBy.answer

theorem Keeps.spdmEffect {kind : SpdmKind} {inSession : Bool} (h : Keeps m q) : Keeps m (q.spdmEffect kind inSession) := by
  unfold Mach.spdmEffect
  split
  · exact .ite h h.upd.wrF
  · exact h
  · exact .ite h.endSession h
  · exact .ite h (.ite h.upd.wrF h.upd)

theorem Keeps.spdmBody {hd : Hdr} {kind : SpdmKind} {inSession ok : Bool} (h : Keeps m q) : Keeps m (spdmBody hd kind inSession ok q) :=
  .ite h.answer (.ite h.spdmReply.spdmEffect h.spdmReply)

theorem Keeps.heartbeatExpiry (h : Keeps m q) : Keeps m (heartbeatExpiry q) := by
  unfold Machine.heartbeatExpiry
  split
  · exact .ite h.endSession h
  · exact h

theorem Keeps.getEphemeralBody {hd : Hdr} (h : Keeps m q) : Keeps m (getEphemeralBody hd q) := .ite h.answer (.ite h.answer h.upd.drawnBy.answer)

theorem Keeps.ephemeralExpiry {id : Nat} (h : Keeps m q) : Keeps m (ephemeralExpiry id q) := h.upd

theorem Keeps.loadKey {hd : Hdr} {k : KeyLoad} (h : Keeps m q) : Keeps m (q.loadKey hd k) := by
  unfold Mach.loadKey
  extract_lets +onlyGivenNames named key hostMapped _ q₁
  have h₁ : Keeps m q₁ := h.upd
  clear_value key
  refine .ite h₁.answer ?_
  split
  · exact h₁.answer
  · exact .ite h₁.answer (.ite h₁.answer h₁.upd.wr.orR.log.answer)

theorem Keeps.loadBody {hd : Hdr} {payload : List Byte} (h : Keeps m q) : Keeps m (loadBody hd payload q) := .ite h.answer h.loadKey

theorem Keeps.clearBody {hd : Hdr} {slot : Nat} (h : Keeps m q) : Keeps m (clearBody hd slot q) :=
  .ite h.answer (.ite h.answer (.ite h.answer h.eraseSlot.answer))

theorem Keeps.ownerTransferBody {hd : Hdr} {digest signature : List Byte} (h : Keeps m q) : Keeps m (ownerTransferBody hd digest signature q) :=
  .ite h.answer (.ite h.answer (h.configChange.wrF.wrF.each (fun _ _ hr => hr.wr)).log.begin.upd.startScrub)

theorem Keeps.setBank {b : Nat} {v : Bank2} (h : Keeps m q) : Keeps m (q.setBank b v) := h.upd

theorem Keeps.checkPackage {hd : Hdr} {total : Nat} (h : Keeps m q) : Keeps m (q.checkPackage hd total) := by
  unfold Mach.checkPackage
  extract_lets +onlyGivenNames b package _ q₁
  have h₁ : Keeps m q₁ := h.upd
  clear_value package
  split
  · exact h₁.setBank.answer
  · exact .ite h₁.setBank.wrF.configChange.upd.answer h₁.setBank.wrF.answer

theorem Keeps.fwUpdateBody {hd : Hdr} {offset total : Nat} {payload : List Byte} (h : Keeps m q) : Keeps m (fwUpdateBody hd offset total payload q) :=
  .ite h.answer (.ite h.upd.checkPackage h.upd.answer)

theorem Keeps.setDebug {on : Bool} (h : Keeps m q) : Keeps m (q.setDebug on) := .ite h h.wrF.log

theorem Keeps.debugEnableBody {hd : Hdr} {signature : List Byte} (h : Keeps m q) : Keeps m (debugEnableBody hd signature q) :=
  .ite h.answer (.ite h.newNonce.answer h.configChange.setDebug.newNonce.answer)

theorem Keeps.debugDisableBody {hd : Hdr} (h : Keeps m q) : Keeps m (debugDisableBody hd q) := h.setDebug.answer

/-! ### Col (Sys2Proof/Machine/Col.lean) -/

theorem Keeps.loadPlace {n : Nat} {o : SOp} (h : Keeps m q) : Keeps m (loadPlace n o q) := by
  unfold Machine.loadPlace
  split
  · exact h
  · exact h.place

theorem Keeps.colRead {n rep : Nat} {s : Machine.Stream} {x : Ctx} {d : Desc} {p : Placed} {e : Ecc} {k : Mach → Begin} (h : Keeps m q)
    (hk : ∀ r, Keeps m r → BeginKeeps m (k r)) : BeginKeeps m (q.colRead n s x d p rep e k) := by
  unfold Mach.colRead
  refine h.access fun r hr => ?_
  extract_lets pas words bad q₁ hosts q₂
  have h₁ : Keeps m q₁ := hr.checkWords.tallyBy
  have h₂ : Keeps m q₂ := h₁.foldl fun _ _ hr => hr.hostTxn
  exact .ite (.stop h₁) (hk _ (.ite h₂ h₂.updRange))

theorem Keeps.colDirect {n : Nat} {s : Machine.Stream} {x : Ctx} {d : Desc} {p : Placed} {e : Ecc} (h : Keeps m q) :
    BeginKeeps m (q.colDirect n s x d p e) := by
  unfold Mach.colDirect
  extract_lets _
  split
  · exact .stop h
  · exact h.colRead (fun _ hr => .ok hr.updRange)

theorem Keeps.colAhead {n : Nat} {s : Machine.Stream} {x : Ctx} {e : Ecc} (h : Keeps m q) : BeginKeeps m (q.colAhead n s x e) := by
  unfold Mach.colAhead
  extract_lets r
  split
  · exact .held
  split
  · extract_lets rep w
    refine .ite .held (.ite .held (.ite .held ?_))
    split
    next e => exact e ▸ h.colRead fun _ hr => .ok hr.updRange
    · exact .held
  · exact .held

theorem Keeps.colBegin {n : Nat} {e : Ecc} {s : Machine.Stream} (h : Keeps m q) : BeginKeeps m (colBegin n e q s) := by
  unfold Machine.colBegin
  split
  · exact .held
  · extract_lets _ _
    split
    · exact .ite h.colAhead .held
    · split
      · exact .held
      · refine .ite .held ?_
        split
        · exact .ite h.colAhead .held
        · exact .ite h.colDirect h.colAhead

theorem Keeps.stagedMove {n : Nat} (h : Keeps m q) : Keeps m (stagedMove n q) := by
  unfold Machine.stagedMove
  split
  · exact .ite h h.setRange.didRep
  · exact h

theorem Keeps.colFull {n : Nat} (h : Keeps m q) : Keeps m (q.colFull n) := by
  unfold Mach.colFull
  split
  · exact .ite h h.setRange.didRep
  · exact h

/-! ### Crest (Sys2Proof/Machine/Crest.lean) -/

theorem Keeps.mmaPlace {n : Nat} (h : Keeps m q) : Keeps m (mmaPlace n q) := by
  unfold Machine.mmaPlace
  split
  · exact h
  · exact h.place

theorem Keeps.crestBegin {n : Nat} {ecc : Ecc} {s : Machine.Stream} (h : Keeps m q) : BeginKeeps m (crestBegin n ecc q s) := by
  unfold Machine.crestBegin
  split
  · exact .held
  extract_lets r e absentA absentB c gated
  have hc : Keeps m c.1 := h.tilesChecked
  refine .ite .held ?_
  split
  · exact .held
  split
  · split
    · exact .stop h
    · exact .ite (.stop hc) (.ok hc.setRange.didRep.convFlags)
  · exact .held

theorem Keeps.drainPlace {n : Nat} (h : Keeps m q) : Keeps m (drainPlace n q) := by
  unfold Machine.drainPlace
  split
  · exact h
  · exact h.place

theorem Keeps.drainBegin {n : Nat} {ecc : Ecc} {s : Machine.Stream} (h : Keeps m q) : BeginKeeps m (drainBegin n ecc q s) := by
  unfold Machine.drainBegin
  split
  · exact .held
  extract_lets r e c leak
  have hc : Keeps m c.1 := h.tileChecked
  clear_value c e
  split
  · exact .held
  refine .ite .held ?_
  split
  · exact .held
  split
  · exact .stop h
  · exact .ite (.stop hc) (.ok hc.setRange.didRep.convFlags)

theorem Keeps.crestDrain {n : Nat} {ph : Phase} {ecc : Ecc} (h : Keeps m q) : Keeps m (crestDrain n ph ecc q) := by
  unfold Machine.crestDrain
  split
  · exact h.drainPlace
  · exact h.flowBegin (fun _ => h.drainBegin)

theorem Keeps.readoutEnd {n : Nat} (h : Keeps m q) : Keeps m (readoutEnd n q) := h.when h.updRange

theorem Keeps.drainFull {n : Nat} (h : Keeps m q) : Keeps m (drainFull n q) := by
  unfold Machine.drainFull
  extract_lets +onlyGivenNames _
  refine .ite h ?_
  extract_lets _
  split
  · exact h.setRange
  · exact .ite h.setRange h.setRange

/-! ### Start and resets (Sys2Proof/Machine/Start.lean) -/

theorem Keeps.failStage {stage cause : Nat} (h : Keeps m q) : Keeps m (q.failStage stage cause) := h.wrF.wrF.wrF.upd

theorem Keeps.nextStage {k : Nat} (h : Keeps m q) : Keeps m (q.nextStage k) := h.wr.wrF.upd

theorem Keeps.resetCause {kind source target : Nat} (h : Keeps m q) : Keeps m (q.resetCause kind source target) := h.wrF.wrF.wrF.addF

theorem Keeps.coldState (h : Keeps m q) : Keeps m q.coldState := by
  unfold Mach.coldState
  extract_lets q₁ _ _ _ _ _ q₂
  have h₂ : Keeps q₁ q₂ := .of_reset rfl rfl rfl rfl
  exact (h.toOpen.trans h₂).resetRegs

theorem Keeps.coldReset (h : Keeps m q) : Keeps m (coldReset q) := h.coldState.newNonce

theorem Keeps.cairnInputLoss (h : Keeps m q) : Keeps m (cairnInputLoss q) := by
  unfold Machine.cairnInputLoss
  extract_lets q₁
  refine h.coldState.trans ⟨fun hq => ?_, id⟩
  rw [shaped_iff] at hq ⊢
  obtain ⟨hctxs, hranges, htarn, hdram, hports, -, hrest⟩ := hq
  exact ⟨hctxs, hranges, htarn, hdram, hports, by simp, hrest⟩

theorem Keeps.powerGood (h : Keeps m q) : Keeps m (powerGood q) := .ite h.upd h

theorem Keeps.endS0 {r : StageResult} (h : Keeps m q) : Keeps m (q.endS0 r) := by
  unfold Mach.endS0
  extract_lets +onlyGivenNames q₁ _
  have h₁ : Keeps m q₁ := h.wrF
  split
  · exact h₁.wrF.failStage
  · exact h₁.upd.wrF.wrF.nextStage

theorem Keeps.releaseHeld (h : Keeps m q) : Keeps m q.releaseHeld := h.upd.foldl (fun _ _ hr => hr.send)

theorem Keeps.grantSpace (h : Keeps m q) : Keeps m q.grantSpace := h.upd

theorem Keeps.trainStacks {failed : Nat} (h : Keeps m q) : Keeps m (q.trainStacks failed) := (h.each (fun _ _ hr => hr.stackState)).wrF

theorem Keeps.endS1 {r : StageResult} (h : Keeps m q) : Keeps m (q.endS1 r) := by
  unfold Mach.endS1
  extract_lets q₁ _ q₂ q₃ _ q₄ q₅
  have h₁ : Keeps m q₁ := h.each (fun _ _ hr => hr.updIsland)
  have h₂ : Keeps m q₂ := h₁.wr
  have h₃ : Keeps m q₃ := h₂.wrF.wrF
  have h₄ : Keeps m q₄ := h₃.grantSpace.releaseHeld.trainStacks.nextStage
  have h₅ : Keeps m q₅ := .ite h₄ h₄.startScrub
  exact .ite h₅.failStage h₅

theorem Keeps.beginS3 (h : Keeps m q) : Keeps m q.beginS3 := by
  unfold Mach.beginS3
  extract_lets q₁ q₂
  have h₁ : Keeps m q₁ := h.darkReset.wrF
  have h₂ : Keeps m q₂ := h₁.each (fun _ _ hr => .ite hr.wrF hr)
  exact .ite h₂.lsuStable (.ite h₂.lsuStable h₂)

theorem Keeps.rebuild {c : Nat} (h : Keeps m q) : Keeps m (q.rebuild c) := .ite h (h.restoreRecords.each (fun _ _ hr => hr.assignRange))

theorem Keeps.endS2 (h : Keeps m q) : Keeps m q.endS2 := by
  unfold Mach.endS2
  extract_lets q₁ _ q₂
  have h₁ : Keeps m q₁ := (h.massifOn.each (fun _ _ hr => hr.rebuild)).nextStage
  have h₂ : Keeps m q₂ := by
    unfold q₂
    split
    · exact h₁
    · exact h₁.upd.massifOff.startScrub
  exact h₂.beginS3

theorem Keeps.endS3 (h : Keeps m q) : Keeps m q.endS3 := h.wrF.setCircuits.wrF.nextStage.each (fun _ _ hr => hr.trainPort)

theorem Keeps.endS4 (h : Keeps m q) : Keeps m q.endS4 := h.nextStage.upd.settleResets

theorem Keeps.stageEnd {r : StageResult} (h : Keeps m q) : Keeps m (stageEnd r q) := by
  unfold Machine.stageEnd
  refine .ite h ?_
  split
  · exact h.endS0
  · exact h.endS1
  · exact .ite h.endS2 h
  · exact .ite h.endS3 h
  · exact .ite h.endS4 h
  · exact h

theorem Keeps.stageOverrun {cause : Nat} (h : Keeps m q) : Keeps m (stageOverrun cause q) := by
  unfold Machine.stageOverrun
  split
  · exact h
  · exact .ite h (.ite h.failStage (.ite h.failStage h))

theorem Keeps.lightTimeout {p : Nat} (h : Keeps m q) : Keeps m (lightTimeout p q) := .ite h.updPort h

theorem Keeps.s3Timeout (h : Keeps m q) : Keeps m (s3Timeout q) := .ite h.wrF.wrF.nextStage h

/-- A retained reset takes the contexts and Foothill from the module before it. -/
theorem Keeps.retainFrom {old : Mach} (h : Keeps m q) (ho : Keeps m old) : Keeps m (q.retainFrom old) := by
  unfold Mach.retainFrom
  extract_lets foot _ _ q₁ q₂
  have h₁ : Keeps m q₁ := by
    refine ⟨fun hm => ?_, fun hm => ?_⟩
    · have hq := h.shaped hm
      have hold := ho.shaped hm
      rw [shaped_iff] at hq hold ⊢
      obtain ⟨-, hranges, htarn, -, hrest⟩ := hq
      obtain ⟨hctxs, -, -, hdram, -⟩ := hold
      exact ⟨List.length_map _ |>.trans hctxs, hranges, htarn, List.length_map _ |>.trans hdram, hrest⟩
    · have hq := h.canonical hm
      have hold := ho.canonical hm
      rw [canonical_iff] at hq hold ⊢
      exact ⟨hq.1, Sparse.wf_clear _ old.mem.bytes (fun a => !foot a) hold.2.1, hq.2.2⟩
  have h₂ : Keeps m q₂ := h₁.foldl fun _ _ hr => hr.wr
  exact h₂.wrF.wrF

theorem Keeps.restartCairn (h : Keeps m q) : Keeps m q.restartCairn := h.upd.resetRegs.wrF

theorem Keeps.moduleReset {source : Nat} {retain restart held : Bool} (h : Keeps m q) : Keeps m (q.moduleReset source retain restart held) := by
  unfold Mach.moduleReset
  extract_lets +onlyGivenNames _ _ _ q₁ q₂ q₃ q₄ q₅ q₆ q₇ q₈ q₉ q₁₀ q₁₁ q₁₂
  have h₁ : Keeps m q₁ := h
  have h₂ : Keeps m q₂ := h.setDebug.darkReset
  have h₃ : Keeps m q₃ := .ite h₂.toOpen.blank.dropKeys h₂.toOpen.blank
  have h₄ : Keeps m q₄ := .ite (h₃.retainFrom h₁) h₃
  have h₅ : Keeps m q₅ := .ite h₄.restartCairn h₄
  have h₆ : Keeps m q₆ := .ite h₅.wrF h₅
  have h₇ : Keeps m q₇ := h₆.wrF.wr
  have h₈ : Keeps m q₈ := h₇.wrF
  have h₉ : Keeps m q₉ := h₈.wrF.wrF
  have h₁₀ : Keeps m q₁₀ := (h₉.each (fun _ _ hr => hr.wr)).resetCause
  have h₁₁ : Keeps m q₁₁ := h₁₀.wr.wr.wr
  have h₁₂ : Keeps m q₁₂ := h₁₁.wr.wr.wrF.wrF
  exact h₁₂.upd

theorem Keeps.awaitReset {hd : Hdr} {w : ResetFor} (h : Keeps m q) : Keeps m (q.awaitReset hd w) := h.upd.begin

theorem Keeps.moduleResetBody {hd : Hdr} {target : Nat} (h : Keeps m q) : Keeps m (moduleResetBody hd target q) :=
  .ite h.answer (.ite h.awaitReset h.answer.moduleReset)

theorem Keeps.activation (h : Keeps m q) : Keeps m (activation q) := by
  unfold Machine.activation
  split
  · exact h
  · exact h.log.moduleReset

theorem Keeps.modResetAssert (h : Keeps m q) : Keeps m (modResetAssert q) := .ite h (.ite h.upd (.ite h.upd.upd h.upd.moduleReset))

theorem Keeps.modResetDeassert (h : Keeps m q) : Keeps m (modResetDeassert q) := .ite h.upd.upd h.upd

theorem Keeps.resetRange {c n : Nat} (h : Keeps m q) : Keeps m (q.resetRange c n) := h.wr.clearRange

theorem Keeps.resetContext {c : Nat} (h : Keeps m q) : Keeps m (q.resetContext c) := by
  unfold Mach.resetContext
  extract_lets q₁ q₂ q₃ q₄ q₅ q₆
  have h₁ : Keeps m q₁ := h.quietContext
  have h₂ : Keeps m q₂ := .ite h₁.endFreeze h₁
  have h₃ : Keeps m q₃ := h₂.restoreRecords
  have h₄ : Keeps m q₄ := h₃.each (fun _ _ hr => hr.wr)
  have h₅ : Keeps m q₅ := h₄.resetRegs
  have h₆ : Keeps m q₆ := h₅.updCtx
  exact h₆.each (fun _ _ hr => hr.resetRange)

theorem Keeps.contextResetBody {hd : Hdr} {target : Nat} (h : Keeps m q) : Keeps m (contextResetBody hd target q) :=
  .ite h.answer (.ite h.awaitReset h.resetCause.resetContext.awaitReset.settleResets)

theorem Keeps.rangeResetBody {hd : Hdr} {target : Nat} (h : Keeps m q) : Keeps m (rangeResetBody hd target q) := by
  unfold Machine.rangeResetBody
  refine .ite h.answer (.ite h.answer ?_)
  split
  · exact h.awaitReset
  · extract_lets _ q₁ q₂
    have h₁ : Keeps m q₁ := h.resetCause
    have h₂ : Keeps m q₂ := by
      unfold q₂
      split
      · exact h₁.stopStream
      · exact h₁
    exact h₂.resetRange.awaitReset

theorem Keeps.restartPort {p : Nat} (h : Keeps m q) : Keeps m (q.restartPort p) :=
  (Keeps.ite h.flushPort.updPort.upd.wr.trainPort h.flushPort.updPort.upd.wr.trainPort.setPortState).belayPathDown

theorem Keeps.resetPort {p : Fin 32} (h : Keeps m q) : Keeps m (q.resetPort p) := (h.foldl (fun _ _ hr => hr.resweep)).restartPort

theorem Keeps.portResetBody {hd : Hdr} {target : Nat} (h : Keeps m q) : Keeps m (portResetBody hd target q) := by
  unfold Machine.portResetBody
  refine .ite h.answer ?_
  split
  · exact .ite h.awaitReset (.ite h.resetCause.answer h.resetCause.resetPort.awaitReset)
  · exact h.answer

theorem Keeps.tenantResetBody {hd : Hdr} {target : Nat} (h : Keeps m q) : Keeps m (tenantResetBody hd target q) :=
  .ite h.answer (.ite h.awaitReset h.resetCause.setDebug.begin.beginClearing)

/-! ### Registers (Sys2Proof/Machine/Csr.lean) -/

theorem Keeps.afterRead {a : Nat} (h : Keeps m q) : Keeps m (q.afterRead a) := .ite h.wr (.ite h.wr h.wr)

theorem Keeps.useSvn {new : Word} (h : Keeps m q) : Keeps m (q.useSvn new) := h.wrF.wrF.log

theorem Keeps.useFuse (h : Keeps m q) : Keeps m q.useFuse := h.configChange.wrF.wrF.log

theorem Keeps.refloor {c : Nat} (h : Keeps m q) : Keeps m (q.refloor c) := h.each (fun _ _ hr => hr.setFreq)

theorem Keeps.setServe {c : Nat} {v : Word} (h : Keeps m q) : Keeps m (q.setServe c v) := (Keeps.ite h.wr h.wr.updCtx).refloor

theorem Keeps.setProg {c s p : Nat} {v : Word} (h : Keeps m q) : Keeps m (q.setProg c s p v) := .ite h.wr (.ite h.wr h.wr)

theorem Keeps.csrPut {c a : Nat} {new w : Word} (h : Keeps m q) : Keeps m (q.csrPut c a new w) := by
  unfold Mach.csrPut
  split
  · exact .ite (.ite h h.useSvn) (.ite (.ite h h.useFuse) h.wr)
  · exact .ite (.ite h.wr h) (.ite h.setServe h.wr)
  · exact .ite h.setProg h.wr
  · exact .ite h.wr.failover h.wr
  · exact h.wr

theorem Keeps.csrApply {c base : Nat} {values : List Word} (h : Keeps m q) : Keeps m (q.csrApply c base values) := h.foldl (fun _ _ hr => hr.csrPut)

theorem Keeps.csrGet {a : Nat} (h : Keeps m q) : Keeps m (q.csrGet a).2 := h.afterRead

theorem Keeps.csrGets {a n : Nat} (h : Keeps m q) : Keeps m (q.csrGets a n).2 := by
  induction n generalizing q a with
  | zero => exact h
  | succ n ih => exact ih h.csrGet

theorem Keeps.csrReadBody {hd : Hdr} {op address count : Nat} (h : Keeps m q) : Keeps m (csrReadBody hd op address count q) := by
  unfold Machine.csrReadBody
  split
  · exact h.answer
  · exact .ite h.answer (.ite h.answer h.csrGets.answer)

theorem Keeps.csrWriteBody {hd : Hdr} {address : Nat} {values : List Word} (h : Keeps m q) : Keeps m (csrWriteBody hd address values q) := by
  unfold Machine.csrWriteBody
  split
  · exact h.answer
  · refine .ite h.answer ?_
    split
    · exact h.answer
    · exact h.csrApply.answer

theorem Keeps.csrWriteCmd {hd : Hdr} {address count : Nat} {values : List Word} (h : Keeps m q) : Keeps m (q.csrWriteCmd hd address count values) :=
  h.command (fun _ hr => hr.csrWriteBody)

theorem Keeps.csrReadCmd {hd : Hdr} {address : Nat} (h : Keeps m q) : Keeps m (q.csrReadCmd hd address) := h.command (fun _ hr => hr.csrReadBody)

/-! ### Ridge (Sys2Proof/Machine/Ridge.lean) -/

theorem Keeps.fabricPlanBody {hd : Hdr} {payload : List Byte} (h : Keeps m q) : Keeps m (fabricPlanBody hd payload q) := by
  unfold Machine.fabricPlanBody
  refine .ite h.answer ?_
  split
  · exact h.answer
  · exact .ite h.answer (.ite h.answer (h.each (fun _ _ hr => hr.updPort)).upd.wrF.begin)

theorem Keeps.exchangeCords {p x : Nat} (h : Keeps m q) : Keeps m (q.exchangeCords p x) := h.upd.wrF.wrF

theorem Keeps.changePort {p : Nat} (h : Keeps m q) : Keeps m (q.changePort p) := by
  unfold Mach.changePort
  extract_lets +onlyGivenNames q₁ q₂
  have h₁ : Keeps m q₁ := h.flushPort.updPort
  have h₂ : Keeps m q₂ := h₁.wr.wr.wr
  exact .ite h₂.showLanes (.ite h₂.trainPort h₂.portDown.updPort)

theorem Keeps.showPlan {pl : Plan} (h : Keeps m q) : Keeps m (q.showPlan pl) :=
  (Keeps.ite h.wrF.wrF.wrF.wr.wrF.wr h.wrF.wrF.wrF.wr.wrF).each (fun _ _ hr => hr.wr)

theorem Keeps.putPlan {pl : Plan} (h : Keeps m q) : Keeps m (q.putPlan pl) := by
  unfold Mach.putPlan
  extract_lets old cords q₁ q₂ keep q₃ q₄
  have h₁ : Keeps m q₁ := h.setCircuits.setRxMap
  have h₂ : Keeps m q₂ := h₁.foldl fun _ _ hr => hr.exchangeCords
  have h₃ : Keeps m q₃ := h₂.of_sizes (ports := List.length_map _)
  have h₄ : Keeps m q₄ := h₃.showPlan.each fun _ _ hr => hr.changePort
  exact h₄.belayNewPlan.newPlanSteps

theorem Keeps.circuitSetApplied (h : Keeps m q) : Keeps m (circuitSetApplied q) := by
  unfold Machine.circuitSetApplied
  split
  · exact h
  · extract_lets _ q₁ q₂ q₃
    have h₁ : Keeps m q₁ := h.upd
    have h₂ : Keeps m q₂ := h₁.wrF
    have h₃ : Keeps m q₃ := by
      unfold q₃
      split
      · exact h₂.putPlan
      · exact h₂.setCircuits.setRxMap
    exact h₃.finish

theorem Keeps.fabricDiscoverBody {hd : Hdr} (h : Keeps m q) : Keeps m (fabricDiscoverBody hd q) := by
  unfold Machine.fabricDiscoverBody
  extract_lets q₁ q₂ q₃
  have h₁ : Keeps m q₁ := .ite (h.each fun _ _ hr => hr.trainPort) h
  have h₂ : Keeps m q₂ := h₁.of_sizes (ports := List.length_map _)
  exact h₂.begin.upd.settleResets

theorem Keeps.linkStatusBody {hd : Hdr} {mask : Nat} (h : Keeps m q) : Keeps m (linkStatusBody hd mask q) := h.answer

theorem Keeps.holdPort {p state cause status detail : Nat} (h : Keeps m q) : Keeps m (q.holdPort p state cause status detail) :=
  h.setPortState.wrF.wrF.wr.showLanes.report.trouble

theorem Keeps.matchPort {p rev : Nat} (h : Keeps m q) : Keeps m (q.matchPort p rev) := h.updPort.wrF.wrF.setPortState.showLanes.sendOn

theorem Keeps.judgePort {p : Nat} (h : Keeps m q) : Keeps m (q.judgePort p) := by
  unfold Mach.judgePort
  extract_lets _
  split
  · exact h
  · refine .ite h ?_
    split
    · exact h.holdPort.tally
    · exact h.setPortState.wrF
    · extract_lets +onlyGivenNames _
      refine .ite h ?_
      split
      · exact h.holdPort.tally
      · extract_lets q₁
        have h₁ : Keeps m q₁ := h.holdPort
        refine .ite h.holdPort (.ite h.matchPort ?_)
        split
        · exact h₁
        · split
          · refine .ite ?_ h₁
            extract_lets q₂
            have h₂ : Keeps m q₂ := h.exchangeCords.addF.tally.matchPort
            split
            · exact h₂.matchPort
            · exact h₂
          · exact .ite h₁ h

theorem Keeps.judgeFace {p : Nat} (h : Keeps m q) : Keeps m (q.judgeFace p) := h.each (fun _ _ hr => hr.judgePort)

theorem Keeps.identityFrame {p : Nat} {i : Identity} (h : Keeps m q) : Keeps m (identityFrame p i q) :=
  .ite h h.wr.wr.wr.updPort.judgeFace.settleResets

theorem Keeps.identityTimeout {p : Nat} (h : Keeps m q) : Keeps m (identityTimeout p q) :=
  .ite h (Keeps.ite h.updPort h.updPort.portDown.belayPathDown).judgeFace.settleResets

theorem Keeps.lightAppears {p : Nat} (h : Keeps m q) : Keeps m (lightAppears p q) := .ite h (.ite h.updPort h.updPort.trainPort)

theorem Keeps.portTrained {p : Nat} (h : Keeps m q) : Keeps m (portTrained p q) := .ite h h.updPort.setPortState.showLanes.sendOn

theorem Keeps.portUp {p : Nat} (h : Keeps m q) : Keeps m (portUp p q) := .ite h h.setPortState.wr.wrF.updPort.showLanes.pump.settleResets

theorem Keeps.portKeyExchange {p : Nat} {k : KeyEx} (h : Keeps m q) : Keeps m (portKeyExchange p k q) :=
  .ite h (.ite h.wr.report.settleResets h.wr.updPort.settleResets)

theorem Keeps.keyEpochRoll {p : Nat} (h : Keeps m q) : Keeps m (keyEpochRoll p q) :=
  .ite h (.ite h.wrF.updPort.sendOn h.addF.tally.updPort.wr.wrF.setPortState)

theorem Keeps.frameArrives {p : Nat} {f : Frame} {rx : FrameRx} (h : Keeps m q) : Keeps m (frameArrives p f rx q) :=
  .ite h.frameReceive.belayPathDown h.frameReceive

theorem Keeps.laneLoss {p : Fin 32} {lane : Fin 8} {ringLost : Bool} (h : Keeps m q) : Keeps m (laneLoss p lane ringLost q) := by
  unfold Machine.laneLoss
  extract_lets +onlyGivenNames _
  exact .ite h (.ite (Keeps.ite h.ringLoss h).updPort.showLanes (Keeps.ite h.ringLoss h).updPort.setPortState.addF.tally.showLanes.sendOn)

theorem Keeps.retrained {p : Fin 32} (h : Keeps m q) : Keeps m (q.retrained p) :=
  .ite h.showLanes (.ite h.updPort.setPortState.showLanes.replayFrom.pump h.updPort.showLanes)

theorem Keeps.laneRealign {p : Fin 32} {lane : Fin 8} (h : Keeps m q) : Keeps m (laneRealign p lane q) := .ite h h.updPort.retrained

theorem Keeps.laneDrop {p : Fin 32} {lane : Fin 8} (h : Keeps m q) : Keeps m (laneDrop p lane q) := by
  unfold Machine.laneDrop
  split
  · exact h
  · exact .ite h h.updPort.retrained

theorem Keeps.portDownTimeout {p : Nat} (h : Keeps m q) : Keeps m (portDownTimeout p q) := .ite h (.ite h.portDown.belayPathDown h)

theorem Keeps.timestampExchange {p : Nat} {t1 t2 t3 t4 parent : Int} (h : Keeps m q) : Keeps m (timestampExchange p t1 t2 t3 t4 parent q) := by
  unfold Machine.timestampExchange
  refine .ite h ?_
  extract_lets _ q₁
  have h₁ : Keeps m q₁ := h.updPort.wr
  split
  · exact h₁
  · exact .ite h₁.wr h₁

theorem Keeps.holdOver (h : Keeps m q) : Keeps m q.holdOver := .ite h h.upd.wrF.trouble.tally

theorem Keeps.epochMarker {epoch : Nat} {crcOk : Bool} (h : Keeps m q) : Keeps m (epochMarker epoch crcOk q) :=
  .ite h (.ite (.ite h.upd.holdOver h.upd) (.ite h.upd.wrF h.upd))

theorem Keeps.epochBoundary (h : Keeps m q) : Keeps m (epochBoundary q) := .ite h (h.upd.each (fun _ _ hr => .ite hr.updCtx hr))

theorem Keeps.tbClkLoss (h : Keeps m q) : Keeps m (tbClkLoss q) := .ite h h.holdOver

theorem Keeps.tbReferenceReturn {reference : Nat} (h : Keeps m q) : Keeps m (tbReferenceReturn reference q) := .ite h (.ite h.upd h.upd)

/-! ### Spur (Sys2Proof/Machine/Spur.lean) -/

theorem Keeps.kernelPlace {n : Nat} (h : Keeps m q) : Keeps m (kernelPlace n q) := by
  unfold Machine.kernelPlace
  split
  · exact h
  · exact h.place

theorem Keeps.reducePlace {n : Nat} (h : Keeps m q) : Keeps m (reducePlace n q) := by
  unfold Machine.reducePlace
  split
  · exact h
  · exact h.place

theorem Keeps.permPlace {n : Nat} (h : Keeps m q) : Keeps m (permPlace n q) := by
  unfold Machine.permPlace
  split
  · exact h
  · exact h.place

theorem Keeps.normRep {n : Nat} {e : Ewx} {t : Tile} (h : Keeps m q) : Keeps m (q.normRep n e t) := .ite h.setNormAcc.normNan h

theorem Keeps.spurBegin {n : Nat} {ecc : Ecc} {s : Machine.Stream} (h : Keeps m q) : BeginKeeps m (spurBegin n ecc q s) := by
  unfold Machine.spurBegin
  split
  · exact .held
  extract_lets r e c nacc o isKernel r₁ r₂ r₃ q₁ q₂
  have hc : Keeps m c.1 := h.tilesChecked
  have h₁ : Keeps m q₁ := hc.setRange.convFlags
  have h₂ : Keeps m q₂ := .ite h₁.nanMade.normRep h₁
  refine .ite .held ?_
  split
  · exact .held
  split
  · exact .stop h
  · exact .ite (.stop hc) (.ok (.ite h₂.wrF h₂))

theorem Keeps.spurFull {n : Nat} (h : Keeps m q) : Keeps m (q.spurFull n) := by
  unfold Mach.spurFull
  split
  · exact .ite h h.updRange.didRep
  · exact h

/-! ### Slots (Sys2Proof/Machine/Slots.lean) -/

theorem Keeps.settleHead {k c n st : Nat} (h : Keeps m q) : Keeps m (Mach.settleHead k q c n st) := by
  induction k generalizing q with
  | zero => exact h
  | succ k ih =>
    unfold Mach.settleHead
    split
    · exact h
    · exact .ite (ih h.waitSatisfied) (.ite (ih h.instrComplete) h)

theorem Keeps.slotBegin {n st : Nat} {ecc : Ecc} {s : Machine.Stream} (h : Keeps m q) : BeginKeeps m (slotBegin n st ecc q s) := by
  unfold Machine.slotBegin
  split
  · exact .held
  · refine .ite (.ok h.beginRep.didRep) ?_
    split
    · exact h.colBegin
    · exact .ite h.drainBegin h.crestBegin
    · exact h.spurBegin
    · exact h.talusBegin
    · exact h.screeBegin
    · exact h.linkBegin

theorem Keeps.stationSlot {s : Machine.Stream} {n st : Nat} {ecc : Ecc} {a : Mach × List StopAt} (h : Keeps m a.1) :
    Keeps m (stationSlot s n ecc a st).1 := by
  unfold Machine.stationSlot
  extract_lets q₁
  have h₁ : Keeps m q₁ := h.settleHead
  clear_value q₁
  have hb : BeginKeeps m (Machine.slotBegin n st ecc q₁ s) := h₁.slotBegin
  split
  next e => exact (e ▸ hb).of_ok
  next e => exact (e ▸ hb).of_stop
  · split
    · exact h₁
    · exact h₁

theorem Keeps.rangeSlot {s : Machine.Stream} {n : Nat} {ecc : Ecc} {a : Mach × List StopAt} (h : Keeps m a.1) :
    Keeps m (rangeSlot s ecc a n).1 := by
  unfold Machine.rangeSlot
  extract_lets r
  have hr : Keeps m r.1 := h.foldlFst (a := (a.1, [])) fun _ _ hb => hb.stationSlot
  clear_value r
  exact hr

theorem Keeps.slotStart {n : Nat} {ecc : Ecc} (h : Keeps m q) : Keeps m (slotStart n ecc q) := by
  unfold Machine.slotStart
  split
  · exact h
  split
  · exact h
  refine .ite h ?_
  extract_lets q₁ r
  have h₁ : Keeps m q₁ := h.updStream
  have hr : Keeps m r.1 := h₁.foldlFst (a := (q₁, [])) fun _ _ hb => hb.rangeSlot
  clear_value r
  split
  · exact hr
  · exact hr.stopStream

theorem Keeps.tileFull {n st : Nat} (h : Keeps m q) : Keeps m (tileFull n st q) := by
  unfold Machine.tileFull
  split
  · exact h.colFull
  · exact h.drainFull
  · exact h.spurFull
  · exact h.screeFull
  · exact h

/-! ### Swite (Sys2Proof/Machine/Swite.lean) -/

theorem Keeps.refuseHeader {op : Nat} {hd : Hdr} {r : Nat × Bool} {rest : Nat} (h : Keeps m q) : Keeps m (q.refuseHeader op hd r rest) := h.addF.send

theorem Keeps.arrive {op : Nat} {hd : Hdr} {p : Packet} (h : Keeps m q) : Keeps m (q.arrive op hd p) := .ite h.countPacket.refuseHeader h.upd

theorem Keeps.setArriving {l : List Packet} (h : Keeps m q) : Keeps m (q.setArriving l) := h.upd

theorem Keeps.discardRest {cls : Nat} (h : Keeps m q) : Keeps m (q.discardRest cls) := h.upd

theorem Keeps.growPacket {p : Packet} (h : Keeps m q) : Keeps m (q.growPacket p) := by
  unfold Mach.growPacket
  extract_lets +onlyGivenNames _
  refine .ite h.setArriving ?_
  extract_lets +onlyGivenNames _ _ q₁
  have h₁ : Keeps m q₁ := h.setArriving
  split
  · exact .ite h₁.discardRest.refuseHeader h₁.refuseHeader
  · exact .ite h.setArriving h₁.arrive

theorem Keeps.takeFlit {f : Flit} (h : Keeps m q) : Keeps m (q.takeFlit f) := by
  unfold Mach.takeFlit
  extract_lets +onlyGivenNames _
  refine .ite h (.ite (.ite h.upd.growPacket (.ite h.upd.setArriving h.upd.setArriving)) ?_)
  split
  · exact h.addF
  · exact .ite h.growPacket (.ite h.setArriving h.setArriving)

theorem Keeps.flitAck {ack : Nat} (h : Keeps m q) : Keeps m (q.flitAck ack) := h.upd

theorem Keeps.resendFlits {seq : Nat} (h : Keeps m q) : Keeps m (q.resendFlits seq) := h.upd

theorem Keeps.flitReceive {f : Flit} {crcOk codewordOk : Bool} {corrected : Nat} (h : Keeps m q) :
    Keeps m (flitReceive f crcOk codewordOk corrected q) := by
  unfold Machine.flitReceive
  refine .ite h ?_
  extract_lets _ q₁
  have h₁ : Keeps m q₁ := .ite h.addF h.addF.addF.tally
  exact .ite (.ite h₁ h₁.upd.addF) h₁.upd.flitAck.takeFlit

theorem Keeps.linkControlFlit {c : LinkControl} {ack : Nat} (h : Keeps m q) : Keeps m (linkControlFlit c ack q) := by
  unfold Machine.linkControlFlit
  refine .ite h ?_
  extract_lets q₁
  have h₁ : Keeps m q₁ := h.flitAck
  split
  · exact h₁.resendFlits
  · exact h₁.upd (credits := List.length_set)

theorem Keeps.sendFlit {cls : Nat} {r : Mach} (h : Keeps m q) (hr : q.sendFlit cls = some r) : Keeps m r := by
  unfold Mach.sendFlit at hr
  split at hr
  · cases hr
  split at hr
  · cases hr
  · cases hr
    exact h.upd (credits := List.length_set)

theorem Keeps.sendFlits {n cls : Nat} (h : Keeps m q) : Keeps m (Mach.sendFlits n cls q).2 := by
  induction n generalizing q with
  | zero => exact h
  | succ n ih =>
    unfold Mach.sendFlits
    split
    next e => exact ih (h.sendFlit e)
    · exact h

/-- Each class sends its reserved flits, then the classes follow in order. -/
theorem Keeps.classWindow (h : Keeps m q) : Keeps m (classWindow q) := by
  unfold Machine.classWindow
  refine .ite h ?_
  extract_lets order first
  have hf : Keeps m first.2 := h.foldlSnd (a := (q.windowFlits, q)) fun _ _ hs => hs.sendFlits
  exact hf.foldlSnd fun _ _ hs => hs.sendFlits

theorem Keeps.alignmentLoss {lane : Nat} (h : Keeps m q) : Keeps m (alignmentLoss lane q) := .ite h h.wrF.wrF.addF.trouble.tally

theorem Keeps.linkRetrained {lanes : Nat} (h : Keeps m q) : Keeps m (linkRetrained lanes q) := by
  unfold Machine.linkRetrained
  refine .ite h ?_
  extract_lets _
  split
  exact .ite h.wrF.wrF h.wrF.wrF.resendFlits.releaseHeld

theorem Keeps.mgmtPacket {l : List Byte} {crcOk : Bool} (h : Keeps m q) : Keeps m (mgmtPacket l crcOk q) := by
  unfold Machine.mgmtPacket
  refine .ite h (.ite h.addF ?_)
  extract_lets _ _
  split
  · exact h.refuseHeader
  · exact .ite h.refuseHeader h.arrive

theorem Keeps.packetTimeout {cls : Nat} (h : Keeps m q) : Keeps m (packetTimeout cls q) := by
  unfold Machine.packetTimeout
  split
  · exact h
  · exact .ite h (.ite h.discardRest.addF.trouble.tally.send h.discardRest.addF.trouble.tally)

theorem Keeps.eventSend {kind : Nat} (h : Keeps m q) : Keeps m (eventSend kind q) := by
  unfold Machine.eventSend
  split
  · exact h
  · exact .ite h h.upd.send

/-! ### Survey and Waymark (Sys2Proof/Machine/Survey.lean) -/

theorem Keeps.setSurveyState {v : Nat} (h : Keeps m q) : Keeps m (q.setSurveyState v) := h.wrF

theorem Keeps.surveySnapBody {hd : Hdr} {tick opt : Nat} (h : Keeps m q) : Keeps m (surveySnapBody hd tick opt q) :=
  .ite h.answer (.ite h.answer h.upd.wr.wr.setSurveyState.begin)

theorem Keeps.snapshotCapture (h : Keeps m q) : Keeps m (snapshotCapture q) := by
  unfold Machine.snapshotCapture
  refine .ite h ?_
  extract_lets v q₁ q₂
  have h₁ : Keeps m q₁ := by
    refine h.withSurvey fun ht => ?_
    dsimp only
    split
    · rfl
    · exact ht
  have h₂ : Keeps m q₂ := h₁.drawn.setSurveyState.wrF.wrF
  split
  · exact h₂.finish
  · exact h₂

theorem Keeps.readout {names release : Bool} {units : List Nat} (h : Keeps m q) : Keeps m (q.readout names release units) :=
  .ite h (.ite h.upd.wrF.setSurveyState h.upd.wrF)

theorem Keeps.surveyReadBody {hd : Hdr} {first count opt : Nat} (h : Keeps m q) : Keeps m (surveyReadBody hd first count opt q) :=
  .ite h.answer (.ite h.answer h.readout.answer)

theorem Keeps.setMark {mask instr pass rep : Nat} (h : Keeps m q) : Keeps m (q.setMark mask instr pass rep) :=
  h.each (fun _ _ hr => hr.wrF.wrF.wrF.wrF)

theorem Keeps.armFor {hd : Hdr} {mask instr pass rep : Nat} (h : Keeps m q) : Keeps m (q.armFor hd mask instr pass rep) := h.upd.setMark.begin

theorem Keeps.armBody {hd : Hdr} {mask instr pass rep : Nat} (h : Keeps m q) : Keeps m (armBody hd mask instr pass rep q) := by
  unfold Machine.armBody
  split
  · exact h.answer
  · exact .ite h.answer (.ite h.answer h.armFor)

theorem Keeps.goOn {n : Nat} (h : Keeps m q) : Keeps m (q.goOn n) := .ite h.setRangeState.wrF.updRange.progress.settle h.settle

theorem Keeps.resumeBody {hd : Hdr} {mask instr pass rep : Nat} (h : Keeps m q) : Keeps m (resumeBody hd mask instr pass rep q) := by
  unfold Machine.resumeBody
  split
  · exact h.answer
  · exact .ite h.answer ((Keeps.ite h.disarmRanges.answer h.disarmRanges.armFor).each (fun _ _ hr => hr.goOn))

theorem Keeps.disarmBody {hd : Hdr} {mask : Nat} (h : Keeps m q) : Keeps m (disarmBody hd mask q) := by
  unfold Machine.disarmBody
  split
  · exact h.answer
  · exact (h.dropArms.disarmRanges.each (fun _ _ hr => hr.settle)).answer

theorem Keeps.answerArms (h : Keeps m q) : Keeps m q.answerArms := h.upd.foldl (fun _ _ hr => hr.finish)

theorem Keeps.waymarkHalt {n : Nat} (h : Keeps m q) : Keeps m (waymarkHalt n q) := by
  unfold Machine.waymarkHalt
  split
  · exact h
  · exact .ite h h.wr.setRangeState.wrF.wrF.updRange.answerArms

theorem Keeps.debugDumpBody {hd : Hdr} {range what treg : Nat} (h : Keeps m q) : Keeps m (debugDumpBody hd range what treg q) := by
  unfold Machine.debugDumpBody
  refine .ite h.answer (.ite h.answer ?_)
  refine .ite h.answer ?_
  extract_lets +onlyGivenNames _
  split
  · exact h.answer
  · exact h.answer
  · exact h.drawn.answer

/-! ### Every step -/

/-- A meaning answers the module it makes of the one it is given. -/
theorem run_keeps {s t : State} {f : Mach → Mach} (hf : ∀ {m}, Keeps m m → Keeps m (f m)) (h : s.run f = .next t) :
    Keeps s.toMach t.toMach := by
  cases h
  exact hf (.refl s.toMach)

theorem exec_keeps {i : Instr} {s t : State} (h : exec i s = .next t) : Keeps s.toMach t.toMach := by
  revert h
  cases i with
  | hello | identify => exact run_keeps fun h => h.command fun _ hr => hr.answer
  | getEphemeral => exact run_keeps fun h => h.command fun _ hr => .ite hr.getEphemeralBody hr.answer
  | csrRead | timebaseNowRead | stepDeadlineRead => exact run_keeps fun h => h.csrReadCmd
  | csrWrite | switch | securityVersionWrite | prodDebugOffWrite | syncCounterWrite | tarnProgClaim | serveCfgWrite
  | timebaseMasterWrite => exact run_keeps fun h => h.csrWriteCmd
  | csrReadBlock => exact run_keeps fun h => h.command fun _ hr => hr.csrReadBody
  | memCopy => exact run_keeps fun h => h.command fun _ hr => hr.memCopyBody
  | memFill => exact run_keeps fun h => h.command fun _ hr => hr.memFillBody
  | memMap => exact run_keeps fun h => h.command fun _ hr => hr.memMapBody
  | memUnmap => exact run_keeps fun h => h.command fun _ hr => hr.memUnmapBody
  | contextCreate => exact run_keeps fun h => h.command fun _ hr => hr.contextCreateBody
  | contextDestroy => exact run_keeps fun h => h.command fun _ hr => hr.contextDestroyBody
  | descLoad => exact run_keeps fun h => h.command fun _ hr => hr.descLoadBody
  | streamLoad => exact run_keeps fun h => h.command fun _ hr => hr.streamLoadBody
  | streamStart => exact run_keeps fun h => .ite h (h.command fun _ hr => hr.streamStartBody)
  | streamStop => exact run_keeps fun h => h.command fun _ hr => hr.streamStopBody
  | streamStatus => exact run_keeps fun h => h.command fun _ hr => hr.streamStatusBody
  | framePush => exact run_keeps fun h => h.command fun _ hr => hr.framePushBody
  | stepBegin => exact run_keeps fun h => h.command fun _ hr => hr.stepBeginBody
  | stepCommit => exact run_keeps fun h => h.command fun _ hr => hr.stepCommitBody
  | stepAbort => exact run_keeps fun h => h.command fun _ hr => hr.stepAbortBody
  | scheduleLoad => exact run_keeps fun h => h.command fun _ hr => hr.scheduleLoadBody
  | fabricDiscover => exact run_keeps fun h => h.command fun _ hr => hr.fabricDiscoverBody
  | fabricPlan => exact run_keeps fun h => h.command fun _ hr => hr.fabricPlanBody
  | meshSet => exact run_keeps fun h => h.command fun _ hr => hr.meshSetBody
  | darkMapWrite => exact run_keeps fun h => h.command fun _ hr => hr.darkMapBody
  | linkStatus => exact run_keeps fun h => h.command fun _ hr => hr.linkStatusBody
  | spdmMsg => exact run_keeps fun h => h.command fun _ hr => hr.spdmBody
  | load => exact run_keeps fun h => h.command fun _ hr => hr.loadBody
  | clear => exact run_keeps fun h => h.command fun _ hr => hr.clearBody
  | lockConfig => exact run_keeps fun h => h.command fun _ hr => hr.lockConfigBody
  | tenantEnd => exact run_keeps fun h => h.command fun _ hr => hr.tenantEndBody
  | clearingEnd => exact run_keeps fun h => h.clearingEnd
  | ownerTransfer => exact run_keeps fun h => h.command fun _ hr => hr.ownerTransferBody
  | fwUpdate => exact run_keeps fun h => h.command fun _ hr => hr.fwUpdateBody
  | activation => exact run_keeps fun h => h.activation
  | belayPlan => exact run_keeps fun h => h.command fun _ hr => hr.belayPlanBody
  | belaySnapshot => exact run_keeps fun h => h.command fun _ hr => hr.belaySnapshotBody
  | belayRestore => exact run_keeps fun h => h.command fun _ hr => hr.belayRestoreBody
  | surveySnap => exact run_keeps fun h => h.command fun _ hr => hr.surveySnapBody
  | surveyRead => exact run_keeps fun h => h.command fun _ hr => hr.surveyReadBody
  | arm => exact run_keeps fun h => h.command fun _ hr => hr.armBody
  | resume => exact run_keeps fun h => h.command fun _ hr => hr.resumeBody
  | disarm => exact run_keeps fun h => h.command fun _ hr => hr.disarmBody
  | debugDump => exact run_keeps fun h => h.command fun _ hr => hr.debugDumpBody
  | debugModeEnable => exact run_keeps fun h => h.command fun _ hr => hr.debugEnableBody
  | debugModeDisable => exact run_keeps fun h => h.command fun _ hr => hr.debugDisableBody
  | powerBudgetCap => exact run_keeps fun h => h.command fun _ hr => hr.budgetCapBody
  | powerBudgetReservation => exact run_keeps fun h => h.command fun _ hr => hr.reservationBody
  | thermalStatus => exact run_keeps fun h => h.command fun _ hr => hr.thermalStatusBody
  | moduleReset => exact run_keeps fun h => h.command fun _ hr => hr.moduleResetBody
  | contextReset => exact run_keeps fun h => h.command fun _ hr => hr.contextResetBody
  | rangeReset => exact run_keeps fun h => h.command fun _ hr => hr.rangeResetBody
  | portReset => exact run_keeps fun h => h.command fun _ hr => hr.portResetBody
  | tenantReset => exact run_keeps fun h => h.command fun _ hr => hr.tenantResetBody
  | coldReset => exact run_keeps fun h => h.coldReset
  | powerGood => exact run_keeps fun h => h.powerGood
  | stageEnd => exact run_keeps fun h => h.stageEnd
  | stageDeadlineOverrun => exact run_keeps fun h => h.stageOverrun
  | discoveryLightTimeout => exact run_keeps fun h => h.lightTimeout
  | modResetNAssert => exact run_keeps fun h => h.modResetAssert
  | modResetNDeassert => exact run_keeps fun h => h.modResetDeassert
  | ctrlFence => exact run_keeps fun h => h.ctrlFence
  | ctrlLoop => exact run_keeps fun h => h.ctrlLoop
  | ctrlEndloop => exact run_keeps fun h => h.ctrlEndloop
  | ctrlSetlc => exact run_keeps fun h => h.ctrlSetlc
  | ctrlSetax => exact run_keeps fun h => h.ctrlSetax
  | ctrlAddax => exact run_keeps fun h => h.ctrlAddax
  | ctrlSetinc => exact run_keeps fun h => h.ctrlSetinc
  | idle => exact run_keeps fun h => h.idle
  | colLoad | colLoadt => exact run_keeps fun h => h.loadPlace
  | colRepeatBegin => exact run_keeps fun h => h.flowBegin fun _ => h.colBegin
  | stagedTileMove => exact run_keeps fun h => h.stagedMove
  | crestMma => exact run_keeps fun h => h.mmaPlace
  | crestRepeatBegin => exact run_keeps fun h => h.flowBegin fun _ => h.crestBegin
  | crestDrain => exact run_keeps fun h => h.crestDrain
  | drainReadoutEnd => exact run_keeps fun h => h.readoutEnd
  | drainTileFull => exact run_keeps fun h => h.drainFull
  | spurKernel => exact run_keeps fun h => h.kernelPlace
  | spurReduce => exact run_keeps fun h => h.reducePlace
  | spurPerm => exact run_keeps fun h => h.permPlace
  | spurRepeatBegin => exact run_keeps fun h => h.flowBegin fun _ => h.spurBegin
  | talusStore => exact run_keeps fun h => h.storePlace
  | talusRepeatBegin => exact run_keeps fun h => h.flowBegin fun _ => h.storeBegin
  | talusMark => exact run_keeps fun h => h.talusMark
  | markAccepted => exact run_keeps fun h => h.markAccepted
  | screeGather | screeScatter | screeScatterAdd => exact run_keeps fun h => h.screePlace
  | screeRepeatBegin => exact run_keeps fun h => h.flowBegin fun _ => h.screeBegin
  | syncSignal => exact run_keeps fun h => h.syncSignal
  | syncSignalFire => exact run_keeps fun h => h.syncFire
  | syncWait => exact run_keeps fun h => h.syncWait
  | syncWaitSatisfied => exact run_keeps fun h => h.waitSatisfied
  | linkSend => exact run_keeps fun h => h.linkSend
  | linkReduce => exact run_keeps fun h => h.linkPlace
  | postingStart => exact run_keeps (f := fun m => (Machine.postingStart _ _ _ m).checkAll) fun h => h.postingStart.checkAll
  | linkRecv => exact run_keeps fun h => h.linkRecv
  | instructionComplete => exact run_keeps fun h => h.instrComplete
  | streamEnd => exact run_keeps fun h => h.streamEnd
  | noProgress => exact run_keeps fun h => h.noProgress
  | lockstepStartInstant => exact run_keeps fun h => h.startInstant
  | slotStart => exact run_keeps fun h => h.slotStart
  | pageWalkDone => exact run_keeps fun h => h.walkDone
  | hostTxnCompletion => exact run_keeps fun h => h.hostTxnCompletion
  | hostTxnTimeout => exact run_keeps fun h => h.hostTxnTimeout
  | grantWindow => exact run_keeps fun h => h.grantWindow
  | patrolRead => exact run_keeps fun h => h.patrolRead
  | wholeMemoryScrubDone => exact run_keeps fun h => h.wholeMemoryScrubDone
  | frameScrubDone => exact run_keeps fun h => h.frameScrubDone
  | scheduleEntryStart => exact run_keeps fun h => h.entryStart
  | scheduleEntryEnd => exact run_keeps fun h => h.entryEnd
  | attemptStart => exact run_keeps fun h => h.attemptStart
  | join => exact run_keeps fun h => h.gotMsg fun _ hr => hr.takeJoin
  | start => exact run_keeps fun h => h.gotMsg fun _ hr => hr.takeStart
  | ready => exact run_keeps fun h => h.gotMsg fun _ hr => hr.takeReady
  | fail => exact run_keeps fun h => h.gotMsg fun _ hr => hr.takeFail
  | commit => exact run_keeps fun h => h.gotMsg fun _ hr => hr.takeCommit
  | abort => exact run_keeps fun h => h.gotMsg fun _ hr => hr.takeAbort
  | updated => exact run_keeps fun h => h.gotMsg fun _ hr => hr.takeUpdated
  | close => exact run_keeps fun h => h.gotMsg fun _ hr => hr.takeClose
  | stepDeadlineExpiry => exact run_keeps fun h => h.stepDeadline
  | updateDeadlineExpiry => exact run_keeps fun h => h.updateDeadline
  | localAbort => exact run_keeps fun h => h.localAbort
  | tarnRecordFlip => exact run_keeps fun h => h.tarnRecordFlip
  | tarnUpdateComplete => exact run_keeps fun h => h.tarnUpdateComplete
  | tarnFault => exact run_keeps fun h => h.tarnFault
  | rollback => exact run_keeps fun h => h.rollback
  | mirror => exact run_keeps fun h => h.gotMsg fun _ hr => hr.takeMirror
  | mirrorOpen => exact run_keeps fun h => h.mirrorOpen
  | mirrorData => exact run_keeps fun h => h.mirrorData
  | catchUpDone => exact run_keeps fun h => h.catchUpDone
  | slotCommit => exact run_keeps fun h => h.slotCommit
  | belayCommitFrame => exact run_keeps fun h => h.belayCommitFrame
  | mirrorTimeout => exact run_keeps fun h => h.mirrorTimeout
  | mirrored => exact run_keeps fun h => h.gotMsg fun _ hr => hr.takeMirrored
  | roundEnd => exact run_keeps fun h => h.gotMsg fun _ hr => hr.takeRoundEnd
  | frameReceive => exact run_keeps fun h => h.frameArrives
  | replayRequest => exact run_keeps fun h => h.replayRequest
  | messageLand => exact run_keeps fun h => h.messageLand
  | reductionFrame => exact run_keeps (f := fun m => (Machine.reductionFrame _ _ m).checkAll) fun h => h.reductionFrame.checkAll
  | identityFrame => exact run_keeps fun h => h.identityFrame
  | identityTimeout => exact run_keeps fun h => h.identityTimeout
  | portUp => exact run_keeps fun h => h.portUp
  | portKeyExchange => exact run_keeps fun h => h.portKeyExchange
  | keyEpochRoll => exact run_keeps fun h => h.keyEpochRoll
  | timestampExchange => exact run_keeps fun h => h.timestampExchange
  | laneLoss => exact run_keeps fun h => h.laneLoss
  | laneRealign => exact run_keeps fun h => h.laneRealign
  | laneDrop => exact run_keeps fun h => h.laneDrop
  | portDownTimeout => exact run_keeps fun h => h.portDownTimeout
  | epochMarker => exact run_keeps fun h => h.epochMarker
  | epochBoundary => exact run_keeps fun h => h.epochBoundary
  | tbClkLoss => exact run_keeps fun h => h.tbClkLoss
  | tbReferenceReturn => exact run_keeps fun h => h.tbReferenceReturn
  | lsuStable => exact run_keeps fun h => h.lsuStable
  | standbyAligned => exact run_keeps fun h => h.standbyAligned
  | lineLoss => exact run_keeps fun h => h.lineLoss
  | lsuFault => exact run_keeps fun h => h.lsuFault
  | lsuRemoved => exact run_keeps fun h => h.lsuRemoved
  | lsuInserted => exact run_keeps fun h => h.lsuInsert
  | failoverComplete => exact run_keeps fun h => h.failoverComplete
  | fullSweepDone => exact run_keeps fun h => h.fullSweep
  | toneCheckDone => exact run_keeps fun h => h.toneCheck
  | ringLockLoss => exact run_keeps fun h => h.ringLoss
  | circuitSetApplied => exact run_keeps fun h => h.circuitSetApplied
  | trimAttemptDone => exact run_keeps fun h => h.trimAttempt
  | sensorRead => exact run_keeps fun h => h.sensorRead
  | fastHoldEnd => exact run_keeps fun h => h.fastHoldEnd
  | slowThrottleStep => exact run_keeps fun h => h.slowStep
  | computeStopEnd => exact run_keeps fun h => h.computeStopEnd
  | budgetEvaluation => exact run_keeps fun h => h.budgetEvaluation
  | powerSample => exact run_keeps fun h => h.powerSample
  | capEnforcementStep => exact run_keeps fun h => h.capEnforce
  | capRestoreStep => exact run_keeps fun h => h.capRestore
  | boostCheck => exact run_keeps fun h => h.boostCheck
  | starveExpiry => exact run_keeps fun h => h.starveExpiry
  | voltageChangeDone => exact run_keeps fun h => h.voltageDone
  | rangePowerOff => exact run_keeps fun h => h.rangePowerOff
  | inputDip => exact run_keeps fun h => h.inputDip
  | brownOut => exact run_keeps fun h => h.brownOut
  | brownoutEnd => exact run_keeps fun h => h.brownoutEnd
  | inputPowerOff => exact run_keeps fun h => h.inputPowerOff
  | coolantChange => exact run_keeps fun h => h.coolantChange
  | coolantStop => exact run_keeps fun h => h.coolantStop
  | flitReceive => exact run_keeps fun h => h.flitReceive
  | linkControlFlit => exact run_keeps fun h => h.linkControlFlit
  | switeAlignmentLoss => exact run_keeps fun h => h.alignmentLoss
  | mgmtPacket => exact run_keeps fun h => h.mgmtPacket
  | packetTimeout => exact run_keeps fun h => h.packetTimeout
  | classWindow => exact run_keeps fun h => h.classWindow
  | eventSend => exact run_keeps fun h => h.eventSend
  | heartbeatExpiry => exact run_keeps fun h => h.heartbeatExpiry
  | ephemeralKeyExpiry => exact run_keeps fun h => h.ephemeralExpiry
  | snapshotCapture => exact run_keeps fun h => h.snapshotCapture
  | waymarkHalt => exact run_keeps fun h => h.waymarkHalt
  | pinStart => exact run_keeps fun h => h.pinStart
  | intakeDeadline => exact run_keeps fun h => h.intakeDeadline
  | tileFull => exact run_keeps fun h => h.tileFull
  | rangeCleared => exact run_keeps fun h => h.rangeCleared
  | copyComplete => exact run_keeps fun h => h.copyComplete
  | cairnInputLoss => exact run_keeps fun h => h.cairnInputLoss
  | switeLinkRetrained => exact run_keeps fun h => h.linkRetrained
  | lightAppears => exact run_keeps fun h => h.lightAppears
  | portTrained => exact run_keeps fun h => h.portTrained
  | s3Timeout => exact run_keeps fun h => h.s3Timeout
  | lsuWorn => exact run_keeps fun h => h.lsuWorn
  | restoreFrame => exact run_keeps fun h => h.restoreFrame

theorem step_keeps {s t : State} (h : step s = .next t) : Keeps s.toMach t.toMach := by
  unfold Machine.step at h
  split at h
  · exact run_keeps .tick h
  · have hk := exec_keeps h
    exact hk

/-- Settles O59: whatever the front command is, its meaning keeps the sizes of the tables. -/
theorem stepKeepsShape : Obligations.StepKeepsShape := fun _ _ hs h => (step_keeps h).shaped hs

end Sys2Proof.Laws
end

section
namespace Sys2Proof.Laws

open Sys2Proof.Machine

/-!
# Register reads

The fields of every register lie apart in its 32 bits, so a fold that sets some of them leaves each of the others. With that, what a read shows
and what it leaves is read off the fields one by one.
-/

/-! ### The fields of a register -/

/-- Two fields share no bit. -/
abbrev Apart (f g : Fld) : Prop := f.lo + f.width ≤ g.lo ∨ g.lo + g.width ≤ f.lo

/-- A field lies within a word, and the value that a read resets it to within the field. -/
abbrev Fits (f : FieldSpec) : Prop := f.fld.lo + f.fld.width ≤ 32 ∧ (f.acc = .rc → f.reset < 2 ^ f.fld.width)

/-- The fields of one register fit and lie apart. -/
abbrev SoundFields (l : List FieldSpec) : Prop := (∀ f ∈ l, Fits f) ∧ l.Pairwise (fun f g => Apart f.fld g.fld)

theorem Block.regs_sound (b : Block) : ∀ r ∈ b.regs, SoundFields r.fields := by
  cases b <;> decide +kernel

theorem regFind_mem {off : Nat} {l : List RegSpec} {r : RegSpec} (h : regFind off l = some r) : r ∈ l := by
  induction l with
  | nil => cases h
  | cons x t ih =>
    unfold regFind at h
    split at h
    · cases h
      exact List.mem_cons_self
    · exact List.mem_cons_of_mem x (ih h)

theorem regAt_mem {a : Nat} {r : RegSpec} (h : regAt a = some r) : ∃ b : Block, r ∈ b.regs := by
  unfold regAt at h
  split at h
  · cases h
  · exact ⟨_, regFind_mem h⟩

theorem fieldsAt_sound (a : Nat) : SoundFields (fieldsAt a) := by
  unfold fieldsAt
  cases h : regAt a with
  | none => exact ⟨by simp, .nil⟩
  | some r =>
    obtain ⟨b, hr⟩ := regAt_mem h
    exact Block.regs_sound b r hr

/-! ### Setting the fields of a kind -/

/-- A word with the fields that `p` picks set. -/
abbrev setFields (p : FieldSpec → Prop) [DecidablePred p] (v : FieldSpec → Nat) (l : List FieldSpec) (w : Word) : Word :=
  l.foldl (fun w f => if p f then Word.setF w f.fld (v f) else w) w

section

variable {p : FieldSpec → Prop} [DecidablePred p] {v : FieldSpec → Nat} {f g : FieldSpec} {w : Word}

theorem getF_setField_apart (hg : Fits g) (hf : Fits f) (h : Apart g.fld f.fld) :
    Word.getF (if p g then Word.setF w g.fld (v g) else w) f.fld = Word.getF w f.fld := by
  split
  · exact Word.getF_setF_other w g.fld f.fld (v g) hg.1 hf.1 h
  · rfl

/-- A field apart from all those of a list keeps its value. -/
theorem getF_setFields_apart {l : List FieldSpec} (hl : ∀ g ∈ l, Fits g ∧ Apart g.fld f.fld) (hf : Fits f) :
    Word.getF (setFields p v l w) f.fld = Word.getF w f.fld := by
  induction l generalizing w with
  | nil => rfl
  | cons g t ih =>
    obtain ⟨⟨hg, ha⟩, ht⟩ := List.forall_mem_cons.mp hl
    rw [setFields, List.foldl_cons, ih ht, getF_setField_apart hg hf ha]

/-- Of a register's fields, one that is picked has its new value, every other its old one. -/
theorem getF_setFields {l : List FieldSpec} (hl : SoundFields l) (hf : f ∈ l) :
    Word.getF (setFields p v l w) f.fld = if p f then v f % 2 ^ f.fld.width else Word.getF w f.fld := by
  obtain ⟨hfits, hapart⟩ := hl
  induction l generalizing w with
  | nil => cases hf
  | cons g t ih =>
    obtain ⟨hg, ht⟩ := List.forall_mem_cons.mp hfits
    obtain ⟨hgt, htt⟩ := List.pairwise_cons.mp hapart
    rw [setFields, List.foldl_cons]
    rcases List.mem_cons.mp hf with rfl | hft
    · rw [getF_setFields_apart (fun x hx => ⟨ht x hx, (hgt x hx).symm⟩) hg]
      split
      · exact Word.getF_setF_same w f.fld (v f) hg.1
      · rfl
    · rw [ih hft ht htt, getF_setField_apart hg (ht f hft) (hgt f hft)]

end

/-! ### Reading one register -/

theorem getF_shown {a : Nat} {f : FieldSpec} (v : Word) (hf : f ∈ fieldsAt a) :
    Word.getF (shown a v) f.fld = if f.acc = .wo then 0 else Word.getF v f.fld := by
  rw [shown, getF_setFields (p := fun f => f.acc = .wo) (v := fun _ => 0) (fieldsAt_sound a) hf, Nat.zero_mod]

/-- A read of a register that latches no other writes that register only. -/
theorem afterRead_eq (m : Mach) {a : Nat} (h₁ : a ≠ Reg.TRAVERSE_TIMEBASE_NOW_LO) (h₂ : a ≠ Reg.TRAVERSE_STEP_DEADLINE_LO) :
    m.afterRead a = m.wr a (setFields (fun f => f.acc = .rc) (fun f => f.reset) (fieldsAt a) (m.rd a)) := by
  rw [Mach.afterRead, if_neg h₁, if_neg h₂]

theorem rdF_afterRead (m : Mach) {a : Nat} {f : FieldSpec} (hf : f ∈ fieldsAt a) (h₁ : a ≠ Reg.TRAVERSE_TIMEBASE_NOW_LO)
    (h₂ : a ≠ Reg.TRAVERSE_STEP_DEADLINE_LO) : (m.afterRead a).rdF a f.fld = if f.acc = .rc then f.reset else m.rdF a f.fld := by
  obtain ⟨-, hreset⟩ := (fieldsAt_sound a).1 f hf
  rw [afterRead_eq m h₁ h₂, Mach.rdF, Mach.rd_wr_same, getF_setFields (fieldsAt_sound a) hf]
  split
  next hrc => exact Nat.mod_eq_of_lt (hreset hrc)
  · rfl

theorem rd_afterRead_other (m : Mach) {a b : Nat} (h₁ : a ≠ Reg.TRAVERSE_TIMEBASE_NOW_LO) (h₂ : a ≠ Reg.TRAVERSE_STEP_DEADLINE_LO)
    (hb : b ≠ a) : (m.afterRead a).rd b = m.rd b := by
  rw [afterRead_eq m h₁ h₂, Mach.rd_wr_other m a b _ hb]

/-- A read changes control space and nothing else. -/
theorem afterRead_csr_only (m : Mach) (a : Nat) : m.afterRead a = { m with csr := (m.afterRead a).csr } := by
  unfold Mach.afterRead
  split
  · rfl
  · split
    · rfl
    · rfl

theorem shown_timebaseNow (v : Word) : shown Reg.TRAVERSE_TIMEBASE_NOW_LO v = v := by
  have hf : fieldsAt Reg.TRAVERSE_TIMEBASE_NOW_LO = [⟨Fld.TRAVERSE_TIMEBASE_NOW_LO_NOW_LO, .ro, 0, false⟩] := by decide +kernel
  rw [shown, hf]
  rfl

theorem view_timebaseNow (m : Mach) : m.view Reg.TRAVERSE_TIMEBASE_NOW_LO = m.timebase.ticks.extractLsb' 0 32 := by
  have hw : windowOf Reg.TRAVERSE_TIMEBASE_NOW_LO = some (.traverse, 0, 0x714) := by decide
  rw [Mach.view, hw]
  rfl

/-! ### The commands -/

theorem took_stageShown (m : Mach) (op : Nat) (h : Hdr) : (m.took op h).stageShown = m.stageShown := took_rdF m op h _ _

theorem took_rangeState (m : Mach) (op : Nat) (h : Hdr) (n : Nat) : (m.took op h).rangeState n = m.rangeState n := took_rdF m op h _ _
theorem took_rangeCtx (m : Mach) (op : Nat) (h : Hdr) (n : Nat) : (m.took op h).rangeCtx n = m.rangeCtx n := took_rdF m op h _ _
theorem took_ctx (m : Mach) (op : Nat) (h : Hdr) (c : Nat) : (m.took op h).ctx c = m.ctx c := by rw [Mach.ctx, took_ctxs, Mach.ctx]

theorem took_owns (m : Mach) (op : Nat) (h : Hdr) (c n : Nat) : (m.took op h).owns c n = m.owns c n := by
  rw [Mach.owns, took_rangeState, took_rangeCtx, took_ctx, Mach.owns]

theorem took_readRefused (m : Mach) (op : Nat) (h : Hdr) (c a : Nat) : (m.took op h).readRefused c a = m.readRefused c a := by
  unfold Mach.readRefused
  split
  · rw [took_owns]
  · rfl

/-- A read that no check refuses answers DONE with the registers. -/
theorem csrReadBody_done {m : Mach} {h : Hdr} {op a n i : Nat} {b : Block} (hw : csrWindow a n = some (b, i)) (hs : b.stage < m.stageShown)
    (hr : ∀ k < n, m.readRefused h.ctx (a + 4 * k) = false) :
    csrReadBody h op a n m = (m.csrGets a n).2.answer h op St.done 0 (m.csrGets a n).1 := by
  have hany : ¬ (List.range n).any (fun k => m.readRefused h.ctx (a + 4 * k)) = true := by simpa using hr
  simp only [csrReadBody, hw, if_neg (Nat.not_le.mpr hs), if_neg hany]

theorem csrGets_one (m : Mach) (a : Nat) : m.csrGets a 1 = (leBytes (m.csrGet a).1.toNat 4, (m.csrGet a).2) := by
  simp [Mach.csrGets]

/-- A command whose rule reads registers, once it begins. -/
theorem csrRead_begins {s : State} {h : Hdr} {op a n i : Nat} {b : Block} {param : List Byte} (hw : csrWindow a n = some (b, i))
    (hs : b.stage < s.stageShown) (hr : ∀ k < n, s.readRefused h.ctx (a + 4 * k) = false) (hb : s.begins op h param) :
    s.run (fun m => m.command op h param (csrReadBody h op a n)) =
      .next (s.on (((s.took op h).csrGets a n).2.answer h op St.done 0 ((s.took op h).csrGets a n).1)) := by
  rw [command_begins s op h param _ hb, csrReadBody_done hw]
  · rwa [took_stageShown]
  · exact fun k hk => (took_readRefused _ op h _ _).trans (hr k hk)

/-- CSR_READ, by whichever row of the table, once it begins. -/
theorem csrReadCmd_begins {s : State} {h : Hdr} {a i : Nat} {b : Block} (hw : csrWindow a 1 = some (b, i)) (hs : b.stage < s.stageShown)
    (hr : ∀ k < 1, s.readRefused h.ctx (a + 4 * k) = false) (hb : s.begins Op.csrRead h (leBytes a 4)) :
    s.run (fun m => m.csrReadCmd h a) = .next (s.on (((s.took Op.csrRead h).csrGet a).2.answer h Op.csrRead St.done 0
      (leBytes ((s.took Op.csrRead h).csrGet a).1.toNat 4))) := by
  have hrun := csrRead_begins hw hs hr hb
  rw [csrGets_one] at hrun
  exact hrun

/-- Settles O9: the fields of a register lie apart, so each reads and is cleared on its own. -/
theorem csrReads : Obligations.CsrReads := by
  refine ⟨fun s h a n b i hw hs hr => ⟨fun hb => csrRead_begins hw hs hr hb, ?_⟩, fun m a n => ⟨rfl, rfl⟩, fun m a f hf => ?_,
    fun m a b => ?_, fun m => ?_⟩
  · rintro rfl hb
    have hrun := csrReadCmd_begins hw hs hr hb
    exact ⟨hrun, fun ha => ha ▸ hrun, fun ha => ha ▸ hrun⟩
  · exact ⟨getF_shown _ hf, fun h₁ h₂ => rdF_afterRead m hf h₁ h₂⟩
  · exact ⟨afterRead_csr_only m a, fun h₁ h₂ hb => rd_afterRead_other m h₁ h₂ hb⟩
  · refine ⟨?_, Mach.rd_wr_same _ _ _, Mach.rd_wr_same _ _ _⟩
    exact (shown_timebaseNow _).trans (view_timebaseNow m)

end Sys2Proof.Laws
end

section
namespace Sys2Proof.Laws

open Sys2Proof.Machine

/-- Settles O60: the canonical half of what every step keeps. -/
theorem stepKeepsCanonical : Obligations.StepKeepsCanonical := fun _ _ hs h => (step_keeps h).canonical hs

/-- Settles O58. -/
theorem invariantsAtReset : Obligations.InvariantsAtReset :=
  ⟨(shaped_iff _).mpr ⟨rfl, rfl, rfl, rfl, rfl, rfl, rfl, rfl⟩, (canonical_iff _).mpr ⟨rfl, rfl, rfl⟩⟩

end Sys2Proof.Laws
end

section
namespace Sys2Proof.Laws

open Sys2Proof.Machine

/-!
# Host commands that begin

A packet taken up changes only the session's counts and the packets that have arrived, so every check of a command's rule reads on the module
before it what it reads after it; and a command that begins has its replies sent and not held back.
-/

/-- A packet taken up: the session's counts and the packets that have arrived, nothing else. -/
theorem took_eq (m : Mach) (op : Nat) (h : Hdr) : ∃ c a, m.took op h = { m with cairn := c, swite := { m.swite with arrived := a } } := by
  unfold Mach.took Mach.countPacket
  split
  · exact ⟨_, _, rfl⟩
  · split
    · exact ⟨_, _, rfl⟩
    · exact ⟨_, _, rfl⟩

theorem took_replies (m : Mach) (op : Nat) (h : Hdr) : (m.took op h).swite.replies = m.swite.replies := by
  obtain ⟨c, a, hq⟩ := took_eq m op h
  rw [hq]

theorem took_outstanding (m : Mach) (op : Nat) (h : Hdr) : (m.took op h).swite.outstanding = m.swite.outstanding := by
  obtain ⟨c, a, hq⟩ := took_eq m op h
  rw [hq]

/-- A command on the data lanes begins only while they carry packets (R572). -/
theorem begins_dataUp {m : Mach} {op : Nat} {h : Hdr} {param : List Byte} (hb : m.begins op h param) : h.lane = .mgmt ∨ m.dataUp = true := by
  unfold Mach.begins Mach.verdict at hb
  split at hb
  · cases hb
  · split at hb
    · cases hb
    · next hd =>
      cases hl : h.lane with
      | mgmt => exact .inl rfl
      | data => exact .inr (by simpa [hl] using hd)

theorem countPacket_swite (m : Mach) (lane : Lane) (out : Bool) : (m.countPacket lane out).swite = m.swite := by
  unfold Mach.countPacket
  split
  · rfl
  · split
    · rfl
    · rfl

/-- A reply on the management lane, or while the data lanes carry packets, goes out at once. -/
theorem send_replies {m : Mach} {r : Reply} (h : r.lane = .mgmt ∨ m.dataUp = true) : (m.send r).swite.replies = m.swite.replies ++ [r] := by
  unfold Mach.send
  split
  · rfl
  · next hl =>
    rw [if_pos (h.resolve_left hl), countPacket_swite]
    rfl

theorem send_outstanding (m : Mach) (r : Reply) : (m.send r).swite.outstanding = m.swite.outstanding := by
  unfold Mach.send
  split
  · rfl
  · split
    · rw [countPacket_swite]
      rfl
    · rfl

theorem took_dataUp (m : Mach) (op : Nat) (h : Hdr) : (m.took op h).dataUp = m.dataUp := by
  rw [Mach.dataUp, took_rdF, Mach.dataUp]

/-- The answer of a command that begins is the one new reply. -/
theorem answer_replies {m q : Mach} {op : Nat} {h : Hdr} {param : List Byte} (hb : m.begins op h param) (hq : q.csr = m.csr)
    (hr : q.swite.replies = m.swite.replies) (status detail : Nat) (data : List Byte) :
    (q.answer h op status detail data).swite.replies = m.swite.replies ++ [replyOf h.prio h.lane h.ctx h.tag op status detail data true] := by
  rw [← hr]
  refine send_replies ((begins_dataUp hb).imp_right fun hd => ?_)
  rwa [Mach.dataUp, Mach.rdF_congr _ _ _ _ hq]

theorem ctx_lt {m : Mach} {c : Nat} {x : Ctx} (hx : m.ctx c = some x) : c < m.ctxs.length := by
  by_contra hc
  rw [Mach.ctx, List.getD_eq_default _ _ (by omega)] at hx
  cases hx

theorem ctx_setCtx_same {m : Mach} {c : Nat} (hc : c < m.ctxs.length) (x : Option Ctx) : (m.setCtx c x).ctx c = x := by
  simp [Mach.ctx, Mach.setCtx, hc]

theorem ctx_setCtx_other (m : Mach) {c d : Nat} (hd : d ≠ c) (x : Option Ctx) : (m.setCtx c x).ctx d = m.ctx d := by
  simp [Mach.ctx, Mach.setCtx, List.getD, hd.symm]

/-! ### The descriptor table -/

/-- The descriptor that a table holds at a handle. -/
def descAt (l : List (Nat × Desc)) (k : Nat) : Option Desc := (l.find? (fun e => decide (e.1 = k))).map (fun e => e.2)

theorem descAt_cons (e : Nat × Desc) (l : List (Nat × Desc)) (k : Nat) : descAt (e :: l) k = if e.1 = k then some e.2 else descAt l k := by
  unfold descAt
  rw [List.find?_cons]
  by_cases h : e.1 = k <;> simp [h]

/-- A descriptor put in its place is the one its handle names, and no other handle's. -/
theorem descAt_insertDesc (h : Nat) (d : Desc) (l : List (Nat × Desc)) (k : Nat) :
    descAt (insertDesc h d l) k = if h = k then some d else descAt l k := by
  induction l with
  | nil => exact descAt_cons _ _ _
  | cons e t ih =>
    unfold insertDesc
    split
    · exact descAt_cons _ _ _
    · split
      · next he =>
        subst he
        rw [descAt_cons, descAt_cons]
        split
        · rfl
        · rfl
      · next hne =>
        rw [descAt_cons, descAt_cons, ih]
        by_cases hk : e.1 = k
        · rw [if_pos hk, if_pos hk, if_neg (fun hh => hne (hh.trans hk.symm))]
        · rw [if_neg hk, if_neg hk]

/-- A run of descriptors put in place, each at its own handle. -/
theorem descAt_insertRun (f : Nat → Desc) (k : Nat) : ∀ (ks : List Nat) (l : List (Nat × Desc)),
    descAt ((ks.map (fun j => (j, f j))).foldl (fun l e => insertDesc e.1 e.2 l) l) k = if k ∈ ks then some (f k) else descAt l k := by
  intro ks
  induction ks with
  | nil => intro l; rfl
  | cons j t ih =>
    intro l
    rw [List.map_cons, List.foldl_cons, ih, descAt_insertDesc]
    by_cases ht : k ∈ t
    · simp [ht]
    · by_cases hj : j = k
      · simp [hj]
      · simp [ht, hj, Ne.symm hj]

/-! ### DESC_LOAD -/

section

variable {m : Mach} {h : Hdr} {x : Ctx} {first count : Nat} {payload : List Byte}

/-- The descriptor that a load gives a handle of its run. -/
abbrev loadedDesc (payload : List Byte) (first k : Nat) : Desc := Desc.ofBytes ((payload.drop (64 * (k - first))).take 64)

/-- The cause that refuses a handle's new descriptor. -/
abbrev loadCause (m : Mach) (c : Nat) (x : Ctx) (payload : List Byte) (first k : Nat) : Option Nat :=
  if (loadedDesc payload first k).valid then (loadedDesc payload first k).cause (m.granted c x) else none

/-- The table that a load leaves. -/
abbrev loadedTable (x : Ctx) (payload : List Byte) (first count : Nat) : List (Nat × Desc) :=
  ((List.range' first count).map (fun k => (k, loadedDesc payload first k))).foldl (fun l e => insertDesc e.1 e.2 l) x.descs

/-- The handles of a run are searched for a cause in ascending order. -/
theorem findCause_eq (m : Mach) (c : Nat) (x : Ctx) (payload : List Byte) (first count : Nat) :
    ((List.range' first count).map (fun k => (k, loadedDesc payload first k))).findSome?
      (fun e => if e.2.valid then (e.2.cause (m.granted c x)).map (fun k => (e.1, k)) else none) =
    (List.range' first count).findSome? (fun k => (loadCause m c x payload first k).map (fun v => (k, v))) := by
  rw [List.findSome?_map]
  congr 1
  funext k
  simp only [Function.comp, loadCause]
  split
  · rfl
  · rfl

theorem findSome?_range'_first {α : Type} {f : Nat → Option α} {k : Nat} {v : α} (hv : f k = some v) : ∀ {count first : Nat},
    first ≤ k → k < first + count → (∀ j, first ≤ j → j < k → f j = none) → (List.range' first count).findSome? f = some v := by
  intro count
  induction count with
  | zero => intro first h1 h2; omega
  | succ n ih =>
    intro first h1 h2 hn
    rw [List.range'_succ, List.findSome?_cons]
    by_cases hk : k = first
    · rw [← hk, hv]
    · rw [hn first (le_refl _) (by omega)]
      exact ih (by omega) (by omega) fun j hj => hn j (by omega)

/-- The first handle of a load's run with a cause, and the cause. -/
abbrev firstCause (m : Mach) (c : Nat) (x : Ctx) (payload : List Byte) (first count : Nat) : Option (Nat × Nat) :=
  (List.range' first count).findSome? (fun k => (loadCause m c x payload first k).map (fun v => (k, v)))

/-- The pair of trained weights that the table of a load would let overlap. -/
abbrev firstAlias (x : Ctx) (payload : List Byte) (first count : Nat) : Option (Nat × Nat) :=
  aliasPair ((loadedTable x payload first count).filter (fun e => e.2.trained))

theorem any_inUse {first count : Nat} {l : List Nat} : (List.range' first count).any (fun k => l.contains k) = true ↔
    ∃ k, first ≤ k ∧ k < first + count ∧ k ∈ l := by
  simp [List.any_eq_true, List.mem_range'_1, and_assoc]

section

variable (hx : m.ctx h.ctx = some x) (hp : first + count - 1 ≤ 0xFFFE)

include hx

theorem descLoadBody_badParam (hp : 0xFFFE < first + count - 1) :
    descLoadBody h first count payload m = m.answer h Op.descLoad St.badParam := by
  simp only [descLoadBody, hx, if_pos hp]

include hp

theorem descLoadBody_busy (hu : ∃ k, first ≤ k ∧ k < first + count ∧ k ∈ m.handlesInUse h.ctx) :
    descLoadBody h first count payload m = m.answer h Op.descLoad St.busy := by
  simp only [descLoadBody, hx, if_neg (Nat.not_lt.mpr hp), if_pos (any_inUse.mpr hu)]

variable (hu : ¬ ∃ k, first ≤ k ∧ k < first + count ∧ k ∈ m.handlesInUse h.ctx)

include hu

theorem descLoadBody_descInvalid {k c : Nat} (hf : firstCause m h.ctx x payload first count = some (k, c)) :
    descLoadBody h first count payload m = m.answer h Op.descLoad St.descInvalid (k * 65536 + c) := by
  simp only [descLoadBody, hx, if_neg (Nat.not_lt.mpr hp), if_neg (any_inUse.not.mpr hu), findCause_eq, hf]

theorem descLoadBody_descAlias {a b : Nat} (hf : firstCause m h.ctx x payload first count = none)
    (hab : firstAlias x payload first count = some (a, b)) :
    descLoadBody h first count payload m = m.answer h Op.descLoad St.descAlias (a * 65536 + b) := by
  simp only [descLoadBody, hx, if_neg (Nat.not_lt.mpr hp), if_neg (any_inUse.not.mpr hu), findCause_eq, hf, hab]

theorem descLoadBody_done (hf : firstCause m h.ctx x payload first count = none) (hab : firstAlias x payload first count = none) :
    descLoadBody h first count payload m =
      (m.updCtx h.ctx (fun y => { y with descs := loadedTable x payload first count })).answer h Op.descLoad St.done := by
  simp only [descLoadBody, hx, if_neg (Nat.not_lt.mpr hp), if_neg (any_inUse.not.mpr hu), findCause_eq, hf, hab]

end

end

/-- What a load that nothing refuses leaves of the descriptors. -/
theorem descOf_loaded {m : Mach} {c : Nat} {x : Ctx} (hx : m.ctx c = some x) (l : List (Nat × Desc)) (k : Nat) :
    (m.updCtx c (fun y => { y with descs := l })).descOf c k = descAt l k := by
  rw [Mach.updCtx, hx, Mach.descOf, ctx_setCtx_same (ctx_lt hx)]
  rfl

theorem ctx_updCtx_other (m : Mach) {c d : Nat} (hd : d ≠ c) (f : Ctx → Ctx) : (m.updCtx c f).ctx d = m.ctx d := by
  unfold Mach.updCtx
  split
  · rfl
  · exact ctx_setCtx_other m hd _

theorem answer_ctx (m : Mach) (h : Hdr) (op status detail : Nat) (data : List Byte) (c : Nat) :
    (m.answer h op status detail data).ctx c = m.ctx c := by
  rw [Mach.answer, Mach.ctx, Mach.send_ctxs, Mach.ctx]

theorem answer_descOf (m : Mach) (h : Hdr) (op status detail : Nat) (data : List Byte) (c k : Nat) :
    (m.answer h op status detail data).descOf c k = m.descOf c k := by
  rw [Mach.descOf, answer_ctx, Mach.descOf]

/-- Settles O30: a handle's place in the table is found again whatever the table held. -/
theorem descLoadWhole : Obligations.DescLoadWhole := by
  intro s h x first count payload _ _ hx hb q run inUse new bad table pair
  have hrun : run = .next (s.on (descLoadBody h first count payload q)) := command_begins s Op.descLoad h _ _ hb
  have hqx : q.ctx h.ctx = some x := (took_ctx ..).trans hx
  have huse : q.handlesInUse h.ctx = s.handlesInUse h.ctx := by simp only [Mach.handlesInUse, q, took_streams]
  have hcause : ∀ k, loadCause q h.ctx x payload first k = bad k := by
    obtain ⟨c, a, hq⟩ := took_eq s.toMach Op.descLoad h
    intro k
    simp only [q, hq]
    rfl
  have hqc : q.csr = s.csr := took_csr ..
  have hqr : q.swite.replies = s.swite.replies := took_replies ..
  -- The ways the load can end.
  have hParam : 0xFFFE < first + count - 1 → descLoadBody h first count payload q = q.answer h Op.descLoad St.badParam :=
    descLoadBody_badParam hqx
  have hBusy : first + count - 1 ≤ 0xFFFE → inUse → descLoadBody h first count payload q = q.answer h Op.descLoad St.busy :=
    fun hp hu => descLoadBody_busy hqx hp (huse ▸ hu)
  have hNone : (∀ k, first ≤ k → k < first + count → bad k = none) → firstCause q h.ctx x payload first count = none := fun hn =>
    List.findSome?_eq_none_iff.mpr fun k hk => by
      obtain ⟨h1, h2⟩ := List.mem_range'_1.mp hk
      rw [hcause, hn k h1 h2]
      rfl
  have hFirst : ∀ hp hu, ∀ k c, first ≤ k → k < first + count → bad k = some c → (∀ j, first ≤ j → j < k → bad j = none) →
      descLoadBody h first count payload q = q.answer h Op.descLoad St.descInvalid (k * 65536 + c) := fun hp hu k c h1 h2 hk hj =>
    descLoadBody_descInvalid hqx hp (huse ▸ hu) (findSome?_range'_first (by simp only [hcause, hk, Option.map_some]) h1 h2
      (fun j hj1 hj2 => by simp only [hcause, hj j hj1 hj2, Option.map_none]))
  have hPair : ∀ hp hu, (∀ k, first ≤ k → k < first + count → bad k = none) → ∀ a b, pair = some (a, b) →
      descLoadBody h first count payload q = q.answer h Op.descLoad St.descAlias (a * 65536 + b) :=
    fun hp hu hn a b hab => descLoadBody_descAlias hqx hp (huse ▸ hu) (hNone hn) hab
  let loaded := q.updCtx h.ctx (fun y => { y with descs := table })
  have hDone : ∀ hp hu, (∀ k, first ≤ k → k < first + count → bad k = none) → pair = none →
      descLoadBody h first count payload q = loaded.answer h Op.descLoad St.done :=
    fun hp hu hn hnp => descLoadBody_done hqx hp (huse ▸ hu) (hNone hn) hnp
  have hlr : (loaded.answer h Op.descLoad St.done).swite.replies = _ :=
    answer_replies hb ((Mach.updCtx_csr ..).trans hqc) ((congrArg _ (Mach.updCtx_swite ..)).trans hqr) St.done 0 []
  have hRefused : ∀ status detail, descLoadBody h first count payload q = q.answer h Op.descLoad status detail →
      ∃ t r, run = .next t ∧ t.swite.replies = s.swite.replies ++ [r] ∧ (r.status = St.done ∨ t.ctxs = s.ctxs) := fun status detail he =>
    ⟨_, _, hrun, by rw [he]; exact answer_replies hb hqc hqr status detail [],
      .inr (by rw [he, State.on_toMach, Mach.answer, Mach.send_ctxs]; exact took_ctxs ..)⟩
  refine ⟨fun hp => hrun.trans (by rw [hParam hp]), fun hp hu => hrun.trans (by rw [hBusy hp hu]),
    fun hp hu k c h1 h2 hk hj => hrun.trans (by rw [hFirst hp hu k c h1 h2 hk hj]),
    fun hp hu hn => ⟨fun a b hab => hrun.trans (by rw [hPair hp hu hn a b hab]), fun hnp => ?_⟩, ?_⟩
  · rw [hDone hp hu hn hnp] at hrun
    have hdesc : ∀ k, (loaded.answer h Op.descLoad St.done).descOf h.ctx k = if k ∈ List.range' first count then some (new k) else descAt x.descs k :=
      fun k => (answer_descOf ..).trans ((descOf_loaded hqx table k).trans (descAt_insertRun new k _ _))
    refine ⟨_, _, hrun, fun k h1 h2 => (hdesc k).trans (if_pos (List.mem_range'_1.mpr ⟨h1, h2⟩)), fun k hk => ?_, fun c hc => ?_, ?_, ?_, ?_, hlr, rfl, rfl⟩
    · refine (hdesc k).trans ((if_neg fun hm => hk (List.mem_range'_1.mp hm)).trans ?_)
      rw [Mach.descOf, hx]
      rfl
    · exact (answer_ctx ..).trans ((ctx_updCtx_other _ hc _).trans (took_ctx ..))
    · exact (Mach.send_csr ..).trans ((Mach.updCtx_csr ..).trans hqc)
    · exact (Mach.send_mem ..).trans ((Mach.updCtx_mem ..).trans (took_mem ..))
    · exact (Mach.send_ranges ..).trans ((Mach.updCtx_ranges ..).trans (took_ranges ..))
  · by_cases hp : 0xFFFE < first + count - 1
    · exact hRefused _ _ (hParam hp)
    · have hp := Nat.not_lt.mp hp
      by_cases hu : inUse
      · exact hRefused _ _ (hBusy hp hu)
      · by_cases hn : ∀ k, first ≤ k → k < first + count → bad k = none
        · cases hpair : pair with
          | some p => exact hRefused _ _ (hPair hp hu hn p.1 p.2 hpair)
          | none => exact ⟨_, _, hrun, by rw [hDone hp hu hn hpair]; exact hlr, .inl rfl⟩
        · -- Some handle has a cause: the lowest of them is the one reported.
          push Not at hn
          classical
          have hex : ∃ k, first ≤ k ∧ k < first + count ∧ bad k ≠ none := hn
          obtain ⟨h1, h2, hk⟩ := Nat.find_spec hex
          obtain ⟨c, hc⟩ := Option.ne_none_iff_exists'.mp hk
          refine hRefused _ _ (hFirst hp hu _ c h1 h2 hc fun j hj1 hj2 => ?_)
          by_contra hb'
          exact Nat.find_min hex hj2 ⟨hj1, by omega, hb'⟩

end Sys2Proof.Laws
end

section
namespace Sys2Proof.Laws

open Sys2Proof.Machine

/-!
# What a range's registers and hidden state keep

`Within K m q` says that the module `q`, made of `m`, differs from it at most in the ranges that `K` names (their hidden state and the registers of
their windows), in the registers below the ranges' windows, and in parts that are neither registers, ranges nor memory. It passes along a chain of
operations as `Keeps` does.
-/

/-- An address in the window of a range's registers (R647). -/
def inRange (n a : Nat) : Prop := 0x01000000 + 0x100000 * n ≤ a ∧ a < 0x01000000 + 0x100000 * (n + 1)

theorem inRange_unique {k n a : Nat} (hk : inRange k a) (hn : inRange n a) : k = n := by
  unfold inRange at hk hn
  omega

theorem inRange_at {n c : Nat} (hl : 0x01000000 ≤ c) (hu : c < 0x01100000) : inRange n (c + 0x100000 * n) := by
  unfold inRange
  omega

structure Within (K : Nat → Prop) (m q : Mach) : Prop where
  rd : ∀ a, 0x01000000 ≤ a → (∀ n, K n → ¬ inRange n a) → q.rd a = m.rd a
  range : ∀ k, ¬ K k → q.range k = m.range k
  mem : q.mem = m.mem
  count : q.ranges.length = m.ranges.length

theorem range_setRange_same {m : Mach} {n : Nat} (hn : n < m.ranges.length) (r : RangeSt) : (m.setRange n r).range n = r := by
  simp [Mach.range, Mach.setRange, hn]

theorem range_setRange_other (m : Mach) {n k : Nat} (hk : k ≠ n) (r : RangeSt) : (m.setRange n r).range k = m.range k := by
  simp [Mach.range, Mach.setRange, List.getD, hk.symm]

theorem mem_maskBits {mask w n : Nat} : n ∈ maskBits mask w ↔ n < w ∧ bitOf mask n = true := by
  simp [maskBits]

theorem nodup_maskBits (mask w : Nat) : (maskBits mask w).Nodup := List.nodup_range.filter _

section

variable {K : Nat → Prop} {m q : Mach}

theorem Within.refl (K : Nat → Prop) (m : Mach) : Within K m m := ⟨fun _ _ _ => rfl, fun _ _ => rfl, rfl, rfl⟩

theorem Within.trans {r : Mach} (h : Within K m q) (g : Within K q r) : Within K m r where
  rd a ha hK := (g.rd a ha hK).trans (h.rd a ha hK)
  range k hk := (g.range k hk).trans (h.range k hk)
  mem := g.mem.trans h.mem
  count := g.count.trans h.count

theorem Within.mono {L : Nat → Prop} (h : Within K m q) (hL : ∀ n, K n → L n) : Within L m q where
  rd a ha hK := h.rd a ha fun n hn => hK n (hL n hn)
  range k hk := h.range k fun hn => hk (hL k hn)
  mem := h.mem
  count := h.count

/-- An update of other parts than registers, ranges and memory. -/
theorem Within.same {r : Mach} (h : Within K m q) (csr : r.csr = q.csr := by rfl) (ranges : r.ranges = q.ranges := by rfl)
    (mem : r.mem = q.mem := by rfl) : Within K m r :=
  h.trans ⟨fun _ _ _ => Mach.rd_congr _ _ _ csr, fun k _ => by rw [Mach.range, ranges, Mach.range], mem, by rw [ranges]⟩

theorem Within.ite {a b : Mach} {c : Prop} [Decidable c] (ha : Within K m a) (hb : Within K m b) : Within K m (if c then a else b) := by
  split
  · exact ha
  · exact hb

theorem Within.foldl {α : Type} {f : Mach → α → Mach} {l : List α} (h : Within K m q) (hf : ∀ r, ∀ x ∈ l, Within K m r → Within K m (f r x)) :
    Within K m (l.foldl f q) := by
  induction l generalizing q with
  | nil => exact h
  | cons x t ih => exact ih (hf q x List.mem_cons_self h) fun r y hy => hf r y (List.mem_cons_of_mem x hy)

theorem Within.each {f : Mach → Nat → Mach} {l : List Nat} (h : Within K m q) (hf : ∀ r, ∀ k ∈ l, Within K m r → Within K m (f r k)) :
    Within K m (q.each l f) :=
  h.foldl hf

/-- A write of a register below the ranges' windows. -/
theorem Within.wrLow {a : Nat} {v : Word} (h : Within K m q) (ha : a < 0x01000000) : Within K m (q.wr a v) :=
  h.trans ⟨fun b hb _ => Mach.rd_wr_other q a b v (by omega), fun _ _ => rfl, rfl, rfl⟩

/-- A write of a register in the window of one of the ranges. -/
theorem Within.wrIn {n a : Nat} {v : Word} (h : Within K m q) (hn : K n) (ha : inRange n a := by exact inRange_at (by decide) (by decide)) : Within K m (q.wr a v) :=
  h.trans ⟨fun b _ hK => Mach.rd_wr_other q a b v fun hb => hK n hn (hb ▸ ha), fun _ _ => rfl, rfl, rfl⟩

theorem Within.wrFLow {a v : Nat} {f : Fld} (h : Within K m q) (ha : a < 0x01000000) : Within K m (q.wrF a f v) := h.wrLow ha

theorem Within.wrFIn {n a v : Nat} {f : Fld} (h : Within K m q) (hn : K n) (ha : inRange n a := by exact inRange_at (by decide) (by decide)) :
    Within K m (q.wrF a f v) := h.wrIn hn ha

theorem Within.setRange {n : Nat} {r : RangeSt} (h : Within K m q) (hn : K n) : Within K m (q.setRange n r) :=
  h.trans ⟨fun _ _ _ => rfl, fun k hk => range_setRange_other q (fun hkn : k = n => hk (hkn ▸ hn)) r, rfl, List.length_set⟩

/-- Registers of one of the ranges go to their reset values. -/
theorem Within.clear {n : Nat} {p : Nat → Bool} (h : Within K m q) (hn : K n) (hp : ∀ a, p a = true → inRange n a) :
    Within K m { q with csr := Sparse.clear q.csr p } :=
  h.trans ⟨fun a _ hK => (Sparse.get_clear regReset q.csr p a).trans (if_neg fun ha => hK n hn (hp a ha)), fun _ _ => rfl, rfl, rfl⟩

theorem Within.send {r : Reply} (h : Within K m q) : Within K m (q.send r) := h.same (Mach.send_csr ..) (Mach.send_ranges ..) (Mach.send_mem ..)

theorem Within.finish {lane : Lane} {ctx tag op status detail : Nat} {data : List Byte} (h : Within K m q) :
    Within K m (q.finish lane ctx tag op status detail data) :=
  (h.same : Within K m (q.setOutst _)).send

theorem Within.tally {u i : Nat} (h : Within K m q) : Within K m (q.tally u i) := h.same

theorem Within.trouble {b : Nat} (h : Within K m q) : Within K m (q.trouble b) := h.wrLow (by decide)

theorem Within.updIsland {i : Nat} {f : Island → Island} (h : Within K m q) : Within K m (q.updIsland i f) := h.same

theorem Within.updCtx {c : Nat} {f : Ctx → Ctx} (h : Within K m q) : Within K m (q.updCtx c f) :=
  h.same (Mach.updCtx_csr ..) (Mach.updCtx_ranges ..) (Mach.updCtx_mem ..)

/-! ### Operations over streams that stop or end -/

theorem Within.showBudget (h : Within K m q) : Within K m q.showBudget :=
  (((h.wrFLow (by decide)).wrFLow (by decide)).wrFLow (by decide)).each fun _ k hk hr =>
    hr.wrFLow (by simp only [List.mem_range] at hk; unfold Reg.TREELINE_RESERVE; omega)

theorem Within.setRangeState {n v : Nat} (h : Within K m q) (hn : K n) : Within K m (q.setRangeState n v) := h.wrFIn hn

theorem Within.recordStop {n status cause instr rep station cond slot : Nat} (h : Within K m q) (hn : K n) :
    Within K m (q.recordStop n status cause instr rep station cond slot) :=
  ((((((h.wrFIn hn).wrFIn hn).wrFIn hn).wrFIn hn).wrFIn hn).wrFIn hn).wrIn hn

theorem Within.unpin {n : Nat} (h : Within K m q) (hn : K n) : Within K m (q.unpin n) :=
  (h.each fun _ _ _ hr => hr.updIsland).wrFIn hn

theorem Within.releaseIslands {n : Nat} (h : Within K m q) (hn : K n) : Within K m (q.releaseIslands n) := .ite h (h.unpin hn)

theorem Within.undefinedNorm {n : Nat} (h : Within K m q) (hn : K n) : Within K m (q.undefinedNorm n) := by
  unfold Mach.undefinedNorm
  exact .ite (Within.same (q := (q.wr (Reg.RANGE_SPUR_NORM_ACC_LO n) _).wr (Reg.RANGE_SPUR_NORM_ACC_HI n) _) ((h.wrIn hn).wrIn hn)) h

theorem Within.entryOver {c i status : Nat} (h : Within K m q) : Within K m (q.entryOver c i status) := h.updCtx

theorem Within.tellStarter {s : Machine.Stream} {status first : Nat} (h : Within K m q) : Within K m (q.tellStarter s status first) := by
  unfold Mach.tellStarter
  split
  · exact h.finish
  · exact h.entryOver

theorem waymark_low {n : Nat} (hn : n < 16) : Reg.WAYMARK_POSITION_HI n < 0x01000000 := by
  unfold Reg.WAYMARK_POSITION_HI
  omega

theorem Within.disarmRanges {mask : Nat} (h : Within K m q) : Within K m (q.disarmRanges mask) :=
  h.each fun _ _ hk hr => hr.wrFLow (waymark_low (mem_maskBits.mp hk).1)

theorem Within.dropArms {p : ArmSt → Bool} {status detail : Nat} (h : Within K m q) : Within K m (q.dropArms p status detail) :=
  (h.same : Within K m { q with arms := _ }).foldl fun _ _ _ hr => hr.disarmRanges.finish

theorem Within.endArms {mask status : Nat} (h : Within K m q) : Within K m (q.endArms mask status) := h.dropArms

theorem Within.withdraw {mask : Nat} (h : Within K m q) : Within K m (q.withdraw mask) := h.same

end

theorem Within.stopRange {K : Nat → Prop} {m q : Mach} {s : Machine.Stream} {own : List StopAt} {n : Nat} (h : Within K m q) (hn : K n)
    (h16 : n < 16) : Within K m (q.stopRange s own n) := by
  unfold Mach.stopRange
  extract_lets _ _ q₁ q₂ q₃ q₄ q₅ q₆
  have h₁ : Within K m q₁ := by
    unfold q₁
    split
    · exact h.recordStop hn
    · split
      · exact h.recordStop hn
      · exact h.recordStop hn
  have h₂ : Within K m q₂ := (h₁.wrIn hn).setRangeState hn
  have h₃ : Within K m q₃ := h₂.undefinedNorm hn
  have h₄ : Within K m q₄ := h₃.same
  have h₅ : Within K m q₅ := h₄.setRange hn
  have h₆ : Within K m q₆ := h₅.wrFLow (waymark_low h16)
  exact (h₆.wrFLow (waymark_low h16)).releaseIslands hn

/-! ### What a stop records -/

/-- A range's stop registers hold a status and a cause, and a station and a condition (R81). -/
structure Recorded (m : Mach) (n status cause station cond : Nat) : Prop where
  status : m.rdF (Reg.RANGE_STREAM_STATUS n) Fld.RANGE_STREAM_STATUS_STOP_STATUS = status
  cause : m.rdF (Reg.RANGE_STREAM_STATUS n) Fld.RANGE_STREAM_STATUS_STOP_CAUSE = cause
  station : m.rdF (Reg.RANGE_STOP_DETAIL n) Fld.RANGE_STOP_DETAIL_STATION = station
  cond : m.rdF (Reg.RANGE_STOP_DETAIL n) Fld.RANGE_STOP_DETAIL_CONDITION = cond

theorem recordStop_recorded (m : Mach) (n status cause instr rep station cond slot : Nat) :
    Recorded (m.recordStop n status cause instr rep station cond slot) n (status % 2 ^ 8) (cause % 2 ^ 8) (station % 2 ^ 3) (cond % 2 ^ 5) := by
  constructor
  all_goals simp [Mach.recordStop, Mach.rdF, Mach.wrF, Mach.rd_wr, Word.getF_setF_same, Word.getF_setF_other]

/-- The state of a range and its stop registers are those of another module. -/
structure SameStop (n : Nat) (m q : Mach) : Prop where
  state : q.rangeState n = m.rangeState n
  status : q.rdF (Reg.RANGE_STREAM_STATUS n) Fld.RANGE_STREAM_STATUS_STOP_STATUS = m.rdF (Reg.RANGE_STREAM_STATUS n) Fld.RANGE_STREAM_STATUS_STOP_STATUS
  cause : q.rdF (Reg.RANGE_STREAM_STATUS n) Fld.RANGE_STREAM_STATUS_STOP_CAUSE = m.rdF (Reg.RANGE_STREAM_STATUS n) Fld.RANGE_STREAM_STATUS_STOP_CAUSE
  detail : q.rd (Reg.RANGE_STOP_DETAIL n) = m.rd (Reg.RANGE_STOP_DETAIL n)

section

variable {m q : Mach} {n status cause station cond : Nat}

theorem SameStop.refl (n : Nat) (m : Mach) : SameStop n m m := ⟨rfl, rfl, rfl, rfl⟩

theorem SameStop.trans {r : Mach} (h : SameStop n m q) (g : SameStop n q r) : SameStop n m r :=
  ⟨g.state.trans h.state, g.status.trans h.status, g.cause.trans h.cause, g.detail.trans h.detail⟩

theorem SameStop.of_rd (hs : q.rd (Reg.RANGE_STREAM_STATUS n) = m.rd (Reg.RANGE_STREAM_STATUS n))
    (hd : q.rd (Reg.RANGE_STOP_DETAIL n) = m.rd (Reg.RANGE_STOP_DETAIL n)) : SameStop n m q :=
  ⟨congrArg (Word.getF · _) hs, congrArg (Word.getF · _) hs, congrArg (Word.getF · _) hs, hd⟩

theorem SameStop.same {r : Mach} (h : SameStop n m q) (csr : r.csr = q.csr := by rfl) : SameStop n m r :=
  h.trans (.of_rd (Mach.rd_congr _ _ _ csr) (Mach.rd_congr _ _ _ csr))

theorem SameStop.wr {a : Nat} {v : Word} (h : SameStop n m q) (hs : a ≠ Reg.RANGE_STREAM_STATUS n) (hd : a ≠ Reg.RANGE_STOP_DETAIL n) :
    SameStop n m (q.wr a v) :=
  h.trans (.of_rd (Mach.rd_wr_other _ _ _ _ hs.symm) (Mach.rd_wr_other _ _ _ _ hd.symm))

theorem SameStop.wrF {a v : Nat} {f : Fld} (h : SameStop n m q) (hs : a ≠ Reg.RANGE_STREAM_STATUS n) (hd : a ≠ Reg.RANGE_STOP_DETAIL n) :
    SameStop n m (q.wrF a f v) := h.wr hs hd

theorem SameStop.wrLow {a : Nat} {v : Word} (h : SameStop n m q) (ha : a < 0x01000000) : SameStop n m (q.wr a v) :=
  h.wr (fun hs => by subst hs; unfold Reg.RANGE_STREAM_STATUS at ha; omega) (fun hd => by subst hd; unfold Reg.RANGE_STOP_DETAIL at ha; omega)

theorem SameStop.wrFLow {a v : Nat} {f : Fld} (h : SameStop n m q) (ha : a < 0x01000000) : SameStop n m (q.wrF a f v) := h.wrLow ha

/-- A range's pin is another field than its state and what it recorded. -/
theorem SameStop.pin {v : Nat} (h : SameStop n m q) :
    SameStop n m (q.wrF (Reg.RANGE_STREAM_STATUS n) Fld.RANGE_STREAM_STATUS_LOCKSTEP_PIN v) :=
  h.trans ⟨Mach.rdF_wrF_other _ _ _ _ _ _ (by decide) (by decide) (.inr (by decide)),
    Mach.rdF_wrF_other _ _ _ _ _ _ (by decide) (by decide) (.inr (by decide)),
    Mach.rdF_wrF_other _ _ _ _ _ _ (by decide) (by decide) (.inr (by decide)), Mach.rd_wrF_other _ _ _ _ _ (by simp)⟩

theorem Within.rd_inRange {K : Nat → Prop} {a : Nat} (h : Within K m q) (hn : ¬ K n)
    (ha : inRange n a := by exact inRange_at (by decide) (by decide)) : q.rd a = m.rd a :=
  h.rd a (by unfold inRange at ha; omega) fun _ hk hka => hn (inRange_unique hka ha ▸ hk)

theorem SameStop.of_within {K : Nat → Prop} (h : Within K m q) (hn : ¬ K n) : SameStop n m q := .of_rd (h.rd_inRange hn) (h.rd_inRange hn)

theorem SameStop.undefinedNorm (h : SameStop n m q) : SameStop n m (q.undefinedNorm n) := by
  unfold Mach.undefinedNorm
  split
  · exact SameStop.same (q := (q.wr (Reg.RANGE_SPUR_NORM_ACC_LO n) _).wr (Reg.RANGE_SPUR_NORM_ACC_HI n) _)
      ((h.wr (by simp) (by simp)).wr (by simp) (by simp))
  · exact h

theorem each_updIsland_csr (f : Island → Island) (m : Mach) (l : List Nat) : (m.each l (fun m i => m.updIsland i f)).csr = m.csr :=
  foldl_keeps (fun q : Mach => q.csr = m.csr) (fun m i => m.updIsland i f) (fun _ _ hq => hq) l m rfl

theorem SameStop.releaseIslands (h : SameStop n m q) : SameStop n m (q.releaseIslands n) := by
  unfold Mach.releaseIslands Mach.unpin
  split
  · exact h
  · exact (h.same (each_updIsland_csr ..)).pin

theorem Recorded.of_sameStop (h : Recorded m n status cause station cond) (g : SameStop n m q) : Recorded q n status cause station cond where
  status := g.status.trans h.status
  cause := g.cause.trans h.cause
  station := (congrArg (Word.getF · _) g.detail).trans h.station
  cond := (congrArg (Word.getF · _) g.detail).trans h.cond

/-- A range's state is another field than what it recorded. -/
theorem Recorded.setRangeState {v : Nat} (h : Recorded m n status cause station cond) : Recorded (m.setRangeState n v) n status cause station cond where
  status := (Mach.rdF_wrF_other _ _ _ _ _ _ (by decide) (by decide) (.inr (by decide))).trans h.status
  cause := (Mach.rdF_wrF_other _ _ _ _ _ _ (by decide) (by decide) (.inr (by decide))).trans h.cause
  station := (congrArg (Word.getF · _) (Mach.rd_wrF_other _ _ _ _ _ (by simp))).trans h.station
  cond := (congrArg (Word.getF · _) (Mach.rd_wrF_other _ _ _ _ _ (by simp))).trans h.cond

end

/-- A range has stopped (R45), with what it recorded. -/
structure StoppedAt (m : Mach) (n status cause station cond : Nat) : Prop where
  state : m.rangeState n = 4
  stream : (m.range n).stream = none
  recorded : Recorded m n status cause station cond

theorem StoppedAt.of_sameStop {m q : Mach} {n status cause station cond : Nat} (h : StoppedAt m n status cause station cond) (g : SameStop n m q)
    (hr : q.range n = m.range n) : StoppedAt q n status cause station cond :=
  ⟨g.state.trans h.state, (congrArg (·.stream) hr).trans h.stream, h.recorded.of_sameStop g⟩

/-- What stopping other ranges leaves of a stopped range. -/
theorem StoppedAt.of_within {K : Nat → Prop} {m q : Mach} {n status cause station cond : Nat} (h : StoppedAt m n status cause station cond)
    (g : Within K m q) (hn : ¬ K n) : StoppedAt q n status cause station cond :=
  h.of_sameStop (.of_within g hn) (g.range n hn)

theorem releaseIslands_ranges (m : Mach) (n : Nat) : (m.releaseIslands n).ranges = m.ranges := by
  unfold Mach.releaseIslands Mach.unpin
  split
  · rfl
  · exact foldl_keeps (fun q : Mach => q.ranges = m.ranges) (fun m i => m.updIsland i fun x => { x with clocked := false, pinned := false })
      (fun _ _ hq => hq) (rangeIslands n) m rfl

theorem undefinedNorm_ranges (m : Mach) (n : Nat) : (m.undefinedNorm n).ranges = m.ranges := by
  unfold Mach.undefinedNorm
  split
  · rfl
  · rfl

/-- Where a stopping range met the stop, if it met one. -/
abbrev ownAt (own : List StopAt) (n : Nat) : Option StopAt := own.find? (fun o => decide (o.range = n))

/-- A range has stopped: where it met the stop itself that is recorded, and else that another range's stop reached it (R45, R114). -/
structure StoppedBy (own : List StopAt) (m : Mach) (n : Nat) : Prop where
  met : ∀ o, ownAt own n = some o → StoppedAt m n (o.status % 2 ^ 8) (o.cause % 2 ^ 8) (o.station % 2 ^ 3) (o.cond % 2 ^ 5)
  other : ownAt own n = none → ∃ station, StoppedAt m n St.streamFault 0x09 station 0

theorem stopRange_stopped {m : Mach} {s : Machine.Stream} {own : List StopAt} {n : Nat} (h16 : n < 16) (hn : n < m.ranges.length) :
    StoppedBy own (m.stopRange s own n) n := by
  unfold Mach.stopRange
  extract_lets r slot q₁ q₂ q₃ q₄ q₅ q₆
  have hfinal : ∀ {status cause station cond : Nat}, Recorded q₁ n status cause station cond → q₁.ranges = m.ranges →
      StoppedAt ((q₆.wrF (Reg.WAYMARK_POSITION_HI n) Fld.WAYMARK_POSITION_HI_ARMED 0).releaseIslands n) n status cause station cond := by
    intro status cause station cond h₁ hr
    have hw := waymark_low h16
    have h₂ : Recorded q₂ n status cause station cond :=
      (h₁.of_sameStop ((SameStop.refl n q₁).wr (a := Reg.RANGE_QUEUE_FILL n) (v := queueFill r) (by simp) (by simp))).setRangeState
    have hs₂ : q₂.rangeState n = 4 := Mach.rdF_wrF_same _ _ _ _ (by decide)
    have h₆ : SameStop n q₂ ((q₆.wrF (Reg.WAYMARK_POSITION_HI n) Fld.WAYMARK_POSITION_HI_ARMED 0).releaseIslands n) := by
      have h₅ : SameStop n q₂ q₅ := (SameStop.refl n q₂).undefinedNorm.same
      exact ((h₅.wrFLow hw).wrFLow hw).releaseIslands
    have hr₃ : q₄.ranges = m.ranges := (undefinedNorm_ranges q₂ n).trans hr
    have hr₅ : q₅.range n = r.stopped q₄.draws := range_setRange_same (by rw [hr₃]; exact hn) _
    refine ⟨h₆.state.trans hs₂, ?_, h₂.of_sameStop h₆⟩
    rw [Mach.range, releaseIslands_ranges]
    exact congrArg (·.stream) hr₅
  have hrec : ∀ {status cause instr rep station cond slot : Nat}, q₁ = m.recordStop n status cause instr rep station cond slot →
      StoppedAt ((q₆.wrF (Reg.WAYMARK_POSITION_HI n) Fld.WAYMARK_POSITION_HI_ARMED 0).releaseIslands n) n (status % 2 ^ 8) (cause % 2 ^ 8)
        (station % 2 ^ 3) (cond % 2 ^ 5) := fun hq =>
    hfinal (by rw [hq]; exact recordStop_recorded ..) (by rw [hq]; rfl)
  refine ⟨fun o ho => hrec (by simp only [q₁, ho]; rfl), fun ho => ?_⟩
  cases hold : r.oldest with
  | some x =>
    exact ⟨x.1 % 2 ^ 3, hrec (status := St.streamFault) (cause := 0x09) (cond := 0) (by simp only [q₁, ho, hold]; rfl)⟩
  | none =>
    exact ⟨0 % 2 ^ 3, hrec (status := St.streamFault) (cause := 0x09) (cond := 0) (by simp only [q₁, ho, hold]; rfl)⟩

/-- What stopping other ranges leaves of a stopped range. -/
theorem StoppedBy.of_within {K : Nat → Prop} {m q : Mach} {own : List StopAt} {n : Nat} (h : StoppedBy own m n) (g : Within K m q) (hn : ¬ K n) :
    StoppedBy own q n :=
  ⟨fun o ho => (h.met o ho).of_within g hn, fun ho => (h.other ho).imp fun _ hs => hs.of_within g hn⟩

end Sys2Proof.Laws
end

section
namespace Sys2Proof.Laws

open Sys2Proof.Machine

/-!
# What a stop of a stream leaves (R45)

A stop goes over the ranges of the stream's mask. What one range's part establishes about that range, the parts of the other ranges keep; so each
range of the mask is stopped at the end, and every other range, and memory, is as it was.
-/

/-- What a visit of each number of a list leaves: it establishes a property of its own number and keeps those of the others. -/
theorem each_establishes {I : Mach → Prop} {P : Mach → Nat → Prop} {f : Mach → Nat → Mach} {l : List Nat} (inv : ∀ m, ∀ n ∈ l, I m → I (f m n))
    (here : ∀ m, ∀ n ∈ l, I m → P (f m n) n) (keeps : ∀ m, ∀ n ∈ l, ∀ k, k ≠ n → I m → P m k → P (f m n) k) :
    ∀ m, I m → I (m.each l f) ∧ ∀ k ∈ l, P (m.each l f) k := by
  suffices h : ∀ t : List Nat, (∀ n ∈ t, n ∈ l) → ∀ m, I m → I (t.foldl f m) ∧ ∀ k, k ∈ t ∨ P m k → P (t.foldl f m) k from
    fun m hm => (h l (fun _ => id) m hm).imp_right fun g k hkl => g k (.inl hkl)
  intro t
  induction t with
  | nil => exact fun _ m hm => ⟨hm, fun k hk => hk.resolve_left List.not_mem_nil⟩
  | cons n t ih =>
    intro ht m hm
    have hn : n ∈ l := ht n List.mem_cons_self
    refine (ih (fun k hk => ht k (List.mem_cons_of_mem n hk)) (f m n) (inv m n hn hm)).imp_right fun g k hk => g k ?_
    by_cases hkn : k = n
    · exact .inr (hkn ▸ here m n hn hm)
    · exact hk.imp (fun hk => (List.mem_cons.mp hk).resolve_left hkn) (keeps m n hn k hkn hm)

/-! ### The streams -/

theorem each_streams {f : Mach → Nat → Mach} (hf : ∀ q n, (f q n).streams = q.streams) (m : Mach) (l : List Nat) :
    (m.each l f).streams = m.streams :=
  foldl_keeps (fun q : Mach => q.streams = m.streams) f (fun q n hq => (hf q n).trans hq) l m rfl

theorem unpin_streams (m : Mach) (n : Nat) : (m.unpin n).streams = m.streams :=
  each_streams (fun _ _ => Mach.updIsland_streams ..) m _

theorem releaseIslands_streams (m : Mach) (n : Nat) : (m.releaseIslands n).streams = m.streams := by
  unfold Mach.releaseIslands
  split
  · rfl
  · exact unpin_streams m n

theorem undefinedNorm_streams (m : Mach) (n : Nat) : (m.undefinedNorm n).streams = m.streams := by
  unfold Mach.undefinedNorm
  split
  · rfl
  · rfl

@[simp] theorem recordStop_streams (m : Mach) (n status cause instr rep station cond slot : Nat) :
    (m.recordStop n status cause instr rep station cond slot).streams = m.streams := by
  simp [Mach.recordStop]

@[simp] theorem setRangeState_streams (m : Mach) (n v : Nat) : (m.setRangeState n v).streams = m.streams := by
  simp [Mach.setRangeState]

theorem stopRange_streams (m : Mach) (s : Machine.Stream) (own : List StopAt) (n : Nat) : (m.stopRange s own n).streams = m.streams := by
  unfold Mach.stopRange
  extract_lets r slot q₁ q₂ q₃ q₄ q₅ q₆
  have h₁ : q₁.streams = m.streams := by
    unfold q₁
    split
    · exact recordStop_streams ..
    · split
      · exact recordStop_streams ..
      · exact recordStop_streams ..
  have h₂ : q₂.streams = m.streams := (setRangeState_streams ..).trans ((Mach.wr_streams ..).trans h₁)
  have h₄ : q₄.streams = m.streams := (undefinedNorm_streams q₂ n).trans h₂
  have h₅ : q₅.streams = m.streams := (Mach.setRange_streams ..).trans h₄
  rw [releaseIslands_streams, Mach.wrF_streams, Mach.wrF_streams, h₅]

theorem showBudget_streams (m : Mach) : m.showBudget.streams = m.streams := by
  unfold Mach.showBudget
  rw [each_streams fun _ _ => Mach.wrF_streams ..]
  simp

theorem finish_streams (m : Mach) (lane : Lane) (ctx tag op status detail : Nat) (data : List Byte) :
    (m.finish lane ctx tag op status detail data).streams = m.streams :=
  Mach.send_streams _ _

theorem tellStarter_streams (m : Mach) (s : Machine.Stream) (status first : Nat) : (m.tellStarter s status first).streams = m.streams := by
  unfold Mach.tellStarter
  split
  · exact finish_streams ..
  · exact Mach.updCtx_streams ..

theorem disarmRanges_streams (m : Mach) (mask : Nat) : (m.disarmRanges mask).streams = m.streams :=
  each_streams (fun _ _ => Mach.wrF_streams ..) m _

theorem endArms_streams (m : Mach) (mask status : Nat) : (m.endArms mask status).streams = m.streams := by
  unfold Mach.endArms Mach.dropArms
  exact foldl_keeps (fun q : Mach => q.streams = m.streams) _
    (fun q a hq => ((finish_streams (q.disarmRanges a.ranges) ..).trans (disarmRanges_streams q a.ranges)).trans hq) _ _ rfl

/-! ### One stream stops -/

/-- No range: what an operation beside the ranges changes `Within`. -/
abbrev noRange (_ : Nat) : Prop := False

/-- A stream has stopped: it alone is gone from the streams, the ranges outside its mask and memory are as they were, and each range of its mask,
if it had begun, is stopped. -/
structure StreamStopped (m t : Mach) (y : Machine.Stream) (own : List StopAt) : Prop where
  streams : t.streams = m.streams.filter (fun u => decide (u.id ≠ y.id))
  within : Within (· ∈ maskBits y.mask 16) m t
  waiting : y.admitted = false → Within noRange m t
  ranges : y.admitted = true → ∀ n ∈ maskBits y.mask 16, StoppedBy own t n

theorem stream_id {m : Mach} {id : Nat} {y : Machine.Stream} (h : m.stream id = some y) : y.id = id := by
  simpa using List.find?_some h

theorem stream_mem {m : Mach} {id : Nat} {y : Machine.Stream} (h : m.stream id = some y) : y ∈ m.streams := List.mem_of_find?_eq_some h

theorem stopStream_spec {m : Mach} {id status : Nat} {y : Machine.Stream} {own : List StopAt} (hy : m.stream id = some y)
    (h16 : m.ranges.length = 16) : StreamStopped m (m.stopStream id status own) y own := by
  have hid := stream_id hy
  unfold Mach.stopStream
  simp -zeta only [hy]
  extract_lets m₁ m₂ m₃ _ m₄ first m₅
  have hranges : y.admitted = true → Within (· ∈ maskBits y.mask 16) m (m.each (maskBits y.mask 16) fun m n => m.stopRange y own n) ∧
      ∀ n ∈ maskBits y.mask 16, StoppedBy own (m.each (maskBits y.mask 16) fun m n => m.stopRange y own n) n := fun _ =>
    each_establishes (I := Within (· ∈ maskBits y.mask 16) m) (P := StoppedBy own)
      (fun q n hn hq => hq.stopRange hn (mem_maskBits.mp hn).1)
      (fun q n hn hq => stopRange_stopped (mem_maskBits.mp hn).1 (by rw [hq.count, h16]; exact (mem_maskBits.mp hn).1))
      (fun q n hn k hkn _ hp => hp.of_within (Within.stopRange (K := (· = n)) (.refl _ q) rfl (mem_maskBits.mp hn).1) hkn) m (.refl _ m)
  have hstreams₁ : m₁.streams = m.streams := by
    unfold m₁
    split
    · exact foldl_keeps (fun q : Mach => q.streams = m.streams) (fun m n => m.stopRange y own n)
        (fun q n hq => (stopRange_streams q y own n).trans hq) (maskBits y.mask 16) m rfl
    · rfl
  have hw₁ : Within (· ∈ maskBits y.mask 16) m m₁ ∧ (y.admitted = true → ∀ n ∈ maskBits y.mask 16, StoppedBy own m₁ n) ∧
      (y.admitted = false → Within noRange m m₁) := by
    unfold m₁
    split
    · next ha => exact ⟨(hranges ha).1, fun _ => (hranges ha).2, fun hf => absurd (ha.symm.trans hf) (by decide)⟩
    · next ha => exact ⟨.refl _ m, fun hadm => absurd hadm ha, fun _ => .refl _ m⟩
  -- What follows the ranges touches none of them.
  have hw₂ : Within noRange m₁ m₂ := (Within.refl _ m₁).foldl fun q o _ hq => .ite hq.tally hq
  have hs₂ : m₂.streams = m₁.streams := by
    refine foldl_keeps (fun q : Mach => q.streams = m₁.streams) _ (fun q o hq => ?_) own m₁ rfl
    split
    · exact hq
    · exact hq
  have hw₃ : Within noRange m₁ m₃ ∧ m₃.streams = m₂.streams := by
    unfold m₃
    split
    · split
      · exact ⟨hw₂.tally, rfl⟩
      · exact ⟨hw₂, rfl⟩
    · exact ⟨hw₂, rfl⟩
  have hs₄ : m₄.streams = m.streams.filter (fun u => decide (u.id ≠ y.id)) :=
    congrArg₂ (fun l i => l.filter (fun u : Machine.Stream => decide (u.id ≠ i))) (hw₃.2.trans (hs₂.trans hstreams₁)) hid.symm
  have hw₅ : Within noRange m₁ m₅ ∧ m₅.streams = m₄.streams := by
    have hw₄ : Within noRange m₁ m₄ := hw₃.1.same
    unfold m₅
    split
    · exact ⟨hw₄.withdraw.endArms, endArms_streams (m₄.withdraw y.mask) y.mask status⟩
    · exact ⟨hw₄, rfl⟩
  have hw : Within noRange m₁ ((m₅.tellStarter y status first).trouble 0).showBudget := hw₅.1.tellStarter.trouble.showBudget
  obtain ⟨hmask, hstop, hwait⟩ := hw₁
  refine ⟨?_, hmask.trans (hw.mono fun _ => False.elim), fun hf => (hwait hf).trans hw, fun ha n hn => (hstop ha n hn).of_within hw fun h => h⟩
  rw [showBudget_streams]
  exact (tellStarter_streams m₅ y status first).trans (hw₅.2.trans hs₄)

section

variable {m t : Mach} {y : Machine.Stream} {own : List StopAt}

theorem StreamStopped.gone (h : StreamStopped m t y own) : t.stream y.id = none := by
  rw [Mach.stream, h.streams]
  simp

theorem StreamStopped.kept (h : StreamStopped m t y own) {id : Nat} (hid : id ≠ y.id) : t.stream id = m.stream id := by
  rw [Mach.stream, h.streams, List.find?_filter, Mach.stream]
  congr 1
  funext u
  by_cases hu : u.id = id
  · simp [hu, hid]
  · simp [hu]

theorem StoppedBy.state {n : Nat} (h : StoppedBy own m n) : m.rangeState n = 4 ∧ (m.range n).stream = none := by
  cases ho : ownAt own n with
  | some o => exact ⟨(h.met o ho).state, (h.met o ho).stream⟩
  | none =>
    obtain ⟨_, hs⟩ := h.other ho
    exact ⟨hs.state, hs.stream⟩

/-- In the statements' words: the stream is stopped. -/
theorem StreamStopped.stopped (h : StreamStopped m t y own) (ha : y.admitted = true) : t.stopped y :=
  ⟨h.gone, fun n hn => (h.ranges ha n hn).state⟩

theorem StoppedAt.faulted {n cause station cond : Nat} (h : StoppedAt m n St.streamFault cause station cond) : m.faulted n cause :=
  ⟨h.recorded.status, h.recorded.cause⟩

/-- A range that met the stop with STREAM_FAULT records its cause. -/
theorem StreamStopped.faulted (h : StreamStopped m t y own) (ha : y.admitted = true) {n : Nat} (hn : n ∈ maskBits y.mask 16) {o : StopAt}
    (ho : ownAt own n = some o) (hs : o.status = St.streamFault) (hc : o.cause < 2 ^ 8) : t.faulted n o.cause := by
  have hm := (h.ranges ha n hn).met o ho
  rw [hs, Nat.mod_eq_of_lt hc] at hm
  exact hm.faulted

/-- A range that did not meet the stop itself records that another range's stop reached it. -/
theorem StreamStopped.reached (h : StreamStopped m t y own) (ha : y.admitted = true) {n : Nat} (hn : n ∈ maskBits y.mask 16)
    (ho : ownAt own n = none) : t.faulted n 0x09 := by
  obtain ⟨_, hs⟩ := (h.ranges ha n hn).other ho
  exact hs.faulted

end

/-! ### A stop that no station met -/

/-- Where each range of a stream stands when a stop from outside reaches it. -/
def reachedAt (m : Mach) (status cause n : Nat) : StopAt :=
  match (m.range n).oldest with
  | some x => { range := n, status := status, cause := cause, instr := x.2.idx, rep := x.2.done, station := x.1, cond := 0 }
  | none => { range := n, status := status, cause := cause, instr := 0xFFFF, rep := 0, station := 0, cond := 0 }

theorem reachedAt_fields (m : Mach) (status cause n : Nat) :
    (reachedAt m status cause n).range = n ∧ (reachedAt m status cause n).status = status ∧ (reachedAt m status cause n).cause = cause := by
  unfold reachedAt
  split
  · exact ⟨rfl, rfl, rfl⟩
  · exact ⟨rfl, rfl, rfl⟩

theorem stopAll_eq {m : Mach} {id status cause : Nat} {y : Machine.Stream} (hy : m.stream id = some y) :
    m.stopAll id status cause = m.stopStream id status ((maskBits y.mask 16).map (reachedAt m status cause)) := by
  unfold Mach.stopAll
  rw [hy]
  rfl

theorem find_reached {m : Mach} {status cause n : Nat} : ∀ {l : List Nat}, n ∈ l →
    ownAt (l.map (reachedAt m status cause)) n = some (reachedAt m status cause n) := by
  intro l
  induction l with
  | nil => exact fun h => absurd h List.not_mem_nil
  | cons k t ih =>
    intro hn
    rw [ownAt, List.map_cons, List.find?_cons, (reachedAt_fields m status cause k).1]
    by_cases hk : k = n
    · simp [hk]
    · simpa [hk] using ih ((List.mem_cons.mp hn).resolve_left (Ne.symm hk))

theorem stopAll_spec {m : Mach} {id status cause : Nat} {y : Machine.Stream} (hy : m.stream id = some y) (h16 : m.ranges.length = 16) :
    StreamStopped m (m.stopAll id status cause) y ((maskBits y.mask 16).map (reachedAt m status cause)) := by
  rw [stopAll_eq hy]
  exact stopStream_spec hy h16

/-- Every range of a stream that is stopped from outside records the one cause. -/
theorem StreamStopped.allAt {m t q : Mach} {y : Machine.Stream} {status cause n : Nat}
    (h : StreamStopped m t y ((maskBits y.mask 16).map (reachedAt q status cause))) (ha : y.admitted = true) (hn : n ∈ maskBits y.mask 16) :
    ∃ station cond, StoppedAt t n (status % 2 ^ 8) (cause % 2 ^ 8) station cond := by
  have hm := (h.ranges ha n hn).met _ (find_reached hn)
  obtain ⟨_, hs, hc⟩ := reachedAt_fields q status cause n
  rw [hs, hc] at hm
  exact ⟨_, _, hm⟩

end Sys2Proof.Laws
end

section
namespace Sys2Proof.Laws

open Sys2Proof.Machine

/-!
# STREAM_STOP and STREAM_STATUS

STREAM_STOP stops the streams it names one after another. A range that one of them left stopped stays so: a later stop that reaches it records the
same status and cause there (R45).
-/

/-- A range is stopped with a status and a cause, wherever the stop met it. -/
def HaltedWith (m : Mach) (status cause n : Nat) : Prop := ∃ station cond, StoppedAt m n (status % 2 ^ 8) (cause % 2 ^ 8) station cond

/-- Any range: what an operation over several streams changes `Within`. -/
abbrev anyRange (n : Nat) : Prop := n < 16

/-- The data link is no range's. -/
theorem Within.dataUp {m q : Mach} (h : Within anyRange m q) : q.dataUp = m.dataUp := by
  have hrd : q.rd Reg.SWITE_STATUS = m.rd Reg.SWITE_STATUS := h.rd _ (by decide) fun n hn hr => by
    unfold anyRange at hn
    unfold inRange Reg.SWITE_STATUS at hr
    omega
  rw [Mach.dataUp, Mach.rdF, hrd, Mach.dataUp, Mach.rdF]

section

variable {m : Mach} {status cause : Nat}

theorem stopAll_none {id : Nat} (h : m.stream id = none) : m.stopAll id status cause = m := by
  unfold Mach.stopAll
  rw [h]

theorem stopAll_within (id : Nat) (h16 : m.ranges.length = 16) : Within anyRange m (m.stopAll id status cause) := by
  cases hy : m.stream id with
  | none => rw [stopAll_none hy]; exact .refl _ m
  | some y => exact (stopAll_spec hy h16).within.mono fun _ hn => (mem_maskBits.mp hn).1

theorem stopAll_streams (id : Nat) (h16 : m.ranges.length = 16) :
    (m.stopAll id status cause).streams = m.streams.filter (fun u => decide (u.id ≠ id)) := by
  cases hy : m.stream id with
  | none =>
    rw [stopAll_none hy]
    exact (List.filter_eq_self.mpr fun u hu => by simpa using List.find?_eq_none.mp hy u hu).symm
  | some y => rw [(stopAll_spec hy h16).streams, stream_id hy]

theorem stopAll_stream_other {id k : Nat} (h16 : m.ranges.length = 16) (hk : k ≠ id) : (m.stopAll id status cause).stream k = m.stream k := by
  cases hy : m.stream id with
  | none => rw [stopAll_none hy]
  | some y => exact (stopAll_spec hy h16).kept (by rwa [stream_id hy])

/-- A stop leaves stopped what an earlier stop with the same status and cause stopped. -/
theorem HaltedWith.stopAll {n : Nat} (h : HaltedWith m status cause n) (id : Nat) (h16 : m.ranges.length = 16) :
    HaltedWith (m.stopAll id status cause) status cause n := by
  cases hy : m.stream id with
  | none => rwa [stopAll_none hy]
  | some y =>
    have hs := stopAll_spec (status := status) (cause := cause) hy h16
    obtain ⟨station, cond, hst⟩ := h
    cases ha : y.admitted with
    | false => exact ⟨station, cond, hst.of_within (hs.waiting ha) fun h => h⟩
    | true =>
      by_cases hn : n ∈ maskBits y.mask 16
      · exact hs.allAt ha hn
      · exact ⟨station, cond, hst.of_within hs.within hn⟩

/-- The streams of a list stop one after another. -/
abbrev stopEach (m : Mach) (l : List Machine.Stream) (status cause : Nat) : Mach := l.foldl (fun m s => m.stopAll s.id status cause) m

theorem stopEach_within (l : List Machine.Stream) (h16 : m.ranges.length = 16) : Within anyRange m (stopEach m l status cause) :=
  (Within.refl _ m).foldl fun _ y _ hq => hq.trans (stopAll_within y.id (hq.count.trans h16))

theorem mem_stopEach_streams {u : Machine.Stream} : ∀ {l : List Machine.Stream} {m : Mach}, m.ranges.length = 16 →
    u ∈ (stopEach m l status cause).streams → u ∈ m.streams ∧ ∀ y ∈ l, u.id ≠ y.id := by
  intro l
  induction l with
  | nil => exact fun _ hu => ⟨hu, fun y hy => absurd hy List.not_mem_nil⟩
  | cons y t ih =>
    intro m h16 hu
    obtain ⟨hm, ht⟩ := ih ((stopAll_within y.id h16).count.trans h16) hu
    rw [stopAll_streams y.id h16] at hm
    obtain ⟨hm, hy⟩ := List.mem_filter.mp hm
    exact ⟨hm, List.forall_mem_cons.mpr ⟨by simpa using hy, ht⟩⟩

theorem stopEach_halted {x : Machine.Stream} {n : Nat} (ha : x.admitted = true) (hn : n ∈ maskBits x.mask 16) :
    ∀ {l : List Machine.Stream} {m : Mach}, m.ranges.length = 16 → (m.stream x.id = some x ∧ x ∈ l) ∨ HaltedWith m status cause n →
    HaltedWith (stopEach m l status cause) status cause n := by
  intro l
  induction l with
  | nil => exact fun _ h => h.resolve_left fun h => List.not_mem_nil h.2
  | cons y t ih =>
    intro m h16 h
    refine ih ((stopAll_within y.id h16).count.trans h16) ?_
    rcases h with ⟨hx, hl⟩ | h
    · by_cases hy : y.id = x.id
      · exact .inr ((stopAll_spec ((congrArg m.stream hy).trans hx) h16).allAt ha hn)
      · exact .inl ⟨(stopAll_stream_other h16 (Ne.symm hy)).trans hx, (List.mem_cons.mp hl).resolve_left fun e => hy (e ▸ rfl)⟩
    · exact .inr (h.stopAll y.id h16)

end

theorem shaped_ranges {m : Mach} (h : m.shaped = true) : m.ranges.length = 16 := (shaped_iff m).mp h |>.2.1

theorem took_ownsAll (m : Mach) (op : Nat) (h : Hdr) (c mask : Nat) : (m.took op h).ownsAll c mask = m.ownsAll c mask := by
  simp only [Mach.ownsAll, took_owns]

section

variable {m : Mach} {h : Hdr} {mask : Nat}

theorem streamStopBody_badParam (h0 : mask = 0) : streamStopBody h mask m = m.answer h Op.streamStop St.badParam := if_pos h0

theorem streamStopBody_notPermitted (h0 : mask ≠ 0) (ho : m.ownsAll h.ctx mask = false) :
    streamStopBody h mask m = m.answer h Op.streamStop St.notPermitted := by
  simp [streamStopBody, h0, ho]

theorem streamStopBody_done (h0 : mask ≠ 0) (ho : m.ownsAll h.ctx mask = true) : streamStopBody h mask m =
    (stopEach m (m.streams.filter (fun s => decide (s.mask &&& mask ≠ 0))) St.streamFault 0x08).answer h Op.streamStop St.done := by
  simp [streamStopBody, Mach.stopStreams, h0, ho]

end

/-- Settles O33: a range that one of the stopped streams left stopped stays so through the stops of the others. -/
theorem streamStopAndStatus : Obligations.StreamStopAndStatus := by
  intro s h mask regs
  refine ⟨fun hb hsh => ?_, fun hb => ?_⟩
  · intro q
    have hrun : exec (.streamStop h mask) s = .next (s.on (streamStopBody h mask q)) := command_begins s Op.streamStop h _ _ hb
    have hown : q.ownsAll h.ctx mask = s.ownsAll h.ctx mask := took_ownsAll ..
    have h16 : q.ranges.length = 16 := (congrArg List.length (took_ranges ..)).trans (shaped_ranges hsh)
    refine ⟨fun h0 => hrun.trans (by rw [streamStopBody_badParam h0]), fun h0 ho => hrun.trans (by rw [streamStopBody_notPermitted h0 (hown.trans ho)]),
      fun h0 ho => ?_⟩
    rw [streamStopBody_done h0 (hown.trans ho)] at hrun
    set l := q.streams.filter (fun s => decide (s.mask &&& mask ≠ 0))
    set t := stopEach q l St.streamFault 0x08
    have hl : ∀ x ∈ q.streams, x.mask &&& mask ≠ 0 → x ∈ l := fun x hx hm => List.mem_filter.mpr ⟨hx, decide_eq_true hm⟩
    have hw : Within anyRange q t := stopEach_within l h16
    refine ⟨_, hrun, fun x hx => ?_, fun x hx ha hm n hn => ?_, ?_, ?_⟩
    · have hx : x ∈ t.streams := (Mach.send_streams t _).symm ▸ hx
      obtain ⟨hxq, hxl⟩ := mem_stopEach_streams h16 hx
      by_contra hm
      exact hxl x (hl x hxq hm) rfl
    · have hxq : q.stream x.id = some x := by rw [Mach.stream, took_streams]; exact hx
      obtain ⟨station, cond, hst⟩ := stopEach_halted (status := St.streamFault) (cause := 0x08) ha hn h16
        (.inl ⟨hxq, hl x (stream_mem hxq) hm⟩)
      have hst : StoppedAt (t.answer h Op.streamStop St.done) n St.streamFault 8 station cond :=
        hst.of_within (Within.refl noRange t).send fun h => h
      exact ⟨hst.state, hst.stream, hst.recorded.status, hst.recorded.cause⟩
    · exact (Mach.send_mem t _).trans (hw.mem.trans (took_mem ..))
    · have hup : h.lane = .mgmt ∨ t.dataUp = true :=
        (begins_dataUp hb).imp_right fun hd => (hw.dataUp.trans (took_dataUp ..)).trans hd
      rw [State.on_toMach, Mach.answer, send_replies hup]
      exact ⟨_, List.mem_append_right _ (List.mem_singleton_self _), rfl, rfl, rfl, rfl⟩
  · intro q
    have hrun : exec (.streamStatus h mask) s = .next (s.on (streamStatusBody h mask q)) := command_begins s Op.streamStatus h _ _ hb
    have hown : q.ownsAll h.ctx mask = s.ownsAll h.ctx mask := took_ownsAll ..
    refine ⟨fun h0 => hrun.trans (by rw [streamStatusBody, if_pos h0]),
      fun h0 ho => hrun.trans (by simp [streamStatusBody, h0, hown, ho]), fun h0 ho => hrun.trans ?_⟩
    simp [streamStatusBody, h0, hown, ho, q, took_rd, regs]

end Sys2Proof.Laws
end

section
namespace Sys2Proof.Laws

open Sys2Proof.Machine

/-!
# STREAM_START

The checks of a start read nothing that a packet taken up changes. A launch visits the ranges of the mask; what it leaves of one of them the visits
of the others keep.
-/

/-! ### What a range's registers reset to (R82) -/

/-- The window of a range (R647). -/
theorem windowOf_range {n off : Nat} (hn : n < 16) (ho : off < 0x20000) : windowOf (0x01000000 + off + 0x100000 * n) = some (.range, n, off) := by
  have h1 : (16777216 + off + 1048576 * n) % 1048576 = off := by omega
  have h2 : (16777216 + off + 1048576 * n - 16777216) / 1048576 = n := by omega
  unfold windowOf
  rw [if_neg (by omega), if_neg (by simp; omega), if_neg (by simp; omega), if_neg (by simp; omega), if_pos (by simp; omega), h1, h2, if_pos ho]

theorem regFind_covers {off : Nat} {r : RegSpec} : ∀ {l : List RegSpec}, regFind off l = some r → r ∈ l ∧ r.covers off = true := by
  intro l
  induction l with
  | nil => intro h; cases h
  | cons a t ih =>
    intro h
    unfold regFind at h
    split at h
    · next hc => cases h; exact ⟨List.mem_cons_self, hc⟩
    · exact (ih h).imp_left (List.mem_cons_of_mem a)

/-- The registers of a range that lie where AX, INC and LC do reset to 0 (R42). -/
theorem regs_range_reset : ∀ r ∈ regs_range, fieldsReset r.fields = 0 ∨ 0x510 ≤ r.off ∨ r.off + r.stride * (r.count - 1) < 0x100 := by decide

theorem regReset_coord {n off : Nat} (hn : n < 16) (hl : 0x100 ≤ off) (hu : off < 0x510) : regReset (0x01000000 + off + 0x100000 * n) = 0 := by
  have hw := windowOf_range hn (by omega : off < 0x20000)
  unfold regReset regAt
  rw [hw]
  simp only [Block.regs]
  split
  · rfl
  · next r hr =>
    obtain ⟨hm, hc⟩ := regFind_covers hr
    simp only [RegSpec.covers, Bool.and_eq_true, decide_eq_true_eq] at hc
    rcases regs_range_reset r hm with h | h | h
    · rw [h]
      rfl
    · omega
    · obtain ⟨⟨h0, hmod⟩, hlt⟩ := hc
      have hdiv := Nat.div_add_mod (off - r.off) r.stride
      have hle := Nat.mul_le_mul_left r.stride (Nat.le_sub_one_of_lt hlt)
      omega

/-! ### Launching -/

/-- The AX, INC and LC registers of a range are zero (R42). -/
def CoordsZero (m : Mach) (n : Nat) : Prop := ∀ off, 0x100 ≤ off → off < 0x510 → m.rd (0x01000000 + off + 0x100000 * n) = 0

/-- A register of a range beside AX, INC and LC. -/
def besideCoords (n a : Nat) : Prop := a < 0x01000100 + 0x100000 * n ∨ 0x01000510 + 0x100000 * n ≤ a

section

variable {m : Mach} {n : Nat}

theorem CoordsZero.wr {a : Nat} {v : Word} (h : CoordsZero m n) (ha : besideCoords n a) : CoordsZero (m.wr a v) n := fun off hl hu => by
  unfold besideCoords at ha
  rw [Mach.rd_wr_other _ _ _ _ (by omega), h off hl hu]

theorem CoordsZero.wrF {a v : Nat} {f : Fld} (h : CoordsZero m n) (ha : besideCoords n a) : CoordsZero (m.wrF a f v) n := h.wr ha

theorem CoordsZero.same {q : Mach} (h : CoordsZero m n) (csr : q.csr = m.csr) : CoordsZero q n := fun off hl hu =>
  (Mach.rd_congr _ _ _ csr).trans (h off hl hu)

/-- The registers that a start clears hold their reset value, 0. -/
theorem coordsZero_cleared (m : Mach) (hn : n < 16) : CoordsZero { m with csr := Sparse.clear m.csr (startedReg n) } n := fun off hl hu => by
  refine (Sparse.get_clear regReset m.csr _ _).trans ((if_pos ?_).trans (regReset_coord hn hl hu))
  simp only [startedReg, Bool.or_eq_true, Bool.and_eq_true, decide_eq_true_eq, Reg.RANGE_AX_COORD, Reg.RANGE_LC]
  omega

end

/-- What a start leaves of a range: it runs the stream from its first instruction, with AX, INC and LC zero and its tile registers kept. -/
structure Launched (m q : Mach) (s : Machine.Stream) (n : Nat) : Prop where
  state : q.rangeState n = if s.lockstep then 3 else 2
  stream : (q.range n).stream = some s.id
  pc : (q.range n).pc = 0
  tiles : (q.range n).tiles = (m.range n).tiles
  coords : CoordsZero q n

/-- Two modules that differ in their registers alone. -/
def RegsOnly (m q : Mach) : Prop := ∃ c, q = { m with csr := c }

section

variable {m q : Mach}

theorem RegsOnly.refl (m : Mach) : RegsOnly m m := ⟨m.csr, rfl⟩

theorem RegsOnly.clear (h : RegsOnly m q) (p : Nat → Bool) : RegsOnly m { q with csr := Sparse.clear q.csr p } := by
  obtain ⟨c, rfl⟩ := h
  exact ⟨_, rfl⟩

theorem RegsOnly.wr {a : Nat} {v : Word} (h : RegsOnly m q) : RegsOnly m (q.wr a v) := by
  obtain ⟨c, rfl⟩ := h
  exact ⟨_, rfl⟩

theorem RegsOnly.wrF {a v : Nat} {f : Fld} (h : RegsOnly m q) : RegsOnly m (q.wrF a f v) := h.wr

theorem RegsOnly.ite {a b : Mach} {c : Prop} [Decidable c] (ha : RegsOnly m a) (hb : RegsOnly m b) : RegsOnly m (if c then a else b) := by
  split
  · exact ha
  · exact hb

theorem RegsOnly.each {f : Mach → Nat → Mach} (hf : ∀ r n, RegsOnly m r → RegsOnly m (f r n)) (h : RegsOnly m q) (l : List Nat) :
    RegsOnly m (q.each l f) :=
  foldl_keeps (RegsOnly m) f hf l q h

theorem RegsOnly.ranges (h : RegsOnly m q) : q.ranges = m.ranges := by
  obtain ⟨c, rfl⟩ := h
  rfl

theorem RegsOnly.range (h : RegsOnly m q) (n : Nat) : q.range n = m.range n := by
  rw [Mach.range, h.ranges, Mach.range]

theorem RegsOnly.swite (h : RegsOnly m q) : q.swite = m.swite := by
  obtain ⟨c, rfl⟩ := h
  rfl

theorem RegsOnly.mem (h : RegsOnly m q) : q.mem = m.mem := by
  obtain ⟨c, rfl⟩ := h
  rfl

theorem RegsOnly.ctxs (h : RegsOnly m q) : q.ctxs = m.ctxs := by
  obtain ⟨c, rfl⟩ := h
  rfl

theorem RegsOnly.streams (h : RegsOnly m q) : q.streams = m.streams := by
  obtain ⟨c, rfl⟩ := h
  rfl

end

/-- A part of the module that no visit of a loop changes. -/
theorem each_field {β : Type} {g : Mach → β} {f : Mach → Nat → Mach} (hf : ∀ q n, g (f q n) = g q) (m : Mach) (l : List Nat) :
    g (m.each l f) = g m :=
  foldl_keeps (fun q : Mach => g q = g m) f (fun q n hq => (hf q n).trans hq) l m rfl

theorem setFreq_field {β : Type} {g : Mach → β} (hg : ∀ (q : Mach) i f, g (q.updIsland i f) = g q) (m : Mach) (i kHz : Nat) :
    g (m.setFreq i kHz) = g m := by
  unfold Mach.setFreq
  exact hg m i _

/-- Clocking a range's islands changes the islands alone. -/
theorem runRange_field {β : Type} {g : Mach → β} (hg : ∀ (q : Mach) i f, g (q.updIsland i f) = g q) (m : Mach) (n kHz : Nat) (pinned : Bool) :
    g (m.runRange n kHz pinned) = g m := by
  unfold Mach.runRange
  refine each_field (fun q i => ?_) m (rangeIslands n)
  rw [setFreq_field hg, hg]

section

variable {m q : Mach} {s : Machine.Stream} {x : Ctx} {arm : Option (Word × Word)} {n : Nat}

theorem Within.updRange {K : Nat → Prop} {f : RangeSt → RangeSt} (h : Within K m q) (hn : K n) : Within K m (q.updRange n f) := h.setRange hn

theorem Within.runRange {K : Nat → Prop} {kHz : Nat} {pinned : Bool} (h : Within K m q) : Within K m (q.runRange n kHz pinned) :=
  h.same (runRange_field Mach.updIsland_csr ..) (runRange_field Mach.updIsland_ranges ..) (runRange_field Mach.updIsland_mem ..)

theorem waymark_lo {n : Nat} (hn : n < 16) : Reg.WAYMARK_POSITION n < 0x01000000 := by
  unfold Reg.WAYMARK_POSITION
  omega

theorem startedReg_inRange {a : Nat} (h : startedReg n a = true) : inRange n a := by
  simp only [startedReg, Bool.or_eq_true, Bool.and_eq_true, decide_eq_true_eq, Reg.RANGE_AX_COORD, Reg.RANGE_LC, Reg.RANGE_STOP_POSITION,
    Reg.RANGE_STOP_DETAIL, Reg.RANGE_STOP_SLOT, Reg.RANGE_QUEUE_FILL, Reg.RANGE_FAULT_INFO, Reg.RANGE_FAULT_VA_LO, Reg.RANGE_FAULT_VA_HI] at h
  unfold inRange
  omega

/-- What a start makes of one range: its registers, then its hidden state, then its islands' clocks. -/
theorem launchRange_parts {K : Nat → Prop} (hn : K n) (h16 : n < 16) : ∃ q f kHz, m.launchRange s x arm n = (q.updRange n f).runRange n kHz s.lockstep ∧
    RegsOnly m q ∧ Within K m q ∧ CoordsZero q n ∧ q.rangeState n = (if s.lockstep then 3 else 2) ∧
    ∀ r, (f r).stream = some s.id ∧ (f r).pc = 0 ∧ (f r).tiles = r.tiles := by
  unfold Mach.launchRange
  extract_lets q₁ q₂ q₃ q₄ q₅ lock q₆
  have hstatus : besideCoords n (Reg.RANGE_STREAM_STATUS n) := .inl (by unfold Reg.RANGE_STREAM_STATUS; omega)
  have hcfg : besideCoords n (Reg.RANGE_LOCKSTEP_CFG n) := .inl (by unfold Reg.RANGE_LOCKSTEP_CFG; omega)
  have h₂ : RegsOnly m q₂ ∧ Within K m q₂ ∧ CoordsZero q₂ n :=
    ⟨((RegsOnly.refl m).clear _).wrF.wrF, (((Within.refl _ m).clear hn fun _ => startedReg_inRange).wrFIn hn).wrFIn hn,
      ((coordsZero_cleared m h16).wrF hstatus).wrF hstatus⟩
  have h₃ : RegsOnly m q₃ ∧ Within K m q₃ ∧ CoordsZero q₃ n := by
    obtain ⟨ho, hw, hc⟩ := h₂
    unfold q₃
    split
    · exact ⟨ho.wrF.wrF, (hw.wrFIn hn).wrFIn hn, (hc.wrF hcfg).wrF hcfg⟩
    · exact ⟨ho, hw, hc⟩
  have h₄ : RegsOnly m q₄ ∧ Within K m q₄ ∧ CoordsZero q₄ n := by
    obtain ⟨ho, hw, hc⟩ := h₃
    exact ⟨ho.wrF.wrF, (hw.setRangeState hn).wrFIn hn, (hc.wrF hstatus).wrF hstatus⟩
  have hs₄ : q₄.rangeState n = if s.lockstep then 3 else 2 := by
    refine (Mach.rdF_wrF_other _ _ _ _ _ _ (by decide) (by decide) (.inr (by decide))).trans ((Mach.rdF_wrF_same _ _ _ _ (by decide)).trans ?_)
    split
    · rfl
    · rfl
  have h₅ : RegsOnly m q₅ ∧ Within K m q₅ ∧ CoordsZero q₅ n ∧ q₅.rangeState n = q₄.rangeState n := by
    obtain ⟨ho, hw, hc⟩ := h₄
    have hlo := waymark_lo h16
    have hhi := waymark_low h16
    unfold q₅
    split
    · exact ⟨ho.wr.wr, (hw.wrLow hlo).wrLow hhi, (hc.wr (.inl (by omega))).wr (.inl (by omega)), (((SameStop.refl n q₄).wrLow hlo).wrLow hhi).state⟩
    · exact ⟨ho, hw, hc, rfl⟩
  obtain ⟨ho, hw, hc, hs⟩ := h₅
  exact ⟨q₅, _, _, rfl, ho, hw, hc, hs.trans hs₄, fun r => ⟨rfl, rfl, rfl⟩⟩

theorem launchRange_within {K : Nat → Prop} (hn : K n) (h16 : n < 16) : Within K m (m.launchRange s x arm n) := by
  obtain ⟨q, f, kHz, heq, _, hw, _⟩ := launchRange_parts (m := m) (s := s) (x := x) (arm := arm) hn h16
  rw [heq]
  exact (hw.updRange hn).runRange

theorem launchRange_swite (h16 : n < 16) : (m.launchRange s x arm n).swite = m.swite := by
  obtain ⟨q, f, kHz, heq, ho, _⟩ := launchRange_parts (K := (· = n)) (m := m) (s := s) (x := x) (arm := arm) rfl h16
  rw [heq, runRange_field Mach.updIsland_swite, Mach.updRange_swite, ho.swite]

theorem launchRange_launched (h16 : n < 16) (hn : n < m.ranges.length) : Launched m (m.launchRange s x arm n) s n := by
  obtain ⟨q, f, kHz, heq, ho, _, hc, hs, hf⟩ := launchRange_parts (K := (· = n)) (m := m) (s := s) (x := x) (arm := arm) rfl h16
  have hcsr : (m.launchRange s x arm n).csr = q.csr := by rw [heq, runRange_field Mach.updIsland_csr, Mach.updRange_csr]
  have hr : (m.launchRange s x arm n).range n = f (m.range n) := by
    rw [heq, runRange_field (g := fun q : Mach => q.range n) (fun _ _ _ => rfl), Mach.updRange, range_setRange_same (by rwa [ho.ranges]), ho.range]
  obtain ⟨hstream, hpc, htiles⟩ := hf (m.range n)
  exact ⟨(Mach.rdF_congr _ _ _ _ hcsr).trans hs, by rw [hr, hstream], by rw [hr, hpc], by rw [hr, htiles], hc.same hcsr⟩

/-- What launching another range leaves of a launched one. -/
theorem Launched.of_within {K : Nat → Prop} {r : Mach} (h : Launched m q s n) (g : Within K q r) (hn : ¬ K n) : Launched m r s n where
  state := (SameStop.of_within g hn).state.trans h.state
  stream := (congrArg (·.stream) (g.range n hn)).trans h.stream
  pc := (congrArg (·.pc) (g.range n hn)).trans h.pc
  tiles := (congrArg (·.tiles) (g.range n hn)).trans h.tiles
  coords off hl hu := (g.rd_inRange hn (inRange_at (by omega) (by omega))).trans (h.coords off hl hu)

theorem showBudget_swite (m : Mach) : m.showBudget.swite = m.swite := by
  unfold Mach.showBudget
  rw [each_field (g := Mach.swite) fun _ _ => Mach.wrF_swite ..]
  rw [Mach.wrF_swite, Mach.wrF_swite, Mach.wrF_swite]

/-- What holds of the module while a launch goes over the ranges. -/
structure Launching (m q : Mach) (s : Machine.Stream) : Prop where
  within : Within (· ∈ maskBits s.mask 16) m q
  swite : q.swite = m.swite
  tiles : ∀ n, (q.range n).tiles = (m.range n).tiles

theorem Launching.launchRange (h : Launching m q s) (hlen : m.ranges.length = 16) (hn : n ∈ maskBits s.mask 16) :
    Launching m (q.launchRange s x arm n) s ∧ Launched m (q.launchRange s x arm n) s n := by
  have h16 := (mem_maskBits.mp hn).1
  have hl : Launched q (q.launchRange s x arm n) s n := launchRange_launched h16 (by rw [h.within.count, hlen]; exact h16)
  have ht : ((q.launchRange s x arm n).range n).tiles = (m.range n).tiles := hl.tiles.trans (h.tiles n)
  refine ⟨⟨h.within.trans (launchRange_within hn h16), (launchRange_swite h16).trans h.swite, fun k => ?_⟩, { hl with tiles := ht }⟩
  by_cases hk : k = n
  · exact hk ▸ ht
  · exact (congrArg (·.tiles) ((launchRange_within (K := (· = n)) rfl h16).range k hk)).trans (h.tiles k)

/-- A launch: every range of the mask begins, and neither memory nor the host's link changes. -/
theorem launch_spec (hx : m.ctx s.ctx = some x) (hlen : m.ranges.length = 16) :
    (∀ n ∈ maskBits s.mask 16, Launched m (m.launch s) s n) ∧ (m.launch s).swite = m.swite ∧ (m.launch s).mem = m.mem := by
  unfold Mach.launch
  simp -zeta only [hx]
  extract_lets arm _ q
  obtain ⟨hq, hn⟩ := each_establishes (l := maskBits s.mask 16) (f := fun m n => m.launchRange s x arm n) (I := fun r => Launching m r s)
    (P := fun r n => Launched m r s n) (fun r n hn hr => (hr.launchRange hlen hn).1) (fun r n hn hr => (hr.launchRange hlen hn).2)
    (fun r n hn k hk hr hl => hl.of_within (launchRange_within (K := (· = n)) rfl (mem_maskBits.mp hn).1) hk) q
    ⟨(Within.refl _ m).same, rfl, fun _ => rfl⟩
  exact ⟨fun n hm => (hn n hm).of_within (Within.refl noRange _).showBudget fun h => h, (showBudget_swite _).trans hq.swite,
    hq.within.showBudget.mem⟩

end

/-! ### The command -/

theorem accept_ctx (m : Mach) (h : Hdr) (op c : Nat) : (m.accept h op).ctx c = m.ctx c := by
  rw [Mach.accept, Mach.ctx, Mach.send_ctxs, Mach.ctx]
  rfl

theorem accept_replies {m : Mach} {h : Hdr} (op : Nat) (hup : h.lane = .mgmt ∨ m.dataUp = true) :
    (m.accept h op).swite.replies = m.swite.replies ++ [replyOf h.prio h.lane h.ctx h.tag op St.accepted 0 [] false] :=
  send_replies (m := m.begin h op) hup

theorem accept_outstanding (m : Mach) (h : Hdr) (op : Nat) : (m.accept h op).swite.outstanding =
    m.swite.outstanding ++ [{ lane := h.lane, ctx := h.ctx, tag := h.tag, opcode := op, prio := h.prio }] :=
  send_outstanding (m.begin h op) _

theorem CoordsZero.at {m : Mach} {n k off : Nat} (h : CoordsZero m n) (hl : 0x100 ≤ off) (hu : off + 4 * k < 0x510) :
    m.rd (0x01000000 + off + 0x100000 * n + 4 * k) = 0 := by
  rw [show 0x01000000 + off + 0x100000 * n + 4 * k = 0x01000000 + (off + 4 * k) + 0x100000 * n by omega]
  exact h _ (by omega) hu

section

variable {m : Mach} {h : Hdr} {image mode mask : Nat}

theorem streamStartBody_badParam (h0 : mask = 0) : streamStartBody h image mode mask m = m.answer h Op.streamStart St.badParam := if_pos h0

theorem streamStartBody_notPermitted (h0 : mask ≠ 0) (ho : m.ownsAll h.ctx mask = false) :
    streamStartBody h image mode mask m = m.answer h Op.streamStart St.notPermitted := by
  simp [streamStartBody, h0, ho]

theorem streamStartBody_busy (h0 : mask ≠ 0) (ho : m.ownsAll h.ctx mask = true) (hb : m.startBusy mask = true) :
    streamStartBody h image mode mask m = m.answer h Op.streamStart St.busy := by
  simp [streamStartBody, h0, ho, hb]

section

variable (h0 : mask ≠ 0) (ho : m.ownsAll h.ctx mask = true) (hb : m.startBusy mask = false)

include h0 ho hb

theorem streamStartBody_refused {st : Nat} (hst : m.startStatus h.ctx image mode mask = some st) :
    streamStartBody h image mode mask m = m.answer h Op.streamStart st := by
  simp [streamStartBody, h0, ho, hb, hst]

variable {x : Ctx} {i : Image} (hst : m.startStatus h.ctx image mode mask = none) (hx : m.ctx h.ctx = some x) (hi : x.image image = some i)

include hst hx hi

/-- The stream that a start makes. -/
abbrev started (m : Mach) (h : Hdr) (image mode mask : Nat) (i : Image) : Machine.Stream :=
  m.newStream h.ctx image i mask (decide (mode = 1)) (.command h.lane h.tag) h.prio

theorem streamStartBody_granted {g : Rat × Nat} (hs : m.treeline.starving = none) (hg : m.grantOf (started m h image mode mask i) = some g) :
    streamStartBody h image mode mask m =
      (({ m with nextStream := m.nextStream + 1 } : Mach).accept h Op.streamStart).launch
        { started m h image mode mask i with grant := g.1, boost := g.2 } := by
  have hg' : ({ m with nextStream := m.nextStream + 1 } : Mach).grantOf (started m h image mode mask i) = some g := hg
  simp [streamStartBody, h0, ho, hb, hst, hx, hi, hs, hg']

theorem streamStartBody_waits (hs : m.treeline.starving.isSome = true ∨ m.grantOf (started m h image mode mask i) = none) :
    ∃ q : Mach, streamStartBody h image mode mask m = q.begin h Op.streamStart ∧ q.streams = m.streams ++ [started m h image mode mask i] ∧
      q.csr = m.csr ∧ q.ranges = m.ranges ∧ q.mem = m.mem ∧ q.swite = m.swite := by
  have hs' : (if m.treeline.starving.isSome then none
      else ({ m with nextStream := m.nextStream + 1 } : Mach).grantOf (started m h image mode mask i)) = none := by
    split
    · rfl
    · next hn => exact hs.resolve_left hn
  refine ⟨{ m with nextStream := m.nextStream + 1, streams := m.streams ++ [started m h image mode mask i], treeline := { m.treeline with
      waiting := m.treeline.waiting ++ [{ stream := some m.nextStream, ctx := h.ctx, entry := 0, since := m.clk }] } }, ?_, rfl, rfl, rfl, rfl, rfl⟩
  simp only [streamStartBody, h0, ho, hb, hst, hx, hi, hs', if_false, Option.bind_some, Bool.not_true, Bool.false_eq_true]
  rfl

end

end

/-- Settles O32: the checks read on a packet's module what they read before it, and each range of the mask is launched. -/
theorem streamStartBegins : Obligations.StreamStartBegins := by
  intro s h image mode mask hsh run q
  refine ⟨fun hf => ?_, fun hf hb => ?_⟩
  · exact congrArg (fun m => Host.Outcome.next (s.on m)) (if_pos hf)
  · have hrun : run = .next (s.on (streamStartBody h image mode mask q)) :=
      (congrArg (fun m => Host.Outcome.next (s.on m)) ((if_neg (by simp [hf])).trans (Mach.command_go _ _ _ _ _ hb)))
    obtain ⟨c, a, hq⟩ := took_eq s.toMach Op.streamStart h
    have hown : q.ownsAll h.ctx mask = s.ownsAll h.ctx mask := took_ownsAll ..
    have hbusy : q.startBusy mask = s.startBusy mask := by simp only [q, hq]; rfl
    have hstat : q.startStatus h.ctx image mode mask = s.startStatus h.ctx image mode mask := by simp only [q, hq]; rfl
    have hqc : q.csr = s.csr := took_csr ..
    have hqr : q.swite.replies = s.swite.replies := took_replies ..
    refine ⟨fun h0 => hrun.trans (by rw [streamStartBody_badParam h0]), fun h0 ho => hrun.trans (by rw [streamStartBody_notPermitted h0 (hown.trans ho)]),
      fun h0 ho hbu => hrun.trans (by rw [streamStartBody_busy h0 (hown.trans ho) (hbusy.trans hbu)]),
      fun h0 ho hbu st hst => hrun.trans (by rw [streamStartBody_refused h0 (hown.trans ho) (hbusy.trans hbu) (hstat.trans hst)]),
      fun x i h0 ho hbu hst hx hi => ?_⟩
    intro u o
    have hqx : q.ctx h.ctx = some x := (took_ctx ..).trans hx
    have hu : started q h image mode mask i = u := by simp only [q, hq]; rfl
    have hgrant : q.grantOf (started q h image mode mask i) = s.grantOf u := by rw [hu]; simp only [q, hq]; rfl
    have hstarve : q.treeline.starving = s.treeline.starving := by rw [took_treeline]
    refine ⟨fun g hs hg => ?_, fun hs => ?_⟩
    · rw [streamStartBody_granted h0 (hown.trans ho) (hbusy.trans hbu) (hstat.trans hst) hqx hi (hstarve.trans hs) (hgrant.trans hg)] at hrun
      set w := ({ q with nextStream := q.nextStream + 1 } : Mach).accept h Op.streamStart
      have hup : h.lane = .mgmt ∨ q.dataUp = true := (begins_dataUp hb).imp_right fun hd => (took_dataUp ..).trans hd
      have hwx : w.ctx h.ctx = some x := (accept_ctx ..).trans hqx
      have hwr : w.ranges = s.ranges := (Mach.send_ranges ..).trans (took_ranges s.toMach Op.streamStart h)
      obtain ⟨hl, hsw, hmem⟩ := launch_spec (s := { started q h image mode mask i with grant := g.1, boost := g.2 }) hwx
        ((congrArg List.length hwr).trans (shaped_ranges hsh))
      refine ⟨_, replyOf h.prio h.lane h.ctx h.tag Op.streamStart St.accepted 0 [] false, hrun, fun n hn => ?_, ?_, rfl, rfl, rfl, ?_, ?_⟩
      · obtain ⟨hst, hstr, hpc, ht, hz⟩ := hl n hn
        have hid := congrArg (fun u : Machine.Stream => some u.id) hu
        refine ⟨hst.trans (if_congr decide_eq_true_iff rfl rfl), hstr.trans hid, hpc, ht.trans (by rw [Mach.range, hwr, Mach.range]),
          fun k hk => ⟨?_, ?_⟩, fun k hk => ?_⟩
        · exact hz.at (off := 0x100) (by decide) (by omega)
        · exact hz.at (off := 0x300) (by decide) (by omega)
        · exact hz.at (off := 0x500) (by decide) (by omega)
      · rw [← hqr]
        exact (congrArg (·.replies) hsw).trans (accept_replies (m := { q with nextStream := q.nextStream + 1 }) _ hup)
      · rw [← took_outstanding s.toMach Op.streamStart h]
        exact (congrArg (·.outstanding) hsw).trans (accept_outstanding { q with nextStream := q.nextStream + 1 } ..)
      · exact hmem.trans ((Mach.send_mem ..).trans (took_mem s.toMach Op.streamStart h))
    · obtain ⟨r, hr, hstr, hcsr, hran, hmem, hsw⟩ := streamStartBody_waits h0 (hown.trans ho) (hbusy.trans hbu) (hstat.trans hst) hqx hi
        (by rw [hstarve, hgrant]; exact hs)
      rw [hr] at hrun
      refine ⟨_, hrun, ?_, hcsr.trans hqc, hran.trans (took_ranges ..), hmem.trans (took_mem ..), ?_, ?_⟩
      · exact hstr.trans (by rw [hu, took_streams])
      · exact (congrArg (·.replies) hsw).trans hqr
      · exact congrArg (· ++ [o]) ((congrArg (·.outstanding) hsw).trans (took_outstanding ..))

end Sys2Proof.Laws
end

section
namespace Sys2Proof.Laws

open Sys2Proof.Machine

/-!
# A range's dispatcher and station sequences

`Aside n m q` says that the module `q` differs from `m` neither in a range other than `n` nor in memory, the contexts or the host's link. What an
update of a range leaves of it is read back through `range_updRange_same`, and the sequences of its stations through `seqOf_setSeq_same`.
-/

structure Aside (n : Nat) (m q : Mach) : Prop where
  range : ∀ k, k ≠ n → q.range k = m.range k
  mem : q.mem = m.mem
  ctxs : q.ctxs = m.ctxs
  swite : q.swite = m.swite

section

variable {m q : Mach} {n : Nat}

theorem Aside.refl (n : Nat) (m : Mach) : Aside n m m := ⟨fun _ _ => rfl, rfl, rfl, rfl⟩

theorem Aside.trans {r : Mach} (h : Aside n m q) (g : Aside n q r) : Aside n m r :=
  ⟨fun k hk => (g.range k hk).trans (h.range k hk), g.mem.trans h.mem, g.ctxs.trans h.ctxs, g.swite.trans h.swite⟩

theorem Aside.regs {r : Mach} (h : Aside n m q) (g : RegsOnly q r) : Aside n m r :=
  h.trans ⟨fun k _ => g.range k, g.mem, g.ctxs, g.swite⟩

theorem Aside.wr {a : Nat} {v : Word} (h : Aside n m q) : Aside n m (q.wr a v) := h.regs (RegsOnly.refl q).wr

theorem Aside.wrF {a v : Nat} {f : Fld} (h : Aside n m q) : Aside n m (q.wrF a f v) := h.wr

theorem Aside.setRange {r : RangeSt} (h : Aside n m q) : Aside n m (q.setRange n r) :=
  h.trans ⟨fun _ hk => range_setRange_other q hk r, rfl, rfl, rfl⟩

theorem Aside.updRange {f : RangeSt → RangeSt} (h : Aside n m q) : Aside n m (q.updRange n f) := h.setRange

theorem Aside.ite {a b : Mach} {c : Prop} [Decidable c] (ha : Aside n m a) (hb : Aside n m b) : Aside n m (if c then a else b) := by
  split
  · exact ha
  · exact hb

/-- In the statements' words. -/
theorem Aside.kept (h : Aside n m q) : (∀ k, k ≠ n → q.range k = m.range k) ∧ q.mem = m.mem ∧ q.ctxs = m.ctxs ∧ q.swite = m.swite :=
  ⟨h.range, h.mem, h.ctxs, h.swite⟩

theorem range_updRange_same (hn : n < m.ranges.length) (f : RangeSt → RangeSt) : (m.updRange n f).range n = f (m.range n) :=
  range_setRange_same hn _

end

/-! ### The sequences of the stations (R26) -/

/-- The stations that have a sequence. -/
def hasSeq (st : Nat) : Prop := st = 1 ∨ st = 2 ∨ st = 3 ∨ st = 4 ∨ st = 5 ∨ st = 7

theorem hasSeq_iff {st : Nat} : st ∈ [1, 2, 3, 4, 5, 7] ↔ hasSeq st := by simp [hasSeq]

section

variable {r : RangeSt} {st : Nat} {l : List Placed}

theorem seqOf_setSeq_same (h : hasSeq st) : (r.setSeq st l).seqOf st = l := by
  rcases h with rfl | rfl | rfl | rfl | rfl | rfl
  all_goals rfl

/-- Writing one station's sequence leaves the rest of a range, the other sequences among it. -/
theorem setSeq_cases (r : RangeSt) (st : Nat) (l : List Placed) :
    (st = 1 ∧ r.setSeq st l = { r with col := l }) ∨ (st = 2 ∧ r.setSeq st l = { r with crest := l }) ∨
    (st = 3 ∧ r.setSeq st l = { r with spur := l }) ∨ (st = 4 ∧ r.setSeq st l = { r with talus := l }) ∨
    (st = 5 ∧ r.setSeq st l = { r with scree := l }) ∨ (st = 7 ∧ r.setSeq st l = { r with link := l }) ∨
    (¬ hasSeq st ∧ r.setSeq st l = r) := by
  by_cases h : hasSeq st
  · rcases h with rfl | rfl | rfl | rfl | rfl | rfl
    all_goals simp [RangeSt.setSeq]
  · refine .inr (.inr (.inr (.inr (.inr (.inr ⟨h, ?_⟩)))))
    unfold RangeSt.setSeq
    split
    case h_7 => rfl
    all_goals exact absurd (by simp [hasSeq]) h

theorem seqOf_setSeq_other {k : Nat} (h : k ≠ st) : (r.setSeq st l).seqOf k = r.seqOf k := by
  rcases setSeq_cases r st l with ⟨rfl, hq⟩ | ⟨rfl, hq⟩ | ⟨rfl, hq⟩ | ⟨rfl, hq⟩ | ⟨rfl, hq⟩ | ⟨rfl, hq⟩ | ⟨_, hq⟩
  case inr.inr.inr.inr.inr.inr => rw [hq]
  all_goals
    rw [hq]
    unfold RangeSt.seqOf
    split
    all_goals simp_all

/-- A part of a range that is no station's sequence. -/
theorem setSeq_field {β : Type} {g : RangeSt → β} (hg : ∀ r a b c d e f, g { r with col := a, crest := b, spur := c, talus := d, scree := e, link := f } = g r)
    (r : RangeSt) (st : Nat) (l : List Placed) : g (r.setSeq st l) = g r := by
  rcases setSeq_cases r st l with ⟨_, hq⟩ | ⟨_, hq⟩ | ⟨_, hq⟩ | ⟨_, hq⟩ | ⟨_, hq⟩ | ⟨_, hq⟩ | ⟨_, hq⟩
  case inr.inr.inr.inr.inr.inr => rw [hq]
  all_goals
    rw [hq]
    exact hg r ..

theorem hasSeq_of_mem {p : Placed} (h : p ∈ r.seqOf st) : hasSeq st := by
  unfold RangeSt.seqOf at h
  split at h
  case h_7 => exact absurd h List.not_mem_nil
  all_goals simp [hasSeq]

theorem hasSeq_of_head {p : Placed} (h : (r.seqOf st).head? = some p) : hasSeq st := hasSeq_of_mem (List.mem_of_head? h)

end

/-! ### The instruction that comes next -/

/-- A range's dispatcher comes to an instruction of a stream. -/
structure Comes (m : Mach) (n : Nat) (x : Machine.Stream) (e : Ewx) : Prop where
  stream : m.streamOn n = some x
  running : (m.range n).halted = false
  admitted : x.admitted = true
  unfenced : (m.range n).fence = none
  code : x.image.code[(m.range n).pc]? = some e

theorem next_comes {m : Mach} {n : Nat} {x : Machine.Stream} {e : Ewx} (h : m.next n = some (x, e)) : Comes m n x e := by
  unfold Mach.next at h
  split at h
  · cases h
  · next s hs =>
    simp only [Bool.or_eq_true, Bool.not_eq_true'] at h
    split at h
    · cases h
    · next hheld =>
      push Not at hheld
      obtain ⟨⟨⟨⟨hrun, hadm⟩, _⟩, hfence⟩, _⟩ := hheld
      split at h
      · cases h
      · next c hcode =>
        split at h
        · cases h
        · cases h
          exact ⟨hs, by simpa using hrun, by simpa using hadm, by simpa using hfence, hcode⟩

theorem nextIs_comes {m : Mach} {n : Nat} {o : SOp} {x : Machine.Stream} {e : Ewx} (h : m.nextIs n o = some (x, e)) : Comes m n x e := by
  unfold Mach.nextIs at h
  split at h
  · cases h
  · next s c hn =>
    simp only [Option.ite_none_right_eq_some] at h
    obtain ⟨_, h⟩ := h
    cases h
    exact next_comes hn

theorem streamOn_stream {m : Mach} {n : Nat} {x : Machine.Stream} (h : m.streamOn n = some x) : m.stream x.id = some x := by
  obtain ⟨id, _, hs⟩ := Option.bind_eq_some_iff.mp h
  rwa [stream_id hs]

/-! ### A stop that one range meets -/

/-- In the statements' words: the stream is stopped, the range that met the stop records STREAM_FAULT with its cause, and memory is as it was. -/
def FaultStops (m t : Mach) (x : Machine.Stream) (n cause : Nat) : Prop :=
  t.stopped x ∧ (bitOf x.mask n = true → t.faulted n cause) ∧ t.mem = m.mem

theorem stopStream_faultStops {m q : Mach} {x : Machine.Stream} {n : Nat} {o : StopAt} (hn : n < 16) (hx : q.stream x.id = some x)
    (ha : x.admitted = true) (h16 : q.ranges.length = 16) (hr : o.range = n) (hs : o.status = St.streamFault) (hc : o.cause < 2 ^ 8)
    (hmem : q.mem = m.mem) : FaultStops m (q.stopStream x.id St.streamFault [o]) x n o.cause := by
  have h := stopStream_spec (status := St.streamFault) (own := [o]) hx h16
  refine ⟨h.stopped ha, fun hb => ?_, h.within.mem.trans hmem⟩
  exact h.faulted ha (mem_maskBits.mpr ⟨hn, hb⟩) (by simp [ownAt, hr]) hs hc

theorem placeFault_faultStops {m : Mach} {x : Machine.Stream} {e c : Ewx} {n cause : Nat} (hn : n < 16) (h : Comes m n x c) (h16 : m.ranges.length = 16)
    (hc : cause < 2 ^ 8) : FaultStops m (m.placeFault n x e cause) x n cause :=
  stopStream_faultStops hn (streamOn_stream h.stream) h.admitted h16 rfl rfl hc rfl

end Sys2Proof.Laws
end

section
namespace Sys2Proof.Laws

open Sys2Proof.Machine

/-!
# The dispatcher's own instructions, SYNC and IDLE
-/

section

variable {m q : Mach} {n : Nat}

/-! ### Fences -/

theorem doneBefore_congr (hseq : ∀ st, (q.range n).seqOf st = (m.range n).seqOf st) (hs : q.saddle = m.saddle) (mask seq : Nat) :
    q.doneBefore n mask seq = m.doneBefore n mask seq := by
  simp only [Mach.doneBefore, RangeSt.doneBefore, hseq, hs]

theorem settle_unfenced (h : (m.range n).fence = none) : m.settle n = m := by
  unfold Mach.settle
  rw [h]

theorem settle_waits {mask seq : Nat} (h : (m.range n).fence = some (mask, seq)) (hd : m.doneBefore n mask seq = false) : m.settle n = m := by
  simp [Mach.settle, h, hd]

theorem settle_goes {mask seq : Nat} (h : (m.range n).fence = some (mask, seq)) (hd : m.doneBefore n mask seq = true) (hh : m.seqHeld n seq = false) :
    m.settle n = m.updRange n (fun r => { r with fence := none, rowCache := if bitOf mask 4 || bitOf mask 5 then [] else r.rowCache }) := by
  simp [Mach.settle, h, hd, hh]

/-- Nothing holds what was placed on a running range with no armed position. -/
theorem seqHeld_unarmed (ha : m.armed n = none) (hr : (m.range n).halted = false) (seq : Nat) : m.seqHeld n seq = false := by
  simp [Mach.seqHeld, Mach.mark, ha, hr]

theorem armed_congr (h : q.csr = m.csr) : q.armed n = m.armed n := by
  simp only [Mach.armed, Mach.rdF_congr q m _ _ h]

theorem settle_cases (m : Mach) (n : Nat) : m.settle n = m ∨ ∃ f, m.settle n = m.updRange n f := by
  unfold Mach.settle
  split
  · exact .inl rfl
  · split
    · exact .inr ⟨_, rfl⟩
    · exact .inl rfl

theorem Aside.settle (h : Aside n m q) : Aside n m (q.settle n) := by
  rcases settle_cases q n with hs | ⟨f, hs⟩
  · rwa [hs]
  · rw [hs]
    exact h.updRange

theorem settle_csr (m : Mach) (n : Nat) : (m.settle n).csr = m.csr := by
  rcases settle_cases m n with hs | ⟨f, hs⟩
  · rw [hs]
  · rw [hs, Mach.updRange_csr]

end

/-! ### The rows of CTRL -/

section

variable {m : Mach} {n : Nat} {x : Machine.Stream} {e : Ewx}

/-- A range as CTRL.FENCE leaves it before its fence is asked for the first time. -/
abbrev fenced (m : Mach) (n : Nat) (e : Ewx) : Mach := m.updRange n (fun r => { r.step with fence := some (e.m 0 8, r.nextSeq) })

theorem ctrlFence_eq (h : m.nextIs n .fence = some (x, e)) : ctrlFence n m = (fenced m n e).settle n := by
  simp only [ctrlFence, h]

theorem fenced_range (hn : n < m.ranges.length) (e : Ewx) :
    (fenced m n e).range n = { (m.range n).step with fence := some (e.m 0 8, (m.range n).nextSeq) } :=
  range_updRange_same hn _

theorem fenced_doneBefore (hn : n < m.ranges.length) (e : Ewx) (mask seq : Nat) :
    (fenced m n e).doneBefore n mask seq = m.doneBefore n mask seq :=
  doneBefore_congr (m := m) (q := fenced m n e) (fun st => congrArg (·.seqOf st) (fenced_range hn e)) rfl mask seq

/-- CTRL.FENCE (R32). -/
theorem ctrlFence_spec (hn : n < m.ranges.length) (h : m.nextIs n .fence = some (x, e)) :
    Aside n m (ctrlFence n m) ∧ (ctrlFence n m).csr = m.csr ∧
      (m.doneBefore n (e.m 0 8) (m.range n).nextSeq = false →
        (ctrlFence n m).range n = { (m.range n).step with fence := some (e.m 0 8, (m.range n).nextSeq) }) ∧
      (m.doneBefore n (e.m 0 8) (m.range n).nextSeq = true → m.armed n = none →
        ((ctrlFence n m).range n).fence = none ∧ ((ctrlFence n m).range n).pc = (m.range n).pc + 1) := by
  have hf : ((fenced m n e).range n).fence = some (e.m 0 8, (m.range n).nextSeq) := by rw [fenced_range hn]
  rw [ctrlFence_eq h]
  refine ⟨(Aside.refl n m).updRange.settle, settle_csr _ n, fun hd => ?_, fun hd ha => ?_⟩
  · rw [settle_waits hf ((fenced_doneBefore hn e _ _).trans hd), fenced_range hn]
  · have hrun : ((fenced m n e).range n).halted = false := by
      rw [fenced_range hn]
      exact (nextIs_comes h).running
    rw [settle_goes hf ((fenced_doneBefore hn e _ _).trans hd) (seqHeld_unarmed (m := fenced m n e) ((armed_congr rfl).trans ha) hrun _),
      range_updRange_same (by simpa [Mach.updRange, Mach.setRange] using hn), fenced_range hn]
    exact ⟨rfl, rfl⟩

/-- CTRL.LOOP with a loop level free (R62, R64). -/
theorem ctrlLoop_opens (h : m.nextIs n .loop = some (x, e)) (hl : (m.range n).loops.length < 4) :
    ((m.rd (Reg.RANGE_LC n (e.m 0 2))).toNat ≠ 0 → ctrlLoop n m = m.setRange n
      { (m.range n).step with loops := { body := (m.range n).pc + 1, count := (m.rd (Reg.RANGE_LC n (e.m 0 2))).toNat } :: (m.range n).loops }) ∧
    ((m.rd (Reg.RANGE_LC n (e.m 0 2))).toNat = 0 → ctrlLoop n m = m.setRange n
      { (m.range n).step with pc := afterEnd (x.image.code.drop ((m.range n).pc + 1)) ((m.range n).pc + 1) 1 }) := by
  simp only [ctrlLoop, h, if_neg (Nat.not_le.mpr hl)]
  exact ⟨fun h0 => if_neg h0, fun h0 => if_pos h0⟩

theorem ctrlLoop_faults (h : m.nextIs n .loop = some (x, e)) (hl : 4 ≤ (m.range n).loops.length) : ctrlLoop n m = m.placeFault n x e 0x04 := by
  simp only [ctrlLoop, h, if_pos hl]

/-- CTRL.ENDLOOP (R62). -/
theorem ctrlEndloop_cases (h : m.nextIs n .endloop = some (x, e)) :
    ((m.range n).loops = [] ∧ ctrlEndloop n m = m.setRange n (m.range n).step) ∨
    ∃ f l, (m.range n).loops = f :: l ∧
      ((1 < f.count ∧ ctrlEndloop n m = m.setRange n { (m.range n).step with pc := f.body, loops := { f with count := f.count - 1 } :: l }) ∨
       (f.count ≤ 1 ∧ ctrlEndloop n m = m.setRange n { (m.range n).step with loops := l })) := by
  cases hl : (m.range n).loops with
  | nil => exact .inl ⟨rfl, by simp only [ctrlEndloop, h, hl]⟩
  | cons f l =>
    refine .inr ⟨f, l, rfl, ?_⟩
    by_cases hc : 1 < f.count
    · exact .inl ⟨hc, by simp only [ctrlEndloop, h, hl, if_pos hc]⟩
    · exact .inr ⟨Nat.not_lt.mp hc, by simp only [ctrlEndloop, h, hl, if_neg hc]⟩

/-- One register is written and the dispatcher moves on. -/
abbrev wroteStep (m : Mach) (n a : Nat) (v : Word) : Mach := (m.wr a v).updRange n RangeSt.step

/-- In the statements' words. -/
theorem wroteStep_spec (hn : n < m.ranges.length) (a : Nat) (v : Word) : Aside n m (wroteStep m n a v) ∧
    (wroteStep m n a v).range n = (m.range n).step ∧ (wroteStep m n a v).rd a = v ∧ ∀ b, b ≠ a → (wroteStep m n a v).rd b = m.rd b :=
  ⟨(Aside.refl n m).wr.updRange, range_updRange_same (m := m.wr a v) hn _, Mach.rd_wr_same m a v, fun b hb => Mach.rd_wr_other m a b v hb⟩

theorem ctrlSetlc_eq (h : m.nextIs n .setlc = some (x, e)) :
    ctrlSetlc n m = wroteStep m n (Reg.RANGE_LC n (e.m 32 2)) (BitVec.ofNat 32 (e.m 0 32)) := by
  simp only [ctrlSetlc, h]

theorem ctrlSetinc_eq (h : m.nextIs n .setinc = some (x, e)) :
    ctrlSetinc n m = wroteStep m n (Reg.RANGE_INC_COORD n e.axIndex) (BitVec.ofInt 32 e.imm) := by
  simp only [ctrlSetinc, h]

theorem in32_iff {v : Int} : in32 v = true ↔ -2147483648 ≤ v ∧ v ≤ 2147483647 := by simp [in32]

/-- The value that CTRL.SETAX writes (R61, R96). -/
abbrev setaxValue (x : Machine.Stream) (n : Nat) (e : Ewx) : Int := if e.m 36 1 = 1 then e.imm * (rangeRank x.mask n : Int) else e.imm

theorem ctrlSetax_eq (h : m.nextIs n .setax = some (x, e)) :
    (in32 (setaxValue x n e) = true → ctrlSetax n m = wroteStep m n (Reg.RANGE_AX_COORD n e.axIndex) (BitVec.ofInt 32 (setaxValue x n e))) ∧
    (in32 (setaxValue x n e) = false → ctrlSetax n m = m.placeFault n x e 0x03) := by
  simp only [ctrlSetax, h]
  exact ⟨fun hv => if_neg (by simp [hv]), fun hv => if_pos (by simp [hv])⟩

/-- The value that CTRL.ADDAX writes (R61, R96). -/
abbrev addaxValue (m : Mach) (n : Nat) (e : Ewx) : Int := (m.rd (Reg.RANGE_AX_COORD n e.axIndex)).toInt + e.imm

theorem ctrlAddax_eq (h : m.nextIs n .addax = some (x, e)) :
    (in32 (addaxValue m n e) = true → ctrlAddax n m = wroteStep m n (Reg.RANGE_AX_COORD n e.axIndex) (BitVec.ofInt 32 (addaxValue m n e))) ∧
    (in32 (addaxValue m n e) = false → ctrlAddax n m = m.placeFault n x e 0x03) := by
  simp only [ctrlAddax, h]
  exact ⟨fun hv => if_neg (by simp [hv]), fun hv => if_pos (by simp [hv])⟩

end

/-! ### SYNC -/

section

variable {m : Mach} {n : Nat} {x : Machine.Stream} {e : Ewx}

/-- The counter of a context that an instruction names. -/
abbrev counterReg (m : Mach) (x : Machine.Stream) (k : Nat) : Nat := Reg.TRAVERSE_SYNC_COUNTER (m.syncBase x.ctx + k)

theorem addCounter_adds {idx k inc : Nat} (hv : m.syncVal x.ctx k + inc < 2 ^ 32) :
    m.addCounter n x idx k inc = m.wr (counterReg m x k) (BitVec.ofNat 32 (m.syncVal x.ctx k + inc)) :=
  if_neg (Nat.not_le.mpr hv)

theorem addCounter_faultStops {q : Mach} {idx k inc : Nat} (hn : n < 16) (h16 : m.ranges.length = 16) (hx : m.stream x.id = some x)
    (ha : x.admitted = true) (hmem : m.mem = q.mem) (hv : 2 ^ 32 ≤ m.syncVal x.ctx k + inc) : FaultStops q (m.addCounter n x idx k inc) x n 0x06 := by
  have h := stopStream_faultStops (m := q) (q := m.tally 315 0)
    (o := { range := n, status := St.streamFault, cause := 0x06, instr := idx, rep := 0, station := 6, cond := 0 }) hn hx ha h16 rfl rfl (by simp) hmem
  rwa [Mach.addCounter, if_pos hv]

/-- A counter has a new value and no other register does. -/
structure Added (m t : Mach) (n k v : Nat) : Prop where
  aside : Aside n m t
  value : (t.rd k).toNat = v
  others : ∀ a, a ≠ k → t.rd a = m.rd a

theorem addCounter_added {q : Mach} {idx k inc : Nat} (ha : Aside n m q) (hcsr : q.csr = m.csr) (hv : m.syncVal x.ctx k + inc < 2 ^ 32) :
    Added m (q.addCounter n x idx k inc) n (counterReg m x k) (m.syncVal x.ctx k + inc) ∧ (q.addCounter n x idx k inc).range n = q.range n := by
  have hbase : q.syncBase x.ctx = m.syncBase x.ctx := by simp only [Mach.syncBase, Mach.ctx, ha.ctxs]
  have hval : q.syncVal x.ctx k = m.syncVal x.ctx k := by simp only [Mach.syncVal, hbase, Mach.rd_congr q m _ hcsr]
  rw [addCounter_adds (by rwa [hval]), counterReg, hbase, hval]
  refine ⟨⟨ha.wr, ?_, fun a hk => (Mach.rd_wr_other _ _ _ _ hk).trans (Mach.rd_congr _ _ _ hcsr)⟩, rfl⟩
  rw [Mach.rd_wr_same, BitVec.toNat_ofNat, Nat.mod_eq_of_lt hv]

theorem syncSignal_faults (h : m.nextIs n .signal = some (x, e)) (hc : m.syncLen x.ctx ≤ e.counter) : syncSignal n m = m.placeFault n x e 0x05 := by
  simp only [syncSignal, h, if_pos hc]

theorem syncSignal_waits (h : m.nextIs n .signal = some (x, e)) (hc : e.counter < m.syncLen x.ctx) (hk : e.mask ≠ 0) :
    syncSignal n m = m.setRange n { (m.range n).step with signals := (m.range n).signals ++
      [{ seq := (m.range n).nextSeq, idx := (m.range n).pc, counter := e.counter, inc := e.m 0 16, mask := e.mask }] } := by
  simp only [syncSignal, h, if_neg (Nat.not_le.mpr hc), if_neg hk]

theorem syncSignal_fires (h : m.nextIs n .signal = some (x, e)) (hc : e.counter < m.syncLen x.ctx) (hk : e.mask = 0) :
    syncSignal n m = (m.setRange n (m.range n).step).addCounter n x (m.range n).pc e.counter (e.m 0 16) := by
  simp only [syncSignal, h, if_neg (Nat.not_le.mpr hc), if_pos hk]

section

variable {i : Nat} {g : Signal} (hs : m.streamOn n = some x) (hg : (m.range n).signals[i]? = some g)

include hs hg

theorem syncFire_waits (h : m.doneBefore n g.mask g.seq = false ∨ m.seqHeld n g.seq = true) : syncFire n i m = m := by
  rcases h with h | h
  · simp [syncFire, hs, hg, h]
  · simp [syncFire, hs, hg, h]

theorem syncFire_fires (hd : m.doneBefore n g.mask g.seq = true) (hh : m.seqHeld n g.seq = false) :
    syncFire n i m = (m.updRange n (fun r => { r with signals := r.signals.erase g })).addCounter n x g.idx g.counter g.inc := by
  simp [syncFire, hs, hg, hd, hh]

end

/-! ### Waits -/

/-- An instruction as it joins a sequence, with no address registers. -/
abbrev waitPlaced (r : RangeSt) (e : Ewx) : Placed :=
  { seq := r.nextSeq, idx := r.pc, ins := e, a := ⟨[], []⟩, b := ⟨[], []⟩, pass := r.passOf r.pc, begun := 0, done := 0 }

/-- An instruction joins the end of each sequence of a list of stations. -/
abbrev joinAll (r : RangeSt) (l : List Nat) (p : Placed) : RangeSt := l.foldl (fun r st => r.setSeq st (r.seqOf st ++ [p])) r

theorem joinAll_field {β : Type} {g : RangeSt → β}
    (hg : ∀ r a b c d e f, g { r with col := a, crest := b, spur := c, talus := d, scree := e, link := f } = g r) (r : RangeSt) (l : List Nat)
    (p : Placed) : g (joinAll r l p) = g r :=
  foldl_keeps (fun q => g q = g r) _ (fun q st hq => (setSeq_field hg q st _).trans hq) l r rfl

theorem seqOf_joinAll {st : Nat} (hst : hasSeq st) (p : Placed) : ∀ {l : List Nat} {r : RangeSt}, l.Nodup →
    (joinAll r l p).seqOf st = r.seqOf st ++ (if st ∈ l then [p] else []) := by
  intro l
  induction l with
  | nil => intro r _; simp [joinAll]
  | cons k t ih =>
    intro r hl
    obtain ⟨hk, ht⟩ := List.nodup_cons.mp hl
    refine (ih ht).trans ?_
    by_cases h : st = k
    · subst h
      rw [seqOf_setSeq_same hst, if_neg hk, if_pos List.mem_cons_self, List.append_nil]
    · rw [seqOf_setSeq_other h]
      simp [h]

theorem syncWait_faults (h : m.nextIs n .wait = some (x, e)) (hc : m.syncLen x.ctx ≤ e.counter) : syncWait n m = m.placeFault n x e 0x05 := by
  simp only [syncWait, h, if_pos hc]

theorem syncWait_joins (h : m.nextIs n .wait = some (x, e)) (hc : e.counter < m.syncLen x.ctx) :
    syncWait n m = m.setRange n { (joinAll (m.range n) (maskBits e.mask 8) (waitPlaced (m.range n) e)).step with
      ctrlWait := if bitOf e.mask 0 then some (e.counter, e.m 0 32, (m.range n).nextSeq) else none } := by
  simp only [syncWait, h, if_neg (Nat.not_le.mpr hc)]

section

variable {st : Nat} {p : Placed} (hs : m.streamOn n = some x) (hst : st ≠ 0) (hp : ((m.range n).seqOf st).head? = some p)

include hs hst hp

theorem waitSatisfied_holds (h : m.waitMet x.ctx p = false ∨ m.seqHeld n p.seq = true) : waitSatisfied n st m = m := by
  rcases h with h | h
  · simp [waitSatisfied, hs, hst, hp, h]
  · simp [waitSatisfied, hs, hst, hp, h]

theorem waitSatisfied_goes (hm : m.waitMet x.ctx p = true) (hh : m.seqHeld n p.seq = false) : waitSatisfied n st m = m.updRange n
    (fun r => { r.setSeq st ((r.seqOf st).drop 1) with rowCache := if bitOf p.ins.mask 5 then [] else r.rowCache }) := by
  simp [waitSatisfied, hs, hst, hp, hm, hh]

end

section

variable {c target seq : Nat} (hs : m.streamOn n = some x) (hw : (m.range n).ctrlWait = some (c, target, seq))

include hs hw

theorem ctrlWait_holds (h : m.syncVal x.ctx c < target ∨ m.seqHeld n seq = true) : waitSatisfied n 0 m = m := by
  rcases h with h | h
  · simp [waitSatisfied, hs, hw, Nat.not_le.mpr h]
  · simp [waitSatisfied, hs, hw, h]

theorem ctrlWait_goes (ht : target ≤ m.syncVal x.ctx c) (hh : m.seqHeld n seq = false) :
    waitSatisfied n 0 m = m.updRange n (fun r => { r with ctrlWait := none }) := by
  simp [waitSatisfied, hs, hw, ht, hh]

end

/-! ### IDLE -/

theorem idle_placed {st : Nat} (h : m.nextIs n .idle = some (x, e)) (he : e.station = st) (hst : st = 0 ∨ st = 6) :
    idle n st .place m = m.updRange n RangeSt.step := by
  simp [idle, h, he, hst]

theorem idle_leaves {st : Nat} {p : Placed} (hs : m.streamOn n = some x) (hp : ((m.range n).seqOf st).head? = some p)
    (ho : p.ins.sop = some .idle) (hl : x.lockstep = false) (hr : (m.range n).halted = false) (hh : m.repHeld n p 0 = false) :
    idle n st .run m = m.retire n st := by
  simp [idle, hs, hp, ho, hl, hr, hh]

/-- With no fence outstanding, the front instruction leaves its sequence and nothing else happens. -/
theorem retire_eq {st : Nat} (hn : n < m.ranges.length) (hf : (m.range n).fence = none) :
    m.retire n st = m.updRange n (fun r => r.setSeq st ((r.seqOf st).drop 1)) := by
  refine settle_unfenced ?_
  rw [range_updRange_same hn, setSeq_field (g := RangeSt.fence) fun _ _ _ _ _ _ _ => rfl]
  exact hf

end

/-! ### The obligation -/

/-- Settles O34, row by row: what an instruction does is an update of its range, a register written, or a stop. -/
theorem dispatcherSyncAndIdle : Obligations.DispatcherSyncAndIdle := by
  refine ⟨fun s n x e hsh => ?_, fun s n x hsh => ?_⟩
  · intro r kept wrote stops
    have h16 : s.ranges.length = 16 := shaped_ranges hsh
    have hn : n.val < s.ranges.length := by rw [h16]; exact n.isLt
    have hset : ∀ r', (s.setRange n r').range n = r' := range_setRange_same hn
    have hkept : ∀ r', kept (s.on (s.setRange n r')) := fun r' => (Aside.refl n.val s.toMach).setRange.kept
    have hwrote : ∀ a v, wrote (s.on (wroteStep s.toMach n a v)) a v := fun a v => by
      obtain ⟨ha, hr, hv, ho⟩ := wroteStep_spec hn a v
      exact ⟨ha.kept, hr, hv, ho⟩
    have hstops : ∀ {o cause}, s.nextIs n o = some (x, e) → cause < 2 ^ 8 → stops (s.on (s.placeFault n x e cause)) cause := fun h hc =>
      placeFault_faultStops n.isLt (nextIs_comes h) h16 hc
    have h32 : ∀ {v : Int}, ¬ (-2147483648 ≤ v ∧ v ≤ 2147483647) → in32 v = false := fun hv => Bool.eq_false_iff.mpr fun hi => hv (in32_iff.mp hi)
    refine ⟨fun h => ?_, fun h => ?_, fun h => ⟨s.on _, rfl, ?_⟩, fun h => ⟨s.on _, rfl, ?_⟩, fun h => ?_, fun h => ?_, fun h => ⟨s.on _, rfl, ?_⟩⟩
    · obtain ⟨ha, hcsr, hw, hg⟩ := ctrlFence_spec hn h
      exact ⟨_, rfl, ha.kept, hcsr, hw, hg⟩
    · intro count
      refine ⟨fun hl => ⟨s.on _, rfl, ?_⟩, fun hl => ⟨s.on _, rfl, ?_⟩⟩
      · obtain ⟨hopen, hskip⟩ := ctrlLoop_opens h hl
        by_cases h0 : count = 0
        · rw [hskip h0]
          exact ⟨hkept _, rfl, fun hc => absurd h0 hc, fun _ => hset _⟩
        · rw [hopen h0]
          exact ⟨hkept _, rfl, fun _ => hset _, fun hc => absurd hc h0⟩
      · rw [ctrlLoop_faults h hl]
        exact hstops h (by decide)
    · rcases ctrlEndloop_cases h with ⟨hl, he⟩ | ⟨f, l, hl, ⟨hc, he⟩ | ⟨hc, he⟩⟩
      · rw [he]
        exact ⟨hkept _, rfl, fun f l hfl => absurd (hl.symm.trans hfl) (by simp), fun f l hfl => absurd (hl.symm.trans hfl) (by simp)⟩
      · rw [he]
        refine ⟨hkept _, rfl, fun g t hgt _ => ?_, fun g t hgt hle => ?_⟩
        · cases hl.symm.trans hgt
          exact hset _
        · cases hl.symm.trans hgt
          omega
      · rw [he]
        refine ⟨hkept _, rfl, fun g t hgt hlt => ?_, fun g t hgt _ => ?_⟩
        · cases hl.symm.trans hgt
          omega
        · cases hl.symm.trans hgt
          exact hset _
    · rw [ctrlSetlc_eq h]
      exact hwrote _ _
    · intro v
      obtain ⟨hw, hf⟩ := ctrlSetax_eq h
      refine ⟨fun hv => ⟨s.on _, rfl, ?_⟩, fun hv => ⟨s.on _, rfl, ?_⟩⟩
      · rw [hw (in32_iff.mpr hv)]
        exact hwrote _ _
      · rw [hf (h32 hv)]
        exact hstops h (by decide)
    · intro v
      obtain ⟨hw, hf⟩ := ctrlAddax_eq h
      refine ⟨fun hv => ⟨s.on _, rfl, ?_⟩, fun hv => ⟨s.on _, rfl, ?_⟩⟩
      · rw [hw (in32_iff.mpr hv)]
        exact hwrote _ _
      · rw [hf (h32 hv)]
        exact hstops h (by decide)
    · rw [ctrlSetinc_eq h]
      exact hwrote _ _
  · intro r kept stops counter added
    have h16 : s.ranges.length = 16 := shaped_ranges hsh
    have hn : n.val < s.ranges.length := by rw [h16]; exact n.isLt
    have hset : ∀ r', (s.setRange n r').range n = r' := range_setRange_same hn
    have hkept : ∀ r', kept (s.on (s.setRange n r')) := fun r' => (Aside.refl n.val s.toMach).setRange.kept
    have hstops : ∀ {o e cause}, s.nextIs n o = some (x, e) → cause < 2 ^ 8 → stops (s.on (s.placeFault n x e cause)) cause := fun h hc =>
      placeFault_faultStops n.isLt (nextIs_comes h) h16 hc
    have hadded : ∀ r' idx k inc, s.syncVal x.ctx k + inc < 2 ^ 32 →
        added (s.on ((s.setRange n r').addCounter n x idx k inc)) k (s.syncVal x.ctx k + inc) ∧
          ((s.setRange n r').addCounter n x idx k inc).range n = r' := fun r' idx k inc hv => by
      obtain ⟨⟨ha, hval, ho⟩, hr⟩ := addCounter_added (n := n.val) (q := s.setRange n r') (idx := idx) (Aside.refl n.val s.toMach).setRange rfl hv
      exact ⟨⟨ha.kept, hval, ho⟩, hr.trans (hset r')⟩
    have hover : ∀ r' idx k inc, s.stream x.id = some x → x.admitted = true → 2 ^ 32 ≤ s.syncVal x.ctx k + inc →
        stops (s.on ((s.setRange n r').addCounter n x idx k inc)) 0x06 := fun r' idx k inc hx ha hv =>
      addCounter_faultStops (q := s.toMach) n.isLt (by simpa [Mach.setRange] using h16) hx ha rfl hv
    refine ⟨fun e h => ?_, fun i g hs hg => ?_, fun e h => ⟨fun hc => ⟨s.on _, rfl, ?_⟩, fun hc => ⟨s.on _, waitPlaced r e, rfl, ?_⟩⟩,
      fun hs => ⟨fun st p hst hp => ⟨fun hw => ?_, fun hm hh => ⟨s.on _, rfl, ?_⟩⟩,
        fun c target q hw => ⟨fun hv => ?_, fun ht hh => ⟨s.on _, rfl, ?_⟩⟩⟩,
      fun e st h he hst => ⟨s.on _, rfl, ?_⟩, fun p st hs hp ho hl hr hh hf => ⟨s.on _, rfl, ?_⟩⟩
    · intro v
      have hc := nextIs_comes h
      refine ⟨fun hk => ⟨s.on _, rfl, ?_⟩, fun hk hm => ⟨s.on _, rfl, ?_⟩, fun hk hm hv => ⟨s.on _, rfl, ?_⟩, fun hk hm hv => ⟨s.on _, rfl, ?_⟩⟩
      · rw [syncSignal_faults h hk]
        exact hstops h (by decide)
      · rw [syncSignal_waits h hk hm]
        exact ⟨hkept _, rfl, hset _⟩
      · rw [syncSignal_fires h hk hm]
        exact hadded _ _ _ _ hv
      · rw [syncSignal_fires h hk hm]
        exact hover _ _ _ _ (streamOn_stream hc.stream) hc.admitted hv
    · intro v
      refine ⟨fun hw => ?_, fun hd hh hv => ⟨s.on _, rfl, ?_⟩, fun hd hh ha hv => ⟨s.on _, rfl, ?_⟩⟩
      · exact congrArg (fun m => Host.Outcome.next (s.on m)) (syncFire_waits hs hg hw)
      · rw [syncFire_fires hs hg hd hh]
        exact hadded _ _ _ _ hv
      · rw [syncFire_fires hs hg hd hh]
        exact hover _ _ _ _ (streamOn_stream hs) ha hv
    · rw [syncWait_faults h hc]
      exact hstops h (by decide)
    · rw [syncWait_joins h hc]
      refine ⟨hkept _, rfl, rfl, rfl, ?_, ?_, fun st hst => ?_, ?_⟩
      · rw [State.on_toMach, hset]
        exact congrArg (· + 1) (joinAll_field (g := RangeSt.pc) (fun _ _ _ _ _ _ _ => rfl) ..)
      · rw [State.on_toMach, hset]
        exact joinAll_field (g := RangeSt.tiles) (fun _ _ _ _ _ _ _ => rfl) ..
      · rw [State.on_toMach, hset]
        have h8 : st ∈ maskBits e.mask 8 ↔ bitOf e.mask st = true := by
          rw [mem_maskBits]
          exact and_iff_right (by simp at hst; omega)
        exact (seqOf_joinAll (hasSeq_iff.mp hst) _ (nodup_maskBits ..)).trans (congrArg _ (if_congr h8 rfl rfl))
      · rw [State.on_toMach, hset]
    · exact congrArg (fun m => Host.Outcome.next (s.on m)) (waitSatisfied_holds hs (Fin.val_ne_of_ne hst) hp hw)
    · rw [waitSatisfied_goes hs (Fin.val_ne_of_ne hst) hp hm hh]
      refine ⟨hkept _, rfl, ?_, ?_⟩
      · rw [State.on_toMach, range_updRange_same hn]
        exact seqOf_setSeq_same (hasSeq_of_head hp)
      · rw [State.on_toMach, range_updRange_same hn]
    · exact congrArg (fun m => Host.Outcome.next (s.on m)) (ctrlWait_holds hs hw hv)
    · rw [Fin.val_zero, ctrlWait_goes hs hw ht hh]
      exact ⟨hkept _, rfl, hset _⟩
    · rw [idle_placed h he (hst.imp (congrArg Fin.val) (congrArg Fin.val))]
      exact ⟨hkept _, rfl, hset _⟩
    · rw [idle_leaves hs hp ho hl hr hh, retire_eq hn hf]
      exact ⟨hkept _, rfl, hset _⟩

end Sys2Proof.Laws
end

section
namespace Sys2Proof.Laws

open Sys2Proof.Machine

/-!
# Placing work at a station

Every placing row places the instruction with the cause that its own rule finds (`placingRow_exec`); what a placement does is then said once, of
`Mach.place`.
-/

/-! ### An address register advances (R58) -/

theorem RegsOnly.advance {m r : Mach} {n k rep : Nat} {a : AxSnap} (h : RegsOnly m r) : RegsOnly m (r.advance n k a rep) :=
  h.each (fun _ _ hr => hr.wr) _

section

variable {m : Mach} {n k rep : Nat} {a : AxSnap}

theorem rd_advance {d : Nat} (hd : d < 6) :
    (m.advance n k a rep).rd (Reg.RANGE_AX_COORD n (8 * k + d)) = BitVec.ofInt 32 ((a.at rep).getD d 0) := by
  refine (each_establishes (I := fun _ => True) (P := fun r d => r.rd (Reg.RANGE_AX_COORD n (8 * k + d)) = BitVec.ofInt 32 ((a.at rep).getD d 0))
    (fun _ _ _ _ => trivial) (fun _ _ _ _ => Mach.rd_wr_same ..) (fun _ _ _ _ hj _ hP => ?_) m trivial).2 d (List.mem_range.mpr hd)
  exact (Mach.rd_wr_other _ _ _ _ (by unfold Reg.RANGE_AX_COORD; omega)).trans hP

theorem rd_advance_other {b : Nat} (hb : ∀ d < 6, b ≠ Reg.RANGE_AX_COORD n (8 * k + d)) : (m.advance n k a rep).rd b = m.rd b :=
  (each_establishes (I := fun q => q.rd b = m.rd b) (P := fun _ _ => True)
    (fun _ i hi hq => (Mach.rd_wr_other _ _ _ _ (hb i (List.mem_range.mp hi))).trans hq) (fun _ _ _ _ => trivial) (fun _ _ _ _ _ _ _ => trivial) m rfl).1

end

/-! ### A placement -/

section

variable {m : Mach} {n : Nat} {x : Machine.Stream} {e : Ewx} {o : SOp}

/-- No coordinate of a repeat, nor what is left in the registers, passes 32 bits (R60). -/
def FitsPlace (m : Mach) (n : Nat) (e : Ewx) (o : SOp) : Prop :=
  (e.usesAxa o = true → (m.snap n e.axa (e.incsA o)).overflows e.rep = false) ∧
    (o.usesB = true → (m.snap n e.axb (e.incsB o)).overflows e.rep = false)

theorem fitsPlace_iff : FitsPlace m n e o ↔ ((e.usesAxa o && (m.snap n e.axa (e.incsA o)).overflows e.rep) ||
    (o.usesB && (m.snap n e.axb (e.incsB o)).overflows e.rep)) = false := by
  simp [FitsPlace]

theorem place_overflows {cause : Option Nat} (h : ¬ FitsPlace m n e o) : m.place n x e o cause = m.placeFault n x e 0x03 :=
  if_pos (Bool.not_eq_false _ ▸ fitsPlace_iff.not.mp h)

theorem place_faults {k : Nat} (h : FitsPlace m n e o) : m.place n x e o (some k) = m.placeFault n x e k :=
  if_neg (Bool.eq_false_iff.mp (fitsPlace_iff.mp h))

/-- An instruction as it joins its station's sequence. -/
def placedOf (m : Mach) (n : Nat) (e : Ewx) (o : SOp) : Placed :=
  { seq := (m.range n).nextSeq, idx := (m.range n).pc, ins := e, a := m.snap n e.axa (e.incsA o), b := m.snap n e.axb (e.incsB o),
    pass := (m.range n).passOf (m.range n).pc, begun := 0, done := 0 }

/-- The range as the placement leaves it. -/
def joined (r : RangeSt) (st : Nat) (p : Placed) : RangeSt := (r.setSeq st (r.seqOf st ++ [p])).step

/-- The address registers as the placement leaves them. -/
def advanced (m : Mach) (n : Nat) (e : Ewx) (o : SOp) (p : Placed) : Mach :=
  let m := if e.incsA o then m.advance n e.axa p.a e.rep else m
  if e.incsB o && !e.axSame o then m.advance n e.axb p.b e.rep else m

theorem place_joins (h : FitsPlace m n e o) :
    m.place n x e o none = advanced (m.setRange n (joined (m.range n) e.station (placedOf m n e o))) n e o (placedOf m n e o) :=
  if_neg (Bool.eq_false_iff.mp (fitsPlace_iff.mp h))

theorem advanced_only (p : Placed) : RegsOnly m (advanced m n e o p) :=
  have hA : RegsOnly m (if e.incsA o then m.advance n e.axa p.a e.rep else m) := .ite (RegsOnly.refl m).advance (.refl m)
  .ite hA.advance hA

theorem incsA_usesAxa (h : e.incsA o = true) : e.usesAxa o = true := (Bool.and_eq_true_iff.mp h).1

theorem incsB_usesB (h : e.incsB o = true) : o.usesB = true := (Bool.and_eq_true_iff.mp h).1

/-- Where both registers advance, each on its own, they are two registers. -/
theorem axa_ne_axb (hA : e.incsA o = true) (hB : e.incsB o = true) (hs : e.axSame o = false) : e.axa ≠ e.axb := by
  intro hab
  have h1 := incsA_usesAxa hA
  have h2 := incsB_usesB hB
  simp_all [Ewx.axSame, Ewx.usesAxa]

theorem coord_ne {a b d c : Nat} (hd : d < 6) (hc : c < 6) (h : a ≠ b) : Reg.RANGE_AX_COORD n (8 * a + d) ≠ Reg.RANGE_AX_COORD n (8 * b + c) := by
  unfold Reg.RANGE_AX_COORD
  omega

theorem rd_advanced_a (p : Placed) {d : Nat} (hd : d < 6) (hA : e.incsA o = true) :
    (advanced m n e o p).rd (Reg.RANGE_AX_COORD n (8 * e.axa + d)) = BitVec.ofInt 32 ((p.a.at e.rep).getD d 0) := by
  unfold advanced
  rw [if_pos hA]
  split
  · next hB =>
    simp only [Bool.and_eq_true, Bool.not_eq_true'] at hB
    rw [rd_advance_other fun c hc => coord_ne hd hc (axa_ne_axb hA hB.1 hB.2), rd_advance hd]
  · exact rd_advance hd

theorem rd_advanced_b (p : Placed) {d : Nat} (hd : d < 6) (hB : e.incsB o = true) (hs : e.axSame o = false) :
    (advanced m n e o p).rd (Reg.RANGE_AX_COORD n (8 * e.axb + d)) = BitVec.ofInt 32 ((p.b.at e.rep).getD d 0) := by
  unfold advanced
  rw [if_pos (by simp [hB, hs])]
  exact rd_advance hd

theorem rd_advanced_other (p : Placed) {a : Nat}
    (ha : ∀ d < 6, a ≠ Reg.RANGE_AX_COORD n (8 * e.axa + d) ∧ a ≠ Reg.RANGE_AX_COORD n (8 * e.axb + d)) : (advanced m n e o p).rd a = m.rd a := by
  unfold advanced
  extract_lets q
  have hA : q.rd a = m.rd a := by
    unfold q
    split
    · exact rd_advance_other fun d hd => (ha d hd).1
    · rfl
  split
  · exact (rd_advance_other fun d hd => (ha d hd).2).trans hA
  · exact hA

end

section

variable {r : RangeSt} {st : Nat} {p : Placed}

theorem seqOf_step (r : RangeSt) (k : Nat) : r.step.seqOf k = r.seqOf k := rfl

theorem seqOf_joined (h : hasSeq st) : (joined r st p).seqOf st = r.seqOf st ++ [p] := (seqOf_step ..).trans (seqOf_setSeq_same h)

theorem seqOf_joined_other {k : Nat} (h : k ≠ st) : (joined r st p).seqOf k = r.seqOf k := (seqOf_step ..).trans (seqOf_setSeq_other h)

theorem joined_pc : (joined r st p).pc = r.pc + 1 := congrArg (· + 1) (setSeq_field (g := RangeSt.pc) (fun _ _ _ _ _ _ _ => rfl) ..)

theorem joined_nextSeq : (joined r st p).nextSeq = r.nextSeq + 1 :=
  congrArg (· + 1) (setSeq_field (g := RangeSt.nextSeq) (fun _ _ _ _ _ _ _ => rfl) ..)

theorem joined_tiles : (joined r st p).tiles = r.tiles := setSeq_field (g := RangeSt.tiles) (fun _ _ _ _ _ _ _ => rfl) ..

end

/-! ### The placing rows -/

/-- The cause that an operation's own rule finds as it is placed (R97, R101, R108, R110, R135). -/
def placementCause (m : Mach) (x : Machine.Stream) (e : Ewx) (o : SOp) : Option Nat :=
  match o with
  | .load | .loadt => if (m.descOf x.ctx e.hA).elim false (fun d => e.cvtBad d) then some 0x91 else none
  | .drain => if (drainFmt (e.m 35 4)).isNone then some 0x91 else none
  | .reduce => if (spurFmt (e.m 8 4)).isNone then some 0x91 else none
  | .mark => if (m.descOf x.ctx e.hD).elim true (fun d => !d.gradient) then some 0x90 else none
  | .gather | .scatter | .scatterAdd => m.screeCause x.ctx e
  | .send | .lreduce | .recv => m.linkCause x.ctx e o
  | _ => none

/-- The rows that place an operation. -/
def placingRows (n : Fin 16) : List (SOp × Instr) :=
  [(.load, .colLoad n), (.loadt, .colLoadt n), (.mma, .crestMma n), (.drain, .crestDrain n .place Ecc.clean),
    (.kernel, .spurKernel n), (.reduce, .spurReduce n), (.perm, .spurPerm n), (.store, .talusStore n), (.mark, .talusMark n .place),
    (.gather, .screeGather n), (.scatter, .screeScatter n), (.scatterAdd, .screeScatterAdd n), (.send, .linkSend n .place Ecc.clean),
    (.lreduce, .linkReduce n), (.recv, .linkRecv n .place)]

theorem placingRow_exec {s : State} {n : Fin 16} {x : Machine.Stream} {e : Ewx} {q : SOp × Instr} (hq : q ∈ placingRows n)
    (h : s.nextIs n q.1 = some (x, e)) : exec q.2 s = .next (s.on (s.place n x e q.1 (placementCause s.toMach x e q.1))) := by
  simp only [placingRows, List.mem_cons, List.not_mem_nil, or_false] at hq
  rcases hq with rfl | rfl | rfl | rfl | rfl | rfl | rfl | rfl | rfl | rfl | rfl | rfl | rfl | rfl | rfl
  all_goals
    refine congrArg (fun m => Host.Outcome.next (s.on m)) ?_
    simp only [loadPlace, mmaPlace, crestDrain, drainPlace, kernelPlace, reducePlace, permPlace, storePlace, talusMark, markPlace, screePlace,
      linkSend, linkRecv, linkPlace, h, placementCause]

theorem idleRow_exec {s : State} {n : Fin 16} {st : Fin 8} {x : Machine.Stream} {e : Ewx} (hst : hasSeq st) (h : s.nextIs n .idle = some (x, e))
    (he : e.station = st.val) : exec (.idle n st .place) s = .next (s.on (s.place n x e .idle none)) := by
  have h06 : ¬ (st.val = 0 ∨ st.val = 6) := by
    unfold hasSeq at hst
    omega
  refine congrArg (fun m => Host.Outcome.next (s.on m)) ?_
  simp only [idle, h, he, ne_eq, not_true_eq_false, if_false, if_neg h06]

/-- Settles O35: what a placement does is said once, of `Mach.place`, and every placing row is one with its own cause. -/
theorem workIsPlaced : Obligations.WorkIsPlaced := by
  intro s n x e hsh r stops fits placed rows free
  have h16 : s.ranges.length = 16 := shaped_ranges hsh
  have hn : n.val < s.ranges.length := by rw [h16]; exact n.isLt
  have hstops : ∀ {o cause}, s.nextIs n o = some (x, e) → cause < 2 ^ 8 → stops (s.on (s.placeFault n x e cause)) cause := fun h hc =>
    placeFault_faultStops n.isLt (nextIs_comes h) h16 hc
  -- A placement without a cause, in the statement's words.
  have hplaced : ∀ {o i}, exec i s = .next (s.on (s.place n x e o none)) → hasSeq e.station → fits o → placed o i := by
    intro o i hi hst hf
    rw [place_joins hf] at hi
    set p := placedOf s.toMach n e o
    have hr : (advanced (s.setRange n (joined r e.station p)) n e o p).range n = joined r e.station p :=
      ((advanced_only p).range n).trans (range_setRange_same hn _)
    have ho := advanced_only (m := s.setRange n (joined r e.station p)) (n := n) (e := e) (o := o) p
    refine ⟨_, p, hi, ?_, rfl, rfl, rfl, rfl, rfl, rfl, rfl, fun st hne => ?_, ?_, ?_, ?_, fun k hk => ?_, fun d hd hA => rd_advanced_a p hd hA,
      fun d hd hB hs _ => rd_advanced_b p hd hB hs, fun a ha => rd_advanced_other p ha, ho.mem, ho.ctxs, ho.swite⟩
    · rw [State.on_toMach, hr]
      exact seqOf_joined hst
    · rw [State.on_toMach, hr]
      exact seqOf_joined_other hne
    · rw [State.on_toMach, hr]
      exact joined_pc
    · rw [State.on_toMach, hr]
      exact joined_nextSeq
    · rw [State.on_toMach, hr]
      exact joined_tiles
    · exact (ho.range k).trans (range_setRange_other s.toMach hk _)
  have hstop : ∀ {o i cause}, s.nextIs n o = some (x, e) → (o, i) ∈ rows → fits o → placementCause s.toMach x e o = some cause → cause < 2 ^ 8 →
      ∃ t, exec i s = .next t ∧ stops t cause := fun h hq hf hc hlt => by
    have hi := placingRow_exec (n := n) hq h
    rw [hc, place_faults hf] at hi
    exact ⟨_, hi, hstops h hlt⟩
  refine ⟨fun q hq h hst hf hfree => ?_, fun q hq h hf => ?_, fun st hst h he hf => ?_, fun h hf hd => ?_, fun h hf hd => ?_, fun d h hf hd hb => ?_,
    fun d h hf hd hg => ?_⟩
  · have hi := placingRow_exec (n := n) hq h
    have hc : placementCause s.toMach x e q.1 = none := by
      have hload : (∀ d, s.descOf x.ctx e.hA = some d → e.cvtBad d = false) → placementCause s.toMach x e .load = none := fun hl => by
        cases hd : s.descOf x.ctx e.hA with
        | none => simp [placementCause, hd]
        | some d => simp [placementCause, hd, hl d hd]
      simp only [rows, List.mem_cons, List.not_mem_nil, or_false] at hq
      rcases hq with rfl | rfl | rfl | rfl | rfl | rfl | rfl | rfl | rfl | rfl | rfl | rfl | rfl | rfl | rfl
      · exact hload hfree
      · exact hload hfree
      · rfl
      · have hf : (drainFmt (e.m 35 4)).isSome = true := hfree
        exact if_neg (by simpa using Option.isSome_iff_ne_none.mp hf)
      · rfl
      · have hf : (spurFmt (e.m 8 4)).isSome = true := hfree
        exact if_neg (by simpa using Option.isSome_iff_ne_none.mp hf)
      · rfl
      · rfl
      · obtain ⟨d, hd, hg⟩ := hfree
        simp [placementCause, hd, hg]
      all_goals exact hfree
    rw [hc] at hi
    exact hplaced hi (hasSeq_iff.mp hst) hf
  · have hi := placingRow_exec (n := n) hq h
    rw [place_overflows hf] at hi
    exact ⟨_, hi, hstops h (by decide)⟩
  · exact hplaced (idleRow_exec (hasSeq_iff.mp hst) h he) (he ▸ hasSeq_iff.mp hst) hf
  · exact hstop h (by simp [rows]) hf (by simp [placementCause, hd]) (by decide)
  · exact hstop h (by simp [rows]) hf (by simp [placementCause, hd]) (by decide)
  · exact hstop h (by simp [rows]) hf (by simp [placementCause, hd, hb]) (by decide)
  · exact hstop h (by simp [rows]) hf (by simp [placementCause, hd, hg]) (by decide)

end Sys2Proof.Laws
end

section
namespace Sys2Proof.Laws

open Sys2Proof.Machine

/-!
# Repeats at the stations

What the operations of a range do to its queues, registers and sequences, each said once; and how a ready repeat's attempt ends in flow mode.
-/

/-! ### Queues (R34, R35) -/

section

variable {r : RangeSt} {q k : QId} {v : TQueue}

theorem queue_setQueue_same : (r.setQueue q v).queue q = v := by
  cases q
  all_goals rfl

theorem queue_setQueue_other (h : k ≠ q) : (r.setQueue q v).queue k = r.queue k := by
  cases q
  all_goals
    cases k
    all_goals simp_all [RangeSt.setQueue, RangeSt.queue]

/-- A part of a range that is neither a queue nor a tile register's result under way. -/
structure BesideTiles {β : Type} (g : RangeSt → β) : Prop where
  queues : ∀ r a b c d e f, g { r with aFeed := a, bFeed := b, drain := c, store := d, screeSpur := e, screeCrest := f } = g r
  writes : ∀ r l, g { r with regWrites := l } = g r

theorem BesideTiles.setQueue {β : Type} {g : RangeSt → β} (hg : BesideTiles g) (r : RangeSt) (q : QId) (v : TQueue) : g (r.setQueue q v) = g r := by
  cases q
  all_goals exact hg.queues r ..

end

section

variable {r : RangeSt} {st seq : Nat} {q : Option QId} {treg : Option Nat} {t : Tile}

theorem BesideTiles.deliver {β : Type} {g : RangeSt → β} (hg : BesideTiles g) : g (r.deliver st seq q treg t) = g r := by
  cases q with
  | none => cases treg with
    | none => rfl
    | some k => exact hg.writes r _
  | some q => cases treg with
    | none => exact hg.setQueue r q _
    | some k => exact (hg.writes (r.reserve q st t) _).trans (hg.setQueue r q _)

/-- A tile on its way to a queue is the last entry there, not yet full. -/
theorem deliver_queue {k : QId} (h : q = some k) :
    ((r.deliver st seq q treg t).queue k).entries = (r.queue k).entries ++ [{ tile := t, full := false, station := st }] := by
  subst h
  have hs : ((r.reserve k st t).queue k).entries = (r.queue k).entries ++ [{ tile := t, full := false, station := st }] := by
    rw [RangeSt.reserve, queue_setQueue_same]
  cases treg with
  | none => exact hs
  | some k' =>
    rw [← hs]
    cases k
    all_goals rfl

theorem deliver_queue_other {k : QId} (h : q ≠ some k) : (r.deliver st seq q treg t).queue k = r.queue k := by
  have hs : (match q with | some q => r.reserve q st t | none => r).queue k = r.queue k := by
    cases q with
    | none => rfl
    | some q' => exact queue_setQueue_other fun e => h (e ▸ rfl)
  cases treg with
  | none => exact hs
  | some k' =>
    rw [← hs]
    cases k
    all_goals rfl

/-- A tile on its way to a register is the last of the range's results under way. -/
theorem deliver_regWrites {k : Nat} (h : treg = some k) :
    (r.deliver st seq q treg t).regWrites = r.regWrites ++ [{ station := st, seq := seq, treg := k, tile := t }] := by
  subst h
  cases q with
  | none => rfl
  | some q =>
    cases q
    all_goals rfl

end

/-! ### Repeats begun and finished -/

section

variable {r : RangeSt} {st seq : Nat} {f : Placed → Placed}

/-- One instruction of a sequence changed. -/
def updSeq (l : List Placed) (seq : Nat) (f : Placed → Placed) : List Placed := l.map (fun p => if p.seq = seq then f p else p)

theorem seqOf_updPlaced (h : hasSeq st) : (r.updPlaced st seq f).seqOf st = updSeq (r.seqOf st) seq f := seqOf_setSeq_same h

/-- A part of a range that is no station's sequence. -/
structure BesideSeqs {β : Type} (g : RangeSt → β) : Prop where
  seqs : ∀ r a b c d e f, g { r with col := a, crest := b, spur := c, talus := d, scree := e, link := f } = g r

theorem BesideSeqs.updPlaced {β : Type} {g : RangeSt → β} (hg : BesideSeqs g) (r : RangeSt) (st seq : Nat) (f : Placed → Placed) :
    g (r.updPlaced st seq f) = g r :=
  setSeq_field hg.seqs r st _

theorem besideSeqs_queue (k : QId) : BesideSeqs (fun r => r.queue k) := ⟨fun _ _ _ _ _ _ _ => by cases k; all_goals rfl⟩

theorem besideSeqs_regWrites : BesideSeqs RangeSt.regWrites := ⟨fun _ _ _ _ _ _ _ => rfl⟩

theorem besideTiles_seqOf (st : Nat) : BesideTiles (fun r => r.seqOf st) := ⟨fun _ _ _ _ _ _ _ => rfl, fun _ _ => rfl⟩

end

/-! ### A ready repeat (R25) -/

structure Ready (m : Mach) (n st : Nat) (x : Machine.Stream) (p : Placed) : Prop where
  stream : m.streamOn n = some x
  flow : x.lockstep = false
  admitted : x.admitted = true
  unfrozen : m.frozen x.ctx = false
  running : (m.range n).halted = false
  head : ((m.range n).seqOf st).head? = some p
  work : p.isWait = false
  left : p.begun < p.ins.rep
  unheld : m.repHeld n p p.begun = false
  unblocked : m.tregBlocked n x.ctx p = false

section

variable {m q : Mach} {n st : Nat} {x : Machine.Stream} {p : Placed}

theorem ready_iff : m.ready n st x p ↔ Ready m n st x p :=
  ⟨fun ⟨h1, h2, h3, h4, h5, h6, h7, h8, h9, h10⟩ => ⟨h1, h2, h3, h4, h5, h6, h7, h8, h9, h10⟩,
    fun h => ⟨h.stream, h.flow, h.admitted, h.unfrozen, h.running, h.head, h.work, h.left, h.unheld, h.unblocked⟩⟩

theorem Ready.frontOf (h : Ready m n st x p) : m.frontOf n st = .ok p := by
  simp only [Mach.frontOf, h.head, h.work, if_neg (Nat.not_le.mpr h.left), Bool.false_eq_true, if_false]

theorem Ready.prevBusy (h : Ready m n st x p) : p.prevBusy x.lockstep = false := by simp [Placed.prevBusy, h.flow]

section

variable {f : Mach → Machine.Stream → Begin} (h : Ready m n st x p)

include h

theorem Ready.flowBegin_ok (hf : f m x = .ok q) : m.flowBegin n f = q := by
  simp [Mach.flowBegin, h.stream, h.flow, h.running, h.admitted, h.unfrozen, hf]

theorem Ready.flowBegin_held {c : Nat} (hf : f m x = .held c) : m.flowBegin n f = m := by
  simp [Mach.flowBegin, h.stream, h.flow, h.running, h.admitted, h.unfrozen, hf]

theorem Ready.flowBegin_stop {a : StopAt} (hf : f m x = .stop q a) : m.flowBegin n f = q.stopStream x.id a.status [a] := by
  simp [Mach.flowBegin, h.stream, h.flow, h.running, h.admitted, h.unfrozen, hf]

end

/-- The sequence of a ready repeat's station starts with its instruction. -/
theorem Ready.seqOf (h : Ready m n st x p) : ∃ l, (m.range n).seqOf st = p :: l := List.head?_eq_some_iff.mp h.head

theorem Ready.hasSeq (h : Ready m n st x p) : hasSeq st := hasSeq_of_head h.head

end

/-! ### What a repeat's operations leave beside a range -/

section

variable {m q : Mach} {n : Nat}

/-- An update of other parts than ranges, memory, contexts and the host's link. -/
theorem Aside.same {r : Mach} (h : Aside n m q) (ranges : r.ranges = q.ranges := by rfl) (mem : r.mem = q.mem := by rfl)
    (ctxs : r.ctxs = q.ctxs := by rfl) (swite : r.swite = q.swite := by rfl) : Aside n m r :=
  h.trans ⟨fun k _ => by rw [Mach.range, ranges, Mach.range], mem, ctxs, swite⟩

theorem progress_cases (m : Mach) (n : Nat) : m.progress n = m ∨ ∃ l, m.progress n = { m with streams := l } := by
  unfold Mach.progress
  split
  · exact .inl rfl
  · exact .inr ⟨_, rfl⟩

theorem Aside.progress (h : Aside n m q) : Aside n m (q.progress n) := by
  rcases progress_cases q n with hp | ⟨l, hp⟩
  · rwa [hp]
  · rw [hp]
    exact h.same

theorem progress_ranges (m : Mach) (n : Nat) : (m.progress n).ranges = m.ranges := by
  rcases progress_cases m n with hp | ⟨l, hp⟩
  · rw [hp]
  · rw [hp]

theorem progress_csr (m : Mach) (n : Nat) : (m.progress n).csr = m.csr := by
  rcases progress_cases m n with hp | ⟨l, hp⟩
  · rw [hp]
  · rw [hp]

theorem Aside.didRep {st seq : Nat} (h : Aside n m q) : Aside n m (q.didRep n st seq) := h.updRange.progress

theorem range_didRep {st seq : Nat} (hn : n < m.ranges.length) : (m.didRep n st seq).range n = (m.range n).did st seq := by
  rw [Mach.didRep, Mach.range, progress_ranges]
  exact range_updRange_same hn _

theorem didRep_csr (m : Mach) (n st seq : Nat) : (m.didRep n st seq).csr = m.csr :=
  (progress_csr _ n).trans (Mach.updRange_csr ..)

theorem RegsOnly.convFlags {fl : Nat} (h : RegsOnly m q) : RegsOnly m (q.convFlags n fl) := .ite h h.wr

theorem RegsOnly.nanMade {b : Bool} (h : RegsOnly m q) : RegsOnly m (q.nanMade n b) := .ite h.wr h

theorem RegsOnly.normNan {b : Bool} (h : RegsOnly m q) : RegsOnly m (q.normNan n b) := .ite h.wr h

theorem RegsOnly.normRep {e : Ewx} {t : Tile} (h : RegsOnly m q) : RegsOnly m (q.normRep n e t) := .ite h.wr.wr.normNan h

/-- A read of tile registers that finds no bad word counts, and goes on. -/
theorem checkTile_clean (m : Mach) (n : Nat) : RegsOnly m (m.checkTile n Ecc.clean).1 ∧ (m.checkTile n Ecc.clean).2 = false :=
  ⟨((RegsOnly.refl m).wr.wr : RegsOnly m ((m.addF _ _ _).addF _ _ _)), rfl⟩

/-- The check that a repeat makes of the registers that it reads, if it reads any. -/
theorem checkTile_if_clean (m : Mach) (n : Nat) (c : Prop) [Decidable c] :
    ∃ q, (if c then (m, false) else m.checkTile n Ecc.clean) = (q, false) ∧ RegsOnly m q := by
  split
  · exact ⟨m, rfl, .refl m⟩
  · exact ⟨_, rfl, (checkTile_clean m n).1⟩

end

/-! ### Parts of a range that an operation keeps -/

section

variable {r : RangeSt} {st seq k : Nat} {q : Option QId} {treg : Option Nat} {t : Tile} {j : QId}

@[simp] theorem seqOf_deliver : (r.deliver st seq q treg t).seqOf k = r.seqOf k := (besideTiles_seqOf k).deliver

@[simp] theorem queue_begin : (r.begin st seq).queue j = r.queue j := (besideSeqs_queue j).updPlaced ..

@[simp] theorem queue_did : (r.did st seq).queue j = r.queue j := (besideSeqs_queue j).updPlaced ..

@[simp] theorem regWrites_begin : (r.begin st seq).regWrites = r.regWrites := besideSeqs_regWrites.updPlaced ..

@[simp] theorem regWrites_did : (r.did st seq).regWrites = r.regWrites := besideSeqs_regWrites.updPlaced ..

/-- The head of a sequence counts one more repeat begun. -/
theorem seqOf_begin_head {p : Placed} {l : List Placed} (hs : hasSeq st) (h : r.seqOf st = p :: l) :
    (r.begin st p.seq).seqOf st = { p with begun := p.begun + 1 } :: updSeq l p.seq (fun p => { p with begun := p.begun + 1 }) := by
  rw [RangeSt.begin, seqOf_updPlaced hs, h]
  simp [updSeq]

theorem seqOf_did_head {p : Placed} {l : List Placed} (hs : hasSeq st) (h : r.seqOf st = p :: l) :
    (r.did st p.seq).seqOf st = { p with done := p.done + 1 } :: updSeq l p.seq (fun p => { p with done := p.done + 1 }) := by
  rw [RangeSt.did, seqOf_updPlaced hs, h]
  simp [updSeq]

end

end Sys2Proof.Laws
end

section
namespace Sys2Proof.Laws

open Sys2Proof.Machine

/-!
# A repeat begins at Col, Crest and Spur

Each station's attempt, where nothing holds or stops it, is an update of its range and of registers.
-/

/-! ### Reads without bad words -/

theorem badWords_clean {m : Mach} {l : List Nat} (h : ∀ w ∈ l, m.poisoned w = false) : m.badWords Ecc.clean l = [] := by
  unfold Mach.badWords
  exact List.filter_eq_nil_iff.mpr fun w hw => by simp [Ecc.clean, h w hw]

theorem checkWords_clean {m : Mach} {l : List Nat} (src range : Nat) (h : ∀ w ∈ l, m.poisoned w = false) :
    m.checkWords src range Ecc.clean l = m := by
  unfold Mach.checkWords
  have hc : l.filter (fun w => Ecc.clean.corrected.contains w && !Ecc.clean.bad.contains w && !m.poisoned w) = [] :=
    List.filter_eq_nil_iff.mpr fun w _ => by simp [Ecc.clean]
  rw [hc]
  simp only [List.foldl_nil]
  rw [badWords_clean h, List.foldl_nil]

/-! ### Col -/

section

variable {m : Mach} {n : Nat} {x : Machine.Stream} {p : Placed} {c : Ctx} {d : Desc}

/-- The sectors of a repeat of a load. -/
abbrev colSectors (d : Desc) (p : Placed) : List Nat := d.loadSectors (p.a.at p.begun) p.transposed

/-- The access of a repeat of a load. -/
abbrev colAccess (d : Desc) (p : Placed) : List Access := [{ handle := p.ins.hA, pdom := d.pdom, write := false, sectors := colSectors d p }]

/-- The module once a repeat of a load has been translated and read. -/
def colChecked (m : Mach) (n : Nat) (d : Desc) (p : Placed) : Mach :=
  (m.updRange n (fun r => r.setTlb 1 (tlbUse (r.tlb 1) ((colAccess d p).flatMap (fun a => a.sectors))))).tallyBy (7 * n + 1) 1 0

theorem Aside.tallyBy {q : Mach} {u i k : Nat} (h : Aside n m q) : Aside n m (q.tallyBy u i k) := h.same

theorem range_tallyBy (m : Mach) (u i k n : Nat) : (m.tallyBy u i k).range n = m.range n := rfl

theorem colChecked_range (hn : n < m.ranges.length) : (colChecked m n d p).range n =
    (m.range n).setTlb 1 (tlbUse ((m.range n).tlb 1) ((colAccess d p).flatMap (fun a => a.sectors))) := by
  rw [colChecked, range_tallyBy, range_updRange_same hn]

/-- Every sector of a repeat is in this module and sound. -/
def SoundLocal (m : Mach) (c : Ctx) (l : List Nat) : Prop := ∀ a ∈ l.filterMap c.phys, isHost a = false ∧ ∀ w ∈ sectorWords a, m.poisoned w = false

theorem colRead_ok {k : Mach → Begin} (hf : x.lockstep = false) (hl : m.xlate n 1 false (colAccess d p) = .ok) (hs : SoundLocal m c (colSectors d p)) :
    m.colRead n x c d p p.begun Ecc.clean k = k (colChecked m n d p) := by
  rw [← hf] at hl
  have hnohost : ((colSectors d p).filterMap c.phys).filter isHost = [] :=
    List.filter_eq_nil_iff.mpr fun a ha => by simp [(hs a ha).1]
  have hsound : ∀ w ∈ (((colSectors d p).filterMap c.phys).filter (fun a => !isHost a)).flatMap sectorWords,
      (m.updRange n (fun r => r.setTlb 1 (tlbUse (r.tlb 1) ((colAccess d p).flatMap (fun a => a.sectors))))).poisoned w = false := fun w hw => by
    obtain ⟨a, ha, hwa⟩ := List.mem_flatMap.mp hw
    exact (hs a (List.mem_of_mem_filter ha)).2 w hwa
  simp only [Mach.colRead, Mach.access, hl]
  rw [badWords_clean hsound, checkWords_clean _ _ hsound, hnohost]
  rfl

/-- A tile reads host bytes that have arrived, memory and the context's pages, and nothing else of the module. -/
theorem colTile_congr {q : Mach} (hm : q.mem = m.mem) (hh : (q.range n).hostData = (m.range n).hostData) (rep : Nat) :
    q.colTile n c d p rep = m.colTile n c d p rep := by
  have hb : q.colByte n c = m.colByte n c := by
    funext va
    simp only [Mach.colByte, hh, Mach.readByte, hm]
  rw [Mach.colTile, hb, Mach.colTile]

/-- The causes that a repeat of a load is asked for, as its attempt asks them. -/
theorem colBegin_ok (h : Ready m n 1 x p) (hn : n < m.ranges.length) (ho : p.ins.sop ≠ some .idle) (hc : m.ctx x.ctx = some c) (hd : c.desc p.ins.hA = some d)
    (hst : (m.range n).staged = []) (hfull : (m.range n).full p.ins.loadQueue (d.loadFmt p.ins) = false)
    (hcause : p.causes n 1 p.begun (m.colCauses n d p p.begun) = none) (hl : m.xlate n 1 false (colAccess d p) = .ok)
    (hs : SoundLocal m c (colSectors d p)) : colBegin n Ecc.clean m x = .ok ((colChecked m n d p).updRange n
      (fun r => (r.deliver 1 p.seq p.ins.loadQueue p.ins.loadTreg (m.colTile n c d p p.begun)).begin 1 p.seq)) := by
  have htile : (colChecked m n d p).colTile n c d p p.begun = m.colTile n c d p p.begun :=
    colTile_congr (m := m) (q := colChecked m n d p) (p := p) rfl (congrArg (·.hostData) (colChecked_range hn)) _
  simp only [colBegin, hc, h.frontOf, hd, h.unheld, ho, or_self, Bool.false_eq_true, if_false, hfull, h.prevBusy, h.unblocked, holdCode,
    List.find?_cons, List.find?_nil, Option.map_none, hst, if_true, Mach.colDirect, hcause, colRead_ok h.flow hl hs, htile]

/-- What a repeat of a load begins with, in flow mode. -/
theorem colRepeat_begins (h : Ready m n 1 x p) (hn : n < m.ranges.length) (ho : p.ins.sop ≠ some .idle) (hc : m.ctx x.ctx = some c)
    (hd : c.desc p.ins.hA = some d) (hst : (m.range n).staged = []) (hfull : (m.range n).full p.ins.loadQueue (d.loadFmt p.ins) = false)
    (hcause : p.causes n 1 p.begun (m.colCauses n d p p.begun) = none) (hl : m.xlate n 1 false (colAccess d p) = .ok)
    (hs : SoundLocal m c (colSectors d p)) : ∃ l, Aside n m (m.flowBegin n (colBegin n Ecc.clean)) ∧
      (m.flowBegin n (colBegin n Ecc.clean)).range n =
        (((m.range n).setTlb 1 l).deliver 1 p.seq p.ins.loadQueue p.ins.loadTreg (m.colTile n c d p p.begun)).begin 1 p.seq := by
  rw [h.flowBegin_ok (colBegin_ok h hn ho hc hd hst hfull hcause hl hs)]
  have hside : Aside n m (colChecked m n d p) := by
    unfold colChecked
    exact (Aside.refl n m).updRange.tallyBy
  have hlen : n < (colChecked m n d p).ranges.length := by simpa [colChecked, Mach.tallyBy, Mach.updRange, Mach.setRange] using hn
  exact ⟨_, hside.updRange, by rw [range_updRange_same hlen, colChecked_range hn]⟩

end

section

variable {r : RangeSt} {st k : Nat} {l : List TlbEntry} {j : QId}

/-- A part of a range that is no translation cache. -/
theorem setTlb_field {β : Type} {g : RangeSt → β} (hg : ∀ r a b c, g { r with tlbCol := a, tlbTalus := b, tlbScree := c } = g r)
    (r : RangeSt) (st : Nat) (l : List TlbEntry) : g (r.setTlb st l) = g r := by
  unfold RangeSt.setTlb
  split
  all_goals exact hg r ..

@[simp] theorem seqOf_setTlb : (r.setTlb st l).seqOf k = r.seqOf k := setTlb_field (g := fun r => r.seqOf k) (fun _ _ _ _ => rfl) ..

@[simp] theorem queue_setTlb : (r.setTlb st l).queue j = r.queue j :=
  setTlb_field (g := fun r => r.queue j) (fun _ _ _ _ => by cases j; all_goals rfl) ..

@[simp] theorem regWrites_setTlb : (r.setTlb st l).regWrites = r.regWrites := setTlb_field (g := RangeSt.regWrites) (fun _ _ _ _ => rfl) ..

end

/-! ### Crest -/

section

variable {r : RangeSt} {e : Ewx} {k : Nat} {b : Bank}

theorem bank_setBank_same : (r.setBank k b).bank k = b := by
  unfold RangeSt.setBank RangeSt.bank
  split
  · rfl
  · rfl

theorem bank_setBank_other : (r.setBank k b).bank (1 - k) = r.bank (1 - k) := by
  unfold RangeSt.setBank RangeSt.bank
  by_cases hk : k = 0
  · simp [hk]
  · simp [hk, show 1 - k = 0 by omega]

theorem setBank_field {β : Type} {g : RangeSt → β} (hg : ∀ r a c, g { r with bank0 := a, bank1 := c } = g r) (r : RangeSt) (k : Nat) (b : Bank) :
    g (r.setBank k b) = g r := by
  unfold RangeSt.setBank
  split
  · exact hg r ..
  · exact hg r ..

theorem BesideTiles.take {β : Type} {g : RangeSt → β} (hg : BesideTiles g) (r : RangeSt) (q : QId) (keep : Bool) : g (r.take q keep) = g r :=
  hg.setQueue r q _

/-- The tile of one operand is taken from its queue, if it comes from one and is not kept from repeat 0 (R100, R158). -/
def takeFor (r : RangeSt) (q : Option QId) (kept keep : Bool) : RangeSt := q.elim r (fun q => if kept then r else r.take q keep)

theorem takeOperands_eq (r : RangeSt) (e : Ewx) (rep : Nat) : r.takeOperands e rep =
    takeFor (takeFor r e.queueA (e.keptA rep) (decide (e.m 14 2 = 2))) e.queueB (e.keptB rep) (decide (e.m 14 2 = 1)) := by
  unfold RangeSt.takeOperands
  cases e.queueA
  all_goals
    cases e.queueB
    all_goals rfl

theorem BesideTiles.takeFor {β : Type} {g : RangeSt → β} (hg : BesideTiles g) (r : RangeSt) (q : Option QId) (kept keep : Bool) :
    g (takeFor r q kept keep) = g r := by
  cases q with
  | none => rfl
  | some q => cases kept with
    | true => rfl
    | false => exact hg.take r q keep

theorem BesideTiles.takeOperands {β : Type} {g : RangeSt → β} (hg : BesideTiles g) (r : RangeSt) (e : Ewx) (rep : Nat) :
    g (r.takeOperands e rep) = g r := by
  rw [takeOperands_eq, hg.takeFor, hg.takeFor]

/-- An operand that is there is not missing from its queue. -/
theorem operand_absent {kept : Bool} {stat : Option Tile} {q : Option QId} {treg : Nat} {a : Tile} (h : r.operand kept stat q treg = some a) :
    (!kept && r.absent q) = false := by
  cases kept with
  | true => rfl
  | false =>
    cases q with
    | none => rfl
    | some q =>
      have hf : r.front q = some a := h
      simp [RangeSt.absent, hf]

end

section

variable {m : Mach} {n : Nat} {x : Machine.Stream} {p : Placed} {a b : Tile}

/-- The range that a repeat of CREST.MMA accumulates in, and whether an accumulator wrapped. -/
abbrev accumulated (m : Mach) (n : Nat) (p : Placed) (a b : Tile) : RangeSt × Bool :=
  (m.range n).accumulateRep p a b (decide (m.rdF (Reg.RANGE_CREST_CTL n) Fld.RANGE_CREST_CTL_GATE_EN = 1))

theorem crestBegin_ok (h : Ready m n 2 x p) (ho : p.ins.sop = some .mma)
    (ha : (m.range n).operand (p.ins.keptA p.begun) (m.range n).statA p.ins.queueA (p.ins.m 25 9) = some a)
    (hb : (m.range n).operand (p.ins.keptB p.begun) (m.range n).statB p.ins.queueB (p.ins.m 16 9) = some b)
    (hd : (m.range n).drainUnit.busy = false ∨ (m.range n).drainUnit.bank ≠ p.ins.m 39 1)
    (hc : p.causes n 2 p.begun (m.mmaCauses n p.ins p.begun a b) = none) :
    ∃ q, crestBegin n Ecc.clean m x = .ok (((q.setRange n ((accumulated m n p a b).1.begin 2 p.seq)).didRep n 2 p.seq).convFlags n
      (if (accumulated m n p a b).2 then flagAccWrap else 0)) ∧ RegsOnly m q := by
  have hdrain : ((m.range n).drainUnit.busy && decide ((m.range n).drainUnit.bank = p.ins.m 39 1)) = false := by
    rcases hd with hd | hd
    · simp [hd]
    · simp [hd]
  obtain ⟨q, hq, hregs⟩ := checkTile_if_clean m n (p.ins.tregReads = [])
  refine ⟨q, ?_, hregs⟩
  simp only [crestBegin, h.frontOf, ho, h.unheld, ne_eq, not_true_eq_false, Bool.false_eq_true, or_self, if_false, operand_absent ha, operand_absent hb,
    h.prevBusy, h.unblocked, hdrain, holdCode, List.find?_cons, List.find?_nil, Bool.or_self, Option.map_none, ha, hb, hc, hq, Bool.false_eq_true, if_false]

theorem crestBegin_absent (h : Ready m n 2 x p) (ho : p.ins.sop = some .mma) (ecc : Ecc)
    (ha : (p.ins.keptA p.begun = false ∧ (m.range n).absent p.ins.queueA = true) ∨
      (p.ins.keptB p.begun = false ∧ (m.range n).absent p.ins.queueB = true)) : crestBegin n ecc m x = .held 1 := by
  have hab : (!p.ins.keptA p.begun && (m.range n).absent p.ins.queueA || !p.ins.keptB p.begun && (m.range n).absent p.ins.queueB) = true := by
    rcases ha with ⟨h1, h2⟩ | ⟨h1, h2⟩
    · simp [h1, h2]
    · simp [h1, h2]
  simp only [crestBegin, h.frontOf, ho, h.unheld, ne_eq, not_true_eq_false, Bool.false_eq_true, or_self, if_false, hab, holdCode, List.find?_cons,
    Option.map_some]

/-- A module whose range n was written after a read of tile registers, and a repeat of it counted done. -/
theorem setRange_didRep {q : Mach} {r : RangeSt} {seq fl : Nat} (hn : n < m.ranges.length) (hq : RegsOnly m q) :
    Aside n m (((q.setRange n r).didRep n 2 seq).convFlags n fl) ∧ (((q.setRange n r).didRep n 2 seq).convFlags n fl).range n = r.did 2 seq := by
  have hlen : n < (q.setRange n r).ranges.length := by simpa [Mach.setRange, hq.ranges] using hn
  refine ⟨((Aside.refl n m).regs hq).setRange.didRep.regs (RegsOnly.refl _).convFlags, ?_⟩
  rw [(RegsOnly.refl _).convFlags.range, range_didRep hlen, range_setRange_same (by rwa [hq.ranges])]

/-- What a repeat of CREST.MMA begins with, in flow mode. -/
theorem mmaRepeat_begins (hn : n < m.ranges.length) (h : Ready m n 2 x p) (ho : p.ins.sop = some .mma)
    (ha : (m.range n).operand (p.ins.keptA p.begun) (m.range n).statA p.ins.queueA (p.ins.m 25 9) = some a)
    (hb : (m.range n).operand (p.ins.keptB p.begun) (m.range n).statB p.ins.queueB (p.ins.m 16 9) = some b)
    (hd : (m.range n).drainUnit.busy = false ∨ (m.range n).drainUnit.bank ≠ p.ins.m 39 1)
    (hc : p.causes n 2 p.begun (m.mmaCauses n p.ins p.begun a b) = none) :
    Aside n m (m.flowBegin n (crestBegin n Ecc.clean)) ∧
      (m.flowBegin n (crestBegin n Ecc.clean)).range n = ((accumulated m n p a b).1.begin 2 p.seq).did 2 p.seq := by
  obtain ⟨q, hq, hregs⟩ := crestBegin_ok h ho ha hb hd hc
  rw [h.flowBegin_ok hq]
  exact setRange_didRep hn hregs

/-- The tile that a drain makes, and its conversion flags. -/
abbrev drained (m : Mach) (n : Nat) (x : Machine.Stream) (p : Placed) (out : Fmt) : Tile × Nat :=
  drainTile ((m.range n).bank (p.ins.m 39 1)) (p.ins.m 32 3) (p.ins.m 28 4) (m.rdF (Reg.RANGE_CREST_CTL n) Fld.RANGE_CREST_CTL_LEAK_SLOPE)
    ((m.range n).treg (p.ins.m 8 9)) out (m.rounding n x.ctx p 0)

/-- The range once a drain has claimed its destination. -/
def claimed (r : RangeSt) (p : Placed) (t : Tile) : RangeSt :=
  { (r.deliver 2 p.seq p.ins.drainQueue p.ins.drainTreg t).begin 2 p.seq with
    drainUnit := { busy := true, bank := p.ins.m 39 1, toQueue := decide (p.ins.m 26 2 = 0) } }

theorem drainBegin_ok {out : Fmt} (h : Ready m n 2 x p) (ho : p.ins.sop = some .drain) (h0 : p.begun = 0) (hfmt : drainFmt (p.ins.m 35 4) = some out)
    (hfull : (m.range n).full p.ins.drainQueue out = false) (hd : (m.range n).drainUnit.busy = false)
    (hc : p.causes n 2 0 (m.drainCauses n p.ins out) = none) :
    ∃ q, drainBegin n Ecc.clean m x = .ok (((q.setRange n (claimed (m.range n) p (drained m n x p out).1)).didRep n 2 p.seq).convFlags n
      (drained m n x p out).2) ∧ RegsOnly m q := by
  have hheld : m.repHeld n p 0 = false := h0 ▸ h.unheld
  have hq : ∃ q, (if p.ins.fused then m.checkTile n Ecc.clean else (m, false)) = (q, false) ∧ RegsOnly m q := by
    split
    · exact ⟨_, rfl, (checkTile_clean m n).1⟩
    · exact ⟨m, rfl, .refl m⟩
  obtain ⟨q, hq, hregs⟩ := hq
  refine ⟨q, ?_, hregs⟩
  simp only [drainBegin, h.frontOf, ho, if_true, hfmt, hheld, hfull, hd, h.unblocked, holdCode, List.find?_cons, List.find?_nil, Option.map_none, hc, hq,
    Bool.false_eq_true, if_false]
  rfl

/-- What a drain's claim leaves, in flow mode. -/
theorem drain_claims {out : Fmt} (hn : n < m.ranges.length) (h : Ready m n 2 x p) (ho : p.ins.sop = some .drain) (h0 : p.begun = 0)
    (hfmt : drainFmt (p.ins.m 35 4) = some out) (hfull : (m.range n).full p.ins.drainQueue out = false) (hd : (m.range n).drainUnit.busy = false)
    (hc : p.causes n 2 0 (m.drainCauses n p.ins out) = none) : Aside n m (m.flowBegin n (drainBegin n Ecc.clean)) ∧
      (m.flowBegin n (drainBegin n Ecc.clean)).range n = (claimed (m.range n) p (drained m n x p out).1).did 2 p.seq := by
  obtain ⟨q, hq, hregs⟩ := drainBegin_ok h ho h0 hfmt hfull hd hc
  rw [h.flowBegin_ok hq]
  exact setRange_didRep hn hregs

end

/-! ### Spur -/

section

variable {m : Mach} {n : Nat} {x : Machine.Stream} {p : Placed}

/-- The norm accumulator that a repeat of Spur reads. -/
abbrev normRead (m : Mach) (n : Nat) (p : Placed) : Nat := if p.begun = 0 then m.normAcc n else (m.range n).norms.headD 0

/-- The result of a repeat of Spur. -/
abbrev spurResult (m : Mach) (n : Nat) (p : Placed) : SpurOut := m.spurOut n p.ins (normRead m n p)

/-- The range once a repeat of Spur has taken its source and put its result on its way. -/
def spurMoved (r : RangeSt) (p : Placed) (t : Tile) (norms : List Nat) (kern : Nat) : RangeSt :=
  { ((takeFor r p.ins.spurQueue false false).deliver 3 p.seq p.ins.spurOutQueue p.ins.spurOutTreg t).begin 3 p.seq with
    norms := norms, kernNorm := kern }

/-- The flags, the norm accumulator and the permutation's mark that a repeat of Spur sets. -/
def spurFlags (m : Mach) (n : Nat) (e : Ewx) (o : SpurOut) : Mach :=
  let m := m.convFlags n o.flags
  let m := if decide (e.sop = some .kernel) then (m.nanMade n o.nanMade).normRep n e o.tile else m
  if o.range then m.wrF (Reg.RANGE_STREAM_STATUS n) Fld.RANGE_STREAM_STATUS_PERM_RANGE 1 else m

theorem RegsOnly.spurFlags {q : Mach} {e : Ewx} {o : SpurOut} (h : RegsOnly m q) : RegsOnly m (spurFlags q n e o) :=
  have hk : RegsOnly m (if decide (e.sop = some .kernel) then ((q.convFlags n o.flags).nanMade n o.nanMade).normRep n e o.tile else q.convFlags n o.flags) :=
    .ite h.convFlags.nanMade.normRep h.convFlags
  .ite hk.wrF hk

/-- The range as a repeat of Spur leaves it. -/
abbrev spurAfter (m : Mach) (n : Nat) (p : Placed) : RangeSt :=
  spurMoved (m.range n) p (spurResult m n p).tile [normRead m n p] (b2n (decide (p.ins.sop = some .kernel) && (m.kentry n p.ins).normEn))

theorem spurBegin_ok (h : Ready m n 3 x p) (ho : p.ins.sop ≠ some .idle) (ha : (m.range n).absent p.ins.spurQueue = false)
    (hf : (m.range n).full p.ins.spurOutQueue (m.spurOutFmt n p.ins) = false)
    (hc : p.causes n 3 p.begun (m.spurCauses n p.ins p.begun) = none) :
    ∃ q, spurBegin n Ecc.clean m x = .ok (spurFlags (q.setRange n (spurAfter m n p)) n p.ins (spurResult m n p)) ∧ RegsOnly m q := by
  obtain ⟨q, hq, hregs⟩ := checkTile_if_clean m n (p.ins.tregReads = [])
  refine ⟨q, ?_, hregs⟩
  simp only [spurBegin, h.frontOf, ho, h.unheld, or_self, Bool.false_eq_true, if_false, ha, hf, h.prevBusy, h.unblocked, holdCode, List.find?_cons,
    List.find?_nil, Option.map_none, hc, hq]
  unfold spurAfter spurMoved
  cases p.ins.spurQueue
  all_goals rfl

/-- What a repeat of Spur begins with, in flow mode. -/
theorem spurRepeat_begins (hn : n < m.ranges.length) (h : Ready m n 3 x p) (ho : p.ins.sop ≠ some .idle)
    (ha : (m.range n).absent p.ins.spurQueue = false) (hf : (m.range n).full p.ins.spurOutQueue (m.spurOutFmt n p.ins) = false)
    (hc : p.causes n 3 p.begun (m.spurCauses n p.ins p.begun) = none) : Aside n m (m.flowBegin n (spurBegin n Ecc.clean)) ∧
      (m.flowBegin n (spurBegin n Ecc.clean)).range n = spurAfter m n p := by
  obtain ⟨q, hq, hregs⟩ := spurBegin_ok h ho ha hf hc
  rw [h.flowBegin_ok hq]
  refine ⟨((Aside.refl n m).regs hregs).setRange.regs (RegsOnly.refl _).spurFlags, ?_⟩
  rw [(RegsOnly.refl _).spurFlags.range, range_setRange_same (by rwa [hregs.ranges])]

theorem spurBegin_absent (h : Ready m n 3 x p) (ho : p.ins.sop ≠ some .idle) (ha : (m.range n).absent p.ins.spurQueue = true) (ecc : Ecc) :
    spurBegin n ecc m x = .held 1 := by
  simp only [spurBegin, h.frontOf, ho, h.unheld, Bool.false_eq_true, or_self, if_false, ha, holdCode, List.find?_cons, Option.map_some]

end

/-! ### The obligation -/

section

variable {r : RangeSt} {st : Nat} {p : Placed} {l : List Placed}

theorem begin_begun (hs : hasSeq st) (h : r.seqOf st = p :: l) :
    ∃ q t, (r.begin st p.seq).seqOf st = q :: t ∧ q.ins = p.ins ∧ q.seq = p.seq ∧ q.begun = p.begun + 1 :=
  ⟨_, _, seqOf_begin_head hs h, rfl, rfl, rfl⟩

/-- A repeat that is done as it begins. -/
theorem begin_did_begun (hs : hasSeq st) (h : r.seqOf st = p :: l) : ∃ q t, ((r.begin st p.seq).did st p.seq).seqOf st = q :: t ∧
    q.ins = p.ins ∧ q.seq = p.seq ∧ q.begun = p.begun + 1 ∧ q.done = p.done + 1 :=
  ⟨_, _, seqOf_did_head (p := { p with begun := p.begun + 1 }) hs (seqOf_begin_head hs h), rfl, rfl, rfl, rfl⟩

theorem begin_did_field {β : Type} {g : RangeSt → β} (hg : BesideSeqs g) {seq : Nat} : g ((r.begin st seq).did st seq) = g r :=
  (hg.updPlaced ..).trans (hg.updPlaced ..)

/-- What an accumulation leaves of a range: the bank that it names, and the operands' queues and registers. -/
theorem accumulateRep_bank {a b : Tile} {gated : Bool} : ((r.accumulateRep p a b gated).1.bank (p.ins.m 39 1)) =
    (mmaRepeat a b (p.ins.m 4 4) (mmaBank p.ins p.begun a b (r.bank (p.ins.m 39 1)))).1 :=
  ((⟨fun _ _ _ _ _ _ _ => rfl, fun _ _ => rfl⟩ : BesideTiles (fun r => r.bank (p.ins.m 39 1))).takeOperands _ _ _).trans bank_setBank_same

theorem accumulateRep_bank_other {a b : Tile} {gated : Bool} :
    (r.accumulateRep p a b gated).1.bank (1 - p.ins.m 39 1) = r.bank (1 - p.ins.m 39 1) :=
  ((⟨fun _ _ _ _ _ _ _ => rfl, fun _ _ => rfl⟩ : BesideTiles (fun r => r.bank (1 - p.ins.m 39 1))).takeOperands _ _ _).trans bank_setBank_other

theorem accumulateRep_tiles {a b : Tile} {gated : Bool} : (r.accumulateRep p a b gated).1.tiles = r.tiles :=
  ((⟨fun _ _ _ _ _ _ _ => rfl, fun _ _ => rfl⟩ : BesideTiles RangeSt.tiles).takeOperands _ _ _).trans
    (setBank_field (g := RangeSt.tiles) (fun _ _ _ => rfl) ..)

theorem accumulateRep_seqOf {a b : Tile} {gated : Bool} (st : Nat) : (r.accumulateRep p a b gated).1.seqOf st = r.seqOf st :=
  ((besideTiles_seqOf st).takeOperands _ _ _).trans (setBank_field (g := fun r => r.seqOf st) (fun _ _ _ => rfl) ..)

end

theorem BesideSeqs.did {β : Type} {g : RangeSt → β} (hg : BesideSeqs g) {seq : Nat} : g (r.did st seq) = g r := hg.updPlaced ..

/-- A drain's claim leaves the rest of a range. -/
theorem claimed_field {β : Type} {g : RangeSt → β} (hg : BesideSeqs g) (ht : BesideTiles g) (hd : ∀ r d, g { r with drainUnit := d } = g r) (t : Tile) :
    g (claimed r p t) = g r :=
  (hd _ _).trans ((hg.updPlaced ..).trans ht.deliver)

theorem claimed_begun {t : Tile} (h : r.seqOf 2 = p :: l) : ∃ q u, ((claimed r p t).did 2 p.seq).seqOf 2 = q :: u ∧
    q.ins = p.ins ∧ q.seq = p.seq ∧ q.begun = p.begun + 1 := by
  have hb : (claimed r p t).seqOf 2 = _ := seqOf_begin_head (r := r.deliver 2 p.seq p.ins.drainQueue p.ins.drainTreg t) (.inr (.inl rfl)) (by simpa using h)
  exact ⟨_, _, seqOf_did_head (p := { p with begun := p.begun + 1 }) (.inr (.inl rfl)) hb, rfl, rfl, rfl⟩

theorem claimed_queue {t : Tile} {k : QId} : (claimed r p t).queue k = (r.deliver 2 p.seq p.ins.drainQueue p.ins.drainTreg t).queue k := by
  have hd : (claimed r p t).queue k = ((r.deliver 2 p.seq p.ins.drainQueue p.ins.drainTreg t).begin 2 p.seq).queue k := by
    cases k
    all_goals rfl
  exact hd.trans queue_begin

theorem claimed_regWrites {t : Tile} : (claimed r p t).regWrites = (r.deliver 2 p.seq p.ins.drainQueue p.ins.drainTreg t).regWrites :=
  regWrites_begin

/-- Where Spur takes a tile from is not where it puts one. -/
theorem spurQueue_ne_out {e : Ewx} {q k : QId} (h : e.spurQueue = some q) (hk : e.spurOutQueue = some k) : q ≠ k := by
  have hk : k = .store := by
    simp only [Ewx.spurOutQueue, Option.ite_none_right_eq_some] at hk
    exact (Option.some.inj hk.2).symm
  subst hk
  unfold Ewx.spurQueue at h
  split at h
  · cases h
    decide
  · cases h
    decide
  · cases h

theorem takeFor_queue {q k : QId} (h : k ≠ q) : (takeFor r (some q) false false).queue k = r.queue k := queue_setQueue_other h

theorem takeFor_entries {q : QId} : ((takeFor r (some q) false false).queue q).entries = (r.queue q).entries.drop 1 :=
  congrArg (·.entries) queue_setQueue_same

theorem spurMoved_queue {t : Tile} {norms : List Nat} {kern : Nat} {k : QId} : (spurMoved r p t norms kern).queue k =
    ((takeFor r p.ins.spurQueue false false).deliver 3 p.seq p.ins.spurOutQueue p.ins.spurOutTreg t).queue k := by
  have hd : (spurMoved r p t norms kern).queue k =
      (((takeFor r p.ins.spurQueue false false).deliver 3 p.seq p.ins.spurOutQueue p.ins.spurOutTreg t).begin 3 p.seq).queue k := by
    cases k
    all_goals rfl
  exact hd.trans queue_begin

theorem spurMoved_out {t : Tile} {norms : List Nat} {kern : Nat} {k : QId} (hk : p.ins.spurOutQueue = some k) :
    ((spurMoved r p t norms kern).queue k).entries = (r.queue k).entries ++ [{ tile := t, full := false, station := 3 }] := by
  rw [spurMoved_queue, deliver_queue hk]
  cases hq : p.ins.spurQueue with
  | none => rfl
  | some q => rw [takeFor_queue (spurQueue_ne_out hq hk).symm]

theorem spurMoved_source {t : Tile} {norms : List Nat} {kern : Nat} {q : QId} (hq : p.ins.spurQueue = some q) :
    ((spurMoved r p t norms kern).queue q).entries = (r.queue q).entries.drop 1 := by
  rw [spurMoved_queue, deliver_queue_other fun hk => spurQueue_ne_out hq hk rfl, hq, takeFor_entries]

theorem spurMoved_regWrites {t : Tile} {norms : List Nat} {kern k : Nat} (hk : p.ins.spurOutTreg = some k) :
    (spurMoved r p t norms kern).regWrites = r.regWrites ++ [{ station := 3, seq := p.seq, treg := k, tile := t }] := by
  have htake : (takeFor r p.ins.spurQueue false false).regWrites = r.regWrites := by
    cases hq : p.ins.spurQueue with
    | none => rfl
    | some q =>
      cases q
      all_goals rfl
  exact regWrites_begin.trans ((deliver_regWrites hk).trans (by rw [htake]))

theorem spurMoved_begun {t : Tile} {norms : List Nat} {kern : Nat} (h : r.seqOf 3 = p :: l) :
    ∃ q u, (spurMoved r p t norms kern).seqOf 3 = q :: u ∧ q.ins = p.ins ∧ q.seq = p.seq ∧ q.begun = p.begun + 1 := by
  have ht : ((takeFor r p.ins.spurQueue false false).deliver 3 p.seq p.ins.spurOutQueue p.ins.spurOutTreg t).seqOf 3 = p :: l := by
    rw [seqOf_deliver, (besideTiles_seqOf 3).takeFor, h]
  exact begin_begun (.inr (.inr (.inl rfl))) ht

/-- Settles O36: each station's attempt is an update of its range and of registers, and what that leaves of the range is read off. -/
theorem repeatsBegin : Obligations.RepeatsBegin := by
  intro s n x p hsh r e kept began sent
  have hn : n.val < s.ranges.length := by rw [shaped_ranges hsh]; exact n.isLt
  have hkept : ∀ {q : Mach}, Aside n.val s.toMach q → kept (s.on q) := fun h => ⟨h.range, h.mem, h.ctxs⟩
  refine ⟨fun c d h ho hc hd _ hst hfull hcause => ?_, fun a b h ho ha hb hd hc => ?_, fun h ho ha ecc => ?_,
    fun out h ho h0 hfmt hfull hd hc => ?_, fun h ho ha hf hc => ?_, fun h ho ha ecc => ?_⟩
  · intro sectors hl hs
    have h := ready_iff.mp h
    obtain ⟨l, hseq⟩ := h.seqOf
    have hne : e.sop ≠ some .idle := fun hi => ho.elim (fun ho => by simp [hi] at ho) (fun ho => by simp [hi] at ho)
    obtain ⟨_, ha, hr⟩ := colRepeat_begins h hn hne hc hd hst hfull hcause hl hs
    refine ⟨s.on _, rfl, ⟨hkept ha, ?_⟩, fun k hk => ?_, fun k hk => ?_⟩
    · rw [State.on_toMach, hr]
      exact begin_begun h.hasSeq (by simpa using hseq)
    · rw [State.on_toMach, hr, queue_begin, deliver_queue hk, queue_setTlb]
    · rw [State.on_toMach, hr, regWrites_begin, deliver_regWrites hk, regWrites_setTlb]
  · have h := ready_iff.mp h
    obtain ⟨l, hseq⟩ := h.seqOf
    obtain ⟨hside, hr⟩ := mmaRepeat_begins hn h ho ha hb hd hc
    obtain ⟨z, t, hz, hins, hzseq, hbegun, hdone⟩ := begin_did_begun (r := (accumulated s.toMach n p a b).1) h.hasSeq ((accumulateRep_seqOf 2).trans hseq)
    refine ⟨s.on _, rfl, ⟨hkept hside, ?_⟩, ?_, ?_, ?_, ?_⟩
    · rw [State.on_toMach, hr]
      exact ⟨z, t, hz, hins, hzseq, hbegun⟩
    · rw [State.on_toMach, hr]
      exact ⟨z, congrArg List.head? hz, hdone⟩
    · rw [State.on_toMach, hr]
      exact (begin_did_field (g := fun r => r.bank (e.m 39 1)) ⟨fun _ _ _ _ _ _ _ => rfl⟩).trans accumulateRep_bank
    · rw [State.on_toMach, hr]
      exact (begin_did_field (g := fun r => r.bank (1 - e.m 39 1)) ⟨fun _ _ _ _ _ _ _ => rfl⟩).trans accumulateRep_bank_other
    · rw [State.on_toMach, hr]
      exact (begin_did_field (g := RangeSt.tiles) ⟨fun _ _ _ _ _ _ _ => rfl⟩).trans accumulateRep_tiles
  · have h := ready_iff.mp h
    exact congrArg (fun m => Host.Outcome.next (s.on m)) (h.flowBegin_held (crestBegin_absent h ho ecc ha))
  · have h := ready_iff.mp h
    obtain ⟨l, hseq⟩ := h.seqOf
    obtain ⟨hside, hr⟩ := drain_claims hn h ho h0 hfmt hfull hd hc
    refine ⟨s.on (s.flowBegin n (drainBegin n Ecc.clean)), rfl, ⟨hkept hside, ?_⟩, ?_, ?_, ?_, fun k hk => ?_, fun k hk => ?_⟩
    · rw [State.on_toMach, hr]
      exact claimed_begun hseq
    · rw [State.on_toMach, hr]
      exact (BesideSeqs.did (g := RangeSt.bank0) ⟨fun _ _ _ _ _ _ _ => rfl⟩).trans
        (claimed_field ⟨fun _ _ _ _ _ _ _ => rfl⟩ ⟨fun _ _ _ _ _ _ _ => rfl, fun _ _ => rfl⟩ (fun _ _ => rfl) _)
    · rw [State.on_toMach, hr]
      exact (BesideSeqs.did (g := RangeSt.bank1) ⟨fun _ _ _ _ _ _ _ => rfl⟩).trans
        (claimed_field ⟨fun _ _ _ _ _ _ _ => rfl⟩ ⟨fun _ _ _ _ _ _ _ => rfl, fun _ _ => rfl⟩ (fun _ _ => rfl) _)
    · rw [State.on_toMach, hr]
      exact BesideSeqs.did (g := RangeSt.drainUnit) ⟨fun _ _ _ _ _ _ _ => rfl⟩
    · rw [State.on_toMach, hr, queue_did, claimed_queue, deliver_queue hk]
    · rw [State.on_toMach, hr, regWrites_did, claimed_regWrites, deliver_regWrites hk]
  · have h := ready_iff.mp h
    obtain ⟨l, hseq⟩ := h.seqOf
    have hne : e.sop ≠ some .idle := fun hi => ho.elim (fun ho => by simp [hi] at ho)
      (fun ho => ho.elim (fun ho => by simp [hi] at ho) (fun ho => by simp [hi] at ho))
    obtain ⟨hside, hr⟩ := spurRepeat_begins hn h hne ha hf hc
    refine ⟨s.on _, rfl, ⟨hkept hside, ?_⟩, ⟨fun k hk => ?_, fun k hk => ?_⟩, fun k hk => ?_⟩
    · rw [State.on_toMach, hr]
      exact spurMoved_begun hseq
    · rw [State.on_toMach, hr, spurMoved_out hk]
    · rw [State.on_toMach, hr, spurMoved_regWrites hk]
    · rw [State.on_toMach, hr, spurMoved_source hk]
  · have h := ready_iff.mp h
    exact congrArg (fun m => Host.Outcome.next (s.on m)) (h.flowBegin_held (spurBegin_absent h ho ha ecc))

end Sys2Proof.Laws
end

section
namespace Sys2Proof.Laws

open Sys2Proof.Machine

/-!
# Tiles arrive, readouts, walks and instructions end

An arrival is an update of the destination's queue or register; a repeat that it ends counts as done; and an instruction whose repeats have all
ended leaves its sequence.
-/

/-! ### Arrivals (R35, R248) -/

section

variable {r : RangeSt} {st seq k : Nat} {q : Option QId} {treg : Option Nat} {t : Option Tile} {j : QId}

/-- A part of a range that no tile register holds. -/
def BesideTregs {β : Type} (g : RangeSt → β) : Prop := ∀ r l, g { r with tiles := l } = g r

theorem BesideTregs.setTreg {β : Type} {g : RangeSt → β} (hg : BesideTregs g) (r : RangeSt) (k : Nat) (t : Tile) : g (r.setTreg k t) = g r := by
  simp only [RangeSt.setTreg]
  split
  · exact hg r _
  · exact hg r _

theorem treg_setTreg_same {t : Tile} (h : t.fmt ≠ .fp64) : (r.setTreg k t).treg k = t := by
  simp [RangeSt.setTreg, RangeSt.treg, h, Sparse.get_put_same]

/-- The result that arrives in a register. -/
def landing (r : RangeSt) (st seq : Nat) : Option RegWrite := r.regWrites.find? (fun w => decide (w.station = st) && decide (w.seq = seq))

/-- An arrival is one in the queue and then one in the register. -/
theorem arrive_split (r : RangeSt) (st seq : Nat) (q : Option QId) (treg : Option Nat) (t : Option Tile) :
    r.arrive st seq q treg t = (r.arrive st seq q none t).arrive st seq none treg t := by
  cases q
  all_goals
    cases treg
    all_goals rfl

theorem arrive_treg_cases (r : RangeSt) (st seq : Nat) (treg : Option Nat) (t : Option Tile) : r.arrive st seq none treg t = r ∨
    ∃ w, r.arrive st seq none treg t = ({ r with regWrites := r.regWrites.erase w }).setTreg w.treg (t.getD w.tile) := by
  cases treg with
  | none => exact .inl rfl
  | some k =>
    cases hw : landing r st seq with
    | none =>
      rw [landing] at hw
      exact .inl (by simp only [RangeSt.arrive, hw])
    | some w =>
      rw [landing] at hw
      exact .inr ⟨w, by simp only [RangeSt.arrive, hw]⟩

theorem BesideTiles.arrive {β : Type} {g : RangeSt → β} (hg : BesideTiles g) (ht : BesideTregs g) : g (r.arrive st seq q treg t) = g r := by
  have hq : g (r.arrive st seq q none t) = g r := by
    cases q with
    | none => rfl
    | some q => exact hg.setQueue r q _
  rw [arrive_split, ← hq]
  rcases arrive_treg_cases (r.arrive st seq q none t) st seq treg t with h | ⟨w, h⟩
  · rw [h]
  · rw [h]
    exact (ht.setTreg ..).trans (hg.writes ..)

@[simp] theorem seqOf_arrive : (r.arrive st seq q treg t).seqOf k = r.seqOf k := (besideTiles_seqOf k).arrive fun _ _ => rfl

theorem queue_arrive_treg : (r.arrive st seq none treg t).queue j = r.queue j := by
  rcases arrive_treg_cases r st seq treg t with h | ⟨w, h⟩
  · rw [h]
  · rw [h]
    exact (BesideTregs.setTreg (g := fun r => r.queue j) (fun _ _ => by cases j; all_goals rfl) ..).trans (by cases j; all_goals rfl)

/-- The oldest tile on its way to a queue is full there. -/
theorem queue_arrive (h : q = some j) : ((r.arrive st seq q treg t).queue j).entries = fillWith st t (r.queue j).entries := by
  subst h
  rw [arrive_split, queue_arrive_treg]
  exact congrArg (·.entries) queue_setQueue_same

/-- What arrives in a register is what it reads, and is not on its way any more. -/
theorem treg_arrive {w : RegWrite} (h : treg = some k) (hw : landing r st seq = some w) (hf : w.tile.fmt ≠ .fp64) :
    (r.arrive st seq q treg none).treg w.treg = w.tile ∧ (r.arrive st seq q treg none).regWrites = r.regWrites.erase w := by
  subst h
  have hq : (r.arrive st seq q none none).regWrites = r.regWrites := by
    cases q with
    | none => rfl
    | some q =>
      cases q
      all_goals rfl
  rw [arrive_split]
  generalize r.arrive st seq q none none = v at hq
  have hv : v.arrive st seq none (some k) none = ({ v with regWrites := v.regWrites.erase w }).setTreg w.treg w.tile := by
    rw [landing, ← hq] at hw
    unfold RangeSt.arrive
    dsimp only
    rw [hw]
    rfl
  rw [hv, ← hq]
  exact ⟨treg_setTreg_same hf, BesideTregs.setTreg (g := RangeSt.regWrites) (fun _ _ => rfl) ..⟩

end

/-- A tile that joins full ones is the one to arrive. -/
theorem fillWith_appended {st : Nat} {l : List QEntry} {t : Tile} (h : ∀ y ∈ l, y.full = true) :
    fillWith st none (l ++ [{ tile := t, full := false, station := st }]) = l ++ [{ tile := t, full := true, station := st }] := by
  induction l with
  | nil => simp [fillWith]
  | cons y l ih =>
    obtain ⟨hy, hl⟩ := List.forall_mem_cons.mp h
    simp [fillWith, hy, ih hl]

/-! ### A repeat is done -/

section

variable {m : Mach} {n st : Nat} {p : Placed}

/-- One more repeat of an instruction is done: what the statement says of a station's sequence. -/
abbrev didSeq (l : List Placed) (seq : Nat) : List Placed := updSeq l seq fun q => { q with done := q.done + 1 }

theorem didRep_kept {r : RangeSt} {q : Mach} (hn : n < m.ranges.length) (hq : Aside n m q) (hr : q.ranges.length = m.ranges.length) (seq : Nat) :
    Aside n m ((q.setRange n r).didRep n st seq) ∧ ((q.setRange n r).didRep n st seq).range n = r.did st seq := by
  refine ⟨hq.setRange.didRep, ?_⟩
  have hlen : n < (q.setRange n r).ranges.length := by simpa [Mach.setRange, hr] using hn
  rw [range_didRep hlen, range_setRange_same (hr ▸ hn)]

/-- A tile of a station's oldest repeat arrives: what the statement says of it. -/
structure Came (m t : Mach) (n st : Nat) (p : Placed) (q : Option QId) (treg : Option Nat) : Prop where
  aside : Aside n m t
  csr : t.csr = m.csr
  seq : (t.range n).seqOf st = didSeq ((m.range n).seqOf st) p.seq
  queue : ∀ k, q = some k → ((t.range n).queue k).entries = fillWith st none ((m.range n).queue k).entries
  regs : ∀ k w, treg = some k → landing (m.range n) st p.seq = some w → w.tile.fmt ≠ .fp64 →
    (t.range n).treg w.treg = w.tile ∧ (t.range n).regWrites = (m.range n).regWrites.erase w

theorem arrival_came {r : RangeSt} {q : Option QId} {treg : Option Nat} (hn : n < m.ranges.length) (hs : hasSeq st)
    (hr : r = { m.range n with hostReps := r.hostReps, hostData := r.hostData }) :
    Came m ((m.setRange n (r.arrive st p.seq q treg none)).didRep n st p.seq) n st p q treg := by
  obtain ⟨hside, ht⟩ := didRep_kept (st := st) (r := r.arrive st p.seq q treg none) hn (.refl n m) rfl p.seq
  have hseq : r.seqOf st = (m.range n).seqOf st := by rw [hr]; rfl
  have hw : landing r st p.seq = landing (m.range n) st p.seq := by rw [hr]; rfl
  refine ⟨hside, didRep_csr .., ?_, fun k hk => ?_, fun k w hk hf h64 => ?_⟩
  · rw [ht, RangeSt.did, seqOf_updPlaced hs, seqOf_arrive, hseq]
  · have hqk : r.queue k = (m.range n).queue k := by
      rw [hr]
      cases k
      all_goals rfl
    rw [ht, queue_did, queue_arrive hk, hqk]
  · obtain ⟨h1, h2⟩ := treg_arrive (q := q) hk (hw.trans hf) h64
    have h3 : r.regWrites = (m.range n).regWrites := by rw [hr]
    rw [ht, regWrites_did, h2, h3]
    exact ⟨((⟨fun _ _ _ _ _ _ _ => rfl⟩ : BesideSeqs (fun r => r.treg w.treg)).did).trans h1, rfl⟩

theorem colFull_came {x : Machine.Stream} (hn : n < m.ranges.length) (hx : m.streamOn n = some x)
    (hp : (m.range n).col.find? (fun q => decide (q.done < q.begun)) = some p) (ht : m.txnsOf (.col n p.seq p.done) = 0)
    (hst : ∀ g ∈ (m.range n).staged, g.seq ≠ p.seq) (hh : (m.range n).hostReps = []) :
    Came m (m.colFull n) n 1 p p.ins.loadQueue p.ins.loadTreg := by
  have hstaged : (m.range n).staged.any (fun g => decide (g.seq = p.seq) && decide (g.rep = p.done)) = false :=
    List.any_eq_false.mpr fun g hg => by simp [hst g hg]
  have hf : m.colFull n = (m.setRange n (RangeSt.arrive { m.range n with hostReps := [], hostData := [] } 1 p.seq p.ins.loadQueue p.ins.loadTreg
      none)).didRep n 1 p.seq := by
    simp [Mach.colFull, hx, hp, ht, hstaged, hh]
  rw [hf]
  exact arrival_came hn (.inl rfl) rfl

theorem spurFull_came (hn : n < m.ranges.length) (hp : (m.range n).spur.find? (fun q => decide (q.done < q.begun)) = some p)
    (ho : p.ins.sop ≠ some .idle) : Came m (m.spurFull n) n 3 p p.ins.spurOutQueue p.ins.spurOutTreg := by
  rw [Mach.spurFull, hp]
  simp only [if_neg ho]
  exact arrival_came hn (.inr (.inr (.inl rfl))) rfl

theorem screeFull_came (hn : n < m.ranges.length) (hp : (m.range n).scree.find? (fun q => decide (q.done < q.begun)) = some p)
    (ho : p.ins.sop = some .gather) : Came m (m.screeFull n) n 5 p p.ins.gatherQueue p.ins.gatherTreg := by
  rw [Mach.screeFull, hp]
  simp only [ho, ne_eq, not_true_eq_false, if_false]
  exact arrival_came hn (.inr (.inr (.inr (.inr (.inl rfl))))) rfl

end

/-! ### Drains and readouts (R161) -/

section

variable {m : Mach} {n : Nat}

theorem drainFull_early (h : (m.range n).drainsOut ≤ b2n (m.range n).drainUnit.busy) : drainFull n m = m := if_pos h

/-- Without a drain to a register on its way, the oldest tile of the drain queue arrives. -/
theorem drainFull_queue (h : b2n (m.range n).drainUnit.busy < (m.range n).drainsOut) (hw : ∀ w ∈ (m.range n).regWrites, w.station ≠ 2) :
    drainFull n m = m.setRange n ((m.range n).arrive 2 0 (some .drain) none none) := by
  have hf : (m.range n).regWrites.find? (fun w => decide (w.station = 2)) = none := List.find?_eq_none.mpr fun w hmem => by simp [hw w hmem]
  simp only [drainFull, if_neg (Nat.not_le.mpr h), hf]

theorem readoutEnd_idle (h : (m.range n).drainUnit.busy = false) : readoutEnd n m = m := by simp [readoutEnd, Mach.when, h]

theorem readoutEnd_busy (h : (m.range n).drainUnit.busy = true) :
    readoutEnd n m = m.updRange n (fun r => { r with drainUnit := { r.drainUnit with busy := false } }) := by
  simp [readoutEnd, Mach.when, h]

end

/-! ### Staged tiles and marks (R232, R238) -/

section

variable {m : Mach} {n : Nat} {x : Machine.Stream} {p : Placed}

/-- A range whose oldest staged tile has gone to its destination and is full there. -/
abbrev moved (r : RangeSt) (p : Placed) (rest : List Staged) (t : Tile) : RangeSt :=
  ((({ r with staged := rest, hostReps := [], hostData := [] }).deliver 1 p.seq p.ins.loadQueue p.ins.loadTreg t).arrive 1 p.seq p.ins.loadQueue
    p.ins.loadTreg none)

theorem stagedMove_moves {g : Staged} {rest : List Staged} (hx : m.streamOn n = some x) (hp : (m.range n).col.head? = some p)
    (hg : (m.range n).staged = g :: rest) (hr : (m.range n).halted = false) (hseq : p.seq = g.seq) (hrep : p.done = g.rep)
    (ht : m.txnsOf (.col n p.seq g.rep) = 0) (hh : m.repHeld n p g.rep = false) (hf : (m.range n).full p.ins.loadQueue g.tile.fmt = false)
    (hb : m.tregBlocked n x.ctx p = false) (hhost : (m.range n).hostReps = []) :
    stagedMove n m = (m.setRange n (moved (m.range n) p rest g.tile)).didRep n 1 p.seq := by
  have hready : (!(m.range n).halted && decide (p.seq = g.seq) && decide (p.done = g.rep) && decide (m.txnsOf (.col n p.seq g.rep) = 0) &&
      !m.repHeld n p g.rep && !(m.range n).full p.ins.loadQueue g.tile.fmt && !m.tregBlocked n x.ctx p) = true := by
    simp [hr, ← hseq, hrep, ht, hh, hf, hb]
  simp only [stagedMove, hx, hp, hg, hready, hhost, Bool.not_true, Bool.false_eq_true, if_false, List.contains_nil, List.filter_nil, if_true]

theorem moved_queue {r : RangeSt} {rest : List Staged} {t : Tile} {q : QId} (hq : p.ins.loadQueue = some q)
    (h : ∀ y ∈ (r.queue q).entries, y.full = true) :
    ((moved r p rest t).queue q).entries = (r.queue q).entries ++ [{ tile := t, full := true, station := 1 }] := by
  have hr : RangeSt.queue { r with staged := rest, hostReps := [], hostData := [] } q = r.queue q := by
    cases q
    all_goals rfl
  rw [moved, queue_arrive hq, deliver_queue hq, hr, fillWith_appended h]

theorem markAccepted_accepts {a : Mark} (h : (m.range n).marks.find? (fun a => !a.accepted) = some a) :
    markAccepted n m = (m.setRange n { m.range n with marks := acceptMark (m.range n).marks }).didRep n 4 a.seq := by
  rw [markAccepted, h]
  rfl

end

/-! ### Page walks (R215, R217, R272) -/

section

variable {m : Mach} {n st : Nat} {x : Machine.Stream} {c : Ctx} {w : Walk}

theorem tlb_setTlb_same {r : RangeSt} {l : List TlbEntry} (h : st = 1 ∨ st = 4 ∨ st = 5) : (r.setTlb st l).tlb st = l := by
  rcases h with rfl | rfl | rfl
  all_goals rfl

theorem RegsOnly.recordFault_tallied (m : Mach) (n st kind handle : Nat) (write : Bool) (pos va : Nat) :
    ∃ q, RegsOnly q (m.recordFault n st kind handle write pos va) ∧ (q = m ∨ q = m.tally (7 * n + st) 0) := by
  unfold Mach.recordFault
  extract_lets w q
  refine ⟨q, (RegsOnly.refl q).wr.wr.wr, ?_⟩
  unfold q
  split
  · exact .inr rfl
  · exact .inl rfl

variable (hx : m.streamOn n = some x) (hw : (m.range n).walks.find? (fun w => decide (w.station = st)) = some w) (hc : m.ctx x.ctx = some c)

include hx hw hc

theorem walkDone_leaf {f : Leaf} (hf : c.leaf w.va = some f) : m.walkDone n st =
    (m.updRange n (fun r => { r with walks := r.walks.erase w })).updRange n (fun r => r.setTlb st (tlbInsert (r.tlb st) x.ctx f false)) := by
  have hc' : (m.updRange n (fun r => { r with walks := r.walks.erase w })).ctx x.ctx = some c := hc
  simp only [Mach.walkDone, hx, hw, hc', Option.bind_some, hf]

/-- The module once a walk has ended without a leaf for the repeat that needs it. -/
abbrev walkFaulted (m : Mach) (n st : Nat) (w : Walk) : Mach :=
  (m.updRange n (fun r => { r with walks := r.walks.erase w })).recordFault n st 1 w.handle w.write 0 w.va

theorem walkDone_faults {p : Placed} (hf : c.leaf w.va = none) (hp : ((m.range n).seqOf st).head? = some p) (hn : n < m.ranges.length)
    (hseq : p.seq = w.seq) (hrep : p.begun = w.rep) :
    m.walkDone n st = (walkFaulted m n st w).stopStream x.id St.translationFault [p.stopAt n st St.translationFault 0 w.rep] := by
  have hc' : (m.updRange n (fun r => { r with walks := r.walks.erase w })).ctx x.ctx = some c := hc
  have hp' : (((m.updRange n (fun r => { r with walks := r.walks.erase w })).range n).seqOf st).head? = some p := by
    rw [range_updRange_same hn]
    exact hp
  simp only [Mach.walkDone, hx, hw, hc', Option.bind_some, hf, hp', hseq, hrep, and_self, if_true]

end

/-- A stop whose one range meets it with a status. -/
theorem StreamStopped.statusAt {m t : Mach} {x : Machine.Stream} {o : StopAt} {n : Nat} (h : StreamStopped m t x [o]) (ha : x.admitted = true)
    (hn : n ∈ maskBits x.mask 16) (ho : o.range = n) : StoppedAt t n (o.status % 2 ^ 8) (o.cause % 2 ^ 8) (o.station % 2 ^ 3) (o.cond % 2 ^ 5) :=
  (h.ranges ha n hn).met o (by simp [ownAt, ho])

/-! ### Instructions complete (R28) -/

section

variable {m : Mach} {n st : Nat} {p : Placed}

/-- What an instruction's end does before it leaves its sequence. -/
def completed (m : Mach) (n : Nat) (p : Placed) : Mach :=
  match p.ins.sop with
  | some .mma => m.mmaDone n
  | some .kernel => m.kernelDone n p.ins
  | some .gather => m.gatherDone n
  | _ => m

theorem instrComplete_early (h : ((m.range n).seqOf st).head? = some p) (hd : p.done < p.ins.rep) : instrComplete n st m = m := by
  simp [instrComplete, h, hd]

theorem instrComplete_leaves (h : ((m.range n).seqOf st).head? = some p) (hw : p.isWait = false) (hd : p.ins.rep ≤ p.done) :
    instrComplete n st m = (completed m n p).retire n st := by
  simp [instrComplete, h, hw, Nat.not_lt.mpr hd, completed] <;> rfl

/-- The part of a range that an instruction's end may touch: operands, queues, and the counts of gating and of the row cache. -/
def BesideEnds {β : Type} (g : RangeSt → β) : Prop :=
  ∀ r a b c d e f h, g { r with statA := a, statB := b, gate := c, aFeed := d, bFeed := e, screeCrest := f, cacheHits := h } = g r

theorem RegsOnly.kernelDone {q : Mach} {e : Ewx} (h : RegsOnly m q) : RegsOnly m (q.kernelDone n e) := .ite h.wrF.wr.wr h.wrF

theorem completed_aside (m : Mach) (n : Nat) (p : Placed) : Aside n m (completed m n p) := by
  unfold completed
  split
  · exact (Aside.refl n m).setRange.wrF
  · exact (Aside.refl n m).regs (RegsOnly.refl m).kernelDone
  · exact (Aside.refl n m).updRange.wrF
  · exact .refl n m

theorem completed_length (m : Mach) (n : Nat) (p : Placed) : (completed m n p).ranges.length = m.ranges.length := by
  unfold completed
  split
  · exact List.length_set
  · exact congrArg List.length (RegsOnly.refl m).kernelDone.ranges
  · exact List.length_set
  · rfl

theorem completed_field {β : Type} {g : RangeSt → β} (hg : BesideEnds g) (hn : n < m.ranges.length) (p : Placed) :
    g ((completed m n p).range n) = g (m.range n) := by
  unfold completed
  split
  · rw [Mach.mmaDone, (RegsOnly.refl _).wrF.range, range_setRange_same hn]
    exact hg (m.range n) ..
  · rw [(RegsOnly.refl m).kernelDone.range]
  · rw [Mach.gatherDone, (RegsOnly.refl _).wrF.range, range_updRange_same hn]
    exact hg (m.range n) ..
  · rfl

theorem completed_operands (hn : n < m.ranges.length) (h : p.ins.sop = some .mma) :
    ((completed m n p).range n).statA = none ∧ ((completed m n p).range n).statB = none := by
  simp only [completed, h]
  rw [Mach.mmaDone, (RegsOnly.refl _).wrF.range, range_setRange_same hn]
  exact ⟨rfl, rfl⟩

end

/-! ### The obligation -/

/-- Settles O38, row by row: an arrival, a readout's or a walk's end, or an instruction that leaves its sequence is an update of its range. -/
theorem repeatsEnd : Obligations.RepeatsEnd := by
  intro s n x p hsh r did kept came
  have h16 : s.ranges.length = 16 := shaped_ranges hsh
  have hn : n.val < s.ranges.length := by rw [h16]; exact n.isLt
  have hcame : ∀ {t : Mach} {st : Fin 8} {q : Option QId} {treg : Option Nat}, Came s.toMach t n st p q treg → came (s.on t) st q treg :=
    fun h => ⟨h.aside.kept, h.csr, h.seq, h.queue, h.regs⟩
  refine ⟨fun hx hp ht hst hh => ⟨s.on _, rfl, hcame (st := 1) (colFull_came hn hx hp ht hst hh)⟩,
    fun hp ho => ⟨s.on _, rfl, hcame (st := 3) (spurFull_came hn hp ho)⟩, fun hp ho => ⟨s.on _, rfl, hcame (st := 5) (screeFull_came hn hp ho)⟩,
    fun h => ?_, fun h hw => ⟨s.on _, rfl, ?_⟩, fun h => ?_, fun h => ⟨s.on _, rfl, ?_⟩,
    fun g rest q hx hp hg hr hseq hrep ht hh hq hf hb hhost hfull => ⟨s.on _, rfl, ?_⟩, fun a ha => ⟨s.on _, rfl, ?_⟩,
    fun st w hst hx hw => ⟨fun c f hc hf => ⟨s.on (s.walkDone n st), rfl, ?_⟩, fun c hc hf hp hseq hrep ha => ⟨s.on (s.walkDone n st), rfl, ?_⟩⟩,
    fun st hp hw hfence => ⟨fun hd => ?_, fun hd => ⟨s.on _, rfl, ?_⟩⟩⟩
  · exact ⟨congrArg (fun m => Host.Outcome.next (s.on m)) (drainFull_early h), congrArg (fun m => Host.Outcome.next (s.on m)) (drainFull_early h)⟩
  · rw [drainFull_queue h hw]
    refine ⟨(Aside.refl n.val s.toMach).setRange.kept, rfl, ?_, ?_⟩
    · rw [State.on_toMach, range_setRange_same hn]
      exact queue_arrive (j := .drain) rfl
    · rw [State.on_toMach, range_setRange_same hn]
      exact seqOf_arrive (k := 2)
  · exact congrArg (fun m => Host.Outcome.next (s.on m)) (readoutEnd_idle h)
  · rw [readoutEnd_busy h]
    exact ⟨(Aside.refl n.val s.toMach).updRange.kept, rfl, range_updRange_same hn _⟩
  · rw [stagedMove_moves hx hp hg hr hseq hrep ht hh (hq ▸ hf) hb hhost]
    obtain ⟨hside, ht⟩ := didRep_kept (st := 1) (r := moved r p rest g.tile) hn (.refl n.val s.toMach) rfl p.seq
    have hseqs : BesideTiles RangeSt.staged := ⟨fun _ _ _ _ _ _ _ => rfl, fun _ _ => rfl⟩
    refine ⟨hside.kept, didRep_csr .., ?_, ?_, ?_⟩
    · rw [State.on_toMach, ht]
      exact ((⟨fun _ _ _ _ _ _ _ => rfl⟩ : BesideSeqs RangeSt.staged).did).trans ((hseqs.arrive fun _ _ => rfl).trans hseqs.deliver)
    · rw [State.on_toMach, ht]
      refine (seqOf_updPlaced (st := 1) (.inl rfl)).trans (congrArg (didSeq · p.seq) ?_)
      rw [seqOf_arrive, seqOf_deliver]
      rfl
    · rw [State.on_toMach, ht, queue_did]
      exact moved_queue hq hfull
  · rw [markAccepted_accepts ha]
    obtain ⟨hside, ht⟩ := didRep_kept (st := 4) (r := { r with marks := acceptMark r.marks }) hn (.refl n.val s.toMach) rfl a.seq
    refine ⟨hside.kept, didRep_csr .., ?_, ?_⟩
    · rw [State.on_toMach, ht]
      exact (⟨fun _ _ _ _ _ _ _ => rfl⟩ : BesideSeqs RangeSt.marks).did
    · rw [State.on_toMach, ht]
      exact seqOf_updPlaced (st := 4) (.inr (.inr (.inr (.inl rfl))))
  · rw [walkDone_leaf hx hw hc hf]
    have hlen : n.val < (s.updRange n (fun r => { r with walks := r.walks.erase w })).ranges.length := by
      simpa [Mach.updRange, Mach.setRange] using hn
    refine ⟨(Aside.refl n.val s.toMach).updRange.updRange.kept, rfl, ?_, ?_⟩
    · rw [State.on_toMach, range_updRange_same hlen, range_updRange_same hn]
      exact setTlb_field (g := RangeSt.walks) (fun _ _ _ _ => rfl) ..
    · rw [State.on_toMach, range_updRange_same hlen, range_updRange_same hn]
      exact tlb_setTlb_same (hst.imp (congrArg Fin.val) (Or.imp (congrArg Fin.val) (congrArg Fin.val)))
  · rw [walkDone_faults hx hw hc hf hp hn hseq hrep]
    obtain ⟨q, hregs, hq⟩ := RegsOnly.recordFault_tallied (s.updRange n (fun r => { r with walks := r.walks.erase w })) n st 1 w.handle w.write 0 w.va
    have hstreams : (walkFaulted s.toMach n st w).streams = s.streams := by
      rw [hregs.streams]
      rcases hq with rfl | rfl
      all_goals rfl
    have hlen : (walkFaulted s.toMach n st w).ranges.length = 16 := by
      rw [hregs.ranges, ← h16]
      rcases hq with rfl | rfl
      all_goals exact List.length_set
    have hmem : (walkFaulted s.toMach n st w).mem = s.mem := by
      rw [hregs.mem]
      rcases hq with rfl | rfl
      all_goals rfl
    have hstop := stopStream_spec (m := walkFaulted s.toMach n st w) (status := St.translationFault)
      (own := [p.stopAt n st St.translationFault 0 w.rep]) (id := x.id) (y := x) (by rw [Mach.stream, hstreams]; exact streamOn_stream hx) hlen
    refine ⟨hstop.stopped ha, hstop.within.mem.trans hmem, fun hb => ?_⟩
    exact (hstop.statusAt ha (mem_maskBits.mpr ⟨n.isLt, hb⟩) rfl).recorded.status
  · exact congrArg (fun m => Host.Outcome.next (s.on m)) (instrComplete_early hp hd)
  · have hlen : n.val < (completed s.toMach n p).ranges.length := by rwa [completed_length]
    have hseq : ∀ k, ((completed s.toMach n p).range n).seqOf k = r.seqOf k := fun k =>
      completed_field (g := fun r => r.seqOf k) (fun _ _ _ _ _ _ _ _ => rfl) hn p
    rw [instrComplete_leaves hp hw hd, retire_eq hlen ((completed_field (g := RangeSt.fence) (fun _ _ _ _ _ _ _ _ => rfl) hn p).trans hfence)]
    have hfield : ∀ {β : Type} {g : RangeSt → β}, BesideEnds g →
        (∀ r a b c d e f, g { r with col := a, crest := b, spur := c, talus := d, scree := e, link := f } = g r) →
        g (((completed s.toMach n p).range n).setSeq st ((((completed s.toMach n p).range n).seqOf st).drop 1)) = g r := fun hg hs =>
      (setSeq_field hs ..).trans (completed_field hg hn p)
    refine ⟨(completed_aside ..).updRange.kept, ?_, fun k hk => ?_, ?_, ?_, ?_, fun hm => ?_⟩
    · rw [State.on_toMach, range_updRange_same hlen, seqOf_setSeq_same (hasSeq_of_head hp), hseq]
    · rw [State.on_toMach, range_updRange_same hlen, seqOf_setSeq_other hk, hseq]
    · rw [State.on_toMach, range_updRange_same hlen]
      exact hfield (g := RangeSt.tiles) (fun _ _ _ _ _ _ _ _ => rfl) fun _ _ _ _ _ _ _ => rfl
    · rw [State.on_toMach, range_updRange_same hlen]
      exact hfield (g := RangeSt.bank0) (fun _ _ _ _ _ _ _ _ => rfl) fun _ _ _ _ _ _ _ => rfl
    · rw [State.on_toMach, range_updRange_same hlen]
      exact hfield (g := RangeSt.bank1) (fun _ _ _ _ _ _ _ _ => rfl) fun _ _ _ _ _ _ _ => rfl
    · rw [State.on_toMach, range_updRange_same hlen]
      obtain ⟨ha, hb⟩ := completed_operands hn hm
      exact ⟨(setSeq_field (g := RangeSt.statA) (fun _ _ _ _ _ _ _ => rfl) ..).trans ha,
        (setSeq_field (g := RangeSt.statB) (fun _ _ _ _ _ _ _ => rfl) ..).trans hb⟩

end Sys2Proof.Laws
end

section
namespace Sys2Proof.Laws

open Sys2Proof.Machine

/-!
# Streams end, make no progress, and take their slots

A stream's end goes over the ranges of its mask as a stop does. A slot that begins on a range whose stations have nothing left visits each of them
and changes nothing.
-/

/-! ### One range at the end of its stream (R44, R78) -/

/-- What a stream leaves of a range at its end: it is idle. -/
structure Idle (m : Mach) (n : Nat) : Prop where
  state : m.rangeState n = 1
  stream : (m.range n).stream = none

/-- What a range keeps when its stream ends. -/
structure SameTiles (r q : RangeSt) : Prop where
  tiles : q.tiles = r.tiles
  bank0 : q.bank0 = r.bank0
  bank1 : q.bank1 = r.bank1

section

variable {K : Nat → Prop} {m q : Mach} {n : Nat}

theorem Idle.of_within (h : Idle m n) (g : Within K m q) (hn : ¬ K n) : Idle q n :=
  ⟨(SameStop.of_within g hn).state.trans h.state, (congrArg (·.stream) (g.range n hn)).trans h.stream⟩

theorem Within.endRange (h : Within K m q) (hn : K n) (h16 : n < 16) : Within K m (q.endRange n) := by
  unfold Mach.endRange
  exact (((((h.recordStop hn).wrIn hn).setRangeState hn).setRange hn).wrFLow (waymark_low h16)).wrFLow (waymark_low h16) |>.releaseIslands hn

/-- A range once its stream has ended. -/
def ended (r : RangeSt) : RangeSt :=
  { r with stream := none, pc := 0, loops := [], ended := false, marks := [],
           tlbCol := r.tlbCol.map (fun e => { e with locked := false }), tlbTalus := r.tlbTalus.map (fun e => { e with locked := false }),
           tlbScree := r.tlbScree.map (fun e => { e with locked := false }) }

theorem recordStop_ranges (m : Mach) (n status cause instr rep station cond slot : Nat) :
    (m.recordStop n status cause instr rep station cond slot).ranges = m.ranges := by
  simp [Mach.recordStop]

/-- A range's end is registers, among them its state, and then its hidden state. -/
theorem endRange_parts (m : Mach) (n : Nat) : ∃ q : Mach, q.ranges = m.ranges ∧ q.rangeState n = 1 ∧ m.endRange n =
    (((q.setRange n (ended (m.range n))).wrF (Reg.WAYMARK_POSITION_HI n) Fld.WAYMARK_POSITION_HI_HALTED 0).wrF (Reg.WAYMARK_POSITION_HI n)
      Fld.WAYMARK_POSITION_HI_ARMED 0).releaseIslands n :=
  ⟨((m.recordStop n St.done 0 0 0 0 0 0).wr (Reg.RANGE_QUEUE_FILL n) 0).setRangeState n 1,
    (Mach.wrF_ranges ..).trans ((Mach.wr_ranges ..).trans (recordStop_ranges ..)), Mach.rdF_wrF_same _ _ _ _ (by decide), rfl⟩

theorem endRange_range (hn : n < m.ranges.length) : (m.endRange n).range n = ended (m.range n) := by
  obtain ⟨q, hq, _, he⟩ := endRange_parts m n
  rw [he, Mach.range, releaseIslands_ranges, Mach.wrF_ranges, Mach.wrF_ranges]
  exact range_setRange_same (by rwa [hq]) _

theorem endRange_idle (hn : n < m.ranges.length) (h16 : n < 16) : Idle (m.endRange n) n := by
  obtain ⟨q, _, hs, he⟩ := endRange_parts m n
  have h : SameStop n q (m.endRange n) := by
    rw [he]
    exact ((SameStop.same (.refl n q)).wrFLow (waymark_low h16)).wrFLow (waymark_low h16) |>.releaseIslands
  exact ⟨h.state.trans hs, congrArg (·.stream) (endRange_range hn)⟩

end

/-! ### The end of a stream -/

section

variable {m : Mach} {n : Nat} {x : Machine.Stream}

/-- The module once each range of a mask has ended. -/
abbrev endedRanges (m : Mach) (mask : Nat) : Mach := m.each (maskBits mask 16) Mach.endRange

/-- What holds while a stream's end goes over its ranges. -/
structure Ending (m q : Mach) (mask : Nat) : Prop where
  within : Within (· ∈ maskBits mask 16) m q
  tiles : ∀ n, SameTiles (m.range n) (q.range n)

theorem Ending.endRange {q : Mach} {mask : Nat} (h : Ending m q mask) (h16 : m.ranges.length = 16) (hn : n ∈ maskBits mask 16) :
    Ending m (q.endRange n) mask := by
  have hlt := (mem_maskBits.mp hn).1
  have hr : (q.endRange n).range n = ended (q.range n) := endRange_range (by rwa [h.within.count, h16])
  obtain ⟨ht, h0, h1⟩ := h.tiles n
  refine ⟨h.within.endRange hn hlt, fun k => ?_⟩
  by_cases hk : k = n
  · subst hk
    rw [hr]
    exact ⟨ht, h0, h1⟩
  · rw [((Within.refl (· = n) q).endRange rfl hlt).range k hk]
    exact h.tiles k

theorem endedRanges_spec (mask : Nat) (h16 : m.ranges.length = 16) :
    Ending m (endedRanges m mask) mask ∧ ∀ k ∈ maskBits mask 16, Idle (endedRanges m mask) k :=
  each_establishes (I := fun q => Ending m q mask) (P := Idle) (fun _ _ hn hq => hq.endRange h16 hn)
    (fun q n hn hq => endRange_idle (by rw [hq.within.count, h16]; exact (mem_maskBits.mp hn).1) (mem_maskBits.mp hn).1)
    (fun q n hn k hk _ hp => hp.of_within ((Within.refl (· = n) q).endRange rfl (mem_maskBits.mp hn).1) hk) m
    ⟨.refl _ m, fun _ => ⟨rfl, rfl, rfl⟩⟩

/-- The module once a stream with nothing left in its queues has ended, but for the reply. -/
abbrev streamGone (m : Mach) (x : Machine.Stream) : Mach :=
  ({ endedRanges m x.mask with streams := (endedRanges m x.mask).streams.filter (fun t => decide (t.id ≠ x.id)) } : Mach).endArms x.mask St.done

variable (hx : m.streamOn n = some x)

include hx

theorem streamEnd_runs (h : ¬ ∀ k ∈ maskBits x.mask 16, (m.range k).finished x.image.code = true) : streamEnd n m = m := by
  have hall : (maskBits x.mask 16).all (fun k => (m.range k).finished x.image.code) = false := by simpa using h
  simp [streamEnd, hx, hall]

variable (ha : x.admitted = true) (hf : ∀ k ∈ maskBits x.mask 16, (m.range k).finished x.image.code = true)

include ha hf

theorem streamEnd_done (hq : ∀ k ∈ maskBits x.mask 16, (m.range k).heldQueue = none) :
    streamEnd n m = ((streamGone m x).tellStarter x St.done 0).showBudget := by
  have hown : (maskBits x.mask 16).filterMap (m.queueStop x) = [] :=
    List.filterMap_eq_nil_iff.mpr fun k hk => by rw [Mach.queueStop, hq k hk]; rfl
  simp only [streamEnd, hx, ha, List.all_eq_true.mpr hf, hown]
  rfl

theorem streamEnd_stops (hq : ∃ k ∈ maskBits x.mask 16, (m.range k).heldQueue.isSome = true) :
    streamEnd n m = m.stopStream x.id St.streamFault ((maskBits x.mask 16).filterMap (m.queueStop x)) := by
  obtain ⟨k, hk, hs⟩ := hq
  obtain ⟨v, hv⟩ := Option.isSome_iff_exists.mp hs
  have hown : (maskBits x.mask 16).filterMap (m.queueStop x) ≠ [] := fun he => by
    have := List.filterMap_eq_nil_iff.mp he k hk
    rw [Mach.queueStop, hv] at this
    cases this
  simp only [streamEnd, hx, ha, List.all_eq_true.mpr hf]
  exact if_pos hown

end

section

variable {m : Mach} {x : Machine.Stream}

theorem streamGone_within (m : Mach) (x : Machine.Stream) : Within noRange (endedRanges m x.mask) (streamGone m x) :=
  (Within.refl noRange _).same.endArms

theorem streamGone_dataUp (h16 : m.ranges.length = 16) : (streamGone m x).dataUp = m.dataUp :=
  (((endedRanges_spec x.mask h16).1.within.mono fun _ hn => (mem_maskBits.mp hn).1).trans ((streamGone_within m x).mono fun _ => False.elim)).dataUp

theorem streamGone_stream (m : Mach) (x : Machine.Stream) : (streamGone m x).stream x.id = none := by
  rw [Mach.stream, endArms_streams]
  simp

/-- The reply that ends a STREAM_START (R43). -/
theorem tellStarter_replies {status first : Nat} {lane : Lane} {tag : Nat} (hs : x.starter = .command lane tag) (h : lane = .mgmt ∨ m.dataUp = true) :
    ∃ r ∈ (m.tellStarter x status first).swite.replies, r.tag = tag ∧ r.ctx = x.ctx ∧ r.opcode = Op.streamStart ∧ r.status = status ∧ r.final = true := by
  unfold Mach.tellStarter
  simp only [hs]
  rw [Mach.finish, send_replies h]
  exact ⟨_, List.mem_append_right _ (List.mem_singleton_self _), rfl, rfl, rfl, rfl, rfl⟩

/-- Where a range of a list met a stop, if it met one. -/
theorem ownAt_filterMap {f : Nat → Option StopAt} (hf : ∀ k o, f k = some o → o.range = k) {n : Nat} : ∀ {l : List Nat}, n ∈ l →
    ownAt (l.filterMap f) n = f n := by
  intro l
  induction l with
  | nil => exact fun h => absurd h List.not_mem_nil
  | cons k t ih =>
    intro hn
    have hskip : ∀ {t : List Nat}, f n = none → ownAt (t.filterMap f) n = none := fun hnone => List.find?_eq_none.mpr fun o ho hr => by
      obtain ⟨j, _, hj⟩ := List.mem_filterMap.mp ho
      have : j = n := (hf j o hj).symm.trans (by simpa using hr)
      rw [← this, hj] at hnone
      cases hnone
    by_cases hk : k = n
    · subst hk
      cases hfk : f k with
      | none => exact hskip hfk
      | some o => rw [ownAt, List.filterMap_cons_some hfk, List.find?_cons_of_pos (by simp [hf k o hfk])]
    · have ht : n ∈ t := (List.mem_cons.mp hn).resolve_left (Ne.symm hk)
      cases hfk : f k with
      | none => rw [List.filterMap_cons_none hfk, ih ht]
      | some o => rw [ownAt, List.filterMap_cons_some hfk, List.find?_cons_of_neg (by simp [hf k o hfk, hk]), ← ih ht]

theorem queueStop_range (k : Nat) (o : StopAt) (h : m.queueStop x k = some o) : o.range = k := by
  obtain ⟨q, _, rfl⟩ := Option.map_eq_some_iff.mp h
  rfl

end

/-! ### Streams that change -/

theorem stream_updStream {m : Mach} {x : Machine.Stream} {f : Machine.Stream → Machine.Stream} (hx : m.stream x.id = some x) (hf : ∀ y, (f y).id = y.id) :
    (m.updStream x.id f).stream x.id = some (f x) := by
  have hid : ((fun y : Machine.Stream => decide (y.id = x.id)) ∘ fun y => if y.id = x.id then f y else y) = fun y => decide (y.id = x.id) := by
    funext y
    simp only [Function.comp]
    split
    · rw [hf]
    · rfl
  have hfind : m.streams.find? (fun y => decide (y.id = x.id)) = some x := hx
  rw [Mach.stream, Mach.updStream, List.find?_map, hid, hfind, Option.map_some, if_pos rfl]

/-! ### Slots (R72, R74, R76) -/

section

variable {r : RangeSt} {st : Nat} {p : Placed}

theorem mem_inFlight (h : p ∈ r.seqOf st) : (st, p) ∈ r.inFlight := by
  rcases hasSeq_of_mem h with rfl | rfl | rfl | rfl | rfl | rfl
  all_goals
    simp only [RangeSt.inFlight, List.mem_append, List.mem_map, Prod.mk.injEq]
    simp only [RangeSt.seqOf] at h
    simp [h]

theorem seqOf_of_inFlight (h : ∀ y ∈ r.inFlight, y.1 ≠ st) : r.seqOf st = [] :=
  List.eq_nil_iff_forall_not_mem.mpr fun _ hp => h _ (mem_inFlight hp) rfl

theorem seqOf_of_only {k : Nat} (h : r.inFlight = [(st, p)]) (hk : k ≠ st) : r.seqOf k = [] :=
  seqOf_of_inFlight fun y hy => by
    rw [h, List.mem_singleton] at hy
    rw [hy]
    exact hk.symm

theorem crest_of_only (h : r.inFlight = [(2, p)]) : r.crest = [p] := by
  have hseq : ∀ k, k ≠ 2 → r.seqOf k = [] := fun k hk => seqOf_of_only h hk
  have hcol : r.col = [] := hseq 1 (by decide)
  have hspur : r.spur = [] := hseq 3 (by decide)
  have htalus : r.talus = [] := hseq 4 (by decide)
  have hscree : r.scree = [] := hseq 5 (by decide)
  have hlink : r.link = [] := hseq 7 (by decide)
  simpa [RangeSt.inFlight, hcol, hspur, htalus, hscree, hlink, List.map_eq_singleton_iff] using h

end

section

variable {m : Mach} {n st : Nat} {x : Machine.Stream} {ecc : Ecc}

theorem upcoming_ended (h : x.image.code.length ≤ (m.range n).pc) : m.upcoming x n st = false := by
  unfold Mach.upcoming
  simp only [aheadFor, List.getElem?_eq_none h]

/-- A station with nothing in its sequence and nothing to be placed has nothing to begin. -/
theorem stationSlot_empty {a : Mach × List StopAt} (hs : (a.1.range n).seqOf st = []) (hp : x.image.code.length ≤ (a.1.range n).pc) :
    stationSlot x n ecc a st = a := by
  have hfront : a.1.frontOf n st = .error 7 := by simp [Mach.frontOf, hs]
  have hdue : a.1.due x n st = false := by simp [Mach.due, hs, upcoming_ended hp]
  simp [stationSlot, hs, Mach.settleHead, slotBegin, hfront, hdue]

theorem stationSlots_empty {a : Mach × List StopAt} {l : List Nat} (hs : ∀ st ∈ l, (a.1.range n).seqOf st = [])
    (hp : x.image.code.length ≤ (a.1.range n).pc) : l.foldl (stationSlot x n ecc) a = a := by
  induction l with
  | nil => rfl
  | cons st t ih =>
    obtain ⟨hst, ht⟩ := List.forall_mem_cons.mp hs
    rw [List.foldl_cons, stationSlot_empty hst hp, ih ht]

theorem rangeSlot_empty {a : Mach × List StopAt} (hs : (a.1.range n).inFlight = []) (hp : x.image.code.length ≤ (a.1.range n).pc) :
    rangeSlot x ecc a n = a := by
  have hseq : ∀ st ∈ [1, 2, 3, 4, 5, 7], (a.1.range n).seqOf st = [] := fun st _ => seqOf_of_inFlight fun y hy => by
    rw [hs] at hy
    cases hy
  simp [rangeSlot, stationSlots_empty (a := (a.1, [])) hseq hp]

theorem rangeSlots_empty {l : List Nat} (h : ∀ k ∈ l, (m.range k).inFlight = [] ∧ x.image.code.length ≤ (m.range k).pc) :
    l.foldl (rangeSlot x ecc) (m, []) = (m, []) := by
  induction l with
  | nil => rfl
  | cons k t ih =>
    obtain ⟨⟨hs, hp⟩, ht⟩ := List.forall_mem_cons.mp h
    rw [List.foldl_cons, rangeSlot_empty (a := (m, [])) hs hp, ih ht]

/-- Where a CREST.MMA without its operand misses its slot. -/
abbrev crestMiss (n : Nat) (p : Placed) : StopAt :=
  { range := n, status := St.slotMiss, cause := 0, instr := p.idx, rep := p.begun, station := 2, cond := 1 }

variable {p : Placed} {q : QId} (hc : (m.range n).crest = [p]) (ho : p.ins.sop = some .mma) (hw : p.isWait = false) (hb : p.begun < p.ins.rep)
  (hd : p.done < p.ins.rep) (ha : m.armed n = none) (hq : p.ins.queueA = some q) (hk : p.ins.keptA p.begun = false)
  (hf : (m.range n).front q = none)

include hc ho hw hb hd ha hq hk hf

theorem stationSlot_misses : stationSlot x n ecc (m, []) 2 = (m, [crestMiss n p]) := by
  have hseq : (m.range n).seqOf 2 = [p] := hc
  have hfront : m.frontOf n 2 = .ok p := by simp [Mach.frontOf, hseq, hw, Nat.not_le.mpr hb]
  have hsettle : m.settleHead 1 x.ctx n 2 = m := by simp [Mach.settleHead, hseq, Mach.waitMet, hw, Nat.not_le.mpr hd]
  have hheld : m.repHeld n p p.begun = false := by simp [Mach.repHeld, Mach.mark, ha]
  have habsent : (!p.ins.keptA p.begun && (m.range n).absent p.ins.queueA || !p.ins.keptB p.begun && (m.range n).absent p.ins.queueB) = true := by
    simp [hk, hq, RangeSt.absent, hf]
  have hbegin : slotBegin n 2 ecc m x = .held 1 := by
    simp [slotBegin, hfront, ho, crestBegin, hheld, habsent, holdCode]
  have hdue : m.due x n 2 = true := by simp [Mach.due, hseq, hw, hb]
  have hmiss : m.missAt n 2 1 = crestMiss n p := by simp [Mach.missAt, hseq, hw, hb]
  simp [stationSlot, hseq, hsettle, hbegin, hdue, hmiss]

theorem rangeSlot_misses (hone : (m.range n).inFlight = [(2, p)]) (hp : x.image.code.length ≤ (m.range n).pc) :
    rangeSlot x ecc (m, []) n = (m, [crestMiss n p]) := by
  have hseq : ∀ k, k ≠ 2 → (m.range n).seqOf k = [] := fun k hk => seqOf_of_only hone hk
  have hrest : [3, 4, 5, 7].foldl (stationSlot x n ecc) (m, [crestMiss n p]) = (m, [crestMiss n p]) :=
    stationSlots_empty (fun st hst => hseq st (by rintro rfl; simp at hst)) hp
  have hslots : [1, 2, 3, 4, 5, 7].foldl (stationSlot x n ecc) (m, []) = (m, [crestMiss n p]) := by
    rw [List.foldl_cons, stationSlot_empty (a := (m, [])) (hseq 1 (by decide)) hp, List.foldl_cons, stationSlot_misses hc ho hw hb hd ha hq hk hf, hrest]
  simp [rangeSlot, hslots]

end

section

variable {m : Mach} {n i : Nat} {x : Machine.Stream} {ecc : Ecc}

/-- The module once a slot is counted. -/
abbrev slotCounted (m : Mach) (x : Machine.Stream) : Mach := m.updStream x.id (fun s => { s with slot := s.slot + 1 })

variable (hx : m.streamOn n = some x) (hi : x.startAt = some i)

include hx hi

theorem slotStart_early (h : x.lockstep = false ∨ m.clk < i + cyclesAt (x.slot * (x.image.cSlot + x.image.cGuard)) x.fL) : slotStart n ecc m = m := by
  rcases h with h | h
  · simp [slotStart, hx, hi, h]
  · simp [slotStart, hx, hi, h]

/-- What a slot leaves: the stream stops where a station stopped it. -/
def slotEnd (q : Mach) (x : Machine.Stream) : List StopAt → Mach
  | [] => q
  | o :: t => q.stopStream x.id o.status (o :: t)

theorem slotStart_due (hl : x.lockstep = true) (ha : x.admitted = true)
    (h : i + cyclesAt (x.slot * (x.image.cSlot + x.image.cGuard)) x.fL ≤ m.clk) {q : Mach} {l : List StopAt}
    (hr : (maskBits x.mask 16).foldl (rangeSlot x ecc) (slotCounted m x, []) = (q, l)) :
    slotStart n ecc m = slotEnd q x l := by
  simp only [slotStart, hx, hi, hl, ha, Nat.not_lt.mpr h, Bool.not_true, Bool.false_eq_true, or_self, if_false, hr]
  cases l
  all_goals rfl

end

/-! ### The obligation -/

section

variable {m : Mach} {n : Nat} {x : Machine.Stream} (hx : m.streamOn n = some x)

include hx

theorem noProgress_stops (hl : x.lockstep = false) (ha : x.admitted = true)
    (ht : ¬ m.clk < x.progress + us (m.rdF Reg.TRAVERSE_PROGRESS_TIMEOUT Fld.TRAVERSE_PROGRESS_TIMEOUT_TIMEOUT_US))
    (hr : ∀ k ∈ maskBits x.mask 16, (m.range k).halted = false) : noProgress n m = m.stopAll x.id St.streamFault 0x01 := by
  have hany : (maskBits x.mask 16).any (fun k => (m.range k).halted) = false := List.any_eq_false.mpr fun k hk => by simp [hr k hk]
  simp [noProgress, hx, hl, ha, ht, hany]

theorem noProgress_waits (h : x.lockstep = true ∨
    m.clk < x.progress + us (m.rdF Reg.TRAVERSE_PROGRESS_TIMEOUT Fld.TRAVERSE_PROGRESS_TIMEOUT_TIMEOUT_US)) : noProgress n m = m := by
  rcases h with h | h
  · simp [noProgress, hx, h]
  · simp [noProgress, hx, h]

/-- When a lockstep stream's start instant comes. -/
abbrev Ripe (m : Mach) (x : Machine.Stream) : Prop := x.lockstep = true ∧ x.startAt = none ∧ x.progress + cyclesAt x.image.cFill x.fL ≤ m.clk ∧
  ∀ k ∈ maskBits x.mask 16, ∀ i ∈ rangeIslands k, (m.island i).kHz = x.fL

theorem startInstant_unripe (h : ¬ Ripe m x) : startInstant n m = m := by
  simp only [startInstant, hx]
  refine if_neg fun ⟨hl, _, hs, ht, hi⟩ => h ⟨hl, hs, ht, fun k hk i hik => ?_⟩
  exact of_decide_eq_true (List.all_eq_true.mp (List.all_eq_true.mp hi k hk) i hik)

theorem startInstant_ripe (ha : x.admitted = true) (h : Ripe m x) :
    startInstant n m = m.updStream x.id (fun s => { s with startAt := some m.clk }) := by
  obtain ⟨hl, hs, ht, hi⟩ := h
  simp only [startInstant, hx]
  exact if_pos ⟨hl, ha, hs, ht, List.all_eq_true.mpr fun k hk => List.all_eq_true.mpr fun i hik => decide_eq_true (hi k hk i hik)⟩

end

/-- Settles O39: a stream's end and each of its stops go over its ranges, and a slot over the stations of each. -/
theorem streamsEndAndSlots : Obligations.StreamsEndAndSlots := by
  intro s n x hsh hx ha finished due
  have h16 : s.ranges.length = 16 := shaped_ranges hsh
  have hid : s.stream x.id = some x := streamOn_stream hx
  refine ⟨fun h => ?_, fun h hq => ⟨s.on _, rfl, ?_⟩, fun h hq => ⟨s.on _, rfl, ?_⟩, ?_, ?_,
    fun i ecc hi => ⟨fun h => ?_, fun hl hd => ⟨fun h => ⟨s.on (slotStart n ecc s.toMach), rfl, ?_⟩,
    fun p q hm hp hone ho hw hb hdone harm hqa hk hf => ⟨s.on (slotStart n ecc s.toMach), rfl, ?_⟩⟩⟩⟩
  · exact congrArg (fun m => Host.Outcome.next (s.on m)) (streamEnd_runs hx h)
  · rw [streamEnd_done hx ha h hq]
    obtain ⟨hend, hidle⟩ := endedRanges_spec x.mask h16
    have hw : Within noRange (endedRanges s.toMach x.mask) ((streamGone s.toMach x).tellStarter x St.done 0).showBudget :=
      (streamGone_within s.toMach x).tellStarter.showBudget
    refine ⟨?_, fun k hk => ?_, hw.mem.trans hend.within.mem, fun lane tag hs hup => ?_⟩
    · rw [State.on_toMach, Mach.stream, showBudget_streams, tellStarter_streams]
      exact streamGone_stream ..
    · obtain ⟨hstate, hstream⟩ := (hidle k hk).of_within hw fun h => h
      obtain ⟨ht, h0, h1⟩ := hend.tiles k
      refine ⟨hstate, hstream, ?_⟩
      rw [State.on_toMach, hw.range k fun h => h]
      exact ⟨ht, h0, h1⟩
    · rw [State.on_toMach, showBudget_swite]
      exact tellStarter_replies hs (by rwa [streamGone_dataUp h16])
  · rw [streamEnd_stops hx ha h hq]
    have hstop := stopStream_spec (status := St.streamFault) (own := (maskBits x.mask 16).filterMap (s.queueStop x)) hid h16
    refine ⟨hstop.stopped ha, hstop.within.mem, fun k hk => ⟨fun hh => ?_, fun hh => ?_⟩⟩
    · obtain ⟨v, hv⟩ := Option.isSome_iff_exists.mp hh
      have hq : s.queueStop x k = some _ := congrArg (Option.map _) hv
      exact hstop.faulted ha hk ((ownAt_filterMap queueStop_range hk).trans hq) rfl (show 2 < 2 ^ 8 by decide)
    · exact hstop.reached ha hk ((ownAt_filterMap queueStop_range hk).trans (by rw [Mach.queueStop, hh]; rfl))
  · intro late
    refine ⟨fun h => congrArg (fun m => Host.Outcome.next (s.on m)) (noProgress_waits hx h), fun hl ht hr => ⟨s.on _, rfl, ?_⟩⟩
    rw [noProgress_stops hx hl ha ht hr]
    have hstop := stopAll_spec (status := St.streamFault) (cause := 0x01) hid h16
    refine ⟨hstop.stopped ha, hstop.within.mem, fun k hk => ?_⟩
    obtain ⟨_, _, hst⟩ := hstop.allAt ha hk
    exact StoppedAt.faulted hst
  · intro ripe
    refine ⟨fun h => congrArg (fun m => Host.Outcome.next (s.on m)) (startInstant_unripe hx h), fun h => ⟨s.on _, rfl, ?_⟩⟩
    rw [startInstant_ripe hx ha h]
    exact ⟨stream_updStream hid fun _ => rfl, rfl, rfl, rfl⟩
  · exact congrArg (fun m => Host.Outcome.next (s.on m)) (slotStart_early hx hi h)
  · rw [slotStart_due hx hi hl ha hd (rangeSlots_empty h)]
    exact ⟨stream_updStream hid fun _ => rfl, rfl, rfl, rfl⟩
  · have hn : n.val ∈ maskBits x.mask 16 := by rw [hm]; exact List.mem_singleton_self _
    have hslot : (maskBits x.mask 16).foldl (rangeSlot x ecc) (slotCounted s.toMach x, []) = (slotCounted s.toMach x, [crestMiss n p]) := by
      rw [hm]
      exact rangeSlot_misses (m := slotCounted s.toMach x) (crest_of_only hone) ho hw hb hdone ((armed_congr rfl).trans harm) hqa hk hf hone hp
    rw [slotStart_due hx hi hl ha hd hslot]
    have hstop := stopStream_spec (m := slotCounted s.toMach x) (id := x.id) (status := St.slotMiss) (own := [crestMiss n p])
      (stream_updStream hid fun _ => rfl) h16
    obtain ⟨_, _, hrec⟩ := hstop.statusAt ha hn rfl
    exact ⟨hstop.stopped ha, hstop.within.mem, hrec.status, hrec.station, hrec.cond⟩

end Sys2Proof.Laws
end

section
namespace Sys2Proof.Laws

open Sys2Proof.Machine

/-!
# What a store leaves in memory (R129, R234)

A store of local, sound sectors is the run of its merged bytes. A byte read afterwards is the one that was written there, if one was, and else what
it was.
-/

/-! ### Runs of bytes -/

/-- The byte that a run of bytes writes at an address, if it writes one. -/
def runByte (r : Nat × List Byte) (pa : Nat) : Option Byte := if r.1 ≤ pa then r.2[pa - r.1]? else none

theorem readByte_writePa_run (m : Mach) (r : Nat × List Byte) (pa : Nat) : (m.writePa r.1 r.2).readByte pa = (runByte r pa).getD (m.readByte pa) := by
  rw [Mach.readByte_writePa, runByte]
  by_cases hl : r.1 ≤ pa
  · by_cases hu : pa < r.1 + r.2.length
    · rw [if_pos ⟨hl, hu⟩, if_pos hl, List.getD_eq_getElem?_getD, List.getElem?_eq_getElem (by omega)]
      rfl
    · rw [if_neg fun h => hu h.2, if_pos hl, List.getElem?_eq_none (by omega)]
      rfl
  · rw [if_neg fun h => hl h.1, if_neg hl]
    rfl

/-- The byte of a run with one more before it. -/
theorem runByte_cons {a pa : Nat} {b : Byte} {l : List Byte} : runByte (a, b :: l) pa = if pa = a then some b else runByte (a + 1, l) pa := by
  unfold runByte
  by_cases h : pa = a
  · subst h
    simp
  · by_cases hl : a ≤ pa
    · obtain ⟨k, rfl⟩ : ∃ k, pa = a + 1 + k := ⟨pa - (a + 1), by omega⟩
      rw [if_pos hl, if_neg h, if_pos (by omega), show a + 1 + k - a = k + 1 by omega, List.getElem?_cons_succ, Nat.add_sub_cancel_left]
    · simp [h, hl, show ¬ a + 1 ≤ pa by omega]

theorem runByte_singleton {a pa : Nat} {b : Byte} : runByte (a, [b]) pa = if pa = a then some b else none := by
  rw [runByte_cons]
  simp [runByte]

/-- Cutting a list of written bytes into runs writes no other bytes. -/
theorem runsOf_sound {pa : Nat} {v : Byte} : ∀ {l : List (Nat × Byte)} {r : Nat × List Byte}, r ∈ runsOf l → runByte r pa = some v → (pa, v) ∈ l := by
  intro l
  induction l with
  | nil => exact fun h => absurd h List.not_mem_nil
  | cons y t ih =>
    obtain ⟨a, b⟩ := y
    intro r hr hv
    have hhead : ∀ {c : Option Byte}, (if pa = a then some b else c) = some v → c = some v ∨ (pa, v) = (a, b) := fun h => by
      split at h
      · next hpa => exact .inr (by rw [hpa, Option.some.inj h])
      · exact .inl h
    cases hrest : runsOf t with
    | nil =>
      rw [runsOf, hrest, List.mem_singleton] at hr
      rw [hr, runByte_singleton] at hv
      rcases hhead hv with h | h
      · cases h
      · exact List.mem_cons.mpr (.inl h)
    | cons z rest =>
      obtain ⟨c, l⟩ := z
      rw [hrest] at ih
      simp only [runsOf, hrest] at hr
      split at hr
      · next hac =>
        rcases List.mem_cons.mp hr with rfl | hr
        · rw [runByte_cons, hac] at hv
          rcases hhead hv with h | h
          · exact List.mem_cons_of_mem _ (ih List.mem_cons_self h)
          · exact List.mem_cons.mpr (.inl h)
        · exact List.mem_cons_of_mem _ (ih (List.mem_cons_of_mem _ hr) hv)
      · rcases List.mem_cons.mp hr with rfl | hr
        · rw [runByte_singleton] at hv
          rcases hhead hv with h | h
          · cases h
          · exact List.mem_cons.mpr (.inl h)
        · exact List.mem_cons_of_mem _ (ih hr hv)

/-- Every written byte is in one of the runs. -/
theorem runsOf_complete {pa : Nat} {v : Byte} : ∀ {l : List (Nat × Byte)}, (pa, v) ∈ l → ∃ r ∈ runsOf l, (runByte r pa).isSome = true := by
  intro l
  induction l with
  | nil => exact fun h => absurd h List.not_mem_nil
  | cons y t ih =>
    obtain ⟨a, b⟩ := y
    intro h
    cases hrest : runsOf t with
    | nil =>
      rw [hrest] at ih
      rcases List.mem_cons.mp h with h | h
      · refine ⟨(a, [b]), by simp [runsOf, hrest], ?_⟩
        rw [runByte_singleton, if_pos (congrArg Prod.fst h)]
        rfl
      · obtain ⟨_, hr, _⟩ := ih h
        exact absurd hr List.not_mem_nil
    | cons z rest =>
      obtain ⟨c, l⟩ := z
      rw [hrest] at ih
      simp only [runsOf, hrest]
      split
      · next hac =>
        rcases List.mem_cons.mp h with h | h
        · refine ⟨_, List.mem_cons_self, ?_⟩
          rw [runByte_cons, if_pos (congrArg Prod.fst h)]
          rfl
        · obtain ⟨r, hr, hs⟩ := ih h
          rcases List.mem_cons.mp hr with rfl | hr
          · refine ⟨_, List.mem_cons_self, ?_⟩
            rw [runByte_cons, hac]
            split
            · rfl
            · exact hs
          · exact ⟨r, List.mem_cons_of_mem _ hr, hs⟩
      · rcases List.mem_cons.mp h with h | h
        · refine ⟨_, List.mem_cons_self, ?_⟩
          rw [runByte_singleton, if_pos (congrArg Prod.fst h)]
          rfl
        · obtain ⟨r, hr, hs⟩ := ih h
          exact ⟨r, List.mem_cons_of_mem _ hr, hs⟩

/-- Runs of which each that writes at an address writes the same byte there. -/
theorem readByte_runs {pa : Nat} {v : Byte} : ∀ {l : List (Nat × List Byte)} {m : Mach}, (∀ r ∈ l, ∀ w, runByte r pa = some w → w = v) →
    (m.readByte pa = v ∨ ∃ r ∈ l, (runByte r pa).isSome = true) → (l.foldl (fun m r => m.writePa r.1 r.2) m).readByte pa = v := by
  intro l
  induction l with
  | nil => exact fun _ h => h.resolve_right fun ⟨_, hr, _⟩ => List.not_mem_nil hr
  | cons r t ih =>
    intro m hv h
    obtain ⟨hr, ht⟩ := List.forall_mem_cons.mp hv
    refine ih ht ?_
    rw [readByte_writePa_run]
    cases hb : runByte r pa with
    | some w => exact .inl (hr w hb)
    | none =>
      refine h.imp id fun ⟨u, hu, hs⟩ => ⟨u, (List.mem_cons.mp hu).resolve_left fun e => ?_, hs⟩
      rw [e, hb] at hs
      cases hs

/-- A byte read after written bytes of which each at its address is the same. -/
theorem readByte_writeRuns {m : Mach} {l : List (Nat × Byte)} {pa : Nat} {v : Byte} (hv : ∀ y ∈ l, y.1 = pa → y.2 = v)
    (h : m.readByte pa = v ∨ ∃ y ∈ l, y.1 = pa) : (m.writeRuns l).readByte pa = v := by
  refine readByte_runs (fun r hr w hw => hv (pa, w) (runsOf_sound hr hw) rfl) (h.imp id fun ⟨y, hy, hpa⟩ => ?_)
  exact runsOf_complete (v := y.2) (by rwa [← hpa])

theorem writeRuns_frame (m : Mach) (l : List (Nat × Byte)) : Mach.besideMemory (m.writeRuns l) m := by
  refine foldl_keeps (fun q : Mach => Mach.besideMemory q m) _ (fun q r hq => ?_) _ _ rfl
  have h := Mach.writePa_frame q r.1 r.2
  unfold Mach.besideMemory at *
  rw [h, hq]

/-! ### A store of local, sound sectors -/

section

variable {m : Mach} {n : Nat} {x : Ctx} {b : ByteMap} {owner : TxnOwner}

/-- The bytes that a store's bits make of memory. -/
def mergedBytes (m : Mach) (x : Ctx) (b : ByteMap) : List (Nat × Byte) :=
  b.filterMap (fun y => (x.phys y.1).map (fun pa => (pa, mergeByte (m.readByte pa) y.2.1 y.2.2)))

theorem poisoned_none {w : Nat} (h : m.mem.poison = []) : m.poisoned w = false := by simp [Mach.poisoned, h]

theorem perform_local (hp : m.mem.poison = []) (hl : ∀ y ∈ b, ∃ pa, x.phys y.1 = some pa ∧ isHost pa = false) :
    m.perform n x b Ecc.clean owner = m.writeRuns (mergedBytes m x b) := by
  have hlocal : b.filter (fun y => (x.phys y.1).elim false (fun pa => !isHost pa)) = b := List.filter_eq_self.mpr fun y hy => by
    obtain ⟨pa, hpa, hh⟩ := hl y hy
    simp [hpa, hh]
  have hhost : b.filter (fun y => (x.phys y.1).elim false isHost) = [] := List.filter_eq_nil_iff.mpr fun y hy => by
    obtain ⟨pa, hpa, hh⟩ := hl y hy
    simp [hpa, hh]
  have hlost : ∀ l : List Nat, l.filterMap (fun w => (x.phys w).bind (fun pa =>
      if !b.whole w && (Ecc.clean.bad.contains pa || m.poisoned pa) then some pa else none)) = [] := fun l =>
    List.filterMap_eq_nil_iff.mpr fun w _ => by
      cases x.phys w with
      | none => rfl
      | some pa => simp [Ecc.clean, poisoned_none hp]
  simp only [Mach.perform, hlocal, hhost, hlost, checkWords_clean _ _ fun w _ => poisoned_none hp]
  rfl

theorem readByte_mergedBytes_other {pa : Nat} (h : ∀ y ∈ b, x.phys y.1 ≠ some pa) : (m.writeRuns (mergedBytes m x b)).readByte pa = m.readByte pa := by
  refine readByte_writeRuns (fun y hy hpa => ?_) (.inl rfl)
  obtain ⟨z, hz, hzy⟩ := List.mem_filterMap.mp hy
  obtain ⟨k, hk, rfl⟩ := Option.map_eq_some_iff.mp hzy
  exact absurd (hk.trans (congrArg some hpa)) (h z hz)

theorem readByte_mergedBytes_one {pa : Nat} {y : Nat × (Nat × Nat)} (hy : y ∈ b) (hpa : x.phys y.1 = some pa)
    (hone : ∀ z ∈ b, x.phys z.1 = some pa → z = y) :
    (m.writeRuns (mergedBytes m x b)).readByte pa = mergeByte (m.readByte pa) y.2.1 y.2.2 := by
  refine readByte_writeRuns (fun w hw hwpa => ?_) (.inr ⟨_, List.mem_filterMap.mpr ⟨y, hy, by rw [hpa]; rfl⟩, rfl⟩)
  obtain ⟨z, hz, hzw⟩ := List.mem_filterMap.mp hw
  obtain ⟨k, hk, rfl⟩ := Option.map_eq_some_iff.mp hzw
  have hkpa : k = pa := hwpa
  subst hkpa
  rw [hone z hz hk]

end

end Sys2Proof.Laws
end

section
namespace Sys2Proof.Laws

open Sys2Proof.Machine

/-!
# Stores, marks and gathers

Each station's attempt, where nothing holds or stops it, is an update of its range, of registers and, for a store, of the bytes that its bits reach.
-/

section

variable {m : Mach} {n st rep : Nat} {p : Placed} {lockstep : Bool} {l : List Access} {k : Mach → Begin}

/-- The module once an access's sectors were found in a station's translation cache (R217). -/
abbrev translated (m : Mach) (n st : Nat) (l : List Nat) : Mach := m.updRange n (fun r => r.setTlb st (tlbUse (r.tlb st) l))

theorem access_ok (h : m.xlate n st lockstep l = .ok) :
    m.access n st lockstep p rep l k = k (translated m n st (l.flatMap (fun a => a.sectors))) := by
  simp only [Mach.access, h]

end

/-! ### Talus: what a repeat asks first -/

section

variable {m : Mach} {n : Nat} {x : Machine.Stream} {p : Placed} {c : Ctx} {ecc : Ecc}

theorem storeBegin_eq (h : Ready m n 4 x p) (ho : p.ins.sop = some .store) : storeBegin n ecc m x = talusBegin n ecc m x := by
  have hp : (m.range n).talus.head? = some p := h.head
  simp only [storeBegin, hp]
  exact if_pos ho

theorem markBegin_eq (h : Ready m n 4 x p) (ho : p.ins.sop = some .mark) : markBegin n m x = talusBegin n Ecc.clean m x := by
  have hp : (m.range n).talus.head? = some p := h.head
  simp only [markBegin, hp]
  exact if_pos ho

/-- The tile that a repeat of a store takes. -/
def storeTile (r : RangeSt) (p : Placed) : Option Tile := p.ins.storeQueue.elim (some (r.treg (p.ins.m 29 9))) r.front

theorem storeTile_eq (r : RangeSt) (p : Placed) :
    storeTile r p = (match p.ins.storeQueue with | some q => r.front q | none => some (r.treg (p.ins.m 29 9))) := by
  unfold storeTile
  cases p.ins.storeQueue
  all_goals rfl

theorem storeTile_present {r : RangeSt} {tile : Tile} (h : storeTile r p = some tile) : r.absent p.ins.storeQueue = false := by
  unfold storeTile at h
  cases hq : p.ins.storeQueue with
  | none => rfl
  | some q =>
    rw [hq] at h
    have h : r.front q = some tile := h
    simp [RangeSt.absent, h]

/-- A repeat's causes stop it, if one holds. -/
theorem causes_elim {k : Begin} (z : Option StopAt) : (match z with | some a => Begin.stop m a | none => k) = z.elim k fun a => .stop m a := by
  cases z
  all_goals rfl

/-- A store with its tile there comes to its causes. -/
theorem talusBegin_store {d : Desc} {tile : Tile} (h : Ready m n 4 x p) (ho : p.ins.sop = some .store) (hc : m.ctx x.ctx = some c)
    (hd : c.desc p.ins.hD = some d) (ht : storeTile (m.range n) p = some tile) : talusBegin n ecc m x =
      ((p.causes n 4 p.begun (m.storeCauses n d p p.begun tile)).elim (m.storeRep n x c d p tile ecc) fun a => .stop m a) := by
  simp only [talusBegin, hc, h.frontOf, h.unheld, Bool.false_eq_true, if_false, ho, hd, storeTile_present ht, h.prevBusy, h.unblocked, holdCode,
    List.find?_cons, List.find?_nil, Option.map_none]
  cases hq : p.ins.storeQueue with
  | none =>
    have ht : some ((m.range n).treg (p.ins.m 29 9)) = some tile := by rwa [storeTile, hq] at ht
    cases ht
    exact causes_elim _
  | some q =>
    have ht : (m.range n).front q = some tile := by rwa [storeTile, hq] at ht
    simp only [ht]
    exact causes_elim _

/-- A coordinate outside the range is the first cause of a store. -/
theorem store_coordOut {d : Desc} {tile : Tile} (h : d.coordOut (p.a.at p.begun) = true) :
    p.causes n 4 p.begun (m.storeCauses n d p p.begun tile) = some (p.stopAt n 4 St.streamFault 0x07 p.begun) := by
  simp [Placed.causes, holdCode, Mach.storeCauses, h]

theorem talusBegin_mark (h : Ready m n 4 x p) (ho : p.ins.sop = some .mark) (hc : m.ctx x.ctx = some c) : talusBegin n ecc m x = m.markRep n p := by
  simp only [talusBegin, hc, h.frontOf, h.unheld, Bool.false_eq_true, if_false, ho, h.prevBusy]

end

/-! ### A mark begins (R108, R238) -/

section

variable {m : Mach} {n : Nat} {x : Machine.Stream} {p : Placed} {c : Ctx}

/-- The range once a mark waits at the link interface. -/
abbrev marked (r : RangeSt) (p : Placed) : RangeSt :=
  RangeSt.begin { r with marks := r.marks ++ [{ seq := p.seq, layer := p.ins.m 24 16, handle := p.ins.hD, accepted := false }] } 4 p.seq

theorem markRep_ok (h : ∀ q ∈ (m.range n).scree, q.seq < p.seq → q.ins.sop ≠ some .scatter ∧ q.ins.sop ≠ some .scatterAdd) :
    m.markRep n p = .ok (m.setRange n (marked (m.range n) p)) := by
  refine if_neg fun hany => ?_
  obtain ⟨q, hq, hs⟩ := List.any_eq_true.mp hany
  obtain ⟨hlt, hs⟩ := (Bool.and_eq_true _ _).mp hs
  obtain ⟨h1, h2⟩ := h q hq (of_decide_eq_true hlt)
  simp [h1, h2] at hs

end

/-! ### A store begins (R234, R235) -/

section

variable {m : Mach} {n : Nat} {x : Machine.Stream} {p : Placed} {c : Ctx} {d : Desc} {tile : Tile}

/-- What a repeat of a store writes. -/
abbrev storeOut (m : Mach) (n : Nat) (x : Machine.Stream) (p : Placed) (d : Desc) (tile : Tile) : StoreOut :=
  d.store tile (p.a.at p.begun) (m.rounding n x.ctx p p.begun)

/-- The access of a repeat of a store. -/
abbrev storeAccess (d : Desc) (p : Placed) (l : List Nat) : List Access := [{ handle := p.ins.hD, pdom := d.pdom, write := true, sectors := l }]

/-- The range once a store has taken its tile and begun. -/
abbrev storing (r : RangeSt) (p : Placed) : RangeSt := (takeFor r p.ins.storeQueue false false).begin 4 p.seq

/-- A store's repeat counts as done at once where nothing of it goes to host memory. -/
abbrev storeEnded (m : Mach) (n : Nat) (p : Placed) : Mach :=
  let q := m.updRange n (fun r => storing r p)
  if q.txnsOf (.talus n p.seq p.begun) = 0 then q.didRep n 4 p.seq else q

theorem storeRep_ok (hf : x.lockstep = false) (hh : m.storeHeld n 5 c p (storeSectors (storeOut m n x p d tile).writes) = false)
    (hl : m.xlate n 4 false (storeAccess d p (storeSectors (storeOut m n x p d tile).writes)) = .ok)
    (hphys : ∀ y ∈ byteMap (storeOut m n x p d tile).writes, ∃ pa, c.phys y.1 = some pa ∧ isHost pa = false) (hp : m.mem.poison = []) :
    ∃ q l, RegsOnly (translated m n 4 l) q ∧ m.storeRep n x c d p tile Ecc.clean =
      .ok (storeEnded (q.writeRuns (mergedBytes q c (byteMap (storeOut m n x p d tile).writes))) n p) := by
  obtain ⟨q, hq, hregs⟩ := checkTile_if_clean (translated m n 4 ((storeAccess d p (storeSectors (storeOut m n x p d tile).writes)).flatMap
    (fun a => a.sectors))) n (p.ins.tregReads = [])
  have hregs' := hregs.convFlags (n := n) (fl := (storeOut m n x p d tile).flags)
  refine ⟨q.convFlags n (storeOut m n x p d tile).flags, _, hregs', ?_⟩
  have hpoison : (q.convFlags n (storeOut m n x p d tile).flags).mem.poison = [] := by rw [hregs'.mem]; exact hp
  simp only [Mach.storeRep, hf, hh, Bool.and_false, Bool.false_eq_true, if_false]
  rw [access_ok hl, hq]
  simp only [Bool.false_eq_true, if_false]
  rw [perform_local hpoison hphys]
  unfold storeEnded storing
  cases p.ins.storeQueue
  all_goals rfl

/-- What a write of memory and registers leaves of the rest. -/
theorem besideMemory_ranges {q : Mach} (h : Mach.besideMemory q m) : q.ranges = m.ranges ∧ q.ctxs = m.ctxs := by
  unfold Mach.besideMemory at h
  rw [h]
  exact ⟨rfl, rfl⟩

theorem storing_begun {r : RangeSt} {l : List Placed} (h : r.seqOf 4 = p :: l) :
    (storing r p).seqOf 4 = { p with begun := p.begun + 1 } :: updSeq l p.seq (fun p => { p with begun := p.begun + 1 }) :=
  seqOf_begin_head (.inr (.inr (.inr (.inl rfl)))) (((besideTiles_seqOf 4).takeFor ..).trans h)

/-- A begun store: its range's sequence, the other ranges, memory and the contexts. -/
theorem storeEnded_spec {l : List Placed} (hn : n < m.ranges.length) (h : (m.range n).seqOf 4 = p :: l) :
    Aside n m (storeEnded m n p) ∧ ∃ q t, ((storeEnded m n p).range n).seqOf 4 = q :: t ∧ q.seq = p.seq ∧ q.begun = p.begun + 1 := by
  have hlen : n < (m.updRange n (fun r => storing r p)).ranges.length := by simpa [Mach.updRange, Mach.setRange] using hn
  have hr : ((m.updRange n (fun r => storing r p)).range n).seqOf 4 = _ :=
    (congrArg (·.seqOf 4) (range_updRange_same hn (fun r => storing r p))).trans (storing_begun h)
  unfold storeEnded
  dsimp only
  split
  · refine ⟨(Aside.refl n m).updRange.didRep, ?_⟩
    rw [range_didRep hlen]
    exact ⟨_, _, seqOf_did_head (p := { p with begun := p.begun + 1 }) (.inr (.inr (.inr (.inl rfl)))) hr, rfl, rfl⟩
  · exact ⟨(Aside.refl n m).updRange, _, _, hr, rfl, rfl⟩

/-- What a store leaves: its repeat begun, and of memory the bytes that its bits reach. -/
structure Stored (m t : Mach) (n : Nat) (p : Placed) (c : Ctx) (b : ByteMap) : Prop where
  begun : ∃ q l, (t.range n).seqOf 4 = q :: l ∧ q.seq = p.seq ∧ q.begun = p.begun + 1
  range : ∀ k, k ≠ n → t.range k = m.range k
  ctxs : t.ctxs = m.ctxs
  other : ∀ pa, (∀ y ∈ b, c.phys y.1 ≠ some pa) → t.readByte pa = m.readByte pa
  one : ∀ y ∈ b, ∀ pa, c.phys y.1 = some pa → (∀ z ∈ b, c.phys z.1 = some pa → z = y) → t.readByte pa = mergeByte (m.readByte pa) y.2.1 y.2.2

theorem readByte_congr {q : Mach} (h : q.mem = m.mem) (pa : Nat) : q.readByte pa = m.readByte pa := by rw [Mach.readByte, h, Mach.readByte]

/-- The bytes of a store, written by a module that differs in registers and its range's translation cache. -/
theorem storeEnded_stored {q : Mach} {b : ByteMap} {tl : List Nat} {l : List Placed} (hn : n < m.ranges.length) (hseq : (m.range n).seqOf 4 = p :: l)
    (hregs : RegsOnly (translated m n 4 tl) q) : Stored m (storeEnded (q.writeRuns (mergedBytes q c b)) n p) n p c b := by
  obtain ⟨hranges, hctxs⟩ := besideMemory_ranges (writeRuns_frame q (mergedBytes q c b))
  have hmem : q.mem = m.mem := hregs.mem
  have hother : ∀ pa, (∀ y ∈ b, c.phys y.1 ≠ some pa) → (q.writeRuns (mergedBytes q c b)).readByte pa = m.readByte pa := fun pa h =>
    (readByte_mergedBytes_other h).trans (readByte_congr hmem pa)
  have hone : ∀ y ∈ b, ∀ pa, c.phys y.1 = some pa → (∀ z ∈ b, c.phys z.1 = some pa → z = y) →
      (q.writeRuns (mergedBytes q c b)).readByte pa = mergeByte (m.readByte pa) y.2.1 y.2.2 := fun y hy pa hpa h =>
    (readByte_mergedBytes_one hy hpa h).trans (by rw [readByte_congr hmem])
  generalize q.writeRuns (mergedBytes q c b) = w at hranges hctxs hother hone
  have hrange : ∀ k, w.range k = (translated m n 4 tl).range k := fun k => by rw [Mach.range, hranges, ← Mach.range, hregs.range]
  have hwlen : n < w.ranges.length := by
    rw [hranges, hregs.ranges]
    simpa [Mach.updRange, Mach.setRange] using hn
  have hwseq : (w.range n).seqOf 4 = p :: l := by
    rw [hrange, range_updRange_same hn, seqOf_setTlb]
    exact hseq
  obtain ⟨hside, hbegun⟩ := storeEnded_spec hwlen hwseq
  generalize storeEnded w n p = t at hside hbegun
  exact ⟨hbegun, fun k hk => (hside.range k hk).trans ((hrange k).trans (range_setRange_other m hk _)), hside.ctxs.trans (hctxs.trans hregs.ctxs),
    fun pa h => (readByte_congr hside.mem pa).trans (hother pa h), fun y hy pa hpa h => (readByte_congr hside.mem pa).trans (hone y hy pa hpa h)⟩

/-- What a store begins with, in flow mode. -/
theorem store_begins (hn : n < m.ranges.length) (h : Ready m n 4 x p) (ho : p.ins.sop = some .store) (hc : m.ctx x.ctx = some c)
    (hd : c.desc p.ins.hD = some d) (ht : storeTile (m.range n) p = some tile)
    (hcause : p.causes n 4 p.begun (m.storeCauses n d p p.begun tile) = none)
    (hh : m.storeHeld n 5 c p (storeSectors (storeOut m n x p d tile).writes) = false)
    (hl : m.xlate n 4 false (storeAccess d p (storeSectors (storeOut m n x p d tile).writes)) = .ok)
    (hphys : ∀ y ∈ byteMap (storeOut m n x p d tile).writes, ∃ pa, c.phys y.1 = some pa ∧ isHost pa = false) (hp : m.mem.poison = []) :
    Stored m (m.flowBegin n (storeBegin n Ecc.clean)) n p c (byteMap (storeOut m n x p d tile).writes) := by
  obtain ⟨l, hseq⟩ := h.seqOf
  obtain ⟨q, tl, hregs, hok⟩ := storeRep_ok h.flow hh hl hphys hp
  have hbegin := (storeBegin_eq (ecc := Ecc.clean) h ho).trans (talusBegin_store h ho hc hd ht)
  rw [hcause] at hbegin
  rw [h.flowBegin_ok (hbegin.trans hok)]
  exact storeEnded_stored hn hseq hregs

end

/-! ### A gather begins (R239 to R242, R247) -/

section

variable {m : Mach} {n : Nat} {x : Machine.Stream} {p : Placed} {c : Ctx} {d i : Desc} {rows : List (Nat × Nat)}

/-- The access of a repeat of Scree to one of its tensors. -/
abbrev screeAccess (handle : Nat) (d : Desc) (l : List Nat) : List Access := [{ handle := handle, pdom := d.pdom, write := false, sectors := l }]

/-- The sectors of the table that a gather's rows read. -/
abbrev tableSectors (d : Desc) (p : Placed) (rows : List (Nat × Nat)) : List Nat := (rows.flatMap (fun y => d.rowSectors (p.a.at p.begun) y.2)).eraseDups

/-- The row cache once a gather's rows are read, with its counts. -/
abbrev gatherCache (m : Mach) (n : Nat) (c : Ctx) (d : Desc) (p : Placed) (rows : List (Nat × Nat)) : List (Nat × List Byte) × Nat × Nat :=
  m.cacheRows c d (p.a.at p.begun) rows (m.range n).rowCache

/-- The tile of a gather. -/
abbrev gatherTile (m : Mach) (n : Nat) (c : Ctx) (d : Desc) (p : Placed) (rows : List (Nat × Nat)) : Tile :=
  d.gather (cachedByte (gatherCache m n c d p rows).1) (p.a.at p.begun) rows

/-- The range once a gather's rows are in its cache, before its tile is on its way. -/
def rowsCached (r : RangeSt) (g : List (Nat × List Byte) × Nat × Nat) (rep : Nat) : RangeSt :=
  let h := if rep = 0 then (0, 0) else r.cacheHits
  { r with rowCache := g.1.take 8192, cacheHits := (h.1 + g.2.1, h.2 + g.2.2) }

/-- The range once a gather's tile is on its way. -/
abbrev gathering (r : RangeSt) (p : Placed) (g : List (Nat × List Byte) × Nat × Nat) (t : Tile) : RangeSt :=
  ((rowsCached r g p.begun).deliver 5 p.seq p.ins.gatherQueue p.ins.gatherTreg t).begin 5 p.seq

theorem gatherRep_ok (hp : m.mem.poison = []) : m.gatherRep n c d p rows Ecc.clean = .ok ((m.tallyBy (7 * n + 5) 1 0).updRange n
    (fun r => gathering r p (gatherCache m n c d p rows) (gatherTile m n c d p rows))) := by
  simp only [Mach.gatherRep, checkWords_clean _ _ fun w _ => poisoned_none hp, badWords_clean fun w _ => poisoned_none hp]
  rfl

/-- The module once a gather's rows are translated: their sectors were used, and dropped rows are counted. -/
def rowsTranslated (m : Mach) (n : Nat) (l : List Nat) (lost : Nat) : Mach :=
  ((translated m n 5 l).addF (Reg.RANGE_SCREE_OOR_COUNT n) Fld.RANGE_SCREE_OOR_COUNT_COUNT lost).tallyBy (7 * n + 5) 2 lost

theorem rowsTranslated_spec (hn : n < m.ranges.length) (l : List Nat) (lost : Nat) : Aside n m (rowsTranslated m n l lost) ∧
    (rowsTranslated m n l lost).ranges.length = m.ranges.length ∧
    (rowsTranslated m n l lost).range n = (m.range n).setTlb 5 (tlbUse ((m.range n).tlb 5) l) := by
  have hregs : RegsOnly (translated m n 5 l) ((translated m n 5 l).addF (Reg.RANGE_SCREE_OOR_COUNT n) Fld.RANGE_SCREE_OOR_COUNT_COUNT lost) :=
    (RegsOnly.refl _).wr
  refine ⟨((Aside.refl n m).updRange.regs hregs).tallyBy, ?_, ?_⟩
  · exact (congrArg List.length hregs.ranges).trans List.length_set
  · exact (hregs.range n).trans (range_updRange_same hn _)

theorem screeRows_gather (hf : x.lockstep = false) (ho : p.ins.sop = some .gather) (hoor : i.oor ≠ 2)
    (hl : m.xlate n 5 false (screeAccess p.ins.hA d (tableSectors d p (rowsOf i.oor (d.extent 1) (m.indices c i p p.begun)))) = .ok) :
    ∃ lost, m.screeRows n x c d i p Ecc.clean =
      (rowsTranslated m n (tableSectors d p (rowsOf i.oor (d.extent 1) (m.indices c i p p.begun))) lost).gatherRep n c d p
        (rowsOf i.oor (d.extent 1) (m.indices c i p p.begun)) Ecc.clean := by
  have htable : p.ins.table = p.ins.hA := if_pos ho
  refine ⟨if i.oor = 0 then ((m.indices c i p p.begun).filter (fun y => outOfRange (d.extent 1) y.2)).length else 0, ?_⟩
  rw [← hf] at hl
  simp only [Mach.screeRows, if_neg hoor, ho, ne_eq, not_true_eq_false, decide_false, Bool.false_and, Bool.false_eq_true, if_false, htable]
  rw [access_ok hl, rowsTranslated, List.flatMap_singleton]

/-- The module once a gather's indices are read. -/
abbrev indicesRead (m : Mach) (n : Nat) (i : Desc) (p : Placed) : Mach :=
  (translated m n 5 (idxSectors i p p.begun)).tallyBy (7 * n + 5) 1 0

theorem screeBegin_gather (h : Ready m n 5 x p) (ho : p.ins.sop = some .gather) (hc : m.ctx x.ctx = some c) (hd : c.desc p.ins.hA = some d)
    (hi : c.desc p.ins.hB = some i) (hfull : (m.range n).full p.ins.gatherQueue d.format = false)
    (hcause : p.causes n 5 p.begun (m.screeCauses n d i p p.begun) = none) (hp : m.mem.poison = [])
    (hl : m.xlate n 5 false (screeAccess p.ins.hB i (idxSectors i p p.begun)) = .ok) :
    screeBegin n Ecc.clean m x = (indicesRead m n i p).screeRows n x c d i p Ecc.clean := by
  have htable : p.ins.table = p.ins.hA := if_pos ho
  rw [← h.flow] at hl
  have hidle : ¬ (p.ins.sop = some .idle ∨ m.repHeld n p p.begun = true) := by simp [ho, h.unheld]
  simp only [screeBegin, hc, h.frontOf, if_neg hidle, htable, hd, hi, hfull, h.prevBusy, h.unblocked, holdCode, List.find?_cons, List.find?_nil,
    Option.map_none, hcause]
  rw [access_ok hl, List.flatMap_singleton]
  have hsound : ∀ w, (translated m n 5 (idxSectors i p p.begun)).poisoned w = false := fun w => poisoned_none hp
  simp only [checkWords_clean _ _ fun w _ => hsound w, badWords_clean fun w _ => hsound w]
  rfl

/-- The indices and the row cache of a gather read memory and the context's pages. -/
theorem indices_congr {q : Mach} (h : q.mem = m.mem) (rep : Nat) : q.indices c i p rep = m.indices c i p rep := by
  have hb : q.ctxByte c = m.ctxByte c := by
    funext va
    simp only [Mach.ctxByte, Mach.readVa, Mach.readByte, h]
  rw [Mach.indices, Mach.indices, hb]

theorem cacheRows_congr {q : Mach} (h : q.mem = m.mem) (o : List Int) (cache : List (Nat × List Byte)) :
    q.cacheRows c d o rows cache = m.cacheRows c d o rows cache := by
  have hr : q.readRun c = m.readRun c := by
    funext va k
    simp only [Mach.readRun, Mach.readVa, Mach.readByte, h]
  rw [Mach.cacheRows, Mach.cacheRows, hr]

theorem rowCache_setTlb {r : RangeSt} {st : Nat} {l : List TlbEntry} : (r.setTlb st l).rowCache = r.rowCache :=
  setTlb_field (g := RangeSt.rowCache) (fun _ _ _ _ => rfl) ..

/-- What a gather begins with, in flow mode. -/
theorem gather_begins (hn : n < m.ranges.length) (h : Ready m n 5 x p) (ho : p.ins.sop = some .gather) (hc : m.ctx x.ctx = some c)
    (hd : c.desc p.ins.hA = some d) (hi : c.desc p.ins.hB = some i) (hfull : (m.range n).full p.ins.gatherQueue d.format = false)
    (hcause : p.causes n 5 p.begun (m.screeCauses n d i p p.begun) = none) (hp : m.mem.poison = []) (hoor : i.oor ≠ 2)
    (hl : m.xlate n 5 false (screeAccess p.ins.hB i (idxSectors i p p.begun)) = .ok) (hrows : rows = rowsOf i.oor (d.extent 1) (m.indices c i p p.begun))
    (ht : (translated m n 5 (idxSectors i p p.begun)).xlate n 5 false (screeAccess p.ins.hA d (tableSectors d p rows)) = .ok) :
    ∃ a b, Aside n m (m.flowBegin n (screeBegin n Ecc.clean)) ∧ (m.flowBegin n (screeBegin n Ecc.clean)).range n =
      gathering (((m.range n).setTlb 5 a).setTlb 5 b) p (gatherCache m n c d p rows) (gatherTile m n c d p rows) := by
  have hlen : n < (indicesRead m n i p).ranges.length := by simpa [indicesRead, Mach.tallyBy, Mach.updRange, Mach.setRange] using hn
  have hmem : (indicesRead m n i p).mem = m.mem := rfl
  have hread : (indicesRead m n i p).range n = (m.range n).setTlb 5 (tlbUse ((m.range n).tlb 5) (idxSectors i p p.begun)) :=
 (range_tallyBy ..).trans (range_updRange_same hn _)
  have hrows' : rows = rowsOf i.oor (d.extent 1) ((indicesRead m n i p).indices c i p p.begun) := by rw [indices_congr hmem, hrows]
  obtain ⟨lost, hs⟩ := screeRows_gather (m := indicesRead m n i p) (c := c) (x := x) h.flow ho hoor (by rw [← hrows']; exact ht)
  rw [← hrows'] at hs
  obtain ⟨haside, hcount, hr⟩ := rowsTranslated_spec hlen (tableSectors d p rows) lost
  generalize rowsTranslated (indicesRead m n i p) n (tableSectors d p rows) lost = q at hs haside hcount hr
  have hqmem : q.mem = m.mem := haside.mem.trans hmem
  have hcache : gatherCache q n c d p rows = gatherCache m n c d p rows := by
    rw [gatherCache, cacheRows_congr hqmem, hr, hread, rowCache_setTlb, rowCache_setTlb]
  have hok := (screeBegin_gather h ho hc hd hi hfull hcause hp hl).trans (hs.trans (gatherRep_ok (by rw [hqmem]; exact hp)))
  rw [gatherTile, hcache] at hok
  have hqlen : n < (q.tallyBy (7 * n + 5) 1 0).ranges.length := by
    have : (q.tallyBy (7 * n + 5) 1 0).ranges.length = (indicesRead m n i p).ranges.length := hcount
    omega
  rw [h.flowBegin_ok hok]
  rw [hread] at hr
  exact ⟨_, _, (((Aside.refl n m).updRange.tallyBy).trans haside).tallyBy.updRange, (range_updRange_same hqlen _).trans
    (congrArg (gathering · p (gatherCache m n c d p rows) (gatherTile m n c d p rows)) hr)⟩

theorem rowsCached_field {β : Type} {f : RangeSt → β} (hf : ∀ r a b, f { r with rowCache := a, cacheHits := b } = f r) (r : RangeSt)
    (g : List (Nat × List Byte) × Nat × Nat) (rep : Nat) : f (rowsCached r g rep) = f r := hf r _ _

end

/-! ### The obligation -/

/-- Settles O37, row by row: a store is an update of its range and of the bytes that its bits reach, and a mark and a gather are updates of their
range. -/
theorem storesMarksAndGathers : Obligations.StoresMarksAndGathers := by
  intro s n x p c d hsh hc r e began
  have h16 : s.ranges.length = 16 := shaped_ranges hsh
  have hn : n.val < s.ranges.length := by rw [h16]; exact n.isLt
  refine ⟨fun tile h ho hd ht hcause => ?_,
    fun tile ecc h ho hd hx ht hout => ⟨s.on (s.flowBegin n (storeBegin n ecc)), rfl, ?_⟩, fun h ho hscree => ⟨s.on _, rfl, ?_⟩,
    fun i h ho hd hi hfull hcause hp hoor => ?_⟩
  · intro out sectors hh hl hphys hp
    obtain ⟨hbegun, hrange, hctxs, hother, hone⟩ := store_begins hn (ready_iff.mp h) ho hc hd ((storeTile_eq r p).trans ht) hcause hh hl hphys hp
    exact ⟨s.on (s.flowBegin n (storeBegin n Ecc.clean)), rfl, ⟨hbegun, hrange, hctxs⟩, hother, hone⟩
  · have h := ready_iff.mp h
    have hbegin : storeBegin n ecc s.toMach x = .stop s.toMach (p.stopAt n 4 St.streamFault 0x07 p.begun) :=
      (storeBegin_eq h ho).trans ((talusBegin_store h ho hc hd ((storeTile_eq r p).trans ht)).trans (congrArg (Option.elim · _ _) (store_coordOut hout)))
    rw [h.flowBegin_stop hbegin]
    exact stopStream_faultStops (m := s.toMach) n.isLt hx h.admitted h16 rfl rfl (show 7 < 2 ^ 8 by decide) rfl
  · have h := ready_iff.mp h
    obtain ⟨l, hseq⟩ := h.seqOf
    have hbegin : markBegin n s.toMach x = .ok (s.setRange n (marked r p)) :=
      (markBegin_eq h ho).trans ((talusBegin_mark h ho hc).trans (markRep_ok hscree))
    have hrun : talusMark n .run s.toMach = s.setRange n (marked r p) := h.flowBegin_ok hbegin
    have hside : Aside n.val s.toMach (s.setRange n (marked r p)) := (Aside.refl n.val s.toMach).setRange
    rw [hrun]
    refine ⟨⟨?_, hside.range, hside.ctxs⟩, hside.mem, rfl, ?_⟩
    · rw [State.on_toMach, range_setRange_same hn]
      obtain ⟨z, t, hz, _, hzseq, hzbegun⟩ := begin_begun (r := { r with marks := _ }) h.hasSeq hseq
      exact ⟨z, t, hz, hzseq, hzbegun⟩
    · rw [State.on_toMach, range_setRange_same hn]
      exact (⟨fun _ _ _ _ _ _ _ => rfl⟩ : BesideSeqs RangeSt.marks).updPlaced ..
  · intro isec rows s1 hl tsec ht cache tile
    have h := ready_iff.mp h
    obtain ⟨l, hseq⟩ := h.seqOf
    obtain ⟨a, b, hside, hr⟩ := gather_begins hn h ho hc hd hi hfull hcause hp hoor hl rfl ht
    refine ⟨s.on (s.flowBegin n (screeBegin n Ecc.clean)), rfl, ⟨?_, hside.range, hside.ctxs⟩, hside.mem, fun k hk => ?_, fun k hk => ?_⟩
    · rw [State.on_toMach, hr]
      have hs : ((rowsCached ((r.setTlb 5 a).setTlb 5 b) (gatherCache s.toMach n c d p rows) p.begun).deliver 5 p.seq e.gatherQueue e.gatherTreg tile).seqOf 5 =
          p :: l := by
        rw [seqOf_deliver, rowsCached_field (f := fun r => r.seqOf 5) fun _ _ _ => rfl, seqOf_setTlb, seqOf_setTlb]
        exact hseq
      obtain ⟨z, t, hz, _, hzseq, hzbegun⟩ := begin_begun h.hasSeq hs
      exact ⟨z, t, hz, hzseq, hzbegun⟩
    · rw [State.on_toMach, hr, queue_begin, deliver_queue hk, rowsCached_field (f := fun r => r.queue k) fun _ _ _ => by cases k; all_goals rfl]
      rw [queue_setTlb, queue_setTlb]
    · rw [State.on_toMach, hr, regWrites_begin, deliver_regWrites hk, rowsCached_field (f := RangeSt.regWrites) fun _ _ _ => rfl, regWrites_setTlb,
        regWrites_setTlb]

end Sys2Proof.Laws
end

section
namespace Sys2Proof.Laws

open Sys2Proof.Machine

/-!
# Instruction words and stream images (R84, R115, R117)

A word is the sum of its fields, each at its own bit, and an image the run of its header's fields and of its words, each at its own byte. So a field
is read back past those above it or before it.
-/

/-! ### Fields of a sum -/

/-- A field below a multiple of a power of two does not see the multiple. -/
theorem bitsOf_add_below {lo w n : Nat} (a v : Nat) (h : lo + w ≤ n) : bitsOf (a + v * 2 ^ n) lo w = bitsOf a lo w := by
  obtain ⟨k, rfl⟩ := Nat.exists_eq_add_of_le h
  have hv : v * 2 ^ (lo + w + k) = 2 ^ lo * (2 ^ w * (v * 2 ^ k)) := by ring
  rw [bitsOf, bitsOf, Nat.shiftRight_eq_div_pow, Nat.shiftRight_eq_div_pow, hv, Nat.add_mul_div_left _ _ (Nat.two_pow_pos lo), Nat.add_mul_mod_self_left]

/-- The field at a power of two, above a number below that power. -/
theorem bitsOf_add_at {a v n w : Nat} (ha : a < 2 ^ n) (hv : v < 2 ^ w) : bitsOf (a + v * 2 ^ n) n w = v := by
  rw [bitsOf, Nat.shiftRight_eq_div_pow, Nat.add_mul_div_right _ _ (Nat.two_pow_pos n), Nat.div_eq_of_lt ha, Nat.zero_add, Nat.mod_eq_of_lt hv]

theorem bitsOf_zero_lo (x w : Nat) : bitsOf x 0 w = x % 2 ^ w := rfl

theorem bitsOf_zero_lt {x w : Nat} (h : x < 2 ^ w) : bitsOf x 0 w = x := Nat.mod_eq_of_lt h

/-- The low bits of a number and the field above them are its low bits further up. -/
theorem bitsOf_zero_add (x n k : Nat) : bitsOf x 0 n + bitsOf x n k * 2 ^ n = bitsOf x 0 (n + k) := by
  rw [bitsOf_zero_lo, bitsOf_zero_lo, bitsOf, Nat.shiftRight_eq_div_pow, Nat.mul_comm, pow_add, ← Nat.mod_mul]

theorem b2n_lt (b : Bool) : b2n b < 2 ^ 1 := by cases b <;> decide

theorem b2n_bitOf (x i : Nat) : b2n (bitOf x i) = bitsOf x i 1 := by
  rw [bitOf, Nat.testBit_eq_decide_div_mod_eq, bitsOf, Nat.shiftRight_eq_div_pow]
  rcases Nat.mod_two_eq_zero_or_one (x / 2 ^ i) with h | h <;> simp [b2n, h]

/-- A bit is the Boolean whose number is the field of that bit. -/
theorem bitOf_eq_of_bitsOf {x i : Nat} {b : Bool} (h : bitsOf x i 1 = b2n b) : bitOf x i = b := by
  rw [← b2n_bitOf] at h
  revert h
  cases bitOf x i <;> cases b <;> decide

/-! ### Instruction words (R84) -/

theorem Ewx.fits_iff (e : Ewx) : e.fits = true ↔ e.op < 2 ^ 8 ∧ e.station < 2 ^ 4 ∧ e.rep < 2 ^ 16 ∧ e.hA < 2 ^ 16 ∧ e.hB < 2 ^ 16 ∧ e.hD < 2 ^ 16 ∧
    e.axa < 2 ^ 4 ∧ e.axb < 2 ^ 4 ∧ e.mod < 2 ^ 40 := by
  simp [Ewx.fits, and_assoc]

theorem Ewx.flags_lt (e : Ewx) : b2n e.incA < 2 ^ 1 ∧ b2n e.incB < 2 ^ 1 ∧ b2n e.sr < 2 ^ 1 ∧ b2n e.rsv112 < 2 ^ 1 :=
  ⟨b2n_lt _, b2n_lt _, b2n_lt _, b2n_lt _⟩

theorem Ewx.toWord_lt {e : Ewx} (h : e.fits = true) : e.toWord < 2 ^ 128 := by
  obtain ⟨hop, hst, hrep, hA, hB, hD, haxa, haxb, hmod⟩ := (Ewx.fits_iff e).mp h
  obtain ⟨ha, hb, hs, hr⟩ := Ewx.flags_lt e
  unfold Ewx.toWord
  omega

theorem Ewx.ofWord_toWord {e : Ewx} (h : e.fits = true) : Ewx.ofWord e.toWord = e := by
  obtain ⟨hop, hst, hrep, hA, hB, hD, haxa, haxb, hmod⟩ := (Ewx.fits_iff e).mp h
  obtain ⟨ha, hb, hs, hr⟩ := Ewx.flags_lt e
  have hbits : bitOf e.toWord 115 = e.incA ∧ bitOf e.toWord 114 = e.incB ∧ bitOf e.toWord 113 = e.sr ∧ bitOf e.toWord 112 = e.rsv112 := by
    refine ⟨bitOf_eq_of_bitsOf ?_, bitOf_eq_of_bitsOf ?_, bitOf_eq_of_bitsOf ?_, bitOf_eq_of_bitsOf ?_⟩
    all_goals simp (disch := omega) only [Ewx.toWord, bitsOf_add_below, bitsOf_add_at]
  obtain ⟨hincA, hincB, hsr, hrsv⟩ := hbits
  rw [Ewx.ofWord, hincA, hincB, hsr, hrsv]
  simp (disch := omega) only [Ewx.toWord, bitsOf_add_below, bitsOf_add_at, bitsOf_zero_lt]

theorem Ewx.toWord_ofWord {w : Nat} (h : w < 2 ^ 128) : (Ewx.ofWord w).toWord = w := by
  simp only [Ewx.toWord, Ewx.ofWord, b2n_bitOf, bitsOf_zero_add, Nat.reduceAdd]
  exact bitsOf_zero_lt h

/-! ### Numbers in runs of bytes -/

@[simp] theorem leBytes_length (x n : Nat) : (leBytes x n).length = n := by
  induction n generalizing x with
  | zero => rfl
  | succ n ih => rw [leBytes, List.length_cons, ih]

theorem leNat_leBytes {x n : Nat} (h : x < 256 ^ n) : leNat (leBytes x n) = x := by
  induction n generalizing x with
  | zero => rw [leBytes, leNat]; omega
  | succ n ih =>
    rw [leBytes, leNat, ih (Nat.div_lt_of_lt_mul (by rwa [Nat.mul_comm, ← pow_succ])), BitVec.toNat_ofNat]
    exact Nat.mod_add_div x 256

/-- The field that a run begins with. -/
theorem leAt_leBytes {x n : Nat} (l : List Byte) (h : x < 256 ^ n) : leAt (leBytes x n ++ l) 0 n = x := by
  rw [leAt, List.drop_zero, List.take_left' (leBytes_length x n), leNat_leBytes h]

/-- A field further on does not see the field that a run begins with. -/
theorem leAt_leBytes_skip {n off : Nat} (x w : Nat) (l : List Byte) (h : n ≤ off) : leAt (leBytes x n ++ l) off w = leAt l (off - n) w := by
  rw [leAt, leAt, List.drop_append, List.drop_eq_nil_of_le ((leBytes_length x n).trans_le h), leBytes_length, List.nil_append]

/-! ### The CRC -/

theorem crcBit_lt {c : Nat} (h : c < 2 ^ 32) : crcBit c < 2 ^ 32 := by
  unfold crcBit
  split
  · exact Nat.xor_lt_two_pow (by omega) (by decide)
  · omega

theorem crcByte_lt {c : Nat} (h : c < 2 ^ 32) (b : Byte) : crcByte c b < 2 ^ 32 := by
  have hb : c ^^^ b.toNat < 2 ^ 32 := Nat.xor_lt_two_pow h (by have := b.isLt; omega)
  exact crcBit_lt (crcBit_lt (crcBit_lt (crcBit_lt (crcBit_lt (crcBit_lt (crcBit_lt (crcBit_lt hb)))))))

theorem crc32_lt (l : List Byte) : crc32 l < 2 ^ 32 :=
  Nat.xor_lt_two_pow (foldl_keeps (· < 2 ^ 32) crcByte (fun _ b h => crcByte_lt h b) l _ (by decide)) (by decide)

/-! ### The bytes of an image (R117) -/

/-- The bytes of an image's instructions. -/
abbrev bodyBytes (code : List Ewx) : List Byte := code.flatMap (fun e => leBytes e.toWord 16)

theorem bodyBytes_length (code : List Ewx) : (bodyBytes code).length = 16 * code.length := by
  simp [List.length_flatMap, Nat.mul_comm]

/-- The instructions are read back from their bytes. -/
theorem wordsOf_bodyBytes {code : List Ewx} (h : ∀ e ∈ code, e.fits = true) : wordsOf code.length (bodyBytes code) = code := by
  induction code with
  | nil => rfl
  | cons e t ih =>
    obtain ⟨he, ht⟩ := List.forall_mem_cons.mp h
    rw [bodyBytes, List.flatMap_cons, List.length_cons, wordsOf, List.take_left' (leBytes_length _ _), List.drop_left' (leBytes_length _ _), ih ht,
      leNat_leBytes (Ewx.toWord_lt he), Ewx.ofWord_toWord he]

theorem Image.toBytes_length (i : Image) : i.toBytes.length = 64 + 16 * i.code.length := by
  simp only [Image.toBytes, List.length_append, leBytes_length, bodyBytes_length]

theorem Image.toBytes_body (i : Image) : i.toBytes.drop 64 = bodyBytes i.code :=
  List.drop_left' (by simp only [List.length_append, leBytes_length])

theorem Image.sound_iff (i : Image) : i.sound = true ↔ i.cls ≤ 7 ∧ i.cSlot ≤ 65535 ∧ i.cGuard ≤ 255 ∧
    (if i.cSlot = 0 then i.cGuard = 0 else 2 ≤ i.cGuard) ∧ 1 ≤ i.code.length ∧ i.code.length ≤ 65535 ∧ (∀ e ∈ i.code, e.fits = true) ∧
    firstFault i.code 0 0 (openLoops i.code 0 []).getLast? = none := by
  simp only [Image.sound, Bool.and_eq_true, decide_eq_true_eq, List.all_eq_true, Option.isNone_iff_eq_none, and_assoc, Bool.ite_eq_true_distrib]

/-- The fields of a header that differ from image to image. -/
theorem Image.toBytes_fields {i : Image} (hcls : i.cls < 256) (hslot : i.cSlot < 65536) (hguard : i.cGuard < 256) (hlen : i.code.length < 65536) :
    leAt i.toBytes 0x08 4 = i.code.length ∧ leAt i.toBytes 0x0C 1 = i.cls ∧ leAt i.toBytes 0x0E 2 = i.cSlot ∧ leAt i.toBytes 0x10 1 = i.cGuard ∧
      leAt i.toBytes 0x14 4 = crc32 (bodyBytes i.code) := by
  have hcrc := crc32_lt (bodyBytes i.code)
  refine ⟨?_, ?_, ?_, ?_, ?_⟩
  all_goals
    simp (disch := omega) only [Image.toBytes, List.append_assoc, leAt_leBytes_skip, Nat.reduceSub]
    exact leAt_leBytes _ (by omega)

/-- The fields of a header that every image has the same. -/
theorem Image.toBytes_constants (i : Image) :
    leAt i.toBytes 0 4 = 0x584C5745 ∧ leAt i.toBytes 4 2 = 1 ∧ leAt i.toBytes 6 2 = 64 ∧ leAt i.toBytes 0x0D 1 = 0 ∧ leAt i.toBytes 0x11 3 = 0 ∧
      leAt i.toBytes 0x18 40 = 0 := by
  refine ⟨?_, ?_, ?_, ?_, ?_, ?_⟩
  all_goals
    simp (disch := omega) only [Image.toBytes, List.append_assoc, leAt_leBytes_skip, Nat.reduceSub]
    exact leAt_leBytes _ (by decide)

theorem Image.headerOk_toBytes {i : Image} (h : i.sound = true) : headerOk i.toBytes = true := by
  obtain ⟨hcls, hslot, hguard, hg, hpos, hlen, -, -⟩ := (Image.sound_iff i).mp h
  obtain ⟨hn, hc, hs, hgd, -⟩ := Image.toBytes_fields (i := i) (by omega) (by omega) (by omega) (by omega)
  obtain ⟨hmagic, hversion, hsize, hd, he, hf⟩ := Image.toBytes_constants i
  simp [headerOk, zeroAt, Image.toBytes_length, hn, hc, hs, hgd, hmagic, hversion, hsize, hd, he, hf, hcls, hpos, hlen, hg]

/-- An image whose header, checksum and instructions pass is the one that the bytes spell (R115). -/
theorem imageCheck_ok {l : List Byte} (hh : headerOk l = true) (hc : crc32 (l.drop 64) = leAt l 0x14 4)
    (hf : firstFault (wordsOf (leAt l 8 4) (l.drop 64)) 0 0 (openLoops (wordsOf (leAt l 8 4) (l.drop 64)) 0 []).getLast? = none) :
    imageCheck l = .ok { cls := leAt l 0x0C 1, cSlot := leAt l 0x0E 2, cGuard := leAt l 0x10 1, code := wordsOf (leAt l 8 4) (l.drop 64) } := by
  simp [imageCheck, hh, hc, hf]

theorem imageCheck_toBytes {i : Image} (h : i.sound = true) : imageCheck i.toBytes = .ok i := by
  obtain ⟨hcls, hslot, hguard, -, -, hlen, hfits, hfault⟩ := (Image.sound_iff i).mp h
  obtain ⟨hn, hc, hs, hg, hcrc⟩ := Image.toBytes_fields (i := i) (by omega) (by omega) (by omega) (by omega)
  have hcode : wordsOf (leAt i.toBytes 8 4) (i.toBytes.drop 64) = i.code := by rw [hn, Image.toBytes_body, wordsOf_bodyBytes hfits]
  rw [imageCheck_ok (Image.headerOk_toBytes h) (by rw [Image.toBytes_body, hcrc]) (by rw [hcode, hfault]), hc, hs, hg, hcode]

/-- Settles O57: each field of a word or of a header is read back where it was written, and the instructions one word after another. -/
theorem imagesRoundTrip : Obligations.ImagesRoundTrip :=
  ⟨fun _ h => ⟨Ewx.ofWord_toWord h, Ewx.toWord_lt h⟩, fun _ h => Ewx.toWord_ofWord h, fun _ h => imageCheck_toBytes h⟩

end Sys2Proof.Laws
end

section
namespace Sys2Proof.Laws

open Sys2Proof.Machine

/-!
# STREAM_LOAD (R115, R119)

A load ends in one of four ways, and only the last puts an image in its place.
-/

/-! ### Images by number -/

/-- A context with an image put under a number. -/
abbrev withImage (x : Ctx) (k : Nat) (i : Image) : Ctx := { x with images := (k, i) :: x.images.filter (fun e => decide (e.1 ≠ k)) }

theorem image_withImage_same (x : Ctx) (k : Nat) (i : Image) : (withImage x k i).image k = some i := by simp [Ctx.image]

theorem image_withImage_other (x : Ctx) {k j : Nat} (h : j ≠ k) (i : Image) : (withImage x k i).image j = x.image j := by
  have hkeep : ∀ e : Nat × Image, (e.1 ≠ k ∧ e.1 = j) ↔ e.1 = j := fun e => and_iff_right_of_imp fun he => he.trans_ne h
  rw [Ctx.image, Ctx.image, List.find?_cons_of_neg (by simpa using h.symm), List.find?_filter]
  simp only [decide_eq_true_eq, hkeep]

theorem ctx_updCtx_same {m : Mach} {c : Nat} {x : Ctx} (hx : m.ctx c = some x) (f : Ctx → Ctx) : (m.updCtx c f).ctx c = some (f x) := by
  rw [Mach.updCtx, hx]
  exact ctx_setCtx_same (ctx_lt hx) _

/-! ### How a load ends -/

section

variable {m : Mach} {h : Hdr} {k : Nat} {payload : List Byte}

/-- A running stream of the context uses the image number. -/
abbrev imageUsed (m : Mach) (c k : Nat) : Prop := ∃ y ∈ m.streams, y.ctx = c ∧ y.admitted = true ∧ y.imageNo = k

theorem any_imageUsed {c : Nat} : m.streams.any (fun s => decide (s.ctx = c) && s.admitted && decide (s.imageNo = k)) = true ↔ imageUsed m c k := by
  simp [List.any_eq_true, and_assoc]

theorem streamLoadBody_used (hu : imageUsed m h.ctx k) : streamLoadBody h k payload m = m.answer h Op.streamLoad St.busy := by
  rw [streamLoadBody, if_pos (any_imageUsed.mpr hu)]

variable (hu : ¬ imageUsed m h.ctx k)

include hu

theorem streamLoadBody_refused {i c : Nat} (hc : imageCheck payload = .error (i, c)) :
    streamLoadBody h k payload m =
      (m.wrF Reg.TRAVERSE_IMAGE_STORE Fld.TRAVERSE_IMAGE_STORE_LAST_CAUSE c).answer h Op.streamLoad St.badParam (i * 65536 + c) := by
  simp only [streamLoadBody, if_neg (any_imageUsed.not.mpr hu), hc]

theorem streamLoadBody_full {i : Image} (hc : imageCheck payload = .ok i) (hf : 64 * 2 ^ 20 < m.imagesWithout h.ctx k + i.bytes) :
    streamLoadBody h k payload m = m.answer h Op.streamLoad St.busy := by
  simp only [streamLoadBody, if_neg (any_imageUsed.not.mpr hu), hc, if_pos hf]

theorem streamLoadBody_stored {i : Image} (hc : imageCheck payload = .ok i) (hf : m.imagesWithout h.ctx k + i.bytes ≤ 64 * 2 ^ 20) :
    streamLoadBody h k payload m = (m.updCtx h.ctx (withImage · k i)).answer h Op.streamLoad St.done := by
  simp only [streamLoadBody, if_neg (any_imageUsed.not.mpr hu), hc, if_neg (Nat.not_lt.mpr hf)]

end

theorem took_imagesWithout (m : Mach) (op : Nat) (h : Hdr) (c k : Nat) : (m.took op h).imagesWithout c k = m.imagesWithout c k := by
  simp only [Mach.imagesWithout, took_ctx]

/-- Recording a refused load's cause leaves the data lanes as they are. -/
theorem dataUp_lastCause (m : Mach) (c : Nat) :
    (m.wrF Reg.TRAVERSE_IMAGE_STORE Fld.TRAVERSE_IMAGE_STORE_LAST_CAUSE c).dataUp = m.dataUp := by
  rw [Mach.dataUp, Mach.rdF_wrF_other _ _ _ _ _ _ (by decide) (by decide) (.inl (by decide)), Mach.dataUp]

/-- Settles O31: each end of the load is one reply, and an image put in its place is the one its number finds. -/
theorem streamImageLoaded : Obligations.StreamImageLoaded := by
  intro s h x k payload _ hx hb q run used
  have hrun : run = .next (s.on (streamLoadBody h k payload q)) := command_begins s Op.streamLoad h _ _ hb
  have hused : imageUsed q h.ctx k ↔ used := by simp only [imageUsed, q, took_streams, used]
  have hqc : q.csr = s.csr := took_csr ..
  have hqr : q.swite.replies = s.swite.replies := took_replies ..
  refine ⟨fun hu => hrun.trans (by rw [streamLoadBody_used (hused.mpr hu)]), fun hu i c hc hlt => ?_, fun hu i hc => ?_⟩
  · rw [streamLoadBody_refused (hused.not.mpr hu) hc] at hrun
    have hup : h.lane = .mgmt ∨ (q.wrF Reg.TRAVERSE_IMAGE_STORE Fld.TRAVERSE_IMAGE_STORE_LAST_CAUSE c).dataUp = true :=
      (begins_dataUp hb).imp_right fun hd => (dataUp_lastCause q c).trans ((took_dataUp ..).trans hd)
    refine ⟨_, _, hrun, (Mach.send_ctxs ..).trans (took_ctxs s.toMach Op.streamLoad h), ?_, (send_replies hup).trans (congrArg (· ++ [_]) hqr), rfl, rfl⟩
    rw [State.on_toMach, Mach.answer, Mach.rdF, Mach.rd_send]
    exact (Mach.rdF_wrF_same _ _ _ _ (by decide)).trans (Nat.mod_eq_of_lt hlt)
  · rw [← took_imagesWithout s.toMach Op.streamLoad h]
    refine ⟨fun hf => hrun.trans (by rw [streamLoadBody_full (hused.not.mpr hu) hc hf]), fun hf => ?_⟩
    rw [streamLoadBody_stored (hused.not.mpr hu) hc hf] at hrun
    refine ⟨_, withImage x k i, _, hrun, ?_, image_withImage_same x k i, fun j hj => image_withImage_other x hj i, fun c hc => ?_, ?_, ?_, ?_,
      answer_replies hb ((Mach.updCtx_csr ..).trans hqc) ((congrArg _ (Mach.updCtx_swite ..)).trans hqr) St.done 0 [], rfl⟩
    · exact (answer_ctx ..).trans (ctx_updCtx_same ((took_ctx ..).trans hx) _)
    · exact (answer_ctx ..).trans ((ctx_updCtx_other _ hc _).trans (took_ctx ..))
    · exact (Mach.send_csr ..).trans ((Mach.updCtx_csr ..).trans hqc)
    · exact (Mach.send_mem ..).trans ((Mach.updCtx_mem ..).trans (took_mem ..))
    · exact (Mach.send_ranges ..).trans ((Mach.updCtx_ranges ..).trans (took_ranges ..))

end Sys2Proof.Laws
end

section
namespace Sys2Proof.Laws

open Sys2Proof.Machine

/-!
# Copies and fills (R127, R585, R594)

A copy of whole bytes makes a byte map of whole bytes. Where every byte is mapped to local memory and each physical byte named once, its stores put
each byte in its place, and every other byte of memory stays.
-/

/-! ### Entries of a sparse store -/

section

variable {α : Type} {k : Nat} {v : α} {l : List (Nat × α)} {p : Nat × α}

theorem Sparse.mem_erase : p ∈ Sparse.erase l k ↔ p ∈ l ∧ p.1 ≠ k := by simp [Sparse.erase]

theorem Sparse.mem_insert : p ∈ Sparse.insert k v l ↔ p = (k, v) ∨ p ∈ l := by
  refine ⟨Sparse.insert_mem k v l p, ?_⟩
  induction l with
  | nil => simp [Sparse.insert]
  | cons q t ih =>
    unfold Sparse.insert
    split
    · simp
    · rintro (h | h)
      · exact List.mem_cons_of_mem q (ih (.inl h))
      · exact List.mem_cons.mpr ((List.mem_cons.mp h).imp_right fun ht => ih (.inr ht))

/-- The entries after a write of a value that is listed. -/
theorem Sparse.mem_put [DecidableEq α] {dflt : Nat → α} (hv : v ≠ dflt k) : p ∈ Sparse.put dflt l k v ↔ p = (k, v) ∨ (p ∈ l ∧ p.1 ≠ k) := by
  rw [Sparse.put, if_neg hv, Sparse.mem_insert, Sparse.mem_erase]

end

/-! ### Writes of whole bytes -/

/-- A write of one whole byte. -/
def byteWrite (y : Nat × Byte) : BitWrite := { bit := 8 * y.1, width := 8, code := y.2.toNat }

theorem byteMap_append (l : List BitWrite) (w : BitWrite) : byteMap (l ++ [w]) = (byteMap l).add w := by
  rw [byteMap, List.foldl_append, List.foldl_cons, List.foldl_nil, byteMap]

/-- A whole byte replaces whatever the map held at its address. -/
theorem add_byteWrite (b : ByteMap) (y : Nat × Byte) : ∃ mask, 255 ≤ mask ∧
    b.add (byteWrite y) = Sparse.put (fun _ => (0, 0)) b y.1 (y.2.toNat, mask) := by
  have hva : 8 * y.1 / 8 = y.1 := by omega
  have hbit : 8 * y.1 % 8 = 0 := by omega
  have hbyte : y.2.toNat % 256 = y.2.toNat := Nat.mod_eq_of_lt y.2.isLt
  refine ⟨(Sparse.get (fun _ => (0, 0)) b y.1).2 ||| 255, Nat.right_le_or, ?_⟩
  simp [ByteMap.add, byteWrite, hva, hbit, hbyte, bitsOf_zero_lo]

/-- What an entry of whole bytes makes of the byte that was there. -/
theorem mergeByte_whole (old v : Byte) {mask : Nat} (h : 255 ≤ mask) : mergeByte old v.toNat mask = v := by
  rw [mergeByte, Nat.sub_eq_zero_of_le h, Nat.and_zero, Nat.zero_or, BitVec.ofNat_toNat, BitVec.setWidth_eq]

/-- A map of whole bytes holds at every written address, and there alone, one of the bytes written there. -/
theorem byteMap_byteWrites (l : List (Nat × Byte)) :
    (∀ z ∈ byteMap (l.map byteWrite), 255 ≤ z.2.2 ∧ ∃ y ∈ l, z.1 = y.1 ∧ z.2.1 = y.2.toNat) ∧
    (∀ y ∈ l, ∃ z ∈ byteMap (l.map byteWrite), z.1 = y.1) := by
  induction l using List.reverseRecOn with
  | nil => exact ⟨fun _ hz => absurd hz List.not_mem_nil, fun _ hy => absurd hy List.not_mem_nil⟩
  | append_singleton l y ih =>
    obtain ⟨sound, complete⟩ := ih
    obtain ⟨mask, hmask, hadd⟩ := add_byteWrite (byteMap (l.map byteWrite)) y
    have hne : (y.2.toNat, mask) ≠ (0, 0) := fun h => by
      have := congrArg Prod.snd h
      omega
    have hmem : ∀ z, z ∈ byteMap ((l ++ [y]).map byteWrite) ↔ z = (y.1, (y.2.toNat, mask)) ∨ (z ∈ byteMap (l.map byteWrite) ∧ z.1 ≠ y.1) := fun z => by
      rw [List.map_append, List.map_singleton, byteMap_append, hadd]
      exact Sparse.mem_put hne
    constructor
    · intro z hz
      rcases (hmem z).mp hz with rfl | ⟨hz, -⟩
      · exact ⟨hmask, y, by simp, rfl, rfl⟩
      · obtain ⟨hm, w, hw, he⟩ := sound z hz
        exact ⟨hm, w, List.mem_append_left _ hw, he⟩
    · intro w hw
      by_cases hwy : w.1 = y.1
      · exact ⟨_, (hmem _).mpr (.inl rfl), hwy.symm⟩
      · have hwl : w ∈ l := (List.mem_append.mp hw).resolve_right fun h => hwy (congrArg Prod.fst (List.mem_singleton.mp h))
        obtain ⟨z, hz, hzw⟩ := complete w hwl
        exact ⟨z, (hmem z).mpr (.inr ⟨hz, by rwa [hzw]⟩), hzw⟩

section

variable {m : Mach} {x : Ctx} {l : List (Nat × Byte)} {pa : Nat}

/-- A store of whole bytes leaves every address alone that it does not name. -/
theorem readByte_byteWrites_other (h : ∀ y ∈ l, x.phys y.1 ≠ some pa) :
    (m.writeRuns (mergedBytes m x (byteMap (l.map byteWrite)))).readByte pa = m.readByte pa := by
  refine readByte_mergedBytes_other fun z hz => ?_
  obtain ⟨-, y, hy, hzy, -⟩ := (byteMap_byteWrites l).1 z hz
  exact hzy ▸ h y hy

/-- A byte of the store that alone is mapped to its physical address is read back there. -/
theorem readByte_byteWrites_one {y : Nat × Byte} (hy : y ∈ l) (hpa : x.phys y.1 = some pa) (hone : ∀ z ∈ l, x.phys z.1 = some pa → z = y) :
    (m.writeRuns (mergedBytes m x (byteMap (l.map byteWrite)))).readByte pa = y.2 := by
  obtain ⟨sound, complete⟩ := byteMap_byteWrites l
  refine readByte_writeRuns (fun w hw hwpa => ?_) (.inr ?_)
  · obtain ⟨z, hz, hzw⟩ := List.mem_filterMap.mp hw
    obtain ⟨k, hk, rfl⟩ := Option.map_eq_some_iff.mp hzw
    obtain ⟨hmask, u, hu, hzu, hval⟩ := sound z hz
    have huy : u = y := hone u hu (by rw [← hzu, hk]; exact congrArg some hwpa)
    rw [hval, huy]
    exact mergeByte_whole _ _ hmask
  · obtain ⟨z, hz, hzy⟩ := complete y hy
    exact ⟨_, List.mem_filterMap.mpr ⟨z, hz, by rw [hzy, hpa]; rfl⟩, rfl⟩

end

/-! ### Reads of host memory asked for (R575) -/

/-- What a request to host memory leaves alone: copies, memory, registers, and the commands and replies of the link. -/
structure HostAsked (m q : Mach) : Prop where
  copies : q.copies = m.copies
  mem : q.mem = m.mem
  csr : q.csr = m.csr
  replies : q.swite.replies = m.swite.replies
  outstanding : q.swite.outstanding = m.swite.outstanding

theorem HostAsked.hostTxn {m q : Mach} (h : HostAsked m q) (write : Bool) (pa len : Nat) (data : List Byte) (merge : List (Nat × Nat × Nat))
    (owner : TxnOwner) : HostAsked m (q.hostTxn write pa len data merge owner) := by
  obtain ⟨hcopies, hmem, hcsr, hreplies, houtstanding⟩ := h
  unfold Mach.hostTxn
  dsimp only
  split
  · exact ⟨hcopies, hmem, hcsr, hreplies, houtstanding⟩
  · exact ⟨hcopies, hmem, hcsr, hreplies, houtstanding⟩

/-- A copy that begins is listed; beside that it only asks for host memory. -/
theorem beginCopy_asks (m : Mach) (x : Ctx) (j : CopyJob) : HostAsked { m with copies := m.copies ++ [j] } (m.beginCopy x j) :=
  foldl_keeps (HostAsked { m with copies := m.copies ++ [j] }) _ (fun _ _ h => h.hostTxn ..) _ _ ⟨rfl, rfl, rfl, rfl, rfl⟩

/-! ### How a copy begins -/

theorem took_copies (m : Mach) (op : Nat) (h : Hdr) : (m.took op h).copies = m.copies := by
  obtain ⟨c, a, hq⟩ := took_eq m op h
  rw [hq]

/-- What the begin of a command's copy leaves: the copy listed, the command without a final reply. -/
theorem copy_listed (s : Mach) (op : Nat) (h : Hdr) (x : Ctx) (j : CopyJob) :
    let t := ((s.took op h).begin h op).beginCopy x j
    t.copies = s.copies ++ [j] ∧ (∃ o ∈ t.swite.outstanding, o.isFor h.lane h.ctx h.tag op = true) ∧
      t.swite.replies = s.swite.replies ∧ t.mem = s.mem ∧ t.csr = s.csr := by
  obtain ⟨hcopies, hmem, hcsr, hreplies, houtstanding⟩ := beginCopy_asks ((s.took op h).begin h op) x j
  refine ⟨hcopies.trans (congrArg (· ++ [j]) (took_copies s op h)), ?_, hreplies.trans (took_replies s op h), hmem.trans (took_mem s op h),
    hcsr.trans (took_csr s op h)⟩
  rw [houtstanding]
  exact ⟨_, List.mem_append_right _ (List.mem_singleton.mpr rfl), by simp [Outst.isFor]⟩

section

variable {s : Mach} {h : Hdr} {x : Ctx} {dst n : Nat}

/-- The copy that a MEM_FILL begins. -/
def fillJob (h : Hdr) (dst pattern n : Nat) : CopyJob :=
  { ctx := h.ctx, owner := .cmd h.lane h.tag Op.memFill, src := none, dst := dst, pattern := pattern, length := n, handles := none, slot := none,
    arrived := [], sent := false, failed := 0, moved := 0, prio := h.prio }

/-- The copy that a MEM_COPY without DECRYPT begins. -/
def plainJob (h : Hdr) (src dst n : Nat) : CopyJob :=
  { ctx := h.ctx, owner := .cmd h.lane h.tag Op.memCopy, src := some src, dst := dst, pattern := 0, length := n, handles := none, slot := none,
    arrived := [], sent := false, failed := 0, moved := 0, prio := h.prio }

theorem memFillBody_begins {pattern : Nat} (hx : s.ctx h.ctx = some x) (hn : 0 < n) (hn4 : n % 4 = 0) (hd4 : dst % 4 = 0) :
    memFillBody h dst pattern n s = (s.begin h Op.memFill).beginCopy x (fillJob h dst pattern n) := by
  rw [memFillBody, hx]
  exact if_neg (by omega)

/-- Without sealed frames no copy leaks (R551). -/
theorem leaks_unsealed (x : Ctx) (j : CopyJob) (hs : s.mem.sealed = []) : s.leaks x j = false := by
  have hat : s.sealedAt = fun _ => false := funext fun pa => by rw [Mach.sealedAt, hs]; rfl
  rw [Mach.leaks, hat]
  simp

theorem memCopyBody_begins {src : Nat} (hx : s.ctx h.ctx = some x) (hn : 0 < n) (hmax : n ≤ 2 ^ 48) (hdec : h.flags.testBit 4 = false)
    (hs : s.mem.sealed = []) : memCopyBody h src dst n 0 s = (s.begin h Op.memCopy).beginCopy x (plainJob h src dst n) := by
  have hlen : ¬ (n = 0 ∨ 2 ^ 48 < n) := by omega
  simp only [memCopyBody, hx, bitOf, hdec, leaks_unsealed x _ hs, Bool.false_eq_true, false_and, if_false, ne_eq, not_true_eq_false, and_false,
    or_false, hlen]
  rfl

end

/-! ### What a copy of bytes moves (R127, R594) -/

/-- The byte that a copy or a fill brings to a place of its destination. -/
def copiedByte (m : Mach) (x : Ctx) (j : CopyJob) (i : Nat) : Byte :=
  match j.src with
  | none => BitVec.ofNat 8 (bitsOf j.pattern (8 * ((j.dst + i) % 4)) 8)
  | some a => m.copyByte x j (a + i)

/-- What a copy writes: every byte of its destination. -/
def copiedBytes (m : Mach) (x : Ctx) (j : CopyJob) : List (Nat × Byte) := (List.range j.length).map (fun i => (j.dst + i, copiedByte m x j i))

theorem bytesOf_byte (a : Nat) : bytesOf (8 * a) 8 = [a] := by
  have hlo : 8 * a / 8 = a := by omega
  have hlen : (8 * a + 8 - 1) / 8 + 1 - a = 1 := by omega
  rw [bytesOf, hlo, hlen, List.range'_one]

section

variable {m : Mach} {x : Ctx} {j : CopyJob}

theorem mem_copiedBytes {y : Nat × Byte} : y ∈ copiedBytes m x j ↔ ∃ i < j.length, y = (j.dst + i, copiedByte m x j i) := by
  simp [copiedBytes, eq_comm]

/-- The byte write of one move. -/
theorem moveWrite_byte (i : Nat) : (if j.src.isNone then patternByte j.pattern 0 (8 * (j.dst + i) / 8)
    else bitsOf (leNat ((bytesOf (8 * (j.src.getD 0 + i)) 8).map (m.copyByte x j))) (8 * (j.src.getD 0 + i) % 8) 8) = (copiedByte m x j i).toNat := by
  have hva : 8 * (j.dst + i) / 8 = j.dst + i := by omega
  have hbit : ∀ a, 8 * a % 8 = 0 := Nat.mul_mod_right 8
  cases hs : j.src with
  | none => simp [copiedByte, hs, patternByte, hva, bitsOf]
  | some a =>
    simp only [copiedByte, hs, Option.isNone_some, Bool.false_eq_true, if_false, hbit, bytesOf_byte, List.map_singleton, leNat, Option.getD_some,
      Nat.mul_zero, Nat.add_zero]
    exact bitsOf_zero_lt (BitVec.isLt _)

theorem movesWrites_bytes (hh : j.handles = none) : m.movesWrites x j (x.moves j) = (copiedBytes m x j).map byteWrite := by
  simp only [Mach.movesWrites, Ctx.moves, hh, copiedBytes, List.map_map]
  refine List.map_congr_left fun i _ => ?_
  simp only [Function.comp_apply, byteWrite, BitWrite.mk.injEq, true_and]
  exact moveWrite_byte i

/-- Memory with what a copy writes stored. -/
def copied (m : Mach) (x : Ctx) (j : CopyJob) : Mach := m.writeRuns (mergedBytes m x (byteMap ((copiedBytes m x j).map byteWrite)))

/-- A byte of the destination that alone is mapped to its physical address takes the byte brought to it. -/
theorem readByte_copied_same {pa i : Nat} (hi : i < j.length) (hpa : x.phys (j.dst + i) = some pa)
    (hone : ∀ l < j.length, x.phys (j.dst + i) = x.phys (j.dst + l) → i = l) : (copied m x j).readByte pa = copiedByte m x j i := by
  refine readByte_byteWrites_one (mem_copiedBytes.mpr ⟨i, hi, rfl⟩) hpa fun z hz hzpa => ?_
  obtain ⟨l, hl, rfl⟩ := mem_copiedBytes.mp hz
  rw [hone l hl (hpa.trans hzpa.symm)]

theorem readByte_copied_other {pa : Nat} (h : ∀ i < j.length, x.phys (j.dst + i) ≠ some pa) : (copied m x j).readByte pa = m.readByte pa := by
  refine readByte_byteWrites_other fun y hy => ?_
  obtain ⟨i, hi, rfl⟩ := mem_copiedBytes.mp hy
  exact h i hi

theorem besideMemory_link {m q : Mach} (h : Mach.besideMemory q m) : q.swite = m.swite ∧ q.copies = m.copies := by
  unfold Mach.besideMemory at h
  rw [h]
  exact ⟨rfl, rfl⟩

/-- Storing a copy's bytes leaves the link and the list of copies. -/
theorem copied_link (m : Mach) (x : Ctx) (j : CopyJob) : (copied m x j).swite = m.swite ∧ (copied m x j).copies = m.copies :=
  besideMemory_link (writeRuns_frame ..)

theorem moves_length (hh : j.handles = none) : (x.moves j).length = j.length := by simp [Ctx.moves, hh]

theorem goodMoves_all (h : ∀ mv ∈ x.moves j, x.moveFault j mv = none) : x.goodMoves j = (x.moves j, none) := by
  have hall : (x.moves j).takeWhile (fun mv => (x.moveFault j mv).isNone) = x.moves j :=
    List.takeWhile_eq_self_iff.mpr fun mv hmv => by rw [h mv hmv]; rfl
  simp [Ctx.goodMoves, hall]

/-! ### How a copy of bytes ends -/

/-- A copy that has no transaction to wait for ends once its bytes are stored. -/
theorem storeCopy_ends {status detail moved : Nat} (hp : m.mem.poison = []) (ht : m.txnsOf j.txnOwner = 0)
    (hl : ∀ i < j.length, ∃ pa, x.phys (j.dst + i) = some pa ∧ isHost pa = false) :
    m.storeCopy x j ((copiedBytes m x j).map byteWrite) Ecc.clean status detail moved = (copied m x j).endCopy j status detail moved := by
  have hlocal : ∀ z ∈ byteMap ((copiedBytes m x j).map byteWrite), ∃ pa, x.phys z.1 = some pa ∧ isHost pa = false := fun z hz => by
    obtain ⟨-, y, hy, hzy, -⟩ := (byteMap_byteWrites _).1 z hz
    obtain ⟨i, hi, rfl⟩ := mem_copiedBytes.mp hy
    exact hzy ▸ hl i hi
  have ht' : (copied m x j).txnsOf j.txnOwner = 0 := by rwa [Mach.txnsOf, (copied_link m x j).1]
  rw [Mach.storeCopy, perform_local hp hlocal]
  exact if_pos ht'

/-- A copy without a fault and without bad words stores every byte and ends. -/
theorem plainCopy_ends (hh : j.handles = none) (hgood : ∀ mv ∈ x.moves j, x.moveFault j mv = none) (hp : m.mem.poison = [])
    (ht : m.txnsOf j.txnOwner = 0) (hl : ∀ i < j.length, ∃ pa, x.phys (j.dst + i) = some pa ∧ isHost pa = false) :
    m.plainCopy x j Ecc.clean = (copied m x j).endCopy j St.done 0 j.length := by
  have hbad : ∀ l : List Nat, m.badWords Ecc.clean l = [] := fun l => badWords_clean fun w _ => poisoned_none hp
  have hcheck : ∀ l : List Nat, m.checkWords srcSwite 0 Ecc.clean l = m := fun l => checkWords_clean _ _ fun w _ => poisoned_none hp
  have hok : ∀ f : Move → List Nat, (x.moves j).takeWhile (fun mv => (m.badWords Ecc.clean (f mv)).isEmpty) = x.moves j := fun f =>
    List.takeWhile_eq_self_iff.mpr fun mv _ => by rw [hbad]; rfl
  simp only [Mach.plainCopy, goodMoves_all hgood, hok, hcheck, movesWrites_bytes hh, moves_length hh, lt_irrefl, if_false, Option.getD_none]
  exact storeCopy_ends hp ht hl

/-- COPY_COMPLETE of a plain copy that has not failed and waits for no transaction. -/
theorem copyComplete_plain {k : Nat} {e : Ecc} (hk : m.copies[k]? = some j) (hx : m.ctx j.ctx = some x) (hslot : j.slot = none)
    (hsent : j.sent = false) (hfailed : j.failed = 0) (ht : m.txnsOf j.txnOwner = 0) : copyComplete k e m = m.plainCopy x j e := by
  simp only [copyComplete, hk, Mach.advanceCopy, ht, hsent, hfailed, hx, hslot, ne_eq, not_true_eq_false, if_false, Bool.false_eq_true]

/-- The end of a command's copy on the management lane: one reply, memory as the stores left it. -/
theorem endCopy_mgmt {tag op : Nat} (ho : j.owner = .cmd .mgmt tag op) (status detail moved : Nat) :
    (m.endCopy j status detail moved).mem = m.mem ∧ (m.endCopy j status detail moved).copies = m.copies.erase j ∧
    ∃ r, (m.endCopy j status detail moved).swite.replies = m.swite.replies ++ [r] ∧ r.status = status ∧ r.tag = tag ∧ r.opcode = op ∧
      r.data = leBytes moved 8 := by
  rw [Mach.endCopy, ho]
  exact ⟨Mach.send_mem .., Mach.send_copies .., _, send_replies (.inl rfl), rfl, rfl, rfl, rfl⟩

end

/-- A copied byte of a source in local memory, as the source was read before. -/
theorem copyByte_local {m : Mach} {x : Ctx} {j : CopyJob} {va pa : Nat} (h : x.phys va = some pa) (hl : isHost pa = false) :
    m.copyByte x j va = m.readVa x va := by
  simp only [Mach.copyByte, Mach.readVa, h, hl, Bool.false_eq_true, if_false]

/-- Settles O27: the moves are whole bytes at distinct physical addresses, so each is read back where it was put. -/
theorem copiesMoveBytes : Obligations.CopiesMoveBytes := by
  constructor
  · intro s h x src dst pattern n hx hn
    constructor
    · intro hb hn4 hd4
      have hbody := memFillBody_begins (pattern := pattern) ((took_ctx s.toMach Op.memFill h _).trans hx) hn hn4 hd4
      refine ⟨_, fillJob h dst pattern n, (command_begins s Op.memFill h _ _ hb).trans (by rw [hbody]), ?_⟩
      obtain ⟨hcopies, hrest⟩ := copy_listed s.toMach Op.memFill h x (fillJob h dst pattern n)
      exact ⟨hcopies, rfl, rfl, rfl, rfl, rfl, hrest⟩
    · intro hb hmax hdec hs
      have hbody := memCopyBody_begins (src := src) (dst := dst) ((took_ctx s.toMach Op.memCopy h _).trans hx) hn hmax hdec
        ((congrArg _ (took_mem ..)).trans hs)
      refine ⟨_, plainJob h src dst n, (command_begins s Op.memCopy h _ _ hb).trans (by rw [hbody]), ?_⟩
      obtain ⟨hcopies, hrest⟩ := copy_listed s.toMach Op.memCopy h x (plainJob h src dst n)
      exact ⟨hcopies, rfl, rfl, rfl, rfl, rfl, hrest⟩
  · intro s k j x tag op hk hx ho hh hslot hsent hfailed ht hp hgood hdst hone hsrc
    have hrun := (copyComplete_plain (e := Ecc.clean) hk hx hslot hsent hfailed ht).trans (plainCopy_ends hh hgood hp ht hdst)
    obtain ⟨hswite, hlisted⟩ := copied_link s.toMach x j
    obtain ⟨hmem, hcopies, r, hreplies, hstatus, htag, hopcode, hdata⟩ := endCopy_mgmt (m := copied s.toMach x j) ho St.done 0 j.length
    refine ⟨s.on ((copied s.toMach x j).endCopy j St.done 0 j.length), r, congrArg (fun q => Host.Outcome.next (s.on q)) hrun,
      hreplies.trans (by rw [hswite]), hstatus, htag, hopcode, hdata, hcopies.trans (by rw [hlisted]), fun i hi => ?_,
      fun pa hpa => (readByte_congr hmem pa).trans (readByte_copied_other hpa)⟩
    obtain ⟨pa, hpa, -⟩ := hdst i hi
    rw [Mach.readVa, hpa]
    refine (readByte_congr hmem pa).trans ((readByte_copied_same hi hpa (hone i hi)).trans ?_)
    cases hs : j.src with
    | none => rw [copiedByte, hs]
    | some a =>
      obtain ⟨q, hq, hl⟩ := hsrc a hs i hi
      rw [copiedByte, hs]
      exact copyByte_local hq hl

end Sys2Proof.Laws
end

section
namespace Sys2Proof.Laws

open Sys2Proof.Machine

/-!
# MEM_UNMAP and host-memory transactions (R219, R270, R575, R590)

A virtual address is mapped by the first run that holds it, and cutting an interval out of every run takes just the interval's addresses out of use.
-/

/-! ### The address a run gives (R262) -/

/-- The physical address that a run of pages gives a virtual address. -/
def runPhys (va : Nat) (r : MapRun) : Option Nat := if r.va ≤ va ∧ va < r.va + r.size then some (r.pa + (va - r.va)) else none

/-- A page's address and the offset in it add up to the run's address and the offset in the run. -/
theorem page_addr (pa base va page : Nat) (h : base ≤ va) :
    pa + (va - base) / page * page + (va - (base + (va - base) / page * page)) = pa + (va - base) := by
  have := Nat.div_mul_le_self (va - base) page
  omega

theorem phys_eq_findSome (x : Ctx) (va : Nat) : x.phys va = x.maps.findSome? (runPhys va) := by
  rw [Ctx.phys, Ctx.leaf]
  induction x.maps with
  | nil => rfl
  | cons r t ih =>
    by_cases h : r.va ≤ va ∧ va < r.va + r.size
    · simp [runPhys, h, Leaf.addr, page_addr r.pa r.va va r.page h.1]
    · have hf : (decide (r.va ≤ va) && decide (va < r.va + r.size)) = false := by simpa using h
      have hr : runPhys va r = none := if_neg h
      rw [List.find?_cons_of_neg (by simp [hf]), List.findSome?_cons, hr]
      exact ih

/-- The part of a run below an address. -/
theorem runPhys_below {r : MapRun} {va : Nat} (v : Nat) (h : va < r.va + r.size) :
    (if r.va < va then [{ r with size := va - r.va }] else []).findSome? (runPhys v) = if v < va then runPhys v r else none := by
  by_cases hlo : r.va < va
  · rw [if_pos hlo, List.findSome?_singleton]
    grind [runPhys]
  · rw [if_neg hlo, List.findSome?_nil]
    grind [runPhys]

/-- The part of a run from an address on. -/
theorem runPhys_above {r : MapRun} {last : Nat} (v : Nat) (h : r.va < last) :
    (if last < r.va + r.size then [{ r with va := last, size := r.va + r.size - last, pa := r.pa + (last - r.va) }] else []).findSome? (runPhys v) =
      if last ≤ v then runPhys v r else none := by
  by_cases hhi : last < r.va + r.size
  · rw [if_pos hhi, List.findSome?_singleton]
    grind [runPhys]
  · rw [if_neg hhi, List.findSome?_nil]
    grind [runPhys]

/-- An interval cut out of a run takes its addresses out of use and leaves the others where they were. -/
theorem runPhys_without (r : MapRun) (va size v : Nat) :
    (r.without va size).findSome? (runPhys v) = if va ≤ v ∧ v < va + size then none else runPhys v r := by
  unfold MapRun.without
  by_cases hm : r.va < va + size ∧ va < r.va + r.size
  · have hmeet : (!runsMeet r.va r.size va size) = false := by simpa [runsMeet] using hm
    rw [hmeet, if_neg Bool.false_ne_true, List.findSome?_append, runPhys_below v hm.2, runPhys_above v hm.1]
    grind
  · have hmeet : (!runsMeet r.va r.size va size) = true := by grind [runsMeet]
    rw [if_pos hmeet, List.findSome?_singleton]
    grind [runPhys]

/-- A context with an interval of whole pages out of use. -/
def unmapped (x : Ctx) (va size : Nat) : Ctx := { x with maps := x.maps.flatMap (fun r => r.without va size) }

/-- The addresses of a context after an interval is cut out of each of its runs. -/
theorem phys_unmapped (x : Ctx) (va size v : Nat) :
    (unmapped x va size).phys v = if va ≤ v ∧ v < va + size then none else x.phys v := by
  rw [phys_eq_findSome, phys_eq_findSome, unmapped]
  dsimp only
  induction x.maps with
  | nil => simp
  | cons r t ih =>
    rw [List.flatMap_cons, List.findSome?_append, ih, runPhys_without, List.findSome?_cons]
    split
    · rfl
    · cases runPhys v r with
      | none => rfl
      | some a => rfl

/-! ### The translation caches (R270) -/

/-- No translation cache of a range holds a page of a context in an interval. -/
def NoEntries (c va size : Nat) (r : RangeSt) : Prop :=
  ∀ e ∈ r.tlbCol ++ r.tlbTalus ++ r.tlbScree, e.ctx = c → runsMeet e.va e.size va size = false

theorem mem_dropEntries {c va size : Nat} {l : List TlbEntry} {e : TlbEntry} (h : e ∈ dropEntries c va size l) :
    e.ctx = c → runsMeet e.va e.size va size = false := by
  intro hc
  simpa [hc] using (List.mem_filter.mp h).2

theorem dropTlb_noEntries {m : Mach} (hlen : m.ranges.length = 16) (c va size : Nat) : ∀ n < 16, NoEntries c va size ((m.dropTlb c va size).range n) := by
  have h := each_establishes (l := List.range 16) (I := fun q => q.ranges.length = 16) (P := fun q n => NoEntries c va size (q.range n))
    (f := fun m n => m.updRange n (fun r => { r with tlbCol := dropEntries c va size r.tlbCol, tlbTalus := dropEntries c va size r.tlbTalus,
                                                     tlbScree := dropEntries c va size r.tlbScree }))
    (fun q n _ hq => by simpa [Mach.updRange, Mach.setRange] using hq)
    (fun q n hn hq e he => by
      rw [range_updRange_same (hq ▸ List.mem_range.mp hn)] at he
      rcases List.mem_append.mp he with he | he
      · exact (List.mem_append.mp he).elim mem_dropEntries mem_dropEntries
      · exact mem_dropEntries he)
    (fun q n _ k hk _ hP => by rwa [Mach.updRange, range_setRange_other q hk])
    m hlen
  exact fun n hn => h.2 n (List.mem_range.mpr hn)

/-- What the translation caches do not hold is left alone. -/
theorem dropTlb_kept (m : Mach) (c va size : Nat) : (m.dropTlb c va size).mem = m.mem ∧ (m.dropTlb c va size).csr = m.csr ∧
    (m.dropTlb c va size).ctxs = m.ctxs ∧ (m.dropTlb c va size).swite = m.swite :=
  ⟨each_field (g := Mach.mem) (fun _ _ => Mach.updRange_mem ..) m _, each_field (g := Mach.csr) (fun _ _ => Mach.updRange_csr ..) m _,
    each_field (g := Mach.ctxs) (fun _ _ => Mach.updRange_ctxs ..) m _, each_field (g := Mach.swite) (fun _ _ => Mach.updRange_swite ..) m _⟩

/-! ### MEM_UNMAP (R219, R270) -/

section

variable {m : Mach} {h : Hdr} {va size : Nat} {x : Ctx}

theorem memUnmapBody_badParam (hx : m.ctx h.ctx = some x) (hbad : size = 0 ∨ coversPages x.maps va size = false) :
    memUnmapBody h va size m = m.answer h Op.memUnmap St.badParam := by
  rw [memUnmapBody, hx]
  exact if_pos (hbad.imp_right (by simp))

variable (hx : m.ctx h.ctx = some x) (hs : size ≠ 0) (hc : coversPages x.maps va size = true)

include hx hs hc

theorem memUnmapBody_locked (hl : m.lockedIn h.ctx va size = true) : memUnmapBody h va size m = m.answer h Op.memUnmap St.busy := by
  simp only [memUnmapBody, hx, hs, hc, hl, Bool.not_true, Bool.false_eq_true, or_self, if_false, if_true]

/-- With no host-memory transaction outstanding the pages go at once. -/
theorem memUnmapBody_done (hl : m.lockedIn h.ctx va size = false) (ht : m.swite.txns = []) (hw : m.swite.txnWait = []) :
    memUnmapBody h va size m = ((m.updCtx h.ctx (unmapped · va size)).dropTlb h.ctx va size).answer h Op.memUnmap St.done := by
  have hidle : ∀ runs, ((m.updCtx h.ctx (unmapped · va size)).dropTlb h.ctx va size).txnIn runs = false := fun runs => by
    obtain ⟨-, -, -, hswite⟩ := dropTlb_kept (m.updCtx h.ctx (unmapped · va size)) h.ctx va size
    rw [Mach.txnIn, hswite, Mach.updCtx_swite, ht, hw]
    rfl
  simp only [memUnmapBody, hx, hs, hc, hl, Bool.not_true, Bool.false_eq_true, or_self, if_false]
  exact if_neg (ne_true_of_eq_false (hidle _))

end

theorem took_txns (m : Mach) (op : Nat) (h : Hdr) : (m.took op h).swite.txns = m.swite.txns ∧ (m.took op h).swite.txnWait = m.swite.txnWait := by
  obtain ⟨c, a, hq⟩ := took_eq m op h
  rw [hq]
  exact ⟨rfl, rfl⟩

theorem took_lockedIn (m : Mach) (op : Nat) (h : Hdr) (c va size : Nat) : (m.took op h).lockedIn c va size = m.lockedIn c va size := by
  rw [Mach.lockedIn, took_ranges, Mach.lockedIn]

/-! ### The end of a transaction (R575, R590) -/

section

variable {m : Mach} {x : HostTxn}

/-- The module with a transaction off the list. -/
def withoutTxn (m : Mach) (x : HostTxn) : Mach := { m with swite := { m.swite with txns := m.swite.txns.erase x } }

/-- With no transaction waiting, one that ends is only taken off the list. -/
theorem endTxn_idle (hw : m.swite.txnWait = []) : m.endTxn x = withoutTxn m x := by simp only [Mach.endTxn, hw, withoutTxn]

/-- With no MEM_UNMAP waiting there is none to settle. -/
theorem settleUnmaps_none (hu : m.mem.unmapping = []) : m.settleUnmaps = m := by
  have hmem : { m.mem with unmapping := [] } = m.mem := by rw [← hu]
  simp only [Mach.settleUnmaps, hu, List.filter_nil, List.foldl_nil, hmem]

/-! ### Copies changed by their transactions -/

/-- A copy of the owner is, after the change, a changed one. -/
theorem updCopies_owned {o : TxnOwner} {f : CopyJob → CopyJob} {j : CopyJob} (hj : j ∈ (m.updCopies o f).copies)
    (ho : j.txnOwner = o) : ∃ i, j = f i := by
  obtain ⟨i, -, rfl⟩ := List.mem_map.mp hj
  by_cases hi : i.txnOwner = o
  · exact ⟨i, if_pos hi⟩
  · rw [if_neg hi] at ho
    exact absurd ho hi

theorem updCopies_others {o : TxnOwner} {f : CopyJob → CopyJob} {j : CopyJob} (hj : j ∈ m.copies) (ho : j.txnOwner ≠ o) :
    j ∈ (m.updCopies o f).copies := List.mem_map.mpr ⟨j, hj, if_neg ho⟩

/-- A copy with a run of host bytes arrived. -/
def arriving (pa : Nat) (data : List Byte) (j : CopyJob) : CopyJob := { j with arrived := Sparse.putRun (fun _ => 0) j.arrived pa data }

theorem byteAt_arriving (pa : Nat) (data : List Byte) (j : CopyJob) {k : Nat} (hk : k < data.length) :
    byteAt (arriving pa data j).arrived (pa + k) = data.getD k 0 := by
  rw [byteAt, arriving, Sparse.get_putRun, if_pos ⟨Nat.le_add_right .., Nat.add_lt_add_left hk pa⟩, Nat.add_sub_cancel_left]

variable {c i : Nat}

/-- A completed read of a copy entry gives its bytes to the copies that wait for it. -/
theorem hostRead_entry (ho : x.owner = .entry c i) (hm : x.merge = []) (data : List Byte) :
    m.hostRead x data = (m.endTxn x).updCopies x.owner (arriving (x.addr + 2 ^ 47) data) := by
  rw [Mach.hostRead, if_neg (by simp [hm]), ho]
  rfl

theorem hostAck_entry (ho : x.owner = .entry c i) : m.hostAck x = m.endTxn x := by rw [Mach.hostAck, ho]

/-- The copies of a failed transaction's owner will end with INTERNAL (R590). -/
theorem failOwner_entry (ho : x.owner = .entry c i) : ∃ f, m.failOwner x = m.updCopies x.owner f ∧ ∀ j, (f j).failed = St.internal := by
  rw [Mach.failOwner, ho]
  exact ⟨_, rfl, fun _ => rfl⟩

/-- The registers that tell of a failed transaction (R590, R601). -/
def failCounted (m : Mach) : Mach := ((m.addF Reg.SWITE_HOST_ERRORS Fld.SWITE_HOST_ERRORS_COUNT 1).tally 303 2).trouble 7

theorem failCounted_count (m : Mach) : (failCounted m).rdF Reg.SWITE_HOST_ERRORS Fld.SWITE_HOST_ERRORS_COUNT =
    min (m.rdF Reg.SWITE_HOST_ERRORS Fld.SWITE_HOST_ERRORS_COUNT + 1) 0xFFFFFFFF := by
  rw [failCounted, Mach.rdF, Mach.rd_trouble, if_neg (by decide), Mach.rd_tally, ← Mach.rdF, Mach.addF, Mach.rdF_wrF_same _ _ _ _ (by decide), satAdd]
  exact Nat.mod_eq_of_lt (Nat.lt_succ_of_le (Nat.min_le_right ..))

theorem failCounted_summary (m : Mach) : ((failCounted m).rd Reg.MODULE_TROUBLE).getLsbD 7 = true := by
  rw [failCounted, Mach.rd_trouble, if_pos rfl, BitVec.getLsbD_or]
  exact Bool.or_eq_true_iff.mpr (.inr (by decide))

/-- What the failure of a copy entry's transaction leaves. -/
structure TxnFailed (m t : Mach) (x : HostTxn) : Prop where
  txns : t.swite.txns = m.swite.txns.erase x
  counted : t.rdF Reg.SWITE_HOST_ERRORS Fld.SWITE_HOST_ERRORS_COUNT = min (m.rdF Reg.SWITE_HOST_ERRORS Fld.SWITE_HOST_ERRORS_COUNT + 1) 0xFFFFFFFF
  summary : (t.rd Reg.MODULE_TROUBLE).getLsbD 7 = true
  failed : ∀ j ∈ t.copies, j.txnOwner = x.owner → j.failed = St.internal
  mem : t.mem = m.mem

theorem hostFail_entry (ho : x.owner = .entry c i) (hw : m.swite.txnWait = []) : TxnFailed m (m.hostFail x) x := by
  obtain ⟨f, hq, hfailed⟩ := failOwner_entry (m := (failCounted m).endTxn x) ho
  have hend : (failCounted m).endTxn x = withoutTxn (failCounted m) x := endTxn_idle hw
  have hfail : m.hostFail x = ((failCounted m).endTxn x).updCopies x.owner f := hq
  rw [hfail, hend]
  refine ⟨rfl, failCounted_count m, failCounted_summary m, fun j hj hjo => ?_, rfl⟩
  obtain ⟨k, rfl⟩ := updCopies_owned hj hjo
  exact hfailed k

variable {tag : Nat} (hx : m.swite.txns.find? (fun t => decide (t.tag = tag)) = some x)

include hx

theorem hostTxnCompletion_read {data : List Byte} (hr : x.write = false) (hl : data.length = x.data.length) :
    hostTxnCompletion tag (.completion data) m = (m.hostRead x data).settleUnmaps := by
  simp only [hostTxnCompletion, hx, hr, hl, Bool.not_false, and_self, if_true]

theorem hostTxnCompletion_ack (hr : x.write = true) : hostTxnCompletion tag .ack m = (m.hostAck x).settleUnmaps := by
  simp only [hostTxnCompletion, hx, hr, if_true]

theorem hostTxnCompletion_error : hostTxnCompletion tag .error m = (m.hostFail x).settleUnmaps := by simp only [hostTxnCompletion, hx]

theorem hostTxnTimeout_due (hd : x.since + 10000000 ≤ m.clk) : hostTxnTimeout tag m = (m.hostFail x).settleUnmaps := by
  simp only [hostTxnTimeout, hx]
  exact if_pos hd

theorem hostTxnTimeout_early (hd : m.clk < x.since + 10000000) : hostTxnTimeout tag m = m := by
  simp only [hostTxnTimeout, hx]
  exact if_neg (Nat.not_le.mpr hd)

end

theorem hostTxn_unknown {m : Mach} {tag : Nat} (hx : m.swite.txns.find? (fun t => decide (t.tag = tag)) = none) (r : TxnResult) :
    hostTxnCompletion tag r m = m ∧ hostTxnTimeout tag m = m := by
  simp only [hostTxnCompletion, hostTxnTimeout, hx, and_self]

/-- An event whose meaning is known answers that module. -/
theorem run_to {s : State} {f : Mach → Mach} {t : Mach} (h : f s.toMach = t) : s.run f = .next (s.on t) := by rw [State.run_eq, h]

/-- Settles O26: the first run that holds an address decides it, and the transaction of a copy entry touches the link and the copies alone. -/
theorem unmapAndHostTransactions : Obligations.UnmapAndHostTransactions := by
  constructor
  · intro s h va size x hb hx q
    have hrun : exec (.memUnmap h va size) s = .next (s.on (memUnmapBody h va size q)) := command_begins s Op.memUnmap h _ _ hb
    have hqx : q.ctx h.ctx = some x := (took_ctx s.toMach Op.memUnmap h _).trans hx
    refine ⟨fun hbad => hrun.trans (by rw [memUnmapBody_badParam hqx hbad]), fun hs hc hl => ?_, fun hs hc hl ht hw hshaped => ?_⟩
    · rw [hrun, memUnmapBody_locked hqx hs hc ((took_lockedIn ..).trans hl)]
    · obtain ⟨htxns, hwait⟩ := took_txns s.toMach Op.memUnmap h
      obtain ⟨hmem, hcsr, hctxs, -⟩ := dropTlb_kept (q.updCtx h.ctx (unmapped · va size)) h.ctx va size
      obtain ⟨-, hranges, -⟩ := (shaped_iff _).mp hshaped
      have hlen : (q.updCtx h.ctx (unmapped · va size)).ranges.length = 16 := by rwa [Mach.updCtx_ranges, took_ranges]
      refine ⟨_, unmapped x va size, hrun.trans (by rw [memUnmapBody_done hqx hs hc ((took_lockedIn ..).trans hl) (htxns.trans ht) (hwait.trans hw)]),
        ?_, fun v hlo hhi => ?_, fun v hv => ?_, dropTlb_noEntries hlen h.ctx va size, ?_, ?_⟩
      · rw [Mach.ctx, hctxs]
        exact ctx_updCtx_same hqx _
      · rw [phys_unmapped, if_pos ⟨hlo, hhi⟩]
      · rw [phys_unmapped, if_neg (by omega)]
      · exact hmem.trans ((Mach.updCtx_mem ..).trans (took_mem ..))
      · exact hcsr.trans ((Mach.updCtx_csr ..).trans (took_csr s.toMach Op.memUnmap h))
  · intro s x tag c i hx hm ho hw hu
    have hfails : TxnFailed s.toMach (s.hostFail x).settleUnmaps x := by
      have hf : TxnFailed s.toMach (s.hostFail x) x := hostFail_entry ho hw
      rwa [settleUnmaps_none ((congrArg _ hf.mem).trans hu)]
    refine ⟨fun data hr hl => ?_, fun hr => ?_, ⟨?_, fun hd => ?_, fun hd => ?_⟩, fun u r hnone => ?_⟩
    · have hq : hostTxnCompletion tag (.completion data) s.toMach = (withoutTxn s.toMach x).updCopies x.owner (arriving (x.addr + 2 ^ 47) data) := by
        rw [hostTxnCompletion_read hx hr hl, hostRead_entry ho hm, endTxn_idle hw]
        exact settleUnmaps_none hu
      refine ⟨_, run_to hq, rfl, rfl, rfl, fun j hj hjo k hk => ?_, fun j hj hjo => updCopies_others hj hjo⟩
      obtain ⟨j', rfl⟩ := updCopies_owned hj hjo
      exact byteAt_arriving _ _ _ hk
    · have hq : hostTxnCompletion tag .ack s.toMach = withoutTxn s.toMach x := by
        rw [hostTxnCompletion_ack hx hr, hostAck_entry ho, endTxn_idle hw]
        exact settleUnmaps_none hu
      exact ⟨_, run_to hq, rfl, rfl, rfl, rfl⟩
    · exact ⟨_, run_to (hostTxnCompletion_error hx), hfails.txns, hfails.counted, hfails.summary, hfails.failed, hfails.mem⟩
    · exact ⟨_, run_to (hostTxnTimeout_due hx hd), hfails.txns, hfails.counted, hfails.summary, hfails.failed, hfails.mem⟩
    · exact run_to (hostTxnTimeout_early hx hd)
    · obtain ⟨hcompletion, htimeout⟩ := hostTxn_unknown hnone r
      exact ⟨run_to hcompletion, run_to htimeout⟩

end Sys2Proof.Laws
end

section
namespace Sys2Proof.Laws

open Sys2Proof.Machine

/-!
# Waymark and the dumps of debug mode (R636 to R643)

An arm writes the position's registers of its ranges and a resume the state and `HALTED` of the halted ones, so with the registers and fields apart
each keeps what the other wrote; replies change the host's link alone.
-/

/-! ### The host's link -/

/-- Two modules that differ in the host's link and its session alone. -/
def LinkOnly (m q : Mach) : Prop := ∃ c l, q = { m with cairn := c, swite := l }

section

variable {m q : Mach}

theorem LinkOnly.refl (m : Mach) : LinkOnly m m := ⟨m.cairn, m.swite, rfl⟩

theorem LinkOnly.trans {r : Mach} (h : LinkOnly m q) (g : LinkOnly q r) : LinkOnly m r := by
  obtain ⟨c, l, rfl⟩ := h
  obtain ⟨d, k, rfl⟩ := g
  exact ⟨d, k, rfl⟩

/-- What does not look at the link reads the same. -/
theorem LinkOnly.field {β : Type} {g : Mach → β} (hg : ∀ m c l, g { m with cairn := c, swite := l } = g m) (h : LinkOnly m q) : g q = g m := by
  obtain ⟨c, l, rfl⟩ := h
  exact hg m c l

theorem took_linkOnly (m : Mach) (op : Nat) (h : Hdr) : LinkOnly m (m.took op h) := by
  obtain ⟨c, a, hq⟩ := took_eq m op h
  exact ⟨c, _, hq⟩

theorem countPacket_linkOnly (m : Mach) (lane : Lane) (out : Bool) : LinkOnly m (m.countPacket lane out) := by
  unfold Mach.countPacket
  split
  · exact .refl m
  · split
    · exact ⟨_, m.swite, rfl⟩
    · exact .refl m

theorem send_linkOnly (m : Mach) (r : Reply) : LinkOnly m (m.send r) := by
  unfold Mach.send
  split
  · exact ⟨m.cairn, _, rfl⟩
  · split
    · exact .trans ⟨m.cairn, _, rfl⟩ (countPacket_linkOnly ..)
    · exact ⟨m.cairn, _, rfl⟩

theorem finish_linkOnly (m : Mach) (lane : Lane) (ctx tag op status detail : Nat) (data : List Byte) :
    LinkOnly m (m.finish lane ctx tag op status detail data) :=
  .trans ⟨m.cairn, _, rfl⟩ (send_linkOnly ..)

end

/-- The replies that a module has sent, and those that it holds while the data link is down (R572). -/
abbrev told (m : Mach) : List Reply := m.swite.replies ++ m.swite.held

theorem mem_told_send {m : Mach} {r x : Reply} : x ∈ told (m.send r) ↔ x ∈ told m ∨ x = r := by
  rcases Mach.send_where m r with ⟨hr, hh⟩ | ⟨hr, hh⟩
  · simp only [hr, hh, List.mem_append, List.mem_singleton, or_right_comm]
  · simp only [hr, hh, List.mem_append, List.mem_singleton, or_assoc]

theorem answer_replied (m : Mach) (h : Hdr) (op status detail : Nat) (data : List Byte) :
    (m.answer h op status detail data).replied op h.ctx h.tag status :=
  ⟨_, mem_told_send.mpr (.inr rfl), rfl, rfl, rfl, rfl, rfl⟩

/-- What each visit of a fold establishes about its element and the other visits keep holds of every element at the end. -/
theorem foldl_establishes {α β : Type} {P : β → α → Prop} {f : β → α → β} (here : ∀ b a, P (f b a) a) (keeps : ∀ b a c, P b c → P (f b a) c)
    (l : List α) (b : β) : ∀ a ∈ l, P (l.foldl f b) a := by
  induction l generalizing b with
  | nil => exact fun a ha => absurd ha List.not_mem_nil
  | cons a t ih => exact List.forall_mem_cons.mpr ⟨foldl_keeps (fun b => P b a) f (fun b c => keeps b c a) t _ (here b a), ih _⟩

/-! ### The registers of a position (R646) -/

theorem position_ne_hi (n k : Nat) : Reg.WAYMARK_POSITION n ≠ Reg.WAYMARK_POSITION_HI k := by
  unfold Reg.WAYMARK_POSITION Reg.WAYMARK_POSITION_HI
  omega

theorem position_ne {n k : Nat} (h : k ≠ n) : Reg.WAYMARK_POSITION k ≠ Reg.WAYMARK_POSITION n := by
  unfold Reg.WAYMARK_POSITION
  omega

theorem hi_ne {n k : Nat} (h : k ≠ n) : Reg.WAYMARK_POSITION_HI k ≠ Reg.WAYMARK_POSITION_HI n := by
  unfold Reg.WAYMARK_POSITION_HI
  omega

theorem status_ne_hi (n k : Nat) : Reg.RANGE_STREAM_STATUS n ≠ Reg.WAYMARK_POSITION_HI k := by
  unfold Reg.RANGE_STREAM_STATUS Reg.WAYMARK_POSITION_HI
  omega

theorem position_ne_status {n : Nat} (hn : n < 16) (k : Nat) : Reg.WAYMARK_POSITION n ≠ Reg.RANGE_STREAM_STATUS k := by
  unfold Reg.RANGE_STREAM_STATUS Reg.WAYMARK_POSITION
  omega

theorem status_ne {n k : Nat} (h : k ≠ n) : Reg.RANGE_STREAM_STATUS k ≠ Reg.RANGE_STREAM_STATUS n := by
  unfold Reg.RANGE_STREAM_STATUS
  omega

/-- A position is armed on a range. -/
def ArmedAt (instr pass rep : Nat) (m : Mach) (n : Nat) : Prop :=
  m.rdF (Reg.WAYMARK_POSITION n) Fld.WAYMARK_POSITION_INSTR_INDEX = instr ∧ m.rdF (Reg.WAYMARK_POSITION n) Fld.WAYMARK_POSITION_REPEAT_INDEX = rep ∧
    m.rdF (Reg.WAYMARK_POSITION_HI n) Fld.WAYMARK_POSITION_HI_PASS = pass ∧ m.rdF (Reg.WAYMARK_POSITION_HI n) Fld.WAYMARK_POSITION_HI_ARMED = 1

/-- No position is armed on a range. -/
abbrev Unarmed (m : Mach) (n : Nat) : Prop := m.rdF (Reg.WAYMARK_POSITION_HI n) Fld.WAYMARK_POSITION_HI_ARMED = 0

section

variable {m q : Mach} {instr pass rep n : Nat}

theorem ArmedAt.of_rd (h : ArmedAt instr pass rep m n) (hlo : q.rd (Reg.WAYMARK_POSITION n) = m.rd (Reg.WAYMARK_POSITION n))
    (hhi : q.rd (Reg.WAYMARK_POSITION_HI n) = m.rd (Reg.WAYMARK_POSITION_HI n)) : ArmedAt instr pass rep q n := by
  simp only [ArmedAt, Mach.rdF, hlo, hhi]
  exact h

/-- The position's registers written on one range. -/
abbrev markRange (instr pass rep : Nat) (m : Mach) (n : Nat) : Mach :=
  (((m.wrF (Reg.WAYMARK_POSITION n) Fld.WAYMARK_POSITION_INSTR_INDEX instr).wrF (Reg.WAYMARK_POSITION n) Fld.WAYMARK_POSITION_REPEAT_INDEX rep).wrF
    (Reg.WAYMARK_POSITION_HI n) Fld.WAYMARK_POSITION_HI_PASS pass).wrF (Reg.WAYMARK_POSITION_HI n) Fld.WAYMARK_POSITION_HI_ARMED 1

theorem rd_markRange_other {a : Nat} (hlo : a ≠ Reg.WAYMARK_POSITION n) (hhi : a ≠ Reg.WAYMARK_POSITION_HI n) :
    (markRange instr pass rep m n).rd a = m.rd a := by
  simp only [Mach.rd_wrF_other _ _ _ _ _ hhi, Mach.rd_wrF_other _ _ _ _ _ hlo]

theorem markRange_armed (hi : instr < 65536) (hp : pass < 65536) (hr : rep < 65536) : ArmedAt instr pass rep (markRange instr pass rep m n) n := by
  have hlo : ∀ f, (markRange instr pass rep m n).rdF (Reg.WAYMARK_POSITION n) f =
      ((m.wrF (Reg.WAYMARK_POSITION n) Fld.WAYMARK_POSITION_INSTR_INDEX instr).wrF (Reg.WAYMARK_POSITION n)
        Fld.WAYMARK_POSITION_REPEAT_INDEX rep).rdF (Reg.WAYMARK_POSITION n) f := fun f => by
    rw [Mach.rdF, Mach.rd_wrF_other _ _ _ _ _ (position_ne_hi n n), Mach.rd_wrF_other _ _ _ _ _ (position_ne_hi n n), Mach.rdF]
  refine ⟨?_, ?_, ?_, Mach.rdF_wrF_same _ _ _ _ (by decide)⟩
  · rw [hlo, Mach.rdF_wrF_other _ _ _ _ _ _ (by decide) (by decide) (.inr (by decide)), Mach.rdF_wrF_same _ _ _ _ (by decide)]
    exact Nat.mod_eq_of_lt hi
  · rw [hlo, Mach.rdF_wrF_same _ _ _ _ (by decide)]
    exact Nat.mod_eq_of_lt hr
  · rw [Mach.rdF_wrF_other _ _ _ _ _ _ (by decide) (by decide) (.inr (by decide)), Mach.rdF_wrF_same _ _ _ _ (by decide)]
    exact Nat.mod_eq_of_lt hp

theorem setMark_armed (mask : Nat) (hi : instr < 65536) (hp : pass < 65536) (hr : rep < 65536) :
    ∀ n ∈ maskBits mask 16, ArmedAt instr pass rep (m.setMark mask instr pass rep) n :=
  (each_establishes (I := fun _ => True) (P := ArmedAt instr pass rep) (fun _ _ _ _ => trivial) (fun _ _ _ _ => markRange_armed hi hp hr)
    (fun _ _ _ _ hk _ h => h.of_rd (rd_markRange_other (position_ne hk) (position_ne_hi _ _))
      (rd_markRange_other (position_ne_hi _ _).symm (hi_ne hk))) m trivial).2

theorem RegsOnly.setMark {mask : Nat} (h : RegsOnly m q) : RegsOnly m (q.setMark mask instr pass rep) :=
  h.each (fun _ _ hr => hr.wrF.wrF.wrF.wrF) _

theorem RegsOnly.disarmRanges {mask : Nat} (h : RegsOnly m q) : RegsOnly m (q.disarmRanges mask) := h.each (fun _ _ hr => hr.wrF) _

theorem RegsOnly.arms (h : RegsOnly m q) : q.arms = m.arms := by
  obtain ⟨c, rfl⟩ := h
  rfl

theorem position_low (hn : n < 16) : Reg.WAYMARK_POSITION n < 0x01000000 := by
  unfold Reg.WAYMARK_POSITION
  omega

theorem Within.setMark {K : Nat → Prop} {mask : Nat} (h : Within K m q) : Within K m (q.setMark mask instr pass rep) :=
  h.each fun _ k hk hr => by
    have hk : k < 16 := (mem_maskBits.mp hk).1
    exact (((hr.wrFLow (position_low hk)).wrFLow (position_low hk)).wrFLow (waymark_low hk)).wrFLow (waymark_low hk)

theorem disarmRanges_unarmed (m : Mach) (mask : Nat) : ∀ n ∈ maskBits mask 16, Unarmed (m.disarmRanges mask) n :=
  (each_establishes (I := fun _ => True) (P := Unarmed) (fun _ _ _ _ => trivial) (fun _ _ _ _ => Mach.rdF_wrF_same _ _ _ _ (by decide))
    (fun _ _ _ _ hk _ h => (Mach.rdF_wrF_other _ _ _ _ _ _ (by decide) (by decide) (.inl (hi_ne hk))).trans h) m trivial).2

/-- The state of a range is in none of the registers that an operation beside the ranges writes. -/
theorem Within.halted (h : Within noRange m q) (n : Nat) : q.halted n = m.halted n := by
  rw [Mach.halted, Mach.rangeState, Mach.rdF, h.rd_inRange id, Mach.halted, Mach.rangeState, Mach.rdF]

end

/-! ### The refusals of WAYMARK_SET (R637, R684) -/

section

variable {m : Mach} {h : Hdr} {mask instr pass rep st : Nat}

theorem waymarkRefusal_zero (m : Mach) (c : Nat) : m.waymarkRefusal c 0 = some St.badParam := rfl

theorem waymarkRefusal_foreign {c : Nat} (h0 : mask ≠ 0) (ho : m.ownsAll c mask = false) : m.waymarkRefusal c mask = some St.notPermitted := by
  simp [Mach.waymarkRefusal, h0, ho]

theorem waymarkRefusal_none {c : Nat} (h0 : mask ≠ 0) (ho : m.ownsAll c mask = true) : m.waymarkRefusal c mask = none := by
  simp [Mach.waymarkRefusal, h0, ho]

theorem waymarkRefusal_mine {op c : Nat} (hm : mask ≠ 0 ∧ m.ownsAll c mask = true) : (m.took op h).waymarkRefusal c mask = none := by
  obtain ⟨h0, ho⟩ := hm
  exact waymarkRefusal_none h0 ((took_ownsAll ..).trans ho)

theorem armBody_refused (hr : m.waymarkRefusal h.ctx mask = some st) : armBody h mask instr pass rep m = m.answer h Op.waymarkSet st := by
  simp only [armBody, hr]

theorem resumeBody_refused (hr : m.waymarkRefusal h.ctx mask = some st) : resumeBody h mask instr pass rep m = m.answer h Op.waymarkSet st := by
  simp only [resumeBody, hr]

theorem disarmBody_refused (hr : m.waymarkRefusal h.ctx mask = some st) : disarmBody h mask m = m.answer h Op.waymarkSet st := by
  simp only [disarmBody, hr]

/-! ### Arm (R637, R640) -/

/-- A range of the mask runs a lockstep stream. -/
abbrev RunsLockstep (m : Mach) (mask : Nat) : Prop := ∃ n ∈ maskBits mask 16, ∃ x, m.streamOn n = some x ∧ x.lockstep = true

theorem any_lockstep : (maskBits mask 16).any (fun n => (m.streamOn n).elim false (fun s => s.lockstep)) = true ↔ RunsLockstep m mask := by
  have hone : ∀ o : Option Machine.Stream, o.elim false (fun s => s.lockstep) = true ↔ ∃ x, o = some x ∧ x.lockstep = true := fun o => by
    cases o <;> simp
  simp only [List.any_eq_true, hone]

theorem armBody_lockstep (hr : m.waymarkRefusal h.ctx mask = none) (hl : RunsLockstep m mask) :
    armBody h mask instr pass rep m = m.answer h Op.waymarkSet St.badParam := by
  simp only [armBody, hr, any_lockstep.mpr hl, if_true]

theorem armBody_unlocked (hr : m.waymarkRefusal h.ctx mask = none) (hl : ¬ RunsLockstep m mask) : armBody h mask instr pass rep m =
    if (maskBits mask 16).any m.halted then m.answer h Op.waymarkSet St.busy else m.armFor h mask instr pass rep := by
  simp only [armBody, hr, if_neg (mt any_lockstep.mp hl)]

theorem armBody_busy (hr : m.waymarkRefusal h.ctx mask = none) (hl : ¬ RunsLockstep m mask) (hh : ∃ n ∈ maskBits mask 16, m.halted n = true) :
    armBody h mask instr pass rep m = m.answer h Op.waymarkSet St.busy := by
  rw [armBody_unlocked hr hl, if_pos (List.any_eq_true.mpr hh)]

theorem armBody_arms (hr : m.waymarkRefusal h.ctx mask = none) (hl : ¬ RunsLockstep m mask) (hh : ∀ n ∈ maskBits mask 16, m.halted n = false) :
    armBody h mask instr pass rep m = m.armFor h mask instr pass rep := by
  rw [armBody_unlocked hr hl, if_neg (by simpa using hh)]

theorem took_halted (m : Mach) (op : Nat) (h : Hdr) (n : Nat) : (m.took op h).halted n = m.halted n :=
  (took_linkOnly ..).field (g := (Mach.halted · n)) fun _ _ _ => rfl

theorem took_runsLockstep (m : Mach) (op : Nat) (h : Hdr) (mask : Nat) : RunsLockstep (m.took op h) mask ↔ RunsLockstep m mask :=
  ((took_linkOnly ..).field (g := (RunsLockstep · mask)) fun _ _ _ => rfl).to_iff

/-- The arm that a command leaves waiting. -/
abbrev armEntry (m : Mach) (h : Hdr) (mask : Nat) : ArmSt := { lane := h.lane, ctx := h.ctx, tag := h.tag, mask := mask, ranges := m.armRanges mask }

/-- What an arm that waits for its halt leaves. -/
structure Armed (m t : Mach) (h : Hdr) (mask instr pass rep : Nat) : Prop where
  arms : t.arms = m.arms ++ [armEntry m h mask]
  marked : ∀ n ∈ maskBits (m.armRanges mask) 16, ArmedAt instr pass rep t n
  replies : t.swite.replies = m.swite.replies
  mem : t.mem = m.mem
  ranges : t.ranges = m.ranges
  within : Within noRange m t

/-- A packet taken up leaves what an arm is to change as it was. -/
theorem Armed.of_took {t : Mach} {op : Nat} (ha : Armed (m.took op h) t h mask instr pass rep) : Armed m t h mask instr pass rep := by
  have hreplies := took_replies m op h
  obtain ⟨c, l, hq⟩ := took_linkOnly m op h
  rw [hq] at ha hreplies
  have hwithin : Within noRange m { m with cairn := c, swite := l } := (Within.refl _ m).same
  exact ⟨ha.arms, ha.marked, ha.replies.trans hreplies, ha.mem, ha.ranges, hwithin.trans ha.within⟩

theorem armFor_armed (hi : instr < 65536) (hp : pass < 65536) (hr : rep < 65536) : Armed m (m.armFor h mask instr pass rep) h mask instr pass rep := by
  have hregs : RegsOnly { m with arms := m.arms ++ [armEntry m h mask] }
      (({ m with arms := m.arms ++ [armEntry m h mask] } : Mach).setMark (m.armRanges mask) instr pass rep) := (RegsOnly.refl _).setMark
  have hwithin : Within noRange m { m with arms := m.arms ++ [armEntry m h mask] } := (Within.refl _ m).same
  exact ⟨hregs.arms, setMark_armed _ hi hp hr, congrArg (·.replies) hregs.swite, hregs.mem, hregs.ranges, hwithin.setMark.same⟩

end

/-! ### Halted ranges go on (R637, R639) -/

section

variable {m : Mach} {n k : Nat}

/-- The registers of a halted range that runs again. -/
abbrev shownRunning (m : Mach) (n : Nat) : Mach := (m.setRangeState n 2).wrF (Reg.WAYMARK_POSITION_HI n) Fld.WAYMARK_POSITION_HI_HALTED 0

/-- A halted range let go. -/
abbrev released (m : Mach) (n : Nat) : Mach := (shownRunning m n).updRange n (fun r => { r with halted := false })

theorem goOn_halted (h : m.halted n = true) : m.goOn n = ((released m n).progress n).settle n := if_pos h

theorem goOn_running (h : m.halted n = false) : m.goOn n = m.settle n := if_neg (ne_true_of_eq_false h)

theorem settle_field {β : Type} {g : Mach → β} (hg : ∀ (q : Mach) r, g (q.setRange n r) = g q) (m : Mach) : g (m.settle n) = g m := by
  rcases settle_cases m n with hs | ⟨f, hs⟩
  · rw [hs]
  · rw [hs]
    exact hg ..

theorem progress_field {β : Type} {g : Mach → β} (hg : ∀ (q : Mach) l, g { q with streams := l } = g q) (m : Mach) : g (m.progress n) = g m := by
  rcases progress_cases m n with hp | ⟨l, hp⟩
  · rw [hp]
  · rw [hp]
    exact hg ..

/-- A range's change keeps of every range what it keeps of its own. -/
theorem range_updRange_field {β : Type} {g : RangeSt → β} {f : RangeSt → RangeSt} (hf : ∀ r, g (f r) = g r) (m : Mach) (n k : Nat) :
    g ((m.updRange n f).range k) = g (m.range k) := by
  by_cases hk : k = n
  · subst hk
    by_cases hn : k < m.ranges.length
    · rw [range_updRange_same hn, hf]
    · rw [Mach.updRange, Mach.setRange, List.set_eq_of_length_le (Nat.not_lt.mp hn)]
  · rw [Mach.updRange, range_setRange_other m hk]

/-- A fence that is satisfied leaves its range halted or running. -/
theorem settle_halted (m : Mach) (n k : Nat) : ((m.settle n).range k).halted = (m.range k).halted := by
  unfold Mach.settle
  split
  · rfl
  · split
    · refine range_updRange_field (g := RangeSt.halted) ?_ m n k
      exact fun _ => rfl
    · rfl

/-- What going on leaves alone: the link, memory, the arms and how many ranges there are. -/
theorem goOn_field {β : Type} {g : Mach → β} (hregs : ∀ q c, g { q with csr := c } = g q) (hrange : ∀ (q : Mach) n r, g (q.setRange n r) = g q)
    (hstreams : ∀ q l, g { q with streams := l } = g q) (m : Mach) (n : Nat) : g (m.goOn n) = g m := by
  cases h : m.halted n with
  | true =>
    rw [goOn_halted h, settle_field (fun q r => hrange q n r), progress_field hstreams, released, Mach.updRange, hrange]
    exact (hregs ..).trans (hregs ..)
  | false => rw [goOn_running h, settle_field (fun q r => hrange q n r)]

/-- The registers after a range has gone on: those of the range let go, or, where it was not halted, the same. -/
theorem goOn_csr (m : Mach) (n : Nat) : (m.goOn n).csr = (shownRunning m n).csr ∨ (m.goOn n).csr = m.csr := by
  cases h : m.halted n with
  | true => exact .inl (by rw [goOn_halted h, settle_csr, progress_csr, Mach.updRange_csr])
  | false => exact .inr (by rw [goOn_running h, settle_csr])

theorem rd_goOn_other {a : Nat} (hs : a ≠ Reg.RANGE_STREAM_STATUS n) (hw : a ≠ Reg.WAYMARK_POSITION_HI n) : (m.goOn n).rd a = m.rd a := by
  rcases goOn_csr m n with h | h
  · exact (Mach.rd_congr _ _ a h).trans ((Mach.rd_wrF_other _ _ _ _ _ hw).trans (Mach.rd_wrF_other _ _ _ _ _ hs))
  · exact Mach.rd_congr _ _ a h

/-- Going on changes no field of a position but `HALTED`. -/
theorem rdF_goOn_hi {f : Fld} (hf : f.lo + f.width ≤ 32) (ha : Apart Fld.WAYMARK_POSITION_HI_HALTED f) :
    (m.goOn n).rdF (Reg.WAYMARK_POSITION_HI k) f = m.rdF (Reg.WAYMARK_POSITION_HI k) f := by
  rcases goOn_csr m n with h | h
  · rw [Mach.rdF_congr _ _ _ f h, Mach.rdF_wrF_other _ _ _ _ _ _ (by decide) hf (.inr ha), Mach.setRangeState,
      Mach.rdF_wrF_other _ _ _ _ _ _ (by decide) hf (.inl (status_ne_hi n k).symm)]
  · exact Mach.rdF_congr _ _ _ f h

theorem ArmedAt.goOn {instr pass rep : Nat} (hk : k < 16) (h : ArmedAt instr pass rep m k) (n : Nat) : ArmedAt instr pass rep (m.goOn n) k := by
  obtain ⟨hinstr, hrep, hpass, harmed⟩ := h
  have hlo : (m.goOn n).rd (Reg.WAYMARK_POSITION k) = m.rd (Reg.WAYMARK_POSITION k) := rd_goOn_other (position_ne_status hk n) (position_ne_hi k n)
  exact ⟨(congrArg (Word.getF · _) hlo).trans hinstr, (congrArg (Word.getF · _) hlo).trans hrep,
    (rdF_goOn_hi (by decide) (by decide)).trans hpass, (rdF_goOn_hi (by decide) (by decide)).trans harmed⟩

/-- A range that was halted runs. -/
def Goes (m : Mach) (n : Nat) : Prop :=
  m.rangeState n = 2 ∧ (m.range n).halted = false ∧ m.rdF (Reg.WAYMARK_POSITION_HI n) Fld.WAYMARK_POSITION_HI_HALTED = 0

theorem Goes.running (h : Goes m n) : m.halted n = false := by
  rw [Mach.halted, h.1]
  rfl

theorem Goes.of_csr {q : Mach} (h : Goes m n) (hcsr : q.csr = m.csr) (hr : (q.range n).halted = (m.range n).halted) : Goes q n := by
  obtain ⟨hstate, hhalted, hhi⟩ := h
  exact ⟨(Mach.rdF_congr _ _ _ _ hcsr).trans hstate, hr.trans hhalted, (Mach.rdF_congr _ _ _ _ hcsr).trans hhi⟩

theorem goOn_aside (m : Mach) (n : Nat) : Aside n m (m.goOn n) := by
  cases h : m.halted n with
  | true =>
    rw [goOn_halted h]
    exact ((Aside.refl n m).wrF.wrF : Aside n m ((m.setRangeState n 2).wrF _ _ 0)).updRange.progress.settle
  | false =>
    rw [goOn_running h]
    exact (Aside.refl n m).settle

theorem goOn_goes (hn : n < m.ranges.length) (h : m.halted n = true) : Goes (m.goOn n) n := by
  have hr : Goes (released m n) n := by
    have hcsr : (released m n).csr = (shownRunning m n).csr := Mach.updRange_csr ..
    refine ⟨?_, by rw [released, range_updRange_same (m := shownRunning m n) hn], ?_⟩
    · rw [Mach.rangeState, Mach.rdF_congr _ _ _ _ hcsr, Mach.rdF_wrF_other _ _ _ _ _ _ (by decide) (by decide) (.inl (status_ne_hi n n))]
      exact Mach.rdF_wrF_same _ _ _ _ (by decide)
    · rw [Mach.rdF_congr _ _ _ _ hcsr]
      exact Mach.rdF_wrF_same _ _ _ _ (by decide)
  rw [goOn_halted h]
  refine hr.of_csr ((settle_csr _ n).trans (progress_csr _ n)) ((settle_halted ..).trans ?_)
  rw [Mach.range, progress_ranges, ← Mach.range]

theorem Goes.goOn (h : Goes m k) (n : Nat) : Goes (m.goOn n) k := by
  by_cases hk : k = n
  · subst hk
    rw [goOn_running h.running]
    exact h.of_csr (settle_csr ..) (settle_halted ..)
  · obtain ⟨hstate, hhalted, hhi⟩ := h
    refine ⟨?_, ?_, ?_⟩
    · exact (congrArg (Word.getF · _) (rd_goOn_other (status_ne hk) (status_ne_hi k n))).trans hstate
    · rw [(goOn_aside m n).range k hk]
      exact hhalted
    · exact (congrArg (Word.getF · _) (rd_goOn_other (status_ne_hi n k).symm (hi_ne hk))).trans hhi

theorem halted_goOn_other (hk : k ≠ n) : (m.goOn n).halted k = m.halted k := by
  have hrd : (m.goOn n).rd (Reg.RANGE_STREAM_STATUS k) = m.rd (Reg.RANGE_STREAM_STATUS k) := rd_goOn_other (status_ne hk) (status_ne_hi k n)
  rw [Mach.halted, Mach.rangeState, Mach.rdF, hrd, Mach.halted, Mach.rangeState, Mach.rdF]

/-- Every range of a list goes on. -/
theorem eachGoOn_goes {l : List Nat} (hl : ∀ n ∈ l, n < m.ranges.length) : ∀ n ∈ l, m.halted n = true → Goes (m.each l Mach.goOn) n := by
  refine (each_establishes (I := fun q => q.ranges.length = m.ranges.length ∧ ∀ k, m.halted k = true → q.halted k = true ∨ Goes q k)
    (P := fun q k => m.halted k = true → Goes q k) (fun q n hn ⟨hlen, hq⟩ => ⟨?_, fun k hk => ?_⟩) (fun q n hn ⟨hlen, hq⟩ hk => ?_)
    (fun q n _ k _ _ hP hk => (hP hk).goOn n) m ⟨rfl, fun k hk => .inl hk⟩).2
  · exact (goOn_field (g := fun q => q.ranges.length) (fun _ _ => rfl) (fun _ _ _ => List.length_set) (fun _ _ => rfl) q n).trans hlen
  · rcases hq k hk with h | h
    · by_cases hkn : k = n
      · subst hkn
        exact .inr (goOn_goes (hlen.symm ▸ hl k hn) h)
      · exact .inl ((halted_goOn_other hkn).trans h)
    · exact .inr (h.goOn n)
  · exact (hq n hk).elim (goOn_goes (hlen.symm ▸ hl n hn)) fun h => h.goOn n

theorem eachGoOn_armed {l : List Nat} {instr pass rep : Nat} (hk : k < 16) (h : ArmedAt instr pass rep m k) :
    ArmedAt instr pass rep (m.each l Mach.goOn) k :=
  foldl_keeps (fun q => ArmedAt instr pass rep q k) Mach.goOn (fun _ n hq => hq.goOn hk n) l m h

end

/-! ### Resume (R637) -/

section

variable {m : Mach} {h : Hdr} {mask instr pass rep : Nat}

theorem resumeBody_busy (hr : m.waymarkRefusal h.ctx mask = none) (hh : ∃ n ∈ maskBits mask 16, m.halted n = false) :
    resumeBody h mask instr pass rep m = m.answer h Op.waymarkSet St.busy := by
  have hall : (maskBits mask 16).all m.halted = false := List.all_eq_false.mpr (by simpa using hh)
  simp only [resumeBody, hr, hall, Bool.not_false, if_true]

/-- A resume before its ranges go on: their positions are disarmed, and it answers or arms the next one. -/
def resumed (h : Hdr) (mask instr pass rep : Nat) (m : Mach) : Mach :=
  if instr = 0xFFFF then (m.disarmRanges (m.armRanges mask)).answer h Op.waymarkSet St.done
  else (m.disarmRanges (m.armRanges mask)).armFor h mask instr pass rep

theorem resumeBody_goes (hr : m.waymarkRefusal h.ctx mask = none) (hh : ∀ n ∈ maskBits mask 16, m.halted n = true) :
    resumeBody h mask instr pass rep m = (resumed h mask instr pass rep m).each (maskBits (m.armRanges mask) 16) Mach.goOn := by
  have hall : (maskBits mask 16).all m.halted = true := List.all_eq_true.mpr hh
  simp only [resumeBody, hr, hall, Bool.not_true, Bool.false_eq_true, if_false, resumed]

theorem resumed_end (h : Hdr) (mask pass rep : Nat) (m : Mach) :
    resumed h mask 0xFFFF pass rep m = (m.disarmRanges (m.armRanges mask)).answer h Op.waymarkSet St.done := if_pos rfl

theorem disarmRanges_armRanges (m : Mach) (ranges mask : Nat) : (m.disarmRanges ranges).armRanges mask = m.armRanges mask := by
  rw [Mach.armRanges, disarmRanges_streams, Mach.armRanges]

theorem resumed_armed (hi : instr < 65536) (hp : pass < 65536) (hr : rep < 65536) (hnext : instr ≠ 0xFFFF) :
    Armed m (resumed h mask instr pass rep m) h mask instr pass rep := by
  have hregs : RegsOnly m (m.disarmRanges (m.armRanges mask)) := (RegsOnly.refl m).disarmRanges
  have harmed := armFor_armed (m := m.disarmRanges (m.armRanges mask)) (h := h) (mask := mask) hi hp hr
  rw [resumed, if_neg hnext]
  have hranges : (m.disarmRanges (m.armRanges mask)).armRanges mask = m.armRanges mask := disarmRanges_armRanges ..
  refine ⟨?_, ?_, harmed.replies.trans (congrArg (·.replies) hregs.swite), harmed.mem.trans hregs.mem, harmed.ranges.trans hregs.ranges,
    (Within.refl _ m).disarmRanges.trans harmed.within⟩
  · rw [harmed.arms, hregs.arms, armEntry, hranges]
  · exact fun n hn => harmed.marked n (hranges.symm ▸ hn)

theorem resumed_within (hi : instr < 65536) (hp : pass < 65536) (hr : rep < 65536) : Within noRange m (resumed h mask instr pass rep m) := by
  by_cases hnext : instr = 0xFFFF
  · subst hnext
    rw [resumed_end]
    exact (Within.refl _ m).disarmRanges.send
  · exact (resumed_armed hi hp hr hnext).within

/-- What a resume leaves. -/
structure Resumed (m t : Mach) (h : Hdr) (mask instr pass rep : Nat) : Prop where
  goes : ∀ n ∈ maskBits (m.armRanges mask) 16, m.halted n = true → Goes t n
  mem : t.mem = m.mem
  ends : instr = 0xFFFF → t.arms = m.arms ∧ t.replied Op.waymarkSet h.ctx h.tag St.done
  rearmed : instr ≠ 0xFFFF → t.arms = m.arms ++ [armEntry m h mask] ∧ (∀ n ∈ maskBits (m.armRanges mask) 16, ArmedAt instr pass rep t n) ∧
    t.swite.replies = m.swite.replies

theorem Resumed.of_took {t : Mach} {op : Nat} (ht : Resumed (m.took op h) t h mask instr pass rep) : Resumed m t h mask instr pass rep := by
  have hreplies := took_replies m op h
  obtain ⟨c, l, hq⟩ := took_linkOnly m op h
  rw [hq] at ht hreplies
  refine ⟨ht.goes, ht.mem, ht.ends, fun hnext => ?_⟩
  obtain ⟨harms, hmarked, hnone⟩ := ht.rearmed hnext
  exact ⟨harms, hmarked, hnone.trans hreplies⟩

theorem resumeBody_resumes (h16 : m.ranges.length = 16) (hi : instr < 65536) (hp : pass < 65536) (hr : rep < 65536)
    (hnone : m.waymarkRefusal h.ctx mask = none) (hh : ∀ n ∈ maskBits mask 16, m.halted n = true) :
    Resumed m (resumeBody h mask instr pass rep m) h mask instr pass rep := by
  rw [resumeBody_goes hnone hh]
  set q := resumed h mask instr pass rep m with hq
  have hwithin : Within noRange m q := resumed_within hi hp hr
  have hkept : ∀ {β : Type} {g : Mach → β}, (∀ q c, g { q with csr := c } = g q) → (∀ (q : Mach) n r, g (q.setRange n r) = g q) →
      (∀ q l, g { q with streams := l } = g q) → g (q.each (maskBits (m.armRanges mask) 16) Mach.goOn) = g q :=
    fun hregs hrange hstreams => each_field (fun r n => goOn_field hregs hrange hstreams r n) q _
  have harms := hkept (g := Mach.arms) (fun _ _ => rfl) (fun _ _ _ => rfl) (fun _ _ => rfl)
  have hswite := hkept (g := Mach.swite) (fun _ _ => rfl) (fun _ _ _ => rfl) (fun _ _ => rfl)
  refine ⟨fun n hn hhalted => ?_, (hkept (fun _ _ => rfl) (fun _ _ _ => rfl) (fun _ _ => rfl)).trans hwithin.mem, fun hend => ?_, fun hnext => ?_⟩
  · refine eachGoOn_goes (fun k hk => ?_) n hn ((hwithin.halted n).trans hhalted)
    rw [hwithin.count, h16]
    exact (mem_maskBits.mp hk).1
  · rw [hend, resumed_end] at hq
    have hreplied : q.replied Op.waymarkSet h.ctx h.tag St.done := hq ▸ answer_replied ..
    refine ⟨harms.trans ?_, ?_⟩
    · rw [hq]
      exact (Mach.send_arms ..).trans (RegsOnly.refl m).disarmRanges.arms
    · rw [Mach.replied, hswite]
      exact hreplied
  · have ha : Armed m q h mask instr pass rep := resumed_armed hi hp hr hnext
    exact ⟨harms.trans ha.arms, fun n hn => eachGoOn_armed (mem_maskBits.mp hn).1 (ha.marked n hn),
      (congrArg (·.replies) hswite).trans ha.replies⟩

end

/-! ### Disarm (R638) -/

section

variable {m q : Mach} {h : Hdr} {mask status detail : Nat}

/-- An arm has had its final reply, or has it held. -/
def ArmEnded (status detail : Nat) (m : Mach) (a : ArmSt) : Prop :=
  ∃ r ∈ told m, r.opcode = Op.waymarkSet ∧ r.ctx = a.ctx ∧ r.tag = a.tag ∧ r.status = status ∧ r.detail = detail

theorem ArmEnded.mono {a : ArmSt} (h : ArmEnded status detail m a) (hsub : told m ⊆ told q) : ArmEnded status detail q a := by
  obtain ⟨r, hr, hfields⟩ := h
  exact ⟨r, hsub hr, hfields⟩

theorem told_send (m : Mach) (r : Reply) : told m ⊆ told (m.send r) := fun _ hx => mem_told_send.mpr (.inl hx)

/-- An arm's end: its positions are disarmed and its final reply follows. -/
abbrev endArm (status detail : Nat) (m : Mach) (a : ArmSt) : Mach :=
  (m.disarmRanges a.ranges).finish a.lane a.ctx a.tag Op.waymarkSet status detail

theorem told_finish (m : Mach) (lane : Lane) (ctx tag op st d : Nat) (data : List Byte) : told m ⊆ told (m.finish lane ctx tag op st d data) :=
  fun _ hx => mem_told_send.mpr (.inl hx)

theorem told_endArm (m : Mach) (a : ArmSt) : told m ⊆ told (endArm status detail m a) := by
  have hregs : RegsOnly m (m.disarmRanges a.ranges) := (RegsOnly.refl m).disarmRanges
  have htold : told (m.disarmRanges a.ranges) = told m := by rw [told, hregs.swite, told]
  exact htold ▸ told_finish (m.disarmRanges a.ranges) ..

theorem endArm_ended (m : Mach) (a : ArmSt) : ArmEnded status detail (endArm status detail m a) a :=
  ⟨_, mem_told_send.mpr (.inr rfl), rfl, rfl, rfl, rfl, rfl⟩

theorem dropArms_ended {p : ArmSt → Bool} : ∀ a ∈ m.arms, p a = true → ArmEnded status detail (m.dropArms p status detail) a := fun a ha hp =>
  foldl_establishes (P := ArmEnded status detail) (f := endArm status detail) endArm_ended (fun b c _ hc => hc.mono (told_endArm b c)) _ _ a
    (List.mem_filter.mpr ⟨ha, hp⟩)

theorem dropArms_arms (p : ArmSt → Bool) : (m.dropArms p status detail).arms = m.arms.filter (fun a => !p a) :=
  foldl_keeps (fun q : Mach => q.arms = m.arms.filter (fun a => !p a)) (endArm status detail)
    (fun q _ hq => (Mach.send_arms ..).trans ((RegsOnly.refl q).disarmRanges.arms.trans hq)) _ _ rfl

/-- A disarm before it answers: the arms of its ranges end, their positions are disarmed, and what the positions held may go on. -/
def disarmed (m : Mach) (mask : Nat) : Mach :=
  ((m.dropArms (fun a => decide (a.ranges &&& mask ≠ 0)) St.done (2 ^ 30)).disarmRanges (m.armRanges mask)).each (maskBits (m.armRanges mask) 16)
    Mach.settle

theorem disarmBody_disarms (hr : m.waymarkRefusal h.ctx mask = none) : disarmBody h mask m = (disarmed m mask).answer h Op.waymarkSet St.done := by
  simp only [disarmBody, hr, disarmed]

/-- What a disarm leaves. -/
structure Disarmed (m t : Mach) (mask : Nat) : Prop where
  arms : t.arms = m.arms.filter (fun a => decide (a.ranges &&& mask = 0))
  mem : t.mem = m.mem
  unarmed : ∀ n ∈ maskBits (m.armRanges mask) 16, Unarmed t n
  ended : ∀ a ∈ m.arms, a.ranges &&& mask ≠ 0 → ArmEnded St.done (2 ^ 30) t a

theorem disarmed_disarmed (m : Mach) (mask : Nat) : Disarmed m (disarmed m mask) mask := by
  unfold disarmed
  set d := m.dropArms (fun a => decide (a.ranges &&& mask ≠ 0)) St.done (2 ^ 30)
  set q := d.disarmRanges (m.armRanges mask)
  have hregs : RegsOnly d q := (RegsOnly.refl d).disarmRanges
  have hsettled : ∀ {β : Type} {g : Mach → β}, (∀ (q : Mach) n r, g (q.setRange n r) = g q) →
      g (q.each (maskBits (m.armRanges mask) 16) Mach.settle) = g q :=
    fun hg => each_field (fun r n => settle_field (fun q => hg q n) r) q _
  have hswite := (hsettled (g := Mach.swite) fun _ _ _ => rfl).trans hregs.swite
  refine ⟨(hsettled fun _ _ _ => rfl).trans (hregs.arms.trans ((dropArms_arms _).trans ?_)),
    (hsettled fun _ _ _ => rfl).trans (hregs.mem.trans ((Within.refl noRange m).dropArms.mem)), fun n hn => ?_, fun a ha hm => ?_⟩
  · exact List.filter_congr fun a _ => by simp
  · exact (Mach.rdF_congr _ _ _ _ (hsettled fun _ _ _ => rfl)).trans (disarmRanges_unarmed d _ n hn)
  · refine (dropArms_ended (p := fun a => decide (a.ranges &&& mask ≠ 0)) a ha (decide_eq_true hm)).mono fun r hr => ?_
    rw [told, hswite]
    exact hr

theorem Disarmed.of_took {op : Nat} (hd : Disarmed (m.took op h) q mask) : Disarmed m q mask := by
  obtain ⟨c, l, hq⟩ := took_linkOnly m op h
  rw [hq] at hd
  exact ⟨hd.arms, hd.mem, hd.unarmed, hd.ended⟩

theorem Disarmed.answer (hd : Disarmed m q mask) (h : Hdr) (op st : Nat) : Disarmed m (q.answer h op st) mask where
  arms := (Mach.send_arms ..).trans hd.arms
  mem := (Mach.send_mem ..).trans hd.mem
  unarmed n hn := (Mach.rdF_congr _ _ _ _ (Mach.send_csr ..)).trans (hd.unarmed n hn)
  ended a ha hm := (hd.ended a ha hm).mono (told_send ..)

end

/-! ### WAYMARK_HALT (R636) -/

section

variable {m : Mach} {n : Nat} {x : Machine.Stream}

/-- Whether a range that runs a stream halts now. -/
abbrev HaltsHere (m : Mach) (n : Nat) (x : Machine.Stream) : Prop :=
  x.lockstep = false ∧ (m.range n).halted = false ∧ m.atBoundary n x.image.code = true

/-- The registers of a range that halts. -/
abbrev shownHalted (m : Mach) (n : Nat) : Mach :=
  (((m.wr (Reg.RANGE_QUEUE_FILL n) (queueFill (m.range n))).setRangeState n 5).wrF (Reg.WAYMARK_POSITION_HI n) Fld.WAYMARK_POSITION_HI_HALTED 1).wrF
    (Reg.WAYMARK_POSITION_HI n) Fld.WAYMARK_POSITION_HI_ARMED 0

/-- A range that halts, before the arms that waited for it reply. -/
abbrev stilled (m : Mach) (n : Nat) : Mach := (shownHalted m n).updRange n (fun r => { r with halted := true })

theorem shownHalted_regs (m : Mach) (n : Nat) : RegsOnly m (shownHalted m n) := (RegsOnly.refl m).wr.wrF.wrF.wrF

theorem stilled_mem (m : Mach) (n : Nat) : (stilled m n).mem = m.mem := (Mach.updRange_mem ..).trans (shownHalted_regs m n).mem

theorem stilled_streams (m : Mach) (n : Nat) : (stilled m n).streams = m.streams := (Mach.updRange_streams ..).trans (shownHalted_regs m n).streams

theorem stilled_arms (m : Mach) (n : Nat) : (stilled m n).arms = m.arms := (Mach.updRange_arms ..).trans (shownHalted_regs m n).arms

theorem waymarkHalt_idle (hx : m.streamOn n = none) : waymarkHalt n m = m := by
  simp only [waymarkHalt, hx]

theorem waymarkHalt_elsewhere (hx : m.streamOn n = some x) (hh : ¬ HaltsHere m n x) : waymarkHalt n m = m := by
  have hc : (x.lockstep || (m.range n).halted || !m.atBoundary n x.image.code) = true := by
    by_contra hc
    exact hh (by simpa [and_assoc] using hc)
  simp only [waymarkHalt, hx, hc, if_true]

theorem waymarkHalt_here (hx : m.streamOn n = some x) (hh : HaltsHere m n x) : waymarkHalt n m = (stilled m n).answerArms := by
  obtain ⟨hlock, hhalted, hat⟩ := hh
  simp only [waymarkHalt, hx, hlock, hhalted, hat, Bool.or_self, Bool.not_true, Bool.false_eq_true, if_false]

/-- The arms that still wait for a range. -/
abbrev waitingArms (m : Mach) : List ArmSt := m.arms.filter (fun a => !(maskBits a.ranges 16).all m.halted)

theorem answerArms_linkOnly (m : Mach) : LinkOnly { m with arms := waitingArms m } m.answerArms :=
  foldl_keeps (LinkOnly { m with arms := waitingArms m }) _ (fun _ _ hq => hq.trans (finish_linkOnly ..)) _ _ (.refl _)

/-- What looks neither at the link nor at the arms reads the same when arms reply. -/
theorem answerArms_field {β : Type} {g : Mach → β} (hlink : ∀ m c l, g { m with cairn := c, swite := l } = g m)
    (harms : ∀ m l, g { m with arms := l } = g m) (m : Mach) : g m.answerArms = g m :=
  ((answerArms_linkOnly m).field hlink).trans (harms ..)

theorem answerArms_arms (m : Mach) : m.answerArms.arms = waitingArms m := (answerArms_linkOnly m).field (g := Mach.arms) fun _ _ _ => rfl

theorem mem_waitingArms {a : ArmSt} : a ∈ waitingArms m ↔ a ∈ m.arms ∧ ∃ k ∈ maskBits a.ranges 16, m.halted k = false := by
  simp [waitingArms]

/-- What a halt leaves. -/
structure HaltedAt (m t : Mach) (n : Nat) : Prop where
  state : t.rangeState n = 5
  range : (t.range n).halted = true
  shown : t.rdF (Reg.WAYMARK_POSITION_HI n) Fld.WAYMARK_POSITION_HI_HALTED = 1
  unarmed : Unarmed t n
  mem : t.mem = m.mem
  streams : t.streams = m.streams
  arms : ∀ a ∈ t.arms, a ∈ m.arms ∧ ∃ k ∈ maskBits a.ranges 16, t.halted k = false

theorem waymarkHalt_halts (hn : n < m.ranges.length) (hx : m.streamOn n = some x) (hh : HaltsHere m n x) : HaltedAt m (waymarkHalt n m) n := by
  rw [waymarkHalt_here hx hh]
  have hcsr : (stilled m n).answerArms.csr = (shownHalted m n).csr :=
    (answerArms_field (g := Mach.csr) (fun _ _ _ => rfl) (fun _ _ => rfl) _).trans (Mach.updRange_csr ..)
  have hrange : (stilled m n).answerArms.range n = (stilled m n).range n :=
    answerArms_field (g := (Mach.range · n)) (fun _ _ _ => rfl) (fun _ _ => rfl) _
  have hhalted : (stilled m n).answerArms.halted = (stilled m n).halted := answerArms_field (g := Mach.halted) (fun _ _ _ => rfl) (fun _ _ => rfl) _
  refine ⟨?_, ?_, ?_, ?_, (answerArms_field (g := Mach.mem) (fun _ _ _ => rfl) (fun _ _ => rfl) _).trans (stilled_mem m n),
    (answerArms_field (g := Mach.streams) (fun _ _ _ => rfl) (fun _ _ => rfl) _).trans (stilled_streams m n), fun a ha => ?_⟩
  · rw [Mach.rangeState, Mach.rdF_congr _ _ _ _ hcsr, Mach.rdF_wrF_other _ _ _ _ _ _ (by decide) (by decide) (.inl (status_ne_hi n n)),
      Mach.rdF_wrF_other _ _ _ _ _ _ (by decide) (by decide) (.inl (status_ne_hi n n))]
    exact Mach.rdF_wrF_same _ _ _ _ (by decide)
  · have hlen : n < (shownHalted m n).ranges.length := by rwa [(shownHalted_regs m n).ranges]
    rw [hrange, stilled, range_updRange_same hlen]
  · rw [Mach.rdF_congr _ _ _ _ hcsr, Mach.rdF_wrF_other _ _ _ _ _ _ (by decide) (by decide) (.inr (by decide))]
    exact Mach.rdF_wrF_same _ _ _ _ (by decide)
  · rw [Unarmed, Mach.rdF_congr _ _ _ _ hcsr]
    exact Mach.rdF_wrF_same _ _ _ _ (by decide)
  · rw [answerArms_arms] at ha
    rw [hhalted, ← stilled_arms m n]
    exact mem_waitingArms.mp ha

end

/-! ### DEBUG_DUMP (R173, R643) -/

section

variable {m : Mach} {h : Hdr} {range what treg : Nat}

theorem took_debug (m : Mach) (op : Nat) (h : Hdr) : (m.took op h).debug = m.debug := by rw [Mach.debug, took_rdF, Mach.debug]

theorem debugDumpBody_badParam (hb : 16 ≤ range ∨ 3 ≤ what ∨ 512 ≤ treg) :
    debugDumpBody h range what treg m = m.answer h Op.debugDump St.badParam := if_pos hb

variable (hb : ¬ (16 ≤ range ∨ 3 ≤ what ∨ 512 ≤ treg))

include hb

theorem debugDumpBody_notPermitted (ha : ¬ (m.debug = true ∧ m.owns h.ctx range = true)) :
    debugDumpBody h range what treg m = m.answer h Op.debugDump St.notPermitted := by
  have hc : !m.debug ∨ !m.owns h.ctx range := by
    by_contra hc
    exact ha (by simpa using hc)
  rw [debugDumpBody, if_neg hb, if_pos hc]

variable (ha : m.debug = true ∧ m.owns h.ctx range = true)

include ha

theorem debugDumpBody_busy (hh : m.halted range = false) : debugDumpBody h range what treg m = m.answer h Op.debugDump St.busy := by
  obtain ⟨hdebug, howns⟩ := ha
  simp only [debugDumpBody, if_neg hb, hdebug, howns, hh, Bool.not_true, Bool.not_false, Bool.false_eq_true, or_self, if_false, if_true]

/-- The tile that a dump of a tile register shows. -/
abbrev dumpedTile (m : Mach) (range treg : Nat) : Tile := Sparse.get (fun _ => Tile.zeroed) (m.range range).tiles treg

/-- A dump answers the bank, or the tile with its tag and with free values where the tile does not fill its register. -/
theorem debugDumpBody_dumps (hh : m.halted range = true) : ∃ d detail data, debugDumpBody h range what treg m =
      ({ m with draws := d } : Mach).answer h Op.debugDump St.done detail data ∧
    (what = 0 → data = (m.range range).bank0.dump) ∧ (what = 1 → data = (m.range range).bank1.dump) ∧
    (what = 2 → detail = (dumpedTile m range treg).tag ∧ data = (dumpedTile m range treg).dump m.draws) := by
  obtain ⟨hdebug, howns⟩ := ha
  have hwhat : what = 0 ∨ what = 1 ∨ what = 2 := by omega
  simp only [debugDumpBody, if_neg hb, hdebug, howns, hh, Bool.not_true, Bool.false_eq_true, or_self, if_false]
  rcases hwhat with rfl | rfl | rfl
  · exact ⟨m.draws, _, _, rfl, fun _ => rfl, nofun, nofun⟩
  · exact ⟨m.draws, _, _, rfl, nofun, fun _ => rfl, nofun⟩
  · exact ⟨m.draws + 1, _, _, rfl, nofun, nofun, fun _ => ⟨rfl, rfl⟩⟩

end

/-- Settles O56: what an arm, a resume, a disarm, a halt and a dump leave, each read off the operations that its rule chains. -/
theorem waymarkAndDumps : Obligations.WaymarkAndDumps := by
  refine ⟨fun s h mask instr pass rep hsh hi hp hr => ⟨fun hb => ?_, fun hb => ?_, fun hb => ?_⟩, fun s n hsh => ?_, fun s h range what treg hb => ?_⟩
  · have hrun : exec (.arm h mask instr pass rep) s = .next (s.on (armBody h mask instr pass rep (s.took Op.waymarkSet h))) :=
      command_begins s _ h _ _ hb
    refine ⟨fun h0 => ?_, fun h0 ho => ?_, fun hmine hl => ?_, fun hmine hl hh => ?_, fun hmine hl hh => ?_⟩
    · rw [hrun, armBody_refused (h0 ▸ waymarkRefusal_zero ..)]
    · rw [hrun, armBody_refused (waymarkRefusal_foreign h0 ((took_ownsAll ..).trans ho))]
    · rw [hrun, armBody_lockstep (waymarkRefusal_mine hmine) ((took_runsLockstep ..).mpr hl)]
    · rw [hrun, armBody_busy (waymarkRefusal_mine hmine) (mt (took_runsLockstep ..).mp hl) (by simpa [took_halted] using hh)]
    · rw [armBody_arms (waymarkRefusal_mine hmine) (mt (took_runsLockstep ..).mp hl) (by simpa [took_halted] using hh)] at hrun
      have ht : Armed s.toMach _ h mask instr pass rep := (armFor_armed (m := s.took Op.waymarkSet h) hi hp hr).of_took
      exact ⟨_, hrun, ht.arms, ht.marked, ht.replies, ht.mem, ht.ranges⟩
  · have hrun : exec (.resume h mask instr pass rep) s = .next (s.on (resumeBody h mask instr pass rep (s.took Op.waymarkSet h))) :=
      command_begins s _ h _ _ hb
    refine ⟨fun h0 => ?_, fun h0 ho => ?_, fun hmine hh => ?_, fun hmine hh => ?_⟩
    · rw [hrun, resumeBody_refused (h0 ▸ waymarkRefusal_zero ..)]
    · rw [hrun, resumeBody_refused (waymarkRefusal_foreign h0 ((took_ownsAll ..).trans ho))]
    · rw [hrun, resumeBody_busy (waymarkRefusal_mine hmine) (by simpa [took_halted] using hh)]
    · have h16 : (s.took Op.waymarkSet h).ranges.length = 16 := (congrArg List.length (took_ranges ..)).trans (shaped_ranges hsh)
      have ht := (resumeBody_resumes h16 hi hp hr (waymarkRefusal_mine hmine) (by simpa [took_halted] using hh)).of_took
      exact ⟨_, hrun, ht.goes, ht.mem, ht.ends, ht.rearmed⟩
  · have hrun : exec (.disarm h mask) s = .next (s.on (disarmBody h mask (s.took Op.waymarkSet h))) := command_begins s _ h _ _ hb
    refine ⟨fun h0 => ?_, fun h0 ho => ?_, fun hmine => ?_⟩
    · rw [hrun, disarmBody_refused (h0 ▸ waymarkRefusal_zero ..)]
    · rw [hrun, disarmBody_refused (waymarkRefusal_foreign h0 ((took_ownsAll ..).trans ho))]
    · rw [disarmBody_disarms (waymarkRefusal_mine hmine)] at hrun
      have ht := ((disarmed_disarmed (s.took Op.waymarkSet h) mask).answer h Op.waymarkSet St.done).of_took
      exact ⟨_, hrun, ht.arms, ht.mem, answer_replied .., ht.unarmed, ht.ended⟩
  · have hn : n.val < s.ranges.length := by
      rw [shaped_ranges hsh]
      exact n.isLt
    refine ⟨fun hx => run_to (waymarkHalt_idle hx), fun x hx => ⟨fun hh => run_to (waymarkHalt_elsewhere hx hh), fun hh => ?_⟩⟩
    have ht := waymarkHalt_halts hn hx hh
    exact ⟨s.on (waymarkHalt n s.toMach), rfl, ht.state, ht.range, ht.shown, ht.unarmed, ht.mem, ht.streams, ht.arms⟩
  · have hrun : exec (.debugDump h range what treg) s = .next (s.on (debugDumpBody h range what treg (s.took Op.debugDump h))) :=
      command_begins s _ h _ _ hb
    refine ⟨fun hbad => ?_, fun hbad hno => ?_, fun hbad hok hh => ?_, fun hbad hok hh => ?_⟩
    · rw [hrun, debugDumpBody_badParam hbad]
    · rw [hrun, debugDumpBody_notPermitted hbad (by rwa [took_debug, took_owns])]
    · rw [hrun, debugDumpBody_busy hbad (by rwa [took_debug, took_owns]) (by rwa [took_halted])]
    · obtain ⟨d, detail, data, hbody, hbank0, hbank1, htile⟩ := debugDumpBody_dumps hbad (m := s.took Op.debugDump h) (h := h)
        (by rwa [took_debug, took_owns]) (by rwa [took_halted])
      have hrange : (s.took Op.debugDump h).range range = s.range range :=
        (took_linkOnly s.toMach Op.debugDump h).field (g := (Mach.range · range)) fun _ _ _ => rfl
      have hdraws : (s.took Op.debugDump h).draws = s.draws := (took_linkOnly s.toMach Op.debugDump h).field (g := Mach.draws) fun _ _ _ => rfl
      rw [hbody] at hrun
      rw [hrange] at hbank0 hbank1
      rw [dumpedTile, hrange, hdraws] at htile
      have hreplies := answer_replies (q := { s.took Op.debugDump h with draws := d }) hb (took_csr s.toMach Op.debugDump h)
        (took_replies s.toMach Op.debugDump h) St.done detail data
      exact ⟨_, _, hrun, hreplies, rfl,
        (Mach.send_ranges ..).trans (took_ranges s.toMach Op.debugDump h), (Mach.send_mem ..).trans (took_mem s.toMach Op.debugDump h),
        (Mach.send_csr ..).trans (took_csr s.toMach Op.debugDump h), hbank0, hbank1, htile⟩

end Sys2Proof.Laws
end

section
namespace Sys2Proof.Laws

open Sys2Proof.Machine

/-!
# MEM_MAP (R267, R268)

The checks of R267's table are asked in order, and a run put among runs that meet none of its addresses gives just those addresses.
-/

/-! ### The table of refusals (R267) -/

/-- A mapping of whole pages, inside the virtual address space, at a target that a mapping may have (R267, first row). -/
abbrev MapPlaced (m : Mach) (r : MapRun) : Prop :=
  r.size ≠ 0 ∧ r.va % r.page = 0 ∧ r.size % r.page = 0 ∧ r.pa % r.page = 0 ∧ r.va + r.size ≤ 2 ^ 52 ∧ m.targetOk r.pa r.size = true

/-- None of a mapping's pages is mapped in the context (second row). -/
abbrev MapFree (x : Ctx) (r : MapRun) : Prop := ∀ q ∈ x.maps, runsMeet q.va q.size r.va r.size = false

/-- No target frame belongs to another context (fourth row). -/
abbrev MapOwnable (m : Mach) (c : Nat) (r : MapRun) : Prop :=
  isHost r.pa = true ∨ ∀ e ∈ m.mem.owned, e.1 ≠ c → e.2.meets (r.pa / 65536) (r.size / 65536) = false

/-- No target frame awaits a scrub (fifth row). -/
abbrev MapClean (m : Mach) (r : MapRun) : Prop :=
  (∀ q ∈ m.mem.scrubQueue, ∀ f ∈ q.2, f.meets (r.pa / 65536) (r.size / 65536) = false) ∧ (m.scrubbing = false ∨ 12 * 2 ^ 37 ≤ r.pa)

/-- The page tables stay within R266 (last row). -/
abbrev MapFits (m : Mach) (c : Nat) (x : Ctx) (r : MapRun) : Prop := m.tablesWith c (insertRun r x.maps) ≤ 512 * 2 ^ 20

/-- A context owns no sealed frame (R551). -/
abbrev OwnsNoSealed (m : Mach) (c : Nat) : Prop := ∀ e ∈ m.mem.owned, e.1 = c → ∀ q ∈ m.mem.sealed, e.2.meets q.first q.count = false

section

variable {m : Mach} {h : Hdr} {va size pa pg w pd p : Nat} {x : Ctx} {r : MapRun}

/-- The first row of R267's table that applies gives the status. -/
theorem mapRefused_eq {c : Nat} (hu : OwnsNoSealed m c) : m.mapRefused c x r =
    if ¬ MapPlaced m r then some St.badParam else if ¬ MapFree x r then some St.badParam
    else if ¬ m.granted c x r.pdom = true then some St.notPermitted else if ¬ MapOwnable m c r then some St.notPermitted
    else if ¬ MapClean m r then some St.busy else if ¬ MapFits m c x r then some St.busy else none := by
  have hsealed : ¬ (isHost r.pa && m.mem.sealed.any fun q => m.mem.owned.any fun e => decide (e.1 = c) && e.2.meets q.first q.count) = true := by
    grind
  have hawaits : m.mem.scrubQueue.any (fun q => q.2.any fun f => f.meets (r.pa / 65536) (r.size / 65536)) = true ∨
      (m.scrubbing && decide (r.pa < 12 * 2 ^ 37)) = true ↔ ¬ MapClean m r := by
    rw [not_and_or]
    simp
  simp only [Mach.mapRefused, if_neg hsealed]
  refine if_congr ?_ rfl (if_congr ?_ rfl (if_congr ?_ rfl (if_congr ?_ rfl ((ite_or ..).symm.trans (if_congr hawaits rfl (if_congr ?_ rfl rfl))))))
  · simp only [not_and_or, not_not, ne_eq, Nat.not_le, Bool.not_eq_true, Bool.not_eq_true']
  · simp
  · simp
  · simp
  · simp

/-- Taking a packet up changes nothing that the table looks at. -/
theorem took_mapRefused (m : Mach) (op : Nat) (h : Hdr) (c : Nat) (x : Ctx) (r : MapRun) :
    (m.took op h).mapRefused c x r = m.mapRefused c x r :=
  (took_linkOnly m op h).field (g := (Mach.mapRefused · c x r)) fun _ _ _ => rfl

/-! ### Pages mapped (R264, R268) -/

/-- Where a run gives an address that no other gives, its place among them does not matter. -/
theorem findSome?_insertRun {β : Type} {f : MapRun → Option β} {l : List MapRun} (h : f r = none ∨ ∀ q ∈ l, f q = none) :
    (insertRun r l).findSome? f = (f r).or (l.findSome? f) := by
  induction l with
  | nil => rw [insertRun, List.findSome?_singleton, List.findSome?_nil, Option.or_none]
  | cons q t ih =>
    rw [insertRun]
    split
    · rw [List.findSome?_cons]
      cases f r with
      | none => rfl
      | some b => rfl
    · rw [List.findSome?_cons, List.findSome?_cons, ih (h.imp_right fun ht => (List.forall_mem_cons.mp ht).2)]
      rcases h with hr | hl
      · rw [hr, Option.none_or, Option.none_or]
      · rw [hl q List.mem_cons_self]

/-- A context with a run of pages mapped. -/
def mapped (r : MapRun) (x : Ctx) : Ctx := { x with maps := insertRun r x.maps }

theorem phys_mapped (hr : MapFree x r) (v : Nat) :
    (mapped r x).phys v = if r.va ≤ v ∧ v < r.va + r.size then some (r.pa + (v - r.va)) else x.phys v := by
  have hone : runPhys v r = none ∨ ∀ q ∈ x.maps, runPhys v q = none := by grind [runPhys, runsMeet]
  rw [phys_eq_findSome, phys_eq_findSome, mapped, findSome?_insertRun hone, runPhys]
  split
  · rfl
  · rfl

/-- The frames of a mapping's target that its context does not own yet. -/
def newFrames (m : Mach) (c : Nat) (r : MapRun) : List FrameRun :=
  if isHost r.pa then []
  else ((m.mem.owned.filter (fun e => decide (e.1 = c))).map (fun e => e.2)).foldl runsMinus [{ first := r.pa / 65536, count := r.size / 65536 }]

/-- The module with a run of pages mapped in a context, which owns the target's frames from then on. -/
def mapRun (m : Mach) (c : Nat) (r : MapRun) : Mach :=
  { m.updCtx c (mapped r) with mem := { m.mem with owned := m.mem.owned ++ (newFrames m c r).map (fun f => (c, f)) } }

/-! ### The command -/

/-- The mapping that a MEM_MAP names. -/
def namedRun (va size p pa w pd : Nat) : MapRun := { va := va, size := size, page := p, pa := pa, write := decide (w = 1), pdom := pd }

variable (hx : m.ctx h.ctx = some x) (hp : pageBytes pg = some p) (hw : w ≤ 1)

include hx hp hw

theorem memMapBody_refused {st : Nat} (hr : m.mapRefused h.ctx x (namedRun va size p pa w pd) = some st) :
    memMapBody h va size pa pg w pd m = m.answer h Op.memMap st := by
  rw [namedRun] at hr
  simp only [memMapBody, hx, hp, hr, if_neg (Nat.not_lt.mpr hw)]

theorem memMapBody_maps (hr : m.mapRefused h.ctx x (namedRun va size p pa w pd) = none) :
    memMapBody h va size pa pg w pd m = (mapRun m h.ctx (namedRun va size p pa w pd)).answer h Op.memMap St.done := by
  rw [namedRun] at hr
  simp only [memMapBody, hx, hp, hr, if_neg (Nat.not_lt.mpr hw), mapRun, Mach.updCtx_mem]
  rfl

end

/-- Settles O25: the first row of R267's table that applies decides, and no run that was there holds an address of the new one. -/
theorem mapRefusalsAndPages : Obligations.MapRefusalsAndPages := by
  intro s h va size pa pg w pd x p hb hx hp hw hu r shape clear granted mine clean room refused
  let q := s.took Op.memMap h
  have hqx : q.ctx h.ctx = some x := (took_ctx s.toMach Op.memMap h _).trans hx
  have hrun : exec (.memMap h va size pa pg w pd) s = .next (s.on (memMapBody h va size pa pg w pd q)) := command_begins s Op.memMap h _ _ hb
  have htable : q.mapRefused h.ctx x r = if ¬ shape then some St.badParam else if ¬ clear then some St.badParam
      else if ¬ granted then some St.notPermitted else if ¬ mine then some St.notPermitted
      else if ¬ clean then some St.busy else if ¬ room then some St.busy else none :=
    (took_mapRefused s.toMach Op.memMap h h.ctx x r).trans (mapRefused_eq hu)
  simp only [ite_not] at htable
  have hrefuse : ∀ {st}, q.mapRefused h.ctx x r = some st → refused st := fun hst => hrun.trans (by rw [memMapBody_refused hqx hp hw hst])
  refine ⟨fun h1 => hrefuse ?_, fun h1 h2 => hrefuse ?_, fun h1 h2 h3 => hrefuse ?_, fun h1 h2 h3 h4 => hrefuse ?_,
    fun h1 h2 h3 h4 h5 => hrefuse ?_, fun h1 h2 h3 h4 h5 h6 => hrefuse ?_, fun h1 h2 h3 h4 h5 h6 => ?_⟩
  · rw [htable, if_neg h1]
  · rw [htable, if_pos h1, if_neg h2]
  · rw [htable, if_pos h1, if_pos h2, if_neg h3]
  · rw [htable, if_pos h1, if_pos h2, if_pos h3, if_neg h4]
  · rw [htable, if_pos h1, if_pos h2, if_pos h3, if_pos h4, if_neg h5]
  · rw [htable, if_pos h1, if_pos h2, if_pos h3, if_pos h4, if_pos h5, if_neg h6]
  · have hnone : q.mapRefused h.ctx x r = none := by
      rw [htable, if_pos h1, if_pos h2, if_pos h3, if_pos h4, if_pos h5, if_pos h6]
    refine ⟨mapRun q h.ctx r, mapped r x, hrun.trans (by rw [memMapBody_maps hqx hp hw hnone]; rfl), ctx_updCtx_same hqx _, fun k hk => ?_,
      fun v hv => ?_, (congrArg MemSt.bytes (took_mem s.toMach Op.memMap h) :), (Mach.updCtx_csr ..).trans (took_csr s.toMach Op.memMap h),
      (Mach.updCtx_ranges ..).trans (took_ranges s.toMach Op.memMap h)⟩
    · rw [phys_mapped h2, if_pos ⟨Nat.le_add_right va k, Nat.add_lt_add_left hk va⟩, Nat.add_sub_cancel_left]
    · exact (phys_mapped h2 v).trans (if_neg fun ⟨hlo, hhi⟩ => hv.elim (Nat.not_lt.mpr hlo) (Nat.not_le.mpr hhi))

end Sys2Proof.Laws
end


section
namespace Sys2Proof.Laws

open Sys2Proof.Machine

/-!
# The group master (R322, R450 to R459)

The master keeps one record for each open step, sends messages, and shows what it holds in two registers. `Mastered m q` says that `q`, made
of `m`, differs from it in nothing else; the other lemmas say which record a step number finds and which message is sent.
-/

/-! ### What the master's work leaves alone -/

structure Mastered (m q : Mach) : Prop where
  parts : ∃ c l, q = { m with csr := c, group := l }
  rd : ∀ a, a ≠ Reg.TRAVERSE_STEP_GROUP → a ≠ Reg.TRAVERSE_STEP_ABORT → q.rd a = m.rd a

section

variable {m q r : Mach} {g k : Nat}

theorem Mastered.refl (m : Mach) : Mastered m m := ⟨⟨m.csr, m.group, rfl⟩, fun _ _ _ => rfl⟩

theorem Mastered.trans (h : Mastered m q) (j : Mastered q r) : Mastered m r := by
  obtain ⟨⟨c, l, rfl⟩, hrd⟩ := h
  obtain ⟨⟨d, k, rfl⟩, jrd⟩ := j
  exact ⟨⟨d, k, rfl⟩, fun a hg ha => (jrd a hg ha).trans (hrd a hg ha)⟩

/-- What looks neither at the registers nor at the group protocol reads the same. -/
theorem Mastered.field {β : Type} {f : Mach → β} (hf : ∀ m c l, f { m with csr := c, group := l } = f m) (h : Mastered m q) : f q = f m := by
  obtain ⟨⟨c, l, rfl⟩, _⟩ := h
  exact hf m c l

theorem Mastered.regroup (h : Mastered m q) (l : GroupSt) : Mastered m { q with group := l } :=
  h.trans ⟨⟨q.csr, l, rfl⟩, fun _ _ _ => rfl⟩

theorem Mastered.wr {a : Nat} {v : Word} (h : Mastered m q) (ha : a = Reg.TRAVERSE_STEP_GROUP ∨ a = Reg.TRAVERSE_STEP_ABORT) :
    Mastered m (q.wr a v) :=
  h.trans ⟨⟨_, q.group, rfl⟩, fun b hg hb => Mach.rd_wr_other q a b v fun hba => ha.elim (fun h => hg (hba.trans h)) fun h => hb (hba.trans h)⟩

theorem Mastered.dropMaster (h : Mastered m q) : Mastered m (q.dropMaster g k) := h.regroup _

theorem Mastered.setMaster {v : MasterSt} (h : Mastered m q) : Mastered m (q.setMaster g k v) :=
  (((h.dropMaster (g := g) (k := k)).regroup _).wr (.inl rfl)).wr (.inl rfl)

theorem Mastered.noteAbort {reason status rank : Nat} (h : Mastered m q) : Mastered m (q.noteAbort reason status rank) := h.wr (.inr rfl)

end

/-! ### Messages -/

/-- A flood adds its message to those that wait at this module; beside that it only sends on ports. -/
theorem flood_parts (m : Mach) (g : Nat) (b : GBody) : ∃ seen sent, m.flood g b =
    { m with group := { m.group with seen := seen, sent := sent, loop := m.group.loop ++ [{ group := g, body := b }] } } := by
  unfold Mach.flood
  dsimp only
  split
  · exact ⟨_, _, rfl⟩
  · have hrelay : ∃ seen sent, m.relay none { group := g, body := b } = { m with group := { m.group with seen := seen, sent := sent } } :=
      foldl_keeps (fun q : Mach => ∃ seen sent, q = { m with group := { m.group with seen := seen, sent := sent } }) _ (fun q p hq => by
        obtain ⟨seen, sent, rfl⟩ := hq
        unfold Mach.sendGroup
        split
        · exact ⟨_, _, rfl⟩
        · exact ⟨_, _, rfl⟩) _ _ ⟨_, _, rfl⟩
    obtain ⟨seen, sent, hr⟩ := hrelay
    exact ⟨seen, sent, by rw [hr]; rfl⟩

section

variable {m q : Mach} {g k : Nat} {b : GBody}

theorem flood_loop : (m.flood g b).group.loop = m.group.loop ++ [{ group := g, body := b }] := by
  obtain ⟨_, _, h⟩ := flood_parts m g b
  rw [h]

theorem flood_masters : (m.flood g b).group.masters = m.group.masters := by
  obtain ⟨_, _, h⟩ := flood_parts m g b
  rw [h]

theorem flood_csr : (m.flood g b).csr = m.csr := by
  obtain ⟨_, _, h⟩ := flood_parts m g b
  rw [h]

theorem Mastered.flood (h : Mastered m q) : Mastered m (q.flood g b) := by
  obtain ⟨_, _, hf⟩ := flood_parts q g b
  rw [hf]
  exact h.regroup _

/-- A message that waits at this module is taken from those that wait, and then acted on. -/
theorem gotMsg_own {act : Mach → Mach} (h : ({ group := g, body := b } : GMsg) ∈ m.group.loop) :
    m.gotMsg none g b act = act { m with group := { m.group with loop := m.loopWithout g b } } :=
  if_pos (List.contains_iff_mem.mpr h)

end

/-! ### Records -/

section

variable {m q : Mach} {g k j : Nat} {v : MasterSt}

theorem master_congr (h : q.group.masters = m.group.masters) : q.master g k = m.master g k := by rw [Mach.master, h, Mach.master]

theorem master_dropMaster : (m.dropMaster g k).master g j = if j = k then none else m.master g j := by
  simp only [Mach.master, Mach.dropMaster, List.find?_filter]
  split
  · next h =>
    rw [h, List.find?_eq_none.mpr fun e _ => by simp; tauto]
    rfl
  · next h =>
    refine congrArg _ (congrArg (List.find? · _) (funext fun e => ?_))
    by_cases he : e.1 = g ∧ e.2.1 = j
    · simp [he.1, he.2, h]
    · grind

theorem master_setMaster : (m.setMaster g k v).master g j = if j = k then some v else m.master g j := by
  have hdrop := master_dropMaster (m := m) (g := g) (k := k) (j := j)
  have happ : (m.setMaster g k v).master g j =
      (((m.dropMaster g k).group.masters ++ [(g, k, v)]).find? (fun e => decide (e.1 = g) && decide (e.2.1 = j))).map (fun e => e.2.2) := rfl
  rw [happ, List.find?_append, Option.map_or, ← Mach.master, hdrop]
  split
  · next h => simp [h]
  · next h => simp [Ne.symm h]

theorem rd_abort_setMaster : (m.setMaster g k v).rd Reg.TRAVERSE_STEP_ABORT = m.rd Reg.TRAVERSE_STEP_ABORT :=
  (Mach.rd_wrF_other _ _ _ _ _ (by decide)).trans (Mach.rd_wrF_other _ _ _ _ _ (by decide))

end

/-! ### ABORT (R452, R454) -/

/-- The reason that an abort carries: its own, or limit at the last repeat of an attempt under the same plan. -/
def abortReason (m : Mach) (r : MasterSt) (reason : Nat) : Nat :=
  if r.running = true ∧ r.planAtStart = m.planId ∧ r.limit ≤ r.attempt then 4 else reason

structure Aborted (m t : Mach) (g k attempt why status : Nat) : Prop extends Mastered m t where
  loop : t.group.loop = m.group.loop ++ [{ group := g, body := .abort k attempt why }]
  reason : t.rdF Reg.TRAVERSE_STEP_ABORT Fld.TRAVERSE_STEP_ABORT_REASON = why
  shown : t.rdF Reg.TRAVERSE_STEP_ABORT Fld.TRAVERSE_STEP_ABORT_STATUS = status

section

variable {m t : Mach} {g k why status attempt : Nat}

theorem noteAbort_reason (hw : why < 16) (rank : Nat) :
    (m.noteAbort why status rank).rdF Reg.TRAVERSE_STEP_ABORT Fld.TRAVERSE_STEP_ABORT_REASON = why := by
  rw [Mach.noteAbort, Mach.rdF, Mach.rd_wr_same]
  simp only [Word.getF, bitsOf, BitVec.toNat_ofNat, Nat.shiftRight_eq_div_pow]
  omega

theorem noteAbort_status (hs : status < 256) (rank : Nat) :
    (m.noteAbort why status rank).rdF Reg.TRAVERSE_STEP_ABORT Fld.TRAVERSE_STEP_ABORT_STATUS = status := by
  rw [Mach.noteAbort, Mach.rdF, Mach.rd_wr_same]
  simp only [Word.getF, bitsOf, BitVec.toNat_ofNat, Nat.shiftRight_eq_div_pow]
  omega

/-- Records changed after the abort do not touch what it sent and showed. -/
theorem Aborted.setMaster {i : Nat} {v : MasterSt} (h : Aborted m t g k attempt why status) : Aborted m (t.setMaster g i v) g k attempt why status where
  toMastered := h.toMastered.setMaster
  loop := h.loop
  reason := (congrArg (Word.getF · _) rd_abort_setMaster).trans h.reason
  shown := (congrArg (Word.getF · _) rd_abort_setMaster).trans h.shown

theorem Aborted.dropMaster {i : Nat} (h : Aborted m t g k attempt why status) : Aborted m (t.dropMaster g i) g k attempt why status where
  toMastered := h.toMastered.dropMaster
  loop := h.loop
  reason := h.reason
  shown := h.shown

theorem Aborted.ite {a b : Mach} {c : Prop} [Decidable c] (ha : Aborted m a g k attempt why status) (hb : Aborted m b g k attempt why status) :
    Aborted m (if c then a else b) g k attempt why status := by
  split
  · exact ha
  · exact hb

/-- An abort shown in STEP_ABORT and flooded. -/
theorem abort_flooded (hw : why < 16) (hs : status < 256) (rank : Nat) :
    Aborted m ((m.noteAbort why status rank).flood g (.abort k attempt why)) g k attempt why status where
  toMastered := (Mastered.refl m).noteAbort.flood
  loop := flood_loop.trans (by rw [Mach.noteAbort, Mach.wr_group])
  reason := (Mach.rdF_congr _ _ _ _ flood_csr).trans (noteAbort_reason hw rank)
  shown := (Mach.rdF_congr _ _ _ _ flood_csr).trans (noteAbort_status hs rank)

theorem masterAbort_aborts {r : MasterSt} {reason rank : Nat} (hr : m.master g k = some r) (hw : reason < 16) (hs : status < 256) :
    Aborted m (m.masterAbort g k reason status rank) g k r.attempt (abortReason m r reason) status := by
  have hlast : (if r.running && decide (r.planAtStart = m.planId) && decide (r.limit ≤ r.attempt) then 4 else reason) = abortReason m r reason := by
    simp only [abortReason, Bool.and_eq_true, decide_eq_true_eq, and_assoc]
  have hwhy : abortReason m r reason < 16 := by
    unfold abortReason
    split
    · decide
    · exact hw
  unfold Mach.masterAbort
  simp only [hr, hlast]
  have hflood : Aborted m ((m.noteAbort (abortReason m r reason) status rank).flood g (.abort k r.attempt (abortReason m r reason)))
    g k r.attempt (abortReason m r reason) status := abort_flooded hwhy hs rank
  split
  · exact .ite hflood.dropMaster hflood.setMaster
  · exact .ite (Aborted.ite hflood.dropMaster hflood.setMaster).dropMaster (Aborted.ite hflood.dropMaster hflood.setMaster).setMaster

end

/-! ### START (R452, R454) -/

section

variable {m : Mach} {g k : Nat} {r : MasterSt}

/-- The record of a step whose START has gone out. -/
def startedRecord (m : Mach) (r : MasterSt) : MasterSt :=
  let us := (m.rd Reg.TRAVERSE_STEP_CFG_DEADLINE).toNat
  { r with joins := [], readies := [], updated := [], running := true, attempt := if r.again then r.attempt + 1 else r.attempt, again := false,
           planAtStart := m.planId, deadline := m.timebase.ticks.toNat + 15625 + us * 625 / 4, deadlineUs := us,
           limit := m.rdF Reg.TRAVERSE_STEP_CFG_LIMIT Fld.TRAVERSE_STEP_CFG_LIMIT_REPEAT_LIMIT, committedAt := none, resolving := false }

theorem sendStart_eq : m.sendStart g k r = (m.setMaster g k (startedRecord m r)).flood g
    (.start k (startedRecord m r).attempt (m.timebase.ticks.toNat + 15625) (startedRecord m r).deadline (startedRecord m r).limit) := rfl

end

/-! ### Groups of one (R450) -/

section

variable {m : Mach} {c k : Nat}

theorem groupOf_solo (h : m.groupPlan = none) (c : Nat) : m.groupOf c = soloGroup c := by simp only [Mach.groupOf, h]

theorem isMaster_solo (m : Mach) (c : Nat) : m.isMaster (soloGroup c) = true := by simp [Mach.isMaster, soloGroup]

theorem groupSize_solo (m : Mach) (c : Nat) : m.groupSize (soloGroup c) = 1 := if_pos (Nat.le_add_right ..)

theorem groupRank_solo (m : Mach) (c : Nat) : m.groupRank (soloGroup c) = 0 := if_pos (Nat.le_add_right ..)

theorem ctxOf_solo {x : Ctx} (h : m.groupPlan = none) (hc : c < 16) (hx : m.ctx c = some x) : m.ctxOf (soloGroup c) = some c := by
  unfold Mach.ctxOf
  simp only [groupOf_solo h]
  cases hf : (List.range 16).find? (fun d => (m.ctx d).isSome && decide (soloGroup d = soloGroup c)) with
  | some d =>
    have hd := List.find?_some hf
    simp only [soloGroup, Bool.and_eq_true, decide_eq_true_eq, Nat.add_left_cancel_iff] at hd
    rw [hd.2]
  | none => simpa [hx] using List.find?_eq_none.mp hf c (List.mem_range.mpr hc)

end

/-! ### JOIN, READY and UPDATED at the master (R451, R452, R322) -/

/-- The module with a message taken from those that wait at it. -/
abbrev messageTaken (m : Mach) (g : Nat) (b : GBody) : Mach := { m with group := { m.group with loop := m.loopWithout g b } }

theorem messageTaken_mastered (m : Mach) (g : Nat) (b : GBody) : Mastered m (messageTaken m g b) := (Mastered.refl m).regroup _

theorem own_message {s : State} {i : Instr} {g : Nat} {b : GBody} {act : Mach → Mach}
    (hi : exec i s = s.run (fun m => m.gotMsg none g b act)) (h : ({ group := g, body := b } : GMsg) ∈ s.group.loop) :
    exec i s = .next (s.on (act (messageTaken s.toMach g b))) :=
  hi.trans (run_to (gotMsg_own h))

section

variable {m q : Mach} {c k : Nat} {r : MasterSt}

theorem startedRecord_congr (h : Mastered m q) (r : MasterSt) : startedRecord q r = startedRecord m r := by
  simp only [startedRecord, Mach.rdF, h.rd Reg.TRAVERSE_STEP_CFG_DEADLINE (by decide) (by decide),
    h.rd Reg.TRAVERSE_STEP_CFG_LIMIT (by decide) (by decide), h.field (f := Mach.planId) fun _ _ _ => rfl,
    h.field (f := Mach.timebase) fun _ _ _ => rfl]

/-- The record of a step once the only rank's JOIN is in it. -/
abbrev withJoin (m : Mach) (r : MasterSt) : MasterSt := { r with joins := [(0, 1, m.planId)] }

/-- The only rank's JOIN, with no step before and no attempt under way, starts the attempt. -/
theorem takeJoin_starts (hr : (m.master (soloGroup c) k).getD (m.newMaster (soloGroup c) k) = r) (hk : 1 ≤ k)
    (hprev : m.master (soloGroup c) (k - 1) = none) (hrun : r.running = false) (hres : r.resolving = false) (hj : r.joins = []) :
    m.takeJoin (soloGroup c) 0 k 1 m.planId =
      (m.setMaster (soloGroup c) k (withJoin m r)).sendStart (soloGroup c) k (withJoin m r) := by
  have hjoined : (m.setMaster (soloGroup c) k (withJoin m r)).joinCheck (soloGroup c) k =
      (m.setMaster (soloGroup c) k (withJoin m r)).sendStart (soloGroup c) k (withJoin m r) := by
    have hplan : (m.setMaster (soloGroup c) k (withJoin m r)).planId = m.planId := rfl
    have hall : (m.setMaster (soloGroup c) k (withJoin m r)).allJoined (soloGroup c) k (withJoin m r) = true := by
      simp [Mach.allJoined, groupSize_solo, hplan]
    simp [Mach.joinCheck, master_setMaster, hall, hrun, hres]
  have hkeep : (m.setMaster (soloGroup c) k (withJoin m r)).master (soloGroup c) (k - 1) = none := by
    rw [master_setMaster, if_neg (by omega), hprev]
  have hjoins : r.joins.filter (fun j => decide (j.1 ≠ 0)) ++ [(0, 1, m.planId)] = [(0, 1, m.planId)] := by rw [hj]; rfl
  unfold Mach.takeJoin
  rw [isMaster_solo]
  split
  · contradiction
  · split
    · contradiction
    · dsimp only
      rw [hr, hjoins, hkeep]
      exact hjoined

/-- What the master asks before it commits (R322, R452, R597). -/
theorem commitDecision_eq {g : Nat} {b : Nat} {w : StepSt} (hr : m.master g k = some r) (hw : (m.ctxOf g).bind (fun c => m.stepAt c k) = some (b, w)) :
    m.commitDecision g k = if r.running ∧ r.committedAt = none ∧ r.readies.length = m.groupSize g ∧ (m.master g (k - 1)).isNone ∧
        (!w.hostCommit ∨ r.allowed)
      then (m.setMaster g k { r with committedAt := some m.clk }).flood g (.commit k r.attempt w.norm) else m := by
  simp only [Mach.commitDecision, hr, hw]

theorem commitDecision_closed {g : Nat} (h : m.master g k = none) : m.commitDecision g k = m := by simp only [Mach.commitDecision, h]

theorem takeReady_late (hr : m.master (soloGroup c) k = some r) (h : r.deadline < m.timebase.ticks.toNat) (rank attempt : Nat) :
    m.takeReady (soloGroup c) rank k attempt = m := by
  simp only [Mach.takeReady, hr]
  exact if_neg fun hc => Nat.not_lt.mpr hc.2.2.1 h

theorem takeReady_intime (hr : m.master (soloGroup c) k = some r) (h : m.timebase.ticks.toNat ≤ r.deadline) (hrun : r.running = true)
    (hnone : r.readies = []) : m.takeReady (soloGroup c) 0 k r.attempt =
      (m.setMaster (soloGroup c) k { r with readies := [0] }).commitDecision (soloGroup c) k := by
  simp [Mach.takeReady, hr, h, hrun, hnone, isMaster_solo]

theorem takeFail_aborts (hr : m.master (soloGroup c) k = some r) (hrun : r.running = true) (status : Nat) :
    m.takeFail (soloGroup c) 0 k r.attempt status = m.masterAbort (soloGroup c) k 1 status 0 := by
  simp [Mach.takeFail, hr, hrun, isMaster_solo]

/-- The only rank's UPDATED closes the step, with no step after it. -/
theorem takeUpdated_closes (hr : m.master (soloGroup c) k = some r) (hc : r.committedAt.isSome = true) (hnone : r.updated = [])
    (hnext : m.master (soloGroup c) (k + 1) = none) :
    m.takeUpdated (soloGroup c) 0 k = (m.dropMaster (soloGroup c) k).flood (soloGroup c) (.close k) := by
  have hround : ∀ q : Mach, q.startRound (soloGroup c) k = q := fun q => by
    unfold Mach.startRound
    split
    · rfl
    · exact if_pos (.inl (Nat.le_add_right ..))
  have hend : ((m.dropMaster (soloGroup c) k).flood (soloGroup c) (.close k)).master (soloGroup c) (k + 1) = none := by
    rw [master_congr flood_masters, master_dropMaster, if_neg (by omega), hnext]
  simp [Mach.takeUpdated, hr, hc, hnone, isMaster_solo, groupSize_solo, Mach.sendClose, hround, commitDecision_closed hend]

end

/-! ### Deadlines (R452) -/

section

variable {m : Mach} {c : Nat} {x : Ctx} (hx : m.ctx c = some x) (hp : m.groupPlan = none)

include hx hp

theorem stepDeadline_eq {o : Option (Nat × MasterSt)}
    (ho : (m.openSteps c).find? (fun e => e.2.running && e.2.committedAt.isNone && decide (e.2.deadline ≤ m.timebase.ticks.toNat)) = o) :
    stepDeadline c m = o.elim m fun e => m.masterAbort (soloGroup c) e.1 2 0 0 := by
  subst ho
  have hgo : ¬ ((m.ctx c).isNone ∨ !m.isMaster (m.groupOf c)) := by simp [hx, groupOf_solo hp, isMaster_solo]
  rw [stepDeadline, if_neg hgo, groupOf_solo hp]
  split
  · next h => rw [h]; rfl
  · next h => rw [h]; rfl

theorem updateDeadline_eq {o : Option (Nat × MasterSt)}
    (ho : (m.openSteps c).find? (fun e => e.2.running && e.2.committedAt.elim false (fun t => decide (t + us e.2.deadlineUs ≤ m.clk))) = o) :
    updateDeadline c m = o.elim m fun e => m.masterAbort (soloGroup c) e.1 3 0 0 := by
  subst ho
  have hgo : ¬ ((m.ctx c).isNone ∨ !m.isMaster (m.groupOf c)) := by simp [hx, groupOf_solo hp, isMaster_solo]
  rw [updateDeadline, if_neg hgo, groupOf_solo hp]
  split
  · next h => rw [h]; rfl
  · next h => rw [h]; rfl

end

/-- What every abort of the master leaves of the module. -/
theorem Aborted.kept {m t : Mach} {g k attempt why status : Nat} (h : Aborted m t g k attempt why status) : t.ctxs = m.ctxs ∧ t.mem = m.mem :=
  ⟨h.field (f := Mach.ctxs) fun _ _ _ => rfl, h.field (f := Mach.mem) fun _ _ _ => rfl⟩

/-- Settles O47: each message of the only rank changes that step's record, and the master's answer is the one message that it sends. -/
theorem groupMaster : Obligations.GroupMaster := by
  intro s c x hsh hp hx g why inLoop ticks
  have hctxs : ∀ {t : Mach}, Mastered s.toMach t → t.ctxs = s.ctxs ∧ t.mem = s.mem := fun h =>
    ⟨h.field (f := Mach.ctxs) fun _ _ _ => rfl, h.field (f := Mach.mem) fun _ _ _ => rfl⟩
  refine ⟨fun k w hin hw ht0 hk hprev => ?_, fun k w r a hr hw hrun ha hin hnone => ?_, fun k r v hr hrun hin hv => ?_,
    fun k r hr hc hnone hnext hin => ?_, ⟨fun hdue => ?_, fun e r hdue hr => ?_⟩, fun hdue => ?_, fun e r hdue hr => ?_⟩
  · intro r hrun hres hj a td
    let q := messageTaken s.toMach g (.join 0 k 1 s.planId)
    let v := withJoin s.toMach r
    have hq : Mastered s.toMach (q.setMaster g k v) := (messageTaken_mastered s.toMach g _).setMaster
    have hv : startedRecord (q.setMaster g k v) v = startedRecord s.toMach v := startedRecord_congr hq v
    have hstart : q.takeJoin g 0 k 1 q.planId = (q.setMaster g k v).sendStart g k v := takeJoin_starts (r := r) rfl hk hprev hrun hres hj
    rw [sendStart_eq, hv] at hstart
    have hmade : Mastered s.toMach (q.takeJoin g 0 k 1 q.planId) := hstart ▸ hq.setMaster.flood
    have hloop : (q.takeJoin g 0 k 1 q.planId).group.loop = _ := (congrArg (fun m : Mach => m.group.loop) hstart).trans flood_loop
    refine ⟨_, own_message (act := fun m => m.takeJoin g 0 k 1 s.planId) rfl hin, hloop, (hctxs hmade).1,
      (hctxs hmade).2, startedRecord s.toMach v, ?_, rfl, rfl, rfl⟩
    exact (congrArg (fun m : Mach => m.master g k) hstart).trans ((master_congr flood_masters).trans (master_setMaster.trans (if_pos rfl)))
  · intro run kept
    subst ha
    let q := messageTaken s.toMach g (.ready 0 k r.attempt)
    have hrun' : run = .next (s.on (q.takeReady g 0 k r.attempt)) := own_message (act := fun m => m.takeReady g 0 k r.attempt) rfl hin
    let u : MasterSt := { r with readies := [0] }
    have hq : Mastered s.toMach (q.setMaster g k u) := (messageTaken_mastered s.toMach g _).setMaster
    have hu : (q.setMaster g k u).master g k = some u := master_setMaster.trans (if_pos rfl)
    have hstep : ((q.setMaster g k u).ctxOf g).bind (fun d => (q.setMaster g k u).stepAt d k) = some w := by
      rw [show (q.setMaster g k u).ctxOf g = some c.val from ctxOf_solo (x := x) hp c.isLt hx]
      exact (congrArg (Option.bind · _) hx).trans hw
    refine ⟨fun hlate => ?_, fun hin hk hprev hcommit hhost => ?_, fun hin hhost hallowed => ?_⟩
    · rw [hrun', takeReady_late (m := q) hr hlate]
    · have hgo : u.running ∧ u.committedAt = none ∧ u.readies.length = (q.setMaster g k u).groupSize g ∧
          ((q.setMaster g k u).master g (k - 1)).isNone ∧ (!w.2.hostCommit ∨ u.allowed) := by
        refine ⟨hrun, hcommit, (groupSize_solo _ _).symm, ?_, hhost.imp_left fun h => by rw [h]; rfl⟩
        rw [master_setMaster, if_neg (by omega)]
        exact Option.isNone_iff_eq_none.mpr hprev
      rw [takeReady_intime (m := q) hr hin hrun hnone, commitDecision_eq hu hstep, if_pos hgo] at hrun'
      exact ⟨_, _, hrun', flood_loop, (master_congr flood_masters).trans (master_setMaster.trans (if_pos rfl)), rfl,
        (hctxs hq.setMaster.flood).1, (hctxs hq.setMaster.flood).2⟩
    · rw [takeReady_intime (m := q) hr hin hrun hnone, commitDecision_eq hu hstep, if_neg (by simp [u, hhost, hallowed])] at hrun'
      exact ⟨_, hrun', rfl, (hctxs hq).1, (hctxs hq).2⟩
  · have ht := masterAbort_aborts (m := messageTaken s.toMach g (.fail 0 k r.attempt v)) (reason := 1) (rank := 0) hr (by decide) hv
    have hfail := takeFail_aborts (m := messageTaken s.toMach g (.fail 0 k r.attempt v)) hr hrun v
    exact ⟨_, (own_message (act := fun m => m.takeFail g 0 k r.attempt v) rfl hin).trans (congrArg (fun t => Host.Outcome.next (s.on t)) hfail),
      ht.loop, ht.reason, ht.shown, ht.kept⟩
  · have ht := takeUpdated_closes (m := messageTaken s.toMach g (.updated 0 k)) hr hc hnone hnext
    have hmade : Mastered s.toMach ((messageTaken s.toMach g (.updated 0 k)).takeUpdated g 0 k) :=
      ht ▸ (messageTaken_mastered s.toMach g _).dropMaster.flood
    have hloop : ((messageTaken s.toMach g (.updated 0 k)).takeUpdated g 0 k).group.loop = _ :=
      (congrArg (fun m : Mach => m.group.loop) ht).trans flood_loop
    refine ⟨_, own_message (act := fun m => m.takeUpdated g 0 k) rfl hin, hloop, ?_, hctxs hmade⟩
    exact (congrArg (fun m : Mach => m.master g k) ht).trans ((master_congr flood_masters).trans (master_dropMaster.trans (if_pos rfl)))
  · exact run_to (stepDeadline_eq hx hp hdue)
  · have ht := masterAbort_aborts (status := 0) (reason := 2) (rank := 0) hr (by decide) (by decide)
    exact ⟨_, run_to (stepDeadline_eq hx hp hdue), ht.loop, ht.reason, ht.kept⟩
  · exact run_to (updateDeadline_eq hx hp hdue)
  · have ht := masterAbort_aborts (status := 0) (reason := 3) (rank := 0) hr (by decide) (by decide)
    exact ⟨_, run_to (updateDeadline_eq hx hp hdue), ht.loop, ht.reason, ht.kept⟩

end Sys2Proof.Laws
end


section
namespace Sys2Proof.Laws

open Sys2Proof.Machine

/-!
# The host's step commands (R317, R318, R450, R597)

Each rule of a command is one equation on the module with its packet taken up; what the reply and the group message leave alone is said once.
-/

/-! ### Replies and messages -/

section

variable {m : Mach} {h : Hdr} {op : Nat}

theorem answer_group (st detail : Nat) : (m.answer h op st detail).group = m.group := Mach.send_group ..
theorem answer_csr (st detail : Nat) : (m.answer h op st detail).csr = m.csr := Mach.send_csr ..
theorem answer_ctxs (st detail : Nat) : (m.answer h op st detail).ctxs = m.ctxs := Mach.send_ctxs ..
theorem answer_mem (st detail : Nat) : (m.answer h op st detail).mem = m.mem := Mach.send_mem ..
theorem answer_ranges (st detail : Nat) : (m.answer h op st detail).ranges = m.ranges := Mach.send_ranges ..

/-- What looks neither at the packets that wait nor at Cairn's own state reads the same once a packet is taken up. -/
theorem took_field {β : Type} (f : Mach → β) (hf : ∀ (m : Mach) c a, f { m with cairn := c, swite := { m.swite with arrived := a } } = f m)
    (m : Mach) (op : Nat) (h : Hdr) : f (m.took op h) = f m := by
  obtain ⟨c, a, hq⟩ := took_eq m op h
  rw [hq]
  exact hf m c a

/-- A command that begins, where its rule is known on the module with its packet taken up. -/
theorem command_gives {s : State} {param : List Byte} {body : Mach → Mach} {t : Mach} (hb : s.begins op h param) (ht : body (s.took op h) = t) :
    s.run (fun m => m.command op h param body) = .next (s.on t) :=
  (command_begins s op h param body hb).trans (congrArg (fun t => Host.Outcome.next (s.on t)) ht)

/-- A member's message changes nothing but the messages of the group. -/
theorem toMaster_parts (m : Mach) (c : Nat) (b : GBody) : ∃ g, m.toMaster c b = { m with group := g } := by
  unfold Mach.toMaster
  dsimp only
  split
  · exact ⟨_, rfl⟩
  · unfold Mach.towardMaster
    split
    · unfold Mach.sendGroup
      split
      · exact ⟨_, rfl⟩
      · exact ⟨m.group, rfl⟩
    · exact ⟨m.group, rfl⟩

theorem toMaster_solo {c : Nat} (hp : m.groupPlan = none) (b : GBody) : m.toMaster c b = m.loopBack { group := soloGroup c, body := b } := by
  rw [Mach.toMaster, groupOf_solo hp]
  exact if_pos (isMaster_solo m c)

theorem sendJoin_frozen {c : Nat} (hf : m.frozen c = true) (base k : Nat) : m.sendJoin c base k = m := if_pos hf

theorem sendJoin_solo {c : Nat} (hf : m.frozen c = false) (hp : m.groupPlan = none) (base k : Nat) :
    m.sendJoin c base k = m.loopBack { group := soloGroup c, body := .join 0 k (if base = 0 then m.stepState c else 1) m.planId } := by
  have hjoin : m.sendJoin c base k = m.toMaster c (.join (m.groupRank (m.groupOf c)) k (if base = 0 then m.stepState c else 1) m.planId) :=
    if_neg (by rw [hf]; decide)
  rw [hjoin, groupOf_solo hp, groupRank_solo, toMaster_solo hp]

/-- JOIN of a group of one changes nothing but the messages that wait at this module. -/
theorem sendJoin_parts {c : Nat} (hp : m.groupPlan = none) (base k : Nat) : ∃ l, m.sendJoin c base k = { m with group := l } := by
  cases hf : m.frozen c
  · exact ⟨_, sendJoin_solo hf hp base k⟩
  · exact ⟨m.group, sendJoin_frozen hf base k⟩

end

/-! ### STEP_BEGIN -/

/-- The step that STEP_BEGIN opens. -/
def newStep (h : Hdr) (table k : Nat) : StepSt :=
  { step := k, table := table, attempt := 0, t0 := none, td := 0, limit := 0, started := false, entries := [], readySent := false, failed := none,
    norm := 0, hostCommit := bitOf h.flags 1, ending := false, skipped := false, lane := h.lane, tag := h.tag, prio := h.prio }

/-- The context with a step opened as its current one, and STEP_STATUS showing it. -/
def withStep (m : Mach) (c : Nat) (w : StepSt) : Mach :=
  (((m.updCtx c (fun x => { x with step := some w })).setStepState c 1).wrF (Reg.TRAVERSE_STEP_STATUS c) Fld.TRAVERSE_STEP_STATUS_ATTEMPT 0).wrF
    (Reg.TRAVERSE_STEP_STATUS c) Fld.TRAVERSE_STEP_STATUS_TABLE w.table

section

variable {m : Mach} {h : Hdr} {table : Nat} {x : Ctx}

/-- The states in which no step may be opened. -/
abbrev stepOpen (m : Mach) (c : Nat) (x : Ctx) : Prop := m.stepState c = 1 ∨ m.stepState c = 4 ∨ x.next.isSome = true

/-- Under a group plan, another context is the bound one. -/
abbrev otherBound (m : Mach) (c : Nat) : Prop :=
  m.groupPlan.isSome = true ∧ m.rdF Reg.TRAVERSE_STEP_GROUP Fld.TRAVERSE_STEP_GROUP_BOUND = 1 ∧ m.bound c = false

section

variable (hx : m.ctx h.ctx = some x)

include hx

theorem stepBegin_noTable (ht : (x.table table).elim true (fun t => t.serving) = true) :
    stepBeginBody h table m = m.answer h Op.stepBegin St.badParam := by
  simp [stepBeginBody, hx, ht]

variable {tb : Table} (ht : x.table table = some tb) (htr : tb.serving = false)

include ht htr

theorem stepBegin_otherBound (ho : otherBound m h.ctx) : stepBeginBody h table m = m.answer h Op.stepBegin St.notPermitted := by
  simp [stepBeginBody, hx, ht, htr, ho]

theorem stepBegin_busy (ho : ¬ otherBound m h.ctx) (hb : stepOpen m h.ctx x) : stepBeginBody h table m = m.answer h Op.stepBegin St.busy := by
  have hbusy : m.stepState h.ctx = 1 ∨ m.stepState h.ctx = 4 ∨ x.next.isSome ∨ (x.step.isSome ∧ m.groupPlan.isSome ∧ !m.bound h.ctx) := by tauto
  have hother : ¬ (m.groupPlan.isSome ∧ m.rdF Reg.TRAVERSE_STEP_GROUP Fld.TRAVERSE_STEP_GROUP_BOUND = 1 ∧ !m.bound h.ctx) := by simpa using ho
  simp only [stepBeginBody, hx, ht, Option.elim_some, htr, if_neg hother, if_pos hbusy, Bool.false_eq_true, if_false]

variable (hp : m.groupPlan = none) (hb : ¬ stepOpen m h.ctx x)

include hp hb

theorem stepBegin_badRecord (hs : m.stepState h.ctx = 0) {e i k : Nat} (hc : m.tarnCheck x h.ctx = some (e, i, k)) :
    stepBeginBody h table m = m.answer h Op.stepBegin St.badParam (i + 65536 * k + 16777216 * e) := by
  have hn : x.next.isSome = false := by simpa using fun hn => hb (.inr (.inr hn))
  simp [stepBeginBody, hx, ht, htr, hp, hs, hn, hc]

theorem stepBegin_current (hs : m.stepState h.ctx = 0) (hc : m.tarnCheck x h.ctx = none) :
    stepBeginBody h table m = (withStep ((m.rebaseAll h.ctx).accept h Op.stepBegin) h.ctx
      (newStep h table ((m.rebaseAll h.ctx).closedStep h.ctx + 1))).sendJoin h.ctx 0 ((m.rebaseAll h.ctx).closedStep h.ctx + 1) := by
  have hn : x.next.isSome = false := by simpa using fun hn => hb (.inr (.inr hn))
  simp [stepBeginBody, hx, ht, htr, hp, hs, hn, hc, withStep, newStep]

theorem stepBegin_next (hs : m.stepState h.ctx = 2 ∨ m.stepState h.ctx = 3) :
    stepBeginBody h table m = (((m.accept h Op.stepBegin).updCtx h.ctx
      (fun x => { x with next := some (newStep h table (m.closedStep h.ctx + 2)) })).sendJoin h.ctx 8192 (m.closedStep h.ctx + 2)) := by
  have hn : x.next.isSome = false := by simpa using fun hn => hb (.inr (.inr hn))
  have hidle : m.stepState h.ctx ≠ 0 ∧ m.stepState h.ctx ≠ 1 ∧ m.stepState h.ctx ≠ 4 := by omega
  simp [stepBeginBody, hx, ht, htr, hp, hidle, hn, newStep]

end

theorem rebaseAll_eq {c : Nat} (hx : m.ctx c = some x) :
    m.rebaseAll c = m.setCtx c (some ((m.allRecords x c).foldl (fun x r => x.rebase r.2.2 r.2.2.half) x)) := by
  simp only [Mach.rebaseAll, hx]

section

variable {c : Nat} (w : StepSt)

theorem withStep_ctx (hx : m.ctx c = some x) : (withStep m c w).ctx c = some { x with step := some w } :=
  ctx_updCtx_same (m := m) hx _

theorem withStep_rd {a : Nat} (ha : a ≠ Reg.TRAVERSE_STEP_STATUS c) : (withStep m c w).rd a = m.rd a :=
  (Mach.rd_wrF_other _ _ _ _ _ ha).trans ((Mach.rd_wrF_other _ _ _ _ _ ha).trans ((Mach.rd_wrF_other _ _ _ _ _ ha).trans
    (Mach.rd_congr _ _ _ (Mach.updCtx_csr ..))))

theorem withStep_stepState : (withStep m c w).stepState c = 1 :=
  (Mach.rdF_wrF_other _ _ _ _ _ _ (by decide) (by decide) (.inr (by decide))).trans
    ((Mach.rdF_wrF_other _ _ _ _ _ _ (by decide) (by decide) (.inr (by decide))).trans (Mach.rdF_wrF_same _ _ _ _ (by decide)))

/-- What looks neither at the registers nor at the contexts reads the same with a step opened. -/
theorem withStep_field {β : Type} (f : Mach → β) (hf : ∀ (m : Mach) r l, f { m with csr := r, ctxs := l } = f m) : f (withStep m c w) = f m := by
  have hupd : ∃ l, m.updCtx c (fun x => { x with step := some w }) = { m with ctxs := l } := by
    unfold Mach.updCtx
    split
    · exact ⟨m.ctxs, rfl⟩
    · exact ⟨_, rfl⟩
  obtain ⟨l, hl⟩ := hupd
  unfold withStep
  rw [hl]
  exact hf m _ l

end

end

/-- A reply touches Switewater's state, and a session's count of packets. -/
theorem send_parts (m : Mach) (r : Reply) : ∃ c w, m.send r = { m with cairn := c, swite := w } := by
  have hcount : ∀ q : Mach, ∃ c, q.countPacket r.lane true = { q with cairn := c } := fun q => by
    unfold Mach.countPacket
    split
    · exact ⟨q.cairn, rfl⟩
    · split
      · exact ⟨_, rfl⟩
      · exact ⟨q.cairn, rfl⟩
  unfold Mach.send
  split
  · exact ⟨m.cairn, _, rfl⟩
  · split
    · obtain ⟨c, hc⟩ := hcount (({ m with swite := { m.swite with replies := m.swite.replies ++ [r] } } : Mach).enqueue r.cls 0 r.bytes)
      exact ⟨c, _, hc⟩
    · exact ⟨m.cairn, _, rfl⟩

/-- What looks neither at Switewater's state nor at Cairn's reads the same once a command is accepted. -/
theorem accept_field {β : Type} (f : Mach → β) (hf : ∀ (m : Mach) c w, f { m with cairn := c, swite := w } = f m) (m : Mach) (h : Hdr) (op : Nat) :
    f (m.accept h op) = f m := by
  obtain ⟨c, w, hq⟩ := send_parts (m.begin h op) (replyOf h.prio h.lane h.ctx h.tag op St.accepted 0 [] false)
  rw [Mach.accept, hq]
  exact hf m c w

/-- STEP_BEGIN's reply. -/
abbrev stepAccepted (h : Hdr) : Reply := replyOf h.prio h.lane h.ctx h.tag Op.stepBegin St.accepted 0 [] false

section

variable {m : Mach} {h : Hdr} {x z : Ctx} (hp : m.groupPlan = none) (hup : h.lane = .mgmt ∨ m.dataUp = true)

include hp hup

/-- A current step opened in a group of one, over a context whose handles are rebased. -/
theorem currentStep_opened {w : StepSt} {k : Nat} (hc : h.ctx < m.ctxs.length) :
    let t := (withStep ((m.setCtx h.ctx (some z)).accept h Op.stepBegin) h.ctx w).sendJoin h.ctx 0 k
    t.ctx h.ctx = some { z with step := some w } ∧ t.stepState h.ctx = 1 ∧ t.closedStep h.ctx = m.closedStep h.ctx ∧ t.mem = m.mem ∧
      t.ranges = m.ranges ∧ t.swite.replies = m.swite.replies ++ [stepAccepted h] ∧
      (m.frozen h.ctx = false → t.group.loop = m.group.loop ++ [{ group := soloGroup h.ctx, body := .join 0 k 1 m.planId }]) := by
  intro t
  let u := (m.setCtx h.ctx (some z)).accept h Op.stepBegin
  have hu : ∀ {β : Type} (f : Mach → β) (_ : ∀ (m : Mach) c w r l, f { m with cairn := c, swite := w, csr := r, ctxs := l } = f m),
      f (withStep u h.ctx w) = f m := fun f hf =>
    (withStep_field w f fun m r l => hf m m.cairn m.swite r l).trans ((accept_field f (fun m c w => hf m c w m.csr m.ctxs) ..).trans
      (hf m m.cairn m.swite m.csr (m.ctxs.set h.ctx (some z))))
  have huz : u.ctx h.ctx = some z := (accept_ctx ..).trans (ctx_setCtx_same hc _)
  have hvp : (withStep u h.ctx w).groupPlan = none := (hu Mach.groupPlan fun _ _ _ _ _ => rfl).trans hp
  have hclosed : (withStep u h.ctx w).closedStep h.ctx = m.closedStep h.ctx :=
    congrArg BitVec.toNat ((withStep_rd w (by simp)).trans (Mach.rd_congr _ _ _ (Mach.send_csr ..)))
  have hreplies : (withStep u h.ctx w).swite.replies = m.swite.replies ++ [stepAccepted h] :=
    (withStep_field w (fun m => m.swite.replies) fun _ _ _ => rfl).trans (accept_replies (m := m.setCtx h.ctx (some z)) _ hup)
  obtain ⟨l, hl⟩ := sendJoin_parts (c := h.ctx) hvp 0 k
  have ht : t = { withStep u h.ctx w with group := l } := hl
  refine ⟨?_, ?_, ?_, ?_, ?_, ?_, fun hf => ?_⟩
  · rw [ht]; exact withStep_ctx w huz
  · rw [ht]; exact withStep_stepState w
  · rw [ht]; exact hclosed
  · rw [ht]; exact hu Mach.mem fun _ _ _ _ _ => rfl
  · rw [ht]; exact hu Mach.ranges fun _ _ _ _ _ => rfl
  · rw [ht]; exact hreplies
  · have hjoin := sendJoin_solo (m := withStep u h.ctx w) ((hu (fun m => m.frozen h.ctx) fun _ _ _ _ _ => rfl).trans hf) hvp 0 k
    rw [if_pos rfl, withStep_stepState, hu Mach.planId fun _ _ _ _ _ => rfl] at hjoin
    rw [show t = _ from hjoin]
    exact congrArg (· ++ _) (hu (fun m => m.group.loop) fun _ _ _ _ _ => rfl)

/-- A step begun after a committed one. -/
theorem nextStep_opened {w : StepSt} {k : Nat} (hx : m.ctx h.ctx = some x) :
    let t := ((m.accept h Op.stepBegin).updCtx h.ctx (fun x => { x with next := some w })).sendJoin h.ctx 8192 k
    t.ctx h.ctx = some { x with next := some w } ∧ t.stepState h.ctx = m.stepState h.ctx ∧ t.mem = m.mem ∧
      t.swite.replies = m.swite.replies ++ [stepAccepted h] := by
  intro t
  let v := (m.accept h Op.stepBegin).updCtx h.ctx (fun x => { x with next := some w })
  have hvp : v.groupPlan = none := by
    rw [Mach.groupPlan, Mach.updCtx_plan]
    exact (accept_field Mach.groupPlan (fun _ _ _ => rfl) ..).trans hp
  obtain ⟨l, hl⟩ := sendJoin_parts (c := h.ctx) hvp 8192 k
  rw [show t = _ from hl]
  refine ⟨ctx_updCtx_same (m := m.accept h Op.stepBegin) ((accept_ctx ..).trans hx) _, ?_, ?_, ?_⟩
  · exact Mach.rdF_congr _ _ _ _ ((Mach.updCtx_csr ..).trans (Mach.send_csr ..))
  · exact (Mach.updCtx_mem ..).trans (Mach.send_mem ..)
  · exact (congrArg SwiteSt.replies (Mach.updCtx_swite ..)).trans (accept_replies _ hup)

end

/-! ### The two commands at the master -/

section

variable {m : Mach} {h : Hdr} {k : Nat}

theorem stepCommit_notMaster (hm : m.isMaster (m.groupOf h.ctx) = false) : stepCommitBody h k m = m.answer h Op.stepCommit St.notPermitted :=
  if_pos (by rw [hm]; rfl)

theorem stepCommit_noStep (hm : m.isMaster (m.groupOf h.ctx) = true) (hk : m.stepAt h.ctx k = none) :
    stepCommitBody h k m = m.answer h Op.stepCommit St.badParam := by
  simp [stepCommitBody, hm, hk]

/-- The master's record of a step; a new one where it has none. -/
abbrev recordOf (m : Mach) (g k : Nat) : MasterSt := (m.master g k).getD (m.newMaster g k)

theorem stepCommit_allows (hm : m.isMaster (m.groupOf h.ctx) = true) (hk : (m.stepAt h.ctx k).isSome = true) :
    stepCommitBody h k m = ((m.setMaster (m.groupOf h.ctx) k { recordOf m (m.groupOf h.ctx) k with allowed := true }).commitDecision
      (m.groupOf h.ctx) k).answer h Op.stepCommit St.done := by
  obtain ⟨e, he⟩ := Option.isSome_iff_exists.mp hk
  simp [stepCommitBody, hm, he]

theorem stepAbort_notMaster (hm : m.isMaster (m.groupOf h.ctx) = false) : stepAbortBody h k m = m.answer h Op.stepAbort St.notPermitted :=
  if_pos (by rw [hm]; rfl)

theorem stepAbort_noStep (hm : m.isMaster (m.groupOf h.ctx) = true) (hk : m.stepAt h.ctx k = none) :
    stepAbortBody h k m = m.answer h Op.stepAbort St.badParam := by
  simp [stepAbortBody, hm, hk]

theorem stepAbort_aborts (hm : m.isMaster (m.groupOf h.ctx) = true) (hk : (m.stepAt h.ctx k).isSome = true) :
    stepAbortBody h k m = ((m.setMaster (m.groupOf h.ctx) k (recordOf m (m.groupOf h.ctx) k)).masterAbort (m.groupOf h.ctx) k 1 St.stepAborted 0).answer
      h Op.stepAbort St.done := by
  obtain ⟨e, he⟩ := Option.isSome_iff_exists.mp hk
  simp [stepAbortBody, hm, he]

/-- The decision to commit keeps a record's permission, and does the master's work only. -/
theorem commitDecision_keeps {g : Nat} {r : MasterSt} (hr : m.master g k = some r) :
    Mastered m (m.commitDecision g k) ∧ ∃ u, (m.commitDecision g k).master g k = some u ∧ u.allowed = r.allowed := by
  unfold Mach.commitDecision
  split
  · next v _ w hv hw =>
    split
    · refine ⟨(Mastered.refl m).setMaster.flood, _, (master_congr flood_masters).trans (master_setMaster.trans (if_pos rfl)), ?_⟩
      cases hr.symm.trans hv
      rfl
    · exact ⟨.refl m, r, hr, rfl⟩
  · exact ⟨.refl m, r, hr, rfl⟩

end

/-- What a master's work keeps of the replies that a command's own answer then ends. -/
theorem answer_mastered {m q t : Mach} {op : Nat} {h : Hdr} {param : List Byte} (hb : m.begins op h param) (hq : q = m.took op h)
    (ht : Mastered q t) (st detail : Nat) (data : List Byte) :
    (t.answer h op st detail data).swite.replies = m.swite.replies ++ [replyOf h.prio h.lane h.ctx h.tag op st detail data true] := by
  subst hq
  have hsw : t.swite = (m.took op h).swite := ht.field (f := Mach.swite) fun _ _ _ => rfl
  have hup : t.dataUp = m.dataUp := by
    rw [Mach.dataUp, Mach.rdF, ht.rd _ (by decide) (by decide), ← Mach.rdF, ← Mach.dataUp, took_dataUp]
  have hrep := send_replies (m := t) (r := replyOf h.prio h.lane h.ctx h.tag op st detail data true)
    ((begins_dataUp hb).imp_right fun hd => hup.trans hd)
  rwa [hsw, took_replies] at hrep

/-! ### The commands begun -/

section

variable {s : State} {h : Hdr} {k : Nat}

theorem took_isMaster (m : Mach) (op : Nat) (h : Hdr) :
    (m.took op h).isMaster ((m.took op h).groupOf h.ctx) = m.isMaster (m.groupOf h.ctx) :=
  took_field (fun m => m.isMaster (m.groupOf h.ctx)) (fun _ _ _ => rfl) m op h

theorem took_stepAt (m : Mach) (op : Nat) (h : Hdr) (k : Nat) : (m.took op h).stepAt h.ctx k = m.stepAt h.ctx k :=
  took_field (fun m => m.stepAt h.ctx k) (fun _ _ _ => rfl) m op h

theorem took_groupOf (m : Mach) (op : Nat) (h : Hdr) : (m.took op h).groupOf h.ctx = m.groupOf h.ctx :=
  took_field (fun m => m.groupOf h.ctx) (fun _ _ _ => rfl) m op h

/-- STEP_COMMIT at the master of an open step. -/
theorem stepCommit_done (hb : s.begins Op.stepCommit h (leBytes k 4)) (hm : s.isMaster (s.groupOf h.ctx) = true)
    (hk : (s.stepAt h.ctx k).isSome = true) : ∃ t r u, exec (.stepCommit h k) s = .next t ∧ t.master (s.groupOf h.ctx) k = some u ∧ u.allowed = true ∧
      t.ctxs = s.ctxs ∧ t.mem = s.mem ∧ t.ranges = s.ranges ∧ t.swite.replies = s.swite.replies ++ [r] ∧ r.status = St.done ∧ r.final = true := by
  let q := s.toMach.took Op.stepCommit h
  have hbody := stepCommit_allows (m := q) (k := k) ((took_isMaster ..).trans hm) ((congrArg Option.isSome (took_stepAt ..)).trans hk)
  rw [took_groupOf] at hbody
  obtain ⟨hq, u, hu, hallowed⟩ := commitDecision_keeps (m := q.setMaster (s.groupOf h.ctx) k { recordOf q (s.groupOf h.ctx) k with allowed := true })
    (master_setMaster.trans (if_pos rfl))
  have hqt := (Mastered.refl q).setMaster.trans hq
  refine ⟨_, _, u, command_gives hb hbody,
    (master_congr (congrArg GroupSt.masters (answer_group ..))).trans hu, hallowed, ?_, ?_, ?_, answer_mastered hb rfl hqt _ _ _, rfl, rfl⟩
  · exact (answer_ctxs ..).trans ((hqt.field (f := Mach.ctxs) fun _ _ _ => rfl).trans (took_ctxs ..))
  · exact (answer_mem ..).trans ((hqt.field (f := Mach.mem) fun _ _ _ => rfl).trans (took_mem ..))
  · exact (answer_ranges ..).trans ((hqt.field (f := Mach.ranges) fun _ _ _ => rfl).trans (took_ranges ..))

/-- STEP_ABORT at the master of an open step. -/
theorem stepAbort_done (hb : s.begins Op.stepAbort h (leBytes k 4)) (hm : s.isMaster (s.groupOf h.ctx) = true)
    (hk : (s.stepAt h.ctx k).isSome = true) :
    let r0 := recordOf s.toMach (s.groupOf h.ctx) k
    ∃ t r, exec (.stepAbort h k) s = .next t ∧
      t.group.loop = s.group.loop ++ [{ group := s.groupOf h.ctx, body := .abort k r0.attempt (abortReason s.toMach r0 1) }] ∧
      t.rdF Reg.TRAVERSE_STEP_ABORT Fld.TRAVERSE_STEP_ABORT_REASON = abortReason s.toMach r0 1 ∧
      t.rdF Reg.TRAVERSE_STEP_ABORT Fld.TRAVERSE_STEP_ABORT_STATUS = St.stepAborted ∧ t.ctxs = s.ctxs ∧ t.mem = s.mem ∧
      t.swite.replies = s.swite.replies ++ [r] ∧ r.status = St.done ∧ r.final = true := by
  intro r0
  let q := s.toMach.took Op.stepAbort h
  have hbody := stepAbort_aborts (m := q) (k := k) ((took_isMaster ..).trans hm) ((congrArg Option.isSome (took_stepAt ..)).trans hk)
  have hrec : recordOf q (s.groupOf h.ctx) k = r0 := took_field (fun m => recordOf m (s.groupOf h.ctx) k) (fun _ _ _ => rfl) ..
  have hwhy : abortReason (q.setMaster (s.groupOf h.ctx) k r0) r0 1 = abortReason s.toMach r0 1 :=
    took_field (fun m => abortReason m r0 1) (fun _ _ _ => rfl) s.toMach Op.stepAbort h
  rw [took_groupOf, hrec] at hbody
  have ht := masterAbort_aborts (m := q.setMaster (s.groupOf h.ctx) k r0) (g := s.groupOf h.ctx) (reason := 1) (rank := 0) (status := St.stepAborted)
    (master_setMaster.trans (if_pos rfl)) (by decide) (by decide)
  rw [hwhy] at ht
  have hqt := (Mastered.refl q).setMaster.trans ht.toMastered
  refine ⟨_, _, command_gives hb hbody, ?_,
    (Mach.rdF_congr _ _ _ _ (answer_csr ..)).trans ht.reason, (Mach.rdF_congr _ _ _ _ (answer_csr ..)).trans ht.shown, ?_, ?_,
    answer_mastered hb rfl hqt _ _ _, rfl, rfl⟩
  · exact (congrArg GroupSt.loop (answer_group ..)).trans (ht.loop.trans (congrArg (· ++ _) (took_field (fun m => m.group.loop) (fun _ _ _ => rfl) ..)))
  · exact (answer_ctxs ..).trans ((hqt.field (f := Mach.ctxs) fun _ _ _ => rfl).trans (took_ctxs ..))
  · exact (answer_mem ..).trans ((hqt.field (f := Mach.mem) fun _ _ _ => rfl).trans (took_mem ..))

end

/-- Settles O45: STEP_BEGIN opens the step that the context's state allows; STEP_COMMIT and STEP_ABORT are the master's own messages. -/
theorem stepCommands : Obligations.StepCommands := by
  refine ⟨fun s h x table hsh hx hb => ?_, fun s h k hsh => ?_⟩
  · intro c q run other open'
    have hrun : run = .next (s.on (stepBeginBody h table q)) := command_begins s _ _ _ _ hb
    have hqx : q.ctx h.ctx = some x := (took_ctx ..).trans hx
    have hstate : q.stepState h.ctx = s.stepState h.ctx := took_rdF ..
    have hopen : stepOpen q h.ctx x ↔ open' := by rw [stepOpen, hstate]
    have hother : otherBound q h.ctx ↔ other := iff_of_eq (took_field (fun m => otherBound m h.ctx) (fun _ _ _ => rfl) s.toMach Op.stepBegin h)
    have hcheck : q.tarnCheck x h.ctx = s.tarnCheck x h.ctx := took_field (fun m => m.tarnCheck x h.ctx) (fun _ _ _ => rfl) ..
    have hclosed : q.closedStep h.ctx = s.closedStep h.ctx := congrArg BitVec.toNat (took_rd ..)
    have hplan : q.groupPlan = s.groupPlan := took_field Mach.groupPlan (fun _ _ _ => rfl) ..
    have hup : h.lane = .mgmt ∨ q.dataUp = true := (begins_dataUp hb).imp_right ((took_dataUp ..).trans ·)
    have hmem : q.mem = s.mem := took_mem ..
    refine ⟨fun ht => ?_, fun tb ht htr => ⟨fun ho => ?_, fun ho hbusy => ?_, fun hp hb hs e i k hc => ?_, fun hp hb hs hc => ?_, fun hp hb hs => ?_⟩⟩
    · rw [hrun, stepBegin_noTable hqx (ht.elim (fun h0 => by simp [h0]) fun ⟨tb, h0, h1⟩ => by simp [h0, h1])]
    · rw [hrun, stepBegin_otherBound hqx ht htr (hother.mpr ho)]
    · rw [hrun, stepBegin_busy hqx ht htr (mt hother.mp ho) (hopen.mpr hbusy)]
    · rw [hrun, stepBegin_badRecord hqx ht htr (hplan.trans hp) (mt hopen.mp hb) (hstate.trans hs) (hcheck.trans hc)]
    · have hbody := stepBegin_current hqx ht htr (hplan.trans hp) (mt hopen.mp hb) (hstate.trans hs) (hcheck.trans hc)
      rw [rebaseAll_eq hqx, show Mach.closedStep (q.setCtx h.ctx _) h.ctx = s.closedStep h.ctx from hclosed] at hbody
      obtain ⟨hctx, hst, hcl, hm, hr, hrep, hjoin⟩ := currentStep_opened (m := q) (h := h) (w := newStep h table (s.closedStep h.ctx + 1))
        (k := s.closedStep h.ctx + 1) (z := (q.allRecords x h.ctx).foldl (fun x r => x.rebase r.2.2 r.2.2.half) x) (hplan.trans hp) hup (ctx_lt hqx)
      rw [← hbody] at hctx hst hcl hm hr hrep hjoin
      refine ⟨_, _, _, stepAccepted h, hrun, hctx, rfl, rfl, rfl, rfl, rfl, hst, hcl.trans hclosed, ?_, hm.trans hmem, hr.trans (took_ranges ..),
        hrep.trans (congrArg (· ++ _) (took_replies ..)), rfl, rfl, rfl, fun hf => ?_⟩
      · exact congrArg (fun l => (l.foldl (fun z e => z.rebase e.2.2 e.2.2.half) x).descs) (took_field (fun m => m.allRecords x h.ctx) (fun _ _ _ => rfl) ..)
      · rw [took_field Mach.planId (fun _ _ _ => rfl), took_field (fun m => m.group.loop) (fun _ _ _ => rfl)] at hjoin
        exact hjoin ((took_field (fun m => m.frozen h.ctx) (fun _ _ _ => rfl) ..).trans hf)
    · have hbody := stepBegin_next hqx ht htr (hplan.trans hp) (mt hopen.mp hb) (by rw [hstate]; exact hs)
      rw [hclosed] at hbody
      obtain ⟨hctx, hst, hm, hrep⟩ := nextStep_opened (m := q) (h := h) (w := newStep h table (s.closedStep h.ctx + 2)) (k := s.closedStep h.ctx + 2)
        (hplan.trans hp) hup hqx
      rw [← hbody] at hctx hst hm hrep
      exact ⟨_, _, _, stepAccepted h, hrun, hctx, rfl, rfl, rfl, rfl, hst.trans hstate, rfl, hm.trans hmem, hrep.trans (congrArg (· ++ _) (took_replies ..)),
        rfl, rfl⟩
  · intro g rec0 why
    refine ⟨fun hb => ⟨fun hm => ?_, fun hm hk => ?_, fun hm hk => stepCommit_done hb hm hk⟩,
      fun hb => ⟨fun hm => ?_, fun hm hk => ?_, fun hm hk => stepAbort_done hb hm hk⟩⟩
    · exact command_gives (body := stepCommitBody h k) hb (stepCommit_notMaster ((took_isMaster ..).trans hm))
    · exact command_gives (body := stepCommitBody h k) hb (stepCommit_noStep ((took_isMaster ..).trans hm) ((took_stepAt ..).trans hk))
    · exact command_gives (body := stepAbortBody h k) hb (stepAbort_notMaster ((took_isMaster ..).trans hm))
    · exact command_gives (body := stepAbortBody h k) hb (stepAbort_noStep ((took_isMaster ..).trans hm) ((took_stepAt ..).trans hk))

end Sys2Proof.Laws
end


section
namespace Sys2Proof.Laws

open Sys2Proof.Machine

/-!
# Schedule tables and their entries (R306 to R312, R515)

An entry's standing is one place of its table's list: what `entryReady` says of it, and what changing it leaves. Then one equation for each way that
SCHEDULE_ENTRY_START takes, and what the end of an entry keeps of its step.
-/

/-! ### The standing of an entry -/

section

variable {m q : Mach} {c k : Nat} {v u : EntrySt} {x : Ctx}

theorem entryAt_congr (h : q.ctxs = m.ctxs) : q.entryAt c k = m.entryAt c k := by
  rw [Mach.entryAt, Mach.ctx, h, ← Mach.ctx, Mach.entryAt]

theorem entryOver_eq (m : Mach) (c k st : Nat) : m.entryOver c k st = m.setEntry c k (.over st) := rfl

theorem entryAt_setEntry (h : m.entryAt c k = some u) : (m.setEntry c k v).entryAt c k = some v := by
  obtain ⟨x, hx, hu⟩ := Option.bind_eq_some_iff.mp h
  rw [Mach.entryAt, Mach.setEntry, ctx_updCtx_same hx, Option.bind_some]
  have hset : ∀ {l : List EntrySt} {i : Nat}, l[i]? = some u → (l.set i v)[i]? = some v := fun hi =>
    List.getElem?_set_self (List.getElem?_eq_some_iff.mp hi).1
  split at hu
  · obtain ⟨w, hw, hi⟩ := Option.bind_eq_some_iff.mp hu
    simp [*]
  · split at hu
    · obtain ⟨w, hw, hi⟩ := Option.bind_eq_some_iff.mp hu
      simp [*]
    · obtain ⟨w, hw, hi⟩ := Option.bind_eq_some_iff.mp hu
      simp [*]

/-- Changing a standing changes only its context. -/
theorem setEntry_parts (m : Mach) (c k : Nat) (v : EntrySt) : ∃ l, m.setEntry c k v = { m with ctxs := l } := by
  unfold Mach.setEntry Mach.updCtx
  split
  · exact ⟨m.ctxs, rfl⟩
  · exact ⟨_, rfl⟩

theorem ctx_setEntry (hx : m.ctx c = some x) : ∃ y, (m.setEntry c k v).ctx c = some y := ⟨_, ctx_updCtx_same hx _⟩

theorem running_step {o : Option StepSt} {tb : Table} {es : List EntrySt}
    (h : (o.bind fun w => if w.started && w.failed.isNone then (x.table w.table).map (fun t => (t, w.entries)) else none) = some (tb, es)) :
    ∃ w, o = some w ∧ w.entries = es := by
  obtain ⟨w, hw, hrun⟩ := Option.bind_eq_some_iff.mp h
  split at hrun
  · obtain ⟨t, _, he⟩ := Option.map_eq_some_iff.mp hrun
    exact ⟨w, hw, congrArg Prod.snd he⟩
  · cases hrun

theorem running_pass {tb : Table} {es : List EntrySt} (h : x.running 4096 = some (tb, es)) : ∃ p, x.pass = some p ∧ p.entries = es := by
  obtain ⟨p, hp, hrun⟩ := Option.bind_eq_some_iff.mp (show x.pass.bind _ = _ from h)
  split at hrun
  · cases hrun
  · obtain ⟨t, _, he⟩ := Option.map_eq_some_iff.mp hrun
    exact ⟨p, hp, congrArg Prod.snd he⟩

/-- The running table of an entry number holds the entry's standing. -/
theorem entryAt_running {tb : Table} {es : List EntrySt} (hx : m.ctx c = some x) (hrun : x.running (k / 4096 * 4096) = some (tb, es))
    (hk : k / 4096 * 4096 ≤ 8192) : m.entryAt c k = es[k - k / 4096 * 4096]? := by
  rw [Mach.entryAt, hx, Option.bind_some]
  obtain hb | hb | hb : k / 4096 * 4096 = 0 ∨ k / 4096 * 4096 = 4096 ∨ k / 4096 * 4096 = 8192 := by omega
  · rw [hb] at hrun
    obtain ⟨w, hw, he⟩ := running_step (o := x.step) hrun
    rw [if_neg (by omega), if_neg (by omega), hb, hw, ← he]
    rfl
  · rw [hb] at hrun
    obtain ⟨p, hp, he⟩ := running_pass hrun
    rw [if_neg (by omega), if_pos (by omega), hb, hp, ← he]
    rfl
  · rw [hb] at hrun
    obtain ⟨w, hw, he⟩ := running_step (o := x.next) hrun
    rw [if_pos (by omega), hb, hw, ← he]
    rfl

theorem entryReady_waits {base i : Nat} {tb : Table} {es : List EntrySt} (h : m.entryReady base tb es i = true) :
    es[i]? = some .waiting ∧ base ≤ 8192 := by
  unfold Mach.entryReady at h
  split at h
  · cases h
  · simp only [Bool.and_eq_true, decide_eq_true_eq] at h
    tauto

end

/-! ### SCHEDULE_ENTRY_START -/

section

variable {m : Mach} {c k : Nat} {x : Ctx}

/-- The first entry number of the table that an entry number belongs to. -/
abbrev baseOf (k : Nat) : Nat := k / 4096 * 4096

theorem entryStart_idle (hx : m.ctx c = some x) (hrun : x.running (baseOf k) = none) : entryStart c k m = m := by
  simp [entryStart, hx, hrun]

section

variable {tb : Table} {es : List EntrySt} (hx : m.ctx c = some x) (hrun : x.running (baseOf k) = some (tb, es))

include hx hrun

theorem entryStart_held (h : m.entryReady (baseOf k) tb es (k - baseOf k) = false ∨ m.clearing = true ∨ m.freezeHolds c (baseOf k) = true) :
    entryStart c k m = m := by
  have hheld : !m.entryReady (baseOf k) tb es (k - baseOf k) ∨ m.clearing ∨ m.freezeHolds c (baseOf k) := h.imp_left fun h => by rw [h]; rfl
  simp only [entryStart, hx, Option.bind_some, hrun]
  exact if_pos hheld

variable {e : Entry} (he : tb.entries[k - baseOf k]? = some e) (hready : m.entryReady (baseOf k) tb es (k - baseOf k) = true)
  (hclear : m.clearing = false) (hfree : m.freezeHolds c (baseOf k) = false) (hfirst : m.firstReady (baseOf k) tb es = some (k - baseOf k))

include hready

theorem entryAt_waits : m.entryAt c k = some .waiting :=
  have hwait := entryReady_waits hready
  (entryAt_running hx hrun hwait.2).trans hwait.1

include he hclear hfree hfirst

theorem entryStart_stream (hs : e.copy = false) : entryStart c k m = m.startStreamEntry c k e := by
  simp [entryStart, hx, hrun, he, hready, hclear, hfree, hfirst, hs]

theorem entryStart_copy (hs : e.copy = true) (hstarve : m.starvedBy c k = false) : entryStart c k m = (m.entryClaims e).startCopy c k e := by
  simp [entryStart, hx, hrun, he, hready, hclear, hfree, hfirst, hs, hstarve]

end

variable {e : Entry}

theorem startStreamEntry_refused {st : Nat} (hst : m.startStatus c e.image (b2n e.lockstep) e.mask = some st) :
    m.startStreamEntry c k e = (m.entryStops c k).entryOver c k st := by
  simp only [Mach.startStreamEntry, hst]

variable {img : Image} (hx : m.ctx c = some x) (himg : x.image e.image = some img) (hst : m.startStatus c e.image (b2n e.lockstep) e.mask = none)
  (hstarve : m.starvedBy c k = false)

include hx himg hst hstarve

theorem startStreamEntry_starts {g : Rat × Nat} (hg : m.grantOf (m.newStream c e.image img e.mask e.lockstep (.entry k) (x.prioAt k)) = some g) :
    m.startStreamEntry c k e = ((({ m.entryStops c k with nextStream := m.nextStream + 1 } : Mach).entryClaims e).setEntry c k .running).launch
      { m.newStream c e.image img e.mask e.lockstep (.entry k) (x.prioAt k) with grant := g.1, boost := g.2 } := by
  simp [Mach.startStreamEntry, hst, hx, himg, hstarve, hg]

theorem startStreamEntry_waits (hg : m.grantOf (m.newStream c e.image img e.mask e.lockstep (.entry k) (x.prioAt k)) = none) :
    m.startStreamEntry c k e = m.entryWaits c k := by
  simp [Mach.startStreamEntry, hst, hx, himg, hstarve, hg]

end

/-! ### What a start leaves alone -/

section

variable {m : Mach} {c k : Nat} {e : Entry}

theorem entryClaims_parts (m : Mach) (e : Entry) : ∃ l, m.entryClaims e = { m with channels := l } := by
  unfold Mach.entryClaims
  split
  · exact ⟨_, rfl⟩
  · exact ⟨m.channels, rfl⟩

/-- An entry that has no grant is among the units that wait. -/
theorem entryWaits_waiting (m : Mach) (c k : Nat) : (∃ w, m.entryWaits c k = { m with treeline := w }) ∧
    ∃ w ∈ (m.entryWaits c k).treeline.waiting, w.stream = none ∧ w.ctx = c ∧ w.entry = k := by
  unfold Mach.entryWaits
  split
  · next h =>
    obtain ⟨w, hw, hc⟩ := List.any_eq_true.mp h
    simp only [Bool.and_eq_true, decide_eq_true_eq, and_assoc] at hc
    exact ⟨⟨m.treeline, rfl⟩, w, hw, hc⟩
  · exact ⟨⟨_, rfl⟩, _, List.mem_append_right _ (List.mem_singleton_self _), rfl, rfl, rfl⟩

theorem launchRange_ctxs {s : Machine.Stream} {x : Ctx} {arm : Option (Word × Word)} {n : Nat} (h16 : n < 16) :
    (m.launchRange s x arm n).ctxs = m.ctxs := by
  obtain ⟨q, f, kHz, heq, ho, _⟩ := launchRange_parts (K := (· = n)) (m := m) (s := s) (x := x) (arm := arm) rfl h16
  rw [heq, runRange_field Mach.updIsland_ctxs, Mach.updRange_ctxs, ho.ctxs]

theorem launch_ctxs (m : Mach) (s : Machine.Stream) : (m.launch s).ctxs = m.ctxs := by
  have hshow : ∀ q : Mach, q.showBudget.ctxs = q.ctxs := fun q => by
    unfold Mach.showBudget
    rw [each_field (g := Mach.ctxs) fun _ _ => Mach.wrF_ctxs ..]
    rw [Mach.wrF_ctxs, Mach.wrF_ctxs, Mach.wrF_ctxs]
  unfold Mach.launch
  split
  · rfl
  · next x _ =>
    rw [hshow]
    obtain ⟨hc, _⟩ := each_establishes (I := fun q => q.ctxs = m.ctxs) (P := fun _ _ => True) (l := maskBits s.mask 16)
      (f := fun q n => q.launchRange s x (m.armOf s.mask) n) (fun q n hn hq => (launchRange_ctxs (mem_maskBits.mp hn).1).trans hq)
      (fun _ _ _ _ => trivial) (fun _ _ _ _ _ _ _ => trivial) { m with
        streams := m.streams.filter (fun t => decide (t.id ≠ s.id)) ++ [{ s with admitted := true, progress := m.clk }],
        arms := m.arms.map (fun a => if a.mask &&& s.mask ≠ 0 then { a with ranges := a.ranges ||| s.mask } else a),
        treeline := { m.treeline with waiting := m.treeline.waiting.filter (fun w => decide (w.stream ≠ some s.id)) } } rfl
    exact hc

end

/-! ### Copy entries -/

section

variable {m : Mach} {c k : Nat} {e : Entry} {x : Ctx} {a b : Desc} (hx : m.ctx c = some x) (ha : x.desc e.src = some a) (hb : x.desc e.dst = some b)

include hx ha hb

theorem startCopy_invalid (h : a.valid = false ∨ b.valid = false ∨ copyAgrees a b = false) : m.startCopy c k e = m.entryOver c k St.descInvalid := by
  have hno : (a.valid && b.valid && copyAgrees a b) = false := by grind
  simp [Mach.startCopy, Mach.descOf, hx, ha, hb, hno]

/-- The copy that an entry starts. -/
def entryCopy (c k : Nat) (e : Entry) (a b : Desc) : CopyJob :=
  { ctx := c, owner := .entry k, src := some a.base, dst := b.base, pattern := 0, length := 0, handles := some (e.src, e.dst), slot := none, arrived := [],
    sent := false, failed := 0, moved := 0, prio := 0 }

theorem startCopy_starts (hva : a.valid = true) (hvb : b.valid = true) (hagree : copyAgrees a b = true) (hsealed : m.mem.sealed = []) :
    m.startCopy c k e = (m.setEntry c k .running).beginCopy x (entryCopy c k e a b) := by
  have hleak : m.leaks x (entryCopy c k e a b) = false := leaks_unsealed x _ hsealed
  rw [entryCopy] at hleak
  simp [Mach.startCopy, Mach.descOf, hx, ha, hb, hva, hvb, hagree, hleak, entryCopy]

end

theorem hostTxn_ctxs (m : Mach) (write : Bool) (pa len : Nat) (data : List Byte) (merge : List (Nat × Nat × Nat)) (owner : TxnOwner) :
    (m.hostTxn write pa len data merge owner).ctxs = m.ctxs := by
  unfold Mach.hostTxn
  dsimp only
  split
  · rfl
  · rfl

theorem beginCopy_ctxs (m : Mach) (x : Ctx) (j : CopyJob) : (m.beginCopy x j).ctxs = m.ctxs :=
  foldl_keeps (fun q : Mach => q.ctxs = m.ctxs) _ (fun _ _ hq => (hostTxn_ctxs ..).trans hq) _ _ rfl

/-! ### SCHEDULE_LOAD -/

/-- Whether an open step or pass of a context uses a table. -/
abbrev tableUsed (x : Ctx) (k : Nat) : Prop :=
  (∃ w, x.step = some w ∧ w.table = k) ∨ (∃ w, x.next = some w ∧ w.table = k) ∨ (∃ w, x.pass = some w ∧ w.table = k)

theorem tableUsed_iff (x : Ctx) (k : Nat) : (x.step.elim false (fun s => decide (s.table = k)) || x.next.elim false (fun s => decide (s.table = k)) ||
    x.pass.elim false (fun p => decide (p.table = k))) = true ↔ tableUsed x k := by
  have hone : ∀ {α : Type} (o : Option α) (f : α → Nat), o.elim false (fun w => decide (f w = k)) = true ↔ ∃ w, o = some w ∧ f w = k := fun o f => by
    cases o
    · simp
    · simp
  rw [Bool.or_eq_true, Bool.or_eq_true, hone, hone, hone, or_assoc]

section

variable {m : Mach} {h : Hdr} {x : Ctx} {k : Nat} {payload : List Byte} (hx : m.ctx h.ctx = some x)

include hx

theorem scheduleLoad_number (hk : 16 ≤ k) : scheduleLoadBody h k payload m = m.answer h Op.scheduleLoad St.badParam 0xFFFF := by
  simp [scheduleLoadBody, hx, hk]

variable (hk : k < 16)

include hk

theorem scheduleLoad_badTable {i : Nat} (ht : tableCheck payload x.syncLen = .error i) :
    scheduleLoadBody h k payload m = m.answer h Op.scheduleLoad St.badParam i := by
  simp [scheduleLoadBody, hx, ht, Nat.not_le.mpr hk]

variable {tb : Table} (ht : tableCheck payload x.syncLen = .ok tb)

include ht

theorem scheduleLoad_used (hu : tableUsed x k) : scheduleLoadBody h k payload m = m.answer h Op.scheduleLoad St.busy := by
  simp only [scheduleLoadBody, hx, ht, if_neg (Nat.not_le.mpr hk), if_pos ((tableUsed_iff x k).mpr hu)]

theorem scheduleLoad_stores (hu : ¬ tableUsed x k) : scheduleLoadBody h k payload m =
    (m.updCtx h.ctx (fun x => { x with tables := (k, tb) :: x.tables.filter (fun e => decide (e.1 ≠ k)) })).answer h Op.scheduleLoad St.done := by
  simp only [scheduleLoadBody, hx, ht, if_neg (Nat.not_le.mpr hk), if_neg (mt (tableUsed_iff x k).mp hu)]

end

theorem table_stored (x : Ctx) (k : Nat) (tb : Table) : ({ x with tables := (k, tb) :: x.tables.filter (fun e => decide (e.1 ≠ k)) } : Ctx).table k = some tb := by
  simp [Ctx.table]

theorem table_kept (x : Ctx) {k j : Nat} (tb : Table) (hj : j ≠ k) :
    ({ x with tables := (k, tb) :: x.tables.filter (fun e => decide (e.1 ≠ k)) } : Ctx).table j = x.table j := by
  have hfind : ((k, tb) :: x.tables.filter (fun e => decide (e.1 ≠ k))).find? (fun e => decide (e.1 = j)) = x.tables.find? (fun e => decide (e.1 = j)) := by
    rw [List.find?_cons_of_neg (by simpa using hj.symm), List.find?_filter]
    exact congrArg (List.find? · _) (funext fun e => by grind)
  exact congrArg (Option.map _) hfind

/-! ### The end of an entry -/

/-- The entries of a context's current step, and the status that has failed it. -/
def stepView (m : Mach) (c : Nat) : Option (List EntrySt × Option Nat) := ((m.ctx c).bind (fun x => x.step)).map (fun w => (w.entries, w.failed))

/-- Memory, and the current step of a context, are as they were. -/
structure StepKept (c : Nat) (m q : Mach) : Prop where
  mem : q.mem = m.mem
  view : stepView q c = stepView m c

section

variable {c d : Nat} {m q r : Mach}

theorem StepKept.refl (c : Nat) (m : Mach) : StepKept c m m := ⟨rfl, rfl⟩

theorem StepKept.trans (h : StepKept c m q) (g : StepKept c q r) : StepKept c m r := ⟨g.mem.trans h.mem, g.view.trans h.view⟩

theorem StepKept.of (mem : q.mem = m.mem) (ctxs : q.ctxs = m.ctxs) : StepKept c m q := ⟨mem, by rw [stepView, Mach.ctx, ctxs, ← Mach.ctx, stepView]⟩

/-- A change of contexts that leaves the entries and the failure of every current step. -/
theorem StepKept.updCtx {f : Ctx → Ctx} (hf : ∀ x, (f x).step.map (fun w => (w.entries, w.failed)) = x.step.map (fun w => (w.entries, w.failed))) :
    StepKept c m (m.updCtx d f) := by
  refine ⟨Mach.updCtx_mem .., ?_⟩
  by_cases hd : c = d
  · subst hd
    cases hx : m.ctx c with
    | none => rw [Mach.updCtx, hx]
    | some x =>
      rw [stepView, ctx_updCtx_same hx, stepView, hx]
      exact hf x
  · rw [stepView, ctx_updCtx_other m hd, stepView]

theorem StepKept.each {f : Mach → Nat → Mach} (hf : ∀ q n, StepKept c q (f q n)) (l : List Nat) : StepKept c m (m.each l f) :=
  foldl_keeps (StepKept c m) f (fun q n hq => hq.trans (hf q n)) l m (.refl c m)

theorem toMaster_kept (m : Mach) (c d : Nat) (b : GBody) : StepKept c m (m.toMaster d b) := by
  obtain ⟨g, hg⟩ := toMaster_parts m d b
  rw [hg]
  exact .of rfl rfl

theorem checkReady_kept (m : Mach) (c d : Nat) : StepKept c m (m.checkReady d) := by
  refine .each (fun q base => ?_) _
  split
  · split
    · refine StepKept.trans (.updCtx fun x => ?_) (toMaster_kept ..)
      split
      · cases x.step <;> rfl
      · rfl
    · exact .refl c q
  · exact .refl c q

theorem finish_kept (m : Mach) (c : Nat) (lane : Lane) (d tag op status detail : Nat) (data : List Byte) :
    StepKept c m (m.finish lane d tag op status detail data) := by
  unfold Mach.finish
  exact .of (Mach.send_mem ..) (Mach.send_ctxs ..)

theorem zeroCounters_kept (m : Mach) (c d : Nat) (t : Table) : StepKept c m (m.zeroCounters d t) :=
  .each (fun _ _ => .of (Mach.wr_mem ..) (Mach.wr_ctxs ..)) _

theorem release_kept (m : Mach) (c d : Nat) (p : Push) : StepKept c m (m.release d p) := by
  unfold Mach.release
  dsimp only
  have hwait : StepKept c m (m.updCtx d fun x => { x with pushWait := none }) := .updCtx fun _ => rfl
  split
  · exact hwait.trans (finish_kept ..)
  · refine hwait.trans (StepKept.trans ?_ (.updCtx fun _ => rfl))
    exact StepKept.trans (.of (Mach.addF_mem ..) (Mach.addF_ctxs ..)) (zeroCounters_kept ..)

theorem tryRelease_kept (m : Mach) (c d : Nat) : StepKept c m (m.tryRelease d) := by
  unfold Mach.tryRelease
  split
  · exact .refl c m
  · split
    · split
      · exact .refl c m
      · exact release_kept ..
    · exact .refl c m

theorem unpin_kept (m : Mach) (c n : Nat) : StepKept c m (m.unpin n) :=
  StepKept.trans (.each (fun _ _ => .of (Mach.updIsland_mem ..) (Mach.updIsland_ctxs ..)) _) (.of (Mach.wrF_mem ..) (Mach.wrF_ctxs ..))

theorem settlePass_kept (m : Mach) (c d : Nat) : StepKept c m (m.settlePass d) := by
  unfold Mach.settlePass
  split
  · exact .refl c m
  · split
    · exact .refl c m
    · extract_lets going complete m₁ m₂ out m₃
      split
      · exact .refl c m
      · have h₁ : StepKept c m m₁ := .updCtx fun _ => rfl
        have h₂ : StepKept c m₁ m₂ := .each (fun q n => unpin_kept ..) _
        have h₃ : StepKept c m₂ m₃ := by
          unfold m₃
          split
          · exact finish_kept ..
          · exact (finish_kept ..).trans (.of rfl rfl)
        exact ((h₁.trans h₂).trans h₃).trans (tryRelease_kept ..)

end

section

variable {m : Mach} {c k st : Nat} {x : Ctx} {w : StepSt}

/-- What a failing status leaves as the failure of an attempt (R311, R332): the first one, once the attempt has started. -/
def failedBy (w : StepSt) (st : Nat) : Option Nat := if w.t0.isSome = true ∧ w.failed = none then some st else w.failed

theorem sendFail_view (hx : m.ctx c = some x) (hw : x.step = some w) (st : Nat) :
    (m.sendFail c 0 st).mem = m.mem ∧ stepView (m.sendFail c 0 st) c = some (w.entries, failedBy w st) := by
  have hview : stepView m c = some (w.entries, w.failed) := by rw [stepView, hx, Option.bind_some, hw]; rfl
  have hguard : w.t0.isNone ∨ w.failed.isSome ↔ ¬ (w.t0.isSome = true ∧ w.failed = none) := by
    simp [Option.isSome_iff_ne_none, imp_iff_not_or]
  unfold Mach.sendFail
  simp only [hx, Option.bind_some, if_true, hw]
  split
  · next hno =>
    rw [failedBy, if_neg (hguard.mp hno)]
    exact ⟨rfl, hview⟩
  · next hgo =>
    have hupd : stepView (m.updStep c 0 fun s => { s with failed := some st }) c = some (w.entries, some st) := by
      rw [stepView, Mach.updStep, ctx_updCtx_same hx, Option.bind_some, if_pos rfl, hw]
      rfl
    have hkept := toMaster_kept (m.updStep c 0 fun s => { s with failed := some st }) c c (.fail (m.groupRank (m.groupOf c)) w.step w.attempt st)
    rw [failedBy, if_pos (not_not.mp (mt hguard.mpr hgo))]
    exact ⟨hkept.mem.trans (Mach.updCtx_mem ..), hkept.view.trans hupd⟩

theorem entryEnd_pending (h : ∀ st, m.entryAt c k ≠ some (.over st)) : entryEnd c k m = m := by
  unfold entryEnd
  split
  · next st he => exact absurd he (h st)
  · rfl

/-- The step's entry that is over has ended, and a status other than DONE fails its attempt. -/
theorem entryEnd_view (hx : m.ctx c = some x) (hw : x.step = some w) (hk : k < 4096) (he : m.entryAt c k = some (.over st)) :
    (entryEnd c k m).mem = m.mem ∧
      stepView (entryEnd c k m) c = some (w.entries.set k (.ended st), if st = St.done then w.failed else failedBy w st) := by
  have hset : ∃ y u, (m.setEntry c k (.ended st)).ctx c = some y ∧ y.step = some u ∧ u.entries = w.entries.set k (.ended st) ∧ u.failed = w.failed ∧
      u.t0 = w.t0 := by
    refine ⟨_, { w with entries := w.entries.set k (.ended st) }, ctx_updCtx_same hx _, ?_, rfl, rfl, rfl⟩
    rw [if_neg (by omega), if_neg (by omega), hw]
    rfl
  obtain ⟨y, u, hy, hu, hentries, hfailed, ht0⟩ := hset
  have hsettle : ∀ q : Mach, StepKept c q ((q.checkReady c).settlePass c) := fun q => (checkReady_kept ..).trans (settlePass_kept ..)
  unfold entryEnd
  simp only [he]
  refine ⟨(hsettle _).mem.trans ?_, (hsettle _).view.trans ?_⟩
  · split
    · exact Mach.updCtx_mem ..
    · rw [if_neg (by omega), if_neg (by omega)]
      exact (sendFail_view hy hu st).1.trans (Mach.updCtx_mem ..)
  · split
    · rw [stepView, hy, Option.bind_some, hu, Option.map_some, hentries, hfailed]
    · rw [if_neg (by omega), if_neg (by omega), (sendFail_view hy hu st).2, hentries, failedBy, failedBy, hfailed, ht0]

end

/-! ### The starts of entries, with what they leave -/

section

variable {m : Mach} {c k : Nat} {x : Ctx} {e : Entry}

/-- A stream entry with a grant runs on every range of its mask. -/
theorem startStreamEntry_launched {img : Image} {g : Rat × Nat} (hx : m.ctx c = some x) (himg : x.image e.image = some img)
    (hst : m.startStatus c e.image (b2n e.lockstep) e.mask = none) (hstarve : m.starvedBy c k = false) (hat : m.entryAt c k = some .waiting)
    (hlen : m.ranges.length = 16) (hg : m.grantOf (m.newStream c e.image img e.mask e.lockstep (.entry k) (x.prioAt k)) = some g) :
    (m.startStreamEntry c k e).entryAt c k = some .running ∧ (m.startStreamEntry c k e).mem = m.mem ∧
      ∀ n ∈ maskBits e.mask 16, Launched m (m.startStreamEntry c k e) (m.newStream c e.image img e.mask e.lockstep (.entry k) (x.prioAt k)) n := by
  rw [startStreamEntry_starts hx himg hst hstarve hg]
  obtain ⟨l, hl⟩ := entryClaims_parts { m.entryStops c k with nextStream := m.nextStream + 1 } e
  rw [hl]
  let q : Mach := { m.entryStops c k with nextStream := m.nextStream + 1, channels := l }
  obtain ⟨d, hd⟩ := setEntry_parts q c k .running
  obtain ⟨y, hy⟩ := ctx_setEntry (m := q) (k := k) (v := .running) hx
  have hqat : (q.setEntry c k .running).entryAt c k = some .running := entryAt_setEntry (m := q) hat
  have hmem : (q.setEntry c k .running).mem = m.mem := by rw [hd]; rfl
  have hranges : (q.setEntry c k .running).ranges = m.ranges := by rw [hd]; rfl
  obtain ⟨hl, _, hm⟩ := launch_spec (m := q.setEntry c k .running)
    (s := { m.newStream c e.image img e.mask e.lockstep (.entry k) (x.prioAt k) with grant := g.1, boost := g.2 }) hy (by rw [hranges, hlen])
  refine ⟨(entryAt_congr (launch_ctxs ..)).trans hqat, hm.trans hmem, fun n hn => ?_⟩
  obtain ⟨h₁, h₂, h₃, h₄, h₅⟩ := hl n hn
  exact ⟨h₁, h₂, h₃, h₄.trans (congrArg (fun l => (l.getD n RangeSt.reset).tiles) hranges), h₅⟩

/-- A copy entry whose descriptors agree starts its copy. -/
theorem startCopy_started {a b : Desc} (hx : m.ctx c = some x) (ha : x.desc e.src = some a) (hb : x.desc e.dst = some b)
    (hat : m.entryAt c k = some .waiting) (hva : a.valid = true) (hvb : b.valid = true) (hagree : copyAgrees a b = true) (hsealed : m.mem.sealed = []) :
    ((m.entryClaims e).startCopy c k e).entryAt c k = some .running ∧
      ((m.entryClaims e).startCopy c k e).copies = m.copies ++ [entryCopy c k e a b] ∧ ((m.entryClaims e).startCopy c k e).mem = m.mem := by
  obtain ⟨l, hl⟩ := entryClaims_parts m e
  rw [hl, startCopy_starts (m := { m with channels := l }) hx ha hb hva hvb hagree hsealed]
  obtain ⟨d, hd⟩ := setEntry_parts { m with channels := l } c k .running
  have hask := beginCopy_asks (({ m with channels := l } : Mach).setEntry c k .running) x (entryCopy c k e a b)
  refine ⟨(entryAt_congr (beginCopy_ctxs ..)).trans (entryAt_setEntry (m := { m with channels := l }) hat), hask.copies.trans ?_, hask.mem.trans ?_⟩
  · rw [hd]
  · rw [hd]

end

/-- Settles O44: a table is stored whole or refused, its first ready entry starts its work, and the end of an entry fails at most its own attempt. -/
theorem scheduleTables : Obligations.ScheduleTables := by
  refine ⟨fun s h x k payload hsh hx hb => ?_, fun s c x k hsh hx => ?_, fun s c k hsh => ⟨fun hno => ?_, fun st hk he => ?_⟩⟩
  · intro q run used
    have hqx : q.ctx h.ctx = some x := (took_ctx ..).trans hx
    refine ⟨fun hk => ?_, fun hk i ht => ?_, fun hk tb ht => ⟨fun hu => ?_, fun hu => ?_⟩⟩
    · exact command_gives (body := scheduleLoadBody h k payload) hb (scheduleLoad_number hqx hk)
    · exact command_gives (body := scheduleLoadBody h k payload) hb (scheduleLoad_badTable hqx hk ht)
    · exact command_gives (body := scheduleLoadBody h k payload) hb (scheduleLoad_used hqx hk ht hu)
    · refine ⟨_, replyOf h.prio h.lane h.ctx h.tag Op.scheduleLoad St.done 0 [] true, _,
        command_gives (body := scheduleLoadBody h k payload) hb (scheduleLoad_stores hqx hk ht hu), (answer_ctx ..).trans (ctx_updCtx_same hqx _),
        table_stored x k tb, fun j hj => table_kept x tb hj, fun c hc => ?_, ?_, ?_, ?_, ?_, rfl, rfl, rfl⟩
      · exact (answer_ctx ..).trans ((ctx_updCtx_other _ hc _).trans (took_ctx ..))
      · exact (answer_csr ..).trans (Mach.updCtx_csr ..)
      · exact (answer_mem ..).trans ((Mach.updCtx_mem ..).trans (took_mem ..))
      · exact (answer_ranges ..).trans ((Mach.updCtx_ranges ..).trans (took_ranges ..))
      · exact answer_replies hb ((Mach.updCtx_csr ..).trans (took_csr ..)) ((congrArg SwiteSt.replies (Mach.updCtx_swite ..)).trans (took_replies ..)) _ _ _
  · intro base run
    refine ⟨fun hno => run_to (entryStart_idle hx hno), fun tb es e hrun he => ⟨fun hheld => run_to (entryStart_held hx hrun hheld),
      fun hready hclear hfree hfirst hstarve => ?_⟩⟩
    have hat : s.entryAt c k = some .waiting := entryAt_waits hx hrun hready
    have hstream : e.copy = false → run = .next (s.on (s.startStreamEntry c k e)) := fun hs =>
      run_to (entryStart_stream hx hrun he hready hclear hfree hfirst hs)
    refine ⟨fun st hs hst => ?_, fun img hs hst himg => ?_, fun a b hs ha hb => ?_⟩
    · rw [hstream hs, startStreamEntry_refused hst, entryOver_eq]
      obtain ⟨l, hl⟩ := setEntry_parts (s.entryStops c k) c k (.over st)
      refine ⟨_, rfl, entryAt_setEntry (m := s.entryStops c k) hat, ?_, ?_, ?_⟩
      · rw [hl]; rfl
      · rw [hl]; rfl
      · rw [hl]; rfl
    · refine ⟨fun g hg => ?_, fun hg => ?_⟩
      · obtain ⟨hrunning, hmem, hl⟩ := startStreamEntry_launched hx himg hst hstarve hat (shaped_ranges hsh) hg
        refine ⟨_, hstream hs, hrunning, hmem, fun n hn => ?_⟩
        obtain ⟨hstate, hid, hpc, htiles, _⟩ := hl n hn
        exact ⟨hstate, hid, hpc, htiles⟩
      · rw [hstream hs, startStreamEntry_waits hx himg hst hstarve hg]
        obtain ⟨⟨w, hw⟩, hwaits⟩ := entryWaits_waiting s.toMach c k
        refine ⟨_, rfl, ?_, ?_, ?_, ?_, hwaits⟩
        · rw [hw]; rfl
        · rw [hw]; rfl
        · rw [hw]; rfl
        · rw [hw]; rfl
    · have hcopy : run = .next (s.on ((s.entryClaims e).startCopy c k e)) := run_to (entryStart_copy hx hrun he hready hclear hfree hfirst hs hstarve)
      refine ⟨fun hva hvb hagree hsealed => ?_, fun hno => ?_⟩
      · obtain ⟨hrunning, hcopies, hmem⟩ := startCopy_started hx ha hb hat hva hvb hagree hsealed
        exact ⟨_, entryCopy c k e a b, hcopy, hrunning, hcopies, rfl, rfl, rfl, rfl, hmem⟩
      · obtain ⟨l, hl⟩ := entryClaims_parts s.toMach e
        rw [hcopy, hl, startCopy_invalid (m := { s.toMach with channels := l }) hx ha hb hno, entryOver_eq]
        obtain ⟨d, hd⟩ := setEntry_parts { s.toMach with channels := l } c k (.over St.descInvalid)
        refine ⟨_, rfl, entryAt_setEntry (m := { s.toMach with channels := l }) hat, ?_, ?_⟩
        · rw [hd]; rfl
        · rw [hd]; rfl
  · exact run_to (entryEnd_pending hno)
  · obtain ⟨x, hx, hstep⟩ := Option.bind_eq_some_iff.mp he
    rw [if_neg (by omega), if_neg (by omega)] at hstep
    obtain ⟨v, hv, hentry⟩ := Option.bind_eq_some_iff.mp hstep
    obtain ⟨hmem, hview⟩ := entryEnd_view hx hv hk he
    obtain ⟨w, hw, hpair⟩ := Option.map_eq_some_iff.mp hview
    obtain ⟨y, hy, hyw⟩ := Option.bind_eq_some_iff.mp hw
    obtain ⟨hentries, hfailed⟩ := Prod.mk.inj hpair
    refine ⟨_, y, w, v, rfl, ?_, hy, hyw, by rw [hx]; exact hv, hmem, ?_⟩
    · show (entryEnd c k s.toMach).entryAt c k = _
      rw [Mach.entryAt, hy, Option.bind_some, if_neg (by omega), if_neg (by omega), hyw, Option.bind_some, hentries]
      exact List.getElem?_set_self (List.getElem?_eq_some_iff.mp hentry).1
    · rw [hfailed]
      by_cases hst : st = St.done
      · rw [if_pos hst, if_neg fun h => h.1 hst]
      · simp [failedBy, hst]

end Sys2Proof.Laws
end


section
namespace Sys2Proof.Laws

open Sys2Proof.Machine

/-!
# What a store into memory leaves alone (R274 to R278, R296)

A store changes memory, the registers that count and show memory's errors and dirty frames, the trouble counters and the events that wait; stores to host
pages add transactions. `MemoryWork m q` says that `q`, made of `m`, differs from it in nothing but the first four; `Counted` that memory is kept too.
-/

/-- The registers of errors and dirty frames: those at the start of a stack's or a Ledge bank's window, and MODULE_TROUBLE. -/
def memoryReg (a : Nat) : Prop := a = Reg.MODULE_TROUBLE ∨ (0x02000000 ≤ a ∧ a % 0x100000 < 0x1000)

structure MemoryWork (m q : Mach) : Prop where
  parts : ∃ μ c ev v, q = { m with mem := μ, csr := c, swite := { m.swite with events := ev }, survey := v }
  rd : ∀ a, ¬ memoryReg a → q.rd a = m.rd a

structure Counted (m q : Mach) : Prop extends MemoryWork m q where
  mem : q.mem = m.mem

section

variable {m q r : Mach}

theorem MemoryWork.refl (m : Mach) : MemoryWork m m := ⟨⟨m.mem, m.csr, m.swite.events, m.survey, rfl⟩, fun _ _ => rfl⟩

theorem MemoryWork.trans (h : MemoryWork m q) (g : MemoryWork q r) : MemoryWork m r := by
  obtain ⟨⟨_, _, _, _, rfl⟩, hrd⟩ := h
  obtain ⟨⟨μ, c, ev, v, rfl⟩, grd⟩ := g
  exact ⟨⟨μ, c, ev, v, rfl⟩, fun a ha => (grd a ha).trans (hrd a ha)⟩

/-- What looks at none of the four parts reads the same. -/
theorem MemoryWork.field {β : Type} {f : Mach → β}
    (hf : ∀ m μ c ev v, f { m with mem := μ, csr := c, swite := { m.swite with events := ev }, survey := v } = f m) (h : MemoryWork m q) : f q = f m := by
  obtain ⟨⟨μ, c, ev, v, rfl⟩, _⟩ := h
  exact hf m μ c ev v

theorem MemoryWork.wr {a : Nat} {v : Word} (h : MemoryWork m q) (ha : memoryReg a) : MemoryWork m (q.wr a v) :=
  h.trans ⟨⟨q.mem, _, q.swite.events, q.survey, rfl⟩, fun _ hb => Mach.rd_wr_other q a _ v fun e => hb (e ▸ ha)⟩

theorem MemoryWork.wrF {a : Nat} {f : Fld} {v : Nat} (h : MemoryWork m q) (ha : memoryReg a) : MemoryWork m (q.wrF a f v) := h.wr ha

theorem MemoryWork.remember (h : MemoryWork m q) (μ : MemSt) : MemoryWork m { q with mem := μ } :=
  h.trans ⟨⟨μ, q.csr, q.swite.events, q.survey, rfl⟩, fun _ _ => rfl⟩

theorem MemoryWork.survey (h : MemoryWork m q) (v : SurveySt) : MemoryWork m { q with survey := v } :=
  h.trans ⟨⟨q.mem, q.csr, q.swite.events, v, rfl⟩, fun _ _ => rfl⟩

theorem Counted.refl (m : Mach) : Counted m m := ⟨.refl m, rfl⟩

theorem Counted.trans (h : Counted m q) (g : Counted q r) : Counted m r := ⟨h.toMemoryWork.trans g.toMemoryWork, g.mem.trans h.mem⟩

theorem Counted.wr {a : Nat} {v : Word} (h : Counted m q) (ha : memoryReg a) : Counted m (q.wr a v) := ⟨h.toMemoryWork.wr ha, h.mem⟩

theorem Counted.addF {a : Nat} {f : Fld} {d : Nat} (h : Counted m q) (ha : memoryReg a) : Counted m (q.addF a f d) := h.wr ha

theorem Counted.tally {u i : Nat} (h : Counted m q) : Counted m (q.tally u i) := ⟨h.toMemoryWork.survey _, h.mem⟩

theorem Counted.trouble {b : Nat} (h : Counted m q) : Counted m (q.trouble b) := h.wr (.inl rfl)

theorem Counted.event {kind status detail : Nat} (h : Counted m q) : Counted m (q.event kind status detail) := by
  unfold Mach.event
  split
  · split
    · exact h
    · exact h.trans ⟨⟨⟨q.mem, q.csr, _, q.survey, rfl⟩, fun _ _ => rfl⟩, rfl⟩
  · exact h

theorem Counted.foldl {α : Type} {f : Mach → α → Mach} (h : Counted m q) (hf : ∀ q x, Counted m q → Counted m (f q x)) (l : List α) :
    Counted m (l.foldl f q) :=
  foldl_keeps (Counted m) f hf l q h

/-! ### Counts of errors -/

theorem foothill_memoryReg {off s : Nat} (h : off < 0x1000) : memoryReg (0x02000000 + off + 0x100000 * s) := .inr (by omega)

theorem ledge_memoryReg {a : Nat} (hl : 0x03000000 ≤ a) (hu : a < 0x03001000) : memoryReg a := .inr (by omega)

theorem placeOf_ledge {w b : Nat} (h : placeOf w = .ledge b) : b ≤ 1 := by
  unfold placeOf at h
  split_ifs at h
  · cases h
    exact Nat.zero_le 1
  · cases h
    exact Nat.le_refl 1

theorem Counted.eccLog {log lo hi src range w stack : Nat} (h : Counted m q) (hlog : memoryReg log) (hlo : memoryReg lo) (hhi : memoryReg hi) :
    Counted m (q.eccLog log lo hi src range w stack) := by
  unfold Mach.eccLog
  split
  · exact h.wr hlog
  · exact (((h.wr hlog).wr hlo).wr hhi).event

theorem Counted.countUe {src range w : Nat} (h : Counted m q) : Counted m (q.countUe src range w) := by
  unfold Mach.countUe
  split
  · exact (Counted.eccLog (h.addF (foothill_memoryReg (off := 8) (by decide))) (foothill_memoryReg (off := 0xc) (by decide))
      (foothill_memoryReg (off := 0x10) (by decide)) (foothill_memoryReg (off := 0x14) (by decide))).trouble.tally
  · next b hb =>
    have hb1 := placeOf_ledge hb
    exact (Counted.eccLog (h.addF (ledge_memoryReg (by unfold Reg.LEDGE_ECC_UE_COUNT; omega) (by unfold Reg.LEDGE_ECC_UE_COUNT; omega)))
      (ledge_memoryReg (by decide) (by decide)) (ledge_memoryReg (by decide) (by decide)) (ledge_memoryReg (by decide) (by decide))).trouble.tally
  · exact h

theorem Counted.countCe {w : Nat} (h : Counted m q) : Counted m (q.countCe w) := by
  unfold Mach.countCe
  split
  · exact (h.addF (foothill_memoryReg (off := 4) (by decide))).tally
  · next b hb =>
    have hb1 := placeOf_ledge hb
    exact (h.addF (ledge_memoryReg (by unfold Reg.LEDGE_ECC_CE_COUNT; omega) (by unfold Reg.LEDGE_ECC_CE_COUNT; omega))).tally
  · exact h

theorem checkWords_counted (m : Mach) (src range : Nat) (e : Ecc) (words : List Nat) : Counted m (m.checkWords src range e words) :=
  ((Counted.refl m).foldl (fun _ _ h => h.countCe) _).foldl (fun _ _ h => h.countUe) _

/-! ### Writes -/

theorem MemoryWork.setPoison {w : Nat} (h : MemoryWork m q) : MemoryWork m (q.setPoison w) := by
  unfold Mach.setPoison
  dsimp only
  split
  · exact (h.remember _).survey _
  · exact h.remember _

theorem MemoryWork.markDirty {pa : Nat} (h : MemoryWork m q) : MemoryWork m (q.markDirty pa) := by
  unfold Mach.markDirty
  split
  · next s _ =>
    dsimp only
    split
    · exact h
    · exact ((h.remember _).wrF (foothill_memoryReg (off := 0x24) (by decide))).wrF (foothill_memoryReg (off := 0x24) (by decide))
  · exact h

theorem MemoryWork.writePa {pa : Nat} {l : List Byte} (h : MemoryWork m q) : MemoryWork m (q.writePa pa l) := by
  unfold Mach.writePa
  split
  · exact h
  · exact foldl_keeps (MemoryWork m) _ (fun _ _ h => h.markDirty) _ _ (h.remember _)

theorem MemoryWork.writeRuns {l : List (Nat × Byte)} (h : MemoryWork m q) : MemoryWork m (q.writeRuns l) :=
  foldl_keeps (MemoryWork m) _ (fun _ _ h => h.writePa) _ _ h

theorem MemoryWork.writeVa {x : Ctx} {l : List Byte} : ∀ {q : Mach} {va : Nat}, MemoryWork m q → MemoryWork m (q.writeVa x va l) := by
  induction l with
  | nil => exact fun h => h
  | cons b t ih =>
    intro q va h
    unfold Mach.writeVa
    split
    · split
      · exact ih h
      · exact ih h.writePa
    · exact ih h

theorem MemoryWork.tarnFlags {s fl : Nat} (h : MemoryWork m q) : MemoryWork m (q.tarnFlags s fl) := by
  unfold Mach.tarnFlags
  split
  · exact h
  · exact h.wr (foothill_memoryReg (off := 0x28) (by decide))

end

/-! ### A store of any sectors -/

/-- Only what a host transaction queues is changed. -/
structure Queued (m q : Mach) : Prop where
  parts : ∃ w, q = { m with swite := w }
  replies : q.swite.replies = m.swite.replies

theorem Queued.refl (m : Mach) : Queued m m := ⟨⟨m.swite, rfl⟩, rfl⟩

theorem Queued.hostTxn {m q : Mach} {write : Bool} {pa len : Nat} {data : List Byte} {merge : List (Nat × Nat × Nat)} {owner : TxnOwner}
    (h : Queued m q) : Queued m (q.hostTxn write pa len data merge owner) := by
  obtain ⟨⟨w, rfl⟩, hr⟩ := h
  unfold Mach.hostTxn
  dsimp only
  split
  · exact ⟨⟨_, rfl⟩, hr⟩
  · exact ⟨⟨_, rfl⟩, hr⟩

/-- The part of a store that stays in the module: its words are checked, its local bytes written, the words it spoils marked. -/
def performLocal (m : Mach) (n : Nat) (x : Ctx) (b : ByteMap) (e : Ecc) : Mach :=
  let local_ := b.filter (fun y => (x.phys y.1).elim false (fun pa => !isHost pa))
  let sectors := (local_.map (fun y => y.1 / 64 * 64)).eraseDups
  let partialSectors := sectors.filter (fun s => !(List.range 8).all (fun i => b.whole (s + 8 * i)))
  let read := partialSectors.flatMap (fun s => (x.phys s).elim [] sectorWords)
  let lost := (partialSectors.flatMap (fun s => (List.range 8).map (fun i => s + 8 * i))).filterMap (fun w => (x.phys w).bind (fun pa =>
    if !b.whole w && (e.bad.contains pa || m.poisoned pa) then some pa else none))
  let m := m.checkWords srcMerge n e read
  let m := m.writeRuns (local_.filterMap (fun y => (x.phys y.1).map (fun pa => (pa, mergeByte (m.readByte pa) y.2.1 y.2.2))))
  lost.foldl (fun m w => m.setPoison w) m

section

variable {m q : Mach} {n : Nat} {x : Ctx} {b : ByteMap} {e : Ecc} {owner : TxnOwner}

theorem performLocal_work : MemoryWork m (performLocal m n x b e) :=
  foldl_keeps (MemoryWork m) _ (fun _ _ h => h.setPoison) _ _ (checkWords_counted ..).toMemoryWork.writeRuns

/-- Host pages go as transactions (R220). -/
theorem perform_queued : Queued (performLocal m n x b e) (m.perform n x b e owner) :=
  foldl_keeps (Queued (performLocal m n x b e)) _ (fun q s h => by
    split
    · exact h
    · split
      · exact h.hostTxn
      · exact h.hostTxn) _ _ (.refl _)

/-- A store without a byte on a host page queues nothing. -/
theorem perform_noHost (h : ∀ y ∈ b, ∀ pa, x.phys y.1 = some pa → isHost pa = false) : m.perform n x b e owner = performLocal m n x b e := by
  have hhost : b.filter (fun y => (x.phys y.1).elim false isHost) = [] := List.filter_eq_nil_iff.mpr fun y hy => by
    cases hpa : x.phys y.1 with
    | none => simp
    | some pa => simp [h y hy pa hpa]
  unfold Mach.perform
  rw [hhost]
  rfl

/-- What looks at no memory, register, trouble counter or packet reads the same. -/
theorem perform_field {β : Type} {f : Mach → β} (hf : ∀ m μ c w v, f { m with mem := μ, csr := c, swite := w, survey := v } = f m) :
    f (m.perform n x b e owner) = f m := by
  obtain ⟨w, hw⟩ := (perform_queued (m := m) (n := n) (x := x) (b := b) (e := e) (owner := owner)).parts
  obtain ⟨μ, c, ev, v, hp⟩ := (performLocal_work (m := m) (n := n) (x := x) (b := b) (e := e)).parts
  rw [hw, hp]
  exact hf m μ c w v

theorem perform_mem : (m.perform n x b e owner).mem = (performLocal m n x b e).mem := by
  obtain ⟨w, hw⟩ := (perform_queued (m := m) (n := n) (x := x) (b := b) (e := e) (owner := owner)).parts
  rw [hw]

theorem perform_csr : (m.perform n x b e owner).csr = (performLocal m n x b e).csr := by
  obtain ⟨w, hw⟩ := (perform_queued (m := m) (n := n) (x := x) (b := b) (e := e) (owner := owner)).parts
  rw [hw]

theorem perform_rd {a : Nat} (ha : ¬ memoryReg a) : (m.perform n x b e owner).rd a = m.rd a :=
  (Mach.rd_congr _ _ _ perform_csr).trans (performLocal_work.rd a ha)

theorem perform_replies : (m.perform n x b e owner).swite.replies = m.swite.replies :=
  perform_queued.replies.trans (performLocal_work.field (f := fun m => m.swite.replies) fun _ _ _ _ _ => rfl)

end

/-! ### What a store makes of memory depends on memory only -/

section

variable {m q : Mach} (h : q.mem = m.mem)

include h

theorem markDirty_memory (pa : Nat) : (q.markDirty pa).mem = (m.markDirty pa).mem := by
  unfold Mach.markDirty
  split
  · next s _ =>
    have hs : q.stack s = m.stack s := by rw [Mach.stack, h, Mach.stack]
    simp only [hs]
    split
    · exact h
    · rw [Mach.showDirty, Mach.wrF_mem, Mach.wrF_mem, Mach.updStack, h, hs, Mach.showDirty, Mach.wrF_mem, Mach.wrF_mem, Mach.updStack]
  · exact h

theorem writePa_memory (pa : Nat) (l : List Byte) : (q.writePa pa l).mem = (m.writePa pa l).mem := by
  unfold Mach.writePa
  split
  · exact h
  · exact List.foldl_rel (r := fun a b : Mach => a.mem = b.mem) (by rw [h]) fun f _ _ _ hab => markDirty_memory hab _

theorem writeRuns_memory (l : List (Nat × Byte)) : (q.writeRuns l).mem = (m.writeRuns l).mem :=
  List.foldl_rel (r := fun a b : Mach => a.mem = b.mem) h fun _ _ _ _ hab => writePa_memory hab _ _

theorem setPoison_memory (w : Nat) : (q.setPoison w).mem = (m.setPoison w).mem := by
  have hset : ∀ k : Mach, (k.setPoison w).mem = { k.mem with poison := insertNat w k.mem.poison } := fun k => by
    unfold Mach.setPoison
    dsimp only
    split
    · rfl
    · rfl
  rw [hset, hset, h]

theorem perform_memory (n : Nat) (x : Ctx) (b : ByteMap) (e : Ecc) (owner : TxnOwner) :
    (q.perform n x b e owner).mem = (m.perform n x b e owner).mem := by
  have hcheck : ∀ words, (q.checkWords srcMerge n e words).mem = (m.checkWords srcMerge n e words).mem := fun words =>
    (checkWords_counted ..).mem.trans (h.trans (checkWords_counted ..).mem.symm)
  have hpoison : q.poisoned = m.poisoned := funext fun w => by rw [Mach.poisoned, h, Mach.poisoned]
  have hbyte : ∀ words, (q.checkWords srcMerge n e words).readByte = (m.checkWords srcMerge n e words).readByte := fun words =>
    funext fun pa => by rw [Mach.readByte, hcheck, Mach.readByte]
  rw [perform_mem, perform_mem, performLocal, performLocal]
  simp only [hpoison, hbyte]
  exact List.foldl_rel (r := fun a b : Mach => a.mem = b.mem) (writeRuns_memory (hcheck _) _) fun _ _ _ _ hab => setPoison_memory hab _

end

/-! ### The update of a record -/

/-- The update of a record changes no more than a store does. -/
theorem updateRecordAt_field {β : Type} {f : Mach → β} (hf : ∀ m μ c w v, f { m with mem := μ, csr := c, swite := w, survey := v } = f m)
    (m : Mach) (x : Ctx) (s c i : Nat) (r : Record) (p : Prog) (mult : Nat) (w g : Desc) : f (m.updateRecordAt x s c i r p mult w g) = f m := by
  have hwork : ∀ q : Mach, f q = f m → ∀ fl va l, f ((q.tarnFlags s fl).writeVa x va l) = f m := fun q hq fl va l =>
    ((MemoryWork.refl q).tarnFlags.writeVa.field (f := f) fun m μ c ev v => hf m μ c _ v).trans hq
  exact hwork _ (perform_field hf) _ _ _

end Sys2Proof.Laws
end


section
namespace Sys2Proof.Laws

open Sys2Proof.Machine

/-!
# Tarn's updates (R316, R319, R320, R332, R340)

One equation for each way that TARN_RECORD_FLIP and TARN_FAULT take, and what the recording of a fault and a FAIL leave alone.
-/

/-! ### Stacks, handles and messages -/

section

variable {m q : Mach} {e : Nat} {t : Option TarnSt}

theorem tarnOf_setTarn (h : (m.tarnOf e).isSome = true) : (m.setTarn e t).tarnOf e = t := by
  have hlt : e < m.tarn.length := by
    by_contra hge
    rw [Mach.tarnOf, List.getD_eq_default _ _ (Nat.le_of_not_lt hge)] at h
    cases h
  simp [Mach.tarnOf, Mach.setTarn, hlt]

theorem tarnOf_setTarn_none : (m.setTarn e none).tarnOf e = none := by
  by_cases hlt : e < m.tarn.length
  · simp [Mach.tarnOf, Mach.setTarn, hlt]
  · rw [Mach.tarnOf, Mach.setTarn, List.set_eq_of_length_le (Nat.le_of_not_lt hlt), List.getD_eq_default _ _ (Nat.le_of_not_lt hlt)]

theorem tarnOf_congr (h : q.tarn = m.tarn) : q.tarnOf e = m.tarnOf e := by rw [Mach.tarnOf, h, Mach.tarnOf]

/-- Showing a stack's Tarn touches its status register only. -/
theorem showTarn_regs (m : Mach) (e state c i : Nat) : RegsOnly m (m.showTarn e state c i) := ⟨_, rfl⟩

theorem showTarn_rd {a : Nat} (ha : a ≠ Reg.FOOTHILL_TARN_STATUS e) (state c i : Nat) : (m.showTarn e state c i).rd a = m.rd a :=
  (Mach.rd_wrF_other _ _ _ _ _ ha).trans ((Mach.rd_wrF_other _ _ _ _ _ ha).trans (Mach.rd_wrF_other _ _ _ _ _ ha))

/-- Rebasing changes descriptors only. -/
theorem rebase_parts (x : Ctx) (r : Record) (h : Nat) : ∃ l, x.rebase r h = { x with descs := l } := by
  unfold Ctx.rebase
  dsimp only
  split
  · exact ⟨_, rfl⟩
  · exact ⟨_, rfl⟩

/-- FAIL changes contexts and the messages of the group only. -/
theorem sendFail_parts (m : Mach) (c base st : Nat) : ∃ l g, m.sendFail c base st = { m with ctxs := l, group := g } := by
  have hupd : ∀ f, ∃ l, m.updStep c base f = { m with ctxs := l } := fun f => by
    unfold Mach.updStep Mach.updCtx
    split
    · exact ⟨m.ctxs, rfl⟩
    · exact ⟨_, rfl⟩
  unfold Mach.sendFail
  split
  · split
    · exact ⟨m.ctxs, m.group, rfl⟩
    · obtain ⟨l, hl⟩ := hupd fun s => { s with failed := some st }
      rw [hl]
      obtain ⟨g, hg⟩ := toMaster_parts { m with ctxs := l } c (.fail (m.groupRank (m.groupOf c)) _ _ st)
      exact ⟨l, g, hg⟩
  · exact ⟨m.ctxs, m.group, rfl⟩

end

/-! ### TARN_RECORD_FLIP -/

section

variable {m : Mach} {e c i : Nat} {q : TarnSt} {x : Ctx} {p : Prog} {w g : Desc}

/-- Whether an update may be made: the slot is valid and every access is good. -/
abbrev updateSound (m : Mach) (x : Ctx) (e c : Nat) (r : Record) (p : Prog) : Prop :=
  p.valid = true ∧ p.ctx = c ∧ p.ok = true ∧ m.tarnClear x e (x.tarnRuns r p) = true

/-- The context once a record's handles take the other half and are no longer held. -/
def flippedCtx (r : Record) (x : Ctx) : Ctx :=
  { x.rebase r (1 - r.half) with holds := (x.rebase r (1 - r.half)).holds.filter (fun h => !r.handles.contains h) }

theorem tarnRecordFlip_none (h : m.tarnOf e = none) : tarnRecordFlip e m = m := by simp only [tarnRecordFlip, h]

theorem tarnFault_none (h : m.tarnOf e = none) (v a : Nat) : tarnFault e v a m = m := by simp only [tarnFault, h]

variable (hq : m.tarnOf e = some q) (hc : q.ctx = c) (hx : m.ctx c = some x) (hi : m.nextRecord x e c q.record = some i)
  (hp : q.progs[(m.tarnRecord x e c i).prog]? = some p)

include hq hc hx hi hp

section

variable (hw : x.desc (m.tarnRecord x e c i).hW = some w) (hg : x.desc (m.tarnRecord x e c i).hG = some g)

include hw hg

theorem tarnRecordFlip_unsound (h : ¬ updateSound m x e c (m.tarnRecord x e c i) p) : tarnRecordFlip e m = m := by
  subst hc
  have hbad : !p.valid ∨ p.ctx ≠ q.ctx ∨ !p.ok ∨ !m.tarnClear x e (x.tarnRuns (m.tarnRecord x e q.ctx i) p) := by
    simpa [updateSound, imp_iff_not_or, not_and_or] using h
  simp only [tarnRecordFlip, hq, hx, hi, hp, hw, hg]
  exact if_pos hbad

/-- The update, and what follows it but for the register that shows the next record. -/
theorem tarnRecordFlip_updates (h : updateSound m x e c (m.tarnRecord x e c i) p) :
    RegsOnly (((m.updateRecordAt x e c i (m.tarnRecord x e c i) p q.f w g).updCtx c (flippedCtx (m.tarnRecord x e c i))).setTarn e
      (some { q with record := i + 1 })) (tarnRecordFlip e m) := by
  subst hc
  have hgood : ¬ (!p.valid ∨ p.ctx ≠ q.ctx ∨ !p.ok ∨ !m.tarnClear x e (x.tarnRuns (m.tarnRecord x e q.ctx i) p)) := by
    simpa [updateSound, and_assoc] using h
  simp only [tarnRecordFlip, hq, hx, hi, hp, hw, hg]
  rw [if_neg hgood]
  split
  · exact showTarn_regs ..
  · exact showTarn_regs ..

end

/-! ### TARN_FAULT -/

theorem tarnFault_absent {v a : Nat} (h : v = 0 ∨ 6 < v ∨ x.tarnMeets e (m.tarnRecord x e c i) p c v a = false) : tarnFault e v a m = m := by
  subst hc
  simp only [tarnFault, hq, hx, hi, hp]
  exact if_pos (h.imp_right fun h => h.imp_right fun h => by rw [h]; rfl)

/-- The status of the FAIL that a fault of Tarn's sends. -/
def faultFails (v : Nat) : Nat := if v ≤ 3 then faultStatus v else if v = 4 then St.protectionFault else St.internal

/-- The module with a fault recorded, and its word counted where it was bad. -/
def faultRecorded (m : Mach) (x : Ctx) (e v c i a : Nat) : Mach :=
  if v = 5 then (match x.phys a with
    | some pa => (m.recordTarnFault e v c i a).countUe srcTarn 0 (pa / 8 * 8)
    | none => m.recordTarnFault e v c i a) else m.recordTarnFault e v c i a

theorem tarnFault_fails {v a : Nat} (h0 : 1 ≤ v) (h6 : v ≤ 6) (h : x.tarnMeets e (m.tarnRecord x e c i) p c v a = true) :
    tarnFault e v a m = (((faultRecorded m x e v c i a).setTarn e none).showTarn e 0 c i).sendFail c 0 (faultFails v) := by
  subst hc
  have hgo : ¬ (v = 0 ∨ 6 < v ∨ !x.tarnMeets e (m.tarnRecord x e q.ctx i) p q.ctx v a) := by
    rw [h]
    simp
    omega
  simp only [tarnFault, hq, hx, hi, hp]
  exact if_neg hgo

end

/-! ### The record of a fault (R340) -/

section

variable {m : Mach} {x : Ctx} {e v c i a : Nat}

/-- The word that TARN_FAULT shows. -/
def faultWord (v c i : Nat) : Word := BitVec.ofNat 32 (2 ^ 31 + v % 16 * 2 ^ 27 + c % 16 * 2 ^ 16 + i % 65536)

/-- The three registers of a fault written, before its counts. -/
def faultShown (m : Mach) (e v c i a : Nat) : Mach :=
  ((m.wr (Reg.FOOTHILL_TARN_FAULT e) (faultWord v c i)).wr (Reg.FOOTHILL_TARN_FAULT_VA_LO e) (BitVec.ofNat 32 (a / 64 * 64))).wr
    (Reg.FOOTHILL_TARN_FAULT_VA_HI e) (BitVec.ofNat 32 (a / 2 ^ 32 % 2 ^ 20))

theorem faultShown_rd : (faultShown m e v c i a).rd (Reg.FOOTHILL_TARN_FAULT e) = faultWord v c i :=
  (Mach.rd_wr_other _ _ _ _ (by simp)).trans ((Mach.rd_wr_other _ _ _ _ (by simp)).trans (Mach.rd_wr_same ..))

theorem faultRecorded_counted : Counted (faultShown m e v c i a) (faultRecorded m x e v c i a) := by
  have hrecord : Counted (faultShown m e v c i a) (m.recordTarnFault e v c i a) := (Counted.refl _).tally.trouble
  unfold faultRecorded
  split
  · split
    · exact hrecord.countUe
    · exact hrecord
  · exact hrecord

theorem faultRecorded_rd : (faultRecorded m x e v c i a).rd (Reg.FOOTHILL_TARN_FAULT e) = faultWord v c i :=
  (faultRecorded_counted.rd _ (by unfold memoryReg Reg.FOOTHILL_TARN_FAULT Reg.MODULE_TROUBLE; omega)).trans faultShown_rd

theorem faultShown_kept : (faultShown m e v c i a).mem = m.mem ∧ (faultShown m e v c i a).ctxs = m.ctxs := by
  rw [faultShown, Mach.wr_mem, Mach.wr_mem, Mach.wr_mem, Mach.wr_ctxs, Mach.wr_ctxs, Mach.wr_ctxs]
  exact ⟨rfl, rfl⟩

theorem faultRecorded_kept : (faultRecorded m x e v c i a).mem = m.mem ∧ (faultRecorded m x e v c i a).ctxs = m.ctxs := by
  obtain ⟨hmem, hctxs⟩ := faultShown_kept (m := m) (e := e) (v := v) (c := c) (i := i) (a := a)
  have hc := faultRecorded_counted (m := m) (x := x) (e := e) (v := v) (c := c) (i := i) (a := a)
  exact ⟨hc.mem.trans hmem, (hc.field (f := Mach.ctxs) fun _ _ _ _ _ => rfl).trans hctxs⟩

/-- What TARN_FAULT's word says. -/
theorem faultWord_fields (hv : v < 16) (hc : c < 16) : Word.getF (faultWord v c i) Fld.FOOTHILL_TARN_FAULT_VALID = 1 ∧
    Word.getF (faultWord v c i) Fld.FOOTHILL_TARN_FAULT_KIND = v ∧ Word.getF (faultWord v c i) Fld.FOOTHILL_TARN_FAULT_CONTEXT = c ∧
    Word.getF (faultWord v c i) Fld.FOOTHILL_TARN_FAULT_RECORD = i % 65536 := by
  simp only [faultWord, Word.getF, bitsOf, BitVec.toNat_ofNat, Nat.shiftRight_eq_div_pow]
  omega

end

/-- A sound update: memory holds it, the record's handles take the other half, and the next record is in progress. -/
theorem tarnRecordFlip_flipped {m : Mach} {e c i : Nat} {q : TarnSt} {x : Ctx} {p : Prog} {w g : Desc} (hq : m.tarnOf e = some q) (hc : q.ctx = c)
    (hx : m.ctx c = some x) (hi : m.nextRecord x e c q.record = some i) (hp : q.progs[(m.tarnRecord x e c i).prog]? = some p)
    (hw : x.desc (m.tarnRecord x e c i).hW = some w) (hg : x.desc (m.tarnRecord x e c i).hG = some g)
    (h : updateSound m x e c (m.tarnRecord x e c i) p) :
    (tarnRecordFlip e m).mem = (m.updateRecordAt x e c i (m.tarnRecord x e c i) p q.f w g).mem ∧
      (tarnRecordFlip e m).ctx c = some (flippedCtx (m.tarnRecord x e c i) x) ∧ (tarnRecordFlip e m).tarnOf e = some { q with record := i + 1 } ∧
      (tarnRecordFlip e m).ranges = m.ranges ∧ (tarnRecordFlip e m).streams = m.streams := by
  obtain ⟨k, hk⟩ := tarnRecordFlip_updates hq hc hx hi hp hw hg h
  let u := m.updateRecordAt x e c i (m.tarnRecord x e c i) p q.f w g
  have hu : u.ctx c = some x := (updateRecordAt_field (f := fun m => m.ctx c) (fun _ _ _ _ _ => rfl) ..).trans hx
  have htarn : u.tarn = m.tarn := updateRecordAt_field (f := Mach.tarn) (fun _ _ _ _ _ => rfl) ..
  rw [hk]
  refine ⟨Mach.updCtx_mem .., ctx_updCtx_same (m := u) hu _, ?_, ?_, ?_⟩
  · exact tarnOf_setTarn (m := u.updCtx c (flippedCtx (m.tarnRecord x e c i)))
      (by rw [tarnOf_congr ((Mach.updCtx_tarn ..).trans htarn), hq]; rfl)
  · exact (Mach.updCtx_ranges ..).trans (updateRecordAt_field (f := Mach.ranges) (fun _ _ _ _ _ => rfl) ..)
  · exact (Mach.updCtx_streams ..).trans (updateRecordAt_field (f := Mach.streams) (fun _ _ _ _ _ => rfl) ..)

/-- A fault that the record in progress meets: recorded, the stack's update ended, the attempt failed, and memory as it was. -/
theorem tarnFault_recorded {m : Mach} {e c i v a : Nat} {q : TarnSt} {x : Ctx} {p : Prog} {w : StepSt} (hq : m.tarnOf e = some q) (hc : q.ctx = c)
    (hx : m.ctx c = some x) (hi : m.nextRecord x e c q.record = some i) (hp : q.progs[(m.tarnRecord x e c i).prog]? = some p) (h0 : 1 ≤ v)
    (h6 : v ≤ 6) (h : x.tarnMeets e (m.tarnRecord x e c i) p c v a = true) (hw : x.step = some w) :
    (tarnFault e v a m).mem = m.mem ∧ (tarnFault e v a m).tarnOf e = none ∧
      (tarnFault e v a m).rd (Reg.FOOTHILL_TARN_FAULT e) = faultWord v c i ∧
      stepView (tarnFault e v a m) c = some (w.entries, failedBy w (faultFails v)) := by
  obtain ⟨hmem, hctxs⟩ := faultRecorded_kept (m := m) (x := x) (e := e) (v := v) (c := c) (i := i) (a := a)
  obtain ⟨r, hr⟩ := showTarn_regs ((faultRecorded m x e v c i a).setTarn e none) e 0 c i
  rw [tarnFault_fails hq hc hx hi hp h0 h6 h]
  obtain ⟨hm, hv⟩ := sendFail_view (m := ((faultRecorded m x e v c i a).setTarn e none).showTarn e 0 c i) (x := x) (by
    rw [Mach.ctx, hr, ← hx, Mach.ctx]
    exact congrArg (List.getD · c none) hctxs) hw (faultFails v)
  obtain ⟨l, g, hs⟩ := sendFail_parts (((faultRecorded m x e v c i a).setTarn e none).showTarn e 0 c i) c 0 (faultFails v)
  refine ⟨hm.trans ?_, ?_, ?_, hv⟩
  · rw [hr]
    exact hmem
  · rw [hs, hr]
    exact tarnOf_setTarn_none (m := faultRecorded m x e v c i a)
  · rw [hs]
    have hshown := showTarn_rd (m := (faultRecorded m x e v c i a).setTarn e none) (e := e) (a := Reg.FOOTHILL_TARN_FAULT e) (by simp) 0 c i
    exact (Mach.rd_congr _ _ _ rfl).trans (hshown.trans ((Mach.rd_congr _ (faultRecorded m x e v c i a) _ rfl).trans faultRecorded_rd))

/-! ### TARN_UPDATE_COMPLETE -/

section

variable {m : Mach} {c : Nat} {x : Ctx} {w : StepSt}

/-- Whether a committed step's update is over, and nothing has failed it. -/
abbrev updateFlipped (m : Mach) (c : Nat) (w : StepSt) : Prop :=
  m.stepState c = 2 ∧ (∀ e < 12, m.tarnBusy e c = false) ∧ w.failed = none

/-- The module with every stack's update of a context ended. -/
def tarnsEnded (m : Mach) (c : Nat) : Mach :=
  m.each (List.range 12) (fun m t => if (m.tarnOf t).elim false (fun q => decide (q.ctx = c)) then m.setTarn t none else m)

theorem tarnsEnded_parts (m : Mach) (c : Nat) : ∃ l, tarnsEnded m c = { m with tarn := l } :=
  foldl_keeps (fun q : Mach => ∃ l, q = { m with tarn := l }) _ (fun q t hq => by
    obtain ⟨l, rfl⟩ := hq
    split
    · exact ⟨_, rfl⟩
    · exact ⟨l, rfl⟩) _ _ ⟨m.tarn, rfl⟩

variable (hx : m.ctx c = some x) (hw : x.step = some w)

include hx hw

theorem tarnUpdateComplete_pending (h : ¬ updateFlipped m c w) : tarnUpdateComplete c m = m := by
  simp only [tarnUpdateComplete, hx, Option.bind_some, hw]
  exact if_neg fun hgo => h ⟨hgo.1, by simpa [Mach.updateOver] using hgo.2.1, hgo.2.2⟩

theorem tarnUpdateComplete_done (h : updateFlipped m c w) : tarnUpdateComplete c m = ((tarnsEnded m c).setStepState c 3).toMaster c
    (.updated ((tarnsEnded m c).groupRank ((tarnsEnded m c).groupOf c)) w.step) := by
  have hgo : m.stepState c = 2 ∧ m.updateOver c ∧ w.failed = none := ⟨h.1, by simpa [Mach.updateOver] using h.2.1, h.2.2⟩
  simp only [tarnUpdateComplete, hx, Option.bind_some, hw, tarnsEnded, if_pos hgo]

end

/-- UPDATED changes no register, byte or context; a group of one tells its own master. -/
theorem tarnUpdateComplete_told {m : Mach} {c : Nat} {x : Ctx} {w : StepSt} (hx : m.ctx c = some x) (hw : x.step = some w) (h : updateFlipped m c w) :
    (tarnUpdateComplete c m).stepState c = 3 ∧ (tarnUpdateComplete c m).mem = m.mem ∧ (tarnUpdateComplete c m).ctxs = m.ctxs ∧
      (m.groupPlan = none → (tarnUpdateComplete c m).group.loop = m.group.loop ++ [{ group := soloGroup c, body := .updated 0 w.step }]) := by
  obtain ⟨l, hl⟩ := tarnsEnded_parts m c
  rw [tarnUpdateComplete_done hx hw h, hl]
  have hstate : (({ m with tarn := l } : Mach).setStepState c 3).stepState c = 3 := Mach.rdF_wrF_same _ _ _ _ (by decide)
  obtain ⟨g, hg⟩ := toMaster_parts (({ m with tarn := l } : Mach).setStepState c 3) c
    (.updated (({ m with tarn := l } : Mach).groupRank (({ m with tarn := l } : Mach).groupOf c)) w.step)
  refine ⟨?_, ?_, ?_, fun hp => ?_⟩
  · rw [hg]; exact hstate
  · rw [hg]; rfl
  · rw [hg]; rfl
  · rw [groupOf_solo (m := { m with tarn := l }) hp, groupRank_solo, toMaster_solo (m := ({ m with tarn := l } : Mach).setStepState c 3) hp]
    rfl

/-- Settles O49: a sound record is updated whole and the next one follows; a fault leaves memory's bytes, ends the stack's update and fails the attempt. -/
theorem tarnUpdates : Obligations.TarnUpdates := by
  refine ⟨fun s e hnone => ?_, fun s e c q x i p hsh hq hc hx hi => ?_, fun s c x w hsh hx hw => ?_⟩
  · exact ⟨run_to (tarnRecordFlip_none hnone), fun v a => run_to (tarnFault_none hnone v a)⟩
  · intro r hp sound
    refine ⟨fun w g hw hg => ⟨fun hbad => run_to (tarnRecordFlip_unsound hq hc hx hi hp hw hg hbad), fun hgood => ?_⟩,
      fun v a hno => run_to (tarnFault_absent hq hc hx hi hp hno), fun v a w h0 h6 hmeets hw => ?_⟩
    · obtain ⟨hmem, hctx, htarn, hranges, hstreams⟩ := tarnRecordFlip_flipped hq hc hx hi hp hw hg hgood
      obtain ⟨l, hl⟩ := rebase_parts x r (1 - r.half)
      refine ⟨_, flippedCtx r x, rfl, hmem, hctx, rfl, ?_, ?_, htarn, hranges, hstreams⟩
      · rw [flippedCtx, hl]
      · rw [flippedCtx, hl]
    · obtain ⟨hmem, htarn, hrd, hview⟩ := tarnFault_recorded hq hc hx hi hp h0 h6 hmeets hw
      obtain ⟨u, hu, hpair⟩ := Option.map_eq_some_iff.mp hview
      obtain ⟨y, hy, hyu⟩ := Option.bind_eq_some_iff.mp hu
      obtain ⟨hvalid, hkind, hctx, hrecord⟩ := faultWord_fields (i := i) (show v < 16 by omega) c.isLt
      have hword : ∀ f, (tarnFault e v a s.toMach).rdF (Reg.FOOTHILL_TARN_FAULT e) f = Word.getF (faultWord v c i) f := fun f =>
        congrArg (Word.getF · f) hrd
      refine ⟨_, y, u, rfl, congrArg MemSt.bytes hmem, htarn, (hword _).trans hvalid, (hword _).trans hkind, (hword _).trans hctx,
        (hword _).trans hrecord, hy, hyu, fun ht0 hfailed => ?_⟩
      rw [(Prod.mk.inj hpair).2, failedBy, if_pos ⟨ht0, hfailed⟩]
      rfl
  · intro flipped
    refine ⟨fun hno => run_to (tarnUpdateComplete_pending hx hw hno), fun hyes => ?_⟩
    exact ⟨_, rfl, tarnUpdateComplete_told hx hw hyes⟩

end Sys2Proof.Laws
end


section
namespace Sys2Proof.Laws

open Sys2Proof.Machine

/-!
# Serving passes (R334, R492 to R497, R596)

The checks of FRAME_PUSH in order, each as one equation; what the release of a push makes of its context; and the pinning of the islands of a pass.
-/

/-! ### The checks of FRAME_PUSH -/

/-- The table that SERVE_CFG names for a context. -/
abbrev serveTable (m : Mach) (c : Nat) : Nat := m.rdF (Reg.TRAVERSE_SERVE_CFG c) Fld.TRAVERSE_SERVE_CFG_TABLE

/-- A pushed frame's bytes, and where they go. -/
def pushBytes (a : Desc) (payload : List Byte) : List (Nat × Byte) := ((List.range payload.length).zip payload).map (fun e => (a.base + e.1, e.2))

/-- A push, as it waits for its pass. -/
def pushOf (m : Mach) (h : Hdr) (outH n : Nat) : Push :=
  { lane := h.lane, tag := h.tag, prio := h.prio, outHandle := outH, outBytes := n,
    deadline := if m.periodic h.ctx then m.deadlineAfter h.ctx m.baseTime else 0 }

/-- The module with a pushed frame's bytes written. -/
def pushed (m : Mach) (h : Hdr) (x : Ctx) (a : Desc) (payload : List Byte) : Mach :=
  (m.accept h Op.framePush).perform 0 x (byteMap ((pushBytes a payload).map byteWrite)) Ecc.clean (.cmd h.lane h.ctx h.tag)

/-- The module with a push among those that wait. -/
def withPush (m : Mach) (c : Nat) (p : Push) : Mach := m.updCtx c (fun x => { x with pushWait := some p })

section

variable {m : Mach} {h : Hdr} {x : Ctx} {inH outH n : Nat} {payload : List Byte} (hx : m.ctx h.ctx = some x)

include hx

theorem framePush_off (hs : m.serving h.ctx = false) : framePushBody h inH outH n payload m = m.answer h Op.framePush St.notPermitted := by
  simp only [framePushBody, hx]
  split
  · simp [hs]
  · simp [hs]

variable (hs : m.serving h.ctx = true)

include hs

theorem framePush_badHandle (hno : (∀ a, x.desc inH = some a → a.valid = false) ∨ (∀ b, x.desc outH = some b → b.valid = false)) :
    framePushBody h inH outH n payload m = m.answer h Op.framePush St.badParam := by
  have hnone : ∀ {k : Nat}, (∀ a, x.desc k = some a → a.valid = false) → (x.desc k).filter (fun d => d.valid) = none := fun hk =>
    Option.filter_eq_none_iff.mpr fun a ha => by simp [hk a ha]
  simp only [framePushBody, hx]
  split
  · next ha hb =>
    rcases hno with hno | hno
    · cases (hnone hno).symm.trans ha
    · cases (hnone hno).symm.trans hb
  · simp [hs]

variable {a b : Desc} (ha : (x.desc inH).filter (fun d => d.valid) = some a) (hb : (x.desc outH).filter (fun d => d.valid) = some b)

include ha hb

theorem framePush_badTable (hno : ∀ tb, x.table (serveTable m h.ctx) = some tb → tb.serving = false) :
    framePushBody h inH outH n payload m = m.answer h Op.framePush St.badParam := by
  have hbad : (x.table (serveTable m h.ctx)).elim true (fun t => !t.serving) = true := by
    cases ht : x.table (serveTable m h.ctx) with
    | none => rfl
    | some tb => simp [hno tb ht]
  simp [framePushBody, hx, ha, hb, hs, hbad]

theorem framePush_tooLong (hno : a.spanBytes < payload.length ∨ b.spanBytes < n) :
    framePushBody h inH outH n payload m = m.answer h Op.framePush St.badParam := by
  simp [framePushBody, hx, ha, hb, hs, hno]

variable {tb : Table} (ht : x.table (serveTable m h.ctx) = some tb) (hts : tb.serving = true) (hlen : ¬ (a.spanBytes < payload.length ∨ b.spanBytes < n))

include ht hts hlen

theorem framePush_busy (hw : x.pushWait.isSome = true) : framePushBody h inH outH n payload m = m.answer h Op.framePush St.busy := by
  simp [framePushBody, hx, ha, hb, hs, ht, hts, hw, hlen]

variable (hw : x.pushWait = none)

include hw

theorem framePush_stopped {st : Nat} (hst : m.stopStatus = some st) : framePushBody h inH outH n payload m = m.answer h Op.framePush st := by
  simp [framePushBody, hx, ha, hb, hs, ht, hts, hw, hlen, hst]

variable (hst : m.stopStatus = none)

include hst

theorem framePush_faults {f : Nat} (hf : x.runFault a.base payload.length a.pdom true = some f) :
    framePushBody h inH outH n payload m = m.answer h Op.framePush (faultStatus f) := by
  simp [framePushBody, hx, ha, hb, hs, ht, hts, hw, hlen, hst, hf]

theorem framePush_accepts (hf : x.runFault a.base payload.length a.pdom true = none) :
    framePushBody h inH outH n payload m = (withPush (pushed m h x a payload) h.ctx (pushOf (pushed m h x a payload) h outH n)).tryRelease h.ctx := by
  have hbytes : (pushBytes a payload).map byteWrite = ((List.range payload.length).zip payload).map (fun e =>
      ({ bit := 8 * (a.base + e.1), width := 8, code := e.2.toNat } : BitWrite)) := by rw [pushBytes, List.map_map]; rfl
  simp [framePushBody, hx, ha, hb, hs, ht, hts, hw, hlen, hst, hf, withPush, pushed, pushOf, hbytes, Ecc.clean]

end

/-! ### A pass begins (R312, R497) -/

/-- The pass that a push begins. -/
def passOf (k : Nat) (tb : Table) (p : Push) : PassSt :=
  { table := k, entries := List.replicate tb.entries.length .waiting, outHandle := p.outHandle, outBytes := p.outBytes, lane := p.lane, tag := p.tag,
    prio := p.prio, failed := none }

section

variable {m : Mach} {c : Nat} {x : Ctx} {tb : Table} {p : Push}

theorem zeroCounters_field {β : Type} {f : Mach → β} (hf : ∀ m a v, f (Mach.wr m a v) = f m) (m : Mach) (c : Nat) (t : Table) :
    f (m.zeroCounters c t) = f m :=
  each_field (fun _ _ => hf ..) _ _

theorem release_eq (hx : m.ctx c = some x) (ht : x.table (serveTable m c) = some tb) (hts : tb.serving = true) : m.release c p =
    (((m.updCtx c (fun x => { x with pushWait := none })).addF (Reg.TRAVERSE_SERVE_COUNTS c) Fld.TRAVERSE_SERVE_COUNTS_RUN 1).zeroCounters c tb).updCtx c
      (fun x => { x with pass := some (passOf (serveTable m c) tb p) }) := by
  have hfound : ((m.updCtx c (fun x => { x with pushWait := none })).ctx c).bind (fun x => (x.table (serveTable m c)).filter (fun t => t.serving)) =
      some tb := by
    rw [ctx_updCtx_same hx, Option.bind_some, show Ctx.table { x with pushWait := none } = x.table from rfl, ht, Option.filter_some, if_pos hts]
  simp only [Mach.release, hfound, passOf]

/-- What the release of a push makes of the module, where SERVE_CFG names a serving table. -/
theorem release_begins (hx : m.ctx c = some x) (ht : x.table (serveTable m c) = some tb) (hts : tb.serving = true) :
    (m.release c p).mem = m.mem ∧ (m.release c p).swite = m.swite ∧
      (m.release c p).ctx c = some { x with pushWait := none, pass := some (passOf (serveTable m c) tb p) } := by
  rw [release_eq hx ht hts]
  refine ⟨?_, ?_, ?_⟩
  · rw [Mach.updCtx_mem, zeroCounters_field Mach.wr_mem, Mach.addF_mem, Mach.updCtx_mem]
  · rw [Mach.updCtx_swite, zeroCounters_field Mach.wr_swite, Mach.addF_swite, Mach.updCtx_swite]
  · refine ctx_updCtx_same (x := { x with pushWait := none }) ?_ _
    exact (zeroCounters_field (f := fun m => m.ctx c) (fun _ _ _ => rfl) ..).trans (ctx_updCtx_same hx _)

/-- A push that waits is released once no pass runs, none of its bytes is on its way, and the mode is not periodic. -/
theorem tryRelease_eq (hx : m.ctx c = some x) (hw : x.pushWait = some p) : m.tryRelease c =
    if m.periodic c = true ∨ x.pass.isSome = true ∨ m.pushPerformed c p = false then m else m.release c p := by
  simp only [Mach.tryRelease, hx, hw, Bool.not_eq_true']

end

/-! ### A push's bytes are written -/

section

variable {m : Mach} {h : Hdr} {x : Ctx} {a : Desc} {payload : List Byte}

theorem pushed_mem : (pushed m h x a payload).mem =
    (m.perform 0 x (byteMap ((pushBytes a payload).map byteWrite)) Ecc.clean (.cmd h.lane h.ctx h.tag)).mem :=
  perform_memory (accept_field Mach.mem (fun _ _ _ => rfl) m h Op.framePush) ..

theorem pushed_ctx (c : Nat) : (pushed m h x a payload).ctx c = m.ctx c :=
  (perform_field (f := fun m => m.ctx c) fun _ _ _ _ _ => rfl).trans (accept_ctx ..)

theorem pushed_replies (hup : h.lane = .mgmt ∨ m.dataUp = true) : (pushed m h x a payload).swite.replies =
    m.swite.replies ++ [replyOf h.prio h.lane h.ctx h.tag Op.framePush St.accepted 0 [] false] :=
  perform_replies.trans (accept_replies _ hup)

theorem pushed_serveCfg {c : Nat} (hc : c < 16) (f : Fld) :
    (pushed m h x a payload).rdF (Reg.TRAVERSE_SERVE_CFG c) f = m.rdF (Reg.TRAVERSE_SERVE_CFG c) f := by
  have hreg : ¬ memoryReg (Reg.TRAVERSE_SERVE_CFG c) := by
    unfold memoryReg Reg.TRAVERSE_SERVE_CFG Reg.MODULE_TROUBLE
    omega
  exact congrArg (Word.getF · f) ((perform_rd hreg).trans (Mach.rd_congr _ _ _ (Mach.send_csr ..)))

/-- A reply leaves the transactions of host memory alone. -/
theorem send_txns (m : Mach) (r : Reply) : (m.send r).swite.txns = m.swite.txns ∧ (m.send r).swite.txnWait = m.swite.txnWait := by
  have hcount : ∀ q : Mach, (q.countPacket r.lane true).swite = q.swite := fun q => by
    unfold Mach.countPacket
    split
    · rfl
    · split
      · rfl
      · rfl
  unfold Mach.send
  split
  · exact ⟨rfl, rfl⟩
  · split
    · rw [hcount]
      exact ⟨rfl, rfl⟩
    · exact ⟨rfl, rfl⟩

theorem mem_pushBytes {y : Nat × Byte} (hy : y ∈ pushBytes a payload) : ∃ i < payload.length, y.1 = a.base + i := by
  obtain ⟨e, he, rfl⟩ := List.mem_map.mp hy
  exact ⟨e.1, List.mem_range.mp (List.of_mem_zip he).1, rfl⟩

/-- A frame without a byte in host memory queues nothing. -/
theorem pushed_txnsOf (hl : ∀ i < payload.length, ∀ pa, x.phys (a.base + i) = some pa → isHost pa = false) (o : TxnOwner) :
    (pushed m h x a payload).txnsOf o = m.txnsOf o := by
  have hlocal : pushed m h x a payload = performLocal (m.accept h Op.framePush) 0 x (byteMap ((pushBytes a payload).map byteWrite)) Ecc.clean :=
    perform_noHost fun y hy pa hpa => by
      obtain ⟨_, z, hz, hyz, _⟩ := (byteMap_byteWrites (pushBytes a payload)).1 y hy
      obtain ⟨i, hi, hzi⟩ := mem_pushBytes hz
      exact hl i hi pa (by rw [← hzi, ← hyz, hpa])
  rw [hlocal, performLocal_work.field (f := fun m => m.txnsOf o) fun _ _ _ _ _ => rfl]
  obtain ⟨htxns, hwait⟩ := send_txns (m.begin h Op.framePush) (replyOf h.prio h.lane h.ctx h.tag Op.framePush St.accepted 0 [] false)
  rw [Mach.txnsOf, Mach.accept, htxns, hwait]
  rfl

end

/-! ### Pinning (R493) -/

section

variable {m : Mach} {i j n kHz : Nat} {f : Island → Island}

theorem island_updIsland_same (hi : i < m.treeline.islands.length) : (m.updIsland i f).island i = f (m.island i) := by
  simp [Mach.island, Mach.updIsland, hi]

theorem island_updIsland_other (hj : j ≠ i) : (m.updIsland i f).island j = m.island j := by
  simp [Mach.island, Mach.updIsland, List.getD, hj.symm]

theorem islands_updIsland_length : (m.updIsland i f).treeline.islands.length = m.treeline.islands.length := List.length_set

/-- A change that keeps an island pinned keeps every island pinned. -/
theorem pinned_updIsland (hf : ∀ x, x.pinned = true → (f x).pinned = true) (h : (m.island j).pinned = true) :
    ((m.updIsland i f).island j).pinned = true := by
  by_cases hj : j = i
  · subst hj
    by_cases hlt : j < m.treeline.islands.length
    · rw [island_updIsland_same hlt]
      exact hf _ h
    · rw [Mach.updIsland, List.set_eq_of_length_le (Nat.le_of_not_lt hlt)]
      exact h
  · rw [island_updIsland_other hj]
    exact h

theorem pinned_setFreq (h : (m.island j).pinned = true) : ((m.setFreq i kHz).island j).pinned = true :=
  pinned_updIsland (fun x hx => by
    split
    · exact hx
    · exact hx) h

/-- Running a range pinned pins its islands, and unpins none. -/
theorem runRange_pins (hn : n < 16) (hlen : m.treeline.islands.length = 108) : (m.runRange n kHz true).treeline.islands.length = 108 ∧
    (∀ i ∈ rangeIslands n, ((m.runRange n kHz true).island i).pinned = true) ∧
    (∀ j, (m.island j).pinned = true → ((m.runRange n kHz true).island j).pinned = true) := by
  have hlt : ∀ i ∈ rangeIslands n, i < 108 := fun i hi => by
    simp only [rangeIslands, List.mem_cons, List.not_mem_nil, or_false] at hi
    omega
  have hkeep : ∀ (q : Mach) i k j, (q.island j).pinned = true →
      (((q.updIsland i (fun x => { x with clocked := true, pinned := true, grant := kHz })).setFreq i k).island j).pinned = true := fun q i k j hj =>
    pinned_setFreq (pinned_updIsland (fun _ _ => rfl) hj)
  obtain ⟨hl, hp⟩ := each_establishes (I := fun q => q.treeline.islands.length = 108) (P := fun q i => (q.island i).pinned = true) (l := rangeIslands n)
    (fun q i _ hq => islands_updIsland_length.trans (islands_updIsland_length.trans hq))
    (fun q i hi hq => pinned_setFreq (by rw [island_updIsland_same (by rw [hq]; exact hlt i hi)])) (fun q i _ j _ _ hj => hkeep q i _ j hj) m hlen
  exact ⟨hl, hp, fun j hj => foldl_keeps (fun q : Mach => (q.island j).pinned = true) _ (fun q i hq => hkeep q i _ j hq) _ m hj⟩

/-- A range's islands pinned, and its register saying so. -/
def Pinned (m : Mach) (n : Nat) : Prop :=
  m.rdF (Reg.RANGE_STREAM_STATUS n) Fld.RANGE_STREAM_STATUS_LOCKSTEP_PIN = 1 ∧ ∀ i ∈ rangeIslands n, (m.island i).pinned = true

/-- One range of the pinning. -/
def pinRange (c : Nat) (m : Mach) (n : Nat) : Mach :=
  (m.runRange n (m.lockKHz c) true).wrF (Reg.RANGE_STREAM_STATUS n) Fld.RANGE_STREAM_STATUS_LOCKSTEP_PIN 1

theorem pinRange_field {β : Type} {f : Mach → β} (hi : ∀ q i g, f (Mach.updIsland q i g) = f q) (hr : ∀ q a v, f (Mach.wr q a v) = f q)
    (c : Nat) (m : Mach) (n : Nat) : f (pinRange c m n) = f m :=
  (hr ..).trans (runRange_field hi ..)

theorem pinRange_pins (c : Nat) (hn : n < 16) (hlen : m.treeline.islands.length = 108) :
    (pinRange c m n).treeline.islands.length = 108 ∧ Pinned (pinRange c m n) n ∧ ∀ k, k ≠ n → Pinned m k → Pinned (pinRange c m n) k := by
  obtain ⟨hl, hp, hkeep⟩ := runRange_pins (kHz := m.lockKHz c) hn hlen
  refine ⟨hl, ⟨Mach.rdF_wrF_same _ _ _ _ (by decide), hp⟩, fun k hk hpin => ⟨?_, fun i hi => hkeep i (hpin.2 i hi)⟩⟩
  refine (Mach.rdF_wrF_other _ _ _ _ _ _ (by decide) (by decide) (.inl (by simpa using hk))).trans ?_
  exact (Mach.rdF_congr _ _ _ _ (runRange_field Mach.updIsland_csr ..)).trans hpin.1

end

section

variable {m : Mach} {c : Nat} {x : Ctx}

theorem pinRanges_lt {n : Nat} (hn : n ∈ m.pinRanges c) : n < 16 := by
  unfold Mach.pinRanges at hn
  split at hn
  · exact absurd hn List.not_mem_nil
  · exact List.mem_range.mp (List.mem_filter.mp hn).1

theorem pinStart_idle (hx : m.ctx c = some x) (h : m.serving c = false ∨ m.pinDue c = false ∨ x.pinned = true) : pinStart c m = m :=
  if_pos (by
    rw [hx]
    exact h.imp (fun h => by rw [h]; rfl) fun h => h.imp_left fun h => by rw [h]; rfl)

theorem pinStart_eq (hx : m.ctx c = some x) (hs : m.serving c = true) (hd : m.pinDue c = true) (hp : x.pinned = false) :
    pinStart c m = (m.each (m.pinRanges c) (pinRange c)).updCtx c (fun x => { x with pinned := true }) :=
  if_neg (by simp [hx, hs, hd, hp])

theorem pinStart_pins (hx : m.ctx c = some x) (hs : m.serving c = true) (hd : m.pinDue c = true) (hp : x.pinned = false)
    (hlen : m.treeline.islands.length = 108) : (pinStart c m).ctx c = some { x with pinned := true } ∧ (pinStart c m).mem = m.mem ∧
      (pinStart c m).streams = m.streams ∧ ∀ n ∈ m.pinRanges c, Pinned (pinStart c m) n := by
  rw [pinStart_eq hx hs hd hp]
  have hfield : ∀ {β : Type} {f : Mach → β}, (∀ q i g, f (Mach.updIsland q i g) = f q) → (∀ q a v, f (Mach.wr q a v) = f q) →
      f (m.each (m.pinRanges c) (pinRange c)) = f m := fun hi hr => each_field (fun q n => pinRange_field hi hr c q n) m _
  obtain ⟨_, hpins⟩ := each_establishes (I := fun q => q.treeline.islands.length = 108) (P := Pinned) (l := m.pinRanges c) (f := pinRange c)
    (fun q n hn hq => (pinRange_pins c (pinRanges_lt hn) hq).1) (fun q n hn hq => (pinRange_pins c (pinRanges_lt hn) hq).2.1)
    (fun q n hn k hk hq hpin => (pinRange_pins c (pinRanges_lt hn) hq).2.2 k hk hpin) m hlen
  refine ⟨ctx_updCtx_same ((hfield (f := fun m => m.ctx c) (fun _ _ _ => rfl) fun _ _ _ => rfl).trans hx) _,
    (Mach.updCtx_mem ..).trans (hfield Mach.updIsland_mem Mach.wr_mem), (Mach.updCtx_streams ..).trans (hfield Mach.updIsland_streams Mach.wr_streams),
    fun n hn => ?_⟩
  obtain ⟨hreg, hislands⟩ := hpins n hn
  refine ⟨(Mach.rdF_congr _ _ _ _ (Mach.updCtx_csr ..)).trans hreg, fun i hi => ?_⟩
  rw [Mach.island, Mach.updCtx_treeline, ← Mach.island]
  exact hislands i hi

end

/-! ### INTAKE_DEADLINE (R495) -/

section

variable {m : Mach} {c : Nat} {x : Ctx} {p : Push} (hx : m.ctx c = some x)

include hx

theorem intakeDeadline_off (h : m.serving c = false ∨ m.periodic c = false) : intakeDeadline c m = m := by
  simp only [intakeDeadline, hx]
  exact if_pos (h.imp (fun h => by rw [h]; rfl) fun h => by rw [h]; rfl)

variable (hs : m.serving c = true) (hp : m.periodic c = true) (hw : x.pushWait = some p)

include hs hp hw

theorem intakeDeadline_early (h : ¬ (m.deadlineCome c p.deadline = true ∧ m.pushPerformed c p = true)) : intakeDeadline c m = m := by
  have hearly : !m.deadlineCome c p.deadline ∨ !m.pushPerformed c p := by simpa [imp_iff_not_or] using h
  simp only [intakeDeadline, hx, hs, hp, hw, if_pos hearly, Bool.not_true, Bool.false_eq_true, or_self, if_false]

variable (hd : m.deadlineCome c p.deadline = true ∧ m.pushPerformed c p = true)

include hd

theorem intakeDeadline_releases (h : x.pass = none) : intakeDeadline c m = m.release c p := by
  simp [intakeDeadline, hx, hs, hp, hw, hd, h]

theorem intakeDeadline_late (h : x.pass.isSome = true) :
    intakeDeadline c m = (m.updCtx c (fun x => { x with pushWait := none })).frameLate p.lane c p.tag := by
  simp [intakeDeadline, hx, hs, hp, hw, hd, h]

end

/-- A late frame: its reply, and nothing else than a count. -/
theorem frameLate_replies (m : Mach) (lane : Lane) (c tag : Nat) : (m.frameLate lane c tag).ctxs = m.ctxs ∧ (m.frameLate lane c tag).mem = m.mem ∧
    (m.frameLate lane c tag).replied Op.framePush c tag St.frameLate := by
  refine ⟨?_, ?_, _, mem_told_send.mpr (.inr rfl), rfl, rfl, rfl, rfl, rfl⟩
  · rw [Mach.frameLate, Mach.finish, Mach.send_ctxs]
    rfl
  · rw [Mach.frameLate, Mach.finish, Mach.send_mem]
    rfl

/-! ### The push that FRAME_PUSH leaves -/

section

variable {m : Mach} {h : Hdr} {x : Ctx} {a : Desc} {payload : List Byte} {outH n : Nat}

/-- The module with an accepted push waiting. -/
abbrev pushWaits (m : Mach) (h : Hdr) (x : Ctx) (a : Desc) (payload : List Byte) (outH n : Nat) : Mach :=
  withPush (pushed m h x a payload) h.ctx (pushOf (pushed m h x a payload) h outH n)

variable (hx : m.ctx h.ctx = some x) (hc : h.ctx < 16) (hup : h.lane = .mgmt ∨ m.dataUp = true)

theorem pushWaits_mem : (pushWaits m h x a payload outH n).mem =
    (m.perform 0 x (byteMap ((pushBytes a payload).map byteWrite)) Ecc.clean (.cmd h.lane h.ctx h.tag)).mem :=
  (Mach.updCtx_mem ..).trans pushed_mem

include hc in
theorem pushWaits_serveCfg (f : Fld) : (pushWaits m h x a payload outH n).rdF (Reg.TRAVERSE_SERVE_CFG h.ctx) f = m.rdF (Reg.TRAVERSE_SERVE_CFG h.ctx) f :=
  (Mach.rdF_congr _ _ _ _ (Mach.updCtx_csr ..)).trans (pushed_serveCfg hc f)

include hup in
theorem pushWaits_replies : (pushWaits m h x a payload outH n).swite.replies =
    m.swite.replies ++ [replyOf h.prio h.lane h.ctx h.tag Op.framePush St.accepted 0 [] false] :=
  (congrArg SwiteSt.replies (Mach.updCtx_swite ..)).trans (pushed_replies hup)

include hx

theorem pushWaits_ctx : (pushWaits m h x a payload outH n).ctx h.ctx = some { x with pushWait := some (pushOf (pushed m h x a payload) h outH n) } :=
  ctx_updCtx_same ((pushed_ctx h.ctx).trans hx) _

include hc

/-- A push that must wait stays with its context. -/
theorem tryRelease_held (hheld : m.periodic h.ctx = true ∨ x.pass.isSome = true) :
    (pushWaits m h x a payload outH n).tryRelease h.ctx = pushWaits m h x a payload outH n := by
  have hperiodic : (pushWaits m h x a payload outH n).periodic h.ctx = m.periodic h.ctx := by
    rw [Mach.periodic, pushWaits_serveCfg hc, ← Mach.periodic]
  rw [tryRelease_eq (pushWaits_ctx hx) rfl]
  exact if_pos (hheld.imp (fun h => hperiodic.trans h) fun h => .inl h)

/-- Whether it waits or begins its pass, a push leaves what was written and replied. -/
theorem tryRelease_leaves {tb : Table} (ht : x.table (serveTable m h.ctx) = some tb) (hts : tb.serving = true) :
    ((pushWaits m h x a payload outH n).tryRelease h.ctx).mem = (pushWaits m h x a payload outH n).mem ∧
      ((pushWaits m h x a payload outH n).tryRelease h.ctx).swite = (pushWaits m h x a payload outH n).swite := by
  rw [tryRelease_eq (pushWaits_ctx hx) rfl]
  split
  · exact ⟨rfl, rfl⟩
  · obtain ⟨hmem, hswite, _⟩ := release_begins (p := pushOf (pushed m h x a payload) h outH n) (pushWaits_ctx hx)
      ((congrArg x.table (pushWaits_serveCfg hc _)).trans ht) hts
    exact ⟨hmem, hswite⟩

/-- A push that need not wait begins its pass. -/
theorem tryRelease_begins {tb : Table} (ht : x.table (serveTable m h.ctx) = some tb) (hts : tb.serving = true)
    (hfree : ¬ (m.periodic h.ctx = true ∨ x.pass.isSome = true)) (htxns : m.txnsOf (.cmd h.lane h.ctx h.tag) = 0)
    (hl : ∀ i < payload.length, ∀ pa, x.phys (a.base + i) = some pa → isHost pa = false) :
    ((pushWaits m h x a payload outH n).tryRelease h.ctx).ctx h.ctx =
      some { x with pushWait := none, pass := some (passOf (serveTable m h.ctx) tb (pushOf (pushed m h x a payload) h outH n)) } := by
  have hperiodic : (pushWaits m h x a payload outH n).periodic h.ctx = m.periodic h.ctx := by
    rw [Mach.periodic, pushWaits_serveCfg hc, ← Mach.periodic]
  have hdone : (pushWaits m h x a payload outH n).pushPerformed h.ctx (pushOf (pushed m h x a payload) h outH n) = true := by
    have hq : (pushWaits m h x a payload outH n).txnsOf (.cmd h.lane h.ctx h.tag) = 0 := by
      rw [Mach.txnsOf, pushWaits, withPush, Mach.updCtx_swite, ← Mach.txnsOf, pushed_txnsOf hl, htxns]
    exact decide_eq_true hq
  have hgo : ¬ ((pushWaits m h x a payload outH n).periodic h.ctx = true ∨
      (({ x with pushWait := some (pushOf (pushed m h x a payload) h outH n) } : Ctx).pass).isSome = true ∨
      (pushWaits m h x a payload outH n).pushPerformed h.ctx (pushOf (pushed m h x a payload) h outH n) = false) := by
    rw [hperiodic, hdone]
    simpa using hfree
  have htable : serveTable (pushWaits m h x a payload outH n) h.ctx = serveTable m h.ctx := pushWaits_serveCfg hc _
  rw [tryRelease_eq (pushWaits_ctx hx) rfl, if_neg hgo, (release_begins (pushWaits_ctx hx) ((congrArg x.table htable).trans ht) hts).2.2, htable]

end

/-- Settles O50: FRAME_PUSH's checks in order, the pass that an accepted push begins, the pinning before it and its intake deadline. -/
theorem servingPasses : Obligations.ServingPasses := by
  unfold Obligations.ServingPasses
  intro begun
  refine ⟨fun s h x inH outH n payload hsh hx hb => ?_, fun s c x hsh hx => ?_⟩
  · intro c q run no k bytes held
    have hqx : q.ctx h.ctx = some x := (took_ctx ..).trans hx
    have hserving : q.serving h.ctx = s.serving h.ctx := took_field (fun m => m.serving h.ctx) (fun _ _ _ => rfl) ..
    have htable : serveTable q h.ctx = k := took_rdF ..
    have hperiodic : q.periodic h.ctx = s.periodic h.ctx := took_field (fun m => m.periodic h.ctx) (fun _ _ _ => rfl) ..
    have hstop : q.stopStatus = s.stopStatus := took_field Mach.stopStatus (fun _ _ _ => rfl) ..
    have hrun : ∀ {t : Mach}, framePushBody h inH outH n payload q = t → run = .next (s.on t) := fun ht =>
      command_gives (body := framePushBody h inH outH n payload) hb ht
    refine ⟨fun hs => ?_, fun hs hno => ?_, fun a b hs ha hva hb' hvb => ?_⟩
    · exact hrun (framePush_off hqx (hserving.trans hs))
    · exact hrun (framePush_badHandle hqx (hserving.trans hs) hno)
    have hqs : q.serving h.ctx = true := hserving.trans hs
    have hfa : (x.desc inH).filter (fun d => d.valid) = some a := by rw [ha, Option.filter_some, if_pos hva]
    have hfb : (x.desc outH).filter (fun d => d.valid) = some b := by rw [hb', Option.filter_some, if_pos hvb]
    refine ⟨fun hno => ?_, fun tb ht hts hla hlb => ?_⟩
    · rcases hno with hno | hlong
      · exact hrun (framePush_badTable hqx hqs hfa hfb (by rwa [htable]))
      · exact hrun (framePush_tooLong hqx hqs hfa hfb hlong)
    have hqt : x.table (serveTable q h.ctx) = some tb := by rwa [htable]
    have hlen : ¬ (a.spanBytes < payload.length ∨ b.spanBytes < n) := by omega
    refine ⟨fun hw => ?_, fun hw st hst => ?_, fun hw hst f hf => ?_, fun hw hst hf => ?_⟩
    · exact hrun (framePush_busy hqx hqs hfa hfb hqt hts hlen hw)
    · exact hrun (framePush_stopped hqx hqs hfa hfb hqt hts hlen hw (hstop.trans hst))
    · exact hrun (framePush_faults hqx hqs hfa hfb hqt hts hlen hw (hstop.trans hst) hf)
    · have haccept := hrun (framePush_accepts hqx hqs hfa hfb hqt hts hlen hw (hstop.trans hst) hf)
      have hc : h.ctx < 16 := by
        have hlt := ctx_lt hx
        rwa [((shaped_iff _).mp hsh).1] at hlt
      have hup : h.lane = .mgmt ∨ q.dataUp = true := (begins_dataUp hb).imp_right ((took_dataUp ..).trans ·)
      obtain ⟨hmem, hswite⟩ := tryRelease_leaves (a := a) (payload := payload) (outH := outH) (n := n) hqx hc hqt hts
      have hbytes : (pushBytes a payload).map byteWrite = ((List.range payload.length).zip payload).map (fun e =>
          ({ bit := 8 * (a.base + e.1), width := 8, code := e.2.toNat } : BitWrite)) := by rw [pushBytes, List.map_map]; rfl
      refine ⟨_, replyOf h.prio h.lane h.ctx h.tag Op.framePush St.accepted 0 [] false, haccept, ?_, rfl, rfl, rfl, ?_, fun hheld => ?_,
        fun hfree htxns hl => ?_⟩
      · have hreplies : ((pushWaits q h x a payload outH n).tryRelease h.ctx).swite.replies = _ :=
          (congrArg SwiteSt.replies hswite).trans (pushWaits_replies hup)
        exact hreplies ▸ List.mem_append_right _ (List.mem_singleton_self _)
      · exact hmem.trans (pushWaits_mem.trans (by rw [hbytes]))
      · have hwait := tryRelease_held (a := a) (payload := payload) (outH := outH) (n := n) hqx hc (by rwa [hperiodic])
        exact ⟨_, _, (congrArg (fun m : Mach => m.ctx h.ctx) hwait).trans (pushWaits_ctx hqx), rfl, rfl, rfl, rfl⟩
      · have hbegins := tryRelease_begins (a := a) (payload := payload) (outH := outH) (n := n) hqx hc hqt hts (by rwa [hperiodic])
          ((took_field (fun m => m.txnsOf (.cmd h.lane h.ctx h.tag)) (fun _ _ _ => rfl) ..).trans htxns) hl
        refine ⟨_, _, tb, hbegins, rfl, rfl, ?_, htable, rfl, rfl, rfl, rfl, rfl⟩
        rw [hx]
        exact ht
  · intro k
    refine ⟨fun hno => run_to (pinStart_idle hx hno), fun hs hd hp => ?_, fun hno => run_to (intakeDeadline_off hx hno), fun p hs hp hw => ?_⟩
    · obtain ⟨hctx, hmem, hstreams, hpins⟩ := pinStart_pins hx hs hd hp ((shaped_iff _).mp hsh).2.2.2.2.2.1
      exact ⟨_, _, rfl, hctx, rfl, hmem, hstreams, hpins⟩
    · intro due
      refine ⟨fun hno => run_to (intakeDeadline_early hx hs hp hw hno), fun hdue hpass tb ht hts => ?_, fun hdue hpass => ?_⟩
      · obtain ⟨hmem, _, hctx⟩ := release_begins (p := p) hx ht hts
        refine ⟨_, run_to (intakeDeadline_releases hx hs hp hw hdue hpass), ⟨_, _, tb, hctx, rfl, rfl, ?_, rfl, rfl, rfl, rfl, rfl, rfl⟩, hmem⟩
        rw [hx]
        exact ht
      · obtain ⟨hctxs, hmem, hreply⟩ := frameLate_replies (s.updCtx c (fun x => { x with pushWait := none })) p.lane c p.tag
        refine ⟨_, { x with pushWait := none }, run_to (intakeDeadline_late hx hs hp hw hdue hpass), ?_, rfl, rfl, hreply, hmem.trans (Mach.updCtx_mem ..)⟩
        exact (congrArg (fun l => l.getD c.val none) hctxs).trans (ctx_updCtx_same hx _)

end Sys2Proof.Laws
end

section
namespace Sys2Proof.Laws

open Sys2Proof.Machine

/-!
# The timebase (R421 to R423)

What a tick, a marker, an epoch's boundary and the loss and return of the reference leave, each row by its cases.
-/

/-! ### Ticks -/

theorem step_nil {s : State} (h : s.pending = []) : Machine.step s = .next (s.on s.toMach.tick) := by rw [Machine.step, h, State.run_eq]

theorem tick_steady {t : TimebaseSt} (h : t.slewing = 0) (clk : Nat) : t.tick clk = { t with ticks := t.ticks + 1 } := if_pos (.inl h)

/-- Settles O2: with an empty queue a step is a tick, and a timebase that does not slew counts it once. -/
theorem emptyQueueTicks : Obligations.EmptyQueueTicks := by
  intro s hq hs
  rw [step_nil hq, Mach.tick, tick_steady hs]
  rfl

/-! ### Holdover -/

/-- What going into holdover leaves (R423). -/
structure HeldOver (m t : Mach) : Prop where
  holdover : t.timebase.holdover = true
  ticks : t.timebase.ticks = m.timebase.ticks
  mem : t.mem = m.mem
  ctxs : t.ctxs = m.ctxs
  lost : t.rdF Reg.TRAVERSE_TIMEBASE_STATUS Fld.TRAVERSE_TIMEBASE_STATUS_TB_LOST = 1

/-- In the statement's words. -/
theorem HeldOver.all {m t : Mach} (h : HeldOver m t) : t.timebase.holdover = true ∧ t.timebase.ticks = m.timebase.ticks ∧ t.mem = m.mem ∧ t.ctxs = m.ctxs ∧
    t.rdF Reg.TRAVERSE_TIMEBASE_STATUS Fld.TRAVERSE_TIMEBASE_STATUS_TB_LOST = 1 := ⟨h.holdover, h.ticks, h.mem, h.ctxs, h.lost⟩

section

variable {m : Mach} {e : Nat}

theorem holdOver_kept (h : m.timebase.holdover = true) : m.holdOver = m := if_pos h

theorem holdOver_heldOver (h : m.timebase.holdover = false) : HeldOver m m.holdOver := by
  rw [Mach.holdOver, if_neg (ne_true_of_eq_false h)]
  refine ⟨rfl, rfl, rfl, rfl, ?_⟩
  rw [Mach.rdF, Mach.rd_tally, Mach.rd_trouble, if_neg (by decide)]
  exact Mach.rdF_wrF_same _ _ _ 1 (by decide)

theorem tbClkLoss_ignored (h : m.rackMaster = true ∨ m.timebase.holdover = true) : tbClkLoss m = m := by
  unfold tbClkLoss
  split
  · rfl
  · next hm => exact holdOver_kept (h.resolve_left hm)

theorem tbClkLoss_lost (h : m.rackMaster = false) : tbClkLoss m = m.holdOver := if_neg (ne_true_of_eq_false h)

/-! ### Markers -/

theorem epochMarker_ignored (h : m.rackMaster = true ∨ m.timebase.holdover = true) (ok : Bool) : epochMarker e ok m = m := if_pos h

section

variable (hm : m.rackMaster = false) (hh : m.timebase.holdover = false)

include hm hh

theorem epochMarker_heard : ¬ (m.rackMaster = true ∨ m.timebase.holdover = true) := by simp [hm, hh]

theorem epochMarker_first (h0 : m.timebase.badFrames = 0) :
    epochMarker e false m = { m with timebase := { m.timebase with badFrames := 1, lastEpoch := none } } := by
  refine (if_neg (epochMarker_heard hm hh)).trans ((if_pos rfl).trans ((if_neg (by omega)).trans ?_))
  rw [h0]

theorem epochMarker_second (h1 : 1 ≤ m.timebase.badFrames) : HeldOver m (epochMarker e false m) := by
  have hq : epochMarker e false m =
      ({ m with timebase := { m.timebase with badFrames := m.timebase.badFrames + 1, lastEpoch := none } } : Mach).holdOver :=
    (if_neg (epochMarker_heard hm hh)).trans ((if_pos rfl).trans (if_pos (by omega)))
  obtain ⟨hover, hticks, hmem, hctxs, hlost⟩ :=
    holdOver_heldOver (m := { m with timebase := { m.timebase with badFrames := m.timebase.badFrames + 1, lastEpoch := none } }) hh
  rw [hq]
  exact ⟨hover, hticks, hmem, hctxs, hlost⟩

theorem epochMarker_locks {l : Nat} (hl : m.timebase.lastEpoch = some l) (he : e = l + 1)
    (hn : m.rdF Reg.TRAVERSE_TIMEBASE_STATUS Fld.TRAVERSE_TIMEBASE_STATUS_LOCKED ≠ 1) : epochMarker e true m =
    ({ m with timebase := { m.timebase with ticks := BitVec.ofNat 64 (156250 * e + 1280), badFrames := 0, lastEpoch := some e } } : Mach).wrF
      Reg.TRAVERSE_TIMEBASE_STATUS Fld.TRAVERSE_TIMEBASE_STATUS_LOCKED 1 := by
  simp only [epochMarker, hm, hh, hl, he, hn, Option.map_some, decide_true, decide_false, Bool.false_eq_true, or_self, if_false, Bool.not_true,
    Bool.not_false, and_self, if_true, epochTicks, markerTicks]

theorem epochMarker_noted (hn : m.timebase.lastEpoch.map (fun l => l + 1) ≠ some e ∨
    m.rdF Reg.TRAVERSE_TIMEBASE_STATUS Fld.TRAVERSE_TIMEBASE_STATUS_LOCKED = 1) :
    epochMarker e true m = { m with timebase := { m.timebase with badFrames := 0, lastEpoch := some e } } := by
  have hc : ¬ (decide (m.timebase.lastEpoch.map (fun l => l + 1) = some e) = true ∧
      (!decide (m.rdF Reg.TRAVERSE_TIMEBASE_STATUS Fld.TRAVERSE_TIMEBASE_STATUS_LOCKED = 1)) = true) := by
    rintro ⟨h1, h2⟩
    exact hn.elim (fun h => h (of_decide_eq_true h1)) fun h => by simp [h] at h2
  simp only [epochMarker, hm, hh, Bool.false_eq_true, or_self, if_false, Bool.not_true, if_neg hc]

end

/-! ### Boundaries (R422, R495) -/

/-- A context at the boundary of an epoch: a periodic one without a first period starts. -/
def atBoundary (e : Nat) (periodic : Bool) (x : Ctx) : Ctx := if periodic then { x with p0 := some (x.p0.getD (64 * epochTicks * e)) } else x

theorem atBoundary_twice (e : Nat) (periodic : Bool) (x : Ctx) : atBoundary e periodic (atBoundary e periodic x) = atBoundary e periodic x := by
  cases periodic
  · rfl
  · rfl

theorem epochBoundary_between (h : m.timebase.ticks.toNat / 156250 ≤ m.timebase.epochSent) : epochBoundary m = m := if_pos h

/-- One context's turn at a boundary. -/
def boundaryOf (e : Nat) (m : Mach) (c : Nat) : Mach :=
  if m.rdF (Reg.TRAVERSE_SERVE_CFG c) Fld.TRAVERSE_SERVE_CFG_PERIODIC = 1 then
    m.updCtx c (fun x => { x with p0 := some (x.p0.getD (64 * epochTicks * e)) })
  else m

theorem epochBoundary_passed (h : m.timebase.epochSent < m.timebase.ticks.toNat / 156250) : epochBoundary m =
    ({ m with timebase := { m.timebase with epochSent := m.timebase.ticks.toNat / 156250 } } : Mach).each (List.range 16)
      (boundaryOf (m.timebase.ticks.toNat / 156250)) := if_neg (Nat.not_le.mpr h)

theorem boundaryOf_field {β : Type} {g : Mach → β} (hg : ∀ (q : Mach) c f, g (q.updCtx c f) = g q) (m : Mach) (c : Nat) : g (boundaryOf e m c) = g m := by
  unfold boundaryOf
  split
  · exact hg m c _
  · rfl

theorem boundaryOf_csr (m : Mach) (c : Nat) : (boundaryOf e m c).csr = m.csr := boundaryOf_field (g := Mach.csr) Mach.updCtx_csr m c

/-- Whether a context is served periodically (R495). -/
abbrev isPeriodic (m : Mach) (c : Nat) : Bool := decide (m.rdF (Reg.TRAVERSE_SERVE_CFG c) Fld.TRAVERSE_SERVE_CFG_PERIODIC = 1)

theorem boundaryOf_same {c : Nat} {x : Ctx} (hx : m.ctx c = some x) : (boundaryOf e m c).ctx c = some (atBoundary e (isPeriodic m c) x) := by
  unfold boundaryOf
  split
  · next h => rw [ctx_updCtx_same hx, atBoundary, isPeriodic, if_pos (decide_eq_true h)]
  · next h => rw [hx, atBoundary, isPeriodic, if_neg (by simpa using h)]

theorem boundaryOf_other {c d : Nat} (hd : d ≠ c) : (boundaryOf e m c).ctx d = m.ctx d := by
  unfold boundaryOf
  split
  · exact ctx_updCtx_other m hd _
  · rfl

/-- A turn starts a context that has had none, and leaves one that has. -/
theorem boundaryOf_turn {q : Mach} {c : Nat} {x : Ctx} (hcsr : q.csr = m.csr)
    (hx : q.ctx c = some x ∨ q.ctx c = some (atBoundary e (isPeriodic m c) x)) :
    (boundaryOf e q c).ctx c = some (atBoundary e (isPeriodic m c) x) := by
  have hp : isPeriodic q c = isPeriodic m c := by rw [isPeriodic, Mach.rdF_congr q m _ _ hcsr]
  rcases hx with hx | hx
  · rw [boundaryOf_same hx, hp]
  · rw [boundaryOf_same hx, hp, atBoundary_twice]

theorem eachBoundary_ctx {c : Nat} {x : Ctx} (hc : c < 16) (hx : m.ctx c = some x) :
    (m.each (List.range 16) (boundaryOf e)).ctx c = some (atBoundary e (isPeriodic m c) x) := by
  refine (each_establishes (I := fun q => q.csr = m.csr ∧ (q.ctx c = some x ∨ q.ctx c = some (atBoundary e (isPeriodic m c) x)))
    (P := fun q k => k = c → q.ctx c = some (atBoundary e (isPeriodic m c) x)) (fun q k _ ⟨hcsr, hctx⟩ => ⟨(boundaryOf_csr q k).trans hcsr, ?_⟩)
    (fun q k _ ⟨hcsr, hctx⟩ hk => ?_) (fun q k _ d hd _ hq hdc => ?_) m ⟨rfl, .inl hx⟩).2 c (List.mem_range.mpr hc) rfl
  · by_cases hkc : c = k
    · subst hkc
      exact .inr (boundaryOf_turn hcsr hctx)
    · rwa [boundaryOf_other hkc]
  · subst hk
    exact boundaryOf_turn hcsr hctx
  · subst hdc
    rw [boundaryOf_other hd]
    exact hq rfl

section

variable (h : m.timebase.epochSent < m.timebase.ticks.toNat / 156250)

include h

theorem epochBoundary_timebase : (epochBoundary m).timebase = { m.timebase with epochSent := m.timebase.ticks.toNat / 156250 } := by
  rw [epochBoundary_passed h]
  exact each_field (g := Mach.timebase) (boundaryOf_field Mach.updCtx_timebase) _ _

theorem epochBoundary_csr : (epochBoundary m).csr = m.csr := by
  rw [epochBoundary_passed h]
  exact each_field (g := Mach.csr) boundaryOf_csr _ _

theorem epochBoundary_ctx {c : Nat} {x : Ctx} (hc : c < 16) (hx : m.ctx c = some x) :
    (epochBoundary m).ctx c = some (atBoundary (m.timebase.ticks.toNat / 156250) (isPeriodic m c) x) := by
  rw [epochBoundary_passed h]
  exact eachBoundary_ctx (m := { m with timebase := _ }) hc hx

end

/-! ### The reference returns (R423) -/

theorem tbReferenceReturn_unlost (h : m.timebase.holdover = false) (r : Nat) : tbReferenceReturn r m = m := by
  rw [tbReferenceReturn, h]
  rfl

theorem tbReferenceReturn_steps (h : m.timebase.holdover = true) {r : Nat} (hr : m.timebase.ticks.toNat + 156250 < r) : tbReferenceReturn r m =
    { m with timebase := { m.timebase with holdover := false, badFrames := 0, lastEpoch := none, ticks := BitVec.ofNat 64 r, slewing := 0 } } := by
  have hd : (epochTicks : Int) < (r : Int) - (m.timebase.ticks.toNat : Int) := by
    unfold epochTicks
    omega
  simp only [tbReferenceReturn, h, Bool.not_true, Bool.false_eq_true, if_false, if_pos hd]

theorem tbReferenceReturn_slews (h : m.timebase.holdover = true) {r : Nat} (hr : r ≤ m.timebase.ticks.toNat + 156250) : tbReferenceReturn r m =
    { m with timebase := { m.timebase with holdover := false, badFrames := 0, lastEpoch := none, slewing := (r : Int) - (m.timebase.ticks.toNat : Int) } } := by
  have hd : ¬ (epochTicks : Int) < (r : Int) - (m.timebase.ticks.toNat : Int) := by
    unfold epochTicks
    omega
  simp only [tbReferenceReturn, h, Bool.not_true, Bool.false_eq_true, if_false, if_neg hd]

end

end Sys2Proof.Laws
end

section
namespace Sys2Proof.Laws

open Sys2Proof.Machine

/-!
# What a port sends (R392 to R397)

`LinkWork m q` says that `q`, made of `m`, differs from it in nothing but the sending side of ports, the frames sent and the counters of the link
layer, and that every frame that waits or has left at a port still does. It passes along the operations that send.
-/

/-! ### Ports -/

section

variable {m : Mach} {p k : Nat} {f : PortSt → PortSt}

theorem port_updPort_same (hp : p < m.ports.length) (f : PortSt → PortSt) : (m.updPort p f).port p = f (m.port p) := by
  simp [Mach.port, Mach.updPort, hp]

theorem port_updPort_other (h : k ≠ p) (f : PortSt → PortSt) : (m.updPort p f).port k = m.port k := by
  simp [Mach.port, Mach.updPort, List.getD, h.symm]

theorem port_updPort_beyond (hp : ¬ p < m.ports.length) (f : PortSt → PortSt) : m.updPort p f = m := by
  simp only [Mach.updPort, List.set_eq_of_length_le (Nat.not_lt.mp hp)]

/-- What an update of a port keeps of it is kept of every port. -/
theorem port_updPort_field {β : Type} {g : PortSt → β} (hg : ∀ x, g (f x) = g x) (k : Nat) : g ((m.updPort p f).port k) = g (m.port k) := by
  by_cases hk : k = p
  · subst hk
    by_cases hp : k < m.ports.length
    · rw [port_updPort_same hp, hg]
    · rw [port_updPort_beyond hp]
  · rw [port_updPort_other hk]

end

/-! ### Frames on their way -/

/-- A frame waits at a port, or has left by it. -/
def Leaving (m : Mach) (p : Nat) (f : Frame) : Prop := f ∈ (m.port p).txq ∨ ∃ w ∈ m.sent, w.port = p ∧ w.frame = f

/-- A frame as it leaves: its number, its acknowledgement and its credit are the link's (R392). -/
structure SentAs (f g : Frame) : Prop where
  typ : g.typ = f.typ
  cls : g.cls = f.cls
  hops : g.hops = f.hops
  dest : g.dest = f.dest
  src : g.src = f.src
  channel : g.channel = f.channel
  msg : g.msg = f.msg
  payload : g.payload = f.payload

theorem SentAs.refl (f : Frame) : SentAs f f := ⟨rfl, rfl, rfl, rfl, rfl, rfl, rfl, rfl⟩

theorem SentAs.trans {f g h : Frame} (a : SentAs f g) (b : SentAs g h) : SentAs f h :=
  ⟨b.typ.trans a.typ, b.cls.trans a.cls, b.hops.trans a.hops, b.dest.trans a.dest, b.src.trans a.src, b.channel.trans a.channel, b.msg.trans a.msg,
    b.payload.trans a.payload⟩

/-! ### What sending leaves alone -/

/-- A port's state beside its sending side. -/
def besideSending (x : PortSt) : PortSt := { x with txq := [], turn := 0, txSeq := 0, replay := [], credits := [], others := [], framesUnderKey := 0 }

/-- The counters of the link layer in a port's window (R428). -/
def linkReg (a : Nat) : Prop := 0x05000000 ≤ a ∧ 0x14 ≤ a % 0x10000 ∧ a % 0x10000 < 0x8000

theorem linkReg_at {p c : Nat} (hl : 0x05000014 ≤ c) (hu : c < 0x05008000) : linkReg (c + 0x10000 * p) := by
  unfold linkReg
  omega

theorem status_not_linkReg (p : Nat) : ¬ linkReg (Reg.PORT_STATUS p) := by
  unfold linkReg Reg.PORT_STATUS
  omega

structure LinkWork (m q : Mach) : Prop where
  parts : ∃ c ps l v, q = { m with csr := c, ports := ps, sent := m.sent ++ l, survey := v }
  rd : ∀ a, ¬ linkReg a → q.rd a = m.rd a
  port : ∀ k, besideSending (q.port k) = besideSending (m.port k)
  count : q.ports.length = m.ports.length
  leaving : ∀ k f, Leaving m k f → ∃ g, Leaving q k g ∧ SentAs f g

section

variable {m q r : Mach} {p : Nat}

theorem LinkWork.refl (m : Mach) : LinkWork m m :=
  ⟨⟨m.csr, m.ports, [], m.survey, by rw [List.append_nil]⟩, fun _ _ => rfl, fun _ => rfl, rfl, fun _ f h => ⟨f, h, .refl f⟩⟩

theorem LinkWork.trans (h : LinkWork m q) (j : LinkWork q r) : LinkWork m r where
  parts := by
    obtain ⟨_, _, l, _, rfl⟩ := h.parts
    obtain ⟨c, ps, l', v, rfl⟩ := j.parts
    exact ⟨c, ps, l ++ l', v, by simp only [List.append_assoc]⟩
  rd a ha := (j.rd a ha).trans (h.rd a ha)
  port k := (j.port k).trans (h.port k)
  count := j.count.trans h.count
  leaving k f hf := by
    obtain ⟨g, hg, hfg⟩ := h.leaving k f hf
    obtain ⟨g', hg', hgg⟩ := j.leaving k g hg
    exact ⟨g', hg', hfg.trans hgg⟩

/-- What looks at no register, port, frame sent or trouble counter reads the same. -/
theorem LinkWork.field {β : Type} {f : Mach → β} (hf : ∀ m c ps l v, f { m with csr := c, ports := ps, sent := l, survey := v } = f m)
    (h : LinkWork m q) : f q = f m := by
  obtain ⟨c, ps, l, v, rfl⟩ := h.parts
  exact hf m c ps _ v

/-- What looks at a port beside its sending side reads the same. -/
theorem LinkWork.portField {β : Type} {g : PortSt → β} (hg : ∀ x, g (besideSending x) = g x) (h : LinkWork m q) (k : Nat) : g (q.port k) = g (m.port k) := by
  rw [← hg, h.port, hg]

theorem LinkWork.ite {a b : Mach} {c : Prop} [Decidable c] (ha : LinkWork m a) (hb : LinkWork m b) : LinkWork m (if c then a else b) := by
  split
  · exact ha
  · exact hb

/-- A write of a counter of the link layer. -/
theorem LinkWork.wr {a : Nat} {v : Word} (h : LinkWork m q) (ha : linkReg a) : LinkWork m (q.wr a v) :=
  h.trans ⟨⟨_, q.ports, [], q.survey, by rw [List.append_nil]; rfl⟩, fun b hb => Mach.rd_wr_other q a b v fun e => hb (e ▸ ha), fun _ => rfl, rfl,
    fun _ f hf => ⟨f, hf, .refl f⟩⟩

theorem LinkWork.addF {c d : Nat} {f : Fld} (h : LinkWork m q) (hl : 0x05000014 ≤ c := by decide) (hu : c < 0x05008000 := by decide) :
    LinkWork m (q.addF (c + 0x10000 * p) f d) := h.wr (linkReg_at hl hu)

theorem LinkWork.tally {u i : Nat} (h : LinkWork m q) : LinkWork m (q.tally u i) :=
  h.trans ⟨⟨q.csr, q.ports, [], _, by rw [List.append_nil]; rfl⟩, fun _ _ => rfl, fun _ => rfl, rfl, fun _ f hf => ⟨f, hf, .refl f⟩⟩

/-- A change of a port's sending side that takes no frame from those that wait. -/
theorem LinkWork.updPort {f : PortSt → PortSt} (h : LinkWork m q) (hb : ∀ x, besideSending (f x) = besideSending x) (ht : ∀ x, x.txq ⊆ (f x).txq) :
    LinkWork m (q.updPort p f) := by
  refine h.trans ⟨⟨q.csr, _, [], q.survey, by rw [List.append_nil]; rfl⟩, fun _ _ => rfl, port_updPort_field hb, List.length_set, fun k g hg => ⟨g, ?_, .refl g⟩⟩
  refine hg.imp_left fun hq => ?_
  by_cases hk : k = p
  · subst hk
    by_cases hp : k < q.ports.length
    · rw [port_updPort_same hp]
      exact ht _ hq
    · rwa [port_updPort_beyond hp]
  · rwa [port_updPort_other hk]

/-- More frames sent. -/
theorem LinkWork.sends (h : LinkWork m q) (l : List SentFrame) : LinkWork m { q with sent := q.sent ++ l } :=
  h.trans ⟨⟨q.csr, q.ports, l, q.survey, rfl⟩, fun _ _ => rfl, fun _ => rfl, rfl, fun _ f hf =>
    ⟨f, hf.imp_right fun ⟨w, hw, hpf⟩ => ⟨w, List.mem_append_left _ hw, hpf⟩, .refl f⟩⟩

theorem LinkWork.showReplay (h : LinkWork m q) : LinkWork m (q.showReplay p) := h.wr (linkReg_at (by decide) (by decide))

theorem LinkWork.idleFrame {cls credit : Nat} (h : LinkWork m q) : LinkWork m (q.idleFrame p cls credit) := h.sends _

theorem LinkWork.replayFrom {seq : Nat} (h : LinkWork m q) : LinkWork m (q.replayFrom p seq) := h.sends _

/-- A frame as a port sends it (R392). -/
def numbered (x : PortSt) (f : Frame) : Frame := { f with seq := x.txSeq, ackSeq := x.rxLast, credCls := 0, credit := 0 }

/-- A port's state once a frame has left it (R394, R398). -/
def afterFrame (m : Mach) (p : Nat) (f : Frame) (turn : Nat) (x : PortSt) : PortSt :=
  { x with
    txq := x.txq.erase f, turn := turn, txSeq := (x.txSeq + 1) % 16777216, replay := x.replay ++ [numbered (m.port p) f],
    credits := useCredit f.cls x.credits, others := x.others.map (fun o => (o.1, o.2.1, useCredit f.cls o.2.2)),
    framesUnderKey := if m.encrypted p && (decide (f.typ = 1) || decide (f.typ = 2)) then x.framesUnderKey + 1 else x.framesUnderKey }

theorem emit_eq (m : Mach) (p : Nat) (f : Frame) (turn : Nat) : m.emit p f turn =
    ({ m.updPort p (afterFrame m p f turn) with sent := m.sent ++ [{ port := p, frame := numbered (m.port p) f }] } : Mach).showReplay p := rfl

/-- The frame that leaves is no more among those that wait, but among those sent. -/
theorem LinkWork.emit {f : Frame} {turn : Nat} (h : LinkWork m q) : LinkWork m (q.emit p f turn) := by
  rw [emit_eq]
  refine h.trans (LinkWork.showReplay ⟨⟨q.csr, _, [_], q.survey, rfl⟩, fun _ _ => rfl,
    port_updPort_field (m := q) (f := afterFrame q p f turn) fun _ => rfl, List.length_set, fun k g hg => ?_⟩)
  have hkept : g ∈ ((q.updPort p (afterFrame q p f turn)).port k).txq ∨ (k = p ∧ g = f) ∨ ∃ w ∈ q.sent, w.port = k ∧ w.frame = g := by
    rcases hg with hg | hg
    · by_cases hk : k = p
      · by_cases hgf : g = f
        · exact .inr (.inl ⟨hk, hgf⟩)
        · subst hk
          by_cases hp : k < q.ports.length
          · rw [port_updPort_same hp]
            exact .inl ((List.mem_erase_of_ne hgf).mpr hg)
          · exact .inl (by rwa [port_updPort_beyond hp])
      · exact .inl (by rwa [port_updPort_other hk])
    · exact .inr (.inr hg)
  rcases hkept with hq | ⟨rfl, rfl⟩ | ⟨w, hw, hpf⟩
  · exact ⟨g, .inl hq, .refl g⟩
  · exact ⟨numbered (q.port k) g, .inr ⟨_, List.mem_append_right _ (List.mem_singleton_self _), rfl, rfl⟩, rfl, rfl, rfl, rfl, rfl, rfl, rfl, rfl⟩
  · exact ⟨g, .inr ⟨w, List.mem_append_left _ hw, hpf⟩, .refl g⟩

theorem LinkWork.pumpN {n : Nat} (h : LinkWork m q) : LinkWork m (Mach.pumpN n p q) := by
  induction n generalizing q with
  | zero => exact h
  | succ n ih =>
    unfold Mach.pumpN
    split
    · exact ih h.emit
    · exact h

theorem LinkWork.pump (h : LinkWork m q) : LinkWork m (q.pump p) := h.pumpN

/-- A port's state with one more frame waiting. -/
def withFrame (f : Frame) (x : PortSt) : PortSt := { x with txq := x.txq ++ [f] }

theorem sendOn_live (h : ¬ (m.portState p = 0 ∨ m.portState p = 6)) (f : Frame) : m.sendOn p f = (m.updPort p (withFrame f)).pump p := if_neg h

theorem LinkWork.withFrame {f : Frame} (h : LinkWork m q) : LinkWork m (q.updPort p (withFrame f)) :=
  h.updPort (fun _ => rfl) fun _ => List.subset_append_left _ _

theorem LinkWork.sendOn {f : Frame} (h : LinkWork m q) : LinkWork m (q.sendOn p f) :=
  LinkWork.ite h h.withFrame.pump

/-- A frame handed to a port that is neither unused nor down waits there or has left. -/
theorem sendOn_leaving (hp : p < m.ports.length) (h : ¬ (m.portState p = 0 ∨ m.portState p = 6)) (f : Frame) :
    ∃ g, Leaving (m.sendOn p f) p g ∧ SentAs f g := by
  rw [sendOn_live h]
  refine (LinkWork.pump (.refl _)).leaving p f (.inl ?_)
  rw [port_updPort_same hp]
  exact List.mem_append_right _ (List.mem_singleton_self f)

theorem LinkWork.acked {src : Option Nat} {ack cls credit : Nat} (h : LinkWork m q) : LinkWork m (q.acked p src ack cls credit) := by
  refine (h.updPort (fun x => ?_) fun x => ?_).showReplay.pump
  · cases src <;> rfl
  · cases src <;> exact List.Subset.refl _

theorem LinkWork.takeAck {f : Frame} (h : LinkWork m q) : LinkWork m (q.takeAck p f) := by
  unfold Mach.takeAck
  extract_lets q₁
  have h₁ : LinkWork m q₁ := h.acked
  split
  · exact .ite h₁.acked h₁
  · exact h₁

theorem LinkWork.forward {f : Frame} (h : LinkWork m q) : LinkWork m (q.forward p f) := by
  unfold Mach.forward
  split
  · exact h.sendOn
  · exact h.addF.tally

end

end Sys2Proof.Laws
end

section
namespace Sys2Proof.Laws

open Sys2Proof.Machine

/-!
# The link level (R391 to R400, R418, R419)

A frame that a port receives, by its cases; a replay; the lanes of a port; and a port that goes down.
-/

/-! ### What the work of the link leaves (R400, R412) -/

section

variable {m q : Mach} (h : LinkWork m q)

include h

theorem LinkWork.rdF_status (k : Nat) (f : Fld) : q.rdF (Reg.PORT_STATUS k) f = m.rdF (Reg.PORT_STATUS k) f := by
  rw [Mach.rdF, h.rd _ (status_not_linkReg k), Mach.rdF]

theorem LinkWork.portState (k : Nat) : q.portState k = m.portState k := h.rdF_status k _

theorem LinkWork.mem : q.mem = m.mem := h.field (f := Mach.mem) fun _ _ _ _ _ => rfl

theorem LinkWork.messages : q.messages = m.messages := h.field (f := Mach.messages) fun _ _ _ _ _ => rfl

theorem LinkWork.plan : q.plan = m.plan := h.field (f := Mach.plan) fun _ _ _ _ _ => rfl

theorem LinkWork.isLocal (a : Nat) : q.isLocal a = m.isLocal a := h.field (f := fun m => m.isLocal a) fun _ _ _ _ _ => rfl

theorem LinkWork.routeTo (a : Nat) : q.routeTo a = m.routeTo a := by
  have hcut : ∀ k, (q.port k).cut = (m.port k).cut := h.portField (g := PortSt.cut) fun _ => rfl
  simp only [Mach.routeTo, h.plan, hcut, h.portState]

end

section

variable {m : Mach} {p k a : Nat} {g : PortSt → PortSt}

@[simp] theorem portState_updPort : (m.updPort p g).portState k = m.portState k := rfl

@[simp] theorem isLocal_updPort : (m.updPort p g).isLocal a = m.isLocal a := rfl

theorem routeTo_updPort (hg : ∀ x, (g x).cut = x.cut) : (m.updPort p g).routeTo a = m.routeTo a := by
  have hcut : ∀ k, ((m.updPort p g).port k).cut = (m.port k).cut := port_updPort_field (g := PortSt.cut) hg
  simp only [Mach.routeTo, Mach.updPort_plan, hcut, portState_updPort]

/-- A route leads to a port that is up or retraining (R400, R403). -/
theorem routeTo_live {q : Nat} (h : m.routeTo a = some q) : q < 32 ∧ (m.portState q = 4 ∨ m.portState q = 5) := by
  unfold Mach.routeTo at h
  split at h
  · cases h
  · dsimp only at h
    split at h
    · next hc =>
      cases h
      exact ⟨hc.1, hc.2.2⟩
    · cases h

end

/-! ### A replay is asked for (R393) -/

/-- The port waits for the frame that it expects, and has sent one request for it. -/
structure AskedAgain (m t : Mach) (p : Nat) : Prop where
  waits : (t.port p).waitReplay = true
  expects : (t.port p).rxExpect = (m.port p).rxExpect
  asks : ∃ f, Leaving t p f ∧ f.typ = 2 ∧ f.cls = 0 ∧ f.payload = leBytes (m.port p).rxExpect 3

section

variable {m q : Mach} {p : Nat} {f : Frame} {rx : FrameRx}

/-- A port's state while it waits for a replay. -/
def waitingReplay (x : PortSt) : PortSt := { x with waitReplay := true }

/-- The module with a port that waits for a replay, and its count (R393, R428). -/
def rxWaits (m : Mach) (p : Nat) : Mach :=
  ((m.updPort p waitingReplay).addF (Reg.PORT_REPLAYS p) Fld.PORT_REPLAYS_COUNT 1).tally (188 + p) 1

theorem rxError_first (h : (m.port p).waitReplay = false) : m.rxError p =
    (rxWaits m p).sendOn p ((rxWaits m p).newFrame 2 0 0xFFF 0 0 false (leBytes ((rxWaits m p).port p).rxExpect 3)) :=
  if_neg (ne_true_of_eq_false h)

theorem rxWaits_work : LinkWork (m.updPort p waitingReplay) (rxWaits m p) := (LinkWork.refl _).addF.tally

theorem rxWaits_port (hp : p < m.ports.length) : (rxWaits m p).port p = waitingReplay (m.port p) := port_updPort_same hp _

theorem rxError_work (h : (m.port p).waitReplay = false) : LinkWork (m.updPort p waitingReplay) (m.rxError p) := by
  rw [rxError_first h]
  exact rxWaits_work.sendOn

theorem rxError_asks (hp : p < m.ports.length) (hs : m.portState p = 4) (h : (m.port p).waitReplay = false) : AskedAgain m (m.rxError p) p := by
  have hwork := rxError_work h
  have hlive : ¬ ((rxWaits m p).portState p = 0 ∨ (rxWaits m p).portState p = 6) := by
    rw [rxWaits_work.portState, portState_updPort, hs]
    decide
  refine ⟨?_, ?_, ?_⟩
  · rw [hwork.portField (g := PortSt.waitReplay) (fun _ => rfl), port_updPort_same hp]
    rfl
  · rw [hwork.portField (g := PortSt.rxExpect) (fun _ => rfl), port_updPort_same hp]
    rfl
  · obtain ⟨g, hg, hsent⟩ := sendOn_leaving (p := p) (by rw [rxWaits_work.count]; simpa [Mach.updPort] using hp) hlive
      ((rxWaits m p).newFrame 2 0 0xFFF 0 0 false (leBytes ((rxWaits m p).port p).rxExpect 3))
    rw [rxError_first h]
    refine ⟨g, hg, hsent.typ, hsent.cls, hsent.payload.trans ?_⟩
    rw [rxWaits_port hp]
    rfl

/-! ### A frame that arrives (R391 to R400) -/

/-- The module once the errors that FEC corrected are counted, and a frame that it dropped (R391). -/
def fecCounted (p : Nat) (rx : FrameRx) (m : Mach) : Mach :=
  let q := m.addF (Reg.PORT_FEC_CORRECTED p) Fld.PORT_FEC_CORRECTED_COUNT rx.corrected
  if rx.dropped then (q.addF (Reg.PORT_FEC_DROPPED p) Fld.PORT_FEC_DROPPED_COUNT 1).tally (188 + p) 0 else q

theorem fecCounted_work : LinkWork m (fecCounted p rx m) := .ite (LinkWork.refl m).addF.addF.tally (LinkWork.refl m).addF

/-- A frame whose checks all pass. -/
abbrev soundRx : FrameRx := { corrected := 0, dropped := false, hcrcOk := true, fcrcOk := true, tagOk := true }

/-- A port's state once the frame that it expects has come. -/
def received (f : Frame) (clk : Nat) (x : PortSt) : PortSt :=
  { x with rxExpect := (f.seq + 1) % 16777216, rxLast := f.seq, waitReplay := false, lastInOrder := clk }

/-- The module once a frame in order has come, with its acknowledgement. -/
def tookFrame (p : Nat) (f : Frame) (m : Mach) : Mach := ((fecCounted p soundRx m).updPort p (received f m.clk)).takeAck p f

/-! ### What a frame in order leaves -/

theorem tookFrame_work : LinkWork ((fecCounted p soundRx m).updPort p (received f m.clk)) (tookFrame p f m) := (LinkWork.refl _).takeAck

theorem tookFrame_isLocal (a : Nat) : (tookFrame p f m).isLocal a = m.isLocal a := by
  rw [tookFrame_work.isLocal, isLocal_updPort, fecCounted_work.isLocal]

theorem tookFrame_routeTo (a : Nat) : (tookFrame p f m).routeTo a = m.routeTo a := by
  rw [tookFrame_work.routeTo, routeTo_updPort (g := received f m.clk) fun _ => rfl, fecCounted_work.routeTo]

theorem tookFrame_portState (k : Nat) : (tookFrame p f m).portState k = m.portState k := by
  rw [tookFrame_work.portState, portState_updPort, fecCounted_work.portState]

theorem tookFrame_count : (tookFrame p f m).ports.length = m.ports.length := by
  rw [tookFrame_work.count, Mach.updPort, List.length_set, fecCounted_work.count]

/-- A port has moved on to the next frame, and no message or memory has changed. -/
structure MovedOn (m t : Mach) (p : Nat) (f : Frame) : Prop where
  expects : (t.port p).rxExpect = (f.seq + 1) % 16777216
  last : (t.port p).rxLast = f.seq
  waits : (t.port p).waitReplay = false
  heard : (t.port p).lastInOrder = m.clk
  messages : t.messages = m.messages
  mem : t.mem = m.mem

theorem LinkWork.movedOn (hp : p < m.ports.length) (h : LinkWork (tookFrame p f m) q) : MovedOn m q p f := by
  have hwork := tookFrame_work.trans h
  have hport : ∀ {β : Type} (g : PortSt → β), (∀ x, g (besideSending x) = g x) → g (q.port p) = g (received f m.clk (m.port p)) := fun g hg => by
    rw [hwork.portField hg, port_updPort_same (by rwa [fecCounted_work.count]), ← hg, ← hg (received f m.clk (m.port p))]
    rfl
  refine ⟨hport _ fun _ => rfl, hport _ fun _ => rfl, hport _ fun _ => rfl, hport _ fun _ => rfl, ?_, ?_⟩
  · rw [hwork.messages, Mach.updPort_messages, fecCounted_work.messages]
  · rw [hwork.mem, Mach.updPort_mem, fecCounted_work.mem]

/-! ### The cases of a frame that arrives -/

section

variable (hs : m.portState p = 4)

include hs

theorem accepts_up : (fecCounted p rx m).accepts p f = true := by simp only [Mach.accepts, fecCounted_work.portState, hs]

theorem frameReceive_damaged (hbad : rx.dropped = true ∨ rx.hcrcOk = false) : frameReceive p f rx m = (fecCounted p rx m).rxError p :=
  (if_neg (c := (!(fecCounted p rx m).accepts p f) = true) (by simp [accepts_up hs])).trans (if_pos (by simpa using hbad))

theorem frameReceive_cut (hd : rx.dropped = false) (hh : rx.hcrcOk = true) (hf : rx.fcrcOk = false) (hl : m.isLocal f.dest = true) :
    frameReceive p f rx m = (fecCounted p rx m).rxError p := by
  have hlocal : (fecCounted p rx m).isLocal f.dest = true := by rw [fecCounted_work.isLocal, hl]
  refine (if_neg (c := (!(fecCounted p rx m).accepts p f) = true) (by simp [accepts_up hs])).trans ((if_neg (by simp [hd, hh])).trans
    ((if_pos (by simp [hf])).trans ?_))
  exact congrArg (fun q => Mach.rxError q p) (if_neg (c := _ && !(fecCounted p rx m).isLocal f.dest && _ && _) (by simp [hlocal]))

section

variable (ht : f.typ ≠ 0)

include ht

/-- A frame that passes its checks and is not idle is told apart by its number. -/
theorem frameReceive_sound : frameReceive p f soundRx m =
    if ((m.port p).waitReplay && !(decide (f.typ ≠ 0) && decide (f.seq = (m.port p).rxExpect))) = true then fecCounted p soundRx m
    else if (!(decide (f.typ ≠ 0) && decide (f.seq = (m.port p).rxExpect))) = true then
      (if seqLe f.seq (m.port p).rxLast = true then fecCounted p soundRx m else (fecCounted p soundRx m).rxError p)
    else if f.stomp = true then (tookFrame p f m).idleFrame p f.cls 1
    else if (!(tookFrame p f m).isLocal f.dest) = true ∧ (f.typ = 1 ∨ f.typ = 2) then ((tookFrame p f m).forward p f).idleFrame p f.cls 1
    else if f.cls = 0 then ((tookFrame p f m).deliverFrame p f).idleFrame p 0 0
    else (tookFrame p f m).deliverFrame p f :=
  (if_neg (c := (!(fecCounted p soundRx m).accepts p f) = true) (by simp [accepts_up hs])).trans ((if_neg (by simp)).trans ((if_neg (by simp)).trans
    ((if_neg (c := ((fecCounted p soundRx m).encrypted p && _ && !soundRx.tagOk) = true) (by simp)).trans (if_neg ht))))

theorem frameReceive_late (hn : f.seq ≠ (m.port p).rxExpect) (hl : (m.port p).waitReplay = true ∨ seqLe f.seq (m.port p).rxLast = true) :
    frameReceive p f soundRx m = fecCounted p soundRx m := by
  rw [frameReceive_sound hs ht]
  cases hw : (m.port p).waitReplay
  · simp [hn, hl.resolve_left (by simp [hw])]
  · simp [hn]

theorem frameReceive_ahead (hn : f.seq ≠ (m.port p).rxExpect) (hw : (m.port p).waitReplay = false) (hl : seqLe f.seq (m.port p).rxLast = false) :
    frameReceive p f soundRx m = (fecCounted p soundRx m).rxError p := by
  rw [frameReceive_sound hs ht]
  simp [hn, hw, hl]

section

variable (hn : f.seq = (m.port p).rxExpect) (hstomp : f.stomp = false)

include hn hstomp

theorem frameReceive_through (hl : m.isLocal f.dest = false) (h1 : f.typ = 1) :
    frameReceive p f soundRx m = ((tookFrame p f m).forward p f).idleFrame p f.cls 1 := by
  rw [frameReceive_sound hs ht, tookFrame_isLocal, hl]
  simp [hn, hstomp, h1]

theorem frameReceive_control (h3 : f.typ = 3) (hc : f.cls = 0) : frameReceive p f soundRx m = (tookFrame p f m).idleFrame p 0 0 := by
  rw [frameReceive_sound hs ht]
  simp [hn, hstomp, h3, hc, Mach.deliverFrame]

end

end

end

/-! ### Forwarding (R400, R401) -/

theorem forward_routed {k : Nat} (hh : f.hops ≠ 0) (hr : m.routeTo f.dest = some k) : m.forward p f = m.sendOn k { f with hops := f.hops - 1 } := by
  simp only [Mach.forward, if_neg hh, hr]

/-- A frame that is forwarded waits at the route's port, or leaves by it, with one hop less. -/
theorem forward_leaving {k : Nat} (hk : k < m.ports.length) (hh : f.hops ≠ 0) (hr : m.routeTo f.dest = some k) :
    ∃ g, Leaving (m.forward p f) k g ∧ SentAs { f with hops := f.hops - 1 } g := by
  rw [forward_routed hh hr]
  exact sendOn_leaving hk (by rcases (routeTo_live hr).2 with h | h <;> simp [h]) _

/-- A port that stays up ends no mirror. -/
theorem frameArrives_live (hs : (frameReceive p f rx m).portState p ≠ 6) : frameArrives p f rx m = frameReceive p f rx m := if_neg fun h => hs h.2

end

end Sys2Proof.Laws
end

section
namespace Sys2Proof.Laws

open Sys2Proof.Machine

/-!
# Lanes, and ports that go down (R389, R403, R418, R419)

The state that PORT_STATUS shows, the lanes of a port that retrains, and what a port that goes down leaves, with the mirror whose path it was.
-/

/-! ### The state of a port -/

section

variable {m : Mach} {p : Nat}

theorem portState_setPortState {v : Nat} (hv : v < 16) : (m.setPortState p v).portState p = v :=
  (Mach.rdF_wrF_same m _ _ v (by decide)).trans (Nat.mod_eq_of_lt hv)

theorem showLanes_csr : ∃ tx rx, (m.showLanes p).csr =
    ((m.wrF (Reg.PORT_STATUS p) Fld.PORT_STATUS_TX_LANES tx).wrF (Reg.PORT_STATUS p) Fld.PORT_STATUS_RX_LANES rx).csr := ⟨_, _, rfl⟩

/-- The lane sets lie apart from the other fields of PORT_STATUS (R428). -/
theorem showLanes_rdF {f : Fld} (hf : f.lo + f.width ≤ 32) (htx : Apart Fld.PORT_STATUS_TX_LANES f) (hrx : Apart Fld.PORT_STATUS_RX_LANES f) :
    (m.showLanes p).rdF (Reg.PORT_STATUS p) f = m.rdF (Reg.PORT_STATUS p) f := by
  obtain ⟨tx, rx, hcsr⟩ := showLanes_csr (m := m) (p := p)
  rw [Mach.rdF_congr _ _ _ _ hcsr, Mach.rdF_wrF_other _ _ _ _ f _ (by decide) hf (.inr hrx), Mach.rdF_wrF_other _ _ _ _ f _ (by decide) hf (.inr htx)]

theorem showLanes_portState : (m.showLanes p).portState p = m.portState p := showLanes_rdF (by decide) (.inl (by decide)) (.inl (by decide))

theorem showLanes_portField {β : Type} {g : PortSt → β} (hg : ∀ x l, g { x with lowSince := l } = g x) (k : Nat) :
    g ((m.showLanes p).port k) = g (m.port k) :=
  port_updPort_field (m := (m.wrF (Reg.PORT_STATUS p) _ _).wrF (Reg.PORT_STATUS p) _ _) (f := fun x => { x with lowSince := _ }) (fun x => hg x _) k

end

/-! ### Lanes (R419) -/

section

variable {m : Mach} {p : Fin 32} {lane : Fin 8}

theorem laneLoss_ignored (h : (m.port p).lanesDown.any (fun y => decide (y.1 = lane.val)) = true ∨ lane.val ∈ (m.port p).lanesOut ∨
    m.portState p < 2 ∨ 5 < m.portState p) (ring : Bool) : laneLoss p lane ring m = m := by
  refine if_pos ?_
  rcases h with h | h | h | h
  · exact .inr (.inl h)
  · exact .inr (.inr (List.contains_iff_mem.mpr h))
  · exact .inl (by simp [h])
  · exact .inl (by simp [h])

/-- A port's state with one lane more that is down. -/
def withLaneDown (lane : Fin 8) (clk : Nat) (x : PortSt) : PortSt := { x with lanesDown := x.lanesDown ++ [(lane.val, clk)] }

/-- The module once a lane of a port that was up is down, and the port retrains. -/
def laneLost (m : Mach) (p : Fin 32) (lane : Fin 8) : Mach :=
  ((((m.updPort p (withLaneDown lane m.clk)).setPortState p 5).addF
    (Reg.PORT_RETRAINS p) Fld.PORT_RETRAINS_COUNT 1).tally (188 + p) 2).showLanes p

theorem laneLoss_up (hs : m.portState p = 4) (hd : (m.port p).lanesDown.any (fun y => decide (y.1 = lane.val)) = false)
    (ho : lane.val ∉ (m.port p).lanesOut) :
    laneLoss p lane false m = (laneLost m p lane).sendOn p ((laneLost m p lane).newFrame 2 0 0xFFF 0 0 false []) := by
  refine (if_neg ?_).trans (if_neg (not_not.mpr hs))
  simp [hs, hd, ho]

/-- A lane more that is down. -/
theorem laneLost_lanesDown (hp : p.val < m.ports.length) : ((laneLost m p lane).port p).lanesDown = (m.port p).lanesDown ++ [(lane.val, m.clk)] :=
  (showLanes_portField (g := PortSt.lanesDown) (fun _ _ => rfl) _).trans (congrArg PortSt.lanesDown (port_updPort_same hp (withLaneDown lane m.clk)))

theorem laneLost_portState : (laneLost m p lane).portState p = 5 := by
  rw [laneLost, showLanes_portState, (LinkWork.tally (LinkWork.addF (.refl _))).portState]
  exact portState_setPortState (by decide)

/-- A port's state once the lanes that were left out and are locked again have joined it. -/
def rejoined (m : Mach) (p : Fin 32) (x : PortSt) : PortSt :=
  { x with lanesOut := x.lanesOut.filter (fun n => !(if h : n < 8 then
      decide (m.ringCode { rx := true, port := p, line := ⟨n, h⟩ } = 1) && decide (m.ringCode { rx := false, port := p, line := ⟨n, h⟩ } = 1) else false)) }

/-- A port that is up, all its lanes there or left out. -/
structure UpAgain (m t : Mach) (p : Nat) : Prop where
  state : t.portState p = 4
  lanes : (t.port p).lanesDown = []
  mem : t.mem = m.mem

theorem retrained_work (hd : (m.port p).lanesDown = []) (hs : m.portState p = 5) :
    LinkWork (((m.updPort p (rejoined m p)).setPortState p 4).showLanes p) (m.retrained p) := by
  have hq : m.retrained p = _ := (if_neg (not_not.mpr hd)).trans (if_pos (c := (m.updPort p (rejoined m p)).portState p = 5) hs)
  rw [hq]
  exact (LinkWork.refl _).replayFrom.pump

theorem retrained_upAgain (hd : (m.port p).lanesDown = []) (hs : m.portState p = 5) : UpAgain m (m.retrained p) p := by
  have hwork := retrained_work hd hs
  refine ⟨?_, ?_, ?_⟩
  · rw [hwork.portState, showLanes_portState]
    exact portState_setPortState (by decide)
  · rw [hwork.portField (g := PortSt.lanesDown) fun _ => rfl, showLanes_portField (g := PortSt.lanesDown) fun _ _ => rfl]
    exact (port_updPort_field (g := PortSt.lanesDown) (f := rejoined m p) (fun _ => rfl) _).trans hd
  · rw [hwork.mem]
    rfl

/-- A port's last lane that was down is no more among those that are: the retrain ends. -/
theorem retrained_last (hp : p.val < m.ports.length) (hs : m.portState p = 5) {f : PortSt → PortSt} (hf : (f (m.port p)).lanesDown = []) :
    UpAgain m ((m.updPort p f).retrained p) p := by
  obtain ⟨hstate, hlanes, hmem⟩ := retrained_upAgain (m := m.updPort p f) (by rw [port_updPort_same hp, hf]) hs
  exact ⟨hstate, hlanes, hmem⟩

theorem laneRealign_ignored (h : (m.port p).lanesDown.any (fun y => decide (y.1 = lane.val)) = false ∨ m.ringCode { rx := true, port := p, line := lane } ≠ 1) :
    laneRealign p lane m = m := if_pos (h.imp_left fun h => by simp [h])

theorem laneRealign_last (hp : p.val < m.ports.length) (hs : m.portState p = 5) {t0 : Nat} (hd : (m.port p).lanesDown = [(lane.val, t0)])
    (hr : m.ringCode { rx := true, port := p, line := lane } = 1) : UpAgain m (laneRealign p lane m) p := by
  have hq : laneRealign p lane m = _ := if_neg (by simp [hd, hr])
  rw [hq]
  exact retrained_last hp hs (by simp [hd])

section

variable {t0 : Nat} (hd : (m.port p).lanesDown = [(lane.val, t0)])

include hd

theorem laneDrop_waits (h : m.clk < t0 + ms 1 ∨ (maskBits (m.laneSet true p) 8).length < (m.portEntry p).laneMin) : laneDrop p lane m = m := by
  simp only [laneDrop, hd, List.find?_cons, decide_true, if_pos h]

theorem laneDrop_last (hp : p.val < m.ports.length) (hs : m.portState p = 5) (hc : t0 + ms 1 ≤ m.clk)
    (hl : (m.portEntry p).laneMin ≤ (maskBits (m.laneSet true p) 8).length) : UpAgain m (laneDrop p lane m) p := by
  simp only [laneDrop, hd, List.find?_cons, decide_true, if_neg (not_or.mpr ⟨Nat.not_lt.mpr hc, Nat.not_lt.mpr hl⟩)]
  exact retrained_last hp hs (by simp [hd])

end

end

/-! ### The path of a mirror (R474) -/

/-- What the end of a freeze changes: registers of Belay and MODULE_TROUBLE, Belay's own state, the group's messages and a count. -/
structure BelayWork (m q : Mach) : Prop where
  parts : ∃ c b g v, q = { m with csr := c, belay := b, group := g, survey := v }
  rd : ∀ a, 0x05000000 ≤ a → a < 0x06000000 → q.rd a = m.rd a

section

variable {m q : Mach}

theorem BelayWork.refl (m : Mach) : BelayWork m m := ⟨⟨m.csr, m.belay, m.group, m.survey, rfl⟩, fun _ _ _ => rfl⟩

theorem BelayWork.trans {r : Mach} (h : BelayWork m q) (j : BelayWork q r) : BelayWork m r := by
  obtain ⟨⟨_, _, _, _, rfl⟩, hrd⟩ := h
  obtain ⟨⟨c, b, g, v, rfl⟩, jrd⟩ := j
  exact ⟨⟨c, b, g, v, rfl⟩, fun a hl hu => (jrd a hl hu).trans (hrd a hl hu)⟩

theorem BelayWork.ports (h : BelayWork m q) : q.ports = m.ports := by
  obtain ⟨_, _, _, _, rfl⟩ := h.parts
  rfl

theorem BelayWork.wr {a : Nat} {v : Word} (h : BelayWork m q) (ha : a < 0x05000000 ∨ 0x06000000 ≤ a) : BelayWork m (q.wr a v) :=
  h.trans ⟨⟨_, q.belay, q.group, q.survey, rfl⟩, fun b hl hu => Mach.rd_wr_other q a b v (by omega)⟩

theorem BelayWork.regroup (h : BelayWork m q) (g : GroupSt) : BelayWork m { q with group := g } :=
  h.trans ⟨⟨q.csr, q.belay, g, q.survey, rfl⟩, fun _ _ _ => rfl⟩

theorem BelayWork.tally {u i : Nat} (h : BelayWork m q) : BelayWork m (q.tally u i) :=
  h.trans ⟨⟨q.csr, q.belay, q.group, _, rfl⟩, fun _ _ _ => rfl⟩

theorem BelayWork.belaySt (h : BelayWork m q) (b : BelaySt) : BelayWork m { q with belay := b } :=
  h.trans ⟨⟨q.csr, b, q.group, q.survey, rfl⟩, fun _ _ _ => rfl⟩

theorem BelayWork.toMaster {c : Nat} {b : GBody} (h : BelayWork m q) : BelayWork m (q.toMaster c b) := by
  obtain ⟨g, hg⟩ := toMaster_parts q c b
  rw [hg]
  exact h.regroup g

theorem BelayWork.sendJoin {c base k : Nat} (h : BelayWork m q) : BelayWork m (q.sendJoin c base k) := by
  unfold Mach.sendJoin
  split
  · exact h
  · exact h.toMaster

theorem BelayWork.sendHeldJoins {c : Nat} (h : BelayWork m q) : BelayWork m (q.sendHeldJoins c) := by
  unfold Mach.sendHeldJoins
  extract_lets q₁
  have h₁ : BelayWork m q₁ := by
    unfold q₁
    split
    · split
      · exact h.sendJoin
      · exact h
    · exact h
  split
  · split
    · exact h₁.sendJoin
    · exact h₁
  · exact h₁

/-- A freeze that fails (R473, R474). -/
theorem BelayWork.endFreeze {code : Nat} (h : BelayWork m q) (hc : code ≠ 0) : BelayWork m (q.endFreeze code) := by
  unfold Mach.endFreeze
  split
  · extract_lets b q₁ q₂ q₃ q₄
    have h₂ : BelayWork m q₂ := ((h.belaySt _).wr (a := Reg.BELAY_STATUS) (.inr (by decide))).wr (a := Reg.BELAY_STATUS) (.inr (by decide))
    have h₃ : BelayWork m q₃ := h₂.wr (a := Reg.BELAY_LAST_FREEZE) (.inr (by decide))
    have h₄ : BelayWork m q₄ := by
      unfold q₄
      rw [if_neg hc]
      exact ((h₃.wr (a := Reg.BELAY_COUNTS) (.inr (by decide))).wr (a := Reg.MODULE_TROUBLE) (.inl (by decide))).tally
    exact h₄.toMaster.sendHeldJoins
  · exact h

theorem belayPathDown_work (m : Mach) : BelayWork m m.belayPathDown := by
  unfold Mach.belayPathDown
  split
  · split
    · exact (BelayWork.refl m).endFreeze (by decide)
    · exact .refl m
  · exact .refl m

end

/-! ### A port goes down (R403, R418) -/

section

variable {m : Mach} {p : Nat}

/-- What a port that goes down shows, and that it keeps no frame (R418). -/
structure WentDown (t : Mach) (p : Nat) : Prop where
  state : t.portState p = 6
  reported : (t.port p).reported = (St.linkDown, p)
  event : t.rdF (Reg.PORT_STATUS p) Fld.PORT_STATUS_DOWN_EVENT = 1
  replay : (t.port p).replay = []

theorem WentDown.of_belay {q : Mach} (h : WentDown m p) (hp : p < 32) (hw : BelayWork m q) : WentDown q p := by
  have hrd : q.rd (Reg.PORT_STATUS p) = m.rd (Reg.PORT_STATUS p) := hw.rd _ (by unfold Reg.PORT_STATUS; omega) (by unfold Reg.PORT_STATUS; omega)
  have hport : q.port p = m.port p := by rw [Mach.port, hw.ports, Mach.port]
  obtain ⟨hstate, hreported, hevent, hreplay⟩ := h
  refine ⟨?_, hport ▸ hreported, ?_, hport ▸ hreplay⟩
  · rwa [Mach.portState, Mach.rdF, hrd]
  · rwa [Mach.rdF, hrd]

/-- The module with a port that shows that it is down (R418, R428). -/
def shownDown (m : Mach) (p : Nat) : Mach :=
  ((m.setPortState p 6).wrF (Reg.PORT_STATUS p) Fld.PORT_STATUS_DOWN_EVENT 1).wr (Reg.PORT_SADDLE_FMT p) 0

/-- A port's state as it goes down. -/
def downed (m : Mach) (p : Nat) (x : PortSt) : PortSt :=
  { x with
    reported := (St.linkDown, p), trained := false, matched := false, reduceIn := [], cut := x.cut || m.optics.dark.isNone,
    light := x.light && decide (x.lanesDown.length < 8) }

/-- A port's state without its frames (R418). -/
def flushed (x : PortSt) : PortSt := { x with replay := [], txq := [], waitReplay := false, others := [], credits := [0, 0, 0, 0] }

/-- The module with a port that shows that it is down, and has let its frames go. -/
def letDown (m : Mach) (p : Nat) : Mach := (((shownDown m p).updPort p (downed m p)).updPort p flushed).showReplay p

theorem portDown_eq : m.portDown p = ((((letDown m p).showLanes p).event Ev.port St.linkDown p).trouble 2).tally (188 + p) 3 := rfl

theorem letDown_port (hp : p < m.ports.length) : (letDown m p).port p = flushed (downed m p (m.port p)) := by
  have hq : p < ((shownDown m p).updPort p (downed m p)).ports.length := hp.trans_eq List.length_set.symm
  exact (port_updPort_same hq flushed).trans (congrArg flushed (port_updPort_same (m := shownDown m p) (by exact hp) _))

theorem letDown_rdF (f : Fld) :
    (letDown m p).rdF (Reg.PORT_STATUS p) f = ((m.setPortState p 6).wrF (Reg.PORT_STATUS p) Fld.PORT_STATUS_DOWN_EVENT 1).rdF (Reg.PORT_STATUS p) f := by
  have hrd : (letDown m p).rd (Reg.PORT_STATUS p) = (shownDown m p).rd (Reg.PORT_STATUS p) := Mach.rd_wr_other _ _ _ _ (by
    unfold Reg.PORT_STATUS Reg.PORT_REPLAY_FILL
    omega)
  rw [Mach.rdF, hrd, shownDown, Mach.rd_wr_other _ _ _ _ (by unfold Reg.PORT_STATUS Reg.PORT_SADDLE_FMT; omega), Mach.rdF]

theorem portDown_rdF {f : Fld} (hf : f.lo + f.width ≤ 32) (htx : Apart Fld.PORT_STATUS_TX_LANES f) (hrx : Apart Fld.PORT_STATUS_RX_LANES f) :
    (m.portDown p).rdF (Reg.PORT_STATUS p) f = ((m.setPortState p 6).wrF (Reg.PORT_STATUS p) Fld.PORT_STATUS_DOWN_EVENT 1).rdF (Reg.PORT_STATUS p) f := by
  have hrd : (m.portDown p).rd (Reg.PORT_STATUS p) = ((letDown m p).showLanes p).rd (Reg.PORT_STATUS p) := by
    rw [portDown_eq, Mach.rd_tally, Mach.rd_trouble, if_neg (by unfold Reg.PORT_STATUS Reg.MODULE_TROUBLE; omega), Mach.rd_event]
  rw [← letDown_rdF f, ← showLanes_rdF (m := letDown m p) hf htx hrx, Mach.rdF, hrd, Mach.rdF]

theorem portDown_portField {β : Type} {g : PortSt → β} (hg : ∀ x l, g { x with lowSince := l } = g x) (hp : p < m.ports.length) :
    g ((m.portDown p).port p) = g (flushed (downed m p (m.port p))) := by
  have hports : (m.portDown p).port p = ((letDown m p).showLanes p).port p := congrArg (fun l : List PortSt => l.getD p .reset) (Mach.event_ports _ _ _ _)
  rw [hports, showLanes_portField hg, letDown_port hp]

theorem portDown_wentDown (hp : p < m.ports.length) : WentDown (m.portDown p) p where
  state := by
    refine (portDown_rdF (by decide) (.inl (by decide)) (.inl (by decide))).trans ?_
    rw [Mach.rdF_wrF_other _ _ _ _ _ _ (by decide) (by decide) (.inr (.inl (by decide)))]
    exact portState_setPortState (by decide)
  reported := portDown_portField (g := PortSt.reported) (fun _ _ => rfl) hp
  event := (portDown_rdF (by decide) (.inr (by decide)) (.inr (by decide))).trans (Mach.rdF_wrF_same _ _ _ 1 (by decide))
  replay := portDown_portField (g := PortSt.replay) (fun _ _ => rfl) hp

/-- A port without a frame in order for DOWN_MS, or 1 ms below LANE_MIN (R403, R419). -/
def portDead (m : Mach) (p : Nat) : Prop :=
  (m.port p).lastInOrder + ms (m.rdF (Reg.PORT_CFG p) Fld.PORT_CFG_DOWN_MS) ≤ m.clk ∨ ∃ t0, (m.port p).lowSince = some t0 ∧ t0 + ms 1 ≤ m.clk

theorem exists_some_iff_elim {o : Option Nat} {q : Nat → Prop} [DecidablePred q] :
    (∃ t0, o = some t0 ∧ q t0) ↔ o.elim false (fun t => decide (q t)) = true := by
  cases o with
  | none => simp
  | some t => simp

theorem portDead_iff : portDead m p ↔ (m.port p).lastInOrder + ms (m.rdF (Reg.PORT_CFG p) Fld.PORT_CFG_DOWN_MS) ≤ m.clk ∨
    (m.port p).lowSince.elim false (fun t => decide (t + ms 1 ≤ m.clk)) = true := or_congr_right exists_some_iff_elim

theorem portDownTimeout_ignored (h : ¬ portDead m p ∨ (m.portState p ≠ 4 ∧ m.portState p ≠ 5)) : portDownTimeout p m = m := by
  refine ite_eq_left_iff.mpr fun hlive => if_neg (portDead_iff.not.mp (h.resolve_right fun ⟨h4, h5⟩ => hlive ?_))
  simp [h4, h5]

theorem portDownTimeout_dead (hd : portDead m p) (hs : m.portState p = 4 ∨ m.portState p = 5) : portDownTimeout p m = (m.portDown p).belayPathDown := by
  refine (if_neg ?_).trans (if_pos (portDead_iff.mp hd))
  rcases hs with hs | hs <;> simp [hs]

theorem portDownTimeout_wentDown (hp : p < m.ports.length) (hp' : p < 32) (hd : portDead m p) (hs : m.portState p = 4 ∨ m.portState p = 5) :
    WentDown (portDownTimeout p m) p := by
  rw [portDownTimeout_dead hd hs]
  exact (portDown_wentDown hp).of_belay hp' (belayPathDown_work _)

end

end Sys2Proof.Laws
end

section
namespace Sys2Proof.Laws

open Sys2Proof.Machine

/-!
# The link level and the timebase, settled

Each row of the statement is one of the cases above. A port that stays up ends no mirror, so a frame that arrives there does what its case says.
-/

section

variable {m : Mach} {p : Nat} {f : Frame} {rx : FrameRx}

theorem fecCounted_port (k : Nat) : (fecCounted p rx m).port k = m.port k := by
  unfold fecCounted
  split
  · rfl
  · rfl

/-- A frame that is not taken in order, and for which no replay is on its way. -/
theorem frameArrives_asks (hp : p < m.ports.length) (hs : m.portState p = 4) (hw : (m.port p).waitReplay = false)
    (h : frameReceive p f rx m = (fecCounted p rx m).rxError p) :
    AskedAgain m (frameArrives p f rx m) p ∧ (frameArrives p f rx m).mem = m.mem ∧ (frameArrives p f rx m).messages = m.messages := by
  have hw' : ((fecCounted p rx m).port p).waitReplay = false := by rw [fecCounted_port, hw]
  have hs' : (fecCounted p rx m).portState p = 4 := by rw [fecCounted_work.portState, hs]
  have hwork := rxError_work hw'
  have hup : (frameReceive p f rx m).portState p = 4 := by rw [h, hwork.portState, portState_updPort, hs']
  obtain ⟨hwaits, hexpects, hasks⟩ := rxError_asks (by rwa [fecCounted_work.count]) hs' hw'
  rw [frameArrives_live (by simp [hup]), h]
  rw [fecCounted_port] at hexpects hasks
  refine ⟨⟨hwaits, hexpects, hasks⟩, ?_, ?_⟩
  · rw [hwork.mem, Mach.updPort_mem, fecCounted_work.mem]
  · rw [hwork.messages, Mach.updPort_messages, fecCounted_work.messages]

/-- A frame taken in order by a port that is up. -/
theorem frameArrives_took (hs : m.portState p = 4) {t : Mach} (h : frameReceive p f soundRx m = t) (ht : LinkWork (tookFrame p f m) t) :
    frameArrives p f soundRx m = t := by
  rw [frameArrives_live, h]
  simp [h, ht.portState, tookFrame_portState, hs]

theorem through_work : LinkWork (tookFrame p f m) (((tookFrame p f m).forward p f).idleFrame p f.cls 1) := (LinkWork.refl _).forward.idleFrame

/-- A frame for another module, with a hop left and a route (R400, R401). -/
theorem through_leaving (hc : m.ports.length = 32) (hh : 1 ≤ f.hops) {q : Nat} (hr : m.routeTo f.dest = some q) :
    ∃ g, Leaving (((tookFrame p f m).forward p f).idleFrame p f.cls 1) q g ∧ SentAs { f with hops := f.hops - 1 } g := by
  obtain ⟨g, hg, hsent⟩ := forward_leaving (m := tookFrame p f m) (p := p) (f := f) (k := q) (by rw [tookFrame_count, hc]; exact (routeTo_live hr).1)
    (Nat.one_le_iff_ne_zero.mp hh) (by rw [tookFrame_routeTo, hr])
  obtain ⟨g', hg', hsent'⟩ := (LinkWork.refl _).idleFrame.leaving q g hg
  exact ⟨g', hg', hsent.trans hsent'⟩

theorem replayRequest_live {seq : Nat} (h : m.portState p = 4 ∨ m.portState p = 5) : replayRequest p seq m = m.replayFrom p seq := if_pos h

theorem replayRequest_ignored {seq : Nat} (h4 : m.portState p ≠ 4) (h5 : m.portState p ≠ 5) : replayRequest p seq m = m :=
  if_neg (not_or.mpr ⟨h4, h5⟩)

end

/-- Settles O42: a frame goes by the cases of its checks and its number, a lane and a port by theirs, and the timebase by its markers. -/
theorem linkLevelAndTimebase : Obligations.LinkLevelAndTimebase := by
  refine ⟨fun s p hsh => ?_, fun s => ?_⟩
  · obtain ⟨-, -, -, -, hc, -⟩ := (shaped_iff _).mp hsh
    have hp : p.val < s.ports.length := by omega
    intro x good askedAgain
    refine ⟨fun f rx hs hw hbad => ?_, fun f hs hw hl _ => ?_, fun f hs _ ht hn => ⟨fun hl => ?_, fun hw hl => ?_⟩, fun f hs _ h3 hcls hn hst _ => ?_,
      fun f q hs _ h1 hn hst hl hr hh => ?_, fun f hs _ h1 hn hst hl _ => ?_, fun seq => ⟨fun hs => ?_, fun h4 h5 => run_to (replayRequest_ignored h4 h5)⟩,
      fun lane => ⟨fun h ring => run_to (laneLoss_ignored h ring), fun hs hd ho => ?_, fun h => run_to (laneRealign_ignored h), fun t0 hd hr hs => ?_,
        fun t0 hd hs => ⟨fun h => run_to (laneDrop_waits hd h), fun hclk hl => ?_⟩⟩, fun h => run_to (portDownTimeout_ignored h), fun hd hs => ?_⟩
    · obtain ⟨⟨hwaits, hexpects, hasks⟩, hmem, hmsg⟩ := frameArrives_asks hp hs hw (frameReceive_damaged (f := f) hs hbad)
      exact ⟨_, rfl, ⟨hwaits, hexpects, hasks⟩, hmem, hmsg⟩
    · obtain ⟨⟨hwaits, hexpects, hasks⟩, -, hmsg⟩ := frameArrives_asks hp hs hw (frameReceive_cut (rx := { good with fcrcOk := false }) hs rfl rfl rfl hl)
      exact ⟨_, rfl, ⟨hwaits, hexpects, hasks⟩, hmsg⟩
    · have hq := frameReceive_late hs ht hn hl
      refine run_to ((frameArrives_live ?_).trans hq)
      rw [hq, fecCounted_work.portState, hs]
      decide
    · obtain ⟨⟨hwaits, hexpects, hasks⟩, -, hmsg⟩ := frameArrives_asks hp hs hw (frameReceive_ahead hs ht hn hw hl)
      exact ⟨_, rfl, ⟨hwaits, hexpects, hasks⟩, hmsg⟩
    · have hwork : LinkWork (tookFrame p f s.toMach) ((tookFrame p f s.toMach).idleFrame p 0 0) := (LinkWork.refl _).idleFrame
      obtain ⟨hexpects, hlast, hwaits, hheard, hmsg, hmem⟩ := hwork.movedOn hp
      exact ⟨_, run_to (frameArrives_took hs (frameReceive_control hs (by simp [h3]) hn hst h3 hcls) hwork), hexpects, hlast, hwaits, hheard, hmsg, hmem⟩
    · obtain ⟨hexpects, -, -, -, hmsg, hmem⟩ := (through_work (f := f)).movedOn hp
      obtain ⟨g, hg, hsent⟩ := through_leaving (p := p) hc hh hr
      exact ⟨_, g, run_to (frameArrives_took hs (frameReceive_through hs (by simp [h1]) hn hst hl h1) through_work), hexpects, hg, hsent.typ.trans h1,
        hsent.dest, hsent.src, hsent.hops, hsent.payload, hmsg, hmem⟩
    · obtain ⟨hexpects, -, -, -, hmsg, hmem⟩ := (through_work (f := f)).movedOn hp
      exact ⟨_, run_to (frameArrives_took hs (frameReceive_through hs (by simp [h1]) hn hst hl h1) through_work), hexpects, hmsg, hmem⟩
    · exact ⟨_, run_to (replayRequest_live hs), rfl, rfl, rfl⟩
    · have hwork : LinkWork (laneLost s.toMach p lane) ((laneLost s.toMach p lane).sendOn p ((laneLost s.toMach p lane).newFrame 2 0 0xFFF 0 0 false [])) :=
        (LinkWork.refl _).sendOn
      refine ⟨_, run_to (laneLoss_up hs hd ho), hwork.portState p |>.trans laneLost_portState, ?_, hwork.mem⟩
      exact (hwork.portField (g := PortSt.lanesDown) (fun _ => rfl) p).trans (laneLost_lanesDown hp)
    · obtain ⟨hstate, hlanes, hmem⟩ := laneRealign_last hp hs hd hr
      exact ⟨_, rfl, hstate, hlanes, hmem⟩
    · obtain ⟨hstate, hlanes, hmem⟩ := laneDrop_last hd hp hs hclk hl
      exact ⟨_, rfl, hstate, hlanes, hmem⟩
    · obtain ⟨hstate, hreported, hevent, hreplay⟩ := portDownTimeout_wentDown hp p.isLt hd hs
      exact ⟨_, rfl, hstate, hreported, hevent, hreplay⟩
  · intro b locked held
    refine ⟨fun e ok h => run_to (epochMarker_ignored h ok), fun e hm hh => ⟨fun l hl he hn => ?_, fun hn => ?_, fun h0 => ?_, fun h1 => ?_⟩, ?_,
      fun h => run_to (tbClkLoss_ignored h), fun hm hh => ?_, fun r => ⟨fun h => run_to (tbReferenceReturn_unlost h r), fun h => ?_⟩⟩
    · exact ⟨_, run_to (epochMarker_locks hm hh hl he hn), rfl, Mach.rdF_wrF_same _ _ _ 1 (by decide)⟩
    · exact ⟨_, run_to (epochMarker_noted hm hh hn), rfl, rfl⟩
    · exact ⟨_, run_to (epochMarker_first hm hh h0), rfl, rfl⟩
    · exact ⟨_, rfl, (epochMarker_second hm hh h1).all⟩
    · refine ⟨fun h => run_to (epochBoundary_between h), fun h _ => ⟨_, rfl, epochBoundary_timebase h, epochBoundary_csr h, fun c hc x hx => ?_⟩⟩
      refine (epochBoundary_ctx h hc hx).trans (congrArg some ?_)
      simp only [atBoundary, isPeriodic, decide_eq_true_eq, epochTicks]
      rfl
    · exact ⟨_, run_to (tbClkLoss_lost hm), (holdOver_heldOver hh).all⟩
    · rcases Nat.lt_or_ge (s.timebase.ticks.toNat + 156250) r with hr | hr
      · exact ⟨_, run_to (tbReferenceReturn_steps h hr), rfl, rfl, fun _ => ⟨rfl, rfl⟩, fun hle => absurd hle (Nat.not_le.mpr hr)⟩
      · exact ⟨_, run_to (tbReferenceReturn_slews h hr), rfl, rfl, fun hlt => absurd hr (Nat.not_le.mpr hlt), fun _ => ⟨rfl, rfl⟩⟩

end Sys2Proof.Laws
end

section
namespace Sys2Proof.Laws

open Sys2Proof.Machine

/-!
# A posting whose first tile is too large to read ahead (R436)

Saddle reads at most 256 KiB ahead of a posting's use. Nothing in the statement bounds the tile of a descriptor that a state holds, though a descriptor
read from its bytes has at most 128 rows and columns: where one tile alone is larger, a posting of layer 0xFFFF starts and reads nothing.
-/

/-! ### READY leaves the postings alone -/

theorem checkReady_saddle (m : Mach) (c : Nat) : (m.checkReady c).saddle = m.saddle := by
  refine each_field (g := Mach.saddle) (fun q base => ?_) m [0, 8192]
  split
  · next s _ =>
    split
    · obtain ⟨g, hg⟩ := toMaster_parts (q.updStep c base fun s => { s with readySent := true }) c (.ready (q.groupRank (q.groupOf c)) s.step s.attempt)
      rw [hg]
      exact Mach.updCtx_saddle ..
    · rfl
  · rfl

theorem checkAll_saddle (m : Mach) : m.checkAll.saddle = m.saddle := each_field (g := Mach.saddle) checkReady_saddle _ _

/-! ### Tiles and their bytes -/

theorem positions_length (rows cols : Nat) : (positions rows cols).length = rows * cols := by
  simp [positions, List.length_flatMap]

/-- A tile all of whose positions are in extent. -/
theorem inside_full {d : Desc} {o : List Int} (h : ∀ i < d.tileRows, ∀ j < d.tileCols, d.classOf (tileCoords o i j false) = .inExtent) :
    d.inside o = positions d.tileRows d.tileCols := by
  refine List.filter_eq_self.mpr fun q hq => ?_
  obtain ⟨i, hi, hq⟩ := List.mem_flatMap.mp hq
  obtain ⟨j, hj, rfl⟩ := List.mem_map.mp hq
  exact decide_eq_true (h i (List.mem_range.mp hi) j (List.mem_range.mp hj))

/-- A contribution that does not fit in the 256 KiB is not read (R436). -/
theorem readAhead_full {m : Mach} {k : InstKey} {po : Posted} {ch : Channel} {x : Ctx} {d : Desc} (hpo : m.postingOf k = some po)
    (hch : m.channel k.channel = some ch) (hd : (m.ctx po.ctx).bind (fun x => (x.desc po.hA).map (fun d => (x, d))) = some (x, d))
    (h : 262144 < po.held d + ((po.places d po.read).length * d.format.width + 7) / 8) (n : Nat) (e : Ecc) : m.readAhead n k e = m := by
  cases n with
  | zero => rfl
  | succ n =>
    unfold Mach.readAhead
    simp only [hpo, hch, hd]
    exact if_pos (.inr h)

/-! ### The state -/

/-- An FP32 matrix of one row and `n + 1` columns, whose tile is all of it. -/
def wideDesc (n : Nat) : Desc :=
  { layout := 0, rank := 2, valid := true, fmt := 0, base := 0, padWrite := false, index := false, gradAccum := false, gradient := false,
    activation := false, weight := false, pdom := 0, rsv55 := false, scaleAxis := 0, scaleBlock := 0, scaleBase := 0, rsv5to2 := 0, oor := 0,
    ext := [n + 1, 1, 1, 1, 1, 1], stride := [1, n + 1, 0, 0, 0, 0], rows := 0, cols := n, padHi1 := 0, padLo1 := 0, padHi0 := 0, padLo0 := 0,
    padValue := 0 }

/-- LINK.REDUCE of layer 0xFFFF on channel 0, from handle 0 to handle 0. -/
def wideReduce : Ewx :=
  { op := 0x71, station := 7, incA := false, incB := false, sr := false, rsv112 := false, rep := 1, hA := 0, hB := 0, hD := 0, axa := 0, axb := 0,
    mod := 0xFFFF0000 }

def wideOrigin : AxSnap := { c := [0, 0, 0, 0, 0, 0], inc := [0, 0, 0, 0, 0, 0] }

def widePlaced : Placed := { seq := 0, idx := 0, ins := wideReduce, a := wideOrigin, b := wideOrigin, pass := 0, begun := 0, done := 0 }

def wideStream : Machine.Stream :=
  { id := 0, ctx := 0, imageNo := 0, image := { cls := 0, cSlot := 0, cGuard := 0, code := [wideReduce] }, mask := 1, lockstep := false,
    starter := .entry 0, prio := 0, admitted := true, waitSince := 0, grant := 0, boost := 0, fL := 0, startAt := none, slot := 0, progress := 0 }

def wideChannel : Channel :=
  { number := 0, kind := 3, cls := 1, port := 0, peer := 0, slots := 0, ctx := 0, land := 0,
    reduce := { algo := 0, wireBlock := false, members := 1, index := 0, up := 0, fanin := 0, mport := 0 } }

def wideCtx (n : Nat) : Ctx := { Ctx.fresh 0 16 0 1 with descs := [(0, wideDesc n)] }

/-- Range 0 of context 0 runs a stream with that reduction at the head of the link interface. -/
def wideState (n : Nat) : State :=
  { State.reset with
    ctxs := State.reset.ctxs.set 0 (some (wideCtx n)),
    ranges := State.reset.ranges.set 0 { RangeSt.reset with stream := some 0, link := [widePlaced] },
    streams := [wideStream],
    plan := some { id := 0, faddr := 0, rank := 0, size := 1, compat := 0, balance := false, group := 0, ports := [], routes := [], circuits := [],
                   channels := [wideChannel] } }

/-- The posting of the reduction, as it starts. -/
def widePosted : Posted :=
  { range := 0, ctx := 0, key := { channel := 0, layer := 0xFFFF, rank := 0, occur := 0 }, step := 0, attempt := 0, seq := 0, idx := 0, hA := 0, hD := 0,
    c := wideOrigin.c, inc := wideOrigin.inc, rep := 1, wire := 0, norm := false, read := 0, buf := [], stored := [] }

/-- The module once the reduction has been posted. -/
def widePosting (n : Nat) : Mach :=
  { (wideState n).toMach.setRange 0 (((wideState n).range 0).updPlaced 7 0 (fun q => { q with begun := q.ins.rep })) with
    saddle := { posted := [widePosted], partials := [], occur := [(0, 0, 0xFFFF, 0)] } }

section

variable {n : Nat}

theorem wideState_shaped : (wideState n).shaped = true := rfl

theorem wideState_stream : (wideState n).streamOn 0 = some wideStream := rfl

theorem wideState_armed : (wideState n).armed 0 = none := by
  have hreset : Mach.reset.armed 0 = none := by decide
  exact hreset

theorem wideState_unheld : (wideState n).repHeld 0 widePlaced 0 = false := by simp only [Mach.repHeld, Mach.mark, wideState_armed]

theorem wideState_ready : (wideState n).ready 0 7 wideStream widePlaced :=
  ready_iff.mpr ⟨wideState_stream, rfl, rfl, rfl, rfl, rfl, rfl, Nat.one_pos, wideState_unheld, rfl⟩

/-- Every position of the tile is in extent. -/
theorem wideDesc_inExtent (i : Nat) (hi : i < (wideDesc n).tileRows) (j : Nat) (hj : j < (wideDesc n).tileCols) :
    (wideDesc n).classOf (tileCoords (wideOrigin.at 0) i j false) = .inExtent := by
  have hrow : i = 0 := Nat.lt_one_iff.mp hi
  have hcol : j < n + 1 := hj
  have hcoords : tileCoords (wideOrigin.at 0) i j false = [(j : Int), 0, 0, 0, 0, 0] := by simp [tileCoords, AxSnap.at, wideOrigin, List.range_succ, hrow]
  rw [hcoords]
  exact if_pos ⟨Int.natCast_nonneg j, Int.ofNat_lt.mpr hcol, Int.le_refl 0, Int.one_pos⟩

theorem wideDesc_inside : ((wideDesc n).inside (wideOrigin.at 0)).length = n + 1 := by
  rw [inside_full wideDesc_inExtent, positions_length]
  exact Nat.one_mul (n + 1)

theorem wideDesc_coords {k : Nat} (hk : k < widePlaced.ins.rep) :
    (wideDesc n).coordOut (widePlaced.a.at k) = false ∧ (wideDesc n).inside (widePlaced.a.at k) ≠ [] := by
  have hzero : k = 0 := Nat.lt_one_iff.mp hk
  subst hzero
  exact ⟨rfl, List.ne_nil_of_length_eq_add_one wideDesc_inside⟩

section

variable (hn : 65536 ≤ n)

include hn

theorem widePosting_reads_nothing (fuel : Nat) : (widePosting n).readAhead fuel widePosted.key Ecc.clean = widePosting n := by
  refine readAhead_full (po := widePosted) (ch := wideChannel) (x := wideCtx n) (d := wideDesc n) rfl rfl rfl ?_ fuel Ecc.clean
  have hplaces : widePosted.places (wideDesc n) widePosted.read = (wideDesc n).inside (wideOrigin.at 0) := List.filter_eq_self.mpr fun _ _ => rfl
  have hwidth : (wideDesc n).format.width = 32 := rfl
  rw [hplaces, wideDesc_inside, hwidth]
  omega

theorem postingStart_wide : postingStart 0 0 Ecc.clean (wideState n).toMach = widePosting n := by
  have hq : postingStart 0 0 Ecc.clean (wideState n).toMach = (widePosting n).readAhead 2 widePosted.key Ecc.clean := by
    have hlink : ((wideState n).range 0).link[0]? = some widePlaced := rfl
    have hguard : ¬ (0 ≠ 0 ∨ widePlaced.ins.sop ≠ some .lreduce ∨ ((wideState n).range 0).halted = true ∨
        ((wideState n).saddle.posted.any fun q => decide (q.range = 0) && decide (q.seq = widePlaced.seq)) = true ∨
        (wideState n).repHeld 0 widePlaced widePlaced.begun = true ∨ (wideStream.lockstep = true ∧ widePlaced.begun = 0)) := by
      rintro (h | h | h | h | h | ⟨h, -⟩)
      · exact h rfl
      · exact h rfl
      · exact Bool.false_ne_true h
      · exact Bool.false_ne_true h
      · exact Bool.false_ne_true (wideState_unheld.symm.trans h)
      · exact Bool.false_ne_true h
    simp only [postingStart, wideState_stream, hlink]
    rw [if_neg hguard]
    rfl
  rw [hq, widePosting_reads_nothing hn]

theorem exec_postingStart_wide : exec (.postingStart 0 0 Ecc.clean) (wideState n) = .next ((wideState n).on (widePosting n).checkAll) :=
  run_to (f := fun m => (postingStart 0 0 Ecc.clean m).checkAll) (congrArg Mach.checkAll (postingStart_wide hn))

/-- The statement says that the posting has read a contribution; it has read none. -/
theorem linksAndReductions_absurd (h : Obligations.LinksAndReductions) : False := by
  obtain ⟨-, -, hreduce⟩ := h.1 (wideState n) 0 wideStream widePlaced (wideCtx n) wideChannel wideState_shaped rfl wideState_ready rfl
  obtain ⟨t, po, hrun, hpo, -, -, -, -, -, -, hread, -⟩ :=
    (hreduce rfl rfl).2 (wideDesc n) rfl rfl rfl rfl rfl rfl (Nat.le_refl 1) fun _ hk => wideDesc_coords hk
  have ht : t = (wideState n).on (widePosting n).checkAll := (Host.Outcome.next.inj (hrun.symm.trans (exec_postingStart_wide hn)))
  have hposted : t.saddle.posted = [widePosted] := by
    rw [ht, State.on, checkAll_saddle]
    rfl
  rw [hposted, List.mem_singleton] at hpo
  subst hpo
  exact absurd hread (Nat.lt_irrefl 0)

end

end

/-- Refutes O40: a posting of layer 0xFFFF whose first tile has 65,537 FP32 elements starts, but Saddle reads none of its contributions: they are 4 bytes
more than the 256 KiB that it reads ahead (R436). -/
theorem not_linksAndReductions : ¬ Obligations.LinksAndReductions := linksAndReductions_absurd (Nat.le_refl 65536)

end Sys2Proof.Laws
end

section
namespace Sys2Proof.Laws

open Sys2Proof.Machine

/-!
# How group messages travel (R451, R470)

What a module does with a group message that it has relayed forgets nothing: `GroupGrows m q` says that every flood noted as seen in `m`, and every
message that `m` has sent on a port, stands in `q` too. Each part of a member's work at a flooded message has this property; so what the relay
leaves is still there once the member has acted.
-/

structure GroupGrows (m q : Mach) : Prop where
  seen : m.group.seen ⊆ q.group.seen
  sent : m.group.sent ⊆ q.group.sent

section

variable {m q : Mach}

theorem GroupGrows.refl (m : Mach) : GroupGrows m m := ⟨List.Subset.refl _, List.Subset.refl _⟩

theorem GroupGrows.trans {r : Mach} (h : GroupGrows m q) (j : GroupGrows q r) : GroupGrows m r := ⟨List.Subset.trans h.seen j.seen, List.Subset.trans h.sent j.sent⟩

/-- What has the same group protocol. -/
theorem GroupGrows.same {r : Mach} (h : GroupGrows m q) (group : r.group = q.group) : GroupGrows m r := ⟨group ▸ h.seen, group ▸ h.sent⟩

/-- An update of other parts than the group protocol. -/
theorem GroupGrows.upd {clk draws csr faultN modResetLow swite mem ctxs ranges streams nextStream copies tarn treeline cairn optics plan ports
      channels messages sent timebase saddle belay survey arms} (h : GroupGrows m q) :
    GroupGrows m { group := q.group, clk, draws, csr, faultN, modResetLow, swite, mem, ctxs, ranges, streams, nextStream, copies, tarn, treeline,
                   cairn, optics, plan, ports, channels, messages, sent, timebase, saddle, belay, survey, arms } :=
  h.same rfl

theorem GroupGrows.wr {a : Nat} {v : Word} (h : GroupGrows m q) : GroupGrows m (q.wr a v) := h.upd

theorem GroupGrows.wrF {a v : Nat} {f : Fld} (h : GroupGrows m q) : GroupGrows m (q.wrF a f v) := h.wr

theorem GroupGrows.addF {a d : Nat} {f : Fld} (h : GroupGrows m q) : GroupGrows m (q.addF a f d) := h.wrF

theorem GroupGrows.trouble {b : Nat} (h : GroupGrows m q) : GroupGrows m (q.trouble b) := h.wr

theorem GroupGrows.tally {u i : Nat} (h : GroupGrows m q) : GroupGrows m (q.tally u i) := h.upd

theorem GroupGrows.ite {a b : Mach} {c : Prop} [Decidable c] (ha : GroupGrows m a) (hb : GroupGrows m b) : GroupGrows m (if c then a else b) := by
  split
  · exact ha
  · exact hb

theorem GroupGrows.foldl {α : Type} {f : Mach → α → Mach} {l : List α} (h : GroupGrows m q) (hf : ∀ r x, GroupGrows m r → GroupGrows m (f r x)) :
    GroupGrows m (l.foldl f q) :=
  foldl_keeps (GroupGrows m) f hf l q h

theorem GroupGrows.each {f : Mach → Nat → Mach} {l : List Nat} (h : GroupGrows m q) (hf : ∀ r k, GroupGrows m r → GroupGrows m (f r k)) :
    GroupGrows m (q.each l f) :=
  h.foldl hf

theorem GroupGrows.updCtx {c : Nat} {f : Ctx → Ctx} (h : GroupGrows m q) : GroupGrows m (q.updCtx c f) := h.same (Mach.updCtx_group ..)

theorem GroupGrows.finish {lane : Lane} {ctx tag op status detail : Nat} {data : List Byte} (h : GroupGrows m q) :
    GroupGrows m (q.finish lane ctx tag op status detail data) :=
  h.same (Mach.send_group ..)

/-! ### Messages on ports -/

theorem GroupGrows.sendGroup {p : Nat} {x : GMsg} (h : GroupGrows m q) : GroupGrows m (q.sendGroup p x) :=
  .ite (h.trans ⟨List.Subset.refl _, List.subset_append_left _ _⟩) h

theorem GroupGrows.toMaster {c : Nat} {b : GBody} (h : GroupGrows m q) : GroupGrows m (q.toMaster c b) := by
  refine .ite (h.trans ⟨List.Subset.refl _, List.Subset.refl _⟩) ?_
  unfold Mach.towardMaster
  split
  · exact h.sendGroup
  · exact h

theorem GroupGrows.sendJoin {c base k : Nat} (h : GroupGrows m q) : GroupGrows m (q.sendJoin c base k) := .ite h h.toMaster

/-- A message handed to one port after another is sent on each of them whose state carries class 0 (R417). -/
theorem mem_sent_of_each {x : GMsg} {l : List Nat} {p : Nat} (hp : p ∈ l) (hs : m.portState p = 3 ∨ m.portState p = 4) :
    { port := p, msg := x } ∈ (m.each l fun m p => m.sendGroup p x).group.sent := by
  induction l generalizing m with
  | nil => cases hp
  | cons k t ih =>
    rcases List.mem_cons.mp hp with rfl | ht
    · refine (GroupGrows.each (.refl (m.sendGroup p x)) fun _ _ hr => hr.sendGroup).sent ?_
      rw [Mach.sendGroup, if_pos hs]
      exact List.mem_append_right _ (List.mem_singleton_self _)
    · refine ih ht (m := m.sendGroup k x) ?_
      unfold Mach.sendGroup
      split
      · exact hs
      · exact hs

/-- A relay notes the message as seen. -/
theorem mem_seen_relay (m : Mach) (except : Option Nat) (x : GMsg) : (x.group, x.body.key) ∈ (m.relay except x).group.seen :=
  (GroupGrows.each (.refl _) fun _ _ hr => hr.sendGroup).seen List.mem_cons_self

/-- A relay sends on every port of the tree but the one that the message came on (R451). -/
theorem mem_sent_relay {except : Option Nat} {x : GMsg} {p : Nat} (hp : p < 32) (hne : except ≠ some p) (hs : m.portState p = 3 ∨ m.portState p = 4)
    (hrole : (m.portEntry p).role = 1 ∨ (m.portEntry p).role = 2) : { port := p, msg := x } ∈ (m.relay except x).group.sent := by
  refine mem_sent_of_each (List.mem_filter.mpr ⟨List.mem_range.mpr hp, ?_⟩) hs
  rw [Bool.and_eq_true, Bool.or_eq_true, decide_eq_true_eq, decide_eq_true_eq, decide_eq_true_eq]
  exact ⟨hrole, hne⟩

/-! ### Streams that stop -/

theorem GroupGrows.recordStop {n status cause instr rep station cond slot : Nat} (h : GroupGrows m q) :
    GroupGrows m (q.recordStop n status cause instr rep station cond slot) :=
  h.wrF.wrF.wrF.wrF.wrF.wrF.wr

theorem GroupGrows.undefinedNorm {n : Nat} (h : GroupGrows m q) : GroupGrows m (q.undefinedNorm n) := .ite h.wr.wr.upd h

theorem GroupGrows.releaseIslands {n : Nat} (h : GroupGrows m q) : GroupGrows m (q.releaseIslands n) :=
  .ite h (h.each fun _ _ hr => hr.upd).wrF

theorem GroupGrows.stopRange {s : Machine.Stream} {own : List StopAt} {n : Nat} (h : GroupGrows m q) : GroupGrows m (q.stopRange s own n) := by
  unfold Mach.stopRange
  extract_lets _ _ q₁ q₂ q₃ q₄ q₅ q₆
  have h₁ : GroupGrows m q₁ := by
    unfold q₁
    split
    · exact h.recordStop
    · split
      · exact h.recordStop
      · exact h.recordStop
  have h₂ : GroupGrows m q₂ := h₁.wr.wrF
  have h₃ : GroupGrows m q₃ := h₂.undefinedNorm
  have h₄ : GroupGrows m q₄ := h₃.upd
  have h₅ : GroupGrows m q₅ := h₄.upd
  have h₆ : GroupGrows m q₆ := h₅.wrF
  exact h₆.wrF.releaseIslands

theorem GroupGrows.tellStarter {s : Machine.Stream} {status first : Nat} (h : GroupGrows m q) : GroupGrows m (q.tellStarter s status first) := by
  unfold Mach.tellStarter
  split
  · exact h.finish
  · exact h.updCtx

theorem GroupGrows.endArms {mask status : Nat} (h : GroupGrows m q) : GroupGrows m (q.endArms mask status) :=
  h.upd.foldl fun _ _ hr => (hr.each fun _ _ ht => ht.wrF).finish

theorem GroupGrows.stopStream {id status : Nat} {own : List StopAt} (h : GroupGrows m q) : GroupGrows m (q.stopStream id status own) := by
  unfold Mach.stopStream
  split
  · exact h
  · extract_lets q₁ q₂ q₃ _ q₄ _ q₅
    have h₁ : GroupGrows m q₁ := .ite (h.each fun _ _ hr => hr.stopRange) h
    have h₂ : GroupGrows m q₂ := h₁.foldl fun _ _ hr => .ite hr.tally hr
    have h₃ : GroupGrows m q₃ := by
      unfold q₃
      refine .ite ?_ h₂
      split
      · exact h₂.tally
      · exact h₂
    have h₄ : GroupGrows m q₄ := h₃.upd
    have h₅ : GroupGrows m q₅ := .ite (GroupGrows.upd h₄).endArms h₄
    exact h₅.tellStarter.trouble.wrF.wrF.wrF.each fun _ _ hr => hr.wrF

theorem GroupGrows.stopStreams {p : Machine.Stream → Bool} {status cause : Nat} (h : GroupGrows m q) : GroupGrows m (q.stopStreams p status cause) := by
  refine h.foldl fun r s hr => ?_
  unfold Mach.stopAll
  split
  · exact hr
  · exact hr.stopStream

/-! ### START, COMMIT, ABORT and CLOSE at a member -/

theorem GroupGrows.setStepState {c v : Nat} (h : GroupGrows m q) : GroupGrows m (q.setStepState c v) := h.wrF

theorem GroupGrows.updStep {c base : Nat} {f : StepSt → StepSt} (h : GroupGrows m q) : GroupGrows m (q.updStep c base f) := h.updCtx

theorem GroupGrows.takeStart {g k attempt t0 td limit : Nat} (h : GroupGrows m q) : GroupGrows m (q.takeStart g k attempt t0 td limit) := by
  unfold Mach.takeStart
  split
  · exact .ite h (GroupGrows.ite h.updStep.wrF h.updStep).wr.upd
  · exact h

theorem GroupGrows.showTarn {s state ctx record : Nat} (h : GroupGrows m q) : GroupGrows m (q.showTarn s state ctx record) := h.wrF.wrF.wrF

theorem GroupGrows.startTarn {x : Ctx} {c f s : Nat} (h : GroupGrows m q) : GroupGrows m (q.startTarn x c f s) := by
  unfold Mach.startTarn
  split
  · exact h
  · exact GroupGrows.showTarn h.upd

theorem GroupGrows.takeCommit {g k attempt norm : Nat} (h : GroupGrows m q) : GroupGrows m (q.takeCommit g k attempt norm) := by
  unfold Mach.takeCommit
  split
  · exact h
  · split
    · exact h
    · exact .ite h (.ite h.setStepState.wr.wr.updStep (h.setStepState.wr.wr.updCtx.each fun _ _ hr => hr.startTarn))

theorem GroupGrows.stopAttempt {c base : Nat} {s : StepSt} (h : GroupGrows m q) : GroupGrows m (q.stopAttempt c base s) :=
  (GroupGrows.upd (GroupGrows.upd h.stopStreams)).each fun _ _ hr => .ite hr ((GroupGrows.wrF hr.upd).foldl fun _ _ ht => ht.upd)

theorem GroupGrows.countAbort {c reason : Nat} (h : GroupGrows m q) : GroupGrows m (q.countAbort c reason) :=
  h.addF.trouble.tally.same (Mach.event_group ..)

theorem GroupGrows.endStep {c status : Nat} {s : StepSt} (h : GroupGrows m q) : GroupGrows m (q.endStep c s status) := h.finish

theorem GroupGrows.endLimit {c : Nat} (h : GroupGrows m q) : GroupGrows m (q.endLimit c) := by
  unfold Mach.endLimit
  split
  · exact h
  · extract_lets q₁ q₂
    have h₁ : GroupGrows m q₁ := by
      unfold q₁
      split
      · exact h.endStep
      · exact h
    have h₂ : GroupGrows m q₂ := by
      unfold q₂
      split
      · exact h₁.endStep
      · exact h₁
    exact h₂.updCtx.setStepState

theorem GroupGrows.abortStep {c k reason : Nat} (h : GroupGrows m q) : GroupGrows m (q.abortStep c k reason) := by
  unfold Mach.abortStep
  refine .ite h ?_
  split
  · extract_lets +onlyGivenNames _ q₁ q₂
    have h₁ : GroupGrows m q₁ := h.stopAttempt
    have h₂ : GroupGrows m q₂ := .ite h₁.countAbort h₁
    refine .ite ?_ (.ite h₂.updStep (.ite (.ite h₂.endLimit h₂.endStep.updCtx) h₂.updStep.sendJoin))
    extract_lets q₃ q₄ q₅
    have h₃ : GroupGrows m q₃ := by
      unfold q₃
      split
      · exact h₂.stopAttempt.updStep
      · exact h₂
    have h₄ : GroupGrows m q₄ := h₃.updStep
    have h₅ : GroupGrows m q₅ := h₄.each fun _ _ hr => .ite hr.showTarn hr
    exact h₅.setStepState
  · exact h

theorem GroupGrows.takeAbort {g k reason : Nat} (h : GroupGrows m q) : GroupGrows m (q.takeAbort g k reason) := by
  unfold Mach.takeAbort
  split
  · exact h
  · exact (GroupGrows.ite h h.wr).abortStep

theorem GroupGrows.promote {c : Nat} (h : GroupGrows m q) : GroupGrows m (q.promote c) := by
  unfold Mach.promote
  split
  · exact h.updCtx.setStepState
  · exact (GroupGrows.setStepState (GroupGrows.upd h.updCtx.upd)).wrF.wrF

theorem GroupGrows.takeClose {g k : Nat} (h : GroupGrows m q) : GroupGrows m (q.takeClose g k) := by
  unfold Mach.takeClose
  split
  · exact h
  · split
    · exact h
    · exact .ite h h.wrF.wr.updCtx.endStep.promote

/-! ### MIRROR and ROUND_END at a member (R470, R471) -/

theorem GroupGrows.sendHeldJoins {c : Nat} (h : GroupGrows m q) : GroupGrows m (q.sendHeldJoins c) := by
  unfold Mach.sendHeldJoins
  extract_lets q₁
  have h₁ : GroupGrows m q₁ := by
    unfold q₁
    split
    · exact .ite h.sendJoin h
    · exact h
  split
  · exact .ite h₁.sendJoin h₁
  · exact h₁

theorem GroupGrows.showDirty {s : Nat} (h : GroupGrows m q) : GroupGrows m (q.showDirty s) := h.wrF.wrF

theorem GroupGrows.captureAll (h : GroupGrows m q) : GroupGrows m q.captureAll := h.each fun _ _ hr => GroupGrows.showDirty hr.upd

theorem GroupGrows.releaseAll (h : GroupGrows m q) : GroupGrows m q.releaseAll := h.each fun _ _ hr => GroupGrows.showDirty hr.upd

theorem GroupGrows.endFreeze {code : Nat} (h : GroupGrows m q) : GroupGrows m (q.endFreeze code) := by
  unfold Mach.endFreeze
  split
  · extract_lets _ q₁ q₂ q₃ q₄
    have h₁ : GroupGrows m q₁ := h.upd
    have h₂ : GroupGrows m q₂ := h₁.wrF.wrF
    have h₃ : GroupGrows m q₃ := h₂.wr
    have h₄ : GroupGrows m q₄ := .ite h₃.addF.releaseAll h₃.addF.trouble.tally
    exact h₄.toMaster.sendHeldJoins
  · exact h

theorem GroupGrows.checkWords {src range : Nat} {e : Ecc} {words : List Nat} (h : GroupGrows m q) : GroupGrows m (q.checkWords src range e words) :=
  h.same ((checkWords_counted q src range e words).toMemoryWork.field (f := Mach.group) fun _ _ _ _ _ => rfl)

theorem GroupGrows.belaySend {b : BelayMsg} (h : GroupGrows m q) : GroupGrows m (q.belaySend b) := h.upd

theorem GroupGrows.sendMirror {x : Ctx} {p : BelayPlan} {round step : Nat} {e : Ecc} (h : GroupGrows m q) :
    GroupGrows m (q.sendMirror x p round step e) :=
  GroupGrows.upd ((h.checkWords.foldl fun _ _ hr => hr.wr).upd.wr.belaySend.foldl fun _ _ hr => hr.belaySend)

theorem GroupGrows.takeMirror {g round k l : Nat} {e : Ecc} (h : GroupGrows m q) : GroupGrows m (q.takeMirror g round k l e) := by
  unfold Mach.takeMirror
  split
  · exact h
  · refine .ite h ?_
    extract_lets +onlyGivenNames q₁ _ q₂
    have h₁ : GroupGrows m q₁ := h.wr
    have h₂ : GroupGrows m q₂ := h₁.upd
    split
    · exact h₂.toMaster
    · exact .ite h₂.upd.wrF.captureAll.endFreeze h₂.upd.wrF.captureAll.sendMirror

theorem GroupGrows.startCatchUp {l : Nat} (h : GroupGrows m q) : GroupGrows m (q.startCatchUp l) := by
  unfold Mach.startCatchUp
  split
  · exact .ite h (((GroupGrows.upd (GroupGrows.upd h)).each fun _ _ hr => hr.wrF.wrF.wr).wrF.wrF)
  · exact h

theorem GroupGrows.takeRoundEnd {g round l : Nat} {complete : Bool} (h : GroupGrows m q) : GroupGrows m (q.takeRoundEnd g round complete l) :=
  .ite h.wr.startCatchUp (h.wr.startCatchUp.upd.foldl fun _ _ hr => hr.finish)

end

/-! ### A message that arrives -/

section

variable {m : Mach} {g : Nat} {b : GBody} {act : Mach → Mach}

/-- A message that this module has not sent itself has no effect. -/
theorem gotMsg_own_absent (h : ({ group := g, body := b } : GMsg) ∉ m.group.loop) : m.gotMsg none g b act = m :=
  if_neg fun hc => h (List.contains_iff_mem.mp hc)

/-- The condition under which a port takes a group message (R451, R417). -/
structure TakenFrom (m : Mach) (p : Fin 32) (g : Nat) : Prop where
  carries : m.portState p = 3 ∨ m.portState p = 4
  plan : ∃ a, m.plan = some a ∧ a.group = g

theorem takenFrom_iff {p : Fin 32} :
    TakenFrom m p g ↔ ¬ ((m.portState p ≠ 3 ∧ m.portState p ≠ 4) ∨ m.plan.elim true (fun q => decide (q.group ≠ g)) = true) := by
  constructor
  · rintro ⟨hc, a, ha, hg⟩
    simp only [ha, hg, Option.elim_some]
    grind
  · intro h
    refine ⟨by omega, ?_⟩
    cases hp : m.plan with
    | none => simp [hp] at h
    | some a => exact ⟨a, rfl, by simpa [hp] using (not_or.mp h).2⟩

theorem gotMsg_refused {p : Fin 32} (h : ¬ TakenFrom m p g) : m.gotMsg (some p) g b act = m :=
  if_pos (not_not.mp (takenFrom_iff.not.mp h))

section

variable {p : Fin 32} (h : TakenFrom m p g)

include h

theorem gotMsg_seen (hf : b.flooded = true) (hs : (g, b.key) ∈ m.group.seen) : m.gotMsg (some p) g b act = m :=
  (if_neg (takenFrom_iff.mp h)).trans ((if_pos hf).trans (if_pos (List.contains_iff_mem.mpr hs)))

theorem gotMsg_flooded (hf : b.flooded = true) (hs : (g, b.key) ∉ m.group.seen) :
    m.gotMsg (some p) g b act = act (m.relay (some p.val) { group := g, body := b }) :=
  (if_neg (takenFrom_iff.mp h)).trans ((if_pos hf).trans (if_neg fun hc => hs (List.contains_iff_mem.mp hc)))

/-- A message to the master goes on by the port toward it. -/
theorem gotMsg_passed_on (hf : b.flooded = false) (hm : m.isMaster g = false) {q : Nat} (hq : m.parentPort = some q)
    (hs : m.portState q = 3 ∨ m.portState q = 4) : m.gotMsg (some p) g b act =
      { m with group := { m.group with sent := m.group.sent ++ [{ port := q, msg := { group := g, body := b } }] } } := by
  have hpass : m.gotMsg (some p) g b act = m.towardMaster { group := g, body := b } :=
    (if_neg (takenFrom_iff.mp h)).trans ((if_neg (ne_true_of_eq_false hf)).trans (if_neg (ne_true_of_eq_false hm)))
  rw [hpass, Mach.towardMaster, hq]
  exact if_pos hs

end

end

/-- Every group message goes through `gotMsg`; a flooded one is then acted on by work that forgets no message. -/
theorem exec_groupMsg {i : Instr} {port : Option (Fin 32)} {g : Nat} {b : GBody} (h : groupMsg i = some (port, g, b)) :
    ∃ act : Mach → Mach, (∀ s, exec i s = s.run fun m => m.gotMsg port g b act) ∧ (b.flooded = true → ∀ m, GroupGrows m (act m)) := by
  unfold groupMsg at h
  split at h <;> cases h
  · exact ⟨_, fun _ => rfl, nofun⟩
  · exact ⟨_, fun _ => rfl, fun _ m => (GroupGrows.refl m).takeStart⟩
  · exact ⟨_, fun _ => rfl, nofun⟩
  · exact ⟨_, fun _ => rfl, nofun⟩
  · exact ⟨_, fun _ => rfl, fun _ m => (GroupGrows.refl m).takeCommit⟩
  · exact ⟨_, fun _ => rfl, fun _ m => (GroupGrows.refl m).takeAbort⟩
  · exact ⟨_, fun _ => rfl, nofun⟩
  · exact ⟨_, fun _ => rfl, fun _ m => (GroupGrows.refl m).takeClose⟩
  · exact ⟨_, fun _ => rfl, fun _ m => (GroupGrows.refl m).takeMirror⟩
  · exact ⟨_, fun _ => rfl, nofun⟩
  · exact ⟨_, fun _ => rfl, fun _ m => (GroupGrows.refl m).takeRoundEnd⟩

/-- Settles O46: a message is taken or not by its port, its plan and what has been seen; what the relay notes and sends stays once the member has acted. -/
theorem groupMessagesTravel : Obligations.GroupMessagesTravel := by
  intro i s port g b hmsg x carries
  obtain ⟨act, hrun, hgrows⟩ := exec_groupMsg hmsg
  rw [hrun s]
  refine ⟨fun hport hno => ?_, fun p hport => ⟨fun hno => ?_, fun a hc ha hg => ?_⟩⟩ <;> subst hport
  · exact run_to (gotMsg_own_absent hno)
  · refine run_to (gotMsg_refused fun htaken => ?_)
    obtain ⟨hc, a, ha, hg⟩ := htaken
    rcases hno with hno | hno | ⟨a', ha', hg'⟩
    · exact hno hc
    · cases ha.symm.trans hno
    · exact hg' (Option.some.inj (ha'.symm.trans ha) ▸ hg)
  · have htaken : TakenFrom s.toMach p g := ⟨hc, a, ha, hg⟩
    refine ⟨fun hf hs => run_to (gotMsg_seen htaken hf hs), fun hf hs => ?_, fun hf hm q hq hcq => ⟨_, run_to (gotMsg_passed_on htaken hf hm hq hcq), rfl⟩⟩
    have hkept : GroupGrows (s.relay (some p.val) x) (act (s.relay (some p.val) x)) := hgrows hf _
    exact ⟨_, run_to (gotMsg_flooded htaken hf hs), hkept.seen (mem_seen_relay s.toMach (some p.val) x), fun q hq hne hcq hrole =>
      hkept.sent (mem_sent_relay hq (fun e => hne (Option.some.inj e).symm) hcq hrole)⟩

end Sys2Proof.Laws
end


section
namespace Sys2Proof.Laws

open Sys2Proof.Machine

/-!
# Belay's registers, trackers and messages

What the operations shared by Belay's rules leave alone: showing the slots changes registers, capturing and releasing the trackers the stacks and
DIRTY_STATUS, landing bytes memory and what reports on it, and the end of a freeze sends messages of the group.
-/

/-! ### The slots shown (R484, R486) -/

section

variable {m q : Mach}

theorem showSlots_regs (m : Mach) : RegsOnly m m.showSlots := ((RegsOnly.refl m).each (fun _ _ hr => hr.wrF.wrF.wr) _).wrF.wrF

/-- A register that no turn of a loop writes. -/
theorem rd_each {a : Nat} {f : Mach → Nat → Mach} : ∀ {l : List Nat} {m : Mach}, (∀ q, ∀ k ∈ l, (f q k).rd a = q.rd a) →
    (m.each l f).rd a = m.rd a := by
  intro l
  induction l with
  | nil => exact fun _ => rfl
  | cons k t ih =>
    intro m h
    exact (ih fun q j hj => h q j (List.mem_cons_of_mem k hj)).trans (h m k List.mem_cons_self)

/-- Beside two flags of BELAY_STATUS, showing the slots writes the registers of the slots. -/
theorem rd_slots {a : Nat} (ha : a < 0x06000020 ∨ 0x06000030 ≤ a) (w : Nat → Bool) : (m.each [0, 1] (fun m x =>
    ((m.wrF (Reg.BELAY_SLOT x) Fld.BELAY_SLOT_VALID (b2n (m.slotSt x).valid)).wrF (Reg.BELAY_SLOT x) Fld.BELAY_SLOT_WRITING (b2n (w x))).wr
      (Reg.BELAY_SLOT_STEP x) (BitVec.ofNat 32 (m.slotSt x).step))).rd a = m.rd a := by
  refine rd_each fun q x hx => ?_
  have hx : x < 2 := by
    simp only [List.mem_cons, List.not_mem_nil, or_false] at hx
    omega
  have hslot : a ≠ Reg.BELAY_SLOT x := by
    unfold Reg.BELAY_SLOT
    omega
  have hstep : a ≠ Reg.BELAY_SLOT_STEP x := by
    unfold Reg.BELAY_SLOT_STEP
    omega
  rw [Mach.rd_wr_other _ _ _ _ hstep, Mach.rd_wrF_other _ _ _ _ _ hslot, Mach.rd_wrF_other _ _ _ _ _ hslot]

theorem rd_showSlots {a : Nat} (hs : a ≠ Reg.BELAY_STATUS) (ha : a < 0x06000020 ∨ 0x06000030 ≤ a) : m.showSlots.rd a = m.rd a := by
  rw [Mach.showSlots, Mach.rd_wrF_other _ _ _ _ _ hs, Mach.rd_wrF_other _ _ _ _ _ hs, rd_slots ha]

/-- The state's field of BELAY_STATUS lies apart from the two that show the slots. -/
theorem showSlots_state (m : Mach) : m.showSlots.rdF Reg.BELAY_STATUS Fld.BELAY_STATUS_STATE = m.rdF Reg.BELAY_STATUS Fld.BELAY_STATUS_STATE := by
  rw [Mach.showSlots, Mach.rdF_wrF_other _ _ _ _ _ _ (by decide) (by decide) (.inr (by decide)),
    Mach.rdF_wrF_other _ _ _ _ _ _ (by decide) (by decide) (.inr (by decide)), Mach.rdF, rd_slots (.inl (by decide)), Mach.rdF]

theorem setBelayState_state {v : Nat} (hv : v < 16) : (m.setBelayState v).rdF Reg.BELAY_STATUS Fld.BELAY_STATUS_STATE = v :=
  (Mach.rdF_wrF_same _ _ _ _ (by decide)).trans (Nat.mod_eq_of_lt hv)

theorem rd_setBelayState {a : Nat} (v : Nat) (ha : a ≠ Reg.BELAY_STATUS) : (m.setBelayState v).rd a = m.rd a := Mach.rd_wrF_other _ _ _ _ _ ha

/-! ### The trackers of the stacks (R284, R298) -/

/-- The trackers of some stacks changed, and `DIRTY_STATUS` following. -/
def onTrackers (f : StackSt → StackSt) (l : List Nat) (m : Mach) : Mach := m.each l (fun m s => (m.updStack s f).showDirty s)

/-- A stack with its tracker captured. -/
def trackerCaptured (t : StackSt) : StackSt := { t with captured := t.captured.union t.current, current := ⟨false, []⟩ }

/-- A stack with its tracker released. -/
def trackerReleased (t : StackSt) : StackSt := { t with captured := ⟨false, []⟩ }

theorem captureAll_eq (m : Mach) : m.captureAll = onTrackers trackerCaptured (List.range 12) m := rfl

theorem releaseAll_eq (m : Mach) : m.releaseAll = onTrackers trackerReleased (List.range 12) m := rfl

/-- Nothing is changed but the trackers and the registers of the memories. -/
structure TrackersOnly (m q : Mach) : Prop where
  parts : ∃ d c, q = { m with mem := { m.mem with dram := d }, csr := c }
  rd : ∀ a, a < 0x02000000 ∨ 0x03000000 ≤ a → q.rd a = m.rd a

theorem TrackersOnly.refl (m : Mach) : TrackersOnly m m := ⟨⟨m.mem.dram, m.csr, rfl⟩, fun _ _ => rfl⟩

theorem TrackersOnly.trans {r : Mach} (h : TrackersOnly m q) (g : TrackersOnly q r) : TrackersOnly m r := by
  obtain ⟨⟨_, _, rfl⟩, hrd⟩ := h
  obtain ⟨⟨d, c, rfl⟩, grd⟩ := g
  exact ⟨⟨d, c, rfl⟩, fun a ha => (grd a ha).trans (hrd a ha)⟩

theorem TrackersOnly.field {β : Type} {f : Mach → β} (hf : ∀ m d c, f { m with mem := { m.mem with dram := d }, csr := c } = f m)
    (h : TrackersOnly m q) : f q = f m := by
  obtain ⟨⟨d, c, rfl⟩, _⟩ := h
  exact hf m d c

theorem updStack_trackers {f : StackSt → StackSt} {s : Nat} (hs : s < 12) (m : Mach) : TrackersOnly m ((m.updStack s f).showDirty s) := by
  refine ⟨⟨_, _, rfl⟩, fun a ha => ?_⟩
  have hne : a ≠ Reg.FOOTHILL_DIRTY_STATUS s := by
    unfold Reg.FOOTHILL_DIRTY_STATUS
    omega
  rw [Mach.showDirty, Mach.rd_wrF_other _ _ _ _ _ hne, Mach.rd_wrF_other _ _ _ _ _ hne]
  rfl

theorem onTrackers_only {f : StackSt → StackSt} : ∀ {l : List Nat} {m : Mach}, (∀ s ∈ l, s < 12) → TrackersOnly m (onTrackers f l m) := by
  intro l
  induction l with
  | nil => exact fun _ => .refl _
  | cons s t ih =>
    intro m h
    obtain ⟨hs, ht⟩ := List.forall_mem_cons.mp h
    exact (updStack_trackers hs m).trans (ih ht)

theorem stack_updStack (m : Mach) {s : Nat} (hs : s < m.mem.dram.length) (f : StackSt → StackSt) (e : Nat) :
    ((m.updStack s f).showDirty s).stack e = if e = s then f (m.stack e) else m.stack e := by
  rw [Mach.stack, Mach.showDirty_bytes, Mach.updStack]
  by_cases h : e = s
  · simp [h, Mach.stack, hs]
  · simp [h, Mach.stack, List.getD, Ne.symm h]

/-- Each stack of the list has its trackers changed once. -/
theorem stack_onTrackers {f : StackSt → StackSt} {e : Nat} : ∀ {l : List Nat} {m : Mach}, l.Nodup → (∀ s ∈ l, s < m.mem.dram.length) →
    (onTrackers f l m).stack e = if e ∈ l then f (m.stack e) else m.stack e := by
  intro l
  induction l with
  | nil => exact fun _ _ => rfl
  | cons s t ih =>
    intro m hn h
    obtain ⟨hs, ht⟩ := List.forall_mem_cons.mp h
    obtain ⟨hst, hn⟩ := List.nodup_cons.mp hn
    have hstep : onTrackers f (s :: t) m = onTrackers f t ((m.updStack s f).showDirty s) := rfl
    rw [hstep, ih hn (by simpa [Mach.updStack] using ht), stack_updStack m hs]
    by_cases h : e = s
    · subst h
      simp [hst]
    · simp [h]

theorem mem_range12 : ∀ s ∈ List.range 12, s < 12 := fun _ => List.mem_range.mp

theorem captureAll_trackers (m : Mach) : TrackersOnly m m.captureAll := captureAll_eq m ▸ onTrackers_only mem_range12

theorem releaseAll_trackers (m : Mach) : TrackersOnly m m.releaseAll := releaseAll_eq m ▸ onTrackers_only mem_range12

theorem stack_captureAll (h12 : m.mem.dram.length = 12) {e : Nat} (he : e < 12) : m.captureAll.stack e = trackerCaptured (m.stack e) :=
  (stack_onTrackers (List.nodup_range (n := 12)) fun s hs => h12 ▸ mem_range12 s hs).trans (if_pos (List.mem_range.mpr he))

theorem stack_releaseAll (h12 : m.mem.dram.length = 12) {e : Nat} (he : e < 12) : m.releaseAll.stack e = trackerReleased (m.stack e) :=
  (stack_onTrackers (List.nodup_range (n := 12)) fun s hs => h12 ▸ mem_range12 s hs).trans (if_pos (List.mem_range.mpr he))

/-! ### Messages (R451) -/

/-- Nothing is changed but the group's messages, and none that waits at this module is lost. -/
def Speaks (m q : Mach) : Prop := ∃ g, q = { m with group := g } ∧ m.group.loop ⊆ g.loop

theorem Speaks.refl (m : Mach) : Speaks m m := ⟨m.group, rfl, List.Subset.refl _⟩

theorem Speaks.trans {r : Mach} (h : Speaks m q) (j : Speaks q r) : Speaks m r := by
  obtain ⟨_, rfl, hl⟩ := h
  obtain ⟨g, rfl, jl⟩ := j
  exact ⟨g, rfl, List.Subset.trans hl jl⟩

theorem Speaks.field {β : Type} {f : Mach → β} (hf : ∀ m g, f { m with group := g } = f m) (h : Speaks m q) : f q = f m := by
  obtain ⟨g, rfl, _⟩ := h
  exact hf m g

theorem Speaks.ite {a b : Mach} {c : Prop} [Decidable c] (ha : Speaks m a) (hb : Speaks m b) : Speaks m (if c then a else b) := by
  split
  · exact ha
  · exact hb

theorem Speaks.loop (h : Speaks m q) : m.group.loop ⊆ q.group.loop := by
  obtain ⟨_, rfl, hl⟩ := h
  exact hl

theorem toMaster_speaks (m : Mach) (c : Nat) (b : GBody) : Speaks m (m.toMaster c b) := by
  refine .ite ⟨_, rfl, List.subset_append_left _ _⟩ ?_
  unfold Mach.towardMaster
  split
  · exact .ite ⟨_, rfl, List.Subset.refl _⟩ (.refl m)
  · exact .refl m

theorem sendJoin_speaks (m : Mach) (c base k : Nat) : Speaks m (m.sendJoin c base k) := .ite (.refl m) (toMaster_speaks ..)

theorem sendHeldJoins_speaks (m : Mach) (c : Nat) : Speaks m (m.sendHeldJoins c) := by
  unfold Mach.sendHeldJoins
  extract_lets q
  have hq : Speaks m q := by
    unfold q
    split
    · exact .ite (sendJoin_speaks ..) (.refl m)
    · exact .refl m
  split
  · exact .ite (hq.trans (sendJoin_speaks ..)) hq
  · exact hq

/-- A master's message to itself waits at this module. -/
theorem toMaster_master {c : Nat} (h : m.isMaster (m.groupOf c) = true) (b : GBody) : m.toMaster c b = m.loopBack { group := m.groupOf c, body := b } :=
  if_pos h

theorem ctxOf_groupOf {g c : Nat} (h : m.ctxOf g = some c) : m.groupOf c = g := by
  have := List.find?_some h
  simp only [Bool.and_eq_true, decide_eq_true_eq] at this
  exact this.2

/-- The group of a context is read from the plan and TRAVERSE_STEP_GROUP. -/
theorem groupOf_congr (hp : q.plan = m.plan) (hr : q.rd Reg.TRAVERSE_STEP_GROUP = m.rd Reg.TRAVERSE_STEP_GROUP) (c : Nat) : q.groupOf c = m.groupOf c := by
  have hplan : q.groupPlan = m.groupPlan := by rw [Mach.groupPlan, hp, Mach.groupPlan]
  have hbound : q.bound c = m.bound c := by rw [Mach.bound, Mach.rdF, Mach.rdF, hr, Mach.bound, Mach.rdF, Mach.rdF]
  rw [Mach.groupOf, hplan, hbound, Mach.groupOf]

theorem isMaster_congr (hp : q.plan = m.plan) (g : Nat) : q.isMaster g = m.isMaster g := by simp only [Mach.isMaster, Mach.groupPlan, hp]

theorem groupRank_congr (hp : q.plan = m.plan) (g : Nat) : q.groupRank g = m.groupRank g := by simp only [Mach.groupRank, Mach.groupPlan, hp]

/-! ### Bytes that land (R396) -/

theorem landBytes_work {x : Ctx} {va : Nat} {data : List Byte} {poison : List Nat} (h : MemoryWork m q) : MemoryWork m (q.landBytes x va data poison) :=
  foldl_keeps (MemoryWork m) _ (fun _ _ h => h.setPoison) _ _ h.writeVa

theorem writeVa_memory {x : Ctx} {l : List Byte} : ∀ {m q : Mach} {va : Nat}, q.mem = m.mem → (q.writeVa x va l).mem = (m.writeVa x va l).mem := by
  induction l with
  | nil => exact fun h => h
  | cons b t ih =>
    intro m q va h
    unfold Mach.writeVa
    split
    · split
      · exact ih h
      · exact ih (writePa_memory h _ _)
    · exact ih h

/-- What bytes that land make of memory depends on memory only. -/
theorem landBytes_memory (h : q.mem = m.mem) (x : Ctx) (va : Nat) (data : List Byte) (poison : List Nat) :
    (q.landBytes x va data poison).mem = (m.landBytes x va data poison).mem :=
  List.foldl_rel (r := fun a b : Mach => a.mem = b.mem) (writeVa_memory h) fun w _ _ _ hab => setPoison_memory hab w

end

end Sys2Proof.Laws
end


section
namespace Sys2Proof.Laws

open Sys2Proof.Machine

/-!
# Mirror rounds (R463 to R475)

The end of a freeze shows its result, gives the trackers back only where the mirror has committed, and then speaks to the group; a mirror that leaves
adds to what Belay has sent. At the buddy a slot's landing is in Belay's own state, so the bytes that land do not touch it.
-/

/-! ### The end of a freeze (R473, R474) -/

section

variable {m q : Mach} {r : MirrorSt} {p : BelayPlan} {code : Nat}

/-- Belay's own state once a freeze has ended. -/
def freezeOver (b : BelaySt) (p : BelayPlan) (code : Nat) : BelaySt :=
  { b with mirror := none, lastBuddy := some p.buddy,
           buddyHasSlot := if code = 0 then true else if code = 4 then false else b.buddyHasSlot,
           committedSincePower := b.committedSincePower || decide (code = 0) }

/-- The registers that show the result of a freeze. -/
def resultShown (m : Mach) (r : MirrorSt) (p : BelayPlan) (code : Nat) : Mach :=
  ((({ m with belay := freezeOver m.belay p code } : Mach).setBelayState 1).wrF Reg.BELAY_STATUS Fld.BELAY_STATUS_LAST_RESULT code).wr
    Reg.BELAY_LAST_FREEZE (BitVec.ofNat 32 ((m.clk - r.began) / 10000))

/-- The freeze over and counted, before the group hears of it. -/
def thawed (m : Mach) (r : MirrorSt) (p : BelayPlan) (code : Nat) : Mach :=
  if code = 0 then ((resultShown m r p code).addF Reg.BELAY_COUNTS Fld.BELAY_COUNTS_ROUNDS_OK 1).releaseAll
  else (((resultShown m r p code).addF Reg.BELAY_COUNTS Fld.BELAY_COUNTS_ROUNDS_FAILED 1).trouble 9).tally 305 0

theorem endFreeze_eq (hr : m.belay.mirror = some r) (hp : m.belay.plan = some p) : m.endFreeze code =
    ((thawed m r p code).toMaster p.ctx (.mirrored ((thawed m r p code).groupRank ((thawed m r p code).groupOf p.ctx)) r.round code)).sendHeldJoins
      p.ctx := by
  unfold Mach.endFreeze
  rw [hr, hp]
  rfl

/-- What the end of a freeze shows and what it leaves: memory's bytes always, and the captured trackers where no mirror has committed. -/
structure FreezeEnded (m q : Mach) (p : BelayPlan) (code : Nat) : Prop where
  belay : q.belay = freezeOver m.belay p code
  plan : q.plan = m.plan
  group : q.rd Reg.TRAVERSE_STEP_GROUP = m.rd Reg.TRAVERSE_STEP_GROUP
  result : code < 256 → q.rdF Reg.BELAY_STATUS Fld.BELAY_STATUS_LAST_RESULT = code
  state : q.rdF Reg.BELAY_STATUS Fld.BELAY_STATUS_STATE = 1
  bytes : q.mem.bytes = m.mem.bytes
  kept : code ≠ 0 → q.mem = m.mem
  released : code = 0 → m.mem.dram.length = 12 → ∀ e < 12, (q.stack e).captured = ⟨false, []⟩

theorem FreezeEnded.speaks {t : Mach} (h : FreezeEnded m q p code) (hs : Speaks q t) : FreezeEnded m t p code := by
  obtain ⟨_, rfl, _⟩ := hs
  exact ⟨h.belay, h.plan, h.group, h.result, h.state, h.bytes, h.kept, h.released⟩

theorem resultShown_result (hc : code < 256) : (resultShown m r p code).rdF Reg.BELAY_STATUS Fld.BELAY_STATUS_LAST_RESULT = code := by
  rw [resultShown, Mach.rdF, Mach.rd_wr_other _ _ _ _ (by decide), ← Mach.rdF, Mach.rdF_wrF_same _ _ _ _ (by decide)]
  exact Nat.mod_eq_of_lt hc

theorem resultShown_state : (resultShown m r p code).rdF Reg.BELAY_STATUS Fld.BELAY_STATUS_STATE = 1 := by
  rw [resultShown, Mach.rdF, Mach.rd_wr_other _ _ _ _ (by decide), ← Mach.rdF,
    Mach.rdF_wrF_other _ _ _ _ _ _ (by decide) (by decide) (.inr (by decide))]
  exact setBelayState_state (by decide)

theorem rd_resultShown {a : Nat} (hs : a ≠ Reg.BELAY_STATUS) (hf : a ≠ Reg.BELAY_LAST_FREEZE) : (resultShown m r p code).rd a = m.rd a := by
  rw [resultShown, Mach.rd_wr_other _ _ _ _ hf, Mach.rd_wrF_other _ _ _ _ _ hs]
  exact rd_setBelayState 1 hs

theorem thawed_commits (m : Mach) (r : MirrorSt) (p : BelayPlan) : FreezeEnded m (thawed m r p 0) p 0 := by
  have heq : thawed m r p 0 = ((resultShown m r p 0).addF Reg.BELAY_COUNTS Fld.BELAY_COUNTS_ROUNDS_OK 1).releaseAll := if_pos rfl
  have ht : TrackersOnly ((resultShown m r p 0).addF Reg.BELAY_COUNTS Fld.BELAY_COUNTS_ROUNDS_OK 1) (thawed m r p 0) := heq ▸ releaseAll_trackers _
  have hrd : ∀ {a}, a < 0x02000000 ∨ 0x03000000 ≤ a → a ≠ Reg.BELAY_COUNTS →
      (thawed m r p 0).rd a = (resultShown m r p 0).rd a := fun ha hne =>
    (ht.rd _ ha).trans (Mach.rd_addF_other _ _ _ _ _ hne)
  have hstatus : (thawed m r p 0).rd Reg.BELAY_STATUS = (resultShown m r p 0).rd Reg.BELAY_STATUS := hrd (.inr (by decide)) (by decide)
  exact {
    belay := (ht.field (f := Mach.belay) fun _ _ _ => rfl).trans rfl
    plan := (ht.field (f := Mach.plan) fun _ _ _ => rfl).trans rfl
    group := (hrd (.inl (by decide)) (by decide)).trans (rd_resultShown (by decide) (by decide))
    result := fun hc => by rw [Mach.rdF, hstatus, ← Mach.rdF, resultShown_result hc]
    state := by rw [Mach.rdF, hstatus, ← Mach.rdF, resultShown_state]
    bytes := (ht.field (f := fun m => m.mem.bytes) fun _ _ _ => rfl).trans rfl
    kept := absurd rfl
    released := fun _ h12 e he => by
      rw [heq, stack_releaseAll ?_ he]
      · rfl
      · exact h12 }

theorem thawed_fails (m : Mach) (r : MirrorSt) (p : BelayPlan) (hc : code ≠ 0) : FreezeEnded m (thawed m r p code) p code := by
  have heq : thawed m r p code = (((resultShown m r p code).addF Reg.BELAY_COUNTS Fld.BELAY_COUNTS_ROUNDS_FAILED 1).trouble 9).tally 305 0 := if_neg hc
  have hrd : ∀ {a}, a ≠ Reg.MODULE_TROUBLE → a ≠ Reg.BELAY_COUNTS → (thawed m r p code).rd a = (resultShown m r p code).rd a := fun ht hb => by
    rw [heq, Mach.rd_tally, Mach.rd_trouble, if_neg ht, Mach.rd_addF_other _ _ _ _ _ hb]
  have hstatus : (thawed m r p code).rd Reg.BELAY_STATUS = (resultShown m r p code).rd Reg.BELAY_STATUS := hrd (by decide) (by decide)
  refine ⟨by rw [heq]; rfl, by rw [heq]; rfl, (hrd (by decide) (by decide)).trans (rd_resultShown (by decide) (by decide)), fun hlt => ?_, ?_,
    by rw [heq]; rfl, fun _ => by rw [heq]; rfl, fun h => absurd h hc⟩
  · rw [Mach.rdF, hstatus, ← Mach.rdF, resultShown_result hlt]
  · rw [Mach.rdF, hstatus, ← Mach.rdF, resultShown_state]

theorem thawed_ended (m : Mach) (r : MirrorSt) (p : BelayPlan) (code : Nat) : FreezeEnded m (thawed m r p code) p code := by
  by_cases hc : code = 0
  · subst hc
    exact thawed_commits m r p
  · exact thawed_fails m r p hc

theorem endFreeze_ended (hr : m.belay.mirror = some r) (hp : m.belay.plan = some p) (code : Nat) : FreezeEnded m (m.endFreeze code) p code := by
  rw [endFreeze_eq hr hp]
  exact ((thawed_ended m r p code).speaks (toMaster_speaks ..)).speaks (sendHeldJoins_speaks ..)

/-- A group master hears of the end of its own freeze. -/
theorem endFreeze_tells (hr : m.belay.mirror = some r) (hp : m.belay.plan = some p) (hm : m.isMaster (m.groupOf p.ctx) = true) (code : Nat) :
    { group := m.groupOf p.ctx, body := .mirrored (m.groupRank (m.groupOf p.ctx)) r.round code } ∈ (m.endFreeze code).group.loop := by
  have he := thawed_ended m r p code
  have hgroup : (thawed m r p code).groupOf p.ctx = m.groupOf p.ctx := groupOf_congr he.plan he.group _
  have hmaster : (thawed m r p code).isMaster ((thawed m r p code).groupOf p.ctx) = true := by rwa [hgroup, isMaster_congr he.plan]
  rw [endFreeze_eq hr hp, toMaster_master hmaster, hgroup, groupRank_congr he.plan]
  refine (sendHeldJoins_speaks ..).loop ?_
  rw [Mach.loopBack]
  exact List.mem_append_right _ (List.mem_singleton_self _)

theorem belayCommitFrame_ends {src round : Nat} (hr : m.belay.mirror = some r) (hp : m.belay.plan = some p) (code : Nat) :
    belayCommitFrame src round code m = if r.round = round ∧ p.buddy = src then m.endFreeze code else m := by
  unfold belayCommitFrame
  rw [hr, hp]

theorem mirrorTimeout_ends (hr : m.belay.mirror = some r) : mirrorTimeout m =
    if r.began + secs (m.rdF Reg.BELAY_CFG Fld.BELAY_CFG_TIMEOUT_S) ≤ m.clk then m.endFreeze 1 else m := by
  unfold mirrorTimeout
  rw [hr]

theorem noFreeze_unchanged (h : m.belay.mirror = none) (src round code : Nat) : mirrorTimeout m = m ∧ belayCommitFrame src round code m = m := by
  unfold mirrorTimeout belayCommitFrame
  rw [h]
  exact ⟨rfl, rfl⟩

end

/-! ### A mirror that leaves (R471, R472) -/

section

variable {m q : Mach} {p : BelayPlan} {round k : Nat}

/-- What sending a mirror keeps: memory, the freeze and BELAY_STATUS, and every message of Belay's. -/
structure Mirroring (m q : Mach) : Prop where
  mem : q.mem = m.mem
  mirror : q.belay.mirror = m.belay.mirror
  status : q.rd Reg.BELAY_STATUS = m.rd Reg.BELAY_STATUS
  sent : m.belay.sent ⊆ q.belay.sent

theorem Mirroring.refl (m : Mach) : Mirroring m m := ⟨rfl, rfl, rfl, List.Subset.refl _⟩

theorem Mirroring.trans {r : Mach} (h : Mirroring m q) (g : Mirroring q r) : Mirroring m r :=
  ⟨g.mem.trans h.mem, g.mirror.trans h.mirror, g.status.trans h.status, List.Subset.trans h.sent g.sent⟩

theorem Mirroring.wr {a : Nat} {v : Word} (h : Mirroring m q) (ha : Reg.BELAY_STATUS ≠ a) : Mirroring m (q.wr a v) :=
  h.trans ⟨rfl, rfl, Mach.rd_wr_other _ _ _ _ ha, List.Subset.refl _⟩

theorem Mirroring.belaySend {b : BelayMsg} (h : Mirroring m q) : Mirroring m (q.belaySend b) := h.trans ⟨rfl, rfl, rfl, List.subset_append_left _ _⟩

theorem mem_belaySend (b : BelayMsg) : b ∈ (m.belaySend b).belay.sent := List.mem_append_right _ (List.mem_singleton_self b)

/-! The errors of the words that a mirror reads are counted in the windows of Foothill and of Ledge. -/

theorem rd_eccLog {a log lo hi src range w stack : Nat} (hlog : a ≠ log) (hlo : a ≠ lo) (hhi : a ≠ hi) :
    (m.eccLog log lo hi src range w stack).rd a = m.rd a := by
  unfold Mach.eccLog
  split
  · exact Mach.rd_wrF_other _ _ _ _ _ hlog
  · rw [Mach.rd_event, Mach.rd_wr_other _ _ _ _ hhi, Mach.rd_wr_other _ _ _ _ hlo, Mach.rd_wr_other _ _ _ _ hlog]

theorem placeOf_foothill {w s : Nat} (h : placeOf w = .foothill s) : s < 12 := by
  unfold placeOf at h
  split_ifs at h
  cases h
  omega

theorem rd_countCe {a w : Nat} (ha : 0x04000000 ≤ a) : (m.countCe w).rd a = m.rd a := by
  unfold Mach.countCe
  split
  · next s hs =>
    have := placeOf_foothill hs
    rw [Mach.rd_tally, Mach.rd_addF_other _ _ _ _ _ (by unfold Reg.FOOTHILL_ECC_CE_COUNT; omega)]
  · next b hb =>
    have := placeOf_ledge hb
    rw [Mach.rd_tally, Mach.rd_addF_other _ _ _ _ _ (by unfold Reg.LEDGE_ECC_CE_COUNT; omega)]
  · rfl

theorem rd_countUe {a src range w : Nat} (ha : 0x04000000 ≤ a) : (m.countUe src range w).rd a = m.rd a := by
  have htrouble : a ≠ Reg.MODULE_TROUBLE := by
    unfold Reg.MODULE_TROUBLE
    omega
  unfold Mach.countUe
  split
  · next s hs =>
    have := placeOf_foothill hs
    rw [Mach.rd_tally, Mach.rd_trouble, if_neg htrouble, rd_eccLog (by unfold Reg.FOOTHILL_ECC_LOG; omega)
      (by unfold Reg.FOOTHILL_ECC_LOG_PA_LO; omega) (by unfold Reg.FOOTHILL_ECC_LOG_PA_HI; omega)]
    exact Mach.rd_addF_other _ _ _ _ _ (by unfold Reg.FOOTHILL_ECC_UE_COUNT; omega)
  · next b hb =>
    have := placeOf_ledge hb
    rw [Mach.rd_tally, Mach.rd_trouble, if_neg htrouble, rd_eccLog (by unfold Reg.LEDGE_ECC_LOG; omega)
      (by unfold Reg.LEDGE_ECC_LOG_PA_LO; omega) (by unfold Reg.LEDGE_ECC_LOG_PA_HI; omega)]
    exact Mach.rd_addF_other _ _ _ _ _ (by unfold Reg.LEDGE_ECC_UE_COUNT; omega)
  · rfl

theorem rd_checkWords {a src range : Nat} {e : Ecc} {words : List Nat} (ha : 0x04000000 ≤ a) : (m.checkWords src range e words).rd a = m.rd a :=
  foldl_keeps (fun q : Mach => q.rd a = m.rd a) _ (fun _ _ h => (rd_countUe ha).trans h) _ _
    (foldl_keeps (fun q : Mach => q.rd a = m.rd a) _ (fun _ _ h => (rd_countCe ha).trans h) _ _ rfl)

theorem checkWords_mirroring (m : Mach) (src range : Nat) (e : Ecc) (words : List Nat) : Mirroring m (m.checkWords src range e words) := by
  have hc := checkWords_counted m src range e words
  have hb : (m.checkWords src range e words).belay = m.belay := hc.toMemoryWork.field (f := Mach.belay) fun _ _ _ _ _ => rfl
  exact ⟨hc.mem, by rw [hb], rd_checkWords (by decide), by rw [hb]; exact List.Subset.refl _⟩

theorem sendMirror_opens (m : Mach) (x : Ctx) (p : BelayPlan) (round step : Nat) (e : Ecc) : Mirroring m (m.sendMirror x p round step e) ∧
    ∃ size units, .opening p.buddy round step size units ∈ (m.sendMirror x p round step e).belay.sent := by
  unfold Mach.sendMirror
  extract_lets idx plan record units bytes shown us msgs q₁ q₂ _ q₃ q₄
  have h₁ : Mirroring m q₁ := checkWords_mirroring ..
  have h₂ : Mirroring m q₂ := foldl_keeps (Mirroring m) _ (fun _ _ h => h.wr (by unfold Reg.BELAY_STATUS Reg.BELAY_REGION_DIRTY; omega)) _ _ h₁
  have h₃ : Mirroring m q₃ := h₂.trans ⟨rfl, rfl, rfl, List.Subset.refl _⟩
  have h₄ : Mirroring m q₄ := (h₃.wr (by decide)).belaySend
  have h₅ : Mirroring q₄ (msgs.foldl (fun m b => m.belaySend b) q₄) := foldl_keeps (Mirroring q₄) _ (fun _ _ h => h.belaySend) _ _ (.refl q₄)
  have hdrawn : ∀ r : Mach, Mirroring r r.drawn := fun r => ⟨rfl, rfl, rfl, List.Subset.refl _⟩
  exact ⟨(h₄.trans h₅).trans (hdrawn _), _, _, (hdrawn _).sent (h₅.sent (mem_belaySend _))⟩

end

/-! ### MIRROR at a member (R464, R471) -/

section

variable {m q : Mach} {x : Ctx} {p : BelayPlan} {g c round k l : Nat} {e : Ecc}

/-- A member knows L and the step of its round. -/
def roundKnown (m : Mach) (k l : Nat) : Mach :=
  { m.wr Reg.BELAY_ROUND (BitVec.ofNat 32 l) with belay := { m.belay with sinceRound := k } }

/-- A member freezes: the trackers of every stack are captured. -/
def frozenAt (m : Mach) (round k l : Nat) : Mach :=
  (({ roundKnown m k l with belay := { (roundKnown m k l).belay with mirror := some { round := round, step := k, began := m.clk } } } : Mach).setBelayState
    2).captureAll

section

variable (hc : m.ctxOf g = some c) (hx : m.ctx c = some x)

include hc hx

theorem takeMirror_member : (m.ctxOf g).bind (fun c => (m.ctx c).map (fun x => (c, x))) = some (c, x) := by
  rw [hc, Option.bind_some, hx, Option.map_some]

theorem takeMirror_frozen (hm : m.belay.mirror.isSome = true) : m.takeMirror g round k l e = m := by
  unfold Mach.takeMirror
  rw [takeMirror_member hc hx]
  exact if_pos hm

theorem takeMirror_unsent (hm : m.belay.mirror = none) (hp : ∀ p, m.belay.plan = some p → p.ctx ≠ c ∨ p.buddy = 0xFFF) :
    m.takeMirror g round k l e = (roundKnown m k l).toMaster c (.mirrored (m.groupRank g) round 0) := by
  have hnone : (roundKnown m k l).belay.plan.filter (fun p => decide (p.ctx = c) && decide (p.buddy ≠ 0xFFF)) = none := by
    show m.belay.plan.filter _ = none
    cases hplan : m.belay.plan with
    | none => rfl
    | some p => simpa [Option.filter] using fun h => (hp p hplan).resolve_left (not_not.mpr h)
  unfold Mach.takeMirror
  rw [takeMirror_member hc hx]
  refine (if_neg (by simp [hm])).trans ?_
  extract_lets q₁ _ q₂
  change q₂.belay.plan.filter _ = none at hnone
  rw [hnone]
  rfl

theorem takeMirror_freezes (hm : m.belay.mirror = none) (hp : m.belay.plan = some p) (hctx : p.ctx = c) (hb : p.buddy ≠ 0xFFF) :
    m.takeMirror g round k l e = if (frozenAt m round k l).belayPorts p = [] then (frozenAt m round k l).endFreeze 2
      else (frozenAt m round k l).sendMirror x p round k e := by
  have hsome : (roundKnown m k l).belay.plan.filter (fun p => decide (p.ctx = c) && decide (p.buddy ≠ 0xFFF)) = some p := by
    show m.belay.plan.filter _ = some p
    simp [hp, Option.filter, hctx, hb]
  unfold Mach.takeMirror
  rw [takeMirror_member hc hx]
  refine (if_neg (by simp [hm])).trans ?_
  extract_lets q₁ _ q₂
  change q₂.belay.plan.filter _ = some p at hsome
  rw [hsome]
  rfl

end

theorem rd_frozenAt {a : Nat} (ha : a < 0x02000000 ∨ 0x03000000 ≤ a) (hs : a ≠ Reg.BELAY_STATUS) (hr : a ≠ Reg.BELAY_ROUND) :
    (frozenAt m round k l).rd a = m.rd a :=
  ((captureAll_trackers _).rd a ha).trans ((rd_setBelayState 2 hs).trans (Mach.rd_wr_other _ _ _ _ hr))

theorem frozenAt_belay : (frozenAt m round k l).belay = { m.belay with sinceRound := k, mirror := some { round := round, step := k, began := m.clk } } :=
  (captureAll_trackers _).field (f := Mach.belay) fun _ _ _ => rfl

theorem frozenAt_plan : (frozenAt m round k l).plan = m.plan := ((captureAll_trackers _).field (f := Mach.plan) fun _ _ _ => rfl).trans rfl

theorem frozenAt_ports : (frozenAt m round k l).ports = m.ports := ((captureAll_trackers _).field (f := Mach.ports) fun _ _ _ => rfl).trans rfl

theorem frozenAt_bytes : (frozenAt m round k l).mem.bytes = m.mem.bytes :=
  ((captureAll_trackers _).field (f := fun m => m.mem.bytes) fun _ _ _ => rfl).trans rfl

theorem frozenAt_state : (frozenAt m round k l).rdF Reg.BELAY_STATUS Fld.BELAY_STATUS_STATE = 2 := by
  rw [Mach.rdF, frozenAt, (captureAll_trackers _).rd _ (.inr (by decide)), ← Mach.rdF, setBelayState_state (by decide)]

theorem stack_frozenAt (h12 : m.mem.dram.length = 12) {s : Nat} (hs : s < 12) : (frozenAt m round k l).stack s = trackerCaptured (m.stack s) := by
  rw [frozenAt, stack_captureAll ?_ hs]
  · rfl
  · exact h12

/-- The ports of a plan's path are read from the plan, the ports and their registers. -/
theorem belayPorts_congr (hplan : q.plan = m.plan) (hports : q.ports = m.ports) (hrd : ∀ a, 0x05000000 ≤ a → a < 0x06000000 → q.rd a = m.rd a)
    (p : BelayPlan) : q.belayPorts p = m.belayPorts p := by
  have hstate : ∀ n < 32, q.portState n = m.portState n := fun n hn => by
    rw [Mach.portState, Mach.rdF, hrd _ (by unfold Reg.PORT_STATUS; omega) (by unfold Reg.PORT_STATUS; omega), Mach.portState, Mach.rdF]
  have hroute : ∀ a, q.routeTo a = m.routeTo a := fun a => by
    unfold Mach.routeTo
    rw [hplan]
    split
    · rfl
    · next y _ =>
      refine if_congr (and_congr_right fun hn => ?_) rfl rfl
      rw [hstate _ hn, Mach.port, hports, ← Mach.port]
  unfold Mach.belayPorts
  rw [hroute]
  split
  · rfl
  · exact List.filter_congr fun n hn => by rw [hstate n (mem_maskBits.mp hn).1]

theorem frozenAt_belayPorts : (frozenAt m round k l).belayPorts p = m.belayPorts p :=
  belayPorts_congr frozenAt_plan frozenAt_ports (fun a hl hu => rd_frozenAt (by omega) (by unfold Reg.BELAY_STATUS; omega)
    (by unfold Reg.BELAY_ROUND; omega)) p

end

/-! ### Slots at the buddy (R465 to R468, R472, R473) -/

section

variable {m : Mach} {p : BelayPlan} {x : Ctx}

theorem slotSt_congr {q : Mach} (h : q.belay.slotA = m.belay.slotA ∧ q.belay.slotB = m.belay.slotB) (e : Nat) : q.slotSt e = m.slotSt e := by
  rw [Mach.slotSt, h.1, h.2, Mach.slotSt]

theorem slotSt_setSlot_same {e : Nat} (v : SlotSt) : (m.setSlot e v).slotSt e = v := by
  by_cases h : e = 0 <;> simp [Mach.slotSt, Mach.setSlot, h]

/-- The two slots are apart. -/
theorem slotSt_setSlot_other {e : Nat} (he : e < 2) (v : SlotSt) : (m.setSlot e v).slotSt (1 - e) = m.slotSt (1 - e) := by
  obtain rfl | rfl : e = 0 ∨ e = 1 := by omega
  · rfl
  · rfl

theorem showSlots_belay (m : Mach) : m.showSlots.belay = m.belay := by
  obtain ⟨_, h⟩ := showSlots_regs m
  rw [h]

theorem landBytes_belay (va : Nat) (data : List Byte) (poison : List Nat) : (m.landBytes x va data poison).belay = m.belay :=
  (landBytes_work (.refl m)).field (f := Mach.belay) fun _ _ _ _ _ => rfl

/-- The slot that a mirror lands in: the one that does not hold L (R466). -/
def targetSlot (m : Mach) : Nat := match m.slotWith (m.rd Reg.BELAY_ROUND).toNat with | some 0 => 1 | _ => 0

theorem targetSlot_free (m : Mach) : targetSlot m < 2 ∧ m.slotWith (m.rd Reg.BELAY_ROUND).toNat ≠ some (targetSlot m) := by
  unfold targetSlot
  split
  · next h =>
    rw [h]
    exact ⟨by decide, by decide⟩
  · next h => exact ⟨by decide, h⟩

/-- Belay's own state once a mirror may land: its slot is no longer valid. -/
def landingIn (m : Mach) (e : Nat) (w : LandSt) : Mach :=
  let q := m.setSlot e { (m.slotSt e) with valid := false }
  { q with belay := { q.belay with landing := some w } }

section

variable {src round k size serial : Nat} {units : List Nat}

theorem mirrorOpen_refused (h : src = 0xFFF ∨ ∀ p, m.belay.plan = some p → p.ward ≠ src) :
    mirrorOpen src round k size serial units m = m.belaySend (.commit src round 4) := by
  have hnone : m.belay.plan.filter (fun p => decide (p.ward = src) && decide (src ≠ 0xFFF)) = none := by
    cases hp : m.belay.plan with
    | none => rfl
    | some p =>
      rcases h with h | h
      · simp [Option.filter, h]
      · simp [Option.filter, h p hp]
  rw [mirrorOpen, hnone]

theorem mirrorOpen_full (hs : src ≠ 0xFFF) (hp : m.belay.plan = some p) (hw : p.ward = src) (hsize : p.slotUnits < size) :
    mirrorOpen src round k size serial units m = m.belaySend (.commit src round 3) := by
  have hsome : m.belay.plan.filter (fun p => decide (p.ward = src) && decide (src ≠ 0xFFF)) = some p := by simp [hp, Option.filter, hw, hs]
  rw [mirrorOpen, hsome]
  exact if_pos hsize

theorem mirrorOpen_opens (hs : src ≠ 0xFFF) (hp : m.belay.plan = some p) (hw : p.ward = src) (hsize : size ≤ p.slotUnits) (hx : m.ctx p.ctx = some x) :
    mirrorOpen src round k size serial units m = ((landingIn m (targetSlot m)
      { slot := targetSlot m, round := round, step := k, serial := serial, units := units, got := [] }).landBytes x (p.unitVa (targetSlot m) 0)
        (slotHeader 0 0 serial) []).showSlots := by
  have hsome : m.belay.plan.filter (fun p => decide (p.ward = src) && decide (src ≠ 0xFFF)) = some p := by simp [hp, Option.filter, hw, hs]
  rw [mirrorOpen, hsome]
  refine (if_neg (Nat.not_lt.mpr hsize)).trans ?_
  extract_lets +onlyGivenNames t _ q₁ _ q₂
  have hctx : q₂.ctx p.ctx = some x := hx
  rw [hctx]
  rfl

end

end

section

variable {m : Mach} {p : BelayPlan} {x : Ctx} {l : LandSt}

/-! ### Units that land, and the commit (R466, R473) -/

/-- What a slot holds once a mirror has committed in it. -/
def slotCommitted (m : Mach) (l : LandSt) : SlotSt :=
  { valid := true, step := l.step, stamp := m.belay.stamp + 1,
    unitStamp := l.got.map (fun u => (u, m.belay.stamp + 1)) ++ (m.slotSt l.slot).unitStamp.filter (fun e => !l.got.contains e.1) }

/-- Belay's own state once a slot has committed. -/
def committedIn (m : Mach) (l : LandSt) : Mach :=
  { m.setSlot l.slot (slotCommitted m l) with
    belay := { (m.setSlot l.slot (slotCommitted m l)).belay with stamp := m.belay.stamp + 1, landing := none } }

theorem noLanding_unchanged (h : m.belay.plan = none ∨ m.belay.landing = none) (src round u : Nat) (poison : List Nat) (data : List Byte) :
    slotCommit m = m ∧ mirrorData src round u poison data m = m := by
  rcases h with h | h
  · rw [slotCommit, mirrorData, h]
    exact ⟨rfl, rfl⟩
  · rw [slotCommit, mirrorData, h]
    constructor
    · split
      · next h => cases h
      · rfl
    · split
      · next h => cases h
      · rfl

section

variable (hp : m.belay.plan = some p) (hl : m.belay.landing = some l)

include hp hl

theorem mirrorData_refused {src round u : Nat} {poison : List Nat} {data : List Byte}
    (h : p.ward ≠ src ∨ l.round ≠ round ∨ u ∉ l.units ∨ u ∈ l.got) :
    mirrorData src round u poison data m = m := by
  rw [mirrorData, hp, hl]
  by_cases hw : p.ward = src
  · have hsome : (some p).filter (fun p => decide (p.ward = src)) = some p := by simp [Option.filter, hw]
    rw [hsome]
    refine if_pos ?_
    simpa [hw] using h
  · have hnone : (some p).filter (fun p => decide (p.ward = src)) = none := by simp [Option.filter, hw]
    rw [hnone]

variable (hx : m.ctx p.ctx = some x)

include hx

theorem mirrorData_lands {u : Nat} {poison : List Nat} {data : List Byte} (hu : u ∈ l.units) (hg : u ∉ l.got) :
    mirrorData p.ward l.round u poison data m = { m.landBytes x (p.unitVa l.slot u) data poison with
      belay := { (m.landBytes x (p.unitVa l.slot u) data poison).belay with landing := some { l with got := l.got ++ [u] } } } := by
  have hsome : (some p).filter (fun q => decide (q.ward = p.ward)) = some p := by simp [Option.filter]
  rw [mirrorData, hp, hl, hsome]
  refine (if_neg (by simp [hu, hg])).trans ?_
  rw [hx]

theorem slotCommit_eq : slotCommit m = if (∀ u ∈ l.units, u ∈ l.got) ∧ (∀ y, m.belay.catchUp = some y → y.1 ≠ l.slot)
    then ((committedIn (m.landBytes x (p.unitVa l.slot 0) (slotHeader 1 l.step l.serial) []) l).showSlots).belaySend (.commit p.ward l.round 0)
    else m := by
  have hcond : ((!l.units.all fun u => l.got.contains u) = true ∨ m.belay.catchUp.elim false (fun c => decide (c.1 = l.slot)) = true) ↔
      ¬ ((∀ u ∈ l.units, u ∈ l.got) ∧ (∀ y, m.belay.catchUp = some y → y.1 ≠ l.slot)) := by
    rw [not_and_or]
    refine or_congr (by simp) ?_
    cases m.belay.catchUp with
    | none => simp
    | some y => simp only [Option.elim_some, decide_eq_true_eq, Option.some.injEq, forall_eq', not_not]
  rw [slotCommit, hp, hl]
  refine (if_congr hcond rfl rfl).trans ((ite_not _ _ _).trans (if_congr Iff.rfl ?_ rfl))
  rw [hx]
  rfl

end

/-! ### Catch-up (R468) -/

theorem catchUpDone_other {e : Nat} (h : ∀ y, m.belay.catchUp = some y → y.1 ≠ e) : catchUpDone e m = m := by
  unfold catchUpDone
  split
  · next t units _ hy => exact if_pos (h _ hy)
  · rfl

/-- A unit copied from the other slot. -/
def unitCopied (m : Mach) (x : Ctx) (p : BelayPlan) (e u : Nat) : Mach :=
  m.landBytes x (p.unitVa e u) ((List.range' (p.unitVa (1 - e) u) 65536).map (m.linkByte x))
    (m.badOffsets x Ecc.clean (List.range' (p.unitVa (1 - e) u) 65536))

/-- The catch-up over, and the slots shown. -/
def caughtUp (m : Mach) : Mach := ({ m with belay := { m.belay with catchUp := none } } : Mach).showSlots

theorem catchUpDone_copies {e u : Nat} (hp : m.belay.plan = some p) (hx : m.ctx p.ctx = some x) (hl : m.belay.landing = none)
    (hc : m.belay.catchUp = some (e, [u])) : catchUpDone e m = caughtUp (unitCopied m x p e u) := by
  unfold catchUpDone
  rw [hp, hc]
  refine (if_neg (not_not.mpr rfl)).trans ?_
  extract_lets newer q
  have hunits : [u].filter (fun u => !newer.contains u) = [u] := by simp [newer, hl]
  have hfold : q = ([u].filter (fun u => !newer.contains u)).foldl (fun m u => unitCopied m x p e u) m := by
    unfold q
    rw [hx]
    rfl
  change caughtUp q = _
  rw [hfold, hunits, List.foldl_cons, List.foldl_nil]

/-! ### Rounds at the group master (R470, R475, R483) -/

/-- A MIRRORED that counts: a round is open, it is this one, and the rank has not answered yet. -/
abbrev Counts (m : Mach) (round rank : Nat) : Prop := m.belay.roundOpen = true ∧ round = m.belay.round ∧ ∀ r ∈ m.belay.results, r.1 ≠ rank

section

variable {g rank round v : Nat} (hm : m.isMaster g = true)

include hm

theorem takeMirrored_ignored (h : ¬ Counts m round rank) : m.takeMirrored g rank round v = m := by
  refine if_pos ?_
  by_contra hn
  simp only [hm, not_or, not_not] at hn
  obtain ⟨_, ho, hr, ha⟩ := hn
  exact h ⟨by simpa using ho, hr, fun r hr he => ha (List.any_eq_true.mpr ⟨r, hr, decide_eq_true he⟩)⟩

theorem takeMirrored_counted (h : Counts m round rank) : m.takeMirrored g rank round v =
    let rs := m.belay.results ++ [(rank, v)]
    let q : Mach := { m with belay := { m.belay with results := rs } }
    if rs.length < m.groupSize g then q else ({ q with belay := { q.belay with roundOpen := false } } : Mach).flood g
      (.roundEnd round (rs.all (fun r => decide (r.2 = 0)))
        (if rs.all (fun r => decide (r.2 = 0)) = true then m.belay.roundStep else (m.rd Reg.BELAY_ROUND).toNat)) := by
  obtain ⟨ho, hr, ha⟩ := h
  refine (if_neg ?_).trans rfl
  simp only [hm, ho, hr, Bool.not_true, ne_eq, not_true_eq_false, Bool.false_eq_true, false_or, List.any_eq_true, decide_eq_true_eq, not_exists, not_and]
  exact ha

end

theorem setSlot_parts (m : Mach) (e : Nat) (v : SlotSt) : ∃ a b, m.setSlot e v = { m with belay := { m.belay with slotA := a, slotB := b } } := by
  unfold Mach.setSlot
  by_cases h : e = 0
  · exact ⟨v, m.belay.slotB, by rw [if_pos h]⟩
  · exact ⟨m.belay.slotA, v, by rw [if_neg h]⟩

/-- A catch-up that starts changes the slots and what shows them. -/
theorem startCatchUp_parts (m : Mach) (l : Nat) : (∃ c t a b, m.startCatchUp l =
    { m with csr := c, belay := { m.belay with catchUp := t, slotA := a, slotB := b } }) ∧
      (m.startCatchUp l).rd Reg.BELAY_ROUND = m.rd Reg.BELAY_ROUND := by
  have hsame : ∃ c t a b, m = { m with csr := c, belay := { m.belay with catchUp := t, slotA := a, slotB := b } } :=
    ⟨m.csr, m.belay.catchUp, m.belay.slotA, m.belay.slotB, rfl⟩
  unfold Mach.startCatchUp
  split
  · extract_lets +onlyGivenNames t units
    split
    · exact ⟨hsame, rfl⟩
    · refine ⟨?_, (rd_showSlots (by decide) (.inl (by decide))).trans ?_⟩
      · obtain ⟨c, hc⟩ := showSlots_regs
          (({ m with belay := { m.belay with catchUp := some (t, units) } } : Mach).setSlot t { (m.slotSt t) with valid := false })
        obtain ⟨a, b, hs⟩ := setSlot_parts { m with belay := { m.belay with catchUp := some (t, units) } } t { (m.slotSt t) with valid := false }
        exact ⟨c, some (t, units), a, b, by rw [hc, hs]⟩
      · rw [Mach.rd, Mach.setSlot, Mach.rd]
  · exact ⟨hsame, rfl⟩

/-- The final reply of a command that had begun. -/
theorem finish_replied (m : Mach) (lane : Lane) (ctx tag op status detail : Nat) (data : List Byte) :
    (m.finish lane ctx tag op status detail data).replied op ctx tag status :=
  ⟨_, mem_told_send.mpr (.inr rfl), rfl, rfl, rfl, rfl, rfl⟩

theorem replied_of_told {q : Mach} {op ctx tag status : Nat} (hsub : told m ⊆ told q) (h : m.replied op ctx tag status) :
    q.replied op ctx tag status := by
  obtain ⟨r, hr, hfields⟩ := h
  exact ⟨r, hsub hr, hfields⟩

/-- A snapshot's final reply, with the round's result. -/
def endSnapshot (code : Nat) (m : Mach) (q : Lane × Nat × Nat) : Mach := m.finish q.1 q.2.1 q.2.2 Op.belaySnapshot St.done code

theorem endSnapshots_link (code : Nat) (l : List (Lane × Nat × Nat)) (m : Mach) : LinkOnly m (l.foldl (endSnapshot code) m) :=
  foldl_keeps (LinkOnly m) _ (fun _ _ h => h.trans (finish_linkOnly ..)) l m (.refl m)

theorem endSnapshots_replied (code : Nat) (l : List (Lane × Nat × Nat)) (m : Mach) :
    ∀ q ∈ l, (l.foldl (endSnapshot code) m).replied Op.belaySnapshot q.2.1 q.2.2 St.done :=
  foldl_establishes (P := fun m q => m.replied Op.belaySnapshot q.2.1 q.2.2 St.done) (fun _ _ => finish_replied ..)
    (fun _ _ _ => replied_of_told (told_finish ..)) l m

/-- What a member does first at ROUND_END: L is known and catch-up begins. -/
def roundEnded (m : Mach) (l : Nat) : Mach := (m.wr Reg.BELAY_ROUND (BitVec.ofNat 32 l)).startCatchUp l

/-- The result of a round that its snapshots are told: the first that is not 0, where the round is not complete. -/
def roundCode (m : Mach) (complete : Bool) : Nat :=
  if complete then 0 else ((m.belay.results.find? (fun r => decide (r.2 ≠ 0))).map (fun r => r.2)).getD 0

theorem roundEnded_parts (m : Mach) (l : Nat) : (∃ c b, roundEnded m l = { m with csr := c, belay := b } ∧ b.round = m.belay.round ∧
    b.snapshots = m.belay.snapshots) ∧ (roundEnded m l).rd Reg.BELAY_ROUND = BitVec.ofNat 32 l := by
  obtain ⟨⟨c, t, a, b, hq⟩, hround⟩ := startCatchUp_parts (m.wr Reg.BELAY_ROUND (BitVec.ofNat 32 l)) l
  exact ⟨⟨c, _, hq, rfl, rfl⟩, hround.trans (Mach.rd_wr_same ..)⟩

section

variable {g round l : Nat} {complete : Bool}

theorem takeRoundEnd_asked : ((!(roundEnded m l).isMaster g) = true ∨ round ≠ (roundEnded m l).belay.round) ↔
    ¬ (m.isMaster g = true ∧ round = m.belay.round) := by
  obtain ⟨⟨c, b, hq, hround, -⟩, -⟩ := roundEnded_parts m l
  have hmaster : (roundEnded m l).isMaster g = m.isMaster g := isMaster_congr (by rw [hq]) g
  have hr : (roundEnded m l).belay.round = m.belay.round := by rw [hq, hround]
  rw [hmaster, hr, not_and_or, Bool.not_eq_true', Bool.not_eq_true]

theorem takeRoundEnd_member (h : ¬ (m.isMaster g = true ∧ round = m.belay.round)) : m.takeRoundEnd g round complete l = roundEnded m l :=
  if_pos (takeRoundEnd_asked.mpr h)

theorem takeRoundEnd_master (hm : m.isMaster g = true) (hr : round = m.belay.round) : m.takeRoundEnd g round complete l =
    m.belay.snapshots.foldl (endSnapshot (roundCode (roundEnded m l) complete))
      { roundEnded m l with belay := { (roundEnded m l).belay with snapshots := [] } } := by
  obtain ⟨⟨c, b, hq, -, hasked⟩, -⟩ := roundEnded_parts m l
  have ha : m.belay.snapshots = (roundEnded m l).belay.snapshots := by rw [hq, hasked]
  rw [ha]
  exact if_neg (takeRoundEnd_asked.not.mpr (not_not.mpr ⟨hm, hr⟩))

end

end

/-! ### What MIRROR leaves at the ward -/

section

variable {m : Mach} {x : Ctx} {p : BelayPlan} {g c round k l : Nat} {e : Ecc}

theorem roundKnown_groupOf : (roundKnown m k l).groupOf c = m.groupOf c :=
  groupOf_congr (m := m) (q := roundKnown m k l) rfl (Mach.rd_wr_other _ _ _ _ (by decide)) c

theorem frozenAt_groupOf : (frozenAt m round k l).groupOf c = m.groupOf c :=
  groupOf_congr (m := m) frozenAt_plan (rd_frozenAt (.inl (by decide)) (by decide) (by decide)) c

section

variable (hc : m.ctxOf g = some c) (hx : m.ctx c = some x) (hmaster : m.isMaster g = true) (hm : m.belay.mirror = none)

include hc hx hmaster hm

theorem takeMirror_answers (hp : ∀ p, m.belay.plan = some p → p.ctx ≠ c ∨ p.buddy = 0xFFF) :
    m.takeMirror g round k l e = (roundKnown m k l).loopBack { group := m.groupOf c, body := .mirrored (m.groupRank g) round 0 } := by
  have hown : (roundKnown m k l).isMaster ((roundKnown m k l).groupOf c) = true := by
    rw [roundKnown_groupOf, ctxOf_groupOf hc]
    exact hmaster
  rw [takeMirror_unsent hc hx hm hp, toMaster_master hown, roundKnown_groupOf]

section

variable (hp : m.belay.plan = some p) (hctx : p.ctx = c) (hb : p.buddy ≠ 0xFFF)

include hp hctx hb

/-- With no path the mirror fails as it begins (R474). -/
theorem takeMirror_noPath (hports : m.belayPorts p = []) : FreezeEnded (frozenAt m round k l) (m.takeMirror g round k l e) p 2 ∧
    { group := m.groupOf c, body := .mirrored (m.groupRank (m.groupOf c)) round 2 } ∈ (m.takeMirror g round k l e).group.loop := by
  have hfr : (frozenAt m round k l).belay.mirror = some { round := round, step := k, began := m.clk } := by rw [frozenAt_belay]
  have hplan : (frozenAt m round k l).belay.plan = some p := by rw [frozenAt_belay, hp]
  have hown : (frozenAt m round k l).isMaster ((frozenAt m round k l).groupOf p.ctx) = true := by
    rw [frozenAt_groupOf, hctx, ctxOf_groupOf hc]
    exact (isMaster_congr frozenAt_plan g).trans hmaster
  have htells := endFreeze_tells hfr hplan hown 2
  rw [frozenAt_groupOf, hctx, groupRank_congr (m := m) frozenAt_plan] at htells
  rw [takeMirror_freezes hc hx hm hp hctx hb, if_pos (frozenAt_belayPorts.trans hports)]
  exact ⟨endFreeze_ended hfr hplan 2, htells⟩

omit hmaster in
/-- With a path the mirror leaves, and the freeze lasts (R471, R472). -/
theorem takeMirror_leaves (hports : m.belayPorts p ≠ []) : Mirroring (frozenAt m round k l) (m.takeMirror g round k l e) ∧
    ∃ size units, .opening p.buddy round k size units ∈ (m.takeMirror g round k l e).belay.sent := by
  rw [takeMirror_freezes hc hx hm hp hctx hb, if_neg (frozenAt_belayPorts.symm ▸ hports)]
  exact sendMirror_opens ..

end

end

/-- What a mirror that leaves shows. -/
theorem Mirroring.shown {q : Mach} (h : Mirroring (frozenAt m round k l) q) :
    q.belay.mirror = some { round := round, step := k, began := m.clk } ∧ q.rdF Reg.BELAY_STATUS Fld.BELAY_STATUS_STATE = 2 ∧
      q.mem.bytes = m.mem.bytes := by
  refine ⟨h.mirror.trans (by rw [frozenAt_belay]), ?_, by rw [h.mem, frozenAt_bytes]⟩
  rw [Mach.rdF, h.status, ← Mach.rdF, frozenAt_state]

/-- The trackers of every stack have been captured, and start anew. -/
theorem Mirroring.stack {q : Mach} (h : Mirroring (frozenAt m round k l) q) (h12 : m.mem.dram.length = 12) {s : Nat} (hs : s < 12) :
    (q.stack s).captured = (m.stack s).captured.union (m.stack s).current ∧ (q.stack s).current = ⟨false, []⟩ := by
  rw [Mach.stack, h.mem, ← Mach.stack, stack_frozenAt h12 hs]
  exact ⟨rfl, rfl⟩

end

/-! ### The rows of a mirror round -/

section

variable {s : State}

/-- A message that waits at this module is acted on with it taken from those that wait. -/
theorem run_own {g : Nat} {b : GBody} {act : Mach → Mach} {t : Mach} (h : { group := g, body := b } ∈ s.group.loop)
    (ht : act { s.toMach with group := { s.group with loop := s.loopWithout g b } } = t) : s.run (fun m => m.gotMsg none g b act) = .next (s.on t) :=
  run_to ((gotMsg_own h).trans ht)

/-- A freeze ends by the buddy's commit frame or by its time. -/
theorem freeze_ends (h12 : s.mem.dram.length = 12) {r : MirrorSt} {p : BelayPlan} (hr : s.belay.mirror = some r) (hp : s.belay.plan = some p) :
    let status (s : State) (f : Fld) : Nat := s.rdF Reg.BELAY_STATUS f
    let held (t s : State) : Prop := ∀ e < 12, (t.stack e).captured = (s.stack e).captured
    let due : Prop := r.began + secs (s.rdF Reg.BELAY_CFG Fld.BELAY_CFG_TIMEOUT_S) ≤ s.clk
    (¬ due → exec .mirrorTimeout s = .next s) ∧
    (due → ∃ t, exec .mirrorTimeout s = .next t ∧ t.belay.mirror = none ∧ status t Fld.BELAY_STATUS_LAST_RESULT = 1 ∧
      status t Fld.BELAY_STATUS_STATE = 1 ∧ held t s ∧ t.mem.bytes = s.mem.bytes) ∧
    (∀ src round v, r.round ≠ round ∨ p.buddy ≠ src → exec (.belayCommitFrame src round v) s = .next s) ∧
    (∀ v, v < 256 → ∃ t, exec (.belayCommitFrame p.buddy r.round v) s = .next t ∧ t.belay.mirror = none ∧
      status t Fld.BELAY_STATUS_LAST_RESULT = v ∧ status t Fld.BELAY_STATUS_STATE = 1 ∧ t.mem.bytes = s.mem.bytes ∧ (v ≠ 0 → held t s) ∧
      (v = 0 → t.belay.buddyHasSlot = true ∧ ∀ e < 12, (t.stack e).captured = ⟨false, []⟩)) := by
  intro status held due
  have hheld : ∀ {v}, v ≠ 0 → held (s.on (s.endFreeze v)) s := fun hv e _ => by
    rw [State.on_toMach, Mach.stack, (endFreeze_ended hr hp _).kept hv, ← Mach.stack]
  refine ⟨fun hd => run_to ((mirrorTimeout_ends hr).trans (if_neg hd)), fun hd => ?_, fun src round v hne => ?_, fun v hv => ?_⟩
  · have hend := endFreeze_ended hr hp 1
    exact ⟨_, run_to ((mirrorTimeout_ends hr).trans (if_pos hd)), congrArg BelaySt.mirror hend.belay, hend.result (by decide), hend.state,
      hheld (by decide), hend.bytes⟩
  · exact run_to ((belayCommitFrame_ends hr hp v).trans (if_neg fun h => hne.elim (absurd h.1) (absurd h.2)))
  · have hend := endFreeze_ended hr hp v
    refine ⟨_, run_to ((belayCommitFrame_ends hr hp v).trans (if_pos ⟨rfl, rfl⟩)), congrArg BelaySt.mirror hend.belay, hend.result hv, hend.state,
      hend.bytes, hheld, fun h0 => ⟨(congrArg BelaySt.buddyHasSlot hend.belay).trans (if_pos h0), hend.released h0 h12⟩⟩

end

/-! ### What the buddy's and the master's rows leave -/

section

variable {m : Mach} {p : BelayPlan} {x : Ctx} {l : LandSt}

/-- The slots are Belay's own state. -/
theorem slotSt_of_belay {q : Mach} (h : q.belay = m.belay) (e : Nat) : q.slotSt e = m.slotSt e := by rw [Mach.slotSt, h, Mach.slotSt]

theorem showSlots_mem (m : Mach) : m.showSlots.mem = m.mem := (showSlots_regs m).mem

theorem landingIn_mem (m : Mach) (e : Nat) (w : LandSt) : (landingIn m e w).mem = m.mem := rfl

theorem landingIn_landing (m : Mach) (e : Nat) (w : LandSt) : (landingIn m e w).belay.landing = some w := rfl

/-- MIRROR_OPEN: the target is invalid, the other slot is kept, and the header lands (R466, R467). -/
theorem mirrorOpen_lands {src round k size serial : Nat} {units : List Nat} (hs : src ≠ 0xFFF) (hp : m.belay.plan = some p) (hw : p.ward = src)
    (hsize : size ≤ p.slotUnits) (hx : m.ctx p.ctx = some x) :
    let t := mirrorOpen src round k size serial units m
    let e := targetSlot m
    (t.slotSt e).valid = false ∧ t.slotSt (1 - e) = m.slotSt (1 - e) ∧ t.mem = (m.landBytes x (p.unitVa e 0) (slotHeader 0 0 serial) []).mem ∧
      t.belay.landing = some { slot := e, round := round, step := k, serial := serial, units := units, got := [] } := by
  intro t e
  let w : LandSt := { slot := e, round := round, step := k, serial := serial, units := units, got := [] }
  have ht : t = ((landingIn m e w).landBytes x (p.unitVa e 0) (slotHeader 0 0 serial) []).showSlots := mirrorOpen_opens hs hp hw hsize hx
  have hbelay : t.belay = (landingIn m e w).belay := by rw [ht, showSlots_belay, landBytes_belay]
  have hsame : (landingIn m e w).slotSt e = { (m.slotSt e) with valid := false } := slotSt_setSlot_same (m := m) _
  have hother : (landingIn m e w).slotSt (1 - e) = m.slotSt (1 - e) := slotSt_setSlot_other (m := m) (targetSlot_free m).1 _
  refine ⟨?_, (slotSt_of_belay hbelay _).trans hother, ?_, by rw [hbelay, landingIn_landing]⟩
  · rw [slotSt_of_belay hbelay, hsame]
  · rw [ht, showSlots_mem]
    exact landBytes_memory (landingIn_mem m e w) ..

/-- SLOT_COMMIT: the slot is valid with the mirror's step, the other is kept, and the ward is told (R466, R473). -/
theorem slotCommit_commits (hp : m.belay.plan = some p) (hl : m.belay.landing = some l) (hx : m.ctx p.ctx = some x) (he : l.slot < 2)
    (hall : ∀ u ∈ l.units, u ∈ l.got) (hc : ∀ y, m.belay.catchUp = some y → y.1 ≠ l.slot) :
    let t := slotCommit m
    t.belay.landing = none ∧ (t.slotSt l.slot).valid = true ∧ (t.slotSt l.slot).step = l.step ∧ t.slotSt (1 - l.slot) = m.slotSt (1 - l.slot) ∧
      t.belay.sent = m.belay.sent ++ [.commit p.ward l.round 0] ∧
      t.mem = (m.landBytes x (p.unitVa l.slot 0) (slotHeader 1 l.step l.serial) []).mem := by
  intro t
  let q := m.landBytes x (p.unitVa l.slot 0) (slotHeader 1 l.step l.serial) []
  have ht : t = (committedIn q l).showSlots.belaySend (.commit p.ward l.round 0) := (slotCommit_eq hp hl hx).trans (if_pos ⟨hall, hc⟩)
  have hbelay : t.belay = { (committedIn q l).belay with sent := (committedIn q l).belay.sent ++ [.commit p.ward l.round 0] } := by
    rw [ht, Mach.belaySend, showSlots_belay]
  have hslots : ∀ e, t.slotSt e = (committedIn q l).slotSt e := fun e => slotSt_congr (by rw [hbelay]; exact ⟨rfl, rfl⟩) e
  have hsame : (committedIn q l).slotSt l.slot = slotCommitted q l := slotSt_setSlot_same (m := q) _
  have hother : (committedIn q l).slotSt (1 - l.slot) = q.slotSt (1 - l.slot) := slotSt_setSlot_other (m := q) he _
  have hq : q.belay = m.belay := landBytes_belay ..
  obtain ⟨a, b, hset⟩ := setSlot_parts q l.slot (slotCommitted q l)
  refine ⟨by rw [hbelay]; rfl, by rw [hslots, hsame]; rfl, by rw [hslots, hsame]; rfl, ?_, ?_, ?_⟩
  · rw [hslots, hother, slotSt_of_belay hq]
  · rw [hbelay, committedIn, hset]
    show q.belay.sent ++ _ = _
    rw [hq]
  · rw [ht, Mach.belaySend, showSlots_mem, committedIn, hset]

theorem caughtUp_parts (m : Mach) : (caughtUp m).belay.catchUp = none ∧ (caughtUp m).mem = m.mem := by
  rw [caughtUp, showSlots_belay, showSlots_mem]
  exact ⟨rfl, rfl⟩

/-- CATCH_UP_DONE: the unit lands from the other slot (R468). -/
theorem catchUpDone_lands {e u : Nat} (hp : m.belay.plan = some p) (hx : m.ctx p.ctx = some x) (hl : m.belay.landing = none)
    (hc : m.belay.catchUp = some (e, [u])) : (catchUpDone e m).belay.catchUp = none ∧ (catchUpDone e m).mem = (unitCopied m x p e u).mem := by
  rw [catchUpDone_copies hp hx hl hc]
  exact caughtUp_parts _

/-- The round at its master with the last MIRRORED in. -/
def roundOver (m : Mach) (rank v : Nat) : Mach :=
  { m with belay := { m.belay with results := m.belay.results ++ [(rank, v)], roundOpen := false } }

section

variable {g rank round v : Nat} (hm : m.isMaster g = true) (hc : Counts m round rank)

include hm hc

/-- A MIRRORED that is not the last is noted. -/
theorem takeMirrored_noted (hn : m.belay.results.length + 1 < m.groupSize g) :
    m.takeMirrored g rank round v = { m with belay := { m.belay with results := m.belay.results ++ [(rank, v)] } } :=
  (takeMirrored_counted hm hc).trans (if_pos (by rwa [List.length_append]))

/-- With the last MIRRORED the round ends: it is complete if every result is 0, and L is then its step (R475). -/
theorem takeMirrored_ends (hn : m.groupSize g ≤ m.belay.results.length + 1) :
    let t := m.takeMirrored g rank round v
    let l := if v = 0 ∧ m.belay.results.all (fun r => decide (r.2 = 0)) = true then m.belay.roundStep else (m.rd Reg.BELAY_ROUND).toNat
    ∃ b, t.belay.roundOpen = false ∧ (b = true ↔ v = 0 ∧ ∀ r ∈ m.belay.results, r.2 = 0) ∧
      t.group.loop = m.group.loop ++ [{ group := g, body := .roundEnd round b l }] ∧ t.mem = m.mem := by
  intro t l
  let b := (m.belay.results ++ [(rank, v)]).all (fun r => decide (r.2 = 0))
  have hb : b = true ↔ v = 0 ∧ m.belay.results.all (fun r => decide (r.2 = 0)) = true := by
    simp only [b, List.all_append, List.all_cons, List.all_nil, Bool.and_true, Bool.and_eq_true, decide_eq_true_eq]
    exact and_comm
  have hl : (if b = true then m.belay.roundStep else (m.rd Reg.BELAY_ROUND).toNat) = l := if_congr hb rfl rfl
  have ht : t = (roundOver m rank v).flood g (.roundEnd round b l) := by
    rw [← hl]
    exact (takeMirrored_counted hm hc).trans (if_neg (by rw [List.length_append]; exact Nat.not_lt.mpr hn))
  obtain ⟨seen, sent, hflood⟩ := flood_parts (roundOver m rank v) g (.roundEnd round b l)
  rw [ht, hflood]
  exact ⟨b, rfl, hb.trans (and_congr_right fun _ => by simp), rfl, rfl⟩

end

/-- ROUND_END: L is known, memory is kept, and at the master every snapshot has its final reply (R470, R475, R483). -/
theorem takeRoundEnd_ends (m : Mach) (g round : Nat) (complete : Bool) (l : Nat) :
    let t := m.takeRoundEnd g round complete l
    t.rd Reg.BELAY_ROUND = BitVec.ofNat 32 l ∧ t.mem = m.mem ∧ (m.isMaster g = true → round = m.belay.round → t.belay.snapshots = [] ∧
      ∀ q ∈ m.belay.snapshots, t.replied Op.belaySnapshot q.2.1 q.2.2 St.done) := by
  intro t
  obtain ⟨⟨c, b, hq, -, -⟩, hrd⟩ := roundEnded_parts m l
  have hmem : (roundEnded m l).mem = m.mem := by rw [hq]
  by_cases h : m.isMaster g = true ∧ round = m.belay.round
  · have ht : t = _ := takeRoundEnd_master h.1 h.2
    have hlink := endSnapshots_link (roundCode (roundEnded m l) complete) m.belay.snapshots
      { roundEnded m l with belay := { (roundEnded m l).belay with snapshots := [] } }
    rw [← ht] at hlink
    refine ⟨(hlink.field (g := fun m => m.rd Reg.BELAY_ROUND) fun _ _ _ => rfl).trans hrd, (hlink.field (g := Mach.mem) fun _ _ _ => rfl).trans hmem,
      fun _ _ => ⟨hlink.field (g := fun m => m.belay.snapshots) fun _ _ _ => rfl, ?_⟩⟩
    rw [ht]
    exact endSnapshots_replied _ _ _
  · have ht : t = roundEnded m l := takeRoundEnd_member h
    rw [ht]
    exact ⟨hrd, hmem, fun hm hr => absurd ⟨hm, hr⟩ h⟩

end

/-- Settles O52: each row is its rule's cases, and the steps between are the operations of Belay's above. -/
theorem mirrorRounds : Obligations.MirrorRounds := by
  unfold Obligations.MirrorRounds
  intro status held
  refine ⟨fun s g round k l ecc c x hs _ hc hx hmsg hm => ?_, fun s hs => ⟨fun hr => ?_, fun r p hr hp => freeze_ends ?_ hr hp⟩,
    fun s src round k size serial units => ?_,
    fun s => ⟨fun h => ?_, fun p l x hp hl hx he => ⟨fun src round u po da h => ?_, fun u po da hu hg => ?_, ?_⟩⟩,
    fun s e h => run_to (catchUpDone_other h), fun s e p x u hp hx hl hcu => ?_, fun s g rank round v hmsg hm => ?_, fun s g round l b hmsg => ?_⟩
  · -- MIRROR
    obtain ⟨-, -, -, h12, -⟩ := (shaped_iff _).mp hs
    intro run rest tells
    refine ⟨fun hf => run_own hmsg (takeMirror_frozen hc hx hf), fun hf hp => ?_, fun p hf hp hpc hb => ⟨fun hnone => ?_, fun hsome => ?_⟩⟩
    · exact ⟨_, _, run_own hmsg (takeMirror_answers hc hx hm hf hp), rfl, rfl, rfl, rfl, Mach.rd_wr_same ..⟩
    · obtain ⟨hend, htells⟩ := takeMirror_noPath (round := round) (k := k) (l := l) (e := ecc)
        (m := { s.toMach with group := { s.group with loop := rest } }) hc hx hm hf hp hpc hb hnone
      exact ⟨_, run_own hmsg rfl, congrArg BelaySt.mirror hend.belay, htells, hend.result (by decide), hend.bytes.trans frozenAt_bytes⟩
    · obtain ⟨hsend, size, units, hopen⟩ := takeMirror_leaves (round := round) (k := k) (l := l) (e := ecc)
        (m := { s.toMach with group := { s.group with loop := rest } }) hc hx hf hp hpc hb hsome
      obtain ⟨hmirror, hstate, hbytes⟩ := hsend.shown
      exact ⟨_, size, units, run_own hmsg rfl, hmirror, hstate, hopen, hbytes, fun e he => hsend.stack h12 he⟩
  · -- No freeze is in force.
    exact ⟨run_to (noFreeze_unchanged hr 0 0 0).1, fun a b v => run_to (noFreeze_unchanged hr a b v).2⟩
  · obtain ⟨-, -, -, h12, -⟩ := (shaped_iff _).mp hs
    exact h12
  · -- MIRROR_OPEN
    refine ⟨fun h => run_to (mirrorOpen_refused h),
      fun p hsrc hp hw => ⟨fun hsize => run_to (mirrorOpen_full hsrc hp hw hsize), fun x hsize hx => ?_⟩⟩
    obtain ⟨he, hfree⟩ := targetSlot_free s.toMach
    exact ⟨_, targetSlot s.toMach, run_to rfl, he, hfree, mirrorOpen_lands hsrc hp hw hsize hx⟩
  · -- Nothing lands.
    exact ⟨run_to (noLanding_unchanged h 0 0 0 [] []).1, fun a b u po da => run_to (noLanding_unchanged h a b u po da).2⟩
  · exact run_to (mirrorData_refused hp hl h)
  · exact ⟨_, run_to (mirrorData_lands hp hl hx hu hg), rfl, rfl⟩
  · -- SLOT_COMMIT
    exact ⟨fun hw => run_to ((slotCommit_eq hp hl hx).trans (if_neg hw)), fun hw => ⟨_, run_to rfl, slotCommit_commits hp hl hx he hw.1 hw.2⟩⟩
  · exact ⟨_, run_to rfl, catchUpDone_lands hp hx hl hcu⟩
  · -- MIRRORED at the master
    intro run rest counts all l
    refine ⟨fun hn => run_own hmsg (takeMirrored_ignored hm hn),
      fun hc hn => ⟨_, run_own hmsg (takeMirrored_noted hm hc hn), rfl, rfl, rfl, rfl⟩, fun hc hn => ?_⟩
    obtain ⟨b, hends⟩ := takeMirrored_ends (m := { s.toMach with group := { s.group with loop := rest } }) (v := v) hm hc hn
    exact ⟨_, b, run_own hmsg rfl, hends⟩
  · exact ⟨_, run_own hmsg rfl, takeRoundEnd_ends ..⟩

end Sys2Proof.Laws
end


section
namespace Sys2Proof.Laws

open Sys2Proof.Machine

/-!
# The host's Belay commands and a restore (R480 to R483)

Each command is a chain of refusals in the table's order; what is taken up of its packet is read by none of them. A restore's frames wait in
Belay's own state; at the last one the range regions are written, then the record is loaded, then its Tarn state is written, and the restore is over.
-/

section

variable {m q : Mach} {h : Hdr} {x : Ctx}

theorem dataUp_congr (hr : q.rd Reg.SWITE_STATUS = m.rd Reg.SWITE_STATUS) : q.dataUp = m.dataUp := by
  rw [Mach.dataUp, Mach.rdF, hr, Mach.dataUp, Mach.rdF]

/-! ### Taking a packet up changes nothing that Belay reads -/

theorem took_belay (m : Mach) (op : Nat) (h : Hdr) : (m.took op h).belay = m.belay := took_field Mach.belay (fun _ _ _ => rfl) m op h

theorem took_belayAllowed (m : Mach) (op : Nat) (h : Hdr) : (m.took op h).belayAllowed h.ctx = m.belayAllowed h.ctx :=
  took_field (fun m => m.belayAllowed h.ctx) (fun _ _ _ => rfl) m op h

theorem took_stepState (m : Mach) (op : Nat) (h : Hdr) : (m.took op h).stepState h.ctx = m.stepState h.ctx :=
  took_field (fun m => m.stepState h.ctx) (fun _ _ _ => rfl) m op h

/-! ### BELAY_PLAN (R482) -/

/-- What makes BELAY_PLAN wait its time: a step, a round, a mirror or a restore. -/
abbrev PlanTaken (m : Mach) (c : Nat) : Prop :=
  m.stepState c ≠ 0 ∨ m.belay.roundOpen = true ∨ m.belay.mirror.isSome = true ∨ m.belay.restoring.isSome = true

/-- A plan that sends a region touching Ledge as its dirty frames. -/
abbrev DirtyLedge (x : Ctx) (p : BelayPlan) : Prop := ∃ r ∈ p.regions, r.method = 2 ∧ x.touchesLedge r = true

theorem any_dirtyLedge {p : BelayPlan} : p.regions.any (fun r => decide (r.method = 2) && x.touchesLedge r) = true ↔ DirtyLedge x p := by simp

/-- The module with another plan in force: Belay idle, its slots shown. -/
def planned (m : Mach) (b : BelaySt) : Mach := (({ m with belay := b } : Mach).setBelayState 1).showSlots

theorem planned_regs (m : Mach) (b : BelaySt) : RegsOnly { m with belay := b } (planned m b) := by
  obtain ⟨_, hv⟩ := showSlots_regs (({ m with belay := b } : Mach).setBelayState 1)
  exact ⟨_, hv⟩

theorem planned_belay (m : Mach) (b : BelaySt) : (planned m b).belay = b := by
  obtain ⟨_, hv⟩ := planned_regs m b
  rw [hv]

theorem planned_state (m : Mach) (b : BelaySt) : (planned m b).rdF Reg.BELAY_STATUS Fld.BELAY_STATUS_STATE = 1 :=
  (showSlots_state _).trans (setBelayState_state (by decide))

theorem planned_dataUp (m : Mach) (b : BelaySt) : (planned m b).dataUp = m.dataUp :=
  dataUp_congr ((rd_showSlots (by decide) (.inr (by decide))).trans (rd_setBelayState 1 (by decide)))

section

variable {payload : List Byte} (hx : m.ctx h.ctx = some x)

include hx

theorem belayPlan_notPermitted (ha : m.belayAllowed h.ctx = false) : belayPlanBody h payload m = m.answer h Op.belayPlan St.notPermitted := by
  unfold belayPlanBody
  rw [hx]
  exact if_pos (by simp [ha])

variable (ha : m.belayAllowed h.ctx = true)

include ha

theorem belayPlan_busy (ht : PlanTaken m h.ctx) : belayPlanBody h payload m = m.answer h Op.belayPlan St.busy := by
  unfold belayPlanBody
  rw [hx]
  exact (if_neg (by simp [ha])).trans (if_pos ht)

variable (ht : ¬ PlanTaken m h.ctx)

include ht

theorem belayPlan_malformed (hp : belayPlanCheck payload h.ctx = none) : belayPlanBody h payload m = m.answer h Op.belayPlan St.badParam := by
  unfold belayPlanBody
  rw [hx]
  refine (if_neg (by simp [ha])).trans ((if_neg ht).trans ?_)
  rw [hp]

variable {p : BelayPlan} (hp : belayPlanCheck payload h.ctx = some p)

include hp

theorem belayPlan_dirtyLedge (hd : DirtyLedge x p) : belayPlanBody h payload m = m.answer h Op.belayPlan St.badParam := by
  unfold belayPlanBody
  rw [hx]
  refine (if_neg (by simp [ha])).trans ((if_neg ht).trans ?_)
  rw [hp]
  exact if_pos (any_dirtyLedge.mpr hd)

/-- The plan in force, and the buddy's slot forgotten with another buddy. -/
theorem belayPlan_done (hd : ¬ DirtyLedge x p) : ∃ b : BelaySt, belayPlanBody h payload m = (planned m b).answer h Op.belayPlan St.done ∧
    b.plan = some p ∧ (m.belay.lastBuddy ≠ some p.buddy → b.buddyHasSlot = false) := by
  unfold belayPlanBody
  rw [hx, hp]
  exact ⟨_, (if_neg (by simp [ha])).trans ((if_neg ht).trans (if_neg (any_dirtyLedge.not.mpr hd))), rfl, fun hb => by simp [hb]⟩

end

/-! ### BELAY_SNAPSHOT (R483) -/

theorem belaySnapshot_notPermitted (hno : ¬ (m.belayAllowed h.ctx = true ∧ m.isMaster (m.groupOf h.ctx) = true)) :
    belaySnapshotBody h m = m.answer h Op.belaySnapshot St.notPermitted :=
  if_pos (by simpa [imp_iff_not_or] using hno)

theorem belaySnapshot_waits (ha : m.belayAllowed h.ctx = true) (hm : m.isMaster (m.groupOf h.ctx) = true) : belaySnapshotBody h m =
    ({ m with belay := { m.belay with snapshots := m.belay.snapshots ++ [(h.lane, h.ctx, h.tag)] } } : Mach).begin h Op.belaySnapshot :=
  if_neg (by simp [ha, hm])

/-! ### BELAY_RESTORE (R480, R481) -/

/-- What makes BELAY_RESTORE wait its time: the context's own use, another restore or a mirror. -/
abbrev RestoreTaken (m : Mach) (c : Nat) : Prop :=
  m.stepState c ≠ 0 ∨ (∃ y ∈ m.streams, y.ctx = c) ∨ m.belay.restoring.isSome = true ∨ m.belay.mirror.isSome = true

/-- A record that names a Tarn slot which another context owns. -/
abbrev ForeignProg (m : Mach) (c : Nat) (r : CtxRecord) : Prop :=
  ∃ u ∈ r.regs, u.kind = 1 ∧ m.rdF (Reg.FOOTHILL_TARN_PROG u.stack u.slot) Fld.FOOTHILL_TARN_PROG_VALID = 1 ∧
    m.ownsProg u.stack u.slot c = false

/-- A record whose plan has the regions of the plan in force. -/
def SameRegions (r : CtxRecord) (p : BelayPlan) : Prop := ∃ o, r.plan = some o ∧ sameRegions o.regions p.regions = true

theorem restoreTaken_iff {c : Nat} : (m.stepState c ≠ 0 ∨ m.streams.any (fun s => decide (s.ctx = c)) = true ∨
    m.belay.restoring.isSome = true ∨ m.belay.mirror.isSome = true) ↔ RestoreTaken m c := by simp [RestoreTaken]

section

variable {k : Nat} {record : List Byte} (hx : m.ctx h.ctx = some x)

include hx

theorem belayRestore_notPermitted (ha : m.belayAllowed h.ctx = false) :
    belayRestoreBody h k record m = m.answer h Op.belayRestore St.notPermitted := by
  unfold belayRestoreBody
  rw [hx]
  exact if_pos (by simp [ha])

variable (ha : m.belayAllowed h.ctx = true)

include ha

theorem belayRestore_busy (ht : RestoreTaken m h.ctx) : belayRestoreBody h k record m = m.answer h Op.belayRestore St.busy := by
  unfold belayRestoreBody
  rw [hx]
  exact (if_neg (by simp [ha])).trans (if_pos (restoreTaken_iff.mpr ht))

variable (ht : ¬ RestoreTaken m h.ctx)

include ht

theorem belayRestore_noRecord (hr : record = [] ∨ (CtxRecord.ofBytes record).step ≠ k ∨ m.belay.plan = none) :
    belayRestoreBody h k record m = m.answer h Op.belayRestore St.badParam := by
  unfold belayRestoreBody
  rw [hx]
  refine (if_neg (by simp [ha])).trans ((if_neg (restoreTaken_iff.not.mpr ht)).trans ?_)
  by_cases hstep : record = [] ∨ (CtxRecord.ofBytes record).step ≠ k
  · exact if_pos hstep
  · have hplan : m.belay.plan = none := (or_assoc.mpr hr).resolve_left hstep
    exact (if_neg hstep).trans (if_pos (.inl (by simp [hplan])))

variable {p : BelayPlan} (hr : record ≠ []) (hk : (CtxRecord.ofBytes record).step = k) (hp : m.belay.plan = some p)

include hr hk hp

open Classical in
/-- With a record of the step, the regions and the Tarn slots decide. -/
theorem belayRestore_checked : belayRestoreBody h k record m =
    if ¬ SameRegions (CtxRecord.ofBytes record) p then m.answer h Op.belayRestore St.badParam
    else if ∃ y ∈ p.regions, x.unmapped y = true then m.answer h Op.belayRestore St.translationFault
    else if ForeignProg m h.ctx (CtxRecord.ofBytes record) then m.answer h Op.belayRestore St.notPermitted
    else (({ m with belay := { m.belay with
        restoring := some { step := k, record := record, got := [], lane := h.lane, tag := h.tag, ctx := h.ctx } } } : Mach).setBelayState 3).begin h
      Op.belayRestore := by
  have hstep : ¬ (record = [] ∨ (CtxRecord.ofBytes record).step ≠ k) := not_or.mpr ⟨hr, not_not.mpr hk⟩
  unfold belayRestoreBody
  rw [hx]
  refine (if_neg (by simp [ha])).trans ((if_neg (restoreTaken_iff.not.mpr ht)).trans ((if_neg hstep).trans ?_))
  rw [hp]
  refine if_congr ?_ rfl (if_congr List.any_eq_true rfl (if_congr ?_ rfl rfl))
  · rw [SameRegions]
    cases (CtxRecord.ofBytes record).plan with
    | none => simp
    | some o => simp
  · simp [ForeignProg, and_assoc]

end

end

/-! ### A restore's frames (R480, R481) -/

section

variable {m q : Mach} {x : Ctx} {p : BelayPlan} {w : RestoreSt} {status : Nat}

theorem landAt_work {vas : List Nat} {data : List Byte} {poison : List Nat} (h : MemoryWork m q) : MemoryWork m (q.landAt x vas data poison) :=
  foldl_keeps (MemoryWork m) _ (fun _ _ h => h.setPoison) _ _ (foldl_keeps (MemoryWork m) _ (fun _ _ h => h.writeVa) _ _ h)

theorem landRegion_work {c off : Nat} {r : Region} {got : List (Nat × List Byte × List Nat)} (h : MemoryWork m q) :
    MemoryWork m (q.landRegion x c off r got) :=
  foldl_keeps (MemoryWork m) _ (fun _ _ h => landAt_work h) _ _ h

/-- A list of regions landed, each at its offset in the slot. -/
def landRegions (x : Ctx) (c : Nat) (got : List (Nat × List Byte × List Nat)) (l : List (Nat × Region)) (m : Mach) : Mach :=
  l.foldl (fun m r => m.landRegion x c r.1 r.2 got) m

theorem landRegions_work (x : Ctx) (c : Nat) (got : List (Nat × List Byte × List Nat)) (l : List (Nat × Region)) (m : Mach) :
    MemoryWork m (landRegions x c got l m) :=
  foldl_keeps (MemoryWork m) _ (fun _ _ h => landRegion_work h) _ _ (.refl m)

theorem undefinedRegions_field {β : Type} {f : Mach → β}
    (hf : ∀ m n μ c ev v, f { m with draws := n, mem := μ, csr := c, swite := { m.swite with events := ev }, survey := v } = f m)
    (m : Mach) (x : Ctx) (c : Nat) (l : List Region) : f (m.undefinedRegions x c l) = f m := by
  have hwork : MemoryWork m (l.foldl (fun m r => (m.regionBytes x c r).foldl (fun m va => m.writeVa x va [Config.unreadByte m.draws va]) m) m) :=
    foldl_keeps (MemoryWork m) _ (fun _ _ h => foldl_keeps (MemoryWork m) _ (fun _ _ h => h.writeVa) _ _ h) _ _ (.refl m)
  obtain ⟨μ, csr, ev, v, hq⟩ := hwork.parts
  rw [Mach.undefinedRegions, hq]
  exact hf m _ μ csr ev v

/-- The module with no restore under way, and Belay idle. -/
def restoreOver (m : Mach) : Mach := ({ m with belay := { m.belay with restoring := none } } : Mach).setBelayState 1

theorem endRestore_link (m : Mach) (w : RestoreSt) (status : Nat) : LinkOnly (restoreOver m) (m.endRestore w status) := finish_linkOnly ..

/-- What the end of a restore leaves: the reply is sent, and Belay's registers alone are written. -/
theorem endRestore_ends (m : Mach) (w : RestoreSt) (status : Nat) : (m.endRestore w status).belay.restoring = none ∧
    (m.endRestore w status).replied Op.belayRestore w.ctx w.tag status ∧
    (m.endRestore w status).rdF Reg.BELAY_STATUS Fld.BELAY_STATUS_STATE = 1 ∧ (m.endRestore w status).ctxs = m.ctxs ∧
    (m.endRestore w status).mem = m.mem ∧ ∀ a, a ≠ Reg.BELAY_STATUS → (m.endRestore w status).rd a = m.rd a := by
  have hlink := endRestore_link m w status
  refine ⟨hlink.field (g := fun m => m.belay.restoring) fun _ _ _ => rfl, finish_replied .., ?_,
    (hlink.field (g := Mach.ctxs) fun _ _ _ => rfl).trans rfl, (hlink.field (g := Mach.mem) fun _ _ _ => rfl).trans rfl,
    fun a ha => (hlink.field (g := fun m => m.rd a) fun _ _ _ => rfl).trans (rd_setBelayState 1 ha)⟩
  exact (hlink.field (g := fun m => m.rdF Reg.BELAY_STATUS Fld.BELAY_STATUS_STATE) fun _ _ _ => rfl).trans (setBelayState_state (by decide))

/-- The Tarn registers of a record written. -/
def tarnLoaded (m : Mach) (c : Nat) (l : List TarnReg) : Mach :=
  l.foldl (fun m t => m.wr (t.addr c) (if t.kind = 1 then Word.setF (BitVec.ofNat 32 t.value) Fld.FOOTHILL_TARN_PROG_CONTEXT c
    else BitVec.ofNat 32 t.value)) m

theorem tarnLoaded_regs (m : Mach) (c : Nat) (l : List TarnReg) : RegsOnly m (tarnLoaded m c l) :=
  foldl_keeps (RegsOnly m) _ (fun _ _ h => h.wr) _ _ (.refl m)

/-- What a loaded record leaves: its descriptors and its step, no step open, and memory as it was. -/
theorem loadRecord_loads (m : Mach) {c : Nat} (r : CtxRecord) (hx : m.ctx c = some x) :
    (m.loadRecord c r).ctx c = some { x with descs := r.descs } ∧
    (m.loadRecord c r).rd (Reg.TRAVERSE_CLOSED_STEP c) = BitVec.ofNat 32 r.step ∧ (m.loadRecord c r).stepState c = 0 ∧
      (m.loadRecord c r).mem = m.mem := by
  have hload : m.loadRecord c r = ((((tarnLoaded (m.updCtx c (fun x => { x with descs := r.descs })) c r.regs).wr (Reg.TRAVERSE_CLIP_CFG_MAX c)
    (BitVec.ofNat 32 r.clipMax)).wr (Reg.TRAVERSE_CLIP_CFG_SCALE c) (BitVec.ofNat 32 r.clipScale)).wr (Reg.TRAVERSE_CLOSED_STEP c)
    (BitVec.ofNat 32 r.step)).setStepState c 0 := rfl
  have hregs : RegsOnly (m.updCtx c (fun x => { x with descs := r.descs })) (m.loadRecord c r) := hload ▸ (tarnLoaded_regs ..).wr.wr.wr.wrF
  refine ⟨?_, ?_, ?_, hregs.mem.trans (Mach.updCtx_mem ..)⟩
  · rw [Mach.ctx, hregs.ctxs]
    exact ctx_updCtx_same hx _
  · rw [hload]
    exact (Mach.rd_wrF_other _ _ _ _ _ (by unfold Reg.TRAVERSE_CLOSED_STEP Reg.TRAVERSE_STEP_STATUS; omega)).trans (Mach.rd_wr_same ..)
  · rw [hload]
    exact Mach.rdF_wrF_same _ _ _ _ (by decide)

/-- The module once every frame of a restore is there: the range regions, then the record, then the Tarn-state region (R480). -/
def restored (m : Mach) (x : Ctx) (p : BelayPlan) (w : RestoreSt) : Mach :=
  let r := CtxRecord.ofBytes w.record
  let q := (landRegions x w.ctx w.got ((m.regionOffsets x p).filter (fun r => !r.2.tarn)) m).loadRecord w.ctx r
  landRegions { x with descs := r.descs } w.ctx w.got ((q.regionOffsets { x with descs := r.descs } p).filter (fun r => r.2.tarn)) q

theorem restored_leaves (hx : m.ctx w.ctx = some x) (hc : w.ctx < 16) :
    (restored m x p w).ctx w.ctx = some { x with descs := (CtxRecord.ofBytes w.record).descs } ∧
    (restored m x p w).rd (Reg.TRAVERSE_CLOSED_STEP w.ctx) = BitVec.ofNat 32 (CtxRecord.ofBytes w.record).step ∧
    (restored m x p w).stepState w.ctx = 0 := by
  have hland := landRegions_work x w.ctx w.got ((m.regionOffsets x p).filter (fun r => !r.2.tarn)) m
  have hx' : (landRegions x w.ctx w.got ((m.regionOffsets x p).filter (fun r => !r.2.tarn)) m).ctx w.ctx = some x :=
    (hland.field (f := fun m => m.ctx w.ctx) fun _ _ _ _ _ => rfl).trans hx
  obtain ⟨hctx, hclosed, hstep, -⟩ := loadRecord_loads _ (CtxRecord.ofBytes w.record) hx'
  have htarn : MemoryWork _ (restored m x p w) := landRegions_work ..
  refine ⟨(htarn.field (f := fun m => m.ctx w.ctx) fun _ _ _ _ _ => rfl).trans hctx, (htarn.rd _ ?_).trans hclosed, ?_⟩
  · unfold memoryReg Reg.MODULE_TROUBLE Reg.TRAVERSE_CLOSED_STEP
    omega
  · rw [Mach.stepState, Mach.rdF, htarn.rd]
    · exact hstep
    · unfold memoryReg Reg.MODULE_TROUBLE Reg.TRAVERSE_STEP_STATUS
      omega

theorem restored_noRegions (hx : m.ctx w.ctx = some x) (h : p.regions = []) : (restored m x p w).mem = m.mem := by
  have hoff : ∀ (q : Mach) y, q.regionOffsets y p = [] := fun q y => by rw [Mach.regionOffsets, h]; rfl
  simp only [restored, hoff, List.filter_nil, landRegions, List.foldl_nil]
  obtain ⟨-, -, -, hmem⟩ := loadRecord_loads m (CtxRecord.ofBytes w.record) hx
  exact hmem

theorem restored_oneRange {g : Region} (hx : m.ctx w.ctx = some x) (h : p.regions = [g]) (ht : g.tarn = false) :
    (restored m x p w).mem = (m.landRegion x w.ctx 129 g w.got).mem := by
  have hoff : ∀ (q : Mach) y, q.regionOffsets y p = [(129, g)] := fun q y => by rw [Mach.regionOffsets, h]; rfl
  have hx' : (m.landRegion x w.ctx 129 g w.got).ctx w.ctx = some x :=
    ((landRegion_work (.refl m)).field (f := fun m => m.ctx w.ctx) fun _ _ _ _ _ => rfl).trans hx
  obtain ⟨-, -, -, hmem⟩ := loadRecord_loads _ (CtxRecord.ofBytes w.record) hx'
  simp only [restored, hoff, List.filter_cons, ht, Bool.not_false, if_true, Bool.false_eq_true, if_false, List.filter_nil, landRegions,
    List.foldl_cons, List.foldl_nil]
  exact hmem

section

variable {u : Nat} {poison : List Nat} {data : List Byte} {last lost : Bool}

theorem restoreFrame_idle (h : m.belay.restoring = none ∨ m.belay.plan = none) : restoreFrame u poison data last lost m = m := by
  unfold restoreFrame
  split
  · next hw hp => exact absurd h (by simp [hw, hp])
  · rfl

variable (hw : m.belay.restoring = some w) (hp : m.belay.plan = some p) (hx : m.ctx w.ctx = some x)

include hw hp hx

theorem restoreFrame_lost : restoreFrame u poison data last true m = (m.undefinedRegions x w.ctx p.regions).endRestore w St.linkDown := by
  unfold restoreFrame
  rw [hw, hp]
  simp only [hx, if_true]

theorem restoreFrame_more : restoreFrame u poison data false false m =
    { m with belay := { m.belay with restoring := some { w with got := w.got ++ [(u, data, poison)] } } } := by
  unfold restoreFrame
  rw [hw, hp]
  simp only [hx, Bool.false_eq_true, if_false, Bool.not_false, if_true]

theorem restoreFrame_last : restoreFrame u poison data true false m =
    ({ restored m x p { w with got := w.got ++ [(u, data, poison)] } with
      belay := { (restored m x p { w with got := w.got ++ [(u, data, poison)] }).belay with sinceRound := w.step } } : Mach).endRestore
        { w with got := w.got ++ [(u, data, poison)] } St.done := by
  have hx₁ : (landRegions x w.ctx (w.got ++ [(u, data, poison)]) ((m.regionOffsets x p).filter (fun r => !r.2.tarn)) m).ctx w.ctx = some x :=
    ((landRegions_work ..).field (f := fun m => m.ctx w.ctx) fun _ _ _ _ _ => rfl).trans hx
  have hx₂ := (loadRecord_loads _ (CtxRecord.ofBytes w.record) hx₁).1
  unfold landRegions at hx₂
  unfold restoreFrame
  rw [hw, hp]
  simp only [hx, Bool.false_eq_true, if_false, Bool.not_true, hx₂]
  rfl

end

end

/-- Settles O51: the refusals of each command come in its rule's order, and a restore ends with its regions landed and its record loaded. -/
theorem belayCommands : Obligations.BelayCommands := by
  unfold Obligations.BelayCommands
  refine ⟨fun s h x _ hx => ⟨fun payload hb => ?_, fun hb => ?_, fun k record hb => ?_⟩, fun s u poison data last lost hs => ?_⟩
  · -- BELAY_PLAN
    intro q run taken dirtyLedge
    have hqx : q.ctx h.ctx = some x := (took_ctx ..).trans hx
    have hqb : q.belay = s.belay := took_belay ..
    have hqa : q.belayAllowed h.ctx = s.belayAllowed h.ctx := took_belayAllowed ..
    have htaken : PlanTaken q h.ctx ↔ taken := by rw [PlanTaken, hqb, took_stepState]
    refine ⟨fun ha => command_gives hb (belayPlan_notPermitted hqx (hqa.trans ha)),
      fun ha ht => command_gives hb (belayPlan_busy hqx (hqa.trans ha) (htaken.mpr ht)), fun ha ht hbad => ?_, fun p ha ht hp hd => ?_⟩
    · rcases hbad with hp | ⟨p, hp, hd⟩
      · exact command_gives hb (belayPlan_malformed hqx (hqa.trans ha) (htaken.not.mpr ht) hp)
      · exact command_gives hb (belayPlan_dirtyLedge hqx (hqa.trans ha) (htaken.not.mpr ht) hp hd)
    · obtain ⟨b, hrun, hplan, hbuddy⟩ := belayPlan_done hqx (hqa.trans ha) (htaken.not.mpr ht) hp hd
      have hup : (planned q b).dataUp = s.dataUp := (planned_dataUp q b).trans (took_dataUp ..)
      have hreplies : ((planned q b).answer h Op.belayPlan St.done).swite.replies = s.swite.replies ++
          [replyOf h.prio h.lane h.ctx h.tag Op.belayPlan St.done 0 [] true] := by
        rw [Mach.answer, send_replies ((begins_dataUp hb).imp_right (hup.trans ·)), (planned_regs q b).swite]
        exact congrArg (· ++ _) (took_replies ..)
      have hbelay : ((planned q b).answer h Op.belayPlan St.done).belay = b := (Mach.send_belay ..).trans (planned_belay q b)
      refine ⟨_, _, command_gives hb hrun, ?_, ?_, ?_, ?_, fun hne => ?_, hreplies, rfl, rfl⟩
      · exact (congrArg BelaySt.plan hbelay).trans hplan
      · exact (Mach.rdF_congr _ _ _ _ (Mach.send_csr ..)).trans (planned_state q b)
      · exact (Mach.send_mem ..).trans ((planned_regs q b).mem.trans (took_mem _ Op.belayPlan h))
      · exact (Mach.send_ctxs ..).trans ((planned_regs q b).ctxs.trans (took_ctxs _ Op.belayPlan h))
      · exact (congrArg BelaySt.buddyHasSlot hbelay).trans (hbuddy (hqb.symm ▸ hne))
  · -- BELAY_SNAPSHOT
    intro q mine
    have hmine : (q.belayAllowed h.ctx = true ∧ q.isMaster (q.groupOf h.ctx) = true) ↔ mine := by rw [took_belayAllowed, took_isMaster]
    refine ⟨fun hno => command_gives hb (belaySnapshot_notPermitted (hmine.not.mpr hno)), fun hm => ?_⟩
    obtain ⟨ha, hmaster⟩ := hmine.mpr hm
    refine ⟨_, command_gives hb (belaySnapshot_waits ha hmaster), ?_,
      took_csr _ Op.belaySnapshot h, took_mem _ Op.belaySnapshot h, took_replies _ Op.belaySnapshot h⟩
    exact congrArg (fun b : BelaySt => b.snapshots ++ [(h.lane, h.ctx, h.tag)]) (took_belay ..)
  · -- BELAY_RESTORE
    intro q run no r taken
    have hqx : q.ctx h.ctx = some x := (took_ctx ..).trans hx
    have hqb : q.belay = s.belay := took_belay ..
    have hqa : q.belayAllowed h.ctx = s.belayAllowed h.ctx := took_belayAllowed ..
    have htaken : RestoreTaken q h.ctx ↔ taken := by rw [RestoreTaken, hqb, took_stepState, took_streams]
    refine ⟨fun ha => command_gives hb (belayRestore_notPermitted hqx (hqa.trans ha)),
      fun ha ht => command_gives hb (belayRestore_busy hqx (hqa.trans ha) (htaken.mpr ht)),
      fun ha ht hr => command_gives hb (belayRestore_noRecord hqx (hqa.trans ha) (htaken.not.mpr ht) (hqb.symm ▸ hr)), fun p ha ht hr hk hp => ?_⟩
    have hchecked := belayRestore_checked hqx (hqa.trans ha) (htaken.not.mpr ht) hr hk (hqb.symm ▸ hp)
    intro same unmapped foreign
    have hforeign : ForeignProg q h.ctx r ↔ foreign :=
      took_field (fun m => ForeignProg m h.ctx r) (fun _ _ _ => rfl) s.toMach Op.belayRestore h ▸ Iff.rfl
    have hsame (hs : same) := hchecked.trans (if_neg (not_not.mpr hs))
    have hmapped (hs : same) (hu : ¬ unmapped) := (hsame hs).trans (if_neg hu)
    refine ⟨fun hs => command_gives hb (hchecked.trans (if_pos hs)), fun hs hu => command_gives hb ((hsame hs).trans (if_pos hu)),
      fun hs hu hf => command_gives hb ((hmapped hs hu).trans (if_pos (hforeign.mpr hf))), fun hs hu hf => ?_⟩
    exact ⟨_, command_gives hb ((hmapped hs hu).trans (if_neg (hforeign.not.mpr hf))),
      took_mem _ Op.belayRestore h, took_ctxs _ Op.belayRestore h, took_replies _ Op.belayRestore h, setBelayState_state (by decide), rfl⟩
  · -- RESTORE_FRAME
    intro run
    refine ⟨fun h => run_to (restoreFrame_idle h), fun w p x hw hp hx hc => ?_⟩
    intro got r
    refine ⟨fun hlost => ?_, fun hlost hlast => ?_, fun hlost hlast => ?_⟩
    · subst hlost
      obtain ⟨hidle, hreply, hstate, hctxs, -, -⟩ := endRestore_ends (s.undefinedRegions x w.ctx p.regions) w St.linkDown
      have hkept := undefinedRegions_field (f := Mach.ctxs) (fun _ _ _ _ _ _ => rfl) s.toMach x w.ctx p.regions
      exact ⟨_, run_to (restoreFrame_lost hw hp hx), hidle, hreply, hctxs.trans hkept, hstate⟩
    · subst hlost hlast
      exact run_to (restoreFrame_more hw hp hx)
    · subst hlost hlast
      let v : RestoreSt := { w with got := got }
      obtain ⟨hctx, hclosed, hstep⟩ := restored_leaves (m := s.toMach) (p := p) (w := v) hx hc
      obtain ⟨hidle, hreply, -, hctxs, hmem, hrd⟩ := endRestore_ends
        { restored s.toMach x p v with belay := { (restored s.toMach x p v).belay with sinceRound := w.step } } v St.done
      refine ⟨_, { x with descs := r.descs }, run_to (restoreFrame_last hw hp hx), hidle, hreply, (hrd _ ?_).trans hclosed, ?_, ?_, rfl, rfl,
        fun hnone => hmem.trans (restored_noRegions (w := v) hx hnone), fun g hg ht => hmem.trans (restored_oneRange (w := v) hx hg ht)⟩
      · unfold Reg.TRAVERSE_CLOSED_STEP Reg.BELAY_STATUS
        omega
      · have hstatus : Reg.TRAVERSE_STEP_STATUS w.ctx ≠ Reg.BELAY_STATUS := by
          unfold Reg.TRAVERSE_STEP_STATUS Reg.BELAY_STATUS
          omega
        exact (congrArg (Word.getF · Fld.TRAVERSE_STEP_STATUS_STATE) (hrd _ hstatus)).trans hstep
      · exact (congrArg (·.getD w.ctx none) hctxs).trans hctx

end Sys2Proof.Laws
end
